-- ==== Sys2Proof/Word.lean ====
section
/-! DEFINITION. The word types of the device and their plainest names (R7, R9, R92, R205, R220). -/

namespace Sys2Proof

/-- One byte of memory. -/
abbrev Byte := BitVec 8
/-- A 32-bit register or data word. -/
abbrev W32 := BitVec 32
/-- A 64-bit register, scalar register or counter. -/
abbrev W64 := BitVec 64
/-- A Twiex instruction word (R205). -/
abbrev W128 := BitVec 128
/-- The 64 bytes of a coherence line (R76), a tensor descriptor (R220) or a 64-byte record. -/
abbrev Line := BitVec 512

end Sys2Proof
end

