-- ==== Sys2Proof/Types.lean ====
section
/-! DEFINITION. Indices and small types shared by commands and state (R16, R17, R27, R35, R36, R52, R62, R202). -/

namespace Sys2Proof

/-- A region r (R16). -/
abbrev Region := Fin 12
/-- A far channel f, in region f (R16). -/
abbrev Chan := Fin 12
/-- A block b = 8 r + k (R16). -/
abbrev Block := Fin 96
/-- A logical cell c = 128 r + 16 k + s (R16). -/
abbrev Cell := Fin 1536
/-- A chip-to-chip link l (R16). -/
abbrev Link := Fin 24
/-- A host port. -/
abbrev Port := Fin 4
/-- A core cluster q (R16). -/
abbrev Cluster := Fin 16
/-- A caching agent (R17). -/
abbrev Agent := Fin 126
/-- A Colander engine e (R16). -/
abbrev Engine := Fin 32
/-- A requester code (R52). -/
abbrev ReqCode := Fin 256
/-- An activity class (R36). -/
abbrev ActClass := Fin 8

/-- The block of a cell. -/
def Cell.block (c : Cell) : Block := ⟨c.val / 16, by omega⟩
/-- The slot of a cell in its block. -/
def Cell.slot (c : Cell) : Nat := c.val % 16
/-- The region of a cell. -/
def Cell.region (c : Cell) : Region := ⟨c.val / 128, by omega⟩
/-- The region of a block. -/
def Block.region (b : Block) : Region := ⟨b.val / 8, by omega⟩
/-- The region whose logic die carries a link. -/
def Link.region (l : Link) : Region := ⟨l.val / 2, by omega⟩
/-- The cell in a slot of a block. -/
def Block.cell (b : Block) (slot : Fin 16) : Cell := ⟨b.val * 16 + slot.val, by omega⟩

/-- An executor of Twiex (R202). -/
inductive Executor where
  | seq (r : Region)
  | cell (c : Cell)
  deriving DecidableEq, Repr

/-- The region an executor belongs to. -/
def Executor.region : Executor → Region
  | .seq r => r
  | .cell c => c.region

/-- Whether an executor is a cell. -/
def Executor.isCell : Executor → Bool
  | .cell _ => true
  | .seq _ => false

/-- The cell of an executor; no engine instruction runs on a sequencer. -/
def Executor.cell? : Executor → Option Cell
  | .cell c => some c
  | .seq _ => none

/-- A number for each executor: the sequencers first. -/
def Executor.code : Executor → Nat
  | .seq r => r.val
  | .cell c => 12 + c.val

/-- The requester an executor's accesses are reported under: its caching agent (R17, R52). -/
def Executor.agent : Executor → Nat
  | .seq r => 112 + r.val
  | .cell c => c.block.val

/-- A requester that holds a select bank (R62). -/
inductive Bank where
  | host (p : Port)
  | cluster (q : Cluster)
  | seq (r : Region)
  | kettle
  deriving DecidableEq, Repr

/-- The number of a bank, 0 to 32. -/
def Bank.code : Bank → Nat
  | .host p => p.val
  | .cluster q => 4 + q.val
  | .seq r => 20 + r.val
  | .kettle => 32

/-- The requester code of a bank's owner (R52). -/
def Bank.req : Bank → Nat
  | .host p => 128 + p.val
  | .cluster q => 96 + q.val
  | .seq r => 112 + r.val
  | .kettle => 124

/-- Whether a bank belongs to a host port. -/
def Bank.isHost : Bank → Bool
  | .host _ => true
  | _ => false

/-- The power states of a block (R27). -/
inductive BlkState where
  | run | gated | nap | off
  deriving DecidableEq, Repr

/-- The encoding of R27. -/
def BlkState.code : BlkState → Nat
  | .run => 0
  | .gated => 1
  | .nap => 2
  | .off => 3

/-- The state an encoding of R27 stands for. -/
def BlkState.ofCode (n : Nat) : BlkState :=
  if n = 0 then .run else if n = 1 then .gated else if n = 2 then .nap else .off

/-- A budgeted resource (R35). -/
inductive BudgetRes where
  | via (r : Region)
  | far (f : Chan)
  | link (l : Link)
  | fabric (n : Fin 52)
  | pcie (p : Port)
  deriving DecidableEq, Repr

/-- The kind code of R35. -/
def BudgetRes.kind : BudgetRes → Nat
  | .via _ => 1
  | .far _ => 2
  | .link _ => 3
  | .fabric _ => 4
  | .pcie _ => 5

/-- The index within the kind (R35). -/
def BudgetRes.index : BudgetRes → Nat
  | .via r => r.val
  | .far f => f.val
  | .link l => l.val
  | .fabric n => n.val
  | .pcie p => p.val

/-- The instance number of a resource: BDG_SEL's two fields as one value. -/
def BudgetRes.code (b : BudgetRes) : Nat := b.kind * 256 + b.index

/-- A queue an instruction runs in: a cell's matrix, vector and move queues, a sequencer's DMA engine, collective
engine and codecs (R210), and the launches and loads a sequencer has in progress (R226, R227). -/
inductive QueueId where
  | matrix | vector | move | dma | coll | codec | launch (id : Nat)
  deriving DecidableEq, Repr

/-- Every ring of the device (R228; the ring registers of the chapters). -/
inductive RingId where
  | work (r : Region) (n : Fin 4)
  | completion (r : Region)
  | schedule (r : Region)
  | numeric (r : Region)
  | linkEvent (r : Region)
  | errorLog (r : Region)
  | chipLog
  | jobReport
  | sampleReq (n : Fin 4)
  | coreLane
  | coreReturn
  | hostLane (p : Port)
  | hostReturn (p : Port)
  | manifest
  | replay
  | inputEvent
  | telemetry
  deriving DecidableEq, Repr

/-- A level instance of error handling (R531). -/
inductive LevelInst where
  | cell (c : Cell)
  | block (b : Block)
  | region (r : Region)
  | chip
  deriving DecidableEq, Repr

/-- A number for each level instance. -/
def LevelInst.code : LevelInst → Nat
  | .cell c => c.val
  | .block b => 1536 + b.val
  | .region r => 1632 + r.val
  | .chip => 1644

/-- The level number of R532. -/
def LevelInst.level : LevelInst → Nat
  | .cell _ => 0
  | .block _ => 1
  | .region _ => 2
  | .chip => 3

/-- The index of R532's INST field. -/
def LevelInst.inst : LevelInst → Nat
  | .cell c => c.val
  | .block b => b.val
  | .region r => r.val
  | .chip => 0

/-- The parent of a level instance (R536). -/
def LevelInst.parent : LevelInst → Option LevelInst
  | .cell c => some (.block c.block)
  | .block b => some (.region b.region)
  | .region _ => some .chip
  | .chip => none

/-- What a failing check read (R194). -/
inductive CheckSrc where
  | store | ibuf | desc
  deriving DecidableEq, Repr

/-- A write within one naturally aligned 64-byte segment: bit i of the mask writes byte i. -/
structure LineWrite where
  mask : W64
  data : Line
  poison : Bool
  deriving DecidableEq, Repr

/-- A request to a local or block store (R59): who, the address within the segment, and the write, or none for a read. -/
structure ScratchReq where
  req : ReqCode
  addr : Nat
  wr : Option LineWrite
  deriving DecidableEq, Repr

/-- The operations of the atomics of R102 and the three that only a server-core L2 performs (R104). -/
inductive AtomOp where
  | add | smin | smax | umin | umax | swap | cas | fadd32 | and | or | xor
  deriving DecidableEq, Repr

/-- One atomic: the operation, 64 bits wide or 32, the byte offset in its line, the operands. -/
structure Atom where
  op : AtomOp
  wide : Bool
  off : Fin 64
  a : W64
  b : W64
  deriving DecidableEq, Repr

/-- What a caching agent wants a line for (R94). -/
inductive AgentOp where
  | load
  | watch
  | store (w : LineWrite)
  | atomic (x : Atom)
  deriving DecidableEq, Repr

/-- The types of the messages a home receives on REQ (R93). -/
inductive ReqTy where
  | getS | getSW | getM | putS | putE | putM | rdNC | wrNC | atomNC
  deriving DecidableEq, Repr

/-- A request on its way to a home: header fields of R92 and the further fields of R93; addr is the address its requester
issued, in either view (R54). For a request of a caching agent, act is what the agent wants the line for; for a WrNC and an
AtomNC it is the write or atomic itself, for a PutM at its home the data it carries. -/
structure ReqMsg where
  ty : ReqTy
  src : ReqCode
  txn : Fin 512
  cls : ActClass
  addr : Nat
  act : AgentOp
  deriving DecidableEq, Repr

/-- A frame of a link as it is sealed and as it arrives (R435, R436): the frame tag's fields, SEQ, the two FLAGS, ACKSEQ,
CRED, the BODY in the clear, and whether FEC decoding, the CRC and the tag pass on arrival. -/
structure Flit where
  ftype : Fin 16
  vc : Fin 4
  phase : Bool
  seq : Fin 16777216
  nak : Bool
  abort : Bool
  ackseq : Fin 16777216
  cred : List Nat
  body : List Byte
  fec : Bool
  crc : Bool
  tagOk : Bool
  deriving DecidableEq, Repr

/-- The peer's identity as full training exchanges it (R434). -/
structure PeerInfo where
  dev : Fin 16384
  link : Fin 32
  deriving DecidableEq, Repr

/-- What a container's standard yields (R480, R501): the content bytes before the first damaged byte; the CAUSE of that damage,
0 for none, its offset in the sample, and whether it is a dictionary identifier (R482). -/
structure Unpacked where
  bytes : List Byte
  cause : Nat
  at_ : Nat
  dict : Bool
  deriving DecidableEq, Repr, Inhabited

/-- One component of a JPEG frame: its sampling factors and its 8×8 blocks of dequantised coefficients, each in the order of its
rows, block rows from the top (R483). -/
structure JpegComp where
  h : Nat
  v : Nat
  blocks : List (List Int)
  deriving DecidableEq, Repr, Inhabited

/-- What T.81's entropy decoding yields (R483, R501): whether the header could be read, the frame, the MCUs lost, and the CAUSE,
offset and unit of the first damage, CAUSE 0 for none. -/
structure JpegData where
  ok : Bool
  width : Nat
  height : Nat
  comps : List JpegComp
  lost : List Nat
  cause : Nat
  at_ : Nat
  unit_ : Nat
  deriving DecidableEq, Repr, Inhabited

/-- What the PNG standard's decoding yields up to the first damaged byte (R481, R501): whether the header could be read, the
image's size, the bit depth, whether it is greyscale, its palette if it has one, the samples of each pixel of the fully decoded
rows, and the CAUSE and offset of the damage, CAUSE 0 for none. -/
structure PngData where
  ok : Bool
  width : Nat
  height : Nat
  depth : Nat
  grey : Bool
  palette : Option (List (Nat × Nat × Nat))
  rows : List (List (List Nat))
  cause : Nat
  at_ : Nat
  deriving DecidableEq, Repr, Inhabited

end Sys2Proof
end

