-- ==== Sys2Proof/Syntax.lean ====
section
/-! DEFINITION. The commands of the block: one constructor per row of the operation table, with its operands. A Twiex
instruction is commanded by naming the executor and the instruction word it is to dispatch (R205). -/

namespace Sys2Proof

/-- The select registers (R61, BDG_SEL included). -/
inductive Window where
  | region | block | cell | link | farChannel | hostPort | budgets
  deriving DecidableEq, Repr

/-- A compressed segment that arrives for a far channel (R422): its DPA, its table header, and for each of its 16 blocks
whether it is coded and its bytes. -/
structure CodedSegment where
  dpa : Nat
  header : List Byte
  blocks : List (Bool × List Byte)
  deriving DecidableEq, Repr
/-- What the scheduler learns when it parses a sample's header (R482, R502): whether the sample uses a feature the engines do
not support, and the width and height and the decoded size the content declares, and the content size a Zstandard frame declares. -/
structure SampleHeader where
  unsupported : Bool
  dims : Option (Nat × Nat)
  size : Option Nat
  frame : Option Nat
  deriving DecidableEq, Repr
/-- A lane (R489). -/
inductive Lane where
  | engine | core | host (p : Port)
  deriving DecidableEq, Repr
/-- The AtomicOps of R510. -/
inductive HostAtomic where
  | fetchAdd | swap | cas
  deriving DecidableEq, Repr
/-- A completion for a read of an HRD (R517): successful with data, whose Poisoned bit may be set, an Unsupported Request or a
Completer Abort. -/
inductive HrdOutcome where
  | data (bytes : List Byte) (ep : Bool)
  | unsupported
  | abort
  deriving DecidableEq, Repr

/-- A configuration request (R570): a read at an offset of configuration space, or a write that sets Bus Master Enable, or the
Max Payload Size and Max Read Request Size codes. -/
inductive ConfigReq where
  | read (off : Nat)
  | busMaster (en : Bool)
  | sizes (mps mrrs : Fin 8)
  deriving DecidableEq, Repr
/-- Whether an object's Ed25519 and ML-DSA-65 signatures verify under the root keys (R567). -/
structure Sigs where
  ed : Bool
  ml : Bool
  deriving DecidableEq, Repr

/-- What stage 1 finds (R569, R577, R605): whether the self-test passes, whether the PUF key is reconstructed, and
MADDR[2:0]. -/
structure StandbyReport where
  selfTest : Bool
  pufOk : Bool
  maddr : Fin 8
  deriving DecidableEq, Repr

/-- What stage 5 finds on a far channel (R620 to R622): the capacity in GiB of each DIMM and whether it is an MRDIMM of the
organisation of R620, whether training succeeds, and the rows whose DIMM has no repair resource left. -/
structure DimmReport where
  dimms : List (Nat × Bool)
  trained : Bool
  noResource : List Nat
  deriving DecidableEq, Repr

/-- A transport on which the Kettle answers SPDM (R580). -/
inductive Transport where
  | doe (p : Port)
  | i3c
  | smbus
  deriving DecidableEq, Repr

/-- Where a mailbox command comes from (R600, R601): a bank that rang its doorbell, or a secured session with the block its
message carries. -/
inductive MbSource where
  | bank (k : Bank)
  | session (t : Transport) (block : List Byte)
  deriving DecidableEq, Repr

/-- What the Kettle's sensors give (R590, R594, R599): mean input power in W, the 48 V input in units of 10 mV, TMAX, the hottest
die as R599 codes it, and the temperatures of the twelve regions and two host-complex dies. -/
structure PowerMeas where
  power : Fin 65536
  vin : Fin 65536
  tmax : BitVec 8
  hottest : Fin 14
  temps : List (BitVec 8)
  deriving DecidableEq, Repr

/-- Errors a cell has corrected since its last report of them (R194). -/
structure CellErrors where
  cell : Cell
  errs : Nat
  deriving DecidableEq, Repr

/-- A sequencer's instruction fetch that goes wrong: whether the word failed its check on the way (R633). -/
structure FetchFault where
  region : Region
  check : Bool
  deriving DecidableEq, Repr

/-- The commands, one per row of the operation table. -/
inductive Instr where
  /-- BLK_PWR_REQ (R28): A write of BLK_PWR.REQ by the region sequencer or the Kettle requests a block power state. -/
  | blkPwrReq (who : Bank) (b : Block) (req : BlkState)
  /-- BLOCK_SLEEP_COMMIT (R32): Once no tile is in flight and the inbound queue is empty, the block cleans its cache and commits to a pending NAP or OFF request. -/
  | blockSleepCommit (b : Block) (pause : Bool)
  /-- BLOCK_INBOUND_DISPATCH (R30): An instruction or launch reaches a block's inbound queue and is forwarded, woken for, or held according to the block's state. -/
  | blockInboundDispatch (b : Block)
  /-- BLOCK_GATED_WAKE (R29): A block in GATED that received a dispatch or snoop reaches RUN 24 cc after starting its clock, and the work proceeds. -/
  | blockGatedWake (b : Block)
  /-- BLOCK_STATE_REACHED (R27): A requested block state transition completes after its wake or shutdown time. -/
  | blockStateReached (b : Block)
  /-- BLOCK_AUTOGATE (R34): A block idle in RUN for 256 consecutive cc enters GATED by itself when AUTOGATE is set. -/
  | blockAutogate (b : Block)
  /-- FCLK_IDLE_STOP (R24): A region's FCLK stops after 1,024 idle cycles with all blocks asleep and the sequencer waiting on a watch. -/
  | fclkIdleStop (d : Fin 14)
  /-- CLUSTER_CLOCK_STOP (R24): HCLK of a core cluster stops when all four cores wait for an interrupt. -/
  | clusterClockStop (q : Cluster) (waiting : BitVec 4)
  /-- FAR_SELF_REFRESH_ENTRY (R24): A far channel enters self-refresh after 8,192 idle MCLK cycles. -/
  | farSelfRefreshEntry (f : Region)
  /-- FAR_SELF_REFRESH_EXIT (R24): A far channel completes its 2 microsecond self-refresh exit and resumes transfers. -/
  | farSelfRefreshExit (f : Region)
  /-- BUDGET_PERIOD_START (R39): At the first cycle of each period a budgeted resource refills class balances with debt carried and resets the shared pool. -/
  | budgetPeriodStart (kind index : Nat)
  /-- BUDGET_GRANT (R39): A resource grants one waiting request from its balance, the pool or a lender, or round robin when budgeting is disabled. -/
  | budgetGrant (kind index : Nat) (cls : ActClass)
  /-- BUDGET_STARVED (R45): A class waits STARVE_LIM periods without a grant, sets its STARVED bit and writes one error record. -/
  | budgetStarved (res : BudgetRes) (cls : ActClass)
  /-- BDG_QUOTA_WRITE (R47): A quota written mid-period is held and takes effect at the next period start. -/
  | bdgQuotaWrite (who : Bank) (cls : ActClass) (v : W32)
  /-- SELECT_REGISTER_WRITE (R63): A write to a banked select register changes the writer's own selection before its next register access. -/
  | selectRegisterWrite (who : Bank) (win : Window) (v : W32)
  /-- REGISTER_WRITE (R68): A write to a register without a row of its own takes effect in issue order under its access code. -/
  | registerWrite (who : Bank) (off : Nat) (wide : Bool) (v : W64)
  /-- LOW_HALF_READ (R67): A 32-bit read of the low half of a 64-bit register latches the high half in the requester's bank. -/
  | lowHalfRead (who : Bank) (off : Nat)
  /-- HIGH_HALF_READ (R67): A 32-bit read of the high half returns the latched value after the matching low-half read, else the current value. -/
  | highHalfRead (who : Bank) (off : Nat)
  /-- LOW_HALF_WRITE (R67): A 32-bit write of the low half of a 64-bit register is held in the requester's bank. -/
  | lowHalfWrite (who : Bank) (off : Nat) (v : W32)
  /-- HIGH_HALF_WRITE (R67): A 32-bit write of the high half completes a held low half, or is discarded with a decode error. -/
  | highHalfWrite (who : Bank) (off : Nat) (v : W32)
  /-- SCRATCH_ACCESS (R59): A request to a local or block store writes or reads its 64-byte segment whole in block-arbiter order, waking the block if needed. -/
  | scratchAccess (x : ScratchReq)
  /-- HPT_ACC_WRITE (R73): A write of an access-table entry from a non-host requester applies to requests checked after it; host writes are discarded. -/
  | hptAccWrite (who : Bank) (n : Nat) (v : W32)
  /-- HOME_REQUEST_ARRIVAL (R86): A coherence request arrives at a home and is accepted into the request buffer in arrival and rotating-priority order. -/
  | homeRequestArrival (r : Region) (reqs : List ReqMsg)
  /-- GETS (R97): The home acts on a GetS, supplying data from memory or forwarding to the nearest sharer or owner. -/
  | gets (r : Region) (src : ReqCode) (txn : Nat)
  /-- GETSW (R97): The home acts on a GetSW, granting the line in S to set a watch. -/
  | getsw (r : Region) (src : ReqCode) (txn : Nat)
  /-- GETM (R97): The home acts on a GetM, invalidating or forwarding and granting exclusive ownership. -/
  | getm (r : Region) (src : ReqCode) (txn : Nat)
  /-- PUTS (R98): The home judges a PutS current or stale and retires it with PutAck or PutAckStale. -/
  | puts (r : Region) (src : ReqCode) (txn : Nat)
  /-- PUTE (R98): The home judges a PutE current or stale and retires it. -/
  | pute (r : Region) (src : ReqCode) (txn : Nat)
  /-- PUTM (R98): The home judges a PutM, writing its data when current and discarding it when stale. -/
  | putm (r : Region) (src : ReqCode) (txn : Nat)
  /-- RDNC (R97): The home performs a non-caching read from memory or the nearest holder and returns RdData. -/
  | rdnc (r : Region) (src : ReqCode) (txn : Nat)
  /-- WRNC (R99): The home invalidates holders and merges a non-caching write by byte mask into memory, answering NcDone. -/
  | wrnc (r : Region) (src : ReqCode) (txn : Nat)
  /-- ATOMNC (R104): The home's atomic unit performs a non-caching atomic after invalidating holders and returns the old value in NcDone. -/
  | atomnc (r : Region) (src : ReqCode) (txn : Nat)
  /-- SNPFWDS (R94): A holder answers SnpFwdS by sending DataS to the requester and acknowledging or writing back to the home. -/
  | snpfwds (a : Agent) (line : Nat)
  /-- SNPFWDM (R94): A holder answers SnpFwdM by sending DataM to the requester and giving up the line. -/
  | snpfwdm (a : Agent) (line : Nat)
  /-- SNPFWDRD (R94): A holder answers SnpFwdRd with SnpData carrying the line to the home. -/
  | snpfwdrd (a : Agent) (line : Nat)
  /-- SNPINV (R94): A holder invalidates its copy on SnpInv, writing back dirty data or acknowledging. -/
  | snpinv (a : Agent) (line : Nat)
  /-- SNPACK (R88): The home receives a snoop acknowledgement and ends Busy once all responses of the transaction are in. -/
  | snpack (r : Region) (a : Agent) (line : Nat)
  /-- SNPDATA (R97): The home receives snoop data and writes it to memory when W is set. -/
  | snpdata (r : Region) (a : Agent) (line : Nat)
  /-- COMPACK (R88): The home receives a requester's CompAck, holding it until all snoop responses arrive, and ends Busy. -/
  | compack (r : Region) (a : Agent) (line : Nat)
  /-- PUTACK (R94): A holder receives PutAck and frees its writeback buffer entry. -/
  | putack (a : Agent) (line : Nat)
  /-- PUTACKSTALE (R94): A holder receives PutAckStale and frees its writeback buffer entry. -/
  | putackstale (a : Agent) (line : Nat)
  /-- GNTE (R94): A requester receives an exclusive grant and, with the data held, installs the line in M and sends CompAck. -/
  | gnte (a : Agent) (line : Nat)
  /-- DATAS (R94): A requester installs a line in S from DataS and sends CompAck. -/
  | datas (a : Agent) (line : Nat)
  /-- DATAE (R94): A requester installs a line in E from DataE and sends CompAck. -/
  | datae (a : Agent) (line : Nat)
  /-- DATAM (R96): A requester holds forwarded DataM until its grant arrives. -/
  | datam (a : Agent) (line : Nat)
  /-- RDDATA (R78): A non-caching requester receives read data from the home. -/
  | rddata (req : ReqCode) (txn : Nat)
  /-- NCDONE (R78): A non-caching requester receives completion of its write or atomic with status and old value. -/
  | ncdone (req : ReqCode) (txn : Nat)
  /-- CACHE_EVICT (R95): A caching agent evicts a victim with a Put once a writeback buffer entry is free. -/
  | cacheEvict (a : Agent) (line : Nat)
  /-- SNOOP_TIMEOUT (R113): An unanswered snoop times out; the home drops the agent, poisons lost owner data and writes an error record. -/
  | snoopTimeout (r : Region) (a : Agent) (line : Nat)
  /-- WATCH_LIMIT_POLL (R631): An agent unable to set a ring watch re-reads the line every 256 FCLK cycles and sets the watch once one is freed. -/
  | watchLimitPoll (a : Agent) (line : Nat)
  /-- DIR_PEEK (R114): Writing DIR_PEEK_ADDR.GO snapshots a line's directory entry into the peek result registers. -/
  | dirPeek (who : Bank) (v : W64)
  /-- CELL_CHECK_FAILURE (R194): A store, instruction-buffer or descriptor-table read fails its check again after retry and the block retires the cell. -/
  | cellCheckFailure (c : Cell) (src : CheckSrc) (addr : Nat) (retryFails : Bool)
  /-- CELL_PARITY_ERROR (R194): A datapath parity error in a cell starts its retirement. -/
  | cellParityError (c : Cell)
  /-- CE_LIMIT_REACHED (R194): A cell's corrected errors reach CE_LIM within one window and the block retires it. -/
  | ceLimitReached (e : CellErrors)
  /-- BLK_RETIRE (R194): Writing BLK_RETIRE.GO retires the named slot under the retirement procedure. -/
  | blkRetire (who : Bank) (v : W32)
  /-- SPARE_SELF_TEST_COMPLETE (R195): The spare finishes its self-test and the block starts copying the instruction buffer and descriptor table. -/
  | spareSelfTestComplete (b : Block) (pass : Bool)
  /-- SLOT_ADOPTION (R195): After the copy the slot is mapped to the spare, an adoption record written and the sequencer woken. -/
  | slotAdoption (b : Block)
  /-- CEL_RELEASE (R197): Writing CEL_CTRL.RELEASE releases a held slot so its queued instructions run. -/
  | celRelease (who : Bank)
  /-- CEL_SELFTEST (R195): Writing CEL_CTRL.SELFTEST runs the self-test of an unused spare. -/
  | celSelftest (who : Bank) (pass : Bool)
  /-- CEL_CLR_ECC (R194): Writing CEL_CTRL.CLR_ECC clears the cell's error counters. -/
  | celClrEcc (who : Bank)
  /-- NEAR_SCRUB (R192): A stack scrubs its near memory each SCRUB_HRS hours, correcting single-bit errors and poisoning uncorrectable words. -/
  | nearScrub (r : Region) (fixed : List Nat) (bad : List Nat)
  /-- ROW_SPARE (R192): A row reaching ROW_THR corrected errors is copied into a spare row and redirected. -/
  | rowSpare (r : Region) (col : Fin 128) (row : Nat)
  /-- EXPANDER_ABANDON (R182): A compressed block not decoded within its cycle limit or failing its header check is delivered as poison and logged. -/
  | expanderAbandon (c : Cell) (addr : Nat)
  /-- BSU_CHUNK_CLEAR (R190): The home clears a 4 KiB chunk of cached copies and holds it Busy before the bank-side units touch it. -/
  | bsuChunkClear (r : Region) (chunk : Nat)
  /-- SEQ_FETCH_FAULT (R633): A sequencer instruction fetch returns bad, poisoned or refused data and the schedule context stops by fault. -/
  | seqFetchFault (f : FetchFault)
  /-- INSTRUCTION_COMPLETE (R216): An instruction's writes are all performed; its completion record is written and its token out signalled. -/
  | instructionComplete (x : Executor) (q : QueueId)
  /-- CELL_LAUNCH_ACCEPT (R226): A cell running no kernel and neither held nor stopped takes a launch from its inbound queue and starts the kernel. -/
  | cellLaunchAccept (c : Cell)
  /-- KLD_DELIVERY (R279): A queued kernel load is checked and written into a cell's instruction buffer once the cell runs no kernel. -/
  | kldDelivery (c : Cell)
  /-- LAUNCH_COMPLETE (R227): Every named cell has ended the kernel and the launch completes with COUNT and combined status. -/
  | launchComplete (r : Region) (id : Nat)
  /-- RING_ENABLE (R630): Setting a ring's EN reads its control block and enables it only if placement and counters are valid. -/
  | ringEnable (who : Bank) (ring : RingId) (v : W64)
  /-- RING_DISABLE (R256): Clearing a ring's EN stops record consumption or writing, diverting device-ring records to the overflow buffer. -/
  | ringDisable (who : Bank) (ring : RingId) (v : W64)
  /-- DEVICE_RING_DRAIN (R231): When HEAD advances on a hold-mode ring the writer drains its overflow buffer and releases stalled producers. -/
  | deviceRingDrain (ring : RingId)
  /-- WORK_RING_CONSUME (R236): A sequencer takes the entry at HEAD once its tag matches, copies it and advances HEAD. -/
  | workRingConsume (r : Region) (n : Fin 4)
  /-- WORK_NOP (R239): A NOP work record does nothing beyond advancing HEAD. -/
  | workNop (r : Region)
  /-- WORK_CALL (R239): A CALL work record sets SEQ_STEP and S1 to S3 and runs the schedule program at TARGET. -/
  | workCall (r : Region)
  /-- WORK_STEP (R239): A STEP work record sets SEQ_STEP and registers, reads the stash ledger and walks the slot table. -/
  | workStep (r : Region)
  /-- SLOT_OVERRUN (R244): A slot reaching its LIMIT in aon cycles writes one SLOT_OVERRUN event record and continues. -/
  | slotOverrun (r : Region)
  /-- SEQ_CLRTOK (R254): Writing SEQ_CTRL.CLRTOK sets all sequencer token counters to 0. -/
  | seqClrtok (who : Bank)
  /-- SEQ_HALT (R254): Writing SEQ_CTRL.HALT stops the schedule context at the next instruction boundary. -/
  | seqHalt (who : Bank)
  /-- SEQ_ABORT (R254): Writing SEQ_CTRL.ABORT while stopped abandons the current work record with DETAIL 0x09. -/
  | seqAbort (who : Bank)
  /-- SEQ_RESUME (R254): Writing SEQ_CTRL.RESUME restarts a stopped schedule context at SEQ_PC. -/
  | seqResume (who : Bank)
  /-- CTL_END (R273): END ends a kernel, a CALL program, or the current slot and walk, once earlier instructions complete. -/
  | ctlEnd (x : Executor) (w : W128)
  /-- CTL_ENDSLOT (R273): ENDSLOT ends the current slot and the walk moves to the next entry. -/
  | ctlEndslot (x : Executor) (w : W128)
  /-- CTL_BR (R271): BR moves the program counter by a signed offset. -/
  | ctlBr (x : Executor) (w : W128)
  /-- CTL_LOOP (R271): LOOP decrements RA and branches while it is non-zero. -/
  | ctlLoop (x : Executor) (w : W128)
  /-- CTL_JR (R271): JR jumps to the address or buffer index in RA. -/
  | ctlJr (x : Executor) (w : W128)
  /-- CTL_SET (R270): SET writes the immediate to RD. -/
  | ctlSet (x : Executor) (w : W128)
  /-- CTL_ADD (R270): ADD writes RA plus the second operand modulo 2^64 to RD. -/
  | ctlAdd (x : Executor) (w : W128)
  /-- CTL_SUB (R270): SUB writes RA minus the second operand modulo 2^64 to RD. -/
  | ctlSub (x : Executor) (w : W128)
  /-- CTL_MUL (R270): MUL writes the low 64 bits of the product to RD. -/
  | ctlMul (x : Executor) (w : W128)
  /-- CTL_SHL (R270): SHL shifts RA left. -/
  | ctlShl (x : Executor) (w : W128)
  /-- CTL_SHR (R270): SHR shifts RA right logically. -/
  | ctlShr (x : Executor) (w : W128)
  /-- CTL_AND (R270): AND writes the bitwise and to RD. -/
  | ctlAnd (x : Executor) (w : W128)
  /-- CTL_OR (R270): OR writes the bitwise or to RD. -/
  | ctlOr (x : Executor) (w : W128)
  /-- CTL_XOR (R270): XOR writes the bitwise exclusive or to RD. -/
  | ctlXor (x : Executor) (w : W128)
  /-- CTL_SRA (R270): SRA shifts RA right arithmetically. -/
  | ctlSra (x : Executor) (w : W128)
  /-- CTL_CMP (R270): CMP sets a predicate from a comparison of RA and the second operand. -/
  | ctlCmp (x : Executor) (w : W128)
  /-- CTL_PSET (R270): PSET sets a predicate from IMM bit 0. -/
  | ctlPset (x : Executor) (w : W128)
  /-- CTL_GETS (R272): GETS writes a step, epoch, slot, micro-batch, stage, own index or FCLK count to RD. -/
  | ctlGets (x : Executor) (w : W128)
  /-- MOV_COPY (R275): COPY moves a tensor, verbatim or decoding compressed blocks. -/
  | movCopy (x : Executor) (w : W128)
  /-- MOV_PUT (R275): PUT writes a tensor into a peer device's memory. -/
  | movPut (x : Executor) (w : W128)
  /-- MOV_GET (R275): GET reads a tensor from a peer device's memory. -/
  | movGet (x : Executor) (w : W128)
  /-- MOV_HWR (R516): HWR writes bytes to host addresses as journalled 4 KiB pieces. -/
  | movHwr (x : Executor) (w : W128)
  /-- MOV_HRD (R517): HRD reads host bytes into a destination tensor. -/
  | movHrd (x : Executor) (w : W128)
  /-- MOV_GATHER (R634): GATHER copies rows of A selected by the INT32 index tensor B into D. -/
  | movGather (x : Executor) (w : W128)
  /-- MOV_SCATADD (R634): SCATADD adds rows of A into rows of D selected by B in ascending order. -/
  | movScatadd (x : Executor) (w : W128)
  /-- MOV_LD (R278): LD loads a scalar from memory into RD. -/
  | movLd (x : Executor) (w : W128)
  /-- MOV_ST (R278): ST stores the low bytes of RB to memory. -/
  | movSt (x : Executor) (w : W128)
  /-- MOV_AMO (R278): AMO performs an atomic operation and returns the old value in RD. -/
  | movAmo (x : Executor) (w : W128)
  /-- MOV_DWR (R278): DWR writes 8 bytes of a descriptor table entry from RB. -/
  | movDwr (x : Executor) (w : W128)
  /-- MOV_DLD (R278): DLD loads 1 to 32 descriptor entries from memory. -/
  | movDld (x : Executor) (w : W128)
  /-- MOV_KLD (R279): KLD loads kernel instructions into the instruction buffers of named cells. -/
  | movKld (x : Executor) (w : W128)
  /-- MMA_MM (R283): MM computes the output tiles of a matrix multiply-accumulate in batch, row, column order. -/
  | mmaMm (x : Executor) (w : W128)
  /-- VEC_UN (R287): UN applies a unary function elementwise. -/
  | vecUn (x : Executor) (w : W128)
  /-- VEC_BIN (R287): BIN applies a binary operation elementwise. -/
  | vecBin (x : Executor) (w : W128)
  /-- VEC_FMA (R287): FMA computes A times B plus C with one rounding. -/
  | vecFma (x : Executor) (w : W128)
  /-- VEC_CMP (R287): CMP writes elementwise comparison results. -/
  | vecCmp (x : Executor) (w : W128)
  /-- VEC_SEL (R287): SEL selects between A and B under a BIT1 mask. -/
  | vecSel (x : Executor) (w : W128)
  /-- VEC_RED (R635): RED reduces each row over dimension 0 in ascending order. -/
  | vecRed (x : Executor) (w : W128)
  /-- NRM_STAT (R291): STAT writes row statistics records. -/
  | nrmStat (x : Executor) (w : W128)
  /-- NRM_NORM (R292): NORM normalises rows and writes their statistics. -/
  | nrmNorm (x : Executor) (w : W128)
  /-- NRM_NORMB (R292): NORMB computes the norm backward pass with gain and bias gradients. -/
  | nrmNormb (x : Executor) (w : W128)
  /-- NRM_ATTF (R293): ATTF computes fused attention forward with online softmax statistics. -/
  | nrmAttf (x : Executor) (w : W128)
  /-- NRM_ATTB (R294): ATTB computes the attention backward pass from stored statistics. -/
  | nrmAttb (x : Executor) (w : W128)
  /-- NRM_SMXB (R294): SMXB computes the softmax backward pass. -/
  | nrmSmxb (x : Executor) (w : W128)
  /-- CNV_CVT (R296): CVT converts or quantises a tensor to D's format. -/
  | cnvCvt (x : Executor) (w : W128)
  /-- CNV_MASK (R296): MASK writes a BIT1 mask from A. -/
  | cnvMask (x : Executor) (w : W128)
  /-- CNV_MAPPLY (R296): MAPPLY writes A where the mask is 1 and zero elsewhere. -/
  | cnvMapply (x : Executor) (w : W128)
  /-- RNG_UNIF (R298): UNIF writes uniform random values from Philox. -/
  | rngUnif (x : Executor) (w : W128)
  /-- RNG_NORMAL (R636): NORMAL writes normal random values by the stepwise Box-Muller evaluation. -/
  | rngNormal (x : Executor) (w : W128)
  /-- RNG_BITS (R298): BITS writes raw Philox words into an INT32 tensor. -/
  | rngBits (x : Executor) (w : W128)
  /-- RNG_DROP (R298): DROP writes a dropout mask or applies dropout with scaling. -/
  | rngDrop (x : Executor) (w : W128)
  /-- COL_RS (R468): RS enters the collective engine queue for a reduce-scatter. -/
  | colRs (x : Executor) (w : W128)
  /-- COL_AG (R468): AG enters the collective engine queue for an all-gather. -/
  | colAg (x : Executor) (w : W128)
  /-- COL_AR (R468): AR enters the collective engine queue for an all-reduce. -/
  | colAr (x : Executor) (w : W128)
  /-- COL_A2A (R467): A2A enters the collective engine queue for an all-to-all. -/
  | colA2a (x : Executor) (w : W128)
  /-- COL_BC (R468): BC enters the collective engine queue for a broadcast from ROOT. -/
  | colBc (x : Executor) (w : W128)
  /-- COL_SQN (R469): SQN sums local squares and all-reduces the value to every participant. -/
  | colSqn (x : Executor) (w : W128)
  /-- COL_GNEW (R462): GNEW creates a collective group, or completes with GROUP_EXHAUSTED. -/
  | colGnew (x : Executor) (w : W128)
  /-- COL_GFREE (R301): GFREE requests that a group end once its earlier collectives complete. -/
  | colGfree (x : Executor) (w : W128)
  /-- GROUP_FREED (R301): A group ends after every collective issued before its GFREE completes. -/
  | groupFreed (grp : Nat)
  /-- CPX_COMP (R302): COMP compresses a tensor into the stream format on the region codecs. -/
  | cpxComp (x : Executor) (w : W128)
  /-- CPX_EXPAND (R302): EXPAND decodes a compressed stream into an uncompressed tensor. -/
  | cpxExpand (x : Executor) (w : W128)
  /-- UPD_GSQ (R377): GSQ writes the sum of squares of a gradient. -/
  | updGsq (x : Executor) (w : W128)
  /-- UPD_APPLY (R383): APPLY checks the shard record and applies the SIGN or MOMENT rule elementwise. -/
  | updApply (x : Executor) (w : W128)
  /-- UPD_ORTHO (R392): ORTHO applies the whole-matrix Newton-Schulz rule as a team. -/
  | updOrtho (x : Executor) (w : W128)
  /-- UPD_PRECOND (R397): PRECOND updates statistics, computes roots when due and applies the preconditioned rule. -/
  | updPrecond (x : Executor) (w : W128)
  /-- UPD_ROWS (R402): ROWS applies the row-lazy update with per-row step counts. -/
  | updRows (x : Executor) (w : W128)
  /-- TEAM_BARRIER (R393): All cells of an ORTHO or PRECOND team reach a barrier and the next phase begins. -/
  | teamBarrier (r : Region)
  /-- STA_SHARES (R363): SHARES counts zeros, saturations, non-finite values and an exponent histogram into its record. -/
  | staShares (x : Executor) (w : W128)
  /-- STA_RATIO (R365): RATIO accumulates update and weight norms and rewrites their ratio. -/
  | staRatio (x : Executor) (w : W128)
  /-- STA_SZW (R366): SZW advances a layer's silent-zero watch record. -/
  | staSzw (x : Executor) (w : W128)
  /-- SYN_FENCE (R308): FENCE holds dispatch until earlier instructions of the selected queues and scalar accesses complete. -/
  | synFence (x : Executor) (w : W128)
  /-- SYN_WAIT (R309): WAIT consumes its token in and signals its token out. -/
  | synWait (x : Executor) (w : W128)
  /-- SYN_SIGNAL (R310): SIGNAL sends a token increment to another executor of the region. -/
  | synSignal (x : Executor) (w : W128)
  /-- SIGNAL_DELIVERY (R310): A SIGNAL increment reaches its target executor's counter. -/
  | signalDelivery (r : Region)
  /-- SYN_WATCH (R311): WATCH reads a word with a watch and sleeps until it changes or times out. -/
  | synWatch (x : Executor) (w : W128)
  /-- WATCH_TIMEOUT (R311): A WATCH reaches its timeout in aon cycles and returns with PD 0. -/
  | watchTimeout (x : Executor)
  /-- SYS_LAUNCH (R312): LAUNCH places a kernel launch in the inbound queues of named cells. -/
  | sysLaunch (x : Executor) (w : W128)
  /-- SYS_RESTART (R313): RESTART ends or resumes the kernels of stopped cells. -/
  | sysRestart (x : Executor) (w : W128)
  /-- SYS_TOKCLR (R314): TOKCLR sets selected token counters of a cell to 0. -/
  | sysTokclr (x : Executor) (w : W128)
  /-- SYS_BLKST (R315): BLKST requests a power state for named blocks of the region. -/
  | sysBlkst (x : Executor) (w : W128)
  /-- SYS_REGRD (R316): REGRD reads a register into RD through the sequencer's bank. -/
  | sysRegrd (x : Executor) (w : W128)
  /-- SYS_REGWR (R316): REGWR writes RB to a register through the sequencer's bank. -/
  | sysRegwr (x : Executor) (w : W128)
  /-- SYS_HALT (R317): HALT stops the schedule context at the boundary after it. -/
  | sysHalt (x : Executor) (w : W128)
  /-- PG_SETUP (R380): A UPD_PGCMD setup command loads and validates a parameter group entry and allocates row counters. -/
  | pgSetup (who : Bank) (v : W32)
  /-- PG_RELEASE (R401): A UPD_PGCMD release command frees a group and its row counters. -/
  | pgRelease (who : Bank) (v : W32)
  /-- PG_WAIT_END (R401): A setup or release waiting with BUSY completes once no UPD naming the group is in flight. -/
  | pgWaitEnd
  /-- SEGMENT_STORE_CODED (R423): A far channel clears a segment's slots and stores a compressed segment with its table header. -/
  | segmentStoreCoded (f : Chan) (seg : CodedSegment)
  /-- FMC_CZ_ENABLE (R429): A write setting FMC_CZ_CTRL.EN enables coded storage or is refused with CFGERR. -/
  | fmcCzEnable (who : Bank) (v : W64)
  /-- FMC_XTS_ENABLE (R430): A write setting FMC_XTS.EN enables XTS encryption when keys are loaded. -/
  | fmcXtsEnable (who : Bank) (v : W32)
  /-- LINK_ENABLE (R434): Setting LNK_CTRL.ENABLE starts full training of a link. -/
  | linkEnable (who : Bank)
  /-- LINK_TRAINED (R434): Full training ends with peer identity exchanged and the link in KEYWAIT, or fails and restarts. -/
  | linkTrained (l : Link) (peer : Option PeerInfo)
  /-- LINK_UP (R434): A link in KEYWAIT enters UP once both ends hold matching session keys. -/
  | linkUp (l : Link) (keysMatch : Bool)
  /-- LINK_DISABLE (R459): Clearing LNK_CTRL.ENABLE loses the link and handles its transactions. -/
  | linkDisable (who : Bank)
  /-- IDLE_FRAME (R435): An IDLE frame is received and ignored. -/
  | idleFrame (l : Link)
  /-- FLIT_RECEIVE (R438): A sequenced flit is checked and accepted in SEQ order or discarded with a NAK. -/
  | flitReceive (l : Link) (flit : Flit)
  /-- FLIT_NAK_RECEIVE (R438): A received NAK makes the sender resend from the named flit unchanged. -/
  | flitNakReceive (l : Link) (ackseq : Nat)
  /-- ACK_TIMER (R438): A receiver with nothing to send sends a CTRL flit after 64 accepted flits or 200 ns. -/
  | ackTimer (l : Link)
  /-- KEY_GENERATION_SWITCH (R586): A sender switches to the next key generation when CTR reaches 2^32. -/
  | keyGenerationSwitch (l : Link)
  /-- LOSS_FLIT (R461): An accepted LOSS flit clears the route to the named device, fails its items and writes a type 0x31 record. -/
  | lossFlit (l : Link) (dev : Nat)
  /-- LINK_LOCK_LOSS (R457): A PHY losing lock on a link in UP starts a retrain. -/
  | linkLockLoss (l : Link)
  /-- LNK_RETRAIN (R457): Writing LNK_CTRL.RETRAIN starts a retrain. -/
  | lnkRetrain (who : Bank)
  /-- LINK_RETRAIN_DONE (R457): A retrain ends and each side resends from the last received ACKSEQ. -/
  | linkRetrainDone (l : Link)
  /-- RETRAIN_TIMEOUT (R458): A retrain not ended within 50 ms is abandoned and full training starts. -/
  | retrainTimeout (l : Link)
  /-- LNK_UNFENCE (R458): Writing LNK_CTRL.UNFENCE ends FENCED and starts full training. -/
  | lnkUnfence (who : Bank)
  /-- LINK_LOSS (R459): A link out of UP for 50 ms is lost and its transactions rerouted or failed. -/
  | linkLoss (l : Link)
  /-- LINK_WR (R447): A destination performs a complete inbound WR and sends WCMP. -/
  | linkWr (l : Link)
  /-- LINK_RDREQ (R448): A destination serves an inbound read with RDATA transactions. -/
  | linkRdreq (l : Link)
  /-- LINK_CDATA (R469): A receiving collective engine expands and combines collective data and sends WCMP. -/
  | linkCdata (l : Link)
  /-- LINK_WCMP (R447): A source receives a write completion and frees the tag. -/
  | linkWcmp (l : Link)
  /-- LINK_RDATA (R448): A source writes returned read data, as poison when flagged. -/
  | linkRdata (l : Link)
  /-- LINK_NAK (R460): A source receives a NAK and fails the item with its status. -/
  | linkNak (l : Link)
  /-- LINK_READY (R465): A READY is held or matched to its collective and permits CDATA to that participant. -/
  | linkReady (l : Link)
  /-- LINK_CABORT (R471): A CABORT fails the named collective with PEER_LOST 0x05. -/
  | linkCabort (l : Link)
  /-- TRANSACTION_FORWARD (R456): A transaction for another device is routed and forwarded flit by flit. -/
  | transactionForward (l : Link)
  /-- TRANSACTION_TIMEOUT (R451): A transaction without its last response within TXN_TO fails with PEER_LOST 0x03. -/
  | transactionTimeout (l : Link) (tag : Nat)
  /-- TAG_RELEASE (R451): A timed-out transaction's tag becomes free after the quarantine period. -/
  | tagRelease (l : Link) (tag : Nat)
  /-- COLLECTIVE_START (R465): A collective starts at its engine after the group's earlier collective and sends READY. -/
  | collectiveStart (r : Region) (grp : Nat)
  /-- EPOCH_ADVANCE (R474): A COL of a newer epoch starts once older collectives complete, advancing the device epoch. -/
  | epochAdvance (r : Region)
  /-- COLLECTIVE_COMPLETE (R470): A collective completes when D is written and every CDATA sent is acknowledged. -/
  | collectiveComplete (r : Region) (grp : Nat)
  /-- COLLECTIVE_TIMEOUT (R471): A collective without progress for LNK_CETO fails with PEER_LOST 0x03 and sends CABORT. -/
  | collectiveTimeout (r : Region) (grp : Nat)
  /-- SAMPLE_REQUEST (R487): The input scheduler takes a sample request whose tag matches from a request ring. -/
  | sampleRequest (n : Fin 4)
  /-- SAMPLE_DISPATCH (R489): A sample is assigned to the least loaded lane and takes a staging slot once one is free. -/
  | sampleDispatch (hdr : SampleHeader)
  /-- LANE_RATE_PERIOD (R489): At each 4.096 microsecond period the scheduler updates every lane's rate. -/
  | laneRatePeriod
  /-- SAMPLE_DECODE_COMPLETE (R492): An engine writes a sample's last unit within budget and the average cost is updated. -/
  | sampleDecodeComplete (e : Engine) (cycles : Nat)
  /-- SLOW_LANE_ABANDON (R493): An engine spending the decode budget abandons the sample to the core lane and reports SLOW_LANE. -/
  | slowLaneAbandon (e : Engine)
  /-- DECODE_SIZE_LIMIT (R502): A decoder's produced bytes pass the size limit and the sample is refused with CAUSE 0x03. -/
  | decodeSizeLimit (e : Engine)
  /-- LANE_RETURN (R490): A core or host lane return record completes a sample, or is discarded on an epoch mismatch. -/
  | laneReturn (lane : Lane)
  /-- SAMPLE_PACK (R497): A completed sample is placed into the open micro-batch once a buffer is free. -/
  | samplePack (slot : Nat)
  /-- MICROBATCH_FLUSH (R497): A non-empty micro-batch closes after FLUSH aon cycles without a placement. -/
  | microbatchFlush (st : Fin 16)
  /-- REPLAY_RECORD (R500): In replay the packer takes a replay record and places the sample at its recorded position. -/
  | replayRecord
  /-- STREAM_LOAD (R495): A COL_STRCMD load command loads a validated stream record. -/
  | streamLoad (who : Bank) (v : W32)
  /-- STREAM_UNLOAD (R494): A COL_STRCMD unload command unloads a stream with no open micro-batch. -/
  | streamUnload (who : Bank) (v : W32)
  /-- HOST_POSTED_WRITE (R511): A posted write through BAR2 is checked and split into 64-byte parts to their homes or stores. -/
  | hostPostedWrite (p : Port) (addr : Nat) (data : List Byte) (ep : Bool)
  /-- HOST_READ (R513): A host read is performed after earlier posted writes and completed with data. -/
  | hostRead (p : Port) (addr : Nat) (len : Nat)
  /-- HOST_ATOMICOP (R510): A host AtomicOp through BAR2 is performed as an atomic at the home. -/
  | hostAtomicop (p : Port) (bar0 : Bool) (op : HostAtomic) (size : Nat) (addr : Nat) (operand : W64) (compare : W64)
  /-- HOST_REGISTER_ACCESS (R509): A host access through BAR0 is checked and performed as a register access with the port's bank. -/
  | hostRegisterAccess (p : Port) (off : Nat) (size : Nat) (wr : Option W64) (ep : Bool)
  /-- CONFIG_REQUEST (R570): A configuration request is answered with retry status before stage 7 and normally after. -/
  | configRequest (p : Port) (req : ConfigReq)
  /-- HRD_COMPLETION (R517): A completion for an HRD writes its data or fails it by status and confirms journal entries. -/
  | hrdCompletion (p : Port) (id : Nat) (outcome : HrdOutcome)
  /-- HRD_COMPLETION_TIMEOUT (R517): An HRD read times out and completes with LINK_LOST 0x11. -/
  | hrdCompletionTimeout (p : Port) (id : Nat)
  /-- JOURNAL_FLUSH_READ (R521): The journal reaching its threshold or age issues a zero-length flush read for a class. -/
  | journalFlushRead (p : Port)
  /-- FLUSH_READ_COMPLETION (R521): A flush read completes and confirms the entries of its class sent before it. -/
  | flushReadCompletion (p : Port) (cls : Fin 9)
  /-- FLUSH_READ_TIMEOUT (R521): A flush read timing out fails its class's earlier entries with LINK_LOST 0x11. -/
  | flushReadTimeout (p : Port) (cls : Fin 9)
  /-- PERST_ASSERT (R523): A filtered PERST_N assertion advances the port's host epoch. -/
  | perstAssert (p : Port)
  /-- PERST_DEASSERT (R615): PERST_N deasserting with the host-port domain good starts port link training. -/
  | perstDeassert (p : Port)
  /-- FUNCTION_LEVEL_RESET (R523): A Function Level Reset advances the port's host epoch with DETAIL 0x02. -/
  | functionLevelReset (p : Port)
  /-- HPT_ADV (R523): Writing HPT_CTRL.ADV advances the port's host epoch with DETAIL 0x03. -/
  | hptAdv (who : Bank)
  /-- HOST_LINK_DOWN (R525): A port's data link goes down and the port starts its 2 microsecond wait. -/
  | hostLinkDown (p : Port)
  /-- HOST_LINK_DOWN_ADVANCE (R525): After 2 microseconds without PERST_N the epoch advances with LINK_LOST 0x10. -/
  | hostLinkDownAdvance (p : Port)
  /-- HPT_GATE_OPEN (R524): A HPT_GATE write with the current epoch and the link up opens the outbound gate. -/
  | hptGateOpen (who : Bank) (v : W32)
  /-- OBDATA_WRITE (R529): A write of HPT_OBDATA sends a journalled 4-byte write to the writer's OBADDR. -/
  | obdataWrite (who : Bank) (v : W32)
  /-- MSIGEN (R528): A write of HPT_MSIGEN sends an MSI-X vector, after a flush read when FLUSH is set. -/
  | msigen (who : Bank) (v : W32)
  /-- HANDLER_TAKE (R534): A free level handler takes the oldest record of highest severity from its queue. -/
  | handlerTake (q : LevelInst)
  /-- HANDLER_TIMEOUT (R539): A record not handled within the time limit escalates with ESC 3, or fences at the chip. -/
  | handlerTimeout (q : LevelInst)
  /-- RSL_POP_RESOLVED (R539): A POP write with OUTCOME 0 ends handling of the front record as resolved. -/
  | rslPopResolved (who : Bank) (q : LevelInst)
  /-- RSL_POP_ESCALATE (R539): A POP write with OUTCOME 1 escalates the front record with ESC 1. -/
  | rslPopEscalate (who : Bank) (q : LevelInst)
  /-- RSL_POP_FAULT (R539): A POP write with OUTCOME 2 or 3 escalates the front record with ESC 3. -/
  | rslPopFault (who : Bank) (q : LevelInst)
  /-- RSL_FENCE (R542): Writing RSL_CTRL.FENCE fences the device: dispatch stops, LOSS flits sent, beats stop, gates close. -/
  | rslFence (who : Bank)
  /-- RSL_REPORT (R537): Writing RSL_REPORT.GO writes a chip record of cause 0x3F for a job report. -/
  | rslReport (who : Bank) (v : W64)
  /-- BEAT_SEND (R545): Every PERIOD aon cycles the device sends a BEAT to each enabled partner. -/
  | beatSend
  /-- FIFE_BEAT (R547): A received beat or answer from an enabled partner updates LAST and the partner's state. -/
  | fifeBeat (l : Link)
  /-- FIFE_PROBE (R547): A received probe from an enabled partner is answered at once on the ALTB bundle. -/
  | fifeProbe (l : Link)
  /-- PARTNER_SUSPECT (R548): A partner silent for 3.25 periods becomes SUSPECT and is probed. -/
  | partnerSuspect (n : Fin 4)
  /-- PARTNER_LOSS_CONFIRM (R548): A probe unanswered within PROBE_TO periods confirms the loss and fails items to the partner. -/
  | partnerLossConfirm (n : Fin 4)
  /-- FIFE_PARTNER_ARM (R548): Writing RSL_FIFEPn with EN set re-arms the partner in state OK. -/
  | fifePartnerArm (who : Bank) (n : Fin 4) (v : W32)
  /-- ADOPT (R557): A RSL_ADOPT GO write adopts a device ID and enters FILLING, or is ignored with ADERR. -/
  | adopt (who : Bank) (v : W32)
  /-- ADOPT_DONE (R557): A RSL_ADOPT DONE write ends FILLING and returns to RUN. -/
  | adoptDone (who : Bank)
  /-- STANDBY_POWER_UP (R569): VSTBY33 reaching its range starts boot stage 1: self-test, PUF key and identity keys. -/
  | standbyPowerUp (rep : StandbyReport)
  /-- BOOT_SLOT_CHOICE (R571): Stage 2 chooses the flash slot by the A/B state and verifies and starts the Kettle firmware. -/
  | bootSlotChoice (a : Sigs) (b : Sigs)
  /-- BOOT_PERSONALITY (R575): Stage 3 verifies the personality record and applies retirements. -/
  | bootPersonality (sigs : Sigs)
  /-- BOOT_POWER_ON (R613): Stage 4, once PWR_OK is honoured, powers the domains in order, locks PLLs and draws far keys. -/
  | bootPowerOn
  /-- BOOT_INIT_STACKS (R569): Stage 5 initialises stacks and blocks, trains far channels and applies lane maps. -/
  | bootInitStacks (dimms : List DimmReport)
  /-- BOOT_SEQ_FIRMWARE (R569): Stage 6 writes the hop tables and verifies, places and starts the sequencer firmware. -/
  | bootSeqFirmware (sigs : Sigs)
  /-- BOOT_HOST_FIRMWARE (R569): Stage 7 verifies, places and starts the host-complex firmware. -/
  | bootHostFirmware (sigs : Sigs)
  /-- BOOT_RUNNING (R569): Stage 8 begins: the device runs with the seal pending. -/
  | bootRunning
  /-- SEAL_TIMEOUT (R572): 60 s after stage 8 begins, configuration is sealed. -/
  | sealTimeout
  /-- GET_INFO (R601): The GET_INFO mailbox command returns part, identity, boot and counter information. -/
  | getInfo (src : MbSource)
  /-- GET_TELEMETRY (R599): The GET_TELEMETRY command returns the latest telemetry record. -/
  | getTelemetry (src : MbSource)
  /-- GET_RETIRED (R601): The GET_RETIRED command returns the retirement list. -/
  | getRetired (src : MbSource)
  /-- SET_POWER_CAP (R590): The SET_POWER_CAP command sets PCAP and CAPINT. -/
  | setPowerCap (src : MbSource)
  /-- SET_HCLK (R593): The SET_HCLK command sets the HCLK of named clusters. -/
  | setHclk (src : MbSource)
  /-- LINK_SECRET (R583): The LINK_SECRET command installs the link master secret within a secured session. -/
  | linkSecret (src : MbSource)
  /-- LINK_REKEY (R586): The LINK_REKEY command switches named links to their next key generation. -/
  | linkRekey (src : MbSource)
  /-- FLASH_ERASE (R601): The FLASH_ERASE command erases sectors of the writable slot. -/
  | flashErase (src : MbSource) (flashOk : Bool)
  /-- FLASH_WRITE (R601): The FLASH_WRITE command writes data into the writable slot. -/
  | flashWrite (src : MbSource) (flashOk : Bool)
  /-- SET_PENDING (R601): The SET_PENDING command verifies the writable slot's objects and sets PENDING. -/
  | setPending (src : MbSource) (sigs : List Sigs)
  /-- COMMIT (R571): The COMMIT command makes the booted pending slot ACTIVE. -/
  | commit (src : MbSource)
  /-- ADVANCE_SVN (R579): The ADVANCE_SVN command raises security-version counters to the ACTIVE slot's values. -/
  | advanceSvn (src : MbSource)
  /-- SEAL (R572): The SEAL command seals configuration. -/
  | seal (src : MbSource)
  /-- RESET_DEVICE (R616): The RESET_DEVICE command performs a device reset repeating stages 3 to 8. -/
  | resetDevice (src : MbSource)
  /-- RESET_KETTLE (R573): The RESET_KETTLE command restarts boot at stage 1. -/
  | resetKettle (src : MbSource)
  /-- SPDM_GET_VERSION (R580): The Kettle answers an SPDM GET_VERSION request. -/
  | spdmGetVersion (t : Transport)
  /-- SPDM_GET_CAPABILITIES (R580): The Kettle answers an SPDM GET_CAPABILITIES request. -/
  | spdmGetCapabilities (t : Transport)
  /-- SPDM_NEGOTIATE_ALGORITHMS (R580): The Kettle answers an SPDM NEGOTIATE_ALGORITHMS request. -/
  | spdmNegotiateAlgorithms (t : Transport)
  /-- SPDM_GET_DIGESTS (R580): The Kettle answers an SPDM GET_DIGESTS request. -/
  | spdmGetDigests (t : Transport)
  /-- SPDM_GET_CERTIFICATE (R580): The Kettle returns its Ed25519 certificate chain. -/
  | spdmGetCertificate (t : Transport) (slot : Nat) (offset : Nat) (length : Nat)
  /-- SPDM_CHALLENGE (R580): The Kettle answers an SPDM CHALLENGE with a signed response. -/
  | spdmChallenge (t : Transport) (nonce : List Byte)
  /-- SPDM_GET_MEASUREMENTS (R582): The Kettle returns signed measurement digests. -/
  | spdmGetMeasurements (t : Transport) (index : Nat) (nonce : List Byte)
  /-- SPDM_KEY_EXCHANGE (R580): The Kettle answers an SPDM KEY_EXCHANGE to open a secured session. -/
  | spdmKeyExchange (t : Transport) (nonce : List Byte)
  /-- SPDM_FINISH (R580): The Kettle completes a secured session on FINISH. -/
  | spdmFinish (t : Transport) (macOk : Bool)
  /-- SPDM_END_SESSION (R580): The Kettle ends a secured session. -/
  | spdmEndSession (t : Transport)
  /-- SPDM_ML_DSA_SIGNATURE (R581): Vendor command 0x01 returns the ML-DSA-65 signature over the last signed message. -/
  | spdmMlDsaSignature (t : Transport)
  /-- SPDM_ML_DSA_CHAIN (R581): Vendor command 0x02 returns a part of the ML-DSA-65 certificate chain. -/
  | spdmMlDsaChain (t : Transport) (part : Nat)
  /-- POWER_TICK (R590): Every 500 aon cycles the Kettle recomputes the CCLK step from cap, temperature and throttle. -/
  | powerTick (meas : PowerMeas)
  /-- FAST_LIMIT (R591): Instantaneous power above PFAST sets the CCLK step to its minimum within 2 microseconds. -/
  | fastLimit (power : Nat)
  /-- THERMAL_TRIP (R594): TMAX reaching 115 C asserts THERMTRIP_N, fences the device and turns off the main domains. -/
  | thermalTrip (tmax : Int)
  /-- SIDEBAND_LEVEL_CHANGE (R595): A sideband input holds a new level for 25 samples and the new level is honoured. -/
  | sidebandLevelChange (n : Fin 6) (level : Bool)
  /-- CHATTER_HOLD_END (R596): A held input steady for 100 ms is honoured again. -/
  | chatterHoldEnd (n : Fin 6)
  /-- SIDEBAND_STUCK (R597): An input honoured as asserted beyond its limit sets its STUCK flag. -/
  | sidebandStuck (n : Fin 6)
  /-- TELEMETRY_TICK (R599): Every PERIOD ms the Kettle writes a TYPE 0x50 telemetry record. -/
  | telemetryTick (meas : PowerMeas)
  /-- PWR_OK_LOSS (R618): PWR_OK honoured as deasserted fences the device and turns off all but the Kettle's domain. -/
  | pwrOkLoss
  /-- PWR_OK_RESTORE (R616): PWR_OK honoured as asserted after a loss performs a device reset. -/
  | pwrOkRestore
  /-- VIN48_FAULT (R607): VIN48 out of range for 100 microseconds is treated as a loss of PWR_OK. -/
  | vin48Fault
  /-- STANDBY_LOSS (R608): VSTBY33 below 3.0 V turns off every converter and loses Kettle state except MRAM. -/
  | standbyLoss
  /-- AON_CLOCK_LOSS (R611): Loss of AON_XI switches to the internal oscillator and fences the device. -/
  | aonClockLoss
  /-- SYS_REFCLK_LOSS (R611): Loss of SYS_REFCLK is treated as a loss of PWR_OK. -/
  | sysRefclkLoss
  /-- LINK_REFCLK_LOSS (R611): Loss of LINK_REFCLK makes every link lose lock. -/
  | linkRefclkLoss
  /-- PCIE_REFCLK_LOSS (R611): Loss of PCIE_REFCLK takes every host data link down. -/
  | pcieRefclkLoss
  /-- HOST_LINK_UP (R525): A host port's data link comes up after training, setting DLUP and making the port's host epoch able to advance again and its gate able to open. -/
  | hostLinkUp (p : Port) (speed : Fin 8) (lanes : Fin 9)
  /-- FAR_CHANNEL_FAILURE (R537): A far channel fails or loses training while running and writes an error record of cause 0x26 that degrades the device. -/
  | farChannelFailure (f : Chan)
  /-- SERVER_CORE_ERROR (R537): A server core or L2 uncorrectable error writes a chip record of cause 0x35 and the cluster is taken offline. -/
  | serverCoreError (q : Cluster)
  /-- FABRIC_ERROR (R537): An uncorrectable error in the package fabric writes a chip record of cause 0x36 and fences the device. -/
  | fabricError
  /-- SYS_REFCLK_RETURN (R611): SYS_REFCLK returns within tolerance after a loss that was treated as a loss of PWR_OK. -/
  | sysRefclkReturn
  /-- VIN48_RESTORE (R607): VIN48 at VIN48_SNS returns to its operating range after a fault that was treated as a loss of PWR_OK. -/
  | vin48Restore
  deriving DecidableEq, Repr

end Sys2Proof
end

