-- ==== Sys2Proof/Decode.lean ====
section
/-! DEFINITION. The Twiex instruction word: its header and the two body layouts (06: R204 to R206; 07: R257, R258, R268), a
decoder and an encoder; and the decoder over the bits of the command table, which gives no row any bits. -/

namespace Sys2Proof

/-- The two body layouts (R257). -/
inductive Layout where
  | t | s
  deriving DecidableEq, Repr

/-- The common header of R205. -/
structure TwHead where
  opcode : BitVec 10
  cls : BitVec 4
  pred : BitVec 4
  tokIn : BitVec 6
  tokOut : BitVec 6
  cr : BitVec 1
  deriving DecidableEq, Repr

/-- The tensor layout: four descriptor indices, RM, SAT and the class fields (R257). -/
structure TBody where
  d : BitVec 8
  a : BitVec 8
  b : BitVec 8
  c : BitVec 8
  rm : BitVec 2
  sat : BitVec 1
  cf : BitVec 62
  deriving DecidableEq, Repr

/-- The scalar layout: four registers, the sub-fields and the immediate (R257). -/
structure SBody where
  rd : BitVec 5
  ra : BitVec 5
  rb : BitVec 5
  rc : BitVec 5
  sub : BitVec 13
  imm : BitVec 64
  deriving DecidableEq, Repr

/-- A decoded word. -/
inductive TwWord where
  | t (h : TwHead) (b : TBody)
  | s (h : TwHead) (b : SBody)
  deriving DecidableEq, Repr

/-- The header of a word. -/
def twHead (w : W128) : TwHead :=
  ⟨w.extractLsb' 118 10, w.extractLsb' 114 4, w.extractLsb' 110 4, w.extractLsb' 104 6, w.extractLsb' 98 6, w.extractLsb' 97 1⟩

/-- The body of a word read in the tensor layout. -/
def twT (w : W128) : TBody :=
  ⟨w.extractLsb' 89 8, w.extractLsb' 81 8, w.extractLsb' 73 8, w.extractLsb' 65 8, w.extractLsb' 63 2, w.extractLsb' 62 1,
   w.extractLsb' 0 62⟩

/-- The body of a word read in the scalar layout. -/
def twS (w : W128) : SBody :=
  ⟨w.extractLsb' 92 5, w.extractLsb' 87 5, w.extractLsb' 82 5, w.extractLsb' 77 5, w.extractLsb' 64 13, w.extractLsb' 0 64⟩

/-- A word made of a header and 97 bits. -/
def joinWord (h : TwHead) (body : BitVec 97) : W128 :=
  (h.opcode ++ h.cls ++ h.pred ++ h.tokIn ++ h.tokOut ++ h.cr ++ body).cast (by decide)

/-- The 97 bits of a tensor body. -/
def joinT (b : TBody) : BitVec 97 := (b.d ++ b.a ++ b.b ++ b.c ++ b.rm ++ b.sat ++ b.cf).cast (by decide)

/-- The 97 bits of a scalar body. -/
def joinS (b : SBody) : BitVec 97 := (b.rd ++ b.ra ++ b.rb ++ b.rc ++ b.sub ++ b.imm).cast (by decide)

/-- The opcode map of R268: class, opcode, layout, whether a sequencer runs it, whether a cell does. -/
structure OpRow where
  cls : Nat
  op : Nat
  layout : Layout
  seq : Bool
  cell : Bool
  deriving DecidableEq, Repr

/-- Opcodes lo to hi of a class that share a layout and executors. -/
def opRange (cls lo hi : Nat) (l : Layout) (seq cell : Bool) : List OpRow :=
  (List.range (hi + 1 - lo)).map (fun k => ⟨cls, lo + k, l, seq, cell⟩)

/-- The opcode map (R268). -/
def opMap : List OpRow :=
  opRange 0 0x000 0x000 .s true true ++ opRange 0 0x001 0x001 .s true false ++ opRange 0 0x002 0x004 .s true true ++
  opRange 0 0x010 0x019 .s true true ++ opRange 0 0x020 0x021 .s true true ++ opRange 0 0x030 0x030 .s true true ++
  opRange 1 0x000 0x006 .t true true ++ opRange 1 0x010 0x012 .s true true ++ opRange 1 0x018 0x01A .s true true ++
  opRange 2 0 0 .t false true ++ opRange 3 0 5 .t false true ++ opRange 4 0 5 .t false true ++
  opRange 5 0 2 .t false true ++ opRange 6 0 3 .t false true ++
  opRange 7 0 5 .t true false ++ opRange 7 0x010 0x011 .t true false ++
  opRange 8 0 1 .t true true ++ opRange 9 0 4 .t false true ++ opRange 0xA 0 2 .t false true ++
  opRange 0xB 0 3 .s true true ++
  opRange 0xC 0 1 .s true false ++ opRange 0xC 2 2 .s false true ++ opRange 0xC 3 6 .s true false

/-- The row of the opcode map for a class and opcode. -/
def opRow (cls op : Nat) : Option OpRow := opMap.find? (fun r => r.cls == cls && r.op == op)

/-- The layout of a class and opcode. -/
def opLayout (cls op : Nat) : Option Layout := (opRow cls op).map (·.layout)

/-- The decoder: an unassigned class and opcode spells nothing. -/
def decodeWord (w : W128) : Option TwWord :=
  let h := twHead w
  match opLayout h.cls.toNat h.opcode.toNat with
  | some .t => some (.t h (twT w))
  | some .s => some (.s h (twS w))
  | none => none

/-- The header of a decoded word. -/
def TwWord.head : TwWord → TwHead
  | .t h _ => h
  | .s h _ => h

/-- The layout of a decoded word. -/
def TwWord.layout : TwWord → Layout
  | .t _ _ => .t
  | .s _ _ => .s

/-- Whether a decoded word's layout is the one the opcode map gives its class and opcode. -/
def TwWord.wf (i : TwWord) : Bool := decide (opLayout i.head.cls.toNat i.head.opcode.toNat = some i.layout)

/-- The encoder. -/
def encodeWord : TwWord → W128
  | .t h b => joinWord h (joinT b)
  | .s h b => joinWord h (joinS b)

/-- The command that a word spells by the bits of the command table. The table gives no row any bits, so no word spells a
command. -/
def decodeTableWord (_nbits _w : Nat) : Option Instr := none

end Sys2Proof
end

