-- ==== Sys2Proof/Config.lean ====
section
/-! DEFINITION. What the spec leaves open: constants without a body, so that nothing can be proved of their values. -/

namespace Sys2Proof

/-- The FP32 result a unit gives where only a bound on its error is stated, by function and operand bits (R149). It is used
only where it meets the bound, or where the spec states no value. -/
opaque Config.approx : Nat → Nat → BitVec 32

/-- The FP32 result of a sum whose order the spec leaves open, by the kind of sum and the bits of its terms (R150, R178). It
is used only where it meets the bound. -/
opaque Config.sum : Nat → List Nat → BitVec 32

/-- Bytes of undefined value, by a counter and an address (R265, R276). -/
opaque Config.undefByte : Nat → Nat → Byte

/-- A choice among several that the spec leaves open, by a counter. -/
opaque Config.choice : Nat → Nat

/-- A container opened under the standard R480 names, by its code. -/
opaque Config.unpack : Nat → List Byte → Unpacked

/-- A JPEG entropy-decoded under the standard R480 names. -/
opaque Config.jpeg : List Byte → JpegData

/-- A PNG decoded to samples under the standard R480 names. -/
opaque Config.png : List Byte → PngData

/-- The JFIF conversion of R481, from Y, Cb and Cr. -/
opaque Config.jfif : Nat → Nat → Nat → Nat × Nat × Nat

/-- The single channel of a coloured pixel, which the spec does not state. -/
opaque Config.greyOf : Nat → Nat → Nat → Nat

/-- The FP32 result of a bilinear interpolation, whose order of operations the spec leaves open (R484), by the four pixels and
the two weights. It is used only where it is close to the exact value. -/
opaque Config.bilinear : List Nat → BitVec 32

/-- The character class of a code point beyond ASCII: 0 letter, 1 digit, 2 whitespace, 3 other (R485). -/
opaque Config.charClass : Nat → Nat

/-- The identity digest of the device, 48 bytes (R576). -/
opaque Config.identity : List Byte

/-- SHA-384 (R576, R582). -/
opaque Config.sha384 : List Byte → List Byte

/-- The contents of the boot ROM (R582). -/
opaque Config.bootRom : List Byte

/-- The certificate chains of the MRAM: 0 of the Ed25519 key, 1 of the ML-DSA-65 key (R578, R580, R581). -/
opaque Config.chain : Nat → List Byte

/-- The message M an SPDM response signs, by the messages exchanged and what the response holds (R581). -/
opaque Config.spdmMessage : List Byte → List Byte → List Byte

/-- The device's Ed25519 signature over a message (R580). -/
opaque Config.ed25519 : List Byte → List Byte

/-- The device's ML-DSA-65 signature over a message (R581). -/
opaque Config.mldsa : List Byte → List Byte

end Sys2Proof
end

