-- ==== Sys2Proof/Machine/Bits.lean ====
section
/-! DEFINITION. Bytes, words and bit fields: everything in memory is little-endian (R7), ranges [h:l] include both ends (R8). -/

namespace Sys2Proof.Machine

/-- Bits [lo + w - 1 : lo] of a number. -/
def bitsOf (n lo w : Nat) : Nat := n / 2 ^ lo % 2 ^ w

/-- One bit of a number. -/
def bitOf (n i : Nat) : Bool := n.testBit i

/-- 1 for true, 0 for false. -/
def bit1 (b : Bool) : Nat := if b then 1 else 0

/-- The k bytes of a number, least significant first. -/
def leBytes : Nat → Nat → List Byte
  | 0, _ => []
  | k + 1, n => BitVec.ofNat 8 n :: leBytes k (n / 256)

/-- The number a list of bytes stands for, least significant first. -/
def leNat : List Byte → Nat
  | [] => 0
  | b :: t => b.toNat + 256 * leNat t

/-- The number that bytes [i, i + k) of a list stand for. -/
def fieldAt (l : List Byte) (i k : Nat) : Nat := leNat ((l.drop i).take k)

/-- Byte i of a line. -/
def lineByte (d : Line) (i : Nat) : Byte := d.extractLsb' (8 * i) 8

/-- The line 64 bytes make. -/
def lineOf (l : List Byte) : Line := BitVec.ofNat 512 (leNat (l.take 64))

/-- A byte mask as a mask of 512 bits. -/
def maskBits (m : W64) : Line :=
  (List.range 64).foldl (fun acc i => if m.getLsbD i then acc ||| (BitVec.ofNat 512 (255 <<< (8 * i))) else acc) 0

/-- The bytes a mask selects taken from new data, the others from old data. -/
def mergeLine (old new : Line) (m : W64) : Line := (old &&& ~~~ (maskBits m)) ||| (new &&& maskBits m)

/-- The mask of n bytes from offset o on. -/
def byteMask (o n : Nat) : W64 := BitVec.ofNat 64 ((2 ^ n - 1) <<< o)

/-- The mask of all 64 bytes. -/
def fullMask : W64 := BitVec.allOnes 64

/-- The four mask bits of 32-bit word i of a line. -/
def wordMask (m : W64) (i : Nat) : Nat := bitsOf m.toNat (4 * i) 4

/-- The poison bits of a line's sixteen words after a write (R627): a write that carries poison stores every word it
touches as poison; one that carries none clears the words all four bytes of which it writes. -/
def poisonAfter (old : BitVec 16) (m : W64) (poison : Bool) : BitVec 16 :=
  (List.range 16).foldl (fun (acc : BitVec 16) i =>
    let was := old.getLsbD i
    let now := if poison then was || decide (wordMask m i ≠ 0) else was && !decide (wordMask m i = 15)
    if now then acc ||| (1#16 <<< i) else acc) 0

/-- A number as a signed number of w bits. -/
def signedOf (w n : Nat) : Int := if n % 2 ^ w < 2 ^ (w - 1) then (n % 2 ^ w : Nat) else ((n % 2 ^ w : Nat) : Int) - 2 ^ w

/-- A signed number in w bits of two's complement. -/
def unsignedOf (w : Nat) (i : Int) : Nat := (i % (2 ^ w : Int)).toNat

/-- Round up division. -/
def ceilDiv (a b : Nat) : Nat := (a + b - 1) / b

/-- List replacement at an index. -/
def setAt {α : Type} : List α → Nat → α → List α
  | [], _, _ => []
  | _ :: t, 0, v => v :: t
  | x :: t, n + 1, v => x :: setAt t n v

/-- The numbers of the set bits among the lowest n bits. -/
def setBits (x n : Nat) : List Nat := (List.range n).filter (fun i => x.testBit i)

end Sys2Proof.Machine
end

