-- ==== Sys2Proof/Machine/Numbers.lean ====
section
/-! DEFINITION. Number formats, rounding and conversion (04: R116 to R143). A value is exact: a sign, a natural number and
a power of two; arithmetic is exact and is rounded once. -/

namespace Sys2Proof.Machine

/-- A value: NaN, an infinity, or (-1)^neg × m × 2^e exactly, zeros signed (R117 to R119). -/
inductive Num where
  | nan
  | inf (neg : Bool)
  | fin (neg : Bool) (m : Nat) (e : Int)
  deriving DecidableEq, Repr

/-- How a floating-point format writes infinity and NaN (R117, R127). -/
inductive Specials where
  | ieee | e4m3 | none
  deriving DecidableEq, Repr

/-- A floating-point format: exponent bits, fraction bits, bias, and its special encodings (R117, R127). -/
structure FFmt where
  eb : Nat
  mb : Nat
  bias : Nat
  sp : Specials
  deriving DecidableEq, Repr

/-- FP64. -/
def f64 : FFmt := ⟨11, 52, 1023, .ieee⟩
/-- FP32. -/
def f32 : FFmt := ⟨8, 23, 127, .ieee⟩
/-- FP32X, its word followed by its extension byte (R120). -/
def f32x : FFmt := ⟨8, 31, 127, .ieee⟩
/-- BF16. -/
def bf16 : FFmt := ⟨8, 7, 127, .ieee⟩
/-- FP16. -/
def f16 : FFmt := ⟨5, 10, 15, .ieee⟩
/-- E4M3. -/
def e4m3 : FFmt := ⟨4, 3, 7, .e4m3⟩
/-- E5M2. -/
def e5m2 : FFmt := ⟨5, 2, 15, .ieee⟩
/-- E3M2, an MX element. -/
def e3m2 : FFmt := ⟨3, 2, 3, .none⟩
/-- E2M3, an MX element. -/
def e2m3 : FFmt := ⟨2, 3, 1, .none⟩
/-- E2M1, an MX element. -/
def e2m1 : FFmt := ⟨2, 1, 1, .none⟩

/-- The bits of an element of a format. -/
def FFmt.width (f : FFmt) : Nat := 1 + f.eb + f.mb

/-- The largest exponent field of a finite encoding. -/
def FFmt.topE (f : FFmt) : Nat := if f.sp = .ieee then 2 ^ f.eb - 2 else 2 ^ f.eb - 1

/-- The significand of the largest finite value, as a number of mb + 1 bits. -/
def FFmt.topM (f : FFmt) : Nat := if f.sp = .e4m3 then 2 ^ (f.mb + 1) - 2 else 2 ^ (f.mb + 1) - 1

/-- The exponent of the last place of the largest finite value. -/
def FFmt.topQ (f : FFmt) : Int := (f.topE : Int) - f.bias - f.mb

/-- The exponent of the last place of a subnormal. -/
def FFmt.lowQ (f : FFmt) : Int := 1 - (f.bias : Int) - f.mb

/-- The canonical NaN of a format (R119); that of E5M2, the one format of its kind with two fraction bits, is 0x7F. A format without
NaN has none and answers 0. -/
def FFmt.nan (f : FFmt) : Nat :=
  match f.sp with
  | .ieee => if f.mb = 2 then 2 ^ (f.eb + f.mb) - 1 else (2 ^ f.eb - 1) * 2 ^ f.mb + 2 ^ (f.mb - 1)
  | .e4m3 => 2 ^ (f.eb + f.mb) - 1
  | .none => 0

/-- The value of an encoding (R117, R127). -/
def FFmt.decode (f : FFmt) (b : Nat) : Num :=
  let s := bitOf b (f.eb + f.mb)
  let e := bitsOf b f.mb f.eb
  let m := bitsOf b 0 f.mb
  if f.sp = .ieee ∧ e = 2 ^ f.eb - 1 then (if m = 0 then .inf s else .nan)
  else if f.sp = .e4m3 ∧ e = 2 ^ f.eb - 1 ∧ m = 2 ^ f.mb - 1 then .nan
  else if e = 0 then .fin s m f.lowQ
  else .fin s (2 ^ f.mb + m) ((e : Int) - f.bias - f.mb)

/-- Whether an encoding is a subnormal. -/
def FFmt.isSub (f : FFmt) (b : Nat) : Bool := bitsOf b f.mb f.eb == 0 && bitsOf b 0 f.mb != 0

/-- The rounding modes of R133, the stochastic one with its N and random bits (R142). -/
inductive Rm where
  | nearest
  | zero
  | stoch (n u : Nat)
  deriving DecidableEq, Repr

/-- The rounding mode an RM field names; the stochastic mode is given its bits where it is used. -/
def Rm.ofField (n : Nat) : Rm := if n = 1 then .zero else .nearest

/-- An exact magnitude m × 2^e rounded to a multiple of 2^q, as that multiple (R133, R134, R142). -/
def roundTo (rm : Rm) (m : Nat) (e q : Int) : Nat :=
  if q ≤ e then m * 2 ^ (e - q).toNat
  else
    let k := (q - e).toNat
    let t := m / 2 ^ k
    let r := m % 2 ^ k
    match rm with
    | .zero => t
    | .nearest => if 2 * r < 2 ^ k then t else if 2 ^ k < 2 * r then t + 1 else t + t % 2
    | .stoch n u => if r * 2 ^ n / 2 ^ k + u ≥ 2 ^ n ∧ r ≠ 0 then t + 1 else t

/-- The exponent of the last place a magnitude is rounded at in a format. -/
def FFmt.placeOf (f : FFmt) (m : Nat) (e : Int) : Int := max ((Nat.log2 m : Int) + e - f.mb) f.lowQ

/-- What a conversion wrote: the encoding, and whether it is a NaN, an overflow, a NaN for want of an infinity, or a
subnormal. -/
structure Enc where
  bits : Nat
  nan : Bool := false
  ovf : Bool := false
  sub : Bool := false
  deriving DecidableEq, Repr

/-- The encoding of a significand M at place q, M below 2^(mb+1). -/
def FFmt.pack (f : FFmt) (s : Bool) (m : Nat) (q : Int) : Nat :=
  let sign := bit1 s * 2 ^ (f.eb + f.mb)
  if m < 2 ^ f.mb then sign + m
  else sign + (q + f.bias + f.mb).toNat * 2 ^ f.mb + (m - 2 ^ f.mb)

/-- The largest finite value with a sign. -/
def FFmt.big (f : FFmt) (s : Bool) : Nat := f.pack s f.topM f.topQ

/-- The infinity of a format, or its NaN where it has none. -/
def FFmt.infBits (f : FFmt) (s : Bool) : Nat :=
  match f.sp with
  | .ieee => bit1 s * 2 ^ (f.eb + f.mb) + (2 ^ f.eb - 1) * 2 ^ f.mb
  | _ => f.nan

/-- The conversion of a value to a format under RM and SAT, overflow and infinities as R136 gives. R136 has no column for stochastic
rounding with SAT = 0: an overflow gives infinity there, NaN in E4M3, as for nearest (DESIGN CHOICE, log entry 90). -/
def FFmt.encode (f : FFmt) (rm : Rm) (sat : Bool) : Num → Enc
  | .nan => { bits := f.nan, nan := true }
  | .inf s =>
    match f.sp with
    | .ieee => { bits := f.infBits s }
    | .e4m3 => if sat then { bits := f.big s } else { bits := f.nan, nan := true }
    | .none => { bits := f.big s }
  | .fin s m e =>
    if m = 0 then { bits := bit1 s * 2 ^ (f.eb + f.mb) }
    else
      let q := f.placeOf m e
      let t := roundTo rm m e q
      let (t, q) := if t = 2 ^ (f.mb + 1) then (2 ^ f.mb, q + 1) else (t, q)
      let tooBig := decide (f.topQ < q) || (decide (q = f.topQ) && decide (f.topM < t))
      if tooBig then
        if sat || decide (rm = .zero) || decide (f.sp = .none) then { bits := f.big s, ovf := true }
        else match f.sp with
          | .e4m3 => { bits := f.nan, nan := true, ovf := true }
          | _ => { bits := f.infBits s, ovf := true }
      else { bits := f.pack s t q, sub := decide (t < 2 ^ f.mb) && decide (t ≠ 0) }

/-- The sign of a value. -/
def Num.neg? : Num → Bool
  | .nan => false
  | .inf s => s
  | .fin s _ _ => s

/-- Whether a value is a NaN. -/
def Num.isNan : Num → Bool
  | .nan => true
  | _ => false

/-- Whether a value is a zero of either sign. -/
def Num.isZero : Num → Bool
  | .fin _ 0 _ => true
  | _ => false

/-- The negative of a value. -/
def Num.negate : Num → Num
  | .nan => .nan
  | .inf s => .inf (!s)
  | .fin s m e => .fin (!s) m e

/-- The magnitude of a value. -/
def Num.abs : Num → Num
  | .nan => .nan
  | .inf _ => .inf false
  | .fin _ m e => .fin false m e

/-- A signed integer times a power of two as a value; a zero takes the sign given. -/
def Num.ofInt (i : Int) (e : Int) (zeroNeg : Bool := false) : Num :=
  if i = 0 then .fin zeroNeg 0 0 else .fin (decide (i < 0)) i.natAbs e

/-- A finite magnitude as a signed integer at a place at or below its exponent. -/
def signedAt (s : Bool) (m : Nat) (e q : Int) : Int :=
  let v : Int := ((m * 2 ^ (e - q).toNat : Nat) : Int)
  if s then -v else v

/-- The exact sum. A zero sum of two zeros of like sign keeps the sign, any other zero sum is +0. -/
def Num.add : Num → Num → Num
  | .nan, _ => .nan
  | _, .nan => .nan
  | .inf a, .inf b => if a = b then .inf a else .nan
  | .inf a, _ => .inf a
  | _, .inf b => .inf b
  | .fin s1 m1 e1, .fin s2 m2 e2 =>
    if m1 = 0 ∧ m2 = 0 then .fin (s1 && s2) 0 0
    else if m1 = 0 then .fin s2 m2 e2
    else if m2 = 0 then .fin s1 m1 e1
    else
      let q := min e1 e2
      Num.ofInt (signedAt s1 m1 e1 q + signedAt s2 m2 e2 q) q

/-- The exact difference. -/
def Num.sub (a b : Num) : Num := a.add b.negate

/-- The exact product. -/
def Num.mul : Num → Num → Num
  | .nan, _ => .nan
  | _, .nan => .nan
  | .inf a, .inf b => .inf (a != b)
  | .inf a, .fin s m _ => if m = 0 then .nan else .inf (a != s)
  | .fin s m _, .inf b => if m = 0 then .nan else .inf (s != b)
  | .fin s1 m1 e1, .fin s2 m2 e2 => .fin (s1 != s2) (m1 * m2) (e1 + e2)

/-- A value times a power of two. -/
def Num.scale (n : Num) (k : Int) : Num :=
  match n with
  | .fin s m e => .fin s m (e + k)
  | v => v

/-- The quotient with at least 96 significant bits and a last bit that tells an inexact one, so that one rounding to any
format of the device is correct. -/
def Num.div : Num → Num → Num
  | .nan, _ => .nan
  | _, .nan => .nan
  | .inf _, .inf _ => .nan
  | .inf a, b => .inf (a != b.neg?)
  | a, .inf b => .fin (a.neg? != b) 0 0
  | .fin s1 m1 e1, .fin s2 m2 e2 =>
    if m2 = 0 then (if m1 = 0 then .nan else .inf (s1 != s2))
    else
      let k := 96 + Nat.log2 m2
      let n := m1 * 2 ^ k
      let q := n / m2
      .fin (s1 != s2) (2 * q + bit1 (decide (n % m2 ≠ 0))) (e1 - e2 - k - 1)

/-- The integer square root, by bits from the top. -/
def isqrtStep : Nat → Nat → Nat → Nat
  | 0, _, r => r
  | k + 1, n, r => if (r + 2 ^ k) * (r + 2 ^ k) ≤ n then isqrtStep k n (r + 2 ^ k) else isqrtStep k n r

/-- The integer square root. -/
def isqrt (n : Nat) : Nat := isqrtStep (Nat.log2 n / 2 + 1) n 0

/-- The square root with at least 96 significant bits and a last bit that tells an inexact one. -/
def Num.sqrt : Num → Num
  | .nan => .nan
  | .inf s => if s then .nan else .inf false
  | .fin s m e =>
    if m = 0 then .fin s 0 0
    else if s then .nan
    else
      let k : Nat := 192 + (if (e % 2 = 0) then 0 else 1)
      let n := m * 2 ^ k
      let r := isqrt n
      .fin false (2 * r + bit1 (decide (r * r ≠ n))) ((e - k) / 2 - 1)

/-- Comparison of two values that are not NaN: negative, zero or positive as the first is less, equal or greater; zeros of
either sign are equal. -/
def Num.cmp (a b : Num) : Int :=
  match a, b with
  | .inf x, .inf y => (bit1 y : Int) - bit1 x
  | .inf x, _ => if x then -1 else 1
  | _, .inf y => if y then 1 else -1
  | .fin s1 m1 e1, .fin s2 m2 e2 =>
    let q := min e1 e2
    let d := signedAt s1 m1 e1 q - signedAt s2 m2 e2 q
    if d < 0 then -1 else if d = 0 then 0 else 1
  | _, _ => 0

/-- The minimum of IEEE 754-2019 (R149): a NaN operand gives NaN, -0 is less than +0. -/
def Num.min2 (a b : Num) : Num :=
  if a.isNan || b.isNan then .nan
  else if a.isZero && b.isZero then (if a.neg? then a else b)
  else if a.cmp b ≤ 0 then a else b

/-- The maximum of IEEE 754-2019 (R149). -/
def Num.max2 (a b : Num) : Num :=
  if a.isNan || b.isNan then .nan
  else if a.isZero && b.isZero then (if a.neg? then b else a)
  else if 0 ≤ a.cmp b then a else b

/-- The FP32 add of an atomic (R103): nearest even, subnormals kept, the canonical NaN when an operand is a NaN. -/
def fadd32 (old a : Nat) : Nat :=
  (f32.encode .nearest false ((f32.decode (old % 2 ^ 32)).add (f32.decode (a % 2 ^ 32)))).bits

/-- A value rounded to a signed integer of w bits, saturated to its range; a NaN is written as 0 (R136, R137). -/
def encodeInt (w : Nat) (rm : Rm) : Num → Enc
  | .nan => { bits := 0, nan := true }
  | .inf s => { bits := if s then 2 ^ (w - 1) else 2 ^ (w - 1) - 1 }
  | .fin s m e =>
    let t := roundTo rm m e 0
    let i : Int := if s then -(t : Int) else (t : Int)
    let lo : Int := -(2 ^ (w - 1) : Nat)
    let hi : Int := (2 ^ (w - 1) : Nat) - 1
    if i < lo then { bits := 2 ^ (w - 1), ovf := true }
    else if hi < i then { bits := 2 ^ (w - 1) - 1, ovf := true }
    else { bits := unsignedOf w i }

/-- Philox-4×32-10 (R139). -/
def philox (c0 c1 c2 c3 k0 k1 : Nat) : Nat × Nat × Nat × Nat :=
  let go : Nat → Nat × Nat × Nat × Nat × Nat × Nat → Nat × Nat × Nat × Nat × Nat × Nat := fun _ st =>
    let (c0, c1, c2, c3, k0, k1) := st
    let p0 := 0xD2511F53 * c0
    let p1 := 0xCD9E8D57 * c2
    ((p1 / 2 ^ 32).xor (c1.xor k0), p1 % 2 ^ 32, (p0 / 2 ^ 32).xor (c3.xor k1), p0 % 2 ^ 32,
     (k0 + 0x9E3779B9) % 2 ^ 32, (k1 + 0xBB67AE85) % 2 ^ 32)
  let (a, b, c, d, _, _) := (List.range 10).foldl (fun st i => go i st) (c0, c1, c2, c3, k0, k1)
  (a, b, c, d)

/-- The N random bits of an element for stochastic rounding (R140). -/
def stochBits (seed stream step i n : Nat) : Nat :=
  (philox (stream % 2 ^ 32) (step % 2 ^ 32) (i % 2 ^ 32) (i / 2 ^ 32 % 2 ^ 32) (seed % 2 ^ 32) (seed / 2 ^ 32 % 2 ^ 32)).1 / 2 ^ (32 - n)

end Sys2Proof.Machine
end

