-- ==== Sys2Proof/Machine/Approx.lean ====
section
/-! DEFINITION. The functions that are not correctly rounded (04: R149, R150; 05: R162): a reference value to far more places
than FP32 holds, and the free FP32 result within the stated bound of it. -/

namespace Sys2Proof.Machine

/-- 1; the reference counts values in units of 2^-384. -/
def fixOne : Int := 2 ^ 384
/-- The number pi. -/
def fixPi : Int := 0x3243f6a8885a308d313198a2e03707344a4093822299f31d0082efa98ec4e6c89452821e638d01377be5466cf34e90c6c
/-- The natural logarithm of 2. -/
def fixLn2 : Int := 0xb17217f7d1cf79abc9e3b39803f2f6af40f343267298b62d8a0d175b8baafa2be7b876206debac98559552fb4afa1b10
/-- 2 / sqrt(pi). -/
def fixTwoRootPi : Int := 0x120dd750429b6d11ae3a914fed7fd8688281341d7587cea2e7342b06199cc416180eb39f0b24e1e2281806c12d98f35d7

/-- Product of fixed-point numbers. -/
def fixMul (a b : Int) : Int := a * b / fixOne
/-- Quotient of fixed-point numbers. -/
def fixDiv (a b : Int) : Int := a * fixOne / b

/-- A finite value as a fixed-point number. -/
def Num.toFix : Num → Int
  | .fin s m e =>
    let v : Int := if 0 ≤ e + 384 then ((m * 2 ^ (e + 384).toNat : Nat) : Int) else ((m / 2 ^ (-(e + 384)).toNat : Nat) : Int)
    if s then -v else v
  | _ => 0

/-- A fixed-point number as a value. -/
def Num.ofFix (i : Int) : Num := Num.ofInt i (-384)

/-- The sum of x^k / k! from a term on. -/
def expSeries (x : Int) : Nat → Nat → Int → Int
  | 0, _, _ => 0
  | n + 1, k, t => t + expSeries x n (k + 1) (fixMul t x / (k + 1 : Nat))

/-- The alternating series of sine or cosine from a term on, x2 the square. -/
def trigSeries (x2 : Int) : Nat → Nat → Int → Int
  | 0, _, _ => 0
  | n + 1, k, t => t + trigSeries x2 n (k + 2) (-(fixMul t x2) / ((k + 1) * (k + 2) : Nat))

/-- The series of the inverse hyperbolic tangent, t the current odd power. -/
def atanhSeries (x2 : Int) : Nat → Nat → Int → Int
  | 0, _, _ => 0
  | n + 1, k, t => t / (k : Nat) + atanhSeries x2 n (k + 2) (fixMul t x2)

/-- The series of erf without its factor, t the current term times its odd divisor. -/
def erfSeries (x2 : Int) : Nat → Nat → Int → Int
  | 0, _, _ => 0
  | n + 1, k, t => t / (2 * k + 1 : Nat) + erfSeries x2 n (k + 1) (-(fixMul t x2) / (k + 1 : Nat))

/-- e^x for a fixed-point x of moderate size. -/
def expFix (x : Int) : Num :=
  let k := (x + fixLn2 / 2) / fixLn2
  (Num.ofFix (expSeries (x - k * fixLn2) 80 0 fixOne)).scale k

/-- 1 as a value. -/
def Num.one : Num := .fin false 1 0

/-- e^x. -/
def refExp : Num → Num
  | .nan => .nan
  | .inf s => if s then .fin false 0 0 else .inf false
  | .fin s m e =>
    if m = 0 then Num.one
    else if 10 ≤ (Nat.log2 m : Int) + e then (if s then .fin false 1 (-400) else .inf false)
    else expFix (Num.toFix (.fin s m e))

/-- 2^x. -/
def refExp2 : Num → Num
  | .nan => .nan
  | .inf s => if s then .fin false 0 0 else .inf false
  | .fin s m e =>
    if m = 0 then Num.one
    else if 10 ≤ (Nat.log2 m : Int) + e then (if s then .fin false 1 (-400) else .inf false)
    else
      let x := Num.toFix (.fin s m e)
      let k := x / fixOne
      (expFix (fixMul (x - k * fixOne) fixLn2)).scale k

/-- The natural logarithm of a positive value as a fixed-point number. -/
def logFix (m : Nat) (e : Int) : Int :=
  let k : Int := (Nat.log2 m : Int)
  let f : Int := ((m * 2 ^ 384 : Nat) : Int) / (2 ^ Nat.log2 m : Nat)
  let z := fixDiv (f - fixOne) (f + fixOne)
  2 * atanhSeries (fixMul z z) 130 1 z + (k + e) * fixLn2

/-- log x: -infinity at either zero, NaN below zero. -/
def refLog : Num → Num
  | .nan => .nan
  | .inf s => if s then .nan else .inf false
  | .fin s m e => if m = 0 then .inf true else if s then .nan else Num.ofFix (logFix m e)

/-- log2 x. -/
def refLog2 : Num → Num
  | .nan => .nan
  | .inf s => if s then .nan else .inf false
  | .fin s m e => if m = 0 then .inf true else if s then .nan else Num.ofFix (fixDiv (logFix m e) fixLn2)

/-- Whether a magnitude is so small that a function with slope 1 at 0 is its argument to far below an ulp. -/
def Num.tiny : Num → Bool
  | .fin _ m e => m == 0 || decide ((Nat.log2 m : Int) + e < -60)
  | _ => false

/-- tanh x. -/
def refTanh : Num → Num
  | .nan => .nan
  | .inf s => .fin s 1 0
  | .fin s m e =>
    if (Num.fin s m e).tiny then .fin s m e
    else if 7 ≤ (Nat.log2 m : Int) + e then .fin s 1 0
    else
      let t := expFix (2 * Num.toFix (.fin s m e))
      (t.sub Num.one).div (t.add Num.one)

/-- 1 / (1 + e^-x). -/
def refSigmoid : Num → Num
  | .nan => .nan
  | .inf s => if s then .fin false 0 0 else Num.one
  | .fin s m e =>
    let t := refExp (.fin s m e)
    match t with
    | .inf _ => Num.one
    | t => t.div (t.add Num.one)

/-- erf x. -/
def refErf : Num → Num
  | .nan => .nan
  | .inf s => .fin s 1 0
  | .fin s m e =>
    let x := Num.fin s m e
    if m = 0 then x
    else if x.tiny then x.mul (Num.ofFix fixTwoRootPi)
    else if 3 ≤ (Nat.log2 m : Int) + e then .fin s 1 0
    else
      let f := x.toFix
      Num.ofFix (fixMul (erfSeries (fixMul f f) 400 0 f) fixTwoRootPi)

/-- An angle reduced to one turn. -/
def turn (x : Num) : Int := x.toFix % (2 * fixPi)

/-- sin x. -/
def refSin : Num → Num
  | .fin s m e =>
    let x := Num.fin s m e
    if x.tiny then x else let r := turn x; Num.ofFix (trigSeries (fixMul r r) 90 1 r)
  | _ => .nan

/-- cos x. -/
def refCos : Num → Num
  | .fin s m e =>
    let x := Num.fin s m e
    if x.tiny then Num.one else let r := turn x; Num.ofFix (trigSeries (fixMul r r) 90 0 fixOne)
  | _ => .nan

/-- 1 / x. -/
def refRecip (x : Num) : Num := Num.one.div x

/-- 1 / sqrt x: infinity of its sign at a zero. -/
def refRsqrt : Num → Num
  | .fin s m e => if m = 0 then .inf s else if s then .nan else Num.one.div (Num.sqrt (.fin s m e))
  | .inf s => if s then .nan else .fin false 0 0
  | .nan => .nan

/-- The exponent of an ulp of R149 at a value: max(floor(log2 |y|), -126) - 23. -/
def ulpExp : Num → Int
  | .fin _ m e => if m = 0 then -149 else max ((Nat.log2 m : Int) + e) (-126) - 23
  | _ => -149

/-- The absolute term that a result below 2^-126 adds to a bound (R148), in units of 2^-149: 2^-126 once, since a vector function
has neither a k nor terms to count (DESIGN CHOICE, log entry 92). -/
def tinyTerm : Num → Nat
  | .fin _ m e => if m ≠ 0 ∧ (Nat.log2 m : Int) + e < -126 then 2 ^ 23 else 0
  | _ => 0

/-- Whether two finite values are no further apart than a bound n * 2^q. -/
def withinBound (a b : Num) (n : Nat) (q : Int) : Bool :=
  match a, b with
  | .fin _ _ _, .fin _ _ _ => decide ((a.sub b).abs.cmp (.fin false n q) ≤ 0)
  | _, _ => false

/-- An FP32 result within a bound of the exact one: the free result where it meets the bound, else the reference rounded under a
mode. A special reference (NaN, infinity, zero) is the result. -/
def boundedF32 (rm : Rm) (ref : Num) (n : Nat) (q : Int) (free : BitVec 32) : Nat :=
  let rn := (f32.encode rm false ref).bits
  match ref with
  | .fin _ m _ => if m ≠ 0 ∧ withinBound (f32.decode free.toNat) ref n q = true then free.toNat else rn
  | _ => rn

/-- The factor by which rounding toward zero widens a bound (R148). -/
def Rm.widen : Rm → Nat
  | .zero => 2
  | _ => 1

/-- The functions of VEC.UN that are not correctly rounded, by FN (R149, R287): the reference and the ulps allowed. -/
def refFn (fn : Nat) (x : Num) : Num × Nat :=
  if fn = 3 then (refRecip x, 1) else if fn = 4 then (refRsqrt x, 1)
  else if fn = 6 then (refExp x, 2) else if fn = 7 then (refExp2 x, 2)
  else if fn = 8 then (refLog x, 2) else if fn = 9 then (refLog2 x, 2)
  else if fn = 10 then (refTanh x, 2) else if fn = 11 then (refSigmoid x, 2)
  else if fn = 12 then (refErf x, 2) else if fn = 13 then (refSin x, 2) else (refCos x, 2)

/-- Whether an argument is beyond 2^20, where sine and cosine are only absolutely bounded (R149). -/
def beyond20 : Num → Bool
  | .fin _ m e => decide ((Num.fin false m e).cmp (.fin false 1 20) > 0)
  | _ => false

/-- A function evaluated in FP32 on an FP32 encoding. exp and exp2 of a large argument are infinity whatever RM (R149). -/
def approxFn (rm : Rm) (fn bits : Nat) : Nat :=
  let x := f32.decode bits
  let (ref, n) := refFn fn x
  let free := Sys2Proof.Config.approx fn bits
  if (fn = 13 ∨ fn = 14) ∧ beyond20 x = true then boundedF32 rm ref rm.widen (-22) free
  else boundedF32 (if fn = 6 ∨ fn = 7 then .nearest else rm) ref (n * rm.widen + tinyTerm ref) (ulpExp ref) free

/-- The partial sums of FP32 terms in ascending order, each rounded, the last one first. -/
def partials (rm : Rm) : List Nat → List Nat
  | [] => [0]
  | a :: t => t.foldl (fun (acc : List Nat) b =>
      (f32.encode rm false ((f32.decode (acc.headD 0)).add (f32.decode b))).bits :: acc) [a]

/-- Whether FP32 bits hold a magnitude below 2^-126. -/
def below126 (b : Nat) : Bool := decide (b % 2 ^ 31 < 2 ^ 23)

/-- A sum of FP32 terms in an order the spec leaves open (R148, R150): the free result within (n - 1) 2^-24 sum |x| of the exact
sum, and within (n - 1) 2^-126 more where the result or an intermediate lies below 2^-126; else the sum in ascending order. The
intermediates looked at are those of the ascending order (DESIGN CHOICE, log entry 91). kind tells sums of different uses apart. -/
def openSum (rm : Rm) (kind : Nat) (terms : List Nat) : Nat :=
  let vals := terms.map f32.decode
  let asc := (partials rm terms).headD 0
  let exact := vals.foldl Num.add (.fin false 0 0)
  let mags := (vals.map Num.abs).foldl Num.add (.fin false 0 0)
  let free := Sys2Proof.Config.sum kind terms
  match exact, f32.decode free.toNat with
  | .fin _ _ _, .fin s m e =>
    let d := ((Num.fin s m e).sub exact).abs
    let small := below126 free.toNat || (partials rm terms).any below126
    let b := (mags.mul (.fin false ((terms.length - 1) * rm.widen) (-24))).add
      (.fin false (if small then terms.length - 1 else 0) (-126))
    if decide (d.cmp b ≤ 0) then free.toNat else asc
  | _, _ => asc

end Sys2Proof.Machine
end

