-- ==== Sys2Proof/Machine/Codec.lean ====
section
/-! DEFINITION. The lossless code for compressed streams and segments (11: R407 to R415): tables, blocks, the decoder with
its checks, and the one encoding the device writes. -/

namespace Sys2Proof.Machine

/-- One byte taken into a CRC-32 of the IEEE 802.3 polynomial, bit by bit, reflected. -/
def crcByte (c : Nat) (b : Byte) : Nat :=
  (List.range 8).foldl (fun (c : Nat) _ => if c % 2 = 1 then Nat.xor (c / 2) 0xEDB88320 else c / 2) (Nat.xor c b.toNat)

/-- The CRC-32 of a list of bytes. -/
def crc32 (l : List Byte) : Nat := Nat.xor (l.foldl crcByte 0xFFFFFFFF) 0xFFFFFFFF

/-- The bits of a number, least significant first. -/
def bitsLe (w n : Nat) : List Bool := (List.range w).map (fun i => n.testBit i)

/-- The number some bits stand for, least significant first. -/
def natLe : List Bool → Nat
  | [] => 0
  | b :: t => bit1 b + 2 * natLe t

/-- Bits packed into bytes, least significant bit first, the last byte filled up with zeros. -/
def packBits : Nat → List Bool → List Byte
  | 0, _ => []
  | n + 1, l => if l.isEmpty then [] else BitVec.ofNat 8 (natLe (l.take 8)) :: packBits n (l.drop 8)

/-- All of a list of bits packed into bytes. -/
def packAll (l : List Bool) : List Byte := packBits (l.length / 8 + 1) l

/-- The bits of some bytes. -/
def unpackBits (l : List Byte) : List Bool := l.flatMap (fun b => bitsLe 8 b.toNat)

/-- How an element is split into planes (R408): the bytes of an element, whether it has a sign, and the widths of the
exponent symbol, the mantissa-high symbol and the remainder. -/
structure Planes where
  bytes : Nat
  sign : Bool
  eb : Nat
  mb : Nat
  rb : Nat
  deriving DecidableEq, Repr

/-- The split of a format code (R408); formats not listed are coded as bytes. -/
def planesOf (fmt : Nat) : Planes :=
  if fmt = 0x00 ∨ fmt = 0x01 then ⟨4, true, 8, 4, 19⟩
  else if fmt = 0x02 then ⟨2, true, 8, 4, 3⟩
  else if fmt = 0x03 then ⟨2, true, 5, 4, 6⟩
  else if fmt = 0x08 then ⟨1, true, 4, 3, 0⟩
  else if fmt = 0x09 then ⟨1, true, 5, 2, 0⟩
  else ⟨1, false, 8, 0, 0⟩

/-- Whether a block of a format may code its mantissa-high plane: its cost is then 16 or less (R413). -/
def mcodedAllowed (p : Planes) : Bool :=
  p.mb != 0 && decide (2 + ceilDiv (4096 / p.bytes) 512 + ceilDiv (4096 / p.bytes) 512 ≤ 16)

/-- The element words of a block's bytes. -/
def blockWords (p : Planes) (l : List Byte) : List Nat := (List.range (4096 / p.bytes)).map (fun i => fieldAt l (i * p.bytes) p.bytes)

/-- The exponent symbol of an element. -/
def expSym (p : Planes) (w : Nat) : Nat := bitsOf w (p.mb + p.rb) p.eb
/-- The mantissa-high symbol of an element. -/
def manSym (p : Planes) (w : Nat) : Nat := bitsOf w p.rb p.mb
/-- The sign of an element. -/
def signSym (p : Planes) (w : Nat) : Nat := if p.sign then bitsOf w (p.eb + p.mb + p.rb) 1 else 0

/-- How often each symbol of an alphabet occurs. -/
def histogram (n : Nat) (l : List Nat) : List Nat := (List.range n).map (fun k => l.countP (· == k))

/-- The lowest index of a largest entry. -/
def argmax (l : List Nat) : Nat :=
  ((List.range l.length).foldl (fun (b : Nat) i => if l.getD b 0 < l.getD i 0 then i else b) 0)

/-- Counts above 1,024 are taken off the largest, one by one. -/
def takeDown : Nat → List Nat → List Nat
  | 0, f => f
  | n + 1, f => if f.sum ≤ 1024 then f else takeDown n (setAt f (argmax f) (f.getD (argmax f) 0 - 1))

/-- Normalised counts (R410). -/
def normalise (c : List Nat) : List Nat :=
  let total := c.sum
  let f0 := c.map (fun x => if x = 0 then 0 else max 1 (x * 1024 / max total 1))
  let f := takeDown 512 f0
  if f.sum < 1024 then setAt f (argmax c) (f.getD (argmax c) 0 + 1024 - f.sum) else f

/-- One state of the decoding table: symbol, bits to read, base (R411). -/
structure AnsState where
  sym : Nat
  nb : Nat
  base : Nat
  deriving DecidableEq, Repr

/-- The symbols spread over the 1,024 states (R411). -/
def spread (f : List Nat) : List Nat :=
  let seq := (List.range f.length).flatMap (fun s => List.replicate (f.getD s 0) s)
  ((List.range seq.length).foldl (fun (t : List Nat) i => setAt t (i * 643 % 1024) (seq.getD i 0)) (List.replicate 1024 0))

/-- The decoding table of a plane (R411). -/
def ansTable (f : List Nat) : List AnsState :=
  let go (acc : List Nat × List AnsState) (s : Nat) : List Nat × List AnsState :=
    let k := acc.1.getD s 1
    let nb := 10 - Nat.log2 k
    (setAt acc.1 s (k + 1), acc.2 ++ [⟨s, nb, k * 2 ^ nb - 1024⟩])
  ((spread f).foldl go (f, [])).2

/-- The entry of a state. -/
def ansAt (t : List AnsState) (x : Nat) : AnsState := t.getD x ⟨0, 0, 0⟩

/-- Decodes n symbols from a state and bits: the symbols, the final state, the bits left; none when the bits run out. -/
def ansDecode (t : List AnsState) : Nat → Nat → List Bool → Option (List Nat × Nat × List Bool)
  | 0, x, bits => some ([], x, bits)
  | n + 1, x, bits =>
    let e := ansAt t x
    if bits.length < e.nb then none
    else match ansDecode t n (e.base + natLe (bits.take e.nb)) (bits.drop e.nb) with
      | some (l, y, r) => some (e.sym :: l, y, r)
      | none => none

/-- Encodes symbols so that decoding ends in state 0: the state before them and the bits. -/
def ansEncode (t : List AnsState) : List Nat → Nat × List Bool
  | [] => (0, [])
  | s :: l =>
    let (y, bits) := ansEncode t l
    let x := ((List.range 1024).find? (fun x =>
      let e := ansAt t x
      e.sym == s && decide (e.base ≤ y) && decide (y < e.base + 2 ^ e.nb))).getD 0
    (x, bitsLe (ansAt t x).nb (y - (ansAt t x).base) ++ bits)

/-- The counts in a table header field: 11 bits each, packed. -/
def packCounts (l : List Nat) : List Byte := packAll (l.flatMap (bitsLe 11))

/-- The counts read back. -/
def readCounts (n : Nat) (l : List Byte) : List Nat :=
  let b := unpackBits l
  (List.range n).map (fun i => natLe ((b.drop (11 * i)).take 11))

/-- Pads with zero bytes to a length. -/
def zeroTo (n : Nat) (l : List Byte) : List Byte := (l ++ List.replicate (n - l.length) 0).take n

/-- The tables built over a buffer (R410): exponent counts, and mantissa-high counts, all zero when no block may code it. -/
def tablesOf (fmt : Nat) (words : List Nat) : List Nat × List Nat :=
  let p := planesOf fmt
  let e := normalise (histogram (2 ^ p.eb) (words.map (expSym p)))
  let m := if mcodedAllowed p then normalise (histogram (2 ^ p.mb) (words.map (manSym p))) else []
  (e, m)

/-- The table header of R409. -/
def tableHeader (fmt ubytes nblocks : Nat) (e m : List Nat) : List Byte :=
  let head := leBytes 4 0x31584356 ++ leBytes 1 fmt ++ List.replicate 3 0 ++ leBytes 8 ubytes ++ leBytes 4 nblocks ++
    List.replicate 4 0
  let rest := List.replicate 4 0 ++ zeroTo 352 (packCounts e) ++ zeroTo 22 (packCounts m) ++ List.replicate 106 0
  head ++ leBytes 4 (crc32 (head ++ [0, 0, 0, 0] ++ rest)) ++ rest

/-- One configuration of a block (R412, R414), with the mantissa-high plane coded or not. -/
def encodeWith (p : Planes) (te tm : List AnsState) (mcoded : Bool) (words : List Nat) : List Byte :=
  let signs := words.map (signSym p)
  let allSame := signs.all (· == signs.headD 0)
  let (xe, be) := ansEncode te (words.map (expSym p))
  let (xm, bm) := if mcoded then ansEncode tm (words.map (manSym p)) else (0, [])
  let es := packAll be
  let ms := packAll bm
  let rw := if mcoded then p.rb else p.rb + p.mb
  let rem := packAll (words.flatMap (fun w => bitsLe rw w))
  let sp := if p.sign && !allSame then packAll (signs.map (· == 1)) else []
  let clen := 16 + sp.length + es.length + ms.length + rem.length
  let sconst := p.sign && allSame
  let head := leBytes 2 clen ++ leBytes 1 (bit1 mcoded + 2 * bit1 sconst + 4 * bit1 (sconst && signs.headD 0 == 1)) ++ [0] ++
    leBytes 2 es.length ++ leBytes 2 ms.length ++ leBytes 2 xe ++ leBytes 2 xm
  head ++ leBytes 4 (crc32 head) ++ sp ++ es ++ ms ++ rem

/-- A block as the encoder stores it: coded, or none when it is stored raw (R414). -/
def encodeBlock (fmt : Nat) (e m : List Nat) (words : List Nat) : Option (List Byte) :=
  let p := planesOf fmt
  let a := encodeWith p (ansTable e) [] false words
  let best := if mcodedAllowed p then
      let b := encodeWith p (ansTable e) (ansTable m) true words
      if b.length < a.length then b else a
    else a
  if best.length < 3974 then some best else none

/-- The table header's fields when it passes the checks of R415: the counts of both planes. -/
def readHeader (fmt : Nat) (h : List Byte) : Option (List Nat × List Nat × Nat) :=
  let e := readCounts 256 ((h.drop 32).take 352)
  let m := readCounts 16 ((h.drop 384).take 22)
  let p := planesOf fmt
  let crcOk := fieldAt h 24 4 == crc32 (h.take 24 ++ [0, 0, 0, 0] ++ h.drop 28)
  let rsvdOk := fieldAt h 4 1 / 64 == 0 && fieldAt h 5 3 == 0 && fieldAt h 20 4 == 0 && fieldAt h 28 4 == 0 &&
    fieldAt h 406 106 == 0
  let tabOk := e.sum == 1024 && (m.sum == 1024 || m.sum == 0) &&
    (e.drop (2 ^ p.eb)).sum == 0 && (m.drop (if p.mb = 0 then 0 else 2 ^ p.mb)).sum == 0
  if h.length == 512 && fieldAt h 0 4 == 0x31584356 && crcOk && rsvdOk && fieldAt h 4 1 % 64 == fmt && tabOk then
    some (e, m, fieldAt h 16 4)
  else none

/-- An element word put together from its parts (R412). -/
def joinElem (p : Planes) (s e m r : Nat) : Nat := ((s * 2 ^ p.eb + e) * 2 ^ p.mb + m) * 2 ^ p.rb + r

/-- Decodes a plane's section: exactly n symbols, final state 0, the section's bytes used with zero padding (R411). -/
def decodePlane (t : List AnsState) (n x : Nat) (sec : List Byte) : Option (List Nat) :=
  match ansDecode t n x (unpackBits sec) with
  | some (l, y, rest) => if y = 0 ∧ rest.length < 8 ∧ rest.all (· == false) = true then some l else none
  | none => none

/-- Decodes a coded block of a format with its tables, under the checks of R415. -/
def decodeBlock (fmt : Nat) (e m : List Nat) (b : List Byte) : Option (List Byte) :=
  let p := planesOf fmt
  let n := 4096 / p.bytes
  let clen := fieldAt b 0 2
  let fl := fieldAt b 2 1
  let mc := fl % 2 == 1
  let sconst := fl / 2 % 2 == 1
  let sval := fl / 4 % 2
  let elen := fieldAt b 4 2
  let mlen := fieldAt b 6 2
  let spLen := if p.sign && !sconst then n / 8 else 0
  let rw := if mc then p.rb else p.rb + p.mb
  let remLen := ceilDiv (n * rw) 8
  let headOk := fieldAt b 12 4 == crc32 (b.take 12) && decide (fl < 8) && fieldAt b 3 1 == 0 && decide (clen ≤ 3973) &&
    decide (fieldAt b 8 2 < 1024) && decide (fieldAt b 10 2 < 1024) && (mc || mlen == 0)
  if headOk && clen == 16 + spLen + elen + mlen + remLen && (!mc || (mcodedAllowed p && m.sum != 0)) then
    let sec (o k : Nat) : List Byte := (b.drop o).take k
    let rems := unpackBits (sec (16 + spLen + elen + mlen) remLen)
    let signs := unpackBits (sec 16 spLen)
    match decodePlane (ansTable e) n (fieldAt b 8 2) (sec (16 + spLen) elen),
          (if mc then decodePlane (ansTable m) n (fieldAt b 10 2) (sec (16 + spLen + elen) mlen) else some []) with
    | some es, some ms =>
      some ((List.range n).flatMap (fun i =>
        let s := if !p.sign then 0 else if sconst then sval else bit1 (signs.getD i false)
        let r := natLe ((rems.drop (i * rw)).take rw)
        let w := if mc then joinElem p s (es.getD i 0) (ms.getD i 0) r
                 else ((s * 2 ^ p.eb + es.getD i 0) * 2 ^ (p.mb + p.rb) + r)
        leBytes p.bytes w))
    | _, _ => none
  else none

/-- Block j of some bytes, padded with zeros. -/
def blockOf (l : List Byte) (j : Nat) : List Byte := zeroTo 4096 (l.drop (4096 * j))

/-- A buffer compressed (R407 to R414): its table header, its block map, and each block coded or raw. -/
def compressBuf (fmt : Nat) (l : List Byte) : List Byte × List Bool × List (Option (List Byte)) :=
  let n := ceilDiv l.length 4096
  let words := (List.range n).flatMap (fun j => blockWords (planesOf fmt) (blockOf l j))
  let (e, m) := tablesOf fmt words
  let blocks := (List.range n).map (fun j => encodeBlock fmt e m (blockWords (planesOf fmt) (blockOf l j)))
  (tableHeader fmt l.length n e m, blocks.map (·.isSome), blocks)

/-- The bytes of the block map (R407). -/
def mapBytes (n : Nat) : Nat := 64 * ceilDiv n 512

end Sys2Proof.Machine
end

