-- ==== Sys2Proof/Machine/Tbl.lean ====
section
/-! DEFINITION. Sparse tables: a list of (key, value) pairs with strictly rising keys, in which no entry holds the
value an unlisted key reads as. Memory, registers and every indexed part of State are tables of this one form. -/

namespace Sys2Proof

/-- A sparse table from Nat keys. -/
abbrev Tbl (α : Type) := List (Nat × α)

/-- The entry listed for a key. -/
def Tbl.find? {α : Type} : Tbl α → Nat → Option α
  | [], _ => none
  | (a, v) :: t, k => if a = k then some v else Tbl.find? t k

/-- The value of a key: the listed one, or what an unlisted key reads as. -/
def Tbl.get {α : Type} (t : Tbl α) (d : α) (k : Nat) : α := (Tbl.find? t k).getD d

/-- Lists a value under a key, keeping the keys rising. -/
def Tbl.insert {α : Type} : Tbl α → Nat → α → Tbl α
  | [], k, v => [(k, v)]
  | (a, x) :: t, k, v =>
    if k < a then (k, v) :: (a, x) :: t
    else if k = a then (k, v) :: t
    else (a, x) :: Tbl.insert t k v

/-- Takes a key's entry out. -/
def Tbl.erase {α : Type} : Tbl α → Nat → Tbl α
  | [], _ => []
  | (a, x) :: t, k => if a = k then Tbl.erase t k else (a, x) :: Tbl.erase t k

/-- Writes a value; writing what an unlisted key reads as takes the entry out. -/
def Tbl.set {α : Type} [DecidableEq α] (t : Tbl α) (d : α) (k : Nat) (v : α) : Tbl α :=
  if v = d then Tbl.erase t k else Tbl.insert t k v

/-- Keys strictly rising, all of them at or above a bound. -/
def Tbl.risingFrom {α : Type} : Nat → Tbl α → Bool
  | _, [] => true
  | n, (a, _) :: t => decide (n ≤ a) && Tbl.risingFrom (a + 1) t

/-- The canonical form for tables whose unlisted keys all read as one value. -/
def Tbl.wf {α : Type} [DecidableEq α] (d : α) (t : Tbl α) : Bool :=
  Tbl.risingFrom 0 t && t.all (fun p => decide (p.2 ≠ d))

/-- One key made of two numbers; different pairs give different keys. -/
def pk (a b : Nat) : Nat := (a + b) * (a + b) + a

/-- The numbers 0 to n - 1 in order, added to a start. -/
def natRange (start n : Nat) : List Nat := (List.range n).map (start + ·)

end Sys2Proof
end

