-- ==== Sys2Proof/Regs.lean ====
section
/-! DEFINITION. The registers of the device by the spec's names (R9, R61 and the register maps of the chapters), and the
types a register map is written with. -/

namespace Sys2Proof

/-- The register names of the chapters' register maps; an array of registers has one name and an index. -/
inductive Reg where
  | BDG_SEL | BDG_CAP | BDG_CTRL | BDG_QUOTA | BDG_BAL | BDG_USED | BDG_STAT | BDG_PCNT | FAB_DECERR | REG_SEL
  | BLK_SEL | LNK_SEL | FMC_SEL | HPT_SEL | CEL_SEL | HPT_ACC | HPT_ACCERR | DIR_CTRL | DIR_OCC | DIR_TXN
  | DIR_BINV_CNT | DIR_STALE_CNT | DIR_PRIO | DIR_PEEK_ADDR | DIR_PEEK_RES | DIR_PEEK_VEC | DIR_HOP | BLK_PWR
  | BLK_SPARE | BLK_MAP | BLK_RETIRE | BLK_RTHR | BLK_ELOG | CEL_STAT | CEL_CTRL | CEL_ECC | NMS_CTRL | NMS_ECC
  | NMS_SPARE | NMS_BSU | SEQ_CTRL | SEQ_STAT | SEQ_PC | SEQ_STEP | SEQ_SLOT | SEQ_SEED | SEQ_WR_BASE | SEQ_CR_BASE
  | SEQ_ER_BASE | SEQ_WR_CB | SEQ_CR_CB | SEQ_ER_CB | SEQ_RSTAT | NUM_CTRL | NUM_STAT | NUM_MON_SEL | NUM_HIST
  | NUM_SZ | NUM_EVCNT | NUM_GNS_STEP | NUM_GNS_SUM | NUM_GNS_NLOC | NUM_GNS_NRED | NUM_ER_BASE | NUM_ER_CB
  | NUM_ER_STAT | UPD_PGSRC | UPD_PGCMD | UPD_PGSTAT | UPD_RCBASE | UPD_RCFREE | UPD_PGV | UPD_CNT | UPD_TEAM
  | FMC_CZ_CTRL | FMC_CZ_WIN | FMC_XTS | FMC_CZ_STAT | LNK_CTRL | LNK_STAT | LNK_PEER | LNK_ERR | LNK_TAGS
  | LNK_DEVID | LNK_RTCFG | LNK_CETO | LNK_BUNDLE | LNK_EPOCH | LNK_GRPBASE | LNK_GRPSTAT | LNK_RT | COL_CTRL
  | COL_STAT | COL_SEED | COL_CWT | COL_AVG | COL_STAGE | COL_XFBASE | COL_TOKBASE | COL_TOKN | COL_STRCMD
  | COL_STRSRC | HPT_CFG | HPT_LSTAT | HPT_EPOCH | HPT_GATE | HPT_CTRL | HPT_JCTRL | HPT_JSTAT | HPT_ERR | HPT_P2PB
  | HPT_P2PL | HPT_OBADDR | HPT_OBDATA | HPT_MSIGEN | RSL_CTRL | RSL_STAT | RSL_CQ_STAT | RSL_RQ_STAT | RSL_CQ_POP
  | RSL_RQ_POP | RSL_CQ_REC | RSL_RQ_REC | RSL_FIFE_CTRL | RSL_FIFEP | RSL_FIFES | RSL_ADOPT | RSL_REPORT
  | RSL_POLICY | RSL_CNT | KTL_BOOT | KTL_MB_DB | KTL_MB_STAT | KTL_PWR | KTL_THERM | KTL_SB | KTL_SBLIM
  | KTL_ALERT | KTL_ALERT_EN | KTL_TEL_CTRL | FMC_STAT | FMC_ECC | LNK_ER_BASE | LNK_ER_CB | LNK_ER_STAT
  | COL_RQ_BASE | COL_RQ_CB | COL_CL_BASE | COL_CL_CB | COL_CR_BASE | COL_CR_CB | COL_HL_BASE | COL_HL_CB
  | COL_HR_BASE | COL_HR_CB | COL_MF_BASE | COL_MF_CB | COL_RP_BASE | COL_RP_CB | COL_ER_BASE | COL_ER_CB
  | COL_ER_STAT | RSL_EL_BASE | RSL_EL_CB | RSL_EL_STAT | RSL_ELC_BASE | RSL_ELC_CB | RSL_ELC_STAT | RSL_JR_BASE
  | RSL_JR_CB | RSL_JR_STAT | KTL_TEL_BASE | KTL_TEL_CB | KTL_TEL_STAT
  deriving DecidableEq, Repr

/-- The access codes of R9. -/
inductive Access where
  | rw | ro | w1c | w1s | wo | rwl
  deriving DecidableEq, Repr

/-- The register windows of R61. -/
inductive Win where
  | global | region | block | cell | link | farChannel | hostPort | colander | kettle | resilience | budgets
  deriving DecidableEq, Repr

/-- What a register exists once for: the device, a requester bank, or the instance a select register names. -/
inductive InstKind where
  | device | bank | region | block | cell | link | linkRegion | channel | port | resource
  deriving DecidableEq, Repr

/-- One field of a register: where it lies, its access code and its reset value. -/
structure Fld where
  reg : Reg
  lo : Nat
  width : Nat
  acc : Access
  rst : Nat
  deriving DecidableEq, Repr

/-- Where a register lies: window, offset, up to two array levels (stride and count), 64 bits wide or 32. -/
structure RegPlace where
  win : Win
  off : Nat
  s1 : Nat
  c1 : Nat
  s2 : Nat
  c2 : Nat
  wide : Bool
  inst : InstKind
  deriving DecidableEq, Repr

end Sys2Proof
end

