-- ==== Sys2Proof/Machine/RegTable.lean ====
section
/-! DEFINITION. The register maps: every field of every register with its bits, access code and reset value, and the
place of every register, as the chapters' register maps list them. A reset shown as "see text" stands at 0 until boot
writes it. The pair fields of HPT_ACCn and DIR_HOPn are held as one 32-bit field. -/

namespace Sys2Proof

/-! ## 01_organisation -/

/-- BDG_SEL.KIND. -/
def Fld.BDG_SEL_KIND : Fld := ⟨.BDG_SEL, 8, 8, .rw, 0⟩
/-- BDG_SEL.INDEX. -/
def Fld.BDG_SEL_INDEX : Fld := ⟨.BDG_SEL, 0, 8, .rw, 0⟩

/-- BDG_CAP.CAP. -/
def Fld.BDG_CAP_CAP : Fld := ⟨.BDG_CAP, 0, 20, .ro, 0⟩

/-- BDG_CTRL.STARVE_LIM. -/
def Fld.BDG_CTRL_STARVE_LIM : Fld := ⟨.BDG_CTRL, 16, 8, .rw, 4⟩
/-- BDG_CTRL.ENABLE. -/
def Fld.BDG_CTRL_ENABLE : Fld := ⟨.BDG_CTRL, 8, 1, .rw, 0⟩
/-- BDG_CTRL.BORROW. -/
def Fld.BDG_CTRL_BORROW : Fld := ⟨.BDG_CTRL, 0, 8, .rw, 0xff⟩

/-- BDG_QUOTA.QUOTA. -/
def Fld.BDG_QUOTA_QUOTA : Fld := ⟨.BDG_QUOTA, 0, 20, .rw, 0⟩

/-- BDG_BAL.BAL. -/
def Fld.BDG_BAL_BAL : Fld := ⟨.BDG_BAL, 0, 21, .ro, 0⟩

/-- BDG_USED.USED. -/
def Fld.BDG_USED_USED : Fld := ⟨.BDG_USED, 0, 20, .ro, 0⟩

/-- BDG_STAT.STARVED. -/
def Fld.BDG_STAT_STARVED : Fld := ⟨.BDG_STAT, 16, 8, .w1c, 0⟩
/-- BDG_STAT.OVERSUB. -/
def Fld.BDG_STAT_OVERSUB : Fld := ⟨.BDG_STAT, 8, 1, .ro, 0⟩
/-- BDG_STAT.WAITING. -/
def Fld.BDG_STAT_WAITING : Fld := ⟨.BDG_STAT, 0, 8, .ro, 0⟩

/-- BDG_PCNT.PERIODS. -/
def Fld.BDG_PCNT_PERIODS : Fld := ⟨.BDG_PCNT, 0, 32, .ro, 0⟩

/-! ## 02_address_space -/

/-- FAB_DECERR.VALID. -/
def Fld.FAB_DECERR_VALID : Fld := ⟨.FAB_DECERR, 63, 1, .w1c, 0⟩
/-- FAB_DECERR.WRITE. -/
def Fld.FAB_DECERR_WRITE : Fld := ⟨.FAB_DECERR, 62, 1, .ro, 0⟩
/-- FAB_DECERR.REQ. -/
def Fld.FAB_DECERR_REQ : Fld := ⟨.FAB_DECERR, 54, 8, .ro, 0⟩
/-- FAB_DECERR.COUNT. -/
def Fld.FAB_DECERR_COUNT : Fld := ⟨.FAB_DECERR, 48, 6, .ro, 0⟩
/-- FAB_DECERR.ADDR. -/
def Fld.FAB_DECERR_ADDR : Fld := ⟨.FAB_DECERR, 0, 48, .ro, 0⟩

/-- REG_SEL.INDEX. -/
def Fld.REG_SEL_INDEX : Fld := ⟨.REG_SEL, 0, 11, .rw, 0⟩

/-- BLK_SEL.INDEX. -/
def Fld.BLK_SEL_INDEX : Fld := ⟨.BLK_SEL, 0, 11, .rw, 0⟩

/-- LNK_SEL.INDEX. -/
def Fld.LNK_SEL_INDEX : Fld := ⟨.LNK_SEL, 0, 11, .rw, 0⟩

/-- FMC_SEL.INDEX. -/
def Fld.FMC_SEL_INDEX : Fld := ⟨.FMC_SEL, 0, 11, .rw, 0⟩

/-- HPT_SEL.INDEX. -/
def Fld.HPT_SEL_INDEX : Fld := ⟨.HPT_SEL, 0, 11, .rw, 0⟩

/-- CEL_SEL.PHYS. -/
def Fld.CEL_SEL_PHYS : Fld := ⟨.CEL_SEL, 31, 1, .rw, 0⟩
/-- CEL_SEL.INDEX. -/
def Fld.CEL_SEL_INDEX : Fld := ⟨.CEL_SEL, 0, 11, .rw, 0⟩

/-- HPT_ACC.ENT. -/
def Fld.HPT_ACC_ENT : Fld := ⟨.HPT_ACC, 0, 32, .rw, 0xffffffff⟩

/-- HPT_ACCERR.VALID. -/
def Fld.HPT_ACCERR_VALID : Fld := ⟨.HPT_ACCERR, 63, 1, .w1c, 0⟩
/-- HPT_ACCERR.WRITE. -/
def Fld.HPT_ACCERR_WRITE : Fld := ⟨.HPT_ACCERR, 62, 1, .ro, 0⟩
/-- HPT_ACCERR.BAR0. -/
def Fld.HPT_ACCERR_BAR0 : Fld := ⟨.HPT_ACCERR, 61, 1, .ro, 0⟩
/-- HPT_ACCERR.COUNT. -/
def Fld.HPT_ACCERR_COUNT : Fld := ⟨.HPT_ACCERR, 48, 13, .ro, 0⟩
/-- HPT_ACCERR.ADDR. -/
def Fld.HPT_ACCERR_ADDR : Fld := ⟨.HPT_ACCERR, 0, 48, .ro, 0⟩

/-! ## 03_coherence -/

/-- DIR_CTRL.SNP_TO. -/
def Fld.DIR_CTRL_SNP_TO : Fld := ⟨.DIR_CTRL, 16, 8, .rwl, 0x10⟩

/-- DIR_OCC.ENTRIES. -/
def Fld.DIR_OCC_ENTRIES : Fld := ⟨.DIR_OCC, 0, 20, .ro, 0⟩

/-- DIR_TXN.REQ_MAX. -/
def Fld.DIR_TXN_REQ_MAX : Fld := ⟨.DIR_TXN, 16, 13, .w1c, 0⟩
/-- DIR_TXN.TXN. -/
def Fld.DIR_TXN_TXN : Fld := ⟨.DIR_TXN, 0, 10, .ro, 0⟩

/-- DIR_BINV_CNT.COUNT. -/
def Fld.DIR_BINV_CNT_COUNT : Fld := ⟨.DIR_BINV_CNT, 0, 64, .ro, 0⟩

/-- DIR_STALE_CNT.COUNT. -/
def Fld.DIR_STALE_CNT_COUNT : Fld := ⟨.DIR_STALE_CNT, 0, 64, .ro, 0⟩

/-- DIR_PRIO.P. -/
def Fld.DIR_PRIO_P : Fld := ⟨.DIR_PRIO, 0, 8, .ro, 0⟩

/-- DIR_PEEK_ADDR.GO. -/
def Fld.DIR_PEEK_ADDR_GO : Fld := ⟨.DIR_PEEK_ADDR, 63, 1, .wo, 0⟩
/-- DIR_PEEK_ADDR.LINE. -/
def Fld.DIR_PEEK_ADDR_LINE : Fld := ⟨.DIR_PEEK_ADDR, 6, 42, .rw, 0⟩

/-- DIR_PEEK_RES.DONE. -/
def Fld.DIR_PEEK_RES_DONE : Fld := ⟨.DIR_PEEK_RES, 63, 1, .ro, 0⟩
/-- DIR_PEEK_RES.HIT. -/
def Fld.DIR_PEEK_RES_HIT : Fld := ⟨.DIR_PEEK_RES, 62, 1, .ro, 0⟩
/-- DIR_PEEK_RES.STATE. -/
def Fld.DIR_PEEK_RES_STATE : Fld := ⟨.DIR_PEEK_RES, 60, 2, .ro, 0⟩
/-- DIR_PEEK_RES.AGE. -/
def Fld.DIR_PEEK_RES_AGE : Fld := ⟨.DIR_PEEK_RES, 56, 4, .ro, 0⟩
/-- DIR_PEEK_RES.SET. -/
def Fld.DIR_PEEK_RES_SET : Fld := ⟨.DIR_PEEK_RES, 0, 16, .ro, 0⟩

/-- DIR_PEEK_VEC.SHARERS. -/
def Fld.DIR_PEEK_VEC_SHARERS : Fld := ⟨.DIR_PEEK_VEC, 0, 64, .ro, 0⟩

/-- DIR_HOP.HOPS. -/
def Fld.DIR_HOP_HOPS : Fld := ⟨.DIR_HOP, 0, 32, .rwl, 0⟩

/-! ## 05_cells -/

/-- BLK_PWR.ABANDONED. -/
def Fld.BLK_PWR_ABANDONED : Fld := ⟨.BLK_PWR, 11, 1, .w1c, 0⟩
/-- BLK_PWR.WAKE_REQ. -/
def Fld.BLK_PWR_WAKE_REQ : Fld := ⟨.BLK_PWR, 10, 1, .ro, 0⟩
/-- BLK_PWR.AUTOGATE. -/
def Fld.BLK_PWR_AUTOGATE : Fld := ⟨.BLK_PWR, 9, 1, .rw, 1⟩
/-- BLK_PWR.REQ. -/
def Fld.BLK_PWR_REQ : Fld := ⟨.BLK_PWR, 4, 2, .rw, 0⟩
/-- BLK_PWR.STATE. -/
def Fld.BLK_PWR_STATE : Fld := ⟨.BLK_PWR, 0, 2, .ro, 0⟩

/-- BLK_SPARE.ENABLE. -/
def Fld.BLK_SPARE_ENABLE : Fld := ⟨.BLK_SPARE, 32, 17, .ro, 0⟩
/-- BLK_SPARE.SPARE. -/
def Fld.BLK_SPARE_SPARE : Fld := ⟨.BLK_SPARE, 17, 5, .ro, 0⟩
/-- BLK_SPARE.RETIRED. -/
def Fld.BLK_SPARE_RETIRED : Fld := ⟨.BLK_SPARE, 0, 17, .ro, 0⟩

/-- BLK_MAP.POS3. -/
def Fld.BLK_MAP_POS3 : Fld := ⟨.BLK_MAP, 24, 5, .ro, 0⟩
/-- BLK_MAP.POS2. -/
def Fld.BLK_MAP_POS2 : Fld := ⟨.BLK_MAP, 16, 5, .ro, 0⟩
/-- BLK_MAP.POS1. -/
def Fld.BLK_MAP_POS1 : Fld := ⟨.BLK_MAP, 8, 5, .ro, 0⟩
/-- BLK_MAP.POS0. -/
def Fld.BLK_MAP_POS0 : Fld := ⟨.BLK_MAP, 0, 5, .ro, 0⟩

/-- BLK_RETIRE.GO. -/
def Fld.BLK_RETIRE_GO : Fld := ⟨.BLK_RETIRE, 31, 1, .wo, 0⟩
/-- BLK_RETIRE.SLOT. -/
def Fld.BLK_RETIRE_SLOT : Fld := ⟨.BLK_RETIRE, 0, 4, .rw, 0⟩

/-- BLK_RTHR.CE_LIM. -/
def Fld.BLK_RTHR_CE_LIM : Fld := ⟨.BLK_RTHR, 0, 16, .rw, 0x40⟩

/-- BLK_ELOG.OVFL. -/
def Fld.BLK_ELOG_OVFL : Fld := ⟨.BLK_ELOG, 31, 1, .w1c, 0⟩
/-- BLK_ELOG.COUNT. -/
def Fld.BLK_ELOG_COUNT : Fld := ⟨.BLK_ELOG, 8, 7, .ro, 0⟩
/-- BLK_ELOG.HEAD. -/
def Fld.BLK_ELOG_HEAD : Fld := ⟨.BLK_ELOG, 0, 6, .ro, 0⟩

/-- CEL_STAT.RETIRED. -/
def Fld.CEL_STAT_RETIRED : Fld := ⟨.CEL_STAT, 5, 1, .ro, 0⟩
/-- CEL_STAT.SPARE. -/
def Fld.CEL_STAT_SPARE : Fld := ⟨.CEL_STAT, 4, 1, .ro, 0⟩
/-- CEL_STAT.HELD. -/
def Fld.CEL_STAT_HELD : Fld := ⟨.CEL_STAT, 3, 1, .ro, 0⟩
/-- CEL_STAT.TRAPPED. -/
def Fld.CEL_STAT_TRAPPED : Fld := ⟨.CEL_STAT, 2, 1, .ro, 0⟩
/-- CEL_STAT.BUSY. -/
def Fld.CEL_STAT_BUSY : Fld := ⟨.CEL_STAT, 1, 1, .ro, 0⟩

/-- CEL_CTRL.CLR_ECC. -/
def Fld.CEL_CTRL_CLR_ECC : Fld := ⟨.CEL_CTRL, 2, 1, .wo, 0⟩
/-- CEL_CTRL.SELFTEST. -/
def Fld.CEL_CTRL_SELFTEST : Fld := ⟨.CEL_CTRL, 1, 1, .wo, 0⟩
/-- CEL_CTRL.RELEASE. -/
def Fld.CEL_CTRL_RELEASE : Fld := ⟨.CEL_CTRL, 0, 1, .wo, 0⟩

/-- CEL_ECC.UE. -/
def Fld.CEL_ECC_UE : Fld := ⟨.CEL_ECC, 56, 8, .ro, 0⟩
/-- CEL_ECC.PARITY. -/
def Fld.CEL_ECC_PARITY : Fld := ⟨.CEL_ECC, 48, 8, .ro, 0⟩
/-- CEL_ECC.CE. -/
def Fld.CEL_ECC_CE : Fld := ⟨.CEL_ECC, 0, 32, .ro, 0⟩

/-- NMS_CTRL.ROW_THR. -/
def Fld.NMS_CTRL_ROW_THR : Fld := ⟨.NMS_CTRL, 16, 8, .rw, 8⟩
/-- NMS_CTRL.SCRUB_HRS. -/
def Fld.NMS_CTRL_SCRUB_HRS : Fld := ⟨.NMS_CTRL, 8, 8, .rw, 0x18⟩
/-- NMS_CTRL.BSU_EN. -/
def Fld.NMS_CTRL_BSU_EN : Fld := ⟨.NMS_CTRL, 0, 1, .rw, 1⟩

/-- NMS_ECC.UE. -/
def Fld.NMS_ECC_UE : Fld := ⟨.NMS_ECC, 48, 16, .ro, 0⟩
/-- NMS_ECC.CE. -/
def Fld.NMS_ECC_CE : Fld := ⟨.NMS_ECC, 0, 48, .ro, 0⟩

/-- NMS_SPARE.USED. -/
def Fld.NMS_SPARE_USED : Fld := ⟨.NMS_SPARE, 16, 16, .ro, 0⟩
/-- NMS_SPARE.FREE_MIN. -/
def Fld.NMS_SPARE_FREE_MIN : Fld := ⟨.NMS_SPARE, 0, 16, .ro, 0x100⟩

/-- NMS_BSU.PASSES. -/
def Fld.NMS_BSU_PASSES : Fld := ⟨.NMS_BSU, 32, 32, .ro, 0⟩
/-- NMS_BSU.FALLBACKS. -/
def Fld.NMS_BSU_FALLBACKS : Fld := ⟨.NMS_BSU, 0, 32, .ro, 0⟩

/-! ## 06_twiex_model -/

/-- SEQ_CTRL.SLOTLOG. -/
def Fld.SEQ_CTRL_SLOTLOG : Fld := ⟨.SEQ_CTRL, 7, 1, .rw, 0⟩
/-- SEQ_CTRL.CLRTOK. -/
def Fld.SEQ_CTRL_CLRTOK : Fld := ⟨.SEQ_CTRL, 4, 1, .wo, 0⟩
/-- SEQ_CTRL.ABORT. -/
def Fld.SEQ_CTRL_ABORT : Fld := ⟨.SEQ_CTRL, 3, 1, .wo, 0⟩
/-- SEQ_CTRL.RESUME. -/
def Fld.SEQ_CTRL_RESUME : Fld := ⟨.SEQ_CTRL, 2, 1, .wo, 0⟩
/-- SEQ_CTRL.HALT. -/
def Fld.SEQ_CTRL_HALT : Fld := ⟨.SEQ_CTRL, 1, 1, .wo, 0⟩

/-- SEQ_STAT.DETAIL. -/
def Fld.SEQ_STAT_DETAIL : Fld := ⟨.SEQ_STAT, 8, 8, .ro, 0⟩
/-- SEQ_STAT.STATE. -/
def Fld.SEQ_STAT_STATE : Fld := ⟨.SEQ_STAT, 0, 3, .ro, 0⟩

/-- SEQ_PC.PC. -/
def Fld.SEQ_PC_PC : Fld := ⟨.SEQ_PC, 4, 44, .rw, 0⟩

/-- SEQ_STEP.EPOCH. -/
def Fld.SEQ_STEP_EPOCH : Fld := ⟨.SEQ_STEP, 48, 16, .ro, 0⟩
/-- SEQ_STEP.STEP. -/
def Fld.SEQ_STEP_STEP : Fld := ⟨.SEQ_STEP, 0, 48, .ro, 0⟩

/-- SEQ_SLOT.MICRO. -/
def Fld.SEQ_SLOT_MICRO : Fld := ⟨.SEQ_SLOT, 40, 16, .ro, 0⟩
/-- SEQ_SLOT.KIND. -/
def Fld.SEQ_SLOT_KIND : Fld := ⟨.SEQ_SLOT, 32, 4, .ro, 0⟩
/-- SEQ_SLOT.VSTAGE. -/
def Fld.SEQ_SLOT_VSTAGE : Fld := ⟨.SEQ_SLOT, 16, 3, .ro, 0⟩
/-- SEQ_SLOT.INDEX. -/
def Fld.SEQ_SLOT_INDEX : Fld := ⟨.SEQ_SLOT, 0, 16, .ro, 0xffff⟩

/-- SEQ_SEED.SEED. -/
def Fld.SEQ_SEED_SEED : Fld := ⟨.SEQ_SEED, 0, 64, .rw, 0⟩

/-- SEQ_WR_BASE.EN. -/
def Fld.SEQ_WR_BASE_EN : Fld := ⟨.SEQ_WR_BASE, 63, 1, .rw, 0⟩
/-- SEQ_WR_BASE.LOG2N. -/
def Fld.SEQ_WR_BASE_LOG2N : Fld := ⟨.SEQ_WR_BASE, 52, 4, .rw, 0⟩
/-- SEQ_WR_BASE.BASE. -/
def Fld.SEQ_WR_BASE_BASE : Fld := ⟨.SEQ_WR_BASE, 6, 42, .rw, 0⟩

/-- SEQ_CR_BASE.EN. -/
def Fld.SEQ_CR_BASE_EN : Fld := ⟨.SEQ_CR_BASE, 63, 1, .rw, 0⟩
/-- SEQ_CR_BASE.LOG2N. -/
def Fld.SEQ_CR_BASE_LOG2N : Fld := ⟨.SEQ_CR_BASE, 52, 4, .rw, 0⟩
/-- SEQ_CR_BASE.BASE. -/
def Fld.SEQ_CR_BASE_BASE : Fld := ⟨.SEQ_CR_BASE, 6, 42, .rw, 0⟩

/-- SEQ_ER_BASE.EN. -/
def Fld.SEQ_ER_BASE_EN : Fld := ⟨.SEQ_ER_BASE, 63, 1, .rw, 0⟩
/-- SEQ_ER_BASE.OVWR. -/
def Fld.SEQ_ER_BASE_OVWR : Fld := ⟨.SEQ_ER_BASE, 62, 1, .rw, 0⟩
/-- SEQ_ER_BASE.LOG2N. -/
def Fld.SEQ_ER_BASE_LOG2N : Fld := ⟨.SEQ_ER_BASE, 52, 4, .rw, 0⟩
/-- SEQ_ER_BASE.BASE. -/
def Fld.SEQ_ER_BASE_BASE : Fld := ⟨.SEQ_ER_BASE, 6, 42, .rw, 0⟩

/-- SEQ_WR_CB.CB. -/
def Fld.SEQ_WR_CB_CB : Fld := ⟨.SEQ_WR_CB, 7, 41, .rw, 0⟩

/-- SEQ_CR_CB.CB. -/
def Fld.SEQ_CR_CB_CB : Fld := ⟨.SEQ_CR_CB, 7, 41, .rw, 0⟩

/-- SEQ_ER_CB.CB. -/
def Fld.SEQ_ER_CB_CB : Fld := ⟨.SEQ_ER_CB, 7, 41, .rw, 0⟩

/-- SEQ_RSTAT.ER_PEND. -/
def Fld.SEQ_RSTAT_ER_PEND : Fld := ⟨.SEQ_RSTAT, 16, 8, .ro, 0⟩
/-- SEQ_RSTAT.CR_PEND. -/
def Fld.SEQ_RSTAT_CR_PEND : Fld := ⟨.SEQ_RSTAT, 8, 8, .ro, 0⟩
/-- SEQ_RSTAT.ER_STALL. -/
def Fld.SEQ_RSTAT_ER_STALL : Fld := ⟨.SEQ_RSTAT, 1, 1, .ro, 0⟩
/-- SEQ_RSTAT.CR_STALL. -/
def Fld.SEQ_RSTAT_CR_STALL : Fld := ⟨.SEQ_RSTAT, 0, 1, .ro, 0⟩

/-! ## 09_training_numerics -/

/-- NUM_CTRL.RSC. -/
def Fld.NUM_CTRL_RSC : Fld := ⟨.NUM_CTRL, 8, 2, .rw, 1⟩
/-- NUM_CTRL.SUBN. -/
def Fld.NUM_CTRL_SUBN : Fld := ⟨.NUM_CTRL, 0, 1, .rw, 0⟩

/-- NUM_STAT.PROMOTE. -/
def Fld.NUM_STAT_PROMOTE : Fld := ⟨.NUM_STAT, 3, 1, .w1c, 0⟩
/-- NUM_STAT.SILENT. -/
def Fld.NUM_STAT_SILENT : Fld := ⟨.NUM_STAT, 2, 1, .w1c, 0⟩
/-- NUM_STAT.RESCALED. -/
def Fld.NUM_STAT_RESCALED : Fld := ⟨.NUM_STAT, 1, 1, .w1c, 0⟩
/-- NUM_STAT.FLUSHED. -/
def Fld.NUM_STAT_FLUSHED : Fld := ⟨.NUM_STAT, 0, 1, .w1c, 0⟩

/-- NUM_MON_SEL.SEL. -/
def Fld.NUM_MON_SEL_SEL : Fld := ⟨.NUM_MON_SEL, 0, 2, .rw, 3⟩

/-- NUM_HIST.HBASE. -/
def Fld.NUM_HIST_HBASE : Fld := ⟨.NUM_HIST, 8, 8, .rw, 0xe0⟩
/-- NUM_HIST.HSTEP. -/
def Fld.NUM_HIST_HSTEP : Fld := ⟨.NUM_HIST, 0, 4, .rw, 3⟩

/-- NUM_SZ.FLOOR. -/
def Fld.NUM_SZ_FLOOR : Fld := ⟨.NUM_SZ, 32, 32, .rw, 0x30800000⟩
/-- NUM_SZ.LIMIT. -/
def Fld.NUM_SZ_LIMIT : Fld := ⟨.NUM_SZ, 0, 16, .rw, 0x100⟩

/-- NUM_EVCNT.PROMOTE. -/
def Fld.NUM_EVCNT_PROMOTE : Fld := ⟨.NUM_EVCNT, 48, 16, .ro, 0⟩
/-- NUM_EVCNT.SILENT. -/
def Fld.NUM_EVCNT_SILENT : Fld := ⟨.NUM_EVCNT, 32, 16, .ro, 0⟩
/-- NUM_EVCNT.RESCALE. -/
def Fld.NUM_EVCNT_RESCALE : Fld := ⟨.NUM_EVCNT, 0, 32, .ro, 0⟩

/-- NUM_GNS_STEP.STEP. -/
def Fld.NUM_GNS_STEP_STEP : Fld := ⟨.NUM_GNS_STEP, 0, 48, .ro, 0⟩

/-- NUM_GNS_SUM.S_RED. -/
def Fld.NUM_GNS_SUM_S_RED : Fld := ⟨.NUM_GNS_SUM, 32, 32, .ro, 0⟩
/-- NUM_GNS_SUM.S_LOC. -/
def Fld.NUM_GNS_SUM_S_LOC : Fld := ⟨.NUM_GNS_SUM, 0, 32, .ro, 0⟩

/-- NUM_GNS_NLOC.COUNT. -/
def Fld.NUM_GNS_NLOC_COUNT : Fld := ⟨.NUM_GNS_NLOC, 0, 64, .ro, 0⟩

/-- NUM_GNS_NRED.COUNT. -/
def Fld.NUM_GNS_NRED_COUNT : Fld := ⟨.NUM_GNS_NRED, 0, 64, .ro, 0⟩

/-- NUM_ER_BASE.EN. -/
def Fld.NUM_ER_BASE_EN : Fld := ⟨.NUM_ER_BASE, 63, 1, .rw, 0⟩
/-- NUM_ER_BASE.OVWR. -/
def Fld.NUM_ER_BASE_OVWR : Fld := ⟨.NUM_ER_BASE, 62, 1, .rw, 1⟩
/-- NUM_ER_BASE.LOG2N. -/
def Fld.NUM_ER_BASE_LOG2N : Fld := ⟨.NUM_ER_BASE, 52, 4, .rw, 0⟩
/-- NUM_ER_BASE.BASE. -/
def Fld.NUM_ER_BASE_BASE : Fld := ⟨.NUM_ER_BASE, 6, 42, .rw, 0⟩

/-- NUM_ER_CB.CB. -/
def Fld.NUM_ER_CB_CB : Fld := ⟨.NUM_ER_CB, 7, 41, .rw, 0⟩

/-- NUM_ER_STAT.PEND. -/
def Fld.NUM_ER_STAT_PEND : Fld := ⟨.NUM_ER_STAT, 8, 8, .ro, 0⟩
/-- NUM_ER_STAT.STALL. -/
def Fld.NUM_ER_STAT_STALL : Fld := ⟨.NUM_ER_STAT, 0, 1, .ro, 0⟩

/-! ## 10_parameter_update -/

/-- UPD_PGSRC.ADDR. -/
def Fld.UPD_PGSRC_ADDR : Fld := ⟨.UPD_PGSRC, 7, 41, .rw, 0⟩

/-- UPD_PGCMD.GO. -/
def Fld.UPD_PGCMD_GO : Fld := ⟨.UPD_PGCMD, 31, 1, .wo, 0⟩
/-- UPD_PGCMD.OP. -/
def Fld.UPD_PGCMD_OP : Fld := ⟨.UPD_PGCMD, 8, 2, .rw, 0⟩
/-- UPD_PGCMD.GROUP. -/
def Fld.UPD_PGCMD_GROUP : Fld := ⟨.UPD_PGCMD, 0, 8, .rw, 0⟩

/-- UPD_PGSTAT.DONE. -/
def Fld.UPD_PGSTAT_DONE : Fld := ⟨.UPD_PGSTAT, 63, 1, .ro, 0⟩
/-- UPD_PGSTAT.BUSY. -/
def Fld.UPD_PGSTAT_BUSY : Fld := ⟨.UPD_PGSTAT, 62, 1, .ro, 0⟩
/-- UPD_PGSTAT.RESULT. -/
def Fld.UPD_PGSTAT_RESULT : Fld := ⟨.UPD_PGSTAT, 59, 3, .ro, 0⟩
/-- UPD_PGSTAT.GROUP. -/
def Fld.UPD_PGSTAT_GROUP : Fld := ⟨.UPD_PGSTAT, 40, 8, .ro, 0⟩
/-- UPD_PGSTAT.RC_FIRST. -/
def Fld.UPD_PGSTAT_RC_FIRST : Fld := ⟨.UPD_PGSTAT, 0, 25, .ro, 0⟩

/-- UPD_RCBASE.EN. -/
def Fld.UPD_RCBASE_EN : Fld := ⟨.UPD_RCBASE, 63, 1, .rw, 0⟩
/-- UPD_RCBASE.BASE. -/
def Fld.UPD_RCBASE_BASE : Fld := ⟨.UPD_RCBASE, 12, 36, .rw, 0⟩

/-- UPD_RCFREE.LARGEST. -/
def Fld.UPD_RCFREE_LARGEST : Fld := ⟨.UPD_RCFREE, 32, 25, .ro, 0x1000000⟩
/-- UPD_RCFREE.FREE. -/
def Fld.UPD_RCFREE_FREE : Fld := ⟨.UPD_RCFREE, 0, 25, .ro, 0x1000000⟩

/-- UPD_PGV.VALID. -/
def Fld.UPD_PGV_VALID : Fld := ⟨.UPD_PGV, 0, 32, .ro, 0⟩

/-- UPD_CNT.HELD. -/
def Fld.UPD_CNT_HELD : Fld := ⟨.UPD_CNT, 48, 16, .ro, 0⟩
/-- UPD_CNT.DAMPED. -/
def Fld.UPD_CNT_DAMPED : Fld := ⟨.UPD_CNT, 32, 16, .ro, 0⟩
/-- UPD_CNT.SKEW. -/
def Fld.UPD_CNT_SKEW : Fld := ⟨.UPD_CNT, 16, 16, .ro, 0⟩
/-- UPD_CNT.TORN. -/
def Fld.UPD_CNT_TORN : Fld := ⟨.UPD_CNT, 0, 16, .ro, 0⟩

/-- UPD_TEAM.WAIT. -/
def Fld.UPD_TEAM_WAIT : Fld := ⟨.UPD_TEAM, 31, 1, .ro, 0⟩
/-- UPD_TEAM.PHASE. -/
def Fld.UPD_TEAM_PHASE : Fld := ⟨.UPD_TEAM, 16, 8, .ro, 0⟩
/-- UPD_TEAM.ARRIVED. -/
def Fld.UPD_TEAM_ARRIVED : Fld := ⟨.UPD_TEAM, 8, 8, .ro, 0⟩
/-- UPD_TEAM.SIZE. -/
def Fld.UPD_TEAM_SIZE : Fld := ⟨.UPD_TEAM, 0, 8, .ro, 0⟩

/-! ## 11_compression -/

/-- FMC_CZ_CTRL.EN. -/
def Fld.FMC_CZ_CTRL_EN : Fld := ⟨.FMC_CZ_CTRL, 63, 1, .rw, 0⟩
/-- FMC_CZ_CTRL.TBASE. -/
def Fld.FMC_CZ_CTRL_TBASE : Fld := ⟨.FMC_CZ_CTRL, 16, 32, .rw, 0⟩

/-- FMC_CZ_WIN.END. -/
def Fld.FMC_CZ_WIN_END : Fld := ⟨.FMC_CZ_WIN, 32, 32, .rw, 0⟩
/-- FMC_CZ_WIN.BASE. -/
def Fld.FMC_CZ_WIN_BASE : Fld := ⟨.FMC_CZ_WIN, 0, 32, .rw, 0⟩

/-- FMC_XTS.KEYED. -/
def Fld.FMC_XTS_KEYED : Fld := ⟨.FMC_XTS, 1, 1, .ro, 0⟩
/-- FMC_XTS.EN. -/
def Fld.FMC_XTS_EN : Fld := ⟨.FMC_XTS, 0, 1, .rwl, 0⟩

/-- FMC_CZ_STAT.CFGERR. -/
def Fld.FMC_CZ_STAT_CFGERR : Fld := ⟨.FMC_CZ_STAT, 63, 1, .w1c, 0⟩
/-- FMC_CZ_STAT.POISONED. -/
def Fld.FMC_CZ_STAT_POISONED : Fld := ⟨.FMC_CZ_STAT, 32, 16, .ro, 0⟩
/-- FMC_CZ_STAT.UNCODED. -/
def Fld.FMC_CZ_STAT_UNCODED : Fld := ⟨.FMC_CZ_STAT, 16, 16, .ro, 0⟩
/-- FMC_CZ_STAT.SEGMENTS. -/
def Fld.FMC_CZ_STAT_SEGMENTS : Fld := ⟨.FMC_CZ_STAT, 0, 16, .ro, 0⟩

/-! ## 12_links_collectives -/

/-- LNK_CTRL.TXN_TO. -/
def Fld.LNK_CTRL_TXN_TO : Fld := ⟨.LNK_CTRL, 8, 4, .rw, 2⟩
/-- LNK_CTRL.DATELINE. -/
def Fld.LNK_CTRL_DATELINE : Fld := ⟨.LNK_CTRL, 4, 1, .rw, 0⟩
/-- LNK_CTRL.RETRAIN. -/
def Fld.LNK_CTRL_RETRAIN : Fld := ⟨.LNK_CTRL, 3, 1, .wo, 0⟩
/-- LNK_CTRL.UNFENCE. -/
def Fld.LNK_CTRL_UNFENCE : Fld := ⟨.LNK_CTRL, 2, 1, .wo, 0⟩
/-- LNK_CTRL.ENABLE. -/
def Fld.LNK_CTRL_ENABLE : Fld := ⟨.LNK_CTRL, 0, 1, .rw, 0⟩

/-- LNK_STAT.LOSS_DETAIL. -/
def Fld.LNK_STAT_LOSS_DETAIL : Fld := ⟨.LNK_STAT, 16, 8, .ro, 0⟩
/-- LNK_STAT.KEYPHASE. -/
def Fld.LNK_STAT_KEYPHASE : Fld := ⟨.LNK_STAT, 8, 1, .ro, 0⟩
/-- LNK_STAT.RETRAINS. -/
def Fld.LNK_STAT_RETRAINS : Fld := ⟨.LNK_STAT, 4, 4, .ro, 0⟩
/-- LNK_STAT.STATE. -/
def Fld.LNK_STAT_STATE : Fld := ⟨.LNK_STAT, 0, 3, .ro, 0⟩

/-- LNK_PEER.VALID. -/
def Fld.LNK_PEER_VALID : Fld := ⟨.LNK_PEER, 31, 1, .ro, 0⟩
/-- LNK_PEER.PLINK. -/
def Fld.LNK_PEER_PLINK : Fld := ⟨.LNK_PEER, 16, 5, .ro, 0⟩
/-- LNK_PEER.PDEV. -/
def Fld.LNK_PEER_PDEV : Fld := ⟨.LNK_PEER, 0, 14, .ro, 0⟩

/-- LNK_ERR.AUTH. -/
def Fld.LNK_ERR_AUTH : Fld := ⟨.LNK_ERR, 48, 16, .ro, 0⟩
/-- LNK_ERR.FECUNC. -/
def Fld.LNK_ERR_FECUNC : Fld := ⟨.LNK_ERR, 32, 16, .ro, 0⟩
/-- LNK_ERR.REPLAY. -/
def Fld.LNK_ERR_REPLAY : Fld := ⟨.LNK_ERR, 16, 16, .ro, 0⟩
/-- LNK_ERR.CRC. -/
def Fld.LNK_ERR_CRC : Fld := ⟨.LNK_ERR, 0, 16, .ro, 0⟩

/-- LNK_TAGS.PEAK. -/
def Fld.LNK_TAGS_PEAK : Fld := ⟨.LNK_TAGS, 16, 13, .w1c, 0⟩
/-- LNK_TAGS.OUT. -/
def Fld.LNK_TAGS_OUT : Fld := ⟨.LNK_TAGS, 0, 13, .ro, 0⟩

/-- LNK_DEVID.VALID. -/
def Fld.LNK_DEVID_VALID : Fld := ⟨.LNK_DEVID, 31, 1, .rw, 0⟩
/-- LNK_DEVID.ID. -/
def Fld.LNK_DEVID_ID : Fld := ⟨.LNK_DEVID, 0, 14, .rw, 0⟩

/-- LNK_RTCFG.SIZE. -/
def Fld.LNK_RTCFG_SIZE : Fld := ⟨.LNK_RTCFG, 0, 15, .rw, 0⟩

/-- LNK_CETO.CE_TO. -/
def Fld.LNK_CETO_CE_TO : Fld := ⟨.LNK_CETO, 0, 4, .rw, 2⟩

/-- LNK_BUNDLE.EN. -/
def Fld.LNK_BUNDLE_EN : Fld := ⟨.LNK_BUNDLE, 31, 1, .rw, 0⟩
/-- LNK_BUNDLE.DIM. -/
def Fld.LNK_BUNDLE_DIM : Fld := ⟨.LNK_BUNDLE, 24, 3, .rw, 0⟩
/-- LNK_BUNDLE.LINKS. -/
def Fld.LNK_BUNDLE_LINKS : Fld := ⟨.LNK_BUNDLE, 0, 24, .rw, 0⟩

/-- LNK_EPOCH.WAIT. -/
def Fld.LNK_EPOCH_WAIT : Fld := ⟨.LNK_EPOCH, 31, 1, .ro, 0⟩
/-- LNK_EPOCH.EPOCH. -/
def Fld.LNK_EPOCH_EPOCH : Fld := ⟨.LNK_EPOCH, 0, 16, .rw, 0⟩

/-- LNK_GRPBASE.EN. -/
def Fld.LNK_GRPBASE_EN : Fld := ⟨.LNK_GRPBASE, 63, 1, .rw, 0⟩
/-- LNK_GRPBASE.BASE. -/
def Fld.LNK_GRPBASE_BASE : Fld := ⟨.LNK_GRPBASE, 27, 21, .rw, 0⟩

/-- LNK_GRPSTAT.LIVE. -/
def Fld.LNK_GRPSTAT_LIVE : Fld := ⟨.LNK_GRPSTAT, 0, 13, .ro, 0⟩

/-- LNK_RT.E3. -/
def Fld.LNK_RT_E3 : Fld := ⟨.LNK_RT, 24, 8, .rw, 0⟩
/-- LNK_RT.E2. -/
def Fld.LNK_RT_E2 : Fld := ⟨.LNK_RT, 16, 8, .rw, 0⟩
/-- LNK_RT.E1. -/
def Fld.LNK_RT_E1 : Fld := ⟨.LNK_RT, 8, 8, .rw, 0⟩
/-- LNK_RT.E0. -/
def Fld.LNK_RT_E0 : Fld := ⟨.LNK_RT, 0, 8, .rw, 0⟩

/-! ## 13_input_pipeline -/

/-- COL_CTRL.SLOWMUL. -/
def Fld.COL_CTRL_SLOWMUL : Fld := ⟨.COL_CTRL, 16, 8, .rw, 0x10⟩
/-- COL_CTRL.REPLAY. -/
def Fld.COL_CTRL_REPLAY : Fld := ⟨.COL_CTRL, 9, 1, .rw, 0⟩
/-- COL_CTRL.EN. -/
def Fld.COL_CTRL_EN : Fld := ⟨.COL_CTRL, 8, 1, .rw, 0⟩
/-- COL_CTRL.HOST_EN. -/
def Fld.COL_CTRL_HOST_EN : Fld := ⟨.COL_CTRL, 4, 4, .rw, 0⟩
/-- COL_CTRL.CORE_EN. -/
def Fld.COL_CTRL_CORE_EN : Fld := ⟨.COL_CTRL, 1, 1, .rw, 1⟩
/-- COL_CTRL.ENG_EN. -/
def Fld.COL_CTRL_ENG_EN : Fld := ⟨.COL_CTRL, 0, 1, .rw, 1⟩

/-- COL_STAT.RPLERR. -/
def Fld.COL_STAT_RPLERR : Fld := ⟨.COL_STAT, 63, 1, .w1c, 0⟩
/-- COL_STAT.STAGE_FREE. -/
def Fld.COL_STAT_STAGE_FREE : Fld := ⟨.COL_STAT, 32, 9, .ro, 0x100⟩
/-- COL_STAT.ENG_BUSY. -/
def Fld.COL_STAT_ENG_BUSY : Fld := ⟨.COL_STAT, 16, 6, .ro, 0⟩
/-- COL_STAT.SLOWQ. -/
def Fld.COL_STAT_SLOWQ : Fld := ⟨.COL_STAT, 0, 16, .ro, 0⟩

/-- COL_SEED.SEED. -/
def Fld.COL_SEED_SEED : Fld := ⟨.COL_SEED, 0, 64, .rw, 0⟩

/-- COL_CWT.TEXT. -/
def Fld.COL_CWT_TEXT : Fld := ⟨.COL_CWT, 16, 8, .rw, 1⟩
/-- COL_CWT.PNG. -/
def Fld.COL_CWT_PNG : Fld := ⟨.COL_CWT, 8, 8, .rw, 3⟩
/-- COL_CWT.JPEG. -/
def Fld.COL_CWT_JPEG : Fld := ⟨.COL_CWT, 0, 8, .rw, 4⟩

/-- COL_AVG.AVG. -/
def Fld.COL_AVG_AVG : Fld := ⟨.COL_AVG, 0, 32, .rw, 0x800⟩

/-- COL_STAGE.SLOTKIB. -/
def Fld.COL_STAGE_SLOTKIB : Fld := ⟨.COL_STAGE, 52, 12, .rw, 0⟩
/-- COL_STAGE.BASE. -/
def Fld.COL_STAGE_BASE : Fld := ⟨.COL_STAGE, 12, 36, .rw, 0⟩

/-- COL_XFBASE.BASE. -/
def Fld.COL_XFBASE_BASE : Fld := ⟨.COL_XFBASE, 12, 36, .rw, 0⟩

/-- COL_TOKBASE.BASE. -/
def Fld.COL_TOKBASE_BASE : Fld := ⟨.COL_TOKBASE, 12, 36, .rw, 0⟩

/-- COL_TOKN.NENT. -/
def Fld.COL_TOKN_NENT : Fld := ⟨.COL_TOKN, 0, 19, .rw, 0⟩

/-- COL_STRCMD.GO. -/
def Fld.COL_STRCMD_GO : Fld := ⟨.COL_STRCMD, 31, 1, .wo, 0⟩
/-- COL_STRCMD.DONE. -/
def Fld.COL_STRCMD_DONE : Fld := ⟨.COL_STRCMD, 30, 1, .ro, 0⟩
/-- COL_STRCMD.RESULT. -/
def Fld.COL_STRCMD_RESULT : Fld := ⟨.COL_STRCMD, 27, 3, .ro, 0⟩
/-- COL_STRCMD.OP. -/
def Fld.COL_STRCMD_OP : Fld := ⟨.COL_STRCMD, 8, 2, .rw, 0⟩
/-- COL_STRCMD.STREAM. -/
def Fld.COL_STRCMD_STREAM : Fld := ⟨.COL_STRCMD, 0, 4, .rw, 0⟩

/-- COL_STRSRC.ADDR. -/
def Fld.COL_STRSRC_ADDR : Fld := ⟨.COL_STRSRC, 6, 42, .rw, 0⟩

/-! ## 14_host_attach -/

/-- HPT_CFG.WIDTH. -/
def Fld.HPT_CFG_WIDTH : Fld := ⟨.HPT_CFG, 4, 4, .ro, 0⟩
/-- HPT_CFG.MODE. -/
def Fld.HPT_CFG_MODE : Fld := ⟨.HPT_CFG, 0, 2, .ro, 0⟩

/-- HPT_LSTAT.SPEED. -/
def Fld.HPT_LSTAT_SPEED : Fld := ⟨.HPT_LSTAT, 12, 4, .ro, 0⟩
/-- HPT_LSTAT.NLW. -/
def Fld.HPT_LSTAT_NLW : Fld := ⟨.HPT_LSTAT, 8, 4, .ro, 0⟩
/-- HPT_LSTAT.FLIT. -/
def Fld.HPT_LSTAT_FLIT : Fld := ⟨.HPT_LSTAT, 3, 1, .ro, 0⟩
/-- HPT_LSTAT.BME. -/
def Fld.HPT_LSTAT_BME : Fld := ⟨.HPT_LSTAT, 2, 1, .ro, 0⟩
/-- HPT_LSTAT.PERST. -/
def Fld.HPT_LSTAT_PERST : Fld := ⟨.HPT_LSTAT, 1, 1, .ro, 0⟩
/-- HPT_LSTAT.DLUP. -/
def Fld.HPT_LSTAT_DLUP : Fld := ⟨.HPT_LSTAT, 0, 1, .ro, 0⟩

/-- HPT_EPOCH.OPEN. -/
def Fld.HPT_EPOCH_OPEN : Fld := ⟨.HPT_EPOCH, 31, 1, .ro, 1⟩
/-- HPT_EPOCH.CAUSE. -/
def Fld.HPT_EPOCH_CAUSE : Fld := ⟨.HPT_EPOCH, 16, 3, .ro, 0⟩
/-- HPT_EPOCH.EPOCH. -/
def Fld.HPT_EPOCH_EPOCH : Fld := ⟨.HPT_EPOCH, 0, 16, .ro, 0⟩

/-- HPT_GATE.GO. -/
def Fld.HPT_GATE_GO : Fld := ⟨.HPT_GATE, 31, 1, .wo, 0⟩
/-- HPT_GATE.EPOCH. -/
def Fld.HPT_GATE_EPOCH : Fld := ⟨.HPT_GATE, 0, 16, .wo, 0⟩

/-- HPT_CTRL.JAUTO. -/
def Fld.HPT_CTRL_JAUTO : Fld := ⟨.HPT_CTRL, 1, 1, .rw, 1⟩
/-- HPT_CTRL.ADV. -/
def Fld.HPT_CTRL_ADV : Fld := ⟨.HPT_CTRL, 0, 1, .wo, 0⟩

/-- HPT_JCTRL.AUTO_THR. -/
def Fld.HPT_JCTRL_AUTO_THR : Fld := ⟨.HPT_JCTRL, 16, 12, .rw, 0x800⟩
/-- HPT_JCTRL.AUTO_AGE. -/
def Fld.HPT_JCTRL_AUTO_AGE : Fld := ⟨.HPT_JCTRL, 0, 8, .rw, 8⟩

/-- HPT_JSTAT.FAILED. -/
def Fld.HPT_JSTAT_FAILED : Fld := ⟨.HPT_JSTAT, 48, 16, .ro, 0⟩
/-- HPT_JSTAT.PEAK. -/
def Fld.HPT_JSTAT_PEAK : Fld := ⟨.HPT_JSTAT, 16, 13, .w1c, 0⟩
/-- HPT_JSTAT.OCC. -/
def Fld.HPT_JSTAT_OCC : Fld := ⟨.HPT_JSTAT, 0, 13, .ro, 0⟩

/-- HPT_ERR.CTO. -/
def Fld.HPT_ERR_CTO : Fld := ⟨.HPT_ERR, 48, 16, .ro, 0⟩
/-- HPT_ERR.EP. -/
def Fld.HPT_ERR_EP : Fld := ⟨.HPT_ERR, 32, 16, .ro, 0⟩
/-- HPT_ERR.CA. -/
def Fld.HPT_ERR_CA : Fld := ⟨.HPT_ERR, 16, 16, .ro, 0⟩
/-- HPT_ERR.UR. -/
def Fld.HPT_ERR_UR : Fld := ⟨.HPT_ERR, 0, 16, .ro, 0⟩

/-- HPT_P2PB.BASE. -/
def Fld.HPT_P2PB_BASE : Fld := ⟨.HPT_P2PB, 12, 52, .rw, 0⟩

/-- HPT_P2PL.LIMIT. -/
def Fld.HPT_P2PL_LIMIT : Fld := ⟨.HPT_P2PL, 12, 52, .rw, 0⟩
/-- HPT_P2PL.EN. -/
def Fld.HPT_P2PL_EN : Fld := ⟨.HPT_P2PL, 0, 1, .rw, 0⟩

/-- HPT_OBADDR.ADDR. -/
def Fld.HPT_OBADDR_ADDR : Fld := ⟨.HPT_OBADDR, 2, 62, .rw, 0⟩

/-- HPT_OBDATA.DATA. -/
def Fld.HPT_OBDATA_DATA : Fld := ⟨.HPT_OBDATA, 0, 32, .wo, 0⟩

/-- HPT_MSIGEN.FLUSH. -/
def Fld.HPT_MSIGEN_FLUSH : Fld := ⟨.HPT_MSIGEN, 8, 1, .wo, 0⟩
/-- HPT_MSIGEN.VECTOR. -/
def Fld.HPT_MSIGEN_VECTOR : Fld := ⟨.HPT_MSIGEN, 0, 6, .wo, 0⟩

/-! ## 15_failure_survival -/

/-- RSL_CTRL.HTO. -/
def Fld.RSL_CTRL_HTO : Fld := ⟨.RSL_CTRL, 16, 8, .rw, 0xa⟩
/-- RSL_CTRL.FENCE. -/
def Fld.RSL_CTRL_FENCE : Fld := ⟨.RSL_CTRL, 0, 1, .wo, 0⟩

/-- RSL_STAT.FCAUSE. -/
def Fld.RSL_STAT_FCAUSE : Fld := ⟨.RSL_STAT, 24, 8, .ro, 0⟩
/-- RSL_STAT.ADERR. -/
def Fld.RSL_STAT_ADERR : Fld := ⟨.RSL_STAT, 4, 1, .w1c, 0⟩
/-- RSL_STAT.QUIET. -/
def Fld.RSL_STAT_QUIET : Fld := ⟨.RSL_STAT, 2, 1, .ro, 1⟩
/-- RSL_STAT.STATE. -/
def Fld.RSL_STAT_STATE : Fld := ⟨.RSL_STAT, 0, 2, .ro, 0⟩

/-- RSL_CQ_STAT.OVFL. -/
def Fld.RSL_CQ_STAT_OVFL : Fld := ⟨.RSL_CQ_STAT, 31, 1, .w1c, 0⟩
/-- RSL_CQ_STAT.FSEV. -/
def Fld.RSL_CQ_STAT_FSEV : Fld := ⟨.RSL_CQ_STAT, 18, 2, .ro, 0⟩
/-- RSL_CQ_STAT.DEPTH. -/
def Fld.RSL_CQ_STAT_DEPTH : Fld := ⟨.RSL_CQ_STAT, 16, 2, .ro, 0⟩
/-- RSL_CQ_STAT.FRONT. -/
def Fld.RSL_CQ_STAT_FRONT : Fld := ⟨.RSL_CQ_STAT, 15, 1, .ro, 0⟩
/-- RSL_CQ_STAT.COUNT. -/
def Fld.RSL_CQ_STAT_COUNT : Fld := ⟨.RSL_CQ_STAT, 8, 7, .ro, 0⟩
/-- RSL_CQ_STAT.HEAD. -/
def Fld.RSL_CQ_STAT_HEAD : Fld := ⟨.RSL_CQ_STAT, 0, 6, .ro, 0⟩

/-- RSL_RQ_STAT.OVFL. -/
def Fld.RSL_RQ_STAT_OVFL : Fld := ⟨.RSL_RQ_STAT, 31, 1, .w1c, 0⟩
/-- RSL_RQ_STAT.FSEV. -/
def Fld.RSL_RQ_STAT_FSEV : Fld := ⟨.RSL_RQ_STAT, 18, 2, .ro, 0⟩
/-- RSL_RQ_STAT.DEPTH. -/
def Fld.RSL_RQ_STAT_DEPTH : Fld := ⟨.RSL_RQ_STAT, 16, 2, .ro, 0⟩
/-- RSL_RQ_STAT.FRONT. -/
def Fld.RSL_RQ_STAT_FRONT : Fld := ⟨.RSL_RQ_STAT, 15, 1, .ro, 0⟩
/-- RSL_RQ_STAT.COUNT. -/
def Fld.RSL_RQ_STAT_COUNT : Fld := ⟨.RSL_RQ_STAT, 8, 7, .ro, 0⟩
/-- RSL_RQ_STAT.HEAD. -/
def Fld.RSL_RQ_STAT_HEAD : Fld := ⟨.RSL_RQ_STAT, 0, 6, .ro, 0⟩

/-- RSL_CQ_POP.GO. -/
def Fld.RSL_CQ_POP_GO : Fld := ⟨.RSL_CQ_POP, 31, 1, .wo, 0⟩
/-- RSL_CQ_POP.OUTCOME. -/
def Fld.RSL_CQ_POP_OUTCOME : Fld := ⟨.RSL_CQ_POP, 0, 2, .wo, 0⟩

/-- RSL_RQ_POP.GO. -/
def Fld.RSL_RQ_POP_GO : Fld := ⟨.RSL_RQ_POP, 31, 1, .wo, 0⟩
/-- RSL_RQ_POP.OUTCOME. -/
def Fld.RSL_RQ_POP_OUTCOME : Fld := ⟨.RSL_RQ_POP, 0, 2, .wo, 0⟩

/-- RSL_CQ_REC.DATA. -/
def Fld.RSL_CQ_REC_DATA : Fld := ⟨.RSL_CQ_REC, 0, 64, .ro, 0⟩

/-- RSL_RQ_REC.DATA. -/
def Fld.RSL_RQ_REC_DATA : Fld := ⟨.RSL_RQ_REC, 0, 64, .ro, 0⟩

/-- RSL_FIFE_CTRL.EN. -/
def Fld.RSL_FIFE_CTRL_EN : Fld := ⟨.RSL_FIFE_CTRL, 31, 1, .rw, 0⟩
/-- RSL_FIFE_CTRL.PROBE_TO. -/
def Fld.RSL_FIFE_CTRL_PROBE_TO : Fld := ⟨.RSL_FIFE_CTRL, 16, 8, .rw, 2⟩
/-- RSL_FIFE_CTRL.PERIOD. -/
def Fld.RSL_FIFE_CTRL_PERIOD : Fld := ⟨.RSL_FIFE_CTRL, 0, 16, .rw, 0x61a8⟩

/-- RSL_FIFEP.EN. -/
def Fld.RSL_FIFEP_EN : Fld := ⟨.RSL_FIFEP, 31, 1, .rw, 0⟩
/-- RSL_FIFEP.ALTB. -/
def Fld.RSL_FIFEP_ALTB : Fld := ⟨.RSL_FIFEP, 24, 4, .rw, 0⟩
/-- RSL_FIFEP.PDEV. -/
def Fld.RSL_FIFEP_PDEV : Fld := ⟨.RSL_FIFEP, 0, 14, .rw, 0⟩

/-- RSL_FIFES.STATE. -/
def Fld.RSL_FIFES_STATE : Fld := ⟨.RSL_FIFES, 61, 3, .ro, 0⟩
/-- RSL_FIFES.MISSED. -/
def Fld.RSL_FIFES_MISSED : Fld := ⟨.RSL_FIFES, 56, 5, .ro, 0⟩
/-- RSL_FIFES.LAST. -/
def Fld.RSL_FIFES_LAST : Fld := ⟨.RSL_FIFES, 0, 48, .ro, 0⟩

/-- RSL_ADOPT.GO. -/
def Fld.RSL_ADOPT_GO : Fld := ⟨.RSL_ADOPT, 31, 1, .wo, 0⟩
/-- RSL_ADOPT.DONE. -/
def Fld.RSL_ADOPT_DONE : Fld := ⟨.RSL_ADOPT, 30, 1, .wo, 0⟩
/-- RSL_ADOPT.ID. -/
def Fld.RSL_ADOPT_ID : Fld := ⟨.RSL_ADOPT, 0, 14, .rw, 0⟩

/-- RSL_REPORT.GO. -/
def Fld.RSL_REPORT_GO : Fld := ⟨.RSL_REPORT, 63, 1, .wo, 0⟩
/-- RSL_REPORT.SEV. -/
def Fld.RSL_REPORT_SEV : Fld := ⟨.RSL_REPORT, 56, 2, .rw, 0⟩
/-- RSL_REPORT.STATUS. -/
def Fld.RSL_REPORT_STATUS : Fld := ⟨.RSL_REPORT, 48, 8, .rw, 0⟩
/-- RSL_REPORT.DETAIL. -/
def Fld.RSL_REPORT_DETAIL : Fld := ⟨.RSL_REPORT, 40, 8, .rw, 0⟩
/-- RSL_REPORT.INFO. -/
def Fld.RSL_REPORT_INFO : Fld := ⟨.RSL_REPORT, 0, 40, .rw, 0⟩

/-- RSL_POLICY.SNAP_EVERY. -/
def Fld.RSL_POLICY_SNAP_EVERY : Fld := ⟨.RSL_POLICY, 0, 16, .rw, 0x64⟩

/-- RSL_CNT.PROBES. -/
def Fld.RSL_CNT_PROBES : Fld := ⟨.RSL_CNT, 48, 16, .ro, 0⟩
/-- RSL_CNT.CONFIRMS. -/
def Fld.RSL_CNT_CONFIRMS : Fld := ⟨.RSL_CNT, 32, 16, .ro, 0⟩
/-- RSL_CNT.PREEMPT. -/
def Fld.RSL_CNT_PREEMPT : Fld := ⟨.RSL_CNT, 16, 16, .ro, 0⟩
/-- RSL_CNT.ESC. -/
def Fld.RSL_CNT_ESC : Fld := ⟨.RSL_CNT, 0, 16, .ro, 0⟩

/-! ## 16_kettle -/

/-- KTL_BOOT.KONLY. -/
def Fld.KTL_BOOT_KONLY : Fld := ⟨.KTL_BOOT, 31, 1, .ro, 0⟩
/-- KTL_BOOT.SEALED. -/
def Fld.KTL_BOOT_SEALED : Fld := ⟨.KTL_BOOT, 30, 1, .ro, 0⟩
/-- KTL_BOOT.STAGE. -/
def Fld.KTL_BOOT_STAGE : Fld := ⟨.KTL_BOOT, 24, 4, .ro, 1⟩
/-- KTL_BOOT.FAIL. -/
def Fld.KTL_BOOT_FAIL : Fld := ⟨.KTL_BOOT, 16, 8, .ro, 0⟩
/-- KTL_BOOT.SLOT. -/
def Fld.KTL_BOOT_SLOT : Fld := ⟨.KTL_BOOT, 0, 1, .ro, 0⟩

/-- KTL_MB_DB.GO. -/
def Fld.KTL_MB_DB_GO : Fld := ⟨.KTL_MB_DB, 63, 1, .wo, 0⟩
/-- KTL_MB_DB.ADDR. -/
def Fld.KTL_MB_DB_ADDR : Fld := ⟨.KTL_MB_DB, 6, 42, .rw, 0⟩

/-- KTL_MB_STAT.BUSY. -/
def Fld.KTL_MB_STAT_BUSY : Fld := ⟨.KTL_MB_STAT, 31, 1, .ro, 0⟩
/-- KTL_MB_STAT.DONE. -/
def Fld.KTL_MB_STAT_DONE : Fld := ⟨.KTL_MB_STAT, 30, 1, .ro, 0⟩
/-- KTL_MB_STAT.RESULT. -/
def Fld.KTL_MB_STAT_RESULT : Fld := ⟨.KTL_MB_STAT, 0, 8, .ro, 0⟩

/-- KTL_PWR.PCAP. -/
def Fld.KTL_PWR_PCAP : Fld := ⟨.KTL_PWR, 48, 16, .ro, 0⟩
/-- KTL_PWR.CAPINT. -/
def Fld.KTL_PWR_CAPINT : Fld := ⟨.KTL_PWR, 40, 8, .ro, 1⟩
/-- KTL_PWR.NCUR. -/
def Fld.KTL_PWR_NCUR : Fld := ⟨.KTL_PWR, 32, 6, .ro, 0x20⟩
/-- KTL_PWR.PIN. -/
def Fld.KTL_PWR_PIN : Fld := ⟨.KTL_PWR, 16, 16, .ro, 0⟩
/-- KTL_PWR.THROT. -/
def Fld.KTL_PWR_THROT : Fld := ⟨.KTL_PWR, 0, 4, .ro, 0⟩

/-- KTL_THERM.TMAX. -/
def Fld.KTL_THERM_TMAX : Fld := ⟨.KTL_THERM, 24, 8, .ro, 0⟩
/-- KTL_THERM.TDIE. -/
def Fld.KTL_THERM_TDIE : Fld := ⟨.KTL_THERM, 16, 4, .ro, 0⟩
/-- KTL_THERM.TJ_THR. -/
def Fld.KTL_THERM_TJ_THR : Fld := ⟨.KTL_THERM, 8, 8, .ro, 0⟩

/-- KTL_SB.STUCK. -/
def Fld.KTL_SB_STUCK : Fld := ⟨.KTL_SB, 24, 6, .w1c, 0⟩
/-- KTL_SB.CHATTER. -/
def Fld.KTL_SB_CHATTER : Fld := ⟨.KTL_SB, 16, 6, .w1c, 0⟩
/-- KTL_SB.HELD. -/
def Fld.KTL_SB_HELD : Fld := ⟨.KTL_SB, 8, 6, .ro, 0⟩
/-- KTL_SB.LEVEL. -/
def Fld.KTL_SB_LEVEL : Fld := ⟨.KTL_SB, 0, 6, .ro, 0⟩

/-- KTL_SBLIM.TSTEP. -/
def Fld.KTL_SBLIM_TSTEP : Fld := ⟨.KTL_SBLIM, 24, 8, .rw, 0x10⟩
/-- KTL_SBLIM.PERST_LIM. -/
def Fld.KTL_SBLIM_PERST_LIM : Fld := ⟨.KTL_SBLIM, 8, 8, .rw, 0⟩
/-- KTL_SBLIM.THR_LIM. -/
def Fld.KTL_SBLIM_THR_LIM : Fld := ⟨.KTL_SBLIM, 0, 8, .rw, 0xa⟩

/-- KTL_ALERT.KONLY. -/
def Fld.KTL_ALERT_KONLY : Fld := ⟨.KTL_ALERT, 7, 1, .w1c, 0⟩
/-- KTL_ALERT.FAST. -/
def Fld.KTL_ALERT_FAST : Fld := ⟨.KTL_ALERT, 6, 1, .w1c, 0⟩
/-- KTL_ALERT.LINKAUTH. -/
def Fld.KTL_ALERT_LINKAUTH : Fld := ⟨.KTL_ALERT, 5, 1, .w1c, 0⟩
/-- KTL_ALERT.KEYMIS. -/
def Fld.KTL_ALERT_KEYMIS : Fld := ⟨.KTL_ALERT, 4, 1, .w1c, 0⟩
/-- KTL_ALERT.THERMAL. -/
def Fld.KTL_ALERT_THERMAL : Fld := ⟨.KTL_ALERT, 3, 1, .w1c, 0⟩
/-- KTL_ALERT.CAP. -/
def Fld.KTL_ALERT_CAP : Fld := ⟨.KTL_ALERT, 2, 1, .w1c, 0⟩
/-- KTL_ALERT.STUCK. -/
def Fld.KTL_ALERT_STUCK : Fld := ⟨.KTL_ALERT, 1, 1, .w1c, 0⟩
/-- KTL_ALERT.CHATTER. -/
def Fld.KTL_ALERT_CHATTER : Fld := ⟨.KTL_ALERT, 0, 1, .w1c, 0⟩

/-- KTL_ALERT_EN.EN. -/
def Fld.KTL_ALERT_EN_EN : Fld := ⟨.KTL_ALERT_EN, 0, 8, .rw, 0xff⟩

/-- KTL_TEL_CTRL.PERIOD. -/
def Fld.KTL_TEL_CTRL_PERIOD : Fld := ⟨.KTL_TEL_CTRL, 0, 16, .rw, 0x64⟩

/-! ## 17_pins_power_thermal -/

/-- FMC_STAT.POP. -/
def Fld.FMC_STAT_POP : Fld := ⟨.FMC_STAT, 31, 1, .ro, 0⟩
/-- FMC_STAT.FAILED. -/
def Fld.FMC_STAT_FAILED : Fld := ⟨.FMC_STAT, 30, 1, .ro, 0⟩
/-- FMC_STAT.DPC. -/
def Fld.FMC_STAT_DPC : Fld := ⟨.FMC_STAT, 28, 2, .ro, 0⟩
/-- FMC_STAT.CAP. -/
def Fld.FMC_STAT_CAP : Fld := ⟨.FMC_STAT, 16, 10, .ro, 0⟩
/-- FMC_STAT.RATE. -/
def Fld.FMC_STAT_RATE : Fld := ⟨.FMC_STAT, 0, 16, .ro, 0⟩

/-- FMC_ECC.UE. -/
def Fld.FMC_ECC_UE : Fld := ⟨.FMC_ECC, 48, 16, .ro, 0⟩
/-- FMC_ECC.PPR_PEND. -/
def Fld.FMC_ECC_PPR_PEND : Fld := ⟨.FMC_ECC, 32, 16, .ro, 0⟩
/-- FMC_ECC.CE. -/
def Fld.FMC_ECC_CE : Fld := ⟨.FMC_ECC, 0, 32, .ro, 0⟩

/-! ## 12_links_collectives -/

/-- LNK_ER_BASE.EN. -/
def Fld.LNK_ER_BASE_EN : Fld := ⟨.LNK_ER_BASE, 63, 1, .rw, 0⟩
/-- LNK_ER_BASE.OVWR. -/
def Fld.LNK_ER_BASE_OVWR : Fld := ⟨.LNK_ER_BASE, 62, 1, .rw, 1⟩
/-- LNK_ER_BASE.LOG2N. -/
def Fld.LNK_ER_BASE_LOG2N : Fld := ⟨.LNK_ER_BASE, 52, 4, .rw, 0⟩
/-- LNK_ER_BASE.BASE. -/
def Fld.LNK_ER_BASE_BASE : Fld := ⟨.LNK_ER_BASE, 6, 42, .rw, 0⟩

/-- LNK_ER_CB.CB. -/
def Fld.LNK_ER_CB_CB : Fld := ⟨.LNK_ER_CB, 7, 41, .rw, 0⟩

/-- LNK_ER_STAT.PEND. -/
def Fld.LNK_ER_STAT_PEND : Fld := ⟨.LNK_ER_STAT, 8, 8, .ro, 0⟩
/-- LNK_ER_STAT.STALL. -/
def Fld.LNK_ER_STAT_STALL : Fld := ⟨.LNK_ER_STAT, 0, 1, .ro, 0⟩

/-! ## 13_input_pipeline -/

/-- COL_RQ_BASE.EN. -/
def Fld.COL_RQ_BASE_EN : Fld := ⟨.COL_RQ_BASE, 63, 1, .rw, 0⟩
/-- COL_RQ_BASE.LOG2N. -/
def Fld.COL_RQ_BASE_LOG2N : Fld := ⟨.COL_RQ_BASE, 52, 4, .rw, 0⟩
/-- COL_RQ_BASE.BASE. -/
def Fld.COL_RQ_BASE_BASE : Fld := ⟨.COL_RQ_BASE, 6, 42, .rw, 0⟩

/-- COL_RQ_CB.CB. -/
def Fld.COL_RQ_CB_CB : Fld := ⟨.COL_RQ_CB, 7, 41, .rw, 0⟩

/-- COL_CL_BASE.EN. -/
def Fld.COL_CL_BASE_EN : Fld := ⟨.COL_CL_BASE, 63, 1, .rw, 0⟩
/-- COL_CL_BASE.LOG2N. -/
def Fld.COL_CL_BASE_LOG2N : Fld := ⟨.COL_CL_BASE, 52, 4, .rw, 0⟩
/-- COL_CL_BASE.BASE. -/
def Fld.COL_CL_BASE_BASE : Fld := ⟨.COL_CL_BASE, 6, 42, .rw, 0⟩

/-- COL_CL_CB.CB. -/
def Fld.COL_CL_CB_CB : Fld := ⟨.COL_CL_CB, 7, 41, .rw, 0⟩

/-- COL_CR_BASE.EN. -/
def Fld.COL_CR_BASE_EN : Fld := ⟨.COL_CR_BASE, 63, 1, .rw, 0⟩
/-- COL_CR_BASE.LOG2N. -/
def Fld.COL_CR_BASE_LOG2N : Fld := ⟨.COL_CR_BASE, 52, 4, .rw, 0⟩
/-- COL_CR_BASE.BASE. -/
def Fld.COL_CR_BASE_BASE : Fld := ⟨.COL_CR_BASE, 6, 42, .rw, 0⟩

/-- COL_CR_CB.CB. -/
def Fld.COL_CR_CB_CB : Fld := ⟨.COL_CR_CB, 7, 41, .rw, 0⟩

/-- COL_HL_BASE.EN. -/
def Fld.COL_HL_BASE_EN : Fld := ⟨.COL_HL_BASE, 63, 1, .rw, 0⟩
/-- COL_HL_BASE.LOG2N. -/
def Fld.COL_HL_BASE_LOG2N : Fld := ⟨.COL_HL_BASE, 52, 4, .rw, 0⟩
/-- COL_HL_BASE.BASE. -/
def Fld.COL_HL_BASE_BASE : Fld := ⟨.COL_HL_BASE, 6, 42, .rw, 0⟩

/-- COL_HL_CB.CB. -/
def Fld.COL_HL_CB_CB : Fld := ⟨.COL_HL_CB, 7, 41, .rw, 0⟩

/-- COL_HR_BASE.EN. -/
def Fld.COL_HR_BASE_EN : Fld := ⟨.COL_HR_BASE, 63, 1, .rw, 0⟩
/-- COL_HR_BASE.LOG2N. -/
def Fld.COL_HR_BASE_LOG2N : Fld := ⟨.COL_HR_BASE, 52, 4, .rw, 0⟩
/-- COL_HR_BASE.BASE. -/
def Fld.COL_HR_BASE_BASE : Fld := ⟨.COL_HR_BASE, 6, 42, .rw, 0⟩

/-- COL_HR_CB.CB. -/
def Fld.COL_HR_CB_CB : Fld := ⟨.COL_HR_CB, 7, 41, .rw, 0⟩

/-- COL_MF_BASE.EN. -/
def Fld.COL_MF_BASE_EN : Fld := ⟨.COL_MF_BASE, 63, 1, .rw, 0⟩
/-- COL_MF_BASE.LOG2N. -/
def Fld.COL_MF_BASE_LOG2N : Fld := ⟨.COL_MF_BASE, 52, 4, .rw, 0⟩
/-- COL_MF_BASE.BASE. -/
def Fld.COL_MF_BASE_BASE : Fld := ⟨.COL_MF_BASE, 6, 42, .rw, 0⟩

/-- COL_MF_CB.CB. -/
def Fld.COL_MF_CB_CB : Fld := ⟨.COL_MF_CB, 7, 41, .rw, 0⟩

/-- COL_RP_BASE.EN. -/
def Fld.COL_RP_BASE_EN : Fld := ⟨.COL_RP_BASE, 63, 1, .rw, 0⟩
/-- COL_RP_BASE.LOG2N. -/
def Fld.COL_RP_BASE_LOG2N : Fld := ⟨.COL_RP_BASE, 52, 4, .rw, 0⟩
/-- COL_RP_BASE.BASE. -/
def Fld.COL_RP_BASE_BASE : Fld := ⟨.COL_RP_BASE, 6, 42, .rw, 0⟩

/-- COL_RP_CB.CB. -/
def Fld.COL_RP_CB_CB : Fld := ⟨.COL_RP_CB, 7, 41, .rw, 0⟩

/-- COL_ER_BASE.EN. -/
def Fld.COL_ER_BASE_EN : Fld := ⟨.COL_ER_BASE, 63, 1, .rw, 0⟩
/-- COL_ER_BASE.OVWR. -/
def Fld.COL_ER_BASE_OVWR : Fld := ⟨.COL_ER_BASE, 62, 1, .rw, 1⟩
/-- COL_ER_BASE.LOG2N. -/
def Fld.COL_ER_BASE_LOG2N : Fld := ⟨.COL_ER_BASE, 52, 4, .rw, 0⟩
/-- COL_ER_BASE.BASE. -/
def Fld.COL_ER_BASE_BASE : Fld := ⟨.COL_ER_BASE, 6, 42, .rw, 0⟩

/-- COL_ER_CB.CB. -/
def Fld.COL_ER_CB_CB : Fld := ⟨.COL_ER_CB, 7, 41, .rw, 0⟩

/-- COL_ER_STAT.PEND. -/
def Fld.COL_ER_STAT_PEND : Fld := ⟨.COL_ER_STAT, 8, 8, .ro, 0⟩
/-- COL_ER_STAT.STALL. -/
def Fld.COL_ER_STAT_STALL : Fld := ⟨.COL_ER_STAT, 0, 1, .ro, 0⟩

/-! ## 15_failure_survival -/

/-- RSL_EL_BASE.EN. -/
def Fld.RSL_EL_BASE_EN : Fld := ⟨.RSL_EL_BASE, 63, 1, .rw, 0⟩
/-- RSL_EL_BASE.OVWR. -/
def Fld.RSL_EL_BASE_OVWR : Fld := ⟨.RSL_EL_BASE, 62, 1, .rw, 1⟩
/-- RSL_EL_BASE.LOG2N. -/
def Fld.RSL_EL_BASE_LOG2N : Fld := ⟨.RSL_EL_BASE, 52, 4, .rw, 0⟩
/-- RSL_EL_BASE.BASE. -/
def Fld.RSL_EL_BASE_BASE : Fld := ⟨.RSL_EL_BASE, 6, 42, .rw, 0⟩

/-- RSL_EL_CB.CB. -/
def Fld.RSL_EL_CB_CB : Fld := ⟨.RSL_EL_CB, 7, 41, .rw, 0⟩

/-- RSL_EL_STAT.PEND. -/
def Fld.RSL_EL_STAT_PEND : Fld := ⟨.RSL_EL_STAT, 8, 8, .ro, 0⟩
/-- RSL_EL_STAT.STALL. -/
def Fld.RSL_EL_STAT_STALL : Fld := ⟨.RSL_EL_STAT, 0, 1, .ro, 0⟩

/-- RSL_ELC_BASE.EN. -/
def Fld.RSL_ELC_BASE_EN : Fld := ⟨.RSL_ELC_BASE, 63, 1, .rw, 0⟩
/-- RSL_ELC_BASE.OVWR. -/
def Fld.RSL_ELC_BASE_OVWR : Fld := ⟨.RSL_ELC_BASE, 62, 1, .rw, 1⟩
/-- RSL_ELC_BASE.LOG2N. -/
def Fld.RSL_ELC_BASE_LOG2N : Fld := ⟨.RSL_ELC_BASE, 52, 4, .rw, 0⟩
/-- RSL_ELC_BASE.BASE. -/
def Fld.RSL_ELC_BASE_BASE : Fld := ⟨.RSL_ELC_BASE, 6, 42, .rw, 0⟩

/-- RSL_ELC_CB.CB. -/
def Fld.RSL_ELC_CB_CB : Fld := ⟨.RSL_ELC_CB, 7, 41, .rw, 0⟩

/-- RSL_ELC_STAT.PEND. -/
def Fld.RSL_ELC_STAT_PEND : Fld := ⟨.RSL_ELC_STAT, 8, 8, .ro, 0⟩
/-- RSL_ELC_STAT.STALL. -/
def Fld.RSL_ELC_STAT_STALL : Fld := ⟨.RSL_ELC_STAT, 0, 1, .ro, 0⟩

/-- RSL_JR_BASE.EN. -/
def Fld.RSL_JR_BASE_EN : Fld := ⟨.RSL_JR_BASE, 63, 1, .rw, 0⟩
/-- RSL_JR_BASE.LOG2N. -/
def Fld.RSL_JR_BASE_LOG2N : Fld := ⟨.RSL_JR_BASE, 52, 4, .rw, 0⟩
/-- RSL_JR_BASE.BASE. -/
def Fld.RSL_JR_BASE_BASE : Fld := ⟨.RSL_JR_BASE, 6, 42, .rw, 0⟩

/-- RSL_JR_CB.CB. -/
def Fld.RSL_JR_CB_CB : Fld := ⟨.RSL_JR_CB, 7, 41, .rw, 0⟩

/-- RSL_JR_STAT.PEND. -/
def Fld.RSL_JR_STAT_PEND : Fld := ⟨.RSL_JR_STAT, 8, 8, .ro, 0⟩
/-- RSL_JR_STAT.STALL. -/
def Fld.RSL_JR_STAT_STALL : Fld := ⟨.RSL_JR_STAT, 0, 1, .ro, 0⟩

/-! ## 16_kettle -/

/-- KTL_TEL_BASE.EN. -/
def Fld.KTL_TEL_BASE_EN : Fld := ⟨.KTL_TEL_BASE, 63, 1, .rw, 0⟩
/-- KTL_TEL_BASE.OVWR. -/
def Fld.KTL_TEL_BASE_OVWR : Fld := ⟨.KTL_TEL_BASE, 62, 1, .rw, 1⟩
/-- KTL_TEL_BASE.LOG2N. -/
def Fld.KTL_TEL_BASE_LOG2N : Fld := ⟨.KTL_TEL_BASE, 52, 4, .rw, 0⟩
/-- KTL_TEL_BASE.BASE. -/
def Fld.KTL_TEL_BASE_BASE : Fld := ⟨.KTL_TEL_BASE, 6, 42, .rw, 0⟩

/-- KTL_TEL_CB.CB. -/
def Fld.KTL_TEL_CB_CB : Fld := ⟨.KTL_TEL_CB, 7, 41, .rw, 0⟩

/-- KTL_TEL_STAT.PEND. -/
def Fld.KTL_TEL_STAT_PEND : Fld := ⟨.KTL_TEL_STAT, 8, 8, .ro, 0⟩
/-- KTL_TEL_STAT.STALL. -/
def Fld.KTL_TEL_STAT_STALL : Fld := ⟨.KTL_TEL_STAT, 0, 1, .ro, 0⟩

/-- The fields of a register that hold something; every other bit is rsvd and reads 0 (R10). -/
def Reg.fields : Reg → List Fld
  | .BDG_SEL => [Fld.BDG_SEL_KIND, Fld.BDG_SEL_INDEX]
  | .BDG_CAP => [Fld.BDG_CAP_CAP]
  | .BDG_CTRL => [Fld.BDG_CTRL_STARVE_LIM, Fld.BDG_CTRL_ENABLE, Fld.BDG_CTRL_BORROW]
  | .BDG_QUOTA => [Fld.BDG_QUOTA_QUOTA]
  | .BDG_BAL => [Fld.BDG_BAL_BAL]
  | .BDG_USED => [Fld.BDG_USED_USED]
  | .BDG_STAT => [Fld.BDG_STAT_STARVED, Fld.BDG_STAT_OVERSUB, Fld.BDG_STAT_WAITING]
  | .BDG_PCNT => [Fld.BDG_PCNT_PERIODS]
  | .FAB_DECERR => [Fld.FAB_DECERR_VALID, Fld.FAB_DECERR_WRITE, Fld.FAB_DECERR_REQ, Fld.FAB_DECERR_COUNT, Fld.FAB_DECERR_ADDR]
  | .REG_SEL => [Fld.REG_SEL_INDEX]
  | .BLK_SEL => [Fld.BLK_SEL_INDEX]
  | .LNK_SEL => [Fld.LNK_SEL_INDEX]
  | .FMC_SEL => [Fld.FMC_SEL_INDEX]
  | .HPT_SEL => [Fld.HPT_SEL_INDEX]
  | .CEL_SEL => [Fld.CEL_SEL_PHYS, Fld.CEL_SEL_INDEX]
  | .HPT_ACC => [Fld.HPT_ACC_ENT]
  | .HPT_ACCERR => [Fld.HPT_ACCERR_VALID, Fld.HPT_ACCERR_WRITE, Fld.HPT_ACCERR_BAR0, Fld.HPT_ACCERR_COUNT, Fld.HPT_ACCERR_ADDR]
  | .DIR_CTRL => [Fld.DIR_CTRL_SNP_TO]
  | .DIR_OCC => [Fld.DIR_OCC_ENTRIES]
  | .DIR_TXN => [Fld.DIR_TXN_REQ_MAX, Fld.DIR_TXN_TXN]
  | .DIR_BINV_CNT => [Fld.DIR_BINV_CNT_COUNT]
  | .DIR_STALE_CNT => [Fld.DIR_STALE_CNT_COUNT]
  | .DIR_PRIO => [Fld.DIR_PRIO_P]
  | .DIR_PEEK_ADDR => [Fld.DIR_PEEK_ADDR_GO, Fld.DIR_PEEK_ADDR_LINE]
  | .DIR_PEEK_RES => [Fld.DIR_PEEK_RES_DONE, Fld.DIR_PEEK_RES_HIT, Fld.DIR_PEEK_RES_STATE, Fld.DIR_PEEK_RES_AGE, Fld.DIR_PEEK_RES_SET]
  | .DIR_PEEK_VEC => [Fld.DIR_PEEK_VEC_SHARERS]
  | .DIR_HOP => [Fld.DIR_HOP_HOPS]
  | .BLK_PWR => [Fld.BLK_PWR_ABANDONED, Fld.BLK_PWR_WAKE_REQ, Fld.BLK_PWR_AUTOGATE, Fld.BLK_PWR_REQ, Fld.BLK_PWR_STATE]
  | .BLK_SPARE => [Fld.BLK_SPARE_ENABLE, Fld.BLK_SPARE_SPARE, Fld.BLK_SPARE_RETIRED]
  | .BLK_MAP => [Fld.BLK_MAP_POS3, Fld.BLK_MAP_POS2, Fld.BLK_MAP_POS1, Fld.BLK_MAP_POS0]
  | .BLK_RETIRE => [Fld.BLK_RETIRE_GO, Fld.BLK_RETIRE_SLOT]
  | .BLK_RTHR => [Fld.BLK_RTHR_CE_LIM]
  | .BLK_ELOG => [Fld.BLK_ELOG_OVFL, Fld.BLK_ELOG_COUNT, Fld.BLK_ELOG_HEAD]
  | .CEL_STAT => [Fld.CEL_STAT_RETIRED, Fld.CEL_STAT_SPARE, Fld.CEL_STAT_HELD, Fld.CEL_STAT_TRAPPED, Fld.CEL_STAT_BUSY]
  | .CEL_CTRL => [Fld.CEL_CTRL_CLR_ECC, Fld.CEL_CTRL_SELFTEST, Fld.CEL_CTRL_RELEASE]
  | .CEL_ECC => [Fld.CEL_ECC_UE, Fld.CEL_ECC_PARITY, Fld.CEL_ECC_CE]
  | .NMS_CTRL => [Fld.NMS_CTRL_ROW_THR, Fld.NMS_CTRL_SCRUB_HRS, Fld.NMS_CTRL_BSU_EN]
  | .NMS_ECC => [Fld.NMS_ECC_UE, Fld.NMS_ECC_CE]
  | .NMS_SPARE => [Fld.NMS_SPARE_USED, Fld.NMS_SPARE_FREE_MIN]
  | .NMS_BSU => [Fld.NMS_BSU_PASSES, Fld.NMS_BSU_FALLBACKS]
  | .SEQ_CTRL => [Fld.SEQ_CTRL_SLOTLOG, Fld.SEQ_CTRL_CLRTOK, Fld.SEQ_CTRL_ABORT, Fld.SEQ_CTRL_RESUME, Fld.SEQ_CTRL_HALT]
  | .SEQ_STAT => [Fld.SEQ_STAT_DETAIL, Fld.SEQ_STAT_STATE]
  | .SEQ_PC => [Fld.SEQ_PC_PC]
  | .SEQ_STEP => [Fld.SEQ_STEP_EPOCH, Fld.SEQ_STEP_STEP]
  | .SEQ_SLOT => [Fld.SEQ_SLOT_MICRO, Fld.SEQ_SLOT_KIND, Fld.SEQ_SLOT_VSTAGE, Fld.SEQ_SLOT_INDEX]
  | .SEQ_SEED => [Fld.SEQ_SEED_SEED]
  | .SEQ_WR_BASE => [Fld.SEQ_WR_BASE_EN, Fld.SEQ_WR_BASE_LOG2N, Fld.SEQ_WR_BASE_BASE]
  | .SEQ_CR_BASE => [Fld.SEQ_CR_BASE_EN, Fld.SEQ_CR_BASE_LOG2N, Fld.SEQ_CR_BASE_BASE]
  | .SEQ_ER_BASE => [Fld.SEQ_ER_BASE_EN, Fld.SEQ_ER_BASE_OVWR, Fld.SEQ_ER_BASE_LOG2N, Fld.SEQ_ER_BASE_BASE]
  | .SEQ_WR_CB => [Fld.SEQ_WR_CB_CB]
  | .SEQ_CR_CB => [Fld.SEQ_CR_CB_CB]
  | .SEQ_ER_CB => [Fld.SEQ_ER_CB_CB]
  | .SEQ_RSTAT => [Fld.SEQ_RSTAT_ER_PEND, Fld.SEQ_RSTAT_CR_PEND, Fld.SEQ_RSTAT_ER_STALL, Fld.SEQ_RSTAT_CR_STALL]
  | .NUM_CTRL => [Fld.NUM_CTRL_RSC, Fld.NUM_CTRL_SUBN]
  | .NUM_STAT => [Fld.NUM_STAT_PROMOTE, Fld.NUM_STAT_SILENT, Fld.NUM_STAT_RESCALED, Fld.NUM_STAT_FLUSHED]
  | .NUM_MON_SEL => [Fld.NUM_MON_SEL_SEL]
  | .NUM_HIST => [Fld.NUM_HIST_HBASE, Fld.NUM_HIST_HSTEP]
  | .NUM_SZ => [Fld.NUM_SZ_FLOOR, Fld.NUM_SZ_LIMIT]
  | .NUM_EVCNT => [Fld.NUM_EVCNT_PROMOTE, Fld.NUM_EVCNT_SILENT, Fld.NUM_EVCNT_RESCALE]
  | .NUM_GNS_STEP => [Fld.NUM_GNS_STEP_STEP]
  | .NUM_GNS_SUM => [Fld.NUM_GNS_SUM_S_RED, Fld.NUM_GNS_SUM_S_LOC]
  | .NUM_GNS_NLOC => [Fld.NUM_GNS_NLOC_COUNT]
  | .NUM_GNS_NRED => [Fld.NUM_GNS_NRED_COUNT]
  | .NUM_ER_BASE => [Fld.NUM_ER_BASE_EN, Fld.NUM_ER_BASE_OVWR, Fld.NUM_ER_BASE_LOG2N, Fld.NUM_ER_BASE_BASE]
  | .NUM_ER_CB => [Fld.NUM_ER_CB_CB]
  | .NUM_ER_STAT => [Fld.NUM_ER_STAT_PEND, Fld.NUM_ER_STAT_STALL]
  | .UPD_PGSRC => [Fld.UPD_PGSRC_ADDR]
  | .UPD_PGCMD => [Fld.UPD_PGCMD_GO, Fld.UPD_PGCMD_OP, Fld.UPD_PGCMD_GROUP]
  | .UPD_PGSTAT => [Fld.UPD_PGSTAT_DONE, Fld.UPD_PGSTAT_BUSY, Fld.UPD_PGSTAT_RESULT, Fld.UPD_PGSTAT_GROUP, Fld.UPD_PGSTAT_RC_FIRST]
  | .UPD_RCBASE => [Fld.UPD_RCBASE_EN, Fld.UPD_RCBASE_BASE]
  | .UPD_RCFREE => [Fld.UPD_RCFREE_LARGEST, Fld.UPD_RCFREE_FREE]
  | .UPD_PGV => [Fld.UPD_PGV_VALID]
  | .UPD_CNT => [Fld.UPD_CNT_HELD, Fld.UPD_CNT_DAMPED, Fld.UPD_CNT_SKEW, Fld.UPD_CNT_TORN]
  | .UPD_TEAM => [Fld.UPD_TEAM_WAIT, Fld.UPD_TEAM_PHASE, Fld.UPD_TEAM_ARRIVED, Fld.UPD_TEAM_SIZE]
  | .FMC_CZ_CTRL => [Fld.FMC_CZ_CTRL_EN, Fld.FMC_CZ_CTRL_TBASE]
  | .FMC_CZ_WIN => [Fld.FMC_CZ_WIN_END, Fld.FMC_CZ_WIN_BASE]
  | .FMC_XTS => [Fld.FMC_XTS_KEYED, Fld.FMC_XTS_EN]
  | .FMC_CZ_STAT => [Fld.FMC_CZ_STAT_CFGERR, Fld.FMC_CZ_STAT_POISONED, Fld.FMC_CZ_STAT_UNCODED, Fld.FMC_CZ_STAT_SEGMENTS]
  | .LNK_CTRL => [Fld.LNK_CTRL_TXN_TO, Fld.LNK_CTRL_DATELINE, Fld.LNK_CTRL_RETRAIN, Fld.LNK_CTRL_UNFENCE, Fld.LNK_CTRL_ENABLE]
  | .LNK_STAT => [Fld.LNK_STAT_LOSS_DETAIL, Fld.LNK_STAT_KEYPHASE, Fld.LNK_STAT_RETRAINS, Fld.LNK_STAT_STATE]
  | .LNK_PEER => [Fld.LNK_PEER_VALID, Fld.LNK_PEER_PLINK, Fld.LNK_PEER_PDEV]
  | .LNK_ERR => [Fld.LNK_ERR_AUTH, Fld.LNK_ERR_FECUNC, Fld.LNK_ERR_REPLAY, Fld.LNK_ERR_CRC]
  | .LNK_TAGS => [Fld.LNK_TAGS_PEAK, Fld.LNK_TAGS_OUT]
  | .LNK_DEVID => [Fld.LNK_DEVID_VALID, Fld.LNK_DEVID_ID]
  | .LNK_RTCFG => [Fld.LNK_RTCFG_SIZE]
  | .LNK_CETO => [Fld.LNK_CETO_CE_TO]
  | .LNK_BUNDLE => [Fld.LNK_BUNDLE_EN, Fld.LNK_BUNDLE_DIM, Fld.LNK_BUNDLE_LINKS]
  | .LNK_EPOCH => [Fld.LNK_EPOCH_WAIT, Fld.LNK_EPOCH_EPOCH]
  | .LNK_GRPBASE => [Fld.LNK_GRPBASE_EN, Fld.LNK_GRPBASE_BASE]
  | .LNK_GRPSTAT => [Fld.LNK_GRPSTAT_LIVE]
  | .LNK_RT => [Fld.LNK_RT_E3, Fld.LNK_RT_E2, Fld.LNK_RT_E1, Fld.LNK_RT_E0]
  | .COL_CTRL => [Fld.COL_CTRL_SLOWMUL, Fld.COL_CTRL_REPLAY, Fld.COL_CTRL_EN, Fld.COL_CTRL_HOST_EN, Fld.COL_CTRL_CORE_EN, Fld.COL_CTRL_ENG_EN]
  | .COL_STAT => [Fld.COL_STAT_RPLERR, Fld.COL_STAT_STAGE_FREE, Fld.COL_STAT_ENG_BUSY, Fld.COL_STAT_SLOWQ]
  | .COL_SEED => [Fld.COL_SEED_SEED]
  | .COL_CWT => [Fld.COL_CWT_TEXT, Fld.COL_CWT_PNG, Fld.COL_CWT_JPEG]
  | .COL_AVG => [Fld.COL_AVG_AVG]
  | .COL_STAGE => [Fld.COL_STAGE_SLOTKIB, Fld.COL_STAGE_BASE]
  | .COL_XFBASE => [Fld.COL_XFBASE_BASE]
  | .COL_TOKBASE => [Fld.COL_TOKBASE_BASE]
  | .COL_TOKN => [Fld.COL_TOKN_NENT]
  | .COL_STRCMD => [Fld.COL_STRCMD_GO, Fld.COL_STRCMD_DONE, Fld.COL_STRCMD_RESULT, Fld.COL_STRCMD_OP, Fld.COL_STRCMD_STREAM]
  | .COL_STRSRC => [Fld.COL_STRSRC_ADDR]
  | .HPT_CFG => [Fld.HPT_CFG_WIDTH, Fld.HPT_CFG_MODE]
  | .HPT_LSTAT => [Fld.HPT_LSTAT_SPEED, Fld.HPT_LSTAT_NLW, Fld.HPT_LSTAT_FLIT, Fld.HPT_LSTAT_BME, Fld.HPT_LSTAT_PERST, Fld.HPT_LSTAT_DLUP]
  | .HPT_EPOCH => [Fld.HPT_EPOCH_OPEN, Fld.HPT_EPOCH_CAUSE, Fld.HPT_EPOCH_EPOCH]
  | .HPT_GATE => [Fld.HPT_GATE_GO, Fld.HPT_GATE_EPOCH]
  | .HPT_CTRL => [Fld.HPT_CTRL_JAUTO, Fld.HPT_CTRL_ADV]
  | .HPT_JCTRL => [Fld.HPT_JCTRL_AUTO_THR, Fld.HPT_JCTRL_AUTO_AGE]
  | .HPT_JSTAT => [Fld.HPT_JSTAT_FAILED, Fld.HPT_JSTAT_PEAK, Fld.HPT_JSTAT_OCC]
  | .HPT_ERR => [Fld.HPT_ERR_CTO, Fld.HPT_ERR_EP, Fld.HPT_ERR_CA, Fld.HPT_ERR_UR]
  | .HPT_P2PB => [Fld.HPT_P2PB_BASE]
  | .HPT_P2PL => [Fld.HPT_P2PL_LIMIT, Fld.HPT_P2PL_EN]
  | .HPT_OBADDR => [Fld.HPT_OBADDR_ADDR]
  | .HPT_OBDATA => [Fld.HPT_OBDATA_DATA]
  | .HPT_MSIGEN => [Fld.HPT_MSIGEN_FLUSH, Fld.HPT_MSIGEN_VECTOR]
  | .RSL_CTRL => [Fld.RSL_CTRL_HTO, Fld.RSL_CTRL_FENCE]
  | .RSL_STAT => [Fld.RSL_STAT_FCAUSE, Fld.RSL_STAT_ADERR, Fld.RSL_STAT_QUIET, Fld.RSL_STAT_STATE]
  | .RSL_CQ_STAT => [Fld.RSL_CQ_STAT_OVFL, Fld.RSL_CQ_STAT_FSEV, Fld.RSL_CQ_STAT_DEPTH, Fld.RSL_CQ_STAT_FRONT, Fld.RSL_CQ_STAT_COUNT, Fld.RSL_CQ_STAT_HEAD]
  | .RSL_RQ_STAT => [Fld.RSL_RQ_STAT_OVFL, Fld.RSL_RQ_STAT_FSEV, Fld.RSL_RQ_STAT_DEPTH, Fld.RSL_RQ_STAT_FRONT, Fld.RSL_RQ_STAT_COUNT, Fld.RSL_RQ_STAT_HEAD]
  | .RSL_CQ_POP => [Fld.RSL_CQ_POP_GO, Fld.RSL_CQ_POP_OUTCOME]
  | .RSL_RQ_POP => [Fld.RSL_RQ_POP_GO, Fld.RSL_RQ_POP_OUTCOME]
  | .RSL_CQ_REC => [Fld.RSL_CQ_REC_DATA]
  | .RSL_RQ_REC => [Fld.RSL_RQ_REC_DATA]
  | .RSL_FIFE_CTRL => [Fld.RSL_FIFE_CTRL_EN, Fld.RSL_FIFE_CTRL_PROBE_TO, Fld.RSL_FIFE_CTRL_PERIOD]
  | .RSL_FIFEP => [Fld.RSL_FIFEP_EN, Fld.RSL_FIFEP_ALTB, Fld.RSL_FIFEP_PDEV]
  | .RSL_FIFES => [Fld.RSL_FIFES_STATE, Fld.RSL_FIFES_MISSED, Fld.RSL_FIFES_LAST]
  | .RSL_ADOPT => [Fld.RSL_ADOPT_GO, Fld.RSL_ADOPT_DONE, Fld.RSL_ADOPT_ID]
  | .RSL_REPORT => [Fld.RSL_REPORT_GO, Fld.RSL_REPORT_SEV, Fld.RSL_REPORT_STATUS, Fld.RSL_REPORT_DETAIL, Fld.RSL_REPORT_INFO]
  | .RSL_POLICY => [Fld.RSL_POLICY_SNAP_EVERY]
  | .RSL_CNT => [Fld.RSL_CNT_PROBES, Fld.RSL_CNT_CONFIRMS, Fld.RSL_CNT_PREEMPT, Fld.RSL_CNT_ESC]
  | .KTL_BOOT => [Fld.KTL_BOOT_KONLY, Fld.KTL_BOOT_SEALED, Fld.KTL_BOOT_STAGE, Fld.KTL_BOOT_FAIL, Fld.KTL_BOOT_SLOT]
  | .KTL_MB_DB => [Fld.KTL_MB_DB_GO, Fld.KTL_MB_DB_ADDR]
  | .KTL_MB_STAT => [Fld.KTL_MB_STAT_BUSY, Fld.KTL_MB_STAT_DONE, Fld.KTL_MB_STAT_RESULT]
  | .KTL_PWR => [Fld.KTL_PWR_PCAP, Fld.KTL_PWR_CAPINT, Fld.KTL_PWR_NCUR, Fld.KTL_PWR_PIN, Fld.KTL_PWR_THROT]
  | .KTL_THERM => [Fld.KTL_THERM_TMAX, Fld.KTL_THERM_TDIE, Fld.KTL_THERM_TJ_THR]
  | .KTL_SB => [Fld.KTL_SB_STUCK, Fld.KTL_SB_CHATTER, Fld.KTL_SB_HELD, Fld.KTL_SB_LEVEL]
  | .KTL_SBLIM => [Fld.KTL_SBLIM_TSTEP, Fld.KTL_SBLIM_PERST_LIM, Fld.KTL_SBLIM_THR_LIM]
  | .KTL_ALERT => [Fld.KTL_ALERT_KONLY, Fld.KTL_ALERT_FAST, Fld.KTL_ALERT_LINKAUTH, Fld.KTL_ALERT_KEYMIS, Fld.KTL_ALERT_THERMAL, Fld.KTL_ALERT_CAP, Fld.KTL_ALERT_STUCK, Fld.KTL_ALERT_CHATTER]
  | .KTL_ALERT_EN => [Fld.KTL_ALERT_EN_EN]
  | .KTL_TEL_CTRL => [Fld.KTL_TEL_CTRL_PERIOD]
  | .FMC_STAT => [Fld.FMC_STAT_POP, Fld.FMC_STAT_FAILED, Fld.FMC_STAT_DPC, Fld.FMC_STAT_CAP, Fld.FMC_STAT_RATE]
  | .FMC_ECC => [Fld.FMC_ECC_UE, Fld.FMC_ECC_PPR_PEND, Fld.FMC_ECC_CE]
  | .LNK_ER_BASE => [Fld.LNK_ER_BASE_EN, Fld.LNK_ER_BASE_OVWR, Fld.LNK_ER_BASE_LOG2N, Fld.LNK_ER_BASE_BASE]
  | .LNK_ER_CB => [Fld.LNK_ER_CB_CB]
  | .LNK_ER_STAT => [Fld.LNK_ER_STAT_PEND, Fld.LNK_ER_STAT_STALL]
  | .COL_RQ_BASE => [Fld.COL_RQ_BASE_EN, Fld.COL_RQ_BASE_LOG2N, Fld.COL_RQ_BASE_BASE]
  | .COL_RQ_CB => [Fld.COL_RQ_CB_CB]
  | .COL_CL_BASE => [Fld.COL_CL_BASE_EN, Fld.COL_CL_BASE_LOG2N, Fld.COL_CL_BASE_BASE]
  | .COL_CL_CB => [Fld.COL_CL_CB_CB]
  | .COL_CR_BASE => [Fld.COL_CR_BASE_EN, Fld.COL_CR_BASE_LOG2N, Fld.COL_CR_BASE_BASE]
  | .COL_CR_CB => [Fld.COL_CR_CB_CB]
  | .COL_HL_BASE => [Fld.COL_HL_BASE_EN, Fld.COL_HL_BASE_LOG2N, Fld.COL_HL_BASE_BASE]
  | .COL_HL_CB => [Fld.COL_HL_CB_CB]
  | .COL_HR_BASE => [Fld.COL_HR_BASE_EN, Fld.COL_HR_BASE_LOG2N, Fld.COL_HR_BASE_BASE]
  | .COL_HR_CB => [Fld.COL_HR_CB_CB]
  | .COL_MF_BASE => [Fld.COL_MF_BASE_EN, Fld.COL_MF_BASE_LOG2N, Fld.COL_MF_BASE_BASE]
  | .COL_MF_CB => [Fld.COL_MF_CB_CB]
  | .COL_RP_BASE => [Fld.COL_RP_BASE_EN, Fld.COL_RP_BASE_LOG2N, Fld.COL_RP_BASE_BASE]
  | .COL_RP_CB => [Fld.COL_RP_CB_CB]
  | .COL_ER_BASE => [Fld.COL_ER_BASE_EN, Fld.COL_ER_BASE_OVWR, Fld.COL_ER_BASE_LOG2N, Fld.COL_ER_BASE_BASE]
  | .COL_ER_CB => [Fld.COL_ER_CB_CB]
  | .COL_ER_STAT => [Fld.COL_ER_STAT_PEND, Fld.COL_ER_STAT_STALL]
  | .RSL_EL_BASE => [Fld.RSL_EL_BASE_EN, Fld.RSL_EL_BASE_OVWR, Fld.RSL_EL_BASE_LOG2N, Fld.RSL_EL_BASE_BASE]
  | .RSL_EL_CB => [Fld.RSL_EL_CB_CB]
  | .RSL_EL_STAT => [Fld.RSL_EL_STAT_PEND, Fld.RSL_EL_STAT_STALL]
  | .RSL_ELC_BASE => [Fld.RSL_ELC_BASE_EN, Fld.RSL_ELC_BASE_OVWR, Fld.RSL_ELC_BASE_LOG2N, Fld.RSL_ELC_BASE_BASE]
  | .RSL_ELC_CB => [Fld.RSL_ELC_CB_CB]
  | .RSL_ELC_STAT => [Fld.RSL_ELC_STAT_PEND, Fld.RSL_ELC_STAT_STALL]
  | .RSL_JR_BASE => [Fld.RSL_JR_BASE_EN, Fld.RSL_JR_BASE_LOG2N, Fld.RSL_JR_BASE_BASE]
  | .RSL_JR_CB => [Fld.RSL_JR_CB_CB]
  | .RSL_JR_STAT => [Fld.RSL_JR_STAT_PEND, Fld.RSL_JR_STAT_STALL]
  | .KTL_TEL_BASE => [Fld.KTL_TEL_BASE_EN, Fld.KTL_TEL_BASE_OVWR, Fld.KTL_TEL_BASE_LOG2N, Fld.KTL_TEL_BASE_BASE]
  | .KTL_TEL_CB => [Fld.KTL_TEL_CB_CB]
  | .KTL_TEL_STAT => [Fld.KTL_TEL_STAT_PEND, Fld.KTL_TEL_STAT_STALL]

/-- The place of a register in its window (R61 and the headings of the register maps). -/
def Reg.place : Reg → RegPlace
  | .BDG_SEL => RegPlace.mk Win.budgets 0x0 0x0 1 0x0 1 false InstKind.bank
  | .BDG_CAP => RegPlace.mk Win.budgets 0x8 0x0 1 0x0 1 false InstKind.resource
  | .BDG_CTRL => RegPlace.mk Win.budgets 0x10 0x0 1 0x0 1 false InstKind.resource
  | .BDG_QUOTA => RegPlace.mk Win.budgets 0x20 0x4 8 0x0 1 false InstKind.resource
  | .BDG_BAL => RegPlace.mk Win.budgets 0x40 0x4 8 0x0 1 false InstKind.resource
  | .BDG_USED => RegPlace.mk Win.budgets 0x60 0x4 8 0x0 1 false InstKind.resource
  | .BDG_STAT => RegPlace.mk Win.budgets 0x80 0x0 1 0x0 1 false InstKind.resource
  | .BDG_PCNT => RegPlace.mk Win.budgets 0x88 0x0 1 0x0 1 false InstKind.resource
  | .FAB_DECERR => RegPlace.mk Win.global 0x10100 0x0 1 0x0 1 true InstKind.device
  | .REG_SEL => RegPlace.mk Win.region 0x0 0x0 1 0x0 1 false InstKind.bank
  | .BLK_SEL => RegPlace.mk Win.block 0x0 0x0 1 0x0 1 false InstKind.bank
  | .LNK_SEL => RegPlace.mk Win.link 0x0 0x0 1 0x0 1 false InstKind.bank
  | .FMC_SEL => RegPlace.mk Win.farChannel 0x0 0x0 1 0x0 1 false InstKind.bank
  | .HPT_SEL => RegPlace.mk Win.hostPort 0x0 0x0 1 0x0 1 false InstKind.bank
  | .CEL_SEL => RegPlace.mk Win.cell 0x0 0x0 1 0x0 1 false InstKind.bank
  | .HPT_ACC => RegPlace.mk Win.hostPort 0x10000 0x4 4096 0x0 1 false InstKind.port
  | .HPT_ACCERR => RegPlace.mk Win.hostPort 0x20000 0x0 1 0x0 1 true InstKind.port
  | .DIR_CTRL => RegPlace.mk Win.region 0x40000 0x0 1 0x0 1 false InstKind.region
  | .DIR_OCC => RegPlace.mk Win.region 0x40008 0x0 1 0x0 1 false InstKind.region
  | .DIR_TXN => RegPlace.mk Win.region 0x4000C 0x0 1 0x0 1 false InstKind.region
  | .DIR_BINV_CNT => RegPlace.mk Win.region 0x40010 0x0 1 0x0 1 true InstKind.region
  | .DIR_STALE_CNT => RegPlace.mk Win.region 0x40018 0x0 1 0x0 1 true InstKind.region
  | .DIR_PRIO => RegPlace.mk Win.region 0x40020 0x0 1 0x0 1 false InstKind.region
  | .DIR_PEEK_ADDR => RegPlace.mk Win.region 0x40040 0x0 1 0x0 1 true InstKind.region
  | .DIR_PEEK_RES => RegPlace.mk Win.region 0x40048 0x0 1 0x0 1 true InstKind.region
  | .DIR_PEEK_VEC => RegPlace.mk Win.region 0x40050 0x8 2 0x0 1 true InstKind.region
  | .DIR_HOP => RegPlace.mk Win.region 0x41000 0x4 2048 0x0 1 false InstKind.region
  | .BLK_PWR => RegPlace.mk Win.block 0x100 0x0 1 0x0 1 false InstKind.block
  | .BLK_SPARE => RegPlace.mk Win.block 0x108 0x0 1 0x0 1 true InstKind.block
  | .BLK_MAP => RegPlace.mk Win.block 0x110 0x4 4 0x0 1 false InstKind.block
  | .BLK_RETIRE => RegPlace.mk Win.block 0x120 0x0 1 0x0 1 false InstKind.block
  | .BLK_RTHR => RegPlace.mk Win.block 0x124 0x0 1 0x0 1 false InstKind.block
  | .BLK_ELOG => RegPlace.mk Win.block 0x140 0x0 1 0x0 1 false InstKind.block
  | .CEL_STAT => RegPlace.mk Win.cell 0x100 0x0 1 0x0 1 false InstKind.cell
  | .CEL_CTRL => RegPlace.mk Win.cell 0x108 0x0 1 0x0 1 false InstKind.cell
  | .CEL_ECC => RegPlace.mk Win.cell 0x110 0x0 1 0x0 1 true InstKind.cell
  | .NMS_CTRL => RegPlace.mk Win.region 0x80000 0x0 1 0x0 1 false InstKind.region
  | .NMS_ECC => RegPlace.mk Win.region 0x80008 0x0 1 0x0 1 true InstKind.region
  | .NMS_SPARE => RegPlace.mk Win.region 0x80010 0x0 1 0x0 1 false InstKind.region
  | .NMS_BSU => RegPlace.mk Win.region 0x80020 0x0 1 0x0 1 true InstKind.region
  | .SEQ_CTRL => RegPlace.mk Win.region 0x1000 0x0 1 0x0 1 false InstKind.region
  | .SEQ_STAT => RegPlace.mk Win.region 0x1004 0x0 1 0x0 1 false InstKind.region
  | .SEQ_PC => RegPlace.mk Win.region 0x1008 0x0 1 0x0 1 true InstKind.region
  | .SEQ_STEP => RegPlace.mk Win.region 0x1010 0x0 1 0x0 1 true InstKind.region
  | .SEQ_SLOT => RegPlace.mk Win.region 0x1018 0x0 1 0x0 1 true InstKind.region
  | .SEQ_SEED => RegPlace.mk Win.region 0x1020 0x0 1 0x0 1 true InstKind.region
  | .SEQ_WR_BASE => RegPlace.mk Win.region 0x1100 0x10 4 0x0 1 true InstKind.region
  | .SEQ_CR_BASE => RegPlace.mk Win.region 0x1140 0x0 1 0x0 1 true InstKind.region
  | .SEQ_ER_BASE => RegPlace.mk Win.region 0x1150 0x0 1 0x0 1 true InstKind.region
  | .SEQ_WR_CB => RegPlace.mk Win.region 0x1108 0x10 4 0x0 1 true InstKind.region
  | .SEQ_CR_CB => RegPlace.mk Win.region 0x1148 0x0 1 0x0 1 true InstKind.region
  | .SEQ_ER_CB => RegPlace.mk Win.region 0x1158 0x0 1 0x0 1 true InstKind.region
  | .SEQ_RSTAT => RegPlace.mk Win.region 0x1160 0x0 1 0x0 1 false InstKind.region
  | .NUM_CTRL => RegPlace.mk Win.region 0xC0000 0x0 1 0x0 1 false InstKind.region
  | .NUM_STAT => RegPlace.mk Win.region 0xC0004 0x0 1 0x0 1 false InstKind.region
  | .NUM_MON_SEL => RegPlace.mk Win.region 0xC0008 0x0 1 0x0 1 false InstKind.region
  | .NUM_HIST => RegPlace.mk Win.region 0xC000C 0x0 1 0x0 1 false InstKind.region
  | .NUM_SZ => RegPlace.mk Win.region 0xC0010 0x0 1 0x0 1 true InstKind.region
  | .NUM_EVCNT => RegPlace.mk Win.region 0xC0020 0x0 1 0x0 1 true InstKind.region
  | .NUM_GNS_STEP => RegPlace.mk Win.region 0xC0040 0x0 1 0x0 1 true InstKind.region
  | .NUM_GNS_SUM => RegPlace.mk Win.region 0xC0048 0x0 1 0x0 1 true InstKind.region
  | .NUM_GNS_NLOC => RegPlace.mk Win.region 0xC0050 0x0 1 0x0 1 true InstKind.region
  | .NUM_GNS_NRED => RegPlace.mk Win.region 0xC0058 0x0 1 0x0 1 true InstKind.region
  | .NUM_ER_BASE => RegPlace.mk Win.region 0xC0100 0x0 1 0x0 1 true InstKind.region
  | .NUM_ER_CB => RegPlace.mk Win.region 0xC0108 0x0 1 0x0 1 true InstKind.region
  | .NUM_ER_STAT => RegPlace.mk Win.region 0xC0110 0x0 1 0x0 1 false InstKind.region
  | .UPD_PGSRC => RegPlace.mk Win.region 0xE0000 0x0 1 0x0 1 true InstKind.device
  | .UPD_PGCMD => RegPlace.mk Win.region 0xE0008 0x0 1 0x0 1 false InstKind.device
  | .UPD_PGSTAT => RegPlace.mk Win.region 0xE0010 0x0 1 0x0 1 true InstKind.device
  | .UPD_RCBASE => RegPlace.mk Win.region 0xE0018 0x0 1 0x0 1 true InstKind.device
  | .UPD_RCFREE => RegPlace.mk Win.region 0xE0020 0x0 1 0x0 1 true InstKind.device
  | .UPD_PGV => RegPlace.mk Win.region 0xE0040 0x4 8 0x0 1 false InstKind.device
  | .UPD_CNT => RegPlace.mk Win.region 0xF0000 0x0 1 0x0 1 true InstKind.region
  | .UPD_TEAM => RegPlace.mk Win.region 0xF0008 0x0 1 0x0 1 false InstKind.region
  | .FMC_CZ_CTRL => RegPlace.mk Win.farChannel 0x800 0x0 1 0x0 1 true InstKind.channel
  | .FMC_CZ_WIN => RegPlace.mk Win.farChannel 0x808 0x0 1 0x0 1 true InstKind.channel
  | .FMC_XTS => RegPlace.mk Win.farChannel 0x810 0x0 1 0x0 1 false InstKind.channel
  | .FMC_CZ_STAT => RegPlace.mk Win.farChannel 0x818 0x0 1 0x0 1 true InstKind.channel
  | .LNK_CTRL => RegPlace.mk Win.link 0x100 0x0 1 0x0 1 false InstKind.link
  | .LNK_STAT => RegPlace.mk Win.link 0x104 0x0 1 0x0 1 false InstKind.link
  | .LNK_PEER => RegPlace.mk Win.link 0x108 0x0 1 0x0 1 false InstKind.link
  | .LNK_ERR => RegPlace.mk Win.link 0x110 0x0 1 0x0 1 true InstKind.link
  | .LNK_TAGS => RegPlace.mk Win.link 0x118 0x0 1 0x0 1 false InstKind.link
  | .LNK_DEVID => RegPlace.mk Win.link 0x10000 0x0 1 0x0 1 false InstKind.device
  | .LNK_RTCFG => RegPlace.mk Win.link 0x10004 0x0 1 0x0 1 false InstKind.device
  | .LNK_CETO => RegPlace.mk Win.link 0x10008 0x0 1 0x0 1 false InstKind.device
  | .LNK_BUNDLE => RegPlace.mk Win.link 0x10100 0x4 16 0x0 1 false InstKind.device
  | .LNK_EPOCH => RegPlace.mk Win.link 0x10200 0x0 1 0x0 1 false InstKind.device
  | .LNK_GRPBASE => RegPlace.mk Win.link 0x10208 0x0 1 0x0 1 true InstKind.device
  | .LNK_GRPSTAT => RegPlace.mk Win.link 0x10210 0x0 1 0x0 1 false InstKind.device
  | .LNK_RT => RegPlace.mk Win.link 0x20000 0x4 4096 0x0 1 false InstKind.device
  | .COL_CTRL => RegPlace.mk Win.colander 0x0 0x0 1 0x0 1 false InstKind.device
  | .COL_STAT => RegPlace.mk Win.colander 0x8 0x0 1 0x0 1 true InstKind.device
  | .COL_SEED => RegPlace.mk Win.colander 0x10 0x0 1 0x0 1 true InstKind.device
  | .COL_CWT => RegPlace.mk Win.colander 0x18 0x0 1 0x0 1 false InstKind.device
  | .COL_AVG => RegPlace.mk Win.colander 0x24 0x4 3 0x0 1 false InstKind.device
  | .COL_STAGE => RegPlace.mk Win.colander 0x40 0x0 1 0x0 1 true InstKind.device
  | .COL_XFBASE => RegPlace.mk Win.colander 0x48 0x0 1 0x0 1 true InstKind.device
  | .COL_TOKBASE => RegPlace.mk Win.colander 0x50 0x0 1 0x0 1 true InstKind.device
  | .COL_TOKN => RegPlace.mk Win.colander 0x58 0x0 1 0x0 1 false InstKind.device
  | .COL_STRCMD => RegPlace.mk Win.colander 0x60 0x0 1 0x0 1 false InstKind.device
  | .COL_STRSRC => RegPlace.mk Win.colander 0x68 0x0 1 0x0 1 true InstKind.device
  | .HPT_CFG => RegPlace.mk Win.hostPort 0x100 0x0 1 0x0 1 false InstKind.port
  | .HPT_LSTAT => RegPlace.mk Win.hostPort 0x104 0x0 1 0x0 1 false InstKind.port
  | .HPT_EPOCH => RegPlace.mk Win.hostPort 0x108 0x0 1 0x0 1 false InstKind.port
  | .HPT_GATE => RegPlace.mk Win.hostPort 0x10C 0x0 1 0x0 1 false InstKind.port
  | .HPT_CTRL => RegPlace.mk Win.hostPort 0x110 0x0 1 0x0 1 false InstKind.port
  | .HPT_JCTRL => RegPlace.mk Win.hostPort 0x114 0x0 1 0x0 1 false InstKind.port
  | .HPT_JSTAT => RegPlace.mk Win.hostPort 0x118 0x0 1 0x0 1 true InstKind.port
  | .HPT_ERR => RegPlace.mk Win.hostPort 0x120 0x0 1 0x0 1 true InstKind.port
  | .HPT_P2PB => RegPlace.mk Win.hostPort 0x200 0x10 8 0x0 1 true InstKind.port
  | .HPT_P2PL => RegPlace.mk Win.hostPort 0x208 0x10 8 0x0 1 true InstKind.port
  | .HPT_OBADDR => RegPlace.mk Win.hostPort 0x300 0x0 1 0x0 1 true InstKind.bank
  | .HPT_OBDATA => RegPlace.mk Win.hostPort 0x308 0x0 1 0x0 1 false InstKind.port
  | .HPT_MSIGEN => RegPlace.mk Win.hostPort 0x310 0x0 1 0x0 1 false InstKind.port
  | .RSL_CTRL => RegPlace.mk Win.resilience 0x0 0x0 1 0x0 1 false InstKind.device
  | .RSL_STAT => RegPlace.mk Win.resilience 0x4 0x0 1 0x0 1 false InstKind.device
  | .RSL_CQ_STAT => RegPlace.mk Win.resilience 0x1000 0x0 1 0x0 1 false InstKind.device
  | .RSL_RQ_STAT => RegPlace.mk Win.resilience 0x1100 0x100 12 0x0 1 false InstKind.device
  | .RSL_CQ_POP => RegPlace.mk Win.resilience 0x1004 0x0 1 0x0 1 false InstKind.device
  | .RSL_RQ_POP => RegPlace.mk Win.resilience 0x1104 0x100 12 0x0 1 false InstKind.device
  | .RSL_CQ_REC => RegPlace.mk Win.resilience 0x1040 0x8 8 0x0 1 true InstKind.device
  | .RSL_RQ_REC => RegPlace.mk Win.resilience 0x1140 0x100 12 0x8 8 true InstKind.device
  | .RSL_FIFE_CTRL => RegPlace.mk Win.resilience 0x3000 0x0 1 0x0 1 false InstKind.device
  | .RSL_FIFEP => RegPlace.mk Win.resilience 0x3010 0x4 4 0x0 1 false InstKind.device
  | .RSL_FIFES => RegPlace.mk Win.resilience 0x3040 0x8 4 0x0 1 true InstKind.device
  | .RSL_ADOPT => RegPlace.mk Win.resilience 0x4000 0x0 1 0x0 1 false InstKind.device
  | .RSL_REPORT => RegPlace.mk Win.resilience 0x4008 0x0 1 0x0 1 true InstKind.device
  | .RSL_POLICY => RegPlace.mk Win.resilience 0x4010 0x0 1 0x0 1 false InstKind.device
  | .RSL_CNT => RegPlace.mk Win.resilience 0x4018 0x0 1 0x0 1 true InstKind.device
  | .KTL_BOOT => RegPlace.mk Win.kettle 0x0 0x0 1 0x0 1 false InstKind.device
  | .KTL_MB_DB => RegPlace.mk Win.kettle 0x10 0x0 1 0x0 1 true InstKind.bank
  | .KTL_MB_STAT => RegPlace.mk Win.kettle 0x18 0x0 1 0x0 1 false InstKind.bank
  | .KTL_PWR => RegPlace.mk Win.kettle 0x100 0x0 1 0x0 1 true InstKind.device
  | .KTL_THERM => RegPlace.mk Win.kettle 0x108 0x0 1 0x0 1 false InstKind.device
  | .KTL_SB => RegPlace.mk Win.kettle 0x110 0x0 1 0x0 1 false InstKind.device
  | .KTL_SBLIM => RegPlace.mk Win.kettle 0x114 0x0 1 0x0 1 false InstKind.device
  | .KTL_ALERT => RegPlace.mk Win.kettle 0x120 0x0 1 0x0 1 false InstKind.device
  | .KTL_ALERT_EN => RegPlace.mk Win.kettle 0x124 0x0 1 0x0 1 false InstKind.device
  | .KTL_TEL_CTRL => RegPlace.mk Win.kettle 0x200 0x0 1 0x0 1 false InstKind.device
  | .FMC_STAT => RegPlace.mk Win.farChannel 0x100 0x0 1 0x0 1 false InstKind.channel
  | .FMC_ECC => RegPlace.mk Win.farChannel 0x108 0x0 1 0x0 1 true InstKind.channel
  | .LNK_ER_BASE => RegPlace.mk Win.link 0x30000 0x0 1 0x0 1 true InstKind.linkRegion
  | .LNK_ER_CB => RegPlace.mk Win.link 0x30008 0x0 1 0x0 1 true InstKind.linkRegion
  | .LNK_ER_STAT => RegPlace.mk Win.link 0x30010 0x0 1 0x0 1 false InstKind.linkRegion
  | .COL_RQ_BASE => RegPlace.mk Win.colander 0x100 0x10 4 0x0 1 true InstKind.device
  | .COL_RQ_CB => RegPlace.mk Win.colander 0x108 0x10 4 0x0 1 true InstKind.device
  | .COL_CL_BASE => RegPlace.mk Win.colander 0x140 0x0 1 0x0 1 true InstKind.device
  | .COL_CL_CB => RegPlace.mk Win.colander 0x148 0x0 1 0x0 1 true InstKind.device
  | .COL_CR_BASE => RegPlace.mk Win.colander 0x150 0x0 1 0x0 1 true InstKind.device
  | .COL_CR_CB => RegPlace.mk Win.colander 0x158 0x0 1 0x0 1 true InstKind.device
  | .COL_HL_BASE => RegPlace.mk Win.colander 0x160 0x20 4 0x0 1 true InstKind.device
  | .COL_HL_CB => RegPlace.mk Win.colander 0x168 0x20 4 0x0 1 true InstKind.device
  | .COL_HR_BASE => RegPlace.mk Win.colander 0x170 0x20 4 0x0 1 true InstKind.device
  | .COL_HR_CB => RegPlace.mk Win.colander 0x178 0x20 4 0x0 1 true InstKind.device
  | .COL_MF_BASE => RegPlace.mk Win.colander 0x1E0 0x0 1 0x0 1 true InstKind.device
  | .COL_MF_CB => RegPlace.mk Win.colander 0x1E8 0x0 1 0x0 1 true InstKind.device
  | .COL_RP_BASE => RegPlace.mk Win.colander 0x1F0 0x0 1 0x0 1 true InstKind.device
  | .COL_RP_CB => RegPlace.mk Win.colander 0x1F8 0x0 1 0x0 1 true InstKind.device
  | .COL_ER_BASE => RegPlace.mk Win.colander 0x200 0x0 1 0x0 1 true InstKind.device
  | .COL_ER_CB => RegPlace.mk Win.colander 0x208 0x0 1 0x0 1 true InstKind.device
  | .COL_ER_STAT => RegPlace.mk Win.colander 0x210 0x0 1 0x0 1 false InstKind.device
  | .RSL_EL_BASE => RegPlace.mk Win.resilience 0x2000 0x20 12 0x0 1 true InstKind.device
  | .RSL_EL_CB => RegPlace.mk Win.resilience 0x2008 0x20 12 0x0 1 true InstKind.device
  | .RSL_EL_STAT => RegPlace.mk Win.resilience 0x2010 0x20 12 0x0 1 false InstKind.device
  | .RSL_ELC_BASE => RegPlace.mk Win.resilience 0x2200 0x0 1 0x0 1 true InstKind.device
  | .RSL_ELC_CB => RegPlace.mk Win.resilience 0x2208 0x0 1 0x0 1 true InstKind.device
  | .RSL_ELC_STAT => RegPlace.mk Win.resilience 0x2210 0x0 1 0x0 1 false InstKind.device
  | .RSL_JR_BASE => RegPlace.mk Win.resilience 0x2220 0x0 1 0x0 1 true InstKind.device
  | .RSL_JR_CB => RegPlace.mk Win.resilience 0x2228 0x0 1 0x0 1 true InstKind.device
  | .RSL_JR_STAT => RegPlace.mk Win.resilience 0x2230 0x0 1 0x0 1 false InstKind.device
  | .KTL_TEL_BASE => RegPlace.mk Win.kettle 0x208 0x0 1 0x0 1 true InstKind.device
  | .KTL_TEL_CB => RegPlace.mk Win.kettle 0x210 0x0 1 0x0 1 true InstKind.device
  | .KTL_TEL_STAT => RegPlace.mk Win.kettle 0x218 0x0 1 0x0 1 false InstKind.device

/-- Every register name, in the order of its number. -/
def Reg.all : List Reg :=
  [Reg.BDG_SEL, Reg.BDG_CAP, Reg.BDG_CTRL, Reg.BDG_QUOTA, Reg.BDG_BAL, Reg.BDG_USED, Reg.BDG_STAT, Reg.BDG_PCNT,
    Reg.FAB_DECERR, Reg.REG_SEL, Reg.BLK_SEL, Reg.LNK_SEL, Reg.FMC_SEL, Reg.HPT_SEL, Reg.CEL_SEL, Reg.HPT_ACC,
    Reg.HPT_ACCERR, Reg.DIR_CTRL, Reg.DIR_OCC, Reg.DIR_TXN, Reg.DIR_BINV_CNT, Reg.DIR_STALE_CNT, Reg.DIR_PRIO,
    Reg.DIR_PEEK_ADDR, Reg.DIR_PEEK_RES, Reg.DIR_PEEK_VEC, Reg.DIR_HOP, Reg.BLK_PWR, Reg.BLK_SPARE, Reg.BLK_MAP] ++
  [Reg.BLK_RETIRE, Reg.BLK_RTHR, Reg.BLK_ELOG, Reg.CEL_STAT, Reg.CEL_CTRL, Reg.CEL_ECC, Reg.NMS_CTRL, Reg.NMS_ECC,
    Reg.NMS_SPARE, Reg.NMS_BSU, Reg.SEQ_CTRL, Reg.SEQ_STAT, Reg.SEQ_PC, Reg.SEQ_STEP, Reg.SEQ_SLOT, Reg.SEQ_SEED,
    Reg.SEQ_WR_BASE, Reg.SEQ_CR_BASE, Reg.SEQ_ER_BASE, Reg.SEQ_WR_CB, Reg.SEQ_CR_CB, Reg.SEQ_ER_CB, Reg.SEQ_RSTAT,
    Reg.NUM_CTRL, Reg.NUM_STAT, Reg.NUM_MON_SEL, Reg.NUM_HIST, Reg.NUM_SZ, Reg.NUM_EVCNT, Reg.NUM_GNS_STEP] ++
  [Reg.NUM_GNS_SUM, Reg.NUM_GNS_NLOC, Reg.NUM_GNS_NRED, Reg.NUM_ER_BASE, Reg.NUM_ER_CB, Reg.NUM_ER_STAT,
    Reg.UPD_PGSRC, Reg.UPD_PGCMD, Reg.UPD_PGSTAT, Reg.UPD_RCBASE, Reg.UPD_RCFREE, Reg.UPD_PGV, Reg.UPD_CNT,
    Reg.UPD_TEAM, Reg.FMC_CZ_CTRL, Reg.FMC_CZ_WIN, Reg.FMC_XTS, Reg.FMC_CZ_STAT, Reg.LNK_CTRL, Reg.LNK_STAT,
    Reg.LNK_PEER, Reg.LNK_ERR, Reg.LNK_TAGS, Reg.LNK_DEVID, Reg.LNK_RTCFG, Reg.LNK_CETO, Reg.LNK_BUNDLE,
    Reg.LNK_EPOCH, Reg.LNK_GRPBASE, Reg.LNK_GRPSTAT] ++
  [Reg.LNK_RT, Reg.COL_CTRL, Reg.COL_STAT, Reg.COL_SEED, Reg.COL_CWT, Reg.COL_AVG, Reg.COL_STAGE, Reg.COL_XFBASE,
    Reg.COL_TOKBASE, Reg.COL_TOKN, Reg.COL_STRCMD, Reg.COL_STRSRC, Reg.HPT_CFG, Reg.HPT_LSTAT, Reg.HPT_EPOCH,
    Reg.HPT_GATE, Reg.HPT_CTRL, Reg.HPT_JCTRL, Reg.HPT_JSTAT, Reg.HPT_ERR, Reg.HPT_P2PB, Reg.HPT_P2PL,
    Reg.HPT_OBADDR, Reg.HPT_OBDATA, Reg.HPT_MSIGEN, Reg.RSL_CTRL, Reg.RSL_STAT, Reg.RSL_CQ_STAT, Reg.RSL_RQ_STAT,
    Reg.RSL_CQ_POP] ++
  [Reg.RSL_RQ_POP, Reg.RSL_CQ_REC, Reg.RSL_RQ_REC, Reg.RSL_FIFE_CTRL, Reg.RSL_FIFEP, Reg.RSL_FIFES, Reg.RSL_ADOPT,
    Reg.RSL_REPORT, Reg.RSL_POLICY, Reg.RSL_CNT, Reg.KTL_BOOT, Reg.KTL_MB_DB, Reg.KTL_MB_STAT, Reg.KTL_PWR,
    Reg.KTL_THERM, Reg.KTL_SB, Reg.KTL_SBLIM, Reg.KTL_ALERT, Reg.KTL_ALERT_EN, Reg.KTL_TEL_CTRL, Reg.FMC_STAT,
    Reg.FMC_ECC, Reg.LNK_ER_BASE, Reg.LNK_ER_CB, Reg.LNK_ER_STAT, Reg.COL_RQ_BASE, Reg.COL_RQ_CB, Reg.COL_CL_BASE,
    Reg.COL_CL_CB, Reg.COL_CR_BASE] ++
  [Reg.COL_CR_CB, Reg.COL_HL_BASE, Reg.COL_HL_CB, Reg.COL_HR_BASE, Reg.COL_HR_CB, Reg.COL_MF_BASE, Reg.COL_MF_CB,
    Reg.COL_RP_BASE, Reg.COL_RP_CB, Reg.COL_ER_BASE, Reg.COL_ER_CB, Reg.COL_ER_STAT, Reg.RSL_EL_BASE,
    Reg.RSL_EL_CB, Reg.RSL_EL_STAT, Reg.RSL_ELC_BASE, Reg.RSL_ELC_CB, Reg.RSL_ELC_STAT, Reg.RSL_JR_BASE,
    Reg.RSL_JR_CB, Reg.RSL_JR_STAT, Reg.KTL_TEL_BASE, Reg.KTL_TEL_CB, Reg.KTL_TEL_STAT]

/-- The number of a register name. -/
def Reg.code (r : Reg) : Nat := r.ctorIdx

/-- The number of a field: its register's number and its lowest bit. -/
def Fld.code (f : Fld) : Nat := f.reg.code * 64 + f.lo

/-- The key a field's value is filed under, for one instance and one array index. -/
def Fld.key (f : Fld) (inst idx : Nat) : Nat := pk f.code (pk inst idx)

end Sys2Proof
end

