-- ==== Sys2Proof/Machine/CohState.lean ====
section
/-! DEFINITION. The state of the coherence protocol: caches, writeback buffers, directories, transaction tables, request
buffers and messages in flight (03: R77, R82 to R100, R106 to R113; 05: R190). -/

namespace Sys2Proof.Machine

/-- The stable states of a line in a caching agent, other than I (R94). -/
inductive CState where
  | s | e | m
  deriving DecidableEq, Repr

/-- A line installed in a cache: its state, its 64 bytes, one poison bit per 32-bit word (R112), whether its agent
watches it (R106), the moment of its last use (R185), and whose line it is. -/
structure CLine where
  st : CState := .s
  data : Line := 0
  poison : BitVec 16 := 0
  watched : Bool := false
  used : Nat := 0
  agent : Nat := 0
  line : Nat := 0
  deriving DecidableEq, Repr

/-- What a far channel's controller keeps of compressed segments (R424): the table headers it holds, by their addresses, and the
slots it decoded last, by their DPA div 4096, each the oldest first. A copy always equals what memory holds: software must not
change the table area while coded slots remain (R429). -/
structure FarBuf where
  heads : List Nat := []
  slots : List Nat := []
  deriving DecidableEq, Repr

/-- The transient states of R94 other than WB. -/
inductive TState where
  | is | im | sm
  deriving DecidableEq, Repr

/-- A line an agent has an open request for: whose it is, what arrived so far, what the agent wants to do with it (R94), and
the line that came and waits for a way of its set (R95). -/
structure Miss where
  agent : Nat := 0
  st : TState := .is
  op : AgentOp := .load
  txn : Nat := 0
  cls : Nat := 0
  data : Option (Line × BitVec 16 × Bool) := none
  granted : Bool := false
  fill : Option CLine := none
  deriving DecidableEq, Repr

/-- A writeback-buffer entry (state WB of R94): whose it is, which Put was sent, in what class (R37), whether it has reached its
home, and under what transaction number. -/
structure WbEntry where
  agent : Nat := 0
  put : ReqTy := .putS
  arrived : Bool := false
  dirty : Bool := false
  data : Line := 0
  poison : BitVec 16 := 0
  cls : Nat := 7
  txn : Nat := 0
  deriving DecidableEq, Repr

/-- A directory entry (R82, R83): exclusive or shared, the sharer vector, and when it was allocated (R84). -/
structure DirEntry where
  excl : Bool := false
  sharers : BitVec 128 := 0
  stamp : Nat := 0
  deriving DecidableEq, Repr

/-- Every message type of R93 other than those a home receives on REQ. -/
inductive MsgTy where
  | snpFwdS | snpFwdM | snpFwdRd | snpInv | snpAck | snpData | compAck | putAck | putAckStale | gntE
  | dataS | dataE | dataM | rdData | ncDone
  deriving DecidableEq, Repr

/-- A message in flight (R92, R93). Homes are 240 + r. flag holds W, D or DIRTY; status and old belong to NcDone. -/
structure Msg where
  ty : MsgTy
  src : Nat
  dst : Nat
  line : Nat
  txn : Nat := 0
  cls : Nat := 7
  orig : Nat := 0
  origTxn : Nat := 0
  cause : Nat := 0
  flag : Bool := false
  poison : Bool := false
  data : Line := 0
  status : Nat := 0
  old : W64 := 0
  deriving DecidableEq, Repr

/-- A transaction-table entry (R85): the request a home acts on, the agents whose snoop responses are outstanding, the
victims of a back-invalidation it covers (R84), whether a CompAck is awaited or already came, the data a snooped holder
returned, whether the owner's data was lost, the FCLK count at which its snoops went out (R113), and the stable entry reached
when Busy ends (R97). -/
structure HomeTxn where
  req : ReqMsg
  start : Option DirEntry := none
  waits : List Nat := []
  victim : Option Nat := none
  victimWaits : List Nat := []
  needComp : Bool := false
  comp : Bool := false
  grantAfter : Bool := false
  hasData : Bool := false
  data : Line := 0
  poison : Bool := false
  lost : Bool := false
  began : Nat := 0
  final : Option DirEntry := none
  deriving DecidableEq, Repr

/-- A non-caching request whose result its requester has not received (R77, R90, R92). -/
structure NcOpen where
  req : Nat
  txn : Nat
  line : Nat
  deriving DecidableEq, Repr

/-- What a requester received: the result of a non-caching request, the old value of an atomic an agent performed in its cache
(R102), status UNCORRECTABLE where one met poison (R626) or was refused (R51), or that no watch was set (R109). -/
structure NcResult where
  req : Nat
  txn : Nat
  status : Nat := 0
  poison : Bool := false
  data : Line := 0
  old : W64 := 0
  noWatch : Bool := false
  deriving DecidableEq, Repr

/-- A chunk of near memory that bank-side units hold Busy (R190). -/
structure BusyChunk where
  region : Nat
  chunk : Nat
  deriving DecidableEq, Repr

/-- Everything the coherence protocol holds. Lines are numbered by canonical DPA div 64; caches, misses and writeback
buffers are filed under pk agent line; late holds the agents whose answer about a line a home has given up waiting for
(R113). -/
structure Coh where
  cache : Tbl CLine := []
  miss : Tbl Miss := []
  wb : Tbl WbEntry := []
  dir : Tbl DirEntry := []
  txns : Tbl HomeTxn := []
  reqs : Tbl (List ReqMsg) := []
  net : List Msg := []
  nc : List NcResult := []
  ncOpen : List NcOpen := []
  late : List (Nat × Nat) := []
  wakes : List (Nat × Nat) := []
  chunks : List BusyChunk := []
  stamp : Nat := 0
  deriving DecidableEq, Repr

end Sys2Proof.Machine
end

