-- ==== Sys2Proof/Machine/CoreState.lean ====
section
/-! DEFINITION. The state of memory, register banks, budgets, clocks and near-memory repair (01: R24, R39; 02: R48, R62,
R67; 03: R112; 05: R192; 11: R422). -/

namespace Sys2Proof.Machine

/-- Memory: bytes by canonical DPA, poison per 32-bit word of near memory and the stores (by DPA div 4), poison per
64-byte line of far memory (by DPA div 64), for the 4 KiB slots of far memory stored coded (by DPA div 4096; R423), one more
than the address of their segment's table header, and for a monitor record that a cell wrote last (by DPA div 64; R362), one more
than its index. -/
structure Mem where
  bytes : List Host.Cell := []
  poisonW : Tbl Bool := []
  poisonF : Tbl Bool := []
  coded : Tbl Nat := []
  owner : Tbl Nat := []
  deriving DecidableEq, Repr

/-- A select bank's access history (R67): the register whose low half was read last and the high half latched then, the
register and low half held by a low-half write, and what the last read returned. -/
structure BankSt where
  latched : Option (Nat × W32) := none
  heldLow : Option (Nat × W32) := none
  data : W64 := 0
  faults : Nat := 0
  deriving DecidableEq, Repr

/-- Bytes that wait at a budgeted resource (R23, R39): who moves them (its code of R52, and for a cell its slot in its block),
their class and how many are left. The requests of one block and class are that block's outbound queue of the class. -/
structure Ask where
  code : Nat
  cell : Option Nat := none
  cls : Nat
  bytes : Nat
  deriving DecidableEq, Repr

/-- A budgeted resource (R39): signed balances, the pool, the class granted last, the units granted in this period, the
periods each class has waited without a grant (R45), and what waits, oldest first. The spec states no class the round robin
starts from after reset; last = 7 makes class 0 the first (DESIGN CHOICE, log entry 17). -/
structure Budget where
  bal : List Int := [0, 0, 0, 0, 0, 0, 0, 0]
  pool : Int := 0
  last : Nat := 7
  used : List Nat := [0, 0, 0, 0, 0, 0, 0, 0]
  starve : List Nat := [0, 0, 0, 0, 0, 0, 0, 0]
  granted : List Nat := []
  asks : List Ask := []
  deriving DecidableEq, Repr

/-- The clocks (R24): the aon count, each region's FCLK count, and what is stopped. In fclkStopped 12 and 13 are the fabric
interfaces of the host-complex dies 0 and 1. -/
structure Clocks where
  aon : Nat := 0
  fclk : Tbl Nat := []
  fclkStopped : Tbl Bool := []
  hclkStopped : Tbl Bool := []
  selfRefresh : Tbl Bool := []
  deriving DecidableEq, Repr

/-- Near-memory repair (R192): the rows redirected to spare rows, by region, column and row; the corrected errors of each row,
filed under pk (region × 128 + column) row; the columns reported without spare rows (R193). The positions retired in the field,
by block (R200), and for each physical position the window of R194 it counts corrected errors in, with their number. The
compressed blocks that a cell's expander will abandon, by cell and address, and those of the instruction that now reads (R182). -/
structure Repair where
  spared : List (Nat × Nat × Nat) := []
  rowErrs : Tbl Nat := []
  exhausted : List (Nat × Nat) := []
  retired : List (Nat × Nat) := []
  window : Tbl (Nat × Nat) := []
  abandon : List (Nat × Nat) := []
  reading : List Nat := []
  deriving DecidableEq, Repr

end Sys2Proof.Machine
end

