-- ==== Sys2Proof/Machine/ExecState.lean ====
section
/-! DEFINITION. The state of Twiex executors, work records, rings, blocks and error handling (05: R194 to R199;
06: R202 to R256; 01: R27 to R34; 15: R531 to R541). -/

namespace Sys2Proof.Machine

/-- What a cell copies from its sequencer at a launch (R226). -/
structure LaunchCtx where
  step : Nat := 0
  epoch : Nat := 0
  slot : Nat := 0xFFFF
  micro : Nat := 0
  vstage : Nat := 0
  seed : W64 := 0
  deriving DecidableEq, Repr

/-- A team instruction waiting at a barrier (R378, R393): its word, SUBN (R132), the group entry and norm as dispatch read them, the
descriptor table as it was (R224), and the phases passed. -/
structure TeamOp where
  word : W128
  subn : Bool := false
  entry : List Byte
  norm : Nat
  normBad : Nat
  desc : Tbl Line
  phase : Nat := 0
  deriving DecidableEq, Repr

/-- A bank-side pass that waits for its chunks (R190, R191): the instruction's word, the descriptor table, scalar registers, SUBN
and parameter group as dispatch read them (R132, R224, R378), the chunks of 4 KiB it has still to reach, in ascending order, and
what it found in the chunks it has let go. -/
structure Pass where
  word : W128
  desc : Tbl Line := []
  sreg : Tbl W64 := []
  subn : Bool := false
  group : List Byte := []
  todo : List Nat := []
  held : List Nat := []
  seen : Tbl (Line × BitVec 16) := []
  deriving DecidableEq, Repr

/-- Where a NaN was written (R161): the tile's row and column, the element's row and column or lane, its linear index, the
cause and the operands' FP32 bits, and whether a bank-side pass of a team instruction wrote it (R160). -/
structure TrapAt where
  row : Nat := 0
  col : Nat := 0
  er : Nat := 0
  ec : Nat := 0
  idx : Nat := 0
  cause : Nat := 0
  a : Nat := 0
  b : Nat := 0
  bsu : Bool := false
  deriving DecidableEq, Repr

/-- A dispatched instruction that has not completed (R210 to R216): its queue, the record fields of R246, the last
tiles it still had in flight, which a retirement abandons (R195), the bytes it reads and writes, and those among them that
another queue touches without order (R265), the bytes it reads, adds to and writes (R177, R276), the NaN it wrote, which traps as
it completes (R158), whether the trap of another has taken that away (R158, R159), the job it waits for, the bank-side pass it has
still to make, and whether its record shows FORCED whatever its CR (R332). -/
structure Flight where
  q : QueueId
  uid : Nat := 0
  items : Nat := 0
  addr : Nat := 0
  cls : Nat := 0
  op : Nat := 0
  tokOut : Nat := 0
  cr : Bool := false
  forced : Bool := false
  predOff : Bool := false
  status : Nat := 0
  detail : Nat := 0
  count : Nat := 0
  epoch : Nat := 0
  step : Nat := 0
  slot : Nat := 0xFFFF
  tiles : Nat := 0
  bsu : Bool := false
  both : Bool := false
  reads : List (Nat × Nat) := []
  writes : List (Nat × Nat) := []
  raced : List (Nat × Nat) := []
  noToken : Bool := false
  pgrp : Option Nat := none
  team : Option TeamOp := none
  trap : Option TrapAt := none
  quiet : Bool := false
  job : Option Nat := none
  pass : Option Pass := none
  resid : List (Nat × Nat) := []
  refusedPark : Bool := false
  deriving DecidableEq, Repr

/-- Why an executor stopped (R158, R209, R254). A sequencer shows it in SEQ_STAT as well. -/
inductive Stop where
  | no
  | nanTrap
  | illegal (detail : Nat)
  deriving DecidableEq, Repr

/-- An entry of a cell's instruction buffer: the word, and where its load came from (R207). -/
structure IbEntry where
  word : W128
  first : Nat
  src : Nat
  deriving DecidableEq, Repr

/-- A WATCH that sleeps (R311): its word's address, the value last consumed, where the results go, and the moment its
timeout runs out. -/
structure WatchWait where
  addr : Nat
  old : W64
  rd : Nat
  deadline : Option Nat
  woken : Bool := false
  deriving DecidableEq, Repr

/-- One executor (R202). A sequencer's program counter is SEQ_PC; a cell's is pc. trapDue is the instruction whose NaN stopped the
cell, while an earlier one is still in flight that may be the one to name (R159). icache holds the lines of a sequencer's
instruction cache, the one used last first. -/
structure Exec where
  pc : Nat := 0
  sreg : Tbl W64 := []
  pred : BitVec 8 := 0
  tok : Tbl Nat := []
  desc : Tbl Line := []
  ibuf : List (Nat × IbEntry) := []
  flights : List Flight := []
  running : Bool := false
  stop : Stop := .no
  job : Nat := 0
  start : Nat := 0
  arg : W64 := 0
  ctx : LaunchCtx := {}
  watch : Option WatchWait := none
  promote : Bool := false
  rerun : Bool := false
  endStatus : Nat := 0
  endDetail : Nat := 0
  trapDue : Option Flight := none
  icache : List (Nat × Line) := []
  deriving DecidableEq, Repr

/-- What a sequencer waits for on behalf of a LAUNCH, KLD or BLKST (R227, R279, R315). -/
inductive JobKind where
  | launch | load | blkst
  deriving DecidableEq, Repr

/-- A LAUNCH, KLD or BLKST in progress: the cells or blocks that have not ended it, and what its record will say. cells are all it named, the team
of R393; lost says that one of them has been retired (R395); fetched holds what a block's one fetch of a kernel load returned, with
its DETAIL (R225). -/
structure Job where
  id : Nat
  region : Nat
  kind : JobKind
  waits : List Nat
  cells : List Nat := []
  lost : Bool := false
  target : Nat := 0
  count : Nat := 0
  status : Nat := 0
  detail : Nat := 0
  promote : Bool := false
  promoted : Nat := 0
  fetched : List (Nat × List Byte × Nat) := []
  deriving DecidableEq, Repr

/-- What stands in a block's inbound queue (R30, R60, R226, R279). -/
inductive InItem where
  | launch (job : Nat) (cell : Cell) (start : Nat) (arg : W64) (ctx : LaunchCtx)
  | load (job : Nat) (cell : Cell) (start n src : Nat)
  | scratch (x : ScratchReq)
  deriving DecidableEq, Repr

/-- The stages of a retirement that wait for something (R195). -/
inductive RetirePhase where
  | selfTest | copying
  deriving DecidableEq, Repr

/-- A retirement in progress (R195): the slot, the position being retired, and its error-record cause. -/
structure Retiring where
  slot : Nat
  pos : Nat
  cause : Nat
  phase : RetirePhase
  deriving DecidableEq, Repr

/-- What a block holds beside its registers (R27 to R34, R194 to R199): the state asked for, whether its clock is starting,
the state it is going to, its inbound queue, a retirement, the slots that are held or gone, those whose instruction buffers wait
to be loaded after OFF (R30), whether it has cleaned its cache for a state asked (R32), the slot its arbiter served last (R23),
the slots waiting to be retired with their causes, and its stores' answers. -/
structure Blk where
  pend : Option Nat := none
  waking : Bool := false
  moving : Option Nat := none
  inq : List InItem := []
  retiring : Option Retiring := none
  held : List Nat := []
  gone : List Nat := []
  unloaded : List Nat := []
  cleaned : Bool := false
  arb : Nat := 15
  retireNext : List (Nat × Nat) := []
  selfTest : Option Bool := none
  scratchDone : List (ScratchReq × Line × Bool) := []
  deriving DecidableEq, Repr

/-- A work record as the sequencer copied it (R238), the ring it came from and its entry's address. -/
structure WorkRec where
  ring : Nat
  entry : Nat
  op : Nat
  flags : Nat
  slots : Nat
  target : Nat
  epoch : Nat
  step : Nat
  arg : W64
  deriving DecidableEq, Repr

/-- A sequencer's copy of a walk's stash ledger (R329 to R336), and the park that set FULL last. -/
structure Ledger where
  addr : Nat := 0
  quota : Nat := 0
  used : Nat := 0
  lo : Nat := 0
  hi : Nat := 0
  peak : Nat := 0
  refused : Nat := 0
  nref : Nat := 0
  en : Bool := false
  full : Bool := false
  first : Nat := 0xFFFF
  refAddr : Nat := 0
  refDetail : Nat := 0
  deriving DecidableEq, Repr

/-- What a sequencer keeps of its work (R236 to R245; 08: R331 to R336): the next ring in turn, the record taken and not
yet acted on, the record in progress, the slot walk, and the severest status of the events written meanwhile; halts are the writes of
HALT that wait for an instruction boundary, each with its ABORT and RESUME (R254). -/
structure Work where
  nextRing : Nat := 0
  taken : Option WorkRec := none
  cur : Option WorkRec := none
  walking : Bool := false
  slotK : Nat := 0
  slotBegan : Nat := 0
  slotLimit : Nat := 0
  slotEntry : Nat := 0
  slotAddr : Nat := 0
  overran : Bool := false
  status : Nat := 0
  detail : Nat := 0
  poisonSeen : List (Nat × Nat) := []
  halts : List (Bool × Bool) := []
  stopDue : Bool := false
  entryFault : Bool := false
  ledger : Ledger := {}
  pauseDue : Bool := false
  paused : Option Nat := none
  deriving DecidableEq, Repr

/-- The device's side of a ring: the counters of R228 it holds while the ring is enabled, the overflow buffer of R231,
and the records of producers that stall. -/
structure Ring where
  tail : Nat := 0
  head : Nat := 0
  buf : List (List Byte) := []
  held : List (List Byte) := []
  deriving DecidableEq, Repr

/-- An error record (R532), and the aon moment its handling at its queue began (R539). -/
structure ErrRec where
  status : Nat := 0
  detail : Nat := 0
  cause : Nat := 0
  sev : Nat := 0
  esc : Nat := 0
  origin : Nat := 0
  level : Nat := 0
  req : Nat := 0xFF
  inst : Nat := 0
  addr : Nat := 0
  epoch : Nat := 0
  step : Nat := 0
  slot : Nat := 0
  info : Nat := 0
  time : Nat := 0
  seqno : Nat := 0
  region : Nat := 0
  qslot : Nat := 0
  began : Nat := 0
  deriving DecidableEq, Repr

/-- An error queue of a level instance and its handler (R531, R534, R535): the records, the QSLOTs of the record being
handled and of those suspended beneath it, and the records written since reset. -/
structure ErrQ where
  recs : List ErrRec := []
  cur : List Nat := []
  await : List Nat := []
  written : Nat := 0
  deriving DecidableEq, Repr

/-- A token increment on its way to another executor (R310). -/
structure Signal where
  region : Nat
  target : Nat
  tok : Nat
  deriving DecidableEq, Repr

end Sys2Proof.Machine
end

