-- ==== Sys2Proof/Machine/HostState.lean ====
section
/-! DEFINITION. The state of the host ports (14: R506 to R530). -/

namespace Sys2Proof.Machine

/-- A piece of an HWR, or a write of HPT_OBDATA (R516, R529): the executor and the record fields of its instruction (none for
HPT_OBDATA), its number, host address and bytes, whether any is poison, and the activity class it is charged to (R274). -/
structure HostPiece where
  exec : Nat := 0
  flight : Option Flight := none
  index : Nat := 0
  addr : Nat
  bytes : List Byte
  bad : Bool := false
  act : Nat := 4
  deriving DecidableEq, Repr

/-- What waits at a port to be sent: a write or an MSI-X message. -/
inductive OutWait where
  | write (w : HostPiece)
  | msi (vector : Nat)
  deriving DecidableEq, Repr

/-- A read of an HRD (R517): its number, its instruction, host address, length, where its bytes lie among those of D, the bytes
that have come, its destination class and activity class, the descriptor of D as dispatch read it, and whether it has been sent. -/
structure HostRd where
  id : Nat
  exec : Nat
  uid : Nat
  addr : Nat
  len : Nat
  off : Nat
  got : Nat := 0
  cls : Nat
  act : Nat := 4
  desc : Line
  sent : Bool := false
  deriving DecidableEq, Repr

/-- A journal entry (R520): the issuer and piece as they were sent, the length, the destination class, and the aon moment. -/
structure JEntry where
  seq : Nat
  exec : Nat := 0
  flight : Option Flight := none
  index : Nat := 0
  addr : Nat
  len : Nat
  cls : Nat
  sentAt : Nat
  deriving DecidableEq, Repr

/-- An outstanding flush read (R521, R528): its class, the journal entries sent before it, and the messages it is for. -/
structure Flush where
  cls : Nat
  before : Nat
  msis : List Nat := []
  deriving DecidableEq, Repr

/-- What the device has sent on a port's PCIe link. -/
inductive Tlp where
  | write (addr : Nat) (data : List Byte) (ep : Bool)
  | read (addr len id : Nat)
  | flush (addr cls : Nat)
  | msi (vector : Nat)
  deriving DecidableEq, Repr

/-- How a port completed an inbound request: with data, as an Unsupported Request, as a Completer Abort, or asking for a retry of
a configuration request. -/
inductive Reply where
  | data (bytes : List Byte) (ep : Bool)
  | ur
  | ca
  | crs
  deriving DecidableEq, Repr

/-- A host port: what waits and is outstanding, the journal, the PCIe limits the host set, when the data link went down
unattended (R525), whether an advance is possible, the logs of what was sent and answered, and the writes discarded as decode errors
that Advanced Error Reporting logs as Unsupported Requests (R51). -/
structure HostPort where
  waits : List OutWait := []
  reads : List HostRd := []
  journal : List JEntry := []
  flushes : List Flush := []
  msiWait : List Nat := []
  nextId : Nat := 0
  nextSeq : Nat := 0
  mps : Nat := 128
  mrrs : Nat := 512
  downAt : Option Nat := none
  armed : Bool := false
  out : List Tlp := []
  replies : List Reply := []
  aer : List Nat := []
  deriving DecidableEq, Repr

end Sys2Proof.Machine
end

