-- ==== Sys2Proof/Machine/KtlState.lean ====
section
/-! DEFINITION. The state of the Kettle: personality, persistent memory and flash, the mailbox, power and temperature,
attestation, the sidebands and the power domains (16: R565 to R602; 17: R604 to R622). -/

namespace Sys2Proof.Machine

/-- What stage 3 has taken from the personality record (R574, R575): the enable masks of the blocks with the retired positions
cleared, the links whose lane maps leave them DOWN, DIMMs per channel and capacity in GiB of each far channel, and the
limits. -/
structure Persona where
  spare : List Nat := []
  badLinks : List Nat := []
  farPop : List (Nat × Nat) := []
  pmax : Nat := 0
  pfast : Nat := 0
  tjThr : Nat := 0
  cstepMin : Nat := 16
  deriving DecidableEq, Repr

/-- What the MRAM and the flash hold (R568, R571, R578, R579): the security-version counters of TYPE 1 to 4, the A/B state,
the boot counter, the far rows kept for post-package repair by channel and row, and the flash, whose erased bytes read
0xFF. The retirement list stands in Repair. -/
structure Persist where
  svn : List Nat := [0, 0, 0, 0]
  active : Nat := 0
  pendingSlot : Bool := false
  tries : Nat := 0
  boots : Nat := 0
  farRepair : List (Nat × Nat) := []
  flash : Tbl Byte := []
  deriving DecidableEq, Repr

/-- The power domains of R613, whether the package is held off by a thermal trip (R618, R619), and the core clusters taken
offline (R537). -/
structure Domains where
  hostPort : Bool := false
  fabric : Bool := false
  logic : Bool := false
  cores : Bool := false
  far : Bool := false
  tripped : Bool := false
  offline : List Nat := []
  deriving DecidableEq, Repr

/-- The power loop (R589 to R594, R599): the limits ncap and nthermal, the ticks ncap has been at its lowest, the HCLK rates
set and in use per cluster in MHz, whether the fast limiter holds, the energy since stage 4 in µJ, and the last tick. -/
structure PowerSt where
  ncap : Nat := 32
  nthermal : Nat := 32
  atMin : Nat := 0
  hclkSet : List Nat := List.replicate 16 3200
  hclk : List Nat := List.replicate 16 3200
  fast : Bool := false
  energy : Nat := 0
  lastTick : Option Nat := none
  deriving DecidableEq, Repr

/-- A response of the Kettle on an SPDM transport (R580 to R582). -/
inductive SpdmResp where
  | version
  | capabilities
  | algorithms
  | digests (chain : List Byte)
  | certificate (part : List Byte) (left : Nat)
  | challengeAuth (signature : List Byte)
  | measurements (items : List (List Byte)) (signature : List Byte)
  | keyExchange (signature : List Byte)
  | finish
  | endSession
  | vendor (bytes : List Byte)
  | error (code : Nat)
  deriving DecidableEq, Repr

/-- One SPDM transport (R580, R581): what has been negotiated, the session, the messages so far, the message the last
Ed25519-signed response covered, and the responses given. -/
structure Spdm where
  version : Bool := false
  caps : Bool := false
  algs : Bool := false
  handshake : Bool := false
  session : Bool := false
  transcript : List Byte := []
  signed : Option (List Byte) := none
  responses : List SpdmResp := []
  deriving DecidableEq, Repr

/-- A sideband input (R595 to R597): the filtered level, the moments it changed within the last 10 ms, its last change, when
the honoured level last became asserted, and whether its STUCK flag may be set again. -/
structure SbIn where
  level : Bool := false
  changes : List Nat := []
  changedAt : Nat := 0
  since : Nat := 0
  stuckArmed : Bool := true
  deriving DecidableEq, Repr

/-- The ways main power is lost (R607, R611, R618). -/
inductive Loss where
  | pwrOk | vin48 | sysRefclk
  deriving DecidableEq, Repr

/-- The Kettle: whether VSTBY33 is in range, stage 1 is due, the device has its identity, MADDR[2:0], the addresses the
firmware of the sequencers and the server cores was started at, LMS, the doorbells in order, SPDM, the sidebands, telemetry, a
device reset in progress, what took main power away, the loss of AON_XI, when stage 8 began, the measured digests, and the blocks
reported as unusable (R18). -/
structure Ktl where
  persona : Persona := {}
  persist : Persist := {}
  dom : Domains := {}
  power : PowerSt := {}
  standby : Bool := false
  stage1Due : Bool := true
  identity : Bool := false
  maddr : Nat := 0
  seqEntry : Option Nat := none
  coreEntry : Option Nat := none
  lms : Option (List Byte) := none
  doorbells : List (Nat × Nat) := []
  spdm : Tbl Spdm := []
  inputs : Tbl SbIn := []
  telemetry : Option (List Byte) := none
  lastTel : Option Nat := none
  resetting : Bool := false
  losses : List Loss := []
  aonLost : Bool := false
  runningAt : Option Nat := none
  measured : Tbl (List Byte) := []
  unusable : List Nat := []
  deriving DecidableEq, Repr

end Sys2Proof.Machine
end

