-- ==== Sys2Proof/Machine/LinkState.lean ====
section
/-! DEFINITION. The state of the chip-to-chip links, of transactions and of collectives (12: R434 to R478). -/

namespace Sys2Proof.Machine

/-- A transaction: the fields of its header slot (R442) and its data. -/
structure Xact where
  ttype : Nat := 0
  cls : Nat := 0
  comp : Bool := false
  poison : Bool := false
  src : Nat := 0
  dst : Nat := 0
  tag : Nat := 0
  slink : Nat := 0
  status : Nat := 0
  epoch : Nat := 0
  len : Nat := 0
  detail : Nat := 0
  op : Nat := 0
  addr : Nat := 0
  grp : Nat := 0
  colseq : Nat := 0
  part : Nat := 0
  dim : Nat := 0
  ringStep : Nat := 0
  offset : Nat := 0
  data : List Byte := []
  deriving DecidableEq, Repr

/-- A transaction with data that is arriving on one virtual channel: what came so far, how many data bytes are still to
come, and, for one to be forwarded, its egress link and channel once routed, or that it was refused (R444, R453, R456). -/
structure Arriving where
  x : Xact
  left : Nat
  forward : Bool := false
  egress : Option (Nat × Nat) := none
  dropped : Bool := false
  deriving DecidableEq, Repr

/-- Whose transaction a DATA flit belongs to: an item of this device, another transaction of this device, or one that is
forwarded (R459). -/
inductive FlitKind where
  | item | reply | forward
  deriving DecidableEq, Repr

/-- A flit waiting to be sent: its frame type, channel, body, whether it ends a transaction with ABORT or carries NAK, and the
transaction it belongs to (with its data when it is a reply). -/
structure OutFlit where
  ftype : Nat
  vc : Nat
  body : List Byte
  abort : Bool := false
  nak : Bool := false
  kind : FlitKind := .item
  x : Xact := {}
  deriving DecidableEq, Repr

/-- A flit held for replay: its sealing counter, what it carries, and the frame as it was sent (R438). -/
structure ReplayFlit where
  ctr : Nat
  f : OutFlit
  sent : Flit
  deriving DecidableEq, Repr

/-- One link: its keys, sealing counter, replay buffer, credits, receiver, and what arrived (R436 to R440, R454 to R461,
R583 to R587). What arrived stands with its virtual channel, plus 4 where it came before the link last entered UP. -/
structure LinkSt where
  keyGen : Nat := 0
  rekey : Bool := false
  switchedAt : Option Nat := none
  ctr : Nat := 0
  replay : List ReplayFlit := []
  waiting : List OutFlit := []
  credits : List Nat := [512, 512, 512, 512]
  credSeen : List Nat := [0, 0, 0, 0]
  freed : List Nat := [0, 0, 0, 0]
  expect : Nat := 0
  recvPhase : Bool := false
  nakSent : Bool := false
  badTagSeq : Option Nat := none
  sinceAck : Nat := 0
  ackOwed : Bool := false
  resends : Nat := 0
  resendSeq : Nat := 0
  starts : List Nat := []
  leftUpAt : Option Nat := none
  retrainAt : Nat := 0
  arriving : List (Nat × Arriving) := []
  inbox : List (Nat × Xact) := []
  forwards : List (Nat × Xact) := []
  wire : List Flit := []
  deriving DecidableEq, Repr

/-- How far an item of an instruction has got (R446, R451, R460). -/
inductive ItemSt where
  | waiting | sent | quarantined
  deriving DecidableEq, Repr

/-- One WR, RDREQ or CDATA a source has outstanding (R446): the flight it belongs to and its executor, or the collective, the
link and tag once allocated, the transaction, where returned data goes in this device (or in the buffer of a GET), how many
bytes are still to come, how many have been written, and when it was sent or quarantined. -/
structure Item where
  uid : Nat
  exec : Nat := 0
  st : ItemSt := .waiting
  link : Nat := 0
  tag : Nat := 0
  x : Xact
  dst : Nat := 0
  buffered : Bool := false
  left : Nat := 0
  got : Nat := 0
  sentAt : Nat := 0
  coll : Option (Nat × Nat) := none
  deriving DecidableEq, Repr

/-- A GET whose data is gathered before it is written, because its source is compressed or its extents differ (R262, R264):
its flight, its two descriptors and its class, the bytes so far by offset, and the DETAIL of bad ones. -/
structure GetBuf where
  uid : Nat
  d : Line
  a : Line
  cls : Nat := 2
  bytes : Tbl Byte := []
  bad : Tbl Nat := []
  deriving DecidableEq, Repr

/-- A PUT whose items are outstanding: its executor and flight, its two descriptors and its class, from which items of a lost link
are read again (R459). -/
structure PutSrc where
  exec : Nat
  uid : Nat
  d : Line
  a : Line
  cls : Nat
  deriving DecidableEq, Repr

/-- A compressed segment of class MIRROR or STASH that is arriving from a peer (R422): its transactions so far, each with the
link it came on. -/
structure SegIn where
  src : Nat
  dpa : Nat
  xs : List (Nat × Xact)
  deriving DecidableEq, Repr

/-- A live group (R462): its participants in order, its ring shape, the number of its next collective, the number below which all have
ended, and whether GFREE waits to end it. -/
structure Group where
  grp : Nat
  parts : List Nat
  shape : List Nat
  nextSeq : Nat := 0
  ended : Nat := 0
  freeing : Bool := false
  freeUid : Nat := 0
  freeRegion : Nat := 0
  deriving DecidableEq, Repr

/-- An element of a collective: its bits and its scale or extension byte above bit 64, or none for poison. -/
abbrev CollEl := Option Nat

/-- Data of a part that is arriving in a collective: its sender, ring dimension, ring step, part, and its transactions so
far by offset, compressed or not, with their poison (R419, R469). -/
structure PartIn where
  src : Nat
  dim : Nat
  ringStep : Nat
  part : Nat
  xs : List (Nat × Bool × Bool × List Byte) := []
  deriving DecidableEq, Repr

/-- Data ready for a participant, waiting for its READY (R465). -/
structure PartOut where
  peer : Nat
  dim : Nat
  ringStep : Nat
  part : Nat
  fmt : Nat
  els : List CollEl
  deriving DecidableEq, Repr

/-- A collective at its engine (R464 to R471): the instruction and its descriptors as captured at dispatch, the group as it
was, and how far it has got. own holds the values of the parts that wait for a neighbour, by part and phase; finals the
elements of the parts that are final here; flushed whether R130 flushed a value that NUM_STAT does not show yet. -/
structure Coll where
  grp : Nat
  seq : Nat
  region : Nat
  uid : Nat
  op : Nat
  rop : Nat := 0
  ragged : Bool := false
  sq : Bool := false
  epoch : Nat := 0
  cls : Nat := 2
  root : Nat := 0
  rm : Nat := 0
  sat : Bool := false
  subn : Bool := false
  step : Nat := 0
  lineD : Line := 0
  lineA : Line := 0
  lineB : Line := 0
  lineC : Line := 0
  parts : List Nat := []
  shape : List Nat := []
  started : Bool := false
  sizes : List Nat := []
  recvSizes : List Nat := []
  own : List (Nat × Nat × List CollEl) := []
  finals : List (Nat × List CollEl) := []
  ready : List Nat := []
  expects : List (Nat × Nat × Nat × Nat) := []
  ins : List PartIn := []
  outs : List PartOut := []
  sends : List Nat := []
  bad : Nat := 0
  flushed : Bool := false
  loc : List Nat := []
  lastAt : Nat := 0
  deriving DecidableEq, Repr

/-- A collective with SQ = 1, in the order of issue: whether it has started, the sums and counts it will add to the noise
accumulators once it has ended, and whether it failed (R371, R372). -/
structure GnsEntry where
  region : Nat
  uid : Nat
  step : Nat
  opened : Bool := false
  sums : Option (List Nat) := none
  gone : Bool := false
  deriving DecidableEq, Repr

/-- A READY that arrived before its collective started (R465): who, group, number, OP and ROP. -/
structure HeldReady where
  src : Nat
  grp : Nat
  seq : Nat
  op : Nat
  rop : Nat
  deriving DecidableEq, Repr

/-- What the device keeps of a beat partner beside RSL_FIFESn (R546, R548): BEATSEQ and the moment of the probe. -/
structure Fife where
  seq : Nat := 0
  probeAt : Nat := 0
  deriving DecidableEq, Repr

/-- Links, outstanding items, GETs and segments being gathered, PUTs outstanding, groups, collectives, and the beats: each partner's part and the
moment of the last beats sent. -/
structure Net where
  links : Tbl LinkSt := []
  items : List Item := []
  gets : List GetBuf := []
  puts : List PutSrc := []
  segs : List SegIn := []
  groups : List Group := []
  colls : List Coll := []
  readies : List HeldReady := []
  gns : List GnsEntry := []
  fife : Tbl Fife := []
  beatAt : Option Nat := none
  deriving DecidableEq, Repr

end Sys2Proof.Machine
end

