-- ==== Sys2Proof/Machine/PipeState.lean ====
section
/-! DEFINITION. The state of the input pipeline: samples in flight, lanes, streams and replay (13: R480 to R505). -/

namespace Sys2Proof.Machine

/-- Where a sample is: waiting for a lane, waiting for an engine, in an engine, with the core lane, with a host lane under a
host epoch, or decoded. -/
inductive SampleAt where
  | wait
  | queued
  | engine (e : Nat)
  | core
  | host (p epoch : Nat)
  | done
  deriving DecidableEq, Repr

/-- A sample the scheduler has taken (R487 to R493): the request and the DPA of its entry, the transform entry read at dispatch,
its cost, the host lanes it must not go to again, whether its container declares its content's size, where it is, its staging slot, the moment its decode began and the budget in FCLK cycles (none: no limit), and
once it is decoded the order of completion, status, units, cut and lane. -/
structure Sample where
  uid : Nat
  req : List Byte
  entry : Nat
  xf : List Byte := []
  cost : Nat := 0
  noHost : List Nat := []
  declared : Bool := false
  at_ : SampleAt := .wait
  slot : Nat := 0
  began : Nat := 0
  budget : Option Nat := none
  order : Nat := 0
  status : Nat := 0
  units : Nat := 0
  cut : Bool := false
  lane : Nat := 0
  deriving DecidableEq, Repr

/-- A lane's account (R489): rate, cost units done in this period, backlog. Lanes are 0 engine, 1 core, 2 + p host port p. -/
structure LaneSt where
  rate : Nat := 0
  done : Nat := 0
  backlog : Nat := 0
  deriving DecidableEq, Repr

/-- An open micro-batch (R497, R498): its buffer, step and micro-batch number, samples, units, flags, the bytes of one image, and
the aon moment of the last placement. -/
structure OpenMb where
  buf : Nat
  step : Nat
  micro : Nat
  nsamp : Nat := 0
  units : Nat := 0
  flags : Nat := 0
  image : Nat := 0
  last : Nat := 0
  deriving DecidableEq, Repr

/-- An output stream (R494): its record while it is loaded, the number m of the next micro-batch, the batch ring's TAIL, and the
open micro-batch. -/
structure Strm where
  rcd : Option (List Byte) := none
  m : Nat := 0
  tail : Nat := 0
  mb : Option OpenMb := none
  deriving DecidableEq, Repr

/-- A refusal that a replay record must match (R500): sample, stream and status. -/
structure Refused where
  sample : Nat
  stream : Nat
  status : Nat
  deriving DecidableEq, Repr

/-- The input pipeline. strWait is the stream and the address of a load of COL_STRCMD that waits for the block whose store holds its
record to run (R60). -/
structure Pipe where
  samples : List Sample := []
  lanes : Tbl LaneSt := []
  streams : Tbl Strm := []
  refused : List Refused := []
  nextRing : Nat := 0
  orders : Nat := 0
  poisonSeen : List (Nat × Nat) := []
  strWait : Option (Nat × Nat) := none
  deriving DecidableEq, Repr

end Sys2Proof.Machine
end

