-- ==== Sys2Proof/Machine/UpdState.lean ====
section
/-! DEFINITION. The state of parameter groups (10: R378, R400, R401). -/

namespace Sys2Proof.Machine

/-- A group command that waits with BUSY = 1 (R60, R401): whether it releases, the group, the region whose window it was written
in, and for a setup where its entry lies and the entry, once it is read. -/
structure PgPend where
  release : Bool
  group : Nat
  region : Nat
  src : Nat := 0
  entry : List Byte := []
  deriving DecidableEq, Repr

/-- Row counters a group holds: the first and how many (R400). -/
structure RcHold where
  group : Nat
  first : Nat
  count : Nat
  deriving DecidableEq, Repr

/-- The table of parameter groups, the row counters they hold in ascending order, and the command that waits. -/
structure Upd where
  groups : Tbl (List Byte) := []
  counters : List RcHold := []
  pend : Option PgPend := none
  deriving DecidableEq, Repr

end Sys2Proof.Machine
end

