-- ==== Sys2Proof/Machine/State.lean ====
section
/-! DEFINITION. The whole state of the block, the faults and refusals, and the state right after reset. -/

namespace Sys2Proof.Machine

/-- Ways a command could end in a fault. The spec gives every row of the table an effect, so none is raised. -/
inductive Fault where
  /-- Raised by no command; it stands here because the type needs a name. Safe. -/
  | neverRaised
  deriving DecidableEq, Repr

/-- Ways a command could be refused. -/
inductive Refusal where
  /-- Raised by the arms of exec whose command has no meaning yet. Safe: the machine stops. -/
  | notModelled (mnemonic : String)
  deriving DecidableEq, Repr

/-- The state of the device. Registers are held field by field under Fld.key; everything else the spec gives the device
stands in the parts below, each filed under the indices of R16. -/
structure State where
  pending : List Instr := []
  regs : Tbl Nat := []
  banks : Tbl BankSt := []
  mem : Mem := {}
  coh : Coh := {}
  far : Tbl FarBuf := []
  blks : Tbl Blk := []
  execs : Tbl Exec := []
  jobs : List Job := []
  nextJob : Nat := 1
  works : Tbl Work := []
  rings : Tbl Ring := []
  errs : Tbl ErrQ := []
  signals : List Signal := []
  budgets : Tbl Budget := []
  clk : Clocks := {}
  repair : Repair := {}
  net : Net := {}
  upd : Upd := {}
  ktl : Ktl := {}
  pipe : Pipe := {}
  hosts : Tbl HostPort := []
  nextUid : Nat := 1
  free : Nat := 0
  deriving DecidableEq, Repr

/-- The machine right after reset: every register field at its reset value, nothing in memory, every queue empty. -/
def State.reset : State := {}

end Sys2Proof.Machine
end

