-- ==== Sys2Proof/Machine/Ops.lean ====
section
/-! DEFINITION. The named operations over the parts of State: register fields, banks, blocks, executors, rings, queues and
clocks. Every later definition reads and writes the state through these. -/

namespace Sys2Proof.Machine

/-- The value of a register field, for one instance and one array index. -/
def State.fld (s : State) (f : Fld) (inst : Nat) (idx : Nat := 0) : Nat := Tbl.get s.regs f.rst (f.key inst idx)

/-- Writes a register field; only as many bits as the field has are kept. -/
def State.setFld (s : State) (f : Fld) (inst : Nat) (v : Nat) (idx : Nat := 0) : State :=
  { s with regs := Tbl.set s.regs f.rst (f.key inst idx) (v % 2 ^ f.width) }

/-- A one-bit field as a truth value. -/
def State.flag (s : State) (f : Fld) (inst : Nat) (idx : Nat := 0) : Bool := s.fld f inst idx % 2 == 1

/-- Adds to a counting field, modulo its width. -/
def State.bump (s : State) (f : Fld) (inst : Nat) (n : Nat := 1) (idx : Nat := 0) : State :=
  s.setFld f inst (s.fld f inst idx + n) idx

/-- Adds to a counting field that saturates at all ones. -/
def State.bumpSat (s : State) (f : Fld) (inst : Nat) (n : Nat := 1) (idx : Nat := 0) : State :=
  s.setFld f inst (min (s.fld f inst idx + n) (2 ^ f.width - 1)) idx

/-- Raises a field to at least a value. -/
def State.peak (s : State) (f : Fld) (inst : Nat) (v : Nat) (idx : Nat := 0) : State :=
  s.setFld f inst (max (s.fld f inst idx) v) idx

/-- A requester bank. -/
def State.bank (s : State) (k : Bank) : BankSt := Tbl.get s.banks {} k.code
/-- Writes a requester bank. -/
def State.setBank (s : State) (k : Bank) (v : BankSt) : State := { s with banks := Tbl.set s.banks {} k.code v }

/-- A block. -/
def State.blk (s : State) (b : Nat) : Blk := Tbl.get s.blks {} b
/-- Writes a block. -/
def State.setBlk (s : State) (b : Nat) (v : Blk) : State := { s with blks := Tbl.set s.blks {} b v }

/-- The power state a block acts in (R27): once it goes to GATED, NAP or OFF it takes nothing up any more, although STATE shows the
new state only when it is reached (R32). -/
def State.blkState (s : State) (b : Nat) : BlkState :=
  match (s.blk b).moving with
  | some 1 => .gated
  | some 2 => .nap
  | some 3 => .off
  | _ => BlkState.ofCode (s.fld .BLK_PWR_STATE b)

/-- Whether an access to a block's stores waits because its slot is being retired, or waits its turn to be (R195, R198). -/
def Blk.slotStopped (k : Blk) (slot : Option Nat) : Bool :=
  match slot with
  | some n => (k.retiring.any (fun r => r.slot == n)) || k.retireNext.any (fun r => r.1 == n)
  | none => false

/-- An executor. -/
def State.exe (s : State) (x : Executor) : Exec := Tbl.get s.execs {} x.code
/-- Writes an executor. -/
def State.setExe (s : State) (x : Executor) (v : Exec) : State := { s with execs := Tbl.set s.execs {} x.code v }

/-- A sequencer's work. -/
def State.work (s : State) (r : Nat) : Work := Tbl.get s.works {} r
/-- Writes a sequencer's work. -/
def State.setWork (s : State) (r : Nat) (v : Work) : State := { s with works := Tbl.set s.works {} r v }

/-- A level instance's error queue. -/
def State.errq (s : State) (q : LevelInst) : ErrQ := Tbl.get s.errs {} q.code
/-- Writes a level instance's error queue. -/
def State.setErrq (s : State) (q : LevelInst) (v : ErrQ) : State := { s with errs := Tbl.set s.errs {} q.code v }

/-- A budgeted resource. -/
def State.budget (s : State) (b : BudgetRes) : Budget := Tbl.get s.budgets {} b.code
/-- Writes a budgeted resource. -/
def State.setBudget (s : State) (b : BudgetRes) (v : Budget) : State := { s with budgets := Tbl.set s.budgets {} b.code v }

/-- Replaces the coherence part. -/
def State.setCoh (s : State) (c : Coh) : State := { s with coh := c }
/-- Replaces the memory part. -/
def State.setMem (s : State) (m : Mem) : State := { s with mem := m }

/-- A region's FCLK count. -/
def State.fclk (s : State) (r : Nat) : Nat := Tbl.get s.clk.fclk 0 r

/-- Starts the FCLK of a region, or of a host-complex die's fabric interface at 12 and 13 (R24, R25). -/
def State.startFclk (s : State) (r : Nat) : State :=
  { s with clk := { s.clk with fclkStopped := Tbl.set s.clk.fclkStopped false r false } }

/-- Starts the HCLK of a core cluster (R24, R110). -/
def State.startHclk (s : State) (q : Nat) : State :=
  { s with clk := { s.clk with hclkStopped := Tbl.set s.clk.hclkStopped false q false } }

/-- A job by its number. -/
def State.job (s : State) (id : Nat) : Option Job := s.jobs.find? (fun j => j.id == id)
/-- Writes a job. -/
def State.setJob (s : State) (j : Job) : State := { s with jobs := s.jobs.map (fun k => if k.id = j.id then j else k) }
/-- Ends a job. -/
def State.endJob (s : State) (id : Nat) : State := { s with jobs := s.jobs.filter (fun k => k.id ≠ id) }

/-- Takes the number of the next free value. -/
def State.tick (s : State) : State := { s with free := s.free + 1 }

/-- Applies a change of state once for each item of a list, in order. -/
def State.forEach {α : Type} (s : State) (l : List α) (f : State → α → State) : State := l.foldl f s

/-- An effect that happens only when its condition holds; otherwise nothing changes. -/
def State.iff (s : State) (c : Bool) (f : State → State) : State := if c then f s else s

/-- Records a decode error of an on-device requester in FAB_DECERR (R51). -/
def State.decodeError (s : State) (req addr : Nat) (write : Bool) : State :=
  if s.flag .FAB_DECERR_VALID 0 then s.bumpSat .FAB_DECERR_COUNT 0
  else
    let s := s.setFld .FAB_DECERR_VALID 0 1
    let s := s.setFld .FAB_DECERR_WRITE 0 (bit1 write)
    let s := s.setFld .FAB_DECERR_REQ 0 req
    let s := s.setFld .FAB_DECERR_COUNT 0 1
    s.setFld .FAB_DECERR_ADDR 0 addr

/-- A decode error of a host port (R51): it is counted in HPT_ERR.UR, and a write is logged under Advanced Error Reporting. -/
def State.hostError (s : State) (p addr : Nat) (write : Bool) : State :=
  let s := s.bump .HPT_ERR_UR p
  let k := Tbl.get s.hosts {} p
  s.iff write (fun s => { s with hosts := Tbl.set s.hosts {} p { k with aer := k.aer ++ [addr] } })

/-- A decode error of a requester by its code (R51): a host port's is counted in its HPT_ERR.UR, any other is recorded in
FAB_DECERR with the address as issued (R54). -/
def State.refuse (s : State) (code addr : Nat) (write : Bool) : State :=
  if 128 ≤ code ∧ code < 132 then s.hostError (code - 128) addr write else s.decodeError code addr write

/-- A decode error of a register access (R51): a host port's is counted in HPT_ERR.UR, any other is recorded in FAB_DECERR. -/
def State.regError (s : State) (who : Bank) (off : Nat) (write : Bool) : State :=
  match who with
  | .host p => s.hostError p.val (0x300000000000 + off) write
  | _ => s.decodeError who.req (0x300000000000 + off) write

/-- A low half that was held and is not followed by its high half is discarded with a decode error (R67). -/
def State.dropHeld (s : State) (who : Bank) (keep : Option Nat) : State :=
  match (s.bank who).heldLow with
  | none => s
  | some (o, _) =>
    if keep = some o then s
    else (s.setBank who { s.bank who with heldLow := none }).regError who o true

/-- The bank after an access that was refused has no half waiting. -/
def State.forget (s : State) (who : Bank) : State := s.setBank who { s.bank who with latched := none }

/-- A register access of a bank that is neither the half a held low half waits for nor the read a latched high half serves
(R67): the held half is discarded with a decode error, the latched half is no longer shown. -/
def State.otherAccess (s : State) (who : Bank) : State := (s.dropHeld who none).forget who

/-- One cycle of AONCLK: its count goes on, and each FCLK that runs counts 80 cycles (R11, R24). -/
def State.idle (s : State) : State :=
  { s with clk := { s.clk with
      aon := s.clk.aon + 1
      fclk := (List.range 12).foldl (fun (t : Tbl Nat) r =>
        if Tbl.get s.clk.fclkStopped false r then t else Tbl.set t 0 r (Tbl.get t 0 r + 80)) s.clk.fclk } }

end Sys2Proof.Machine
end

