-- ==== Sys2Proof/Machine/Mem.lean ====
section
/-! DEFINITION. The shared address space: the address map, the interleave view, and memory with its poison (02: R48 to
R58; 03: R112, R627). -/

namespace Sys2Proof.Machine

/-- What an address leads to (R48, R56). -/
inductive Place where
  | near (r : Nat)
  | far (f : Nat)
  | cellStore (c : Nat)
  | blockStore (b : Nat)
  | regs (off : Nat)
  | unmapped
  deriving DecidableEq, Repr

/-- The canonical address of an address: interleave-view addresses are translated, others stand (R53, R54). -/
def canonical (a : Nat) : Nat :=
  if 0x0C0000000000 ≤ a ∧ a ≤ 0x0CBFFFFFFFFF then
    let o := a - 0x0C0000000000
    let g := o / 4096
    (g % 12) * 0x1000000000 + (g / 12) * 4096 + o % 4096
  else a

/-- The populated bytes of a far channel (R56), from FMC_STAT. -/
def State.farBytes (s : State) (f : Nat) : Nat :=
  if s.flag .FMC_STAT_POP f then s.fld .FMC_STAT_CAP f * 2 ^ 30 else 0

/-- The decode of the address map (R48, R56), for canonical addresses. -/
def State.place (s : State) (a : Nat) : Place :=
  if a < 0xC000000000 then .near (a / 0x1000000000)
  else if 0x100000000000 ≤ a ∧ a < 0x160000000000 then
    let f := (a - 0x100000000000) / 0x8000000000
    if (a - 0x100000000000) % 0x8000000000 < s.farBytes f then .far f else .unmapped
  else if 0x200000000000 ≤ a ∧ a < 0x200180000000 then .cellStore ((a - 0x200000000000) / 0x400000)
  else if 0x210000000000 ≤ a ∧ a < 0x2100C0000000 then .blockStore ((a - 0x210000000000) / 0x2000000)
  else if 0x300000000000 ≤ a ∧ a < 0x300004000000 then .regs (a - 0x300000000000)
  else .unmapped

/-- Whether a place is cached and coherent (R49). -/
def Place.coherent : Place → Bool
  | .near _ | .far _ => true
  | _ => false

/-- Whether a place is memory that a load or store reaches (R49, R50). -/
def Place.memory : Place → Bool
  | .near _ | .far _ | .cellStore _ | .blockStore _ => true
  | _ => false

/-- The home of a line of near or far memory (R80). -/
def homeOf (line : Nat) : Nat :=
  let a := line * 64
  if a < 0xC000000000 then a / 0x1000000000 else (a - 0x100000000000) / 0x8000000000


/-- Whether a line lies in far memory. -/
def isFar (line : Nat) : Bool := decide (0x100000000000 ≤ line * 64 ∧ line * 64 < 0x180000000000)

/-- What a byte of memory that nothing has written reads as. -/
def unlistedByte : Byte := 0

/-- One byte of memory. -/
def Mem.byte (m : Mem) (a : Nat) : Byte := Tbl.get m.bytes unlistedByte a

/-- Writes one byte of memory. -/
def Mem.setByte (m : Mem) (a : Nat) (v : Byte) : Mem := { m with bytes := Tbl.set m.bytes unlistedByte a v }

/-- Writes consecutive bytes. -/
def Mem.setBytes (m : Mem) (a : Nat) : List Byte → Mem
  | [] => m
  | b :: t => Mem.setBytes (m.setByte a b) (a + 1) t

/-- The canonical form of memory: addresses strictly rising, no entry equal to what an unlisted address reads as, and the
same for the poison tables and the coded slots. -/
def Mem.wf (m : Mem) : Bool :=
  Tbl.wf unlistedByte m.bytes && Tbl.wf false m.poisonW && Tbl.wf false m.poisonF && Tbl.wf 0 m.coded && Tbl.wf 0 m.owner

/-- The poison bits of a line of near memory or a store. -/
def Mem.wordPoison (m : Mem) (line : Nat) : BitVec 16 :=
  (List.range 16).foldl (fun (acc : BitVec 16) i =>
    if Tbl.get m.poisonW false (line * 16 + i) then acc ||| (1#16 <<< i) else acc) 0

/-- The bytes of a range as they are stored. -/
def Mem.raw (m : Mem) (a n : Nat) : List Byte := (List.range n).map (fun i => m.byte (a + i))

/-- Whether any line of a range of far memory is poisoned. -/
def Mem.farPoison (m : Mem) (a n : Nat) : Bool :=
  (List.range (ceilDiv n 64)).any (fun i => Tbl.get m.poisonF false (a / 64 + i))

/-- The address of the table header of a coded slot, by DPA div 4096 (R423). -/
def Mem.codedAt (m : Mem) (slot : Nat) : Option Nat :=
  if Tbl.get m.coded 0 slot = 0 then none else some (Tbl.get m.coded 0 slot - 1)

/-- What a coded slot holds, decoded; none when a word of it or of its table header is poison, or the block fails its check
(R424, R426). -/
def Mem.decodeSlot (m : Mem) (slot table : Nat) : Option (List Byte) :=
  let h := m.raw table 512
  let b := m.raw (slot * 4096) 4096
  if m.farPoison table 512 || m.farPoison (slot * 4096) (fieldAt b 0 2) then none
  else match readHeader (fieldAt h 4 1 % 64) h with
    | some (e, t, n) => if slot % 16 < n then decodeBlock (fieldAt h 4 1 % 64) e t b else none
    | none => none

/-- The poison bits of any line of memory: per word, or for far memory the whole line's bit (R112); a line of a coded slot
that cannot be decoded is poison (R426). -/
def Mem.poison (m : Mem) (line : Nat) : BitVec 16 :=
  if isFar line then
    let bad := match m.codedAt (line / 64) with
      | some t => (m.decodeSlot (line / 64) t).isNone
      | none => Tbl.get m.poisonF false line
    if bad then BitVec.allOnes 16 else 0
  else m.wordPoison line

/-- The 64 bytes of a line of memory; a line of a coded slot is decoded (R424). -/
def Mem.line (m : Mem) (line : Nat) : Line :=
  match m.codedAt (line / 64) with
  | some t => match m.decodeSlot (line / 64) t with
    | some l => BitVec.ofNat 512 (fieldAt l (line % 64 * 64) 64)
    | none => 0
  | none => BitVec.ofNat 512 (leNat (m.raw (line * 64) 64))

/-- Sets the poison bits of a line of near memory or a store. -/
def Mem.setWordPoison (m : Mem) (line : Nat) (p : BitVec 16) : Mem :=
  (List.range 16).foldl (fun (m : Mem) i =>
    { m with poisonW := Tbl.set m.poisonW false (line * 16 + i) (p.getLsbD i) }) m

/-- A coded slot made plain: its lines decoded and written back, poisoned when it cannot be decoded (R425, R426). -/
def Mem.plain (m : Mem) (slot : Nat) : Mem :=
  match m.codedAt slot with
  | none => m
  | some t =>
    let m1 := { m with coded := Tbl.set m.coded 0 slot 0 }
    match m.decodeSlot slot t with
    | some l => m1.setBytes (slot * 4096) l
    | none => (List.range 64).foldl (fun (m : Mem) i =>
        { m with poisonF := Tbl.set m.poisonF false (slot * 64 + i) true }) m1

/-- A write of the bytes a mask selects within one line, with the poison rule of R627; a coded slot becomes plain first
(R425). -/
def Mem.writeLine (m0 : Mem) (line : Nat) (w : LineWrite) : Mem :=
  let m := m0.plain (line / 64)
  let m1 := (setBits w.mask.toNat 64).foldl (fun (m : Mem) i => m.setByte (line * 64 + i) (lineByte w.data i))
    { m with owner := Tbl.set m.owner 0 line 0 }
  if isFar line then
    let was := Tbl.get m.poisonF false line
    let now := if w.poison then true else if w.mask = fullMask then false else was
    { m1 with poisonF := Tbl.set m1.poisonF false line now }
  else m1.setWordPoison line (poisonAfter (m.wordPoison line) w.mask w.poison)

/-- What a far channel's controller keeps. -/
def State.farBuf (s : State) (f : Nat) : FarBuf := Tbl.get s.far {} f
/-- Writes it. -/
def State.setFarBuf (s : State) (f : Nat) (b : FarBuf) : State := { s with far := Tbl.set s.far {} f b }

/-- A write of a far line makes the controller's copies of its slot and of a table header there invalid (R424). -/
def State.farForget (s : State) (line : Nat) : State :=
  if isFar line then
    let b := s.farBuf (homeOf line)
    s.setFarBuf (homeOf line) { heads := b.heads.filter (· ≠ line / 8 * 512), slots := b.slots.filter (· ≠ line / 64) }
  else s

/-- A write to memory; one that meets a coded slot counts it (FMC_CZ_STAT.UNCODED). -/
def State.memWrite (s : State) (line : Nat) (w : LineWrite) : State :=
  let s1 := (s.setMem (s.mem.writeLine line w)).farForget line
  if (s.mem.codedAt (line / 64)).isSome then s1.bump .FMC_CZ_STAT_UNCODED (homeOf line) else s1

/-- Clears a range of a store to zero with good check bits (R33): n lines from a line on. -/
def Mem.clearLines (m : Mem) (first n : Nat) : Mem :=
  { m with
    bytes := m.bytes.filter (fun p => !(decide (first * 64 ≤ p.1) && decide (p.1 < (first + n) * 64))),
    poisonW := m.poisonW.filter (fun p => !(decide (first * 16 ≤ p.1) && decide (p.1 < (first + n) * 16)))
    owner := m.owner.filter (fun p => !(decide (first ≤ p.1) && decide (p.1 < first + n))) }

end Sys2Proof.Machine
end

