-- ==== Sys2Proof/Machine/Msgs.lean ====
section
/-! DEFINITION. The coherence messages as they travel: TYPE codes, channels, lengths, and the common header (03: R91 to R93). -/

namespace Sys2Proof.Machine

/-- The line a request names: that of its address's canonical form (R54, R92). -/
def reqLine (m : ReqMsg) : Nat := canonical m.addr / 64

/-- The four channels (R91). -/
inductive Channel where
  | req | snp | rsp | dat
  deriving DecidableEq, Repr

/-- The TYPE codes of the messages on REQ (R93). -/
def reqCode : ReqTy → Nat
  | .getS => 0x01
  | .getSW => 0x02
  | .getM => 0x03
  | .putS => 0x04
  | .putE => 0x05
  | .putM => 0x06
  | .rdNC => 0x08
  | .wrNC => 0x09
  | .atomNC => 0x0A

/-- The TYPE codes of the other messages (R93). -/
def msgCode : MsgTy → Nat
  | .snpFwdS => 0x10
  | .snpFwdM => 0x11
  | .snpFwdRd => 0x12
  | .snpInv => 0x13
  | .snpAck => 0x20
  | .snpData => 0x21
  | .compAck => 0x22
  | .putAck => 0x23
  | .putAckStale => 0x24
  | .gntE => 0x25
  | .dataS => 0x30
  | .dataE => 0x31
  | .dataM => 0x32
  | .rdData => 0x33
  | .ncDone => 0x34

/-- The channel of a message; a GntE travels on DAT when data follows, an NcDone when it returns an old value (R93). -/
def msgChannel (ty : MsgTy) (data : Bool) : Channel :=
  match ty with
  | .snpFwdS | .snpFwdM | .snpFwdRd | .snpInv => .snp
  | .snpAck | .compAck | .putAck | .putAckStale => .rsp
  | .gntE | .ncDone => if data then .dat else .rsp
  | .snpData | .dataS | .dataE | .dataM | .rdData => .dat

/-- The bits of the fields after the header of a request (R93). -/
def reqBits : ReqTy → Nat
  | .getS | .getSW | .getM | .putS | .putE | .rdNC => 0
  | .putM => 512 + 1
  | .wrNC => 512 + 64 + 1
  | .atomNC => 4 + 1 + 6 + 64 + 64

/-- The bits of the fields after the header of another message; data says whether a GntE's data or an NcDone's old value
follows (R93). -/
def msgBits (ty : MsgTy) (data : Bool) : Nat :=
  match ty with
  | .snpFwdS | .snpFwdM => 8 + 9
  | .snpFwdRd | .snpAck | .compAck | .putAck | .putAckStale => 0
  | .snpInv => 2
  | .snpData | .dataM => 1 + 1 + 512
  | .gntE => if data then 1 + 512 + 1 else 1 + 1
  | .dataS | .dataE | .rdData => 1 + 512
  | .ncDone => if data then 8 + 64 else 8

/-- The bytes a request takes. -/
def reqBytes (ty : ReqTy) : Nat := ceilDiv (96 + reqBits ty) 8
/-- The bytes another message takes. -/
def msgBytes (ty : MsgTy) (data : Bool) : Nat := ceilDiv (96 + msgBits ty data) 8

/-- The common header (R92). -/
def header (ty src dst txn cls line : Nat) : BitVec 96 :=
  BitVec.ofNat 6 ty ++ BitVec.ofNat 8 src ++ BitVec.ofNat 8 dst ++ BitVec.ofNat 9 txn ++ BitVec.ofNat 3 cls ++
  BitVec.ofNat 20 0 ++ BitVec.ofNat 42 line

/-- The header of a request to its home (R92). -/
def reqHeader (m : ReqMsg) : BitVec 96 :=
  header (reqCode m.ty) m.src.val (240 + homeOf (reqLine m)) m.txn.val m.cls.val (reqLine m)

/-- The header of another message (R92). -/
def msgHeader (m : Msg) : BitVec 96 := header (msgCode m.ty) m.src m.dst m.txn m.cls m.line

end Sys2Proof.Machine
end

