-- ==== Sys2Proof/Machine/Traffic.lean ====
section
/-! DEFINITION. Places in the package, routes of the fabric, and what traffic asks of the budgeted resources on its way (01: R13
to R15, R23, R35 to R41; 03: R101, R625). -/

namespace Sys2Proof.Machine

/-! ## Places and routes -/

/-- The mesh distance of two regions (R13, R15). -/
def meshHops (a b : Nat) : Nat := (max (a % 4) (b % 4) - min (a % 4) (b % 4)) + (max (a / 4) (b / 4) - min (a / 4) (b / 4))

/-- Where an agent sits: a region, or a host-complex die above 12 (R13, R17). -/
def agentPlace (a : Nat) : Nat :=
  if a < 96 then a / 8 else if a < 112 then 12 + (a - 96) / 8 else if a < 124 then a - 112 else 12 + (a - 124)

/-- Where a requester or home sits, by its code (R52, R92, R625): regions 0 to 11, host-complex dies 12 and 13. -/
def siteOf (code : Nat) : Nat :=
  if code < 126 then agentPlace code
  else if code < 132 then 13
  else if code < 164 then 12 + (code - 132) / 16
  else if code < 188 then (code - 164) / 2
  else if code < 200 then code - 188
  else if code < 212 then code - 200
  else if 240 ≤ code ∧ code < 252 then code - 240
  else 13

/-- The attachment region nearer to a region, of a host-complex die; a tie goes to the lower one (R13, R15). -/
def attachment (die r : Nat) : Nat := if meshHops (2 * die + 1) r < meshHops (2 * die) r then 2 * die + 1 else 2 * die

/-- The hops from a host-complex die to a region, through the nearer attachment region (R15). -/
def dieHops (die r : Nat) : Nat := 1 + meshHops (attachment die r) r

/-- The egress ports on the way from region a to region b, as numbers r × 4 + d: along x first, then along y (R15, R35). -/
def meshRoute (a b : Nat) : List Nat :=
  let row := a / 4 * 4
  let xs := if a % 4 ≤ b % 4 then (List.range (b % 4 - a % 4)).map (fun i => (row + a % 4 + i) * 4)
    else (List.range (a % 4 - b % 4)).map (fun i => (row + a % 4 - i) * 4 + 1)
  let ys := if a / 4 ≤ b / 4 then (List.range (b / 4 - a / 4)).map (fun i => ((a / 4 + i) * 4 + b % 4) * 4 + 2)
    else (List.range (a / 4 - b / 4)).map (fun i => ((a / 4 - i) * 4 + b % 4) * 4 + 3)
  xs ++ ys

/-- The egress ports on the way between two places (R15, R35). Between the two host-complex dies the way leads over regions 1 and
2, the three hops R101 gives the pair (DEDUCED, log entry 17). -/
def route (p q : Nat) : List Nat :=
  if p = q then []
  else if p < 12 then
    if q < 12 then meshRoute p q
    else meshRoute p (attachment (q - 12) p) ++ [attachment (q - 12) p * 4 + 3]
  else if q < 12 then (48 + attachment (p - 12) q) :: meshRoute (attachment (p - 12) q) q
  else
    let a := if p = 12 then 1 else 2
    let b := if q = 12 then 1 else 2
    (48 + a) :: (meshRoute a b ++ [b * 4 + 3])

/-- Where an address's data stands: a region, none for registers and unmapped addresses. -/
def Place.site : Place → Option Nat
  | .near r => some r
  | .far f => some f
  | .cellStore c => some (c / 128)
  | .blockStore b => some (b / 8)
  | _ => none

/-! ## What traffic asks of its resources -/

/-- Who moves bytes: a requester code (R52), and for a cell its slot, by which its block's arbiter takes turns (R23). -/
structure Mover where
  code : Nat
  cell : Option Nat := none
  deriving DecidableEq, Repr

/-- An executor as a mover: a cell's accesses are its block's (R52). -/
def moverOf (x : Executor) : Mover :=
  match x with
  | .seq r => ⟨112 + r.val, none⟩
  | .cell c => ⟨c.block.val, some c.slot⟩

/-- The class of a requester that names none (R36): OPERAND for cells, MGMT for sequencers and the Kettle, HOST for host ports
and server cores, INPUT for Colander engines and the input scheduler, COLLECTIVE for collective and link engines, UPDATE for
bank-side units. -/
def defaultClass (code : Nat) : Nat :=
  if code < 96 then 0
  else if code < 112 then 4
  else if code < 125 then 7
  else if code = 125 then 5
  else if code < 132 then 4
  else if code < 164 then 5
  else if code < 188 then 2
  else if code < 200 then 6
  else if code < 212 then 2
  else 7

/-- A class's balance. -/
def Budget.balOf (g : Budget) (n : Nat) : Int := g.bal.getD n 0

/-- Units taken off a class's balance. -/
def Budget.spend (g : Budget) (n c : Nat) : Budget := { g with bal := setAt g.bal n (g.balOf n - (c : Int)) }

/-- Units that BDG_USED will show for a class. -/
def Budget.use (g : Budget) (n c : Nat) : Budget := { g with used := setAt g.used n (g.used.getD n 0 + c) }

/-- Whether budgets are enforced at a resource. -/
def State.budgetOn (s : State) (b : BudgetRes) : Bool := s.flag .BDG_CTRL_ENABLE b.code

/-- The clock domain of a resource: a region, or 12 and 13 for the host-complex dies (R24, R35). -/
def clockOf : BudgetRes → Nat
  | .via r => r.val
  | .far f => f.val
  | .link l => l.region.val
  | .fabric n => if n.val < 48 then n.val / 4 else 12 + (n.val - 48) / 2
  | .pcie _ => 13

/-- More bytes wait at a resource: those of one mover and class that follow one another are held together; they are taken in
requests of at most 64 units (R41). -/
def addAsk (l : List Ask) (a : Ask) : List Ask :=
  match l.getLast? with
  | some b => if b.code = a.code ∧ b.cell = a.cell ∧ b.cls = a.cls then l.dropLast ++ [{ a with bytes := b.bytes + a.bytes }]
      else l ++ [a]
  | none => [a]

/-- Traffic reaches a resource: its FCLK runs (R25), and the bytes wait there for their grant (R39). What they do elsewhere has
happened at once: the model holds no command back for its budget (DESIGN CHOICE, log entry 17). -/
def State.ask (s : State) (m : Mover) (cls bytes : Nat) (res : BudgetRes) : State :=
  let s := s.startFclk (clockOf res)
  if bytes = 0 then s
  else
    let g := s.budget res
    s.setBudget res { g with asks := addAsk g.asks ⟨m.code, m.cell, cls % 8, bytes⟩ }

/-- Traffic that is charged but never held (R37). It counts in BDG_USED and is no grant that ends a run of R45 (DESIGN CHOICE,
log entry 17). -/
def State.owe (s : State) (cls bytes : Nat) (res : BudgetRes) : State :=
  let s := s.startFclk (clockOf res)
  let g := s.budget res
  let c := ceilDiv bytes 64
  s.setBudget res (if s.budgetOn res then (g.spend (cls % 8) c).use (cls % 8) c else g.use (cls % 8) c)

/-- The resource of a memory place: the region's via bundle or the far channel (R35). -/
def memRes : Place → List BudgetRes
  | .near r => [.via (Fin.ofNat 12 r)]
  | .far f => [.far (Fin.ofNat 12 f)]
  | _ => []

/-- The fabric ports between two places as resources. -/
def routeRes (p q : Nat) : List BudgetRes := (route p q).map (fun n => .fabric (Fin.ofNat 52 n))

/-- A message of a requester crosses the fabric and waits for its grants (R36). -/
def State.askRoute (s : State) (m : Mover) (cls bytes p q : Nat) : State :=
  (routeRes p q).foldl (fun s res => s.ask m cls bytes res) s

/-- A message of R37 crosses the fabric. -/
def State.oweRoute (s : State) (cls bytes p q : Nat) : State := (routeRes p q).foldl (fun s res => s.owe cls bytes res) s

/-- The parts of a range between multiples of g. -/
def pieces (g a n : Nat) : List (Nat × Nat) :=
  if n = 0 then [] else (List.range ((a + n - 1) / g - a / g + 1)).map (fun k =>
    let lo := max a ((a / g + k) * g)
    let hi := min (a + n) ((a / g + k) * g + g)
    (lo, hi - lo))

/-- Bytes move between a requester and memory (R35, R36): over the via bundle or far channel of their place, and over every
fabric port on the way, in one class. A range of the interleave view goes granule by granule (R55). -/
def State.haul (s : State) (m : Mover) (cls a n : Nat) (write : Bool) : State :=
  (pieces (if canonical a = a then 2 ^ 36 else 4096) a n).foldl (fun (s : State) p =>
    let pl := s.place (canonical p.1)
    match pl.site with
    | none => s
    | some q =>
      let way := if write then routeRes (siteOf m.code) q else routeRes q (siteOf m.code)
      (memRes pl ++ way).foldl (fun s res => s.ask m cls p.2 res) (s.startFclk q)) s

end Sys2Proof.Machine
end

