-- ==== Sys2Proof/Machine/CohOps.lean ====
section
/-! DEFINITION. Coherence: directory and cache lookups, the atomic operations, and the accesses of engines and executors
performed whole, with the end states that R94, R97 and R98 give (03). -/

namespace Sys2Proof.Machine

/-- The line an agent holds. -/
def State.cached (s : State) (a line : Nat) : Option CLine := Tbl.find? s.coh.cache (pk a line)
/-- Installs or changes a line in a cache. -/
def State.setCached (s : State) (a line : Nat) (c : CLine) : State :=
  s.setCoh { s.coh with cache := Tbl.insert s.coh.cache (pk a line) { c with agent := a, line := line } }
/-- Takes a line out of a cache. -/
def State.dropCached (s : State) (a line : Nat) : State := s.setCoh { s.coh with cache := Tbl.erase s.coh.cache (pk a line) }
/-- An agent's open request for a line. -/
def State.missOf (s : State) (a line : Nat) : Option Miss := Tbl.find? s.coh.miss (pk a line)
/-- Opens or changes an agent's request for a line. -/
def State.setMiss (s : State) (a line : Nat) (m : Miss) : State :=
  s.setCoh { s.coh with miss := Tbl.insert s.coh.miss (pk a line) { m with agent := a } }
/-- Closes an agent's request for a line. -/
def State.dropMiss (s : State) (a line : Nat) : State := s.setCoh { s.coh with miss := Tbl.erase s.coh.miss (pk a line) }
/-- An agent's writeback-buffer entry for a line. -/
def State.wbOf (s : State) (a line : Nat) : Option WbEntry := Tbl.find? s.coh.wb (pk a line)
/-- Fills or changes a writeback-buffer entry. -/
def State.setWb (s : State) (a line : Nat) (w : WbEntry) : State :=
  s.setCoh { s.coh with wb := Tbl.insert s.coh.wb (pk a line) w }
/-- Frees a writeback-buffer entry. -/
def State.dropWb (s : State) (a line : Nat) : State := s.setCoh { s.coh with wb := Tbl.erase s.coh.wb (pk a line) }
/-- The directory entry of a line. -/
def State.dirOf (s : State) (line : Nat) : Option DirEntry := Tbl.find? s.coh.dir line
/-- Writes a line's directory entry, or frees it when no holder remains. -/
def State.setDir (s : State) (line : Nat) (d : Option DirEntry) : State :=
  match d with
  | some e => if e.sharers = 0 then s.setCoh { s.coh with dir := Tbl.erase s.coh.dir line }
              else s.setCoh { s.coh with dir := Tbl.insert s.coh.dir line e }
  | none => s.setCoh { s.coh with dir := Tbl.erase s.coh.dir line }
/-- Allocates a line's directory entry while its transaction goes on: it has no holder yet (R83). -/
def State.allocDir (s : State) (line stamp : Nat) : State :=
  s.setCoh { s.coh with dir := Tbl.insert s.coh.dir line ⟨false, 0, stamp⟩ }
/-- The transaction that holds a line Busy. -/
def State.txnOf (s : State) (line : Nat) : Option HomeTxn := Tbl.find? s.coh.txns line
/-- Writes a transaction-table entry. -/
def State.setTxn (s : State) (line : Nat) (t : HomeTxn) : State :=
  s.setCoh { s.coh with txns := Tbl.insert s.coh.txns line t }
/-- Frees a transaction-table entry. -/
def State.dropTxn (s : State) (line : Nat) : State := s.setCoh { s.coh with txns := Tbl.erase s.coh.txns line }
/-- The requests waiting at a home, in the order it accepted them (R86). -/
def State.reqsAt (s : State) (r : Nat) : List ReqMsg := Tbl.get s.coh.reqs [] r
/-- Replaces the requests waiting at a home. -/
def State.setReqs (s : State) (r : Nat) (l : List ReqMsg) : State :=
  s.setCoh { s.coh with reqs := Tbl.set s.coh.reqs [] r l }
/-- Puts a message in flight. Its bytes are charged to its class at every fabric port on its way (R37), and the clocks at both
ends run (R25). -/
def State.send (s : State) (m : Msg) : State :=
  let s := (s.startFclk (siteOf m.src)).startFclk (siteOf m.dst)
  let s := s.oweRoute m.cls (msgBytes m.ty m.flag) (siteOf m.src) (siteOf m.dst)
  s.setCoh { s.coh with net := s.coh.net ++ [m] }
/-- Takes a message out of flight: the oldest one that a test picks, when no older message of its source to its destination is
still under way (R15). -/
def State.deliver (s : State) (want : Msg → Bool) : Option (Msg × State) :=
  match s.coh.net.find? want with
  | some m =>
    if s.coh.net.find? (fun o => o.src == m.src && o.dst == m.dst) = some m then
      some (m, s.setCoh { s.coh with net := s.coh.net.erase m })
    else none
  | none => none
/-- Takes the message of a type for a destination and a line out of flight. -/
def State.recv (s : State) (ty : MsgTy) (dst line : Nat) : Option (Msg × State) :=
  s.deliver (fun m => decide (m.ty = ty) && m.dst == dst && m.line == line)

/-- The agents of a sharer vector, in ascending order. -/
def holders (v : BitVec 128) : List Nat := (List.range 128).filter (fun i => v.getLsbD i)
/-- A sharer vector with one agent. -/
def oneHot (a : Nat) : BitVec 128 := BitVec.ofNat 128 (2 ^ a)

/-- Whether a line is Busy: a transaction covers it, it is the victim of one (R84), or its chunk is held (R190). -/
def State.busy (s : State) (line : Nat) : Bool :=
  (s.txnOf line).isSome ||
  s.coh.txns.any (fun t => decide (t.2.victim = some line)) ||
  s.coh.chunks.any (fun c => c.chunk == line / 64)

/-- The set of R82 a line falls in, within its home. -/
def dirSet (line : Nat) : Nat :=
  let key := if isFar line then 2 ^ 33 + (line - 0x100000000000 / 64) % (0x8000000000 / 64) else line % (0x1000000000 / 64)
  key % 49152

/-- The hop count H[i][j] as home r's hop table holds it (R101). -/
def State.hop (s : State) (r i j : Nat) : Nat :=
  let m := i * 128 + j
  bitsOf (s.fld .DIR_HOP_HOPS r (m / 8)) (4 * (m % 8)) 4

/-- The nearest of some holders to an agent by home r's hop table, ties to the lowest number (R100). The values of R101 are the
same both ways; for a table written otherwise the spec does not say which index is the holder's, and the model takes
H[holder][requester] (DESIGN CHOICE, log entry 81). -/
def State.nearest (s : State) (r target : Nat) : List Nat → Option Nat
  | [] => none
  | a :: t =>
    match s.nearest r target t with
    | none => some a
    | some b => if s.hop r b target < s.hop r a target then some b else some a

/-- Whether any word of a line is poison. -/
def anyPoison (p : BitVec 16) : Bool := decide (p ≠ 0)

/-- What an agent's copy of a line holds, in its cache or its writeback buffer. -/
def State.copyOf (s : State) (a line : Nat) : Option (Line × BitVec 16) :=
  match s.cached a line with
  | some c => some (c.data, c.poison)
  | none =>
    match s.wbOf a line with
    | some w => some (w.data, w.poison)
    | none => none

/-- The line as a non-caching read at its home finds it: from the owner or the sharer nearest the home when it is held,
else from memory (R97, R100). -/
def State.cohLine (s : State) (line : Nat) : Line × BitVec 16 :=
  let fromMem := (s.mem.line line, s.mem.poison line)
  match s.dirOf line with
  | none => fromMem
  | some e =>
    match s.nearest (homeOf line) (112 + homeOf line) (holders e.sharers) with
    | none => fromMem
    | some a => (s.copyOf a line).getD fromMem

/-- Wakes a watcher: the wake names the line and clears the watch (R107). Executors that sleep on the line go round
their loop again (R311). -/
def State.wake (s : State) (a line : Nat) : State :=
  let wakeExec (s : State) (x : Executor) : State :=
    let e := s.exe x
    match e.watch with
    | some w => if canonical w.addr / 64 = line then s.setExe x { e with watch := some { w with woken := true } } else s
    | none => s
  let s := s.setCoh { s.coh with wakes := s.coh.wakes ++ [(a, line)] }
  if a < 96 then
    s.forEach (List.range 16) (fun s k => if h : a * 16 + k < 1536 then wakeExec s (.cell ⟨a * 16 + k, h⟩) else s)
  else if h : 112 ≤ a ∧ a < 124 then wakeExec s (.seq ⟨a - 112, by omega⟩)
  else s

/-- An agent's copy leaves its cache or loses ownership: a watch on it wakes (R107). -/
def State.loseLine (s : State) (a line : Nat) : State :=
  match s.cached a line with
  | some c => (s.dropCached a line).iff c.watched (fun s => s.wake a line)
  | none => s

/-- The clock of an agent starts for a snoop that is performed whole (R25, R29, R110): a block in GATED comes to RUN, the region's
FCLK or the cluster's HCLK runs. -/
def State.rouse (s : State) (a : Nat) : State :=
  let s := if a < 96 then
      (if s.blkState a = .gated then (s.setFld .BLK_PWR_STATE a 0).setBlk a
        { s.blk a with waking := false, moving := if (s.blk a).moving = some 1 then none else (s.blk a).moving } else s)
    else if a < 112 then s.startHclk (a - 96) else s
  s.startFclk (siteOf a)

/-- The messages of a snoop performed whole: what the home sends to an agent and what the agent answers, charged to the class of
the request that caused them (R37). -/
def State.oweSnoop (s : State) (cls line a : Nat) (snp answer : Nat) : State :=
  let h := homeOf line
  (s.oweRoute cls snp h (siteOf a)).oweRoute cls answer (siteOf a) h

/-- What a snooped holder must write back: a modified line, or a dirty writeback-buffer entry (R94). -/
def State.dirtyCopy (s : State) (a line : Nat) : Option (Line × Bool) :=
  match s.cached a line with
  | some c => if c.st = CState.m then some (c.data, anyPoison c.poison) else none
  | none =>
    match s.wbOf a line with
    | some w => if w.dirty then some (w.data, anyPoison w.poison) else none
    | none => none

/-- A home's access of 64 bytes of memory asks the via bundle or far channel for them, in the class of its request (R36). -/
def State.askMem (s : State) (cls line : Nat) : State :=
  (memRes (s.place (line * 64))).foldl (fun s res => s.ask ⟨240 + homeOf line, none⟩ cls 64 res) s

/-- Writes a whole line back to memory; any poison word poisons the whole line (R627). -/
def State.writeBack (s : State) (cls line : Nat) (d : Line) (poison : Bool) : State :=
  (s.askMem cls line).memWrite line ⟨fullMask, d, poison⟩

/-- SnpInv at one holder, performed whole: dirty data goes back to memory, the copy is dropped, a buffer entry becomes
clean, an upgrade in progress falls back to IM (R94). -/
def State.invalidateAt (s : State) (cls line a : Nat) : State :=
  let dirty := s.dirtyCopy a line
  let s := (s.rouse a).oweSnoop cls line a (msgBytes .snpInv false)
    (if dirty.isSome then msgBytes .snpData false else msgBytes .snpAck false)
  let s := match dirty with
    | some (d, p) => s.writeBack cls line d p
    | none => s
  let s := match s.wbOf a line with
    | some w => s.setWb a line { w with dirty := false }
    | none => s
  let s := match s.missOf a line with
    | some m => if m.st = TState.sm then s.setMiss a line { m with st := TState.im } else s
    | none => s
  s.loseLine a line

/-- Every holder of a line invalidated and its directory entry freed. -/
def State.invalidateAll (s : State) (cls line : Nat) : State :=
  match s.dirOf line with
  | none => s
  | some e => ((holders e.sharers).foldl (fun s a => s.invalidateAt cls line a) s).setDir line none

/-- A non-caching write at the home, performed whole: holders invalidated, dirty data merged under it (R97, R99). -/
def State.ncWrite (s : State) (cls line : Nat) (w : LineWrite) : State := (s.invalidateAll cls line).memWrite line w

/-- FP32 addition of an atomic (R103) is given by the number-format chapter; it is passed in. -/
abbrev Fadd := Nat → Nat → Nat

/-- The new value of an atomic's target word (R102, R104), for a word of w bits. -/
def atomValue (fadd : Fadd) (w : Nat) (op : AtomOp) (old a b : Nat) : Nat :=
  match op with
  | .add => (old + a) % 2 ^ w
  | .smin => if signedOf w a < signedOf w old then a else old
  | .smax => if signedOf w old < signedOf w a then a else old
  | .umin => min old a
  | .umax => max old a
  | .swap => a
  | .cas => if old = a then b else old
  | .fadd32 => fadd old a
  | .and => old &&& a
  | .or => old ||| a
  | .xor => old ^^^ a

/-- The bits of an atomic's operands and target. -/
def atomBits (x : Atom) : Nat := if x.wide then 64 else 32

/-- The old value of an atomic's target in a line. -/
def atomOld (x : Atom) (d : Line) : Nat := (d.extractLsb' (8 * x.off.val) (atomBits x)).toNat

/-- Whether an atomic's target bytes include a poison word (R626). -/
def atomPoison (x : Atom) (p : BitVec 16) : Bool :=
  p.getLsbD (x.off.val / 4) || (x.wide && p.getLsbD (x.off.val / 4 + 1))

/-- The write an atomic makes to its line. -/
def atomWrite (fadd : Fadd) (x : Atom) (d : Line) : LineWrite :=
  let old := atomOld x d
  let new := atomValue fadd (atomBits x) x.op old (x.a.toNat % 2 ^ (atomBits x)) (x.b.toNat % 2 ^ (atomBits x))
  ⟨byteMask x.off.val ((atomBits x) / 8), BitVec.ofNat 512 (new <<< (8 * x.off.val)), false⟩

/-- An atomic at the home's atomic unit, performed whole (R97, R104, R626): holders are invalidated and their dirty data
written first; a poisoned target is left alone. -/
def State.ncAtomic (fadd : Fadd) (s : State) (cls line : Nat) (x : Atom) : State × Option Nat :=
  let s := (s.invalidateAll cls line).startFclk (homeOf line)
  let d := s.mem.line line
  if atomPoison x (s.mem.poison line) then (s, none)
  else (s.memWrite line (atomWrite fadd x d), some (atomOld x d))

/-- The ways of a cache set and the set of a line: a block cache has 2,048 sets of 16 ways (R185); the organisation of the
other caches is not laid down and each counts as one set of its capacity (R77). -/
def cacheSet (a line : Nat) : Nat × Nat :=
  if a < 96 then (line % 2048, 16)
  else if a < 112 then (0, 65536)
  else if a < 124 then (0, 1024)
  else if a = 124 then (0, 1024)
  else (0, 4096)

/-- The writeback-buffer entries of an agent (R77). -/
def wbEntries (a : Nat) : Nat := if a < 112 then 32 else if a = 124 then 4 else 8

/-- The watched lines an agent may hold (R77). -/
def watchLimit (a : Nat) : Nat := if a < 96 then 32 else if a < 124 then 64 else if a = 124 then 16 else 32

/-- The outstanding requests an agent may have (R77). -/
def missLimit (a : Nat) : Nat := if a < 112 then 128 else if a = 124 then 8 else 32

/-- The requests an agent has outstanding: its misses and its non-caching requests (R77, R79). -/
def State.missCount (s : State) (a : Nat) : Nat :=
  (s.coh.miss.filter (fun p => p.2.agent == a)).length + (s.coh.ncOpen.filter (fun o => o.req == a)).length

/-- The lines an agent holds, with their entries. -/
def State.linesOf (s : State) (a : Nat) : List (Nat × CLine) :=
  (s.coh.cache.filter (fun e => e.2.agent == a)).map (fun e => (e.2.line, e.2))

/-- The writeback-buffer entries an agent has in use. -/
def State.wbCount (s : State) (a : Nat) : Nat := (s.coh.wb.filter (fun e => e.2.agent == a)).length

/-- The watched lines an agent holds. -/
def State.watchCount (s : State) (a : Nat) : Nat := ((s.linesOf a).filter (fun p => p.2.watched)).length

/-- The least recently used of some lines. -/
def lru : List (Nat × CLine) → Option Nat
  | [] => none
  | (l, c) :: t =>
    match lru t with
    | none => some l
    | some m =>
      match (t.find? (fun p => p.1 == m)) with
      | some (_, d) => if d.used < c.used then some m else some l
      | none => some l

/-- The line to evict so that an agent can install another: none while its set has a free way; otherwise the least
recently used line, a watched one only when every way is watched (R109, R185). -/
def State.victimFor (s : State) (a line : Nat) : Option Nat :=
  let (set, ways) := cacheSet a line
  let here := (s.linesOf a).filter (fun p => (cacheSet a p.1).1 == set && p.1 != line)
  if here.length < ways then none
  else
    let plain := here.filter (fun p => !p.2.watched)
    lru (if plain.isEmpty then here else plain)

/-- A line put back to its home whole: the Put is sent in a class (R37), judged and acknowledged (R94, R97). -/
def State.putBack (s : State) (cls a line : Nat) : State :=
  let dirty := s.dirtyCopy a line
  let s := (s.askRoute ⟨a, none⟩ cls (if dirty.isSome then reqBytes .putM else reqBytes .putS) (siteOf a) (homeOf line)).oweRoute
    cls (msgBytes .putAck false) (homeOf line) (siteOf a)
  let s := match dirty with
    | some (d, p) => s.writeBack cls line d p
    | none => s
  let s := s.loseLine a line
  match s.dirOf line with
  | some e => s.setDir line (some { e with sharers := e.sharers &&& ~~~ (oneHot a) })
  | none => s

/-- The directory entries of a line's home and set. -/
def State.dirWays (s : State) (line : Nat) : List (Nat × DirEntry) :=
  s.coh.dir.filter (fun e => homeOf e.1 == homeOf line && dirSet e.1 == dirSet line && e.1 != line)

/-- The oldest allocation among some directory entries that are not Busy (R84). -/
def State.oldestWay (s : State) : List (Nat × DirEntry) → Option Nat
  | [] => none
  | (l, e) :: t =>
    match s.oldestWay t with
    | none => if s.busy l then none else some l
    | some m =>
      if s.busy l then some m
      else match s.dirOf m with
        | some f => if f.stamp < e.stamp then some m else some l
        | none => some l

/-- A free way for a new entry, by back-invalidation of the oldest when the set is full (R84). -/
def State.makeWay (s : State) (cls line : Nat) : State :=
  let ways := s.dirWays line
  if ways.length < 16 then s
  else match s.oldestWay ways with
    | some v => (s.invalidateAll cls v).bump .DIR_BINV_CNT_COUNT (homeOf line)
    | none => s

/-- A fresh allocation moment. -/
def State.stampNext (s : State) : State := s.setCoh { s.coh with stamp := s.coh.stamp + 1 }

/-- Installs a line in a cache after any eviction it needs. -/
def State.install (s : State) (cls a line : Nat) (c : CLine) : State :=
  let s := match s.victimFor a line with
    | some v => s.putBack cls a v
    | none => s
  let s := s.stampNext
  s.setCached a line { c with used := s.coh.stamp }

/-- A line marked used now. -/
def State.touch (s : State) (a line : Nat) : State :=
  match s.cached a line with
  | some c => let s := s.stampNext; s.setCached a line { c with used := s.coh.stamp }
  | none => s

/-- The words of a line that all count as poison once it passed through a message (R112). -/
def widen (p : BitVec 16) : BitVec 16 := if anyPoison p then BitVec.allOnes 16 else 0

/-- The messages of a fill performed whole: the request, the data from the holder that has it or from memory, and the CompAck
(R36, R37). -/
def State.fillCost (s : State) (m : Mover) (cls line : Nat) (src : Option Nat) : State :=
  let h := homeOf line
  let p := siteOf m.code
  let s := ((s.startFclk h).rouse m.code).askRoute m cls (reqBytes .getS) p h
  let s := match src with
    | some b => (((s.rouse b).oweRoute cls (msgBytes .snpFwdS false) h (siteOf b)).oweRoute cls (msgBytes .dataS false) (siteOf b) p).oweRoute
        cls (msgBytes .snpAck false) (siteOf b) h
    | none => (s.askMem cls line).oweRoute cls (msgBytes .dataE false) h p
  s.oweRoute cls (msgBytes .compAck false) p h

/-- A line brought into an agent's cache for reading, whole (GetS and GetSW of R97): alone it comes in E, for a watch in
S; otherwise from the nearest holder, whose modified copy goes back to memory. -/
def State.fillShared (s : State) (m : Mover) (cls line : Nat) (forWatch : Bool) : State :=
  let a := m.code
  match s.cached a line with
  | some _ => s.touch a line
  | none =>
    match s.dirOf line with
    | none =>
      let s := ((s.fillCost m cls line none).makeWay cls line).stampNext
      let s := s.install cls a line { st := if forWatch then .s else .e, data := s.mem.line line, poison := widen (s.mem.poison line) }
      s.setDir line (some ⟨!forWatch, oneHot a, s.coh.stamp⟩)
    | some e =>
      let src := (s.nearest (homeOf line) a (holders e.sharers)).getD 0
      let s := s.fillCost m cls line (some src)
      let (d, p) := (s.copyOf src line).getD (s.mem.line line, s.mem.poison line)
      let s := match s.dirtyCopy src line with
        | some (d, p) => s.writeBack cls line d p
        | none => s
      let s := match s.cached src line with
        | some c => s.setCached src line { c with st := .s }
        | none => s
      let s := match s.wbOf src line with
        | some w => s.setWb src line { w with dirty := false }
        | none => s
      let s := s.install cls a line { st := .s, data := d, poison := widen p }
      match s.dirOf line with
      | some e => s.setDir line (some { e with excl := false, sharers := e.sharers ||| oneHot a })
      | none => s.setDir line (some ⟨false, oneHot a, s.coh.stamp⟩)

/-- A line brought into an agent's cache in M, whole (GetM of R97): every other copy is given up. -/
def State.fillOwned (s : State) (m : Mover) (cls line : Nat) : State :=
  let a := m.code
  match s.cached a line with
  | some c =>
    if c.st = CState.s then
      let others := match s.dirOf line with
        | some e => (holders e.sharers).filter (· != a)
        | none => []
      let s := ((s.startFclk (homeOf line)).askRoute m cls (reqBytes .getM) (siteOf a) (homeOf line)).oweSnoop cls line a
        (msgBytes .gntE false) (msgBytes .compAck false)
      let s := others.foldl (fun s b => s.invalidateAt cls line b) s
      let s := (s.setCached a line { c with st := .m }).touch a line
      match s.dirOf line with
      | some e => s.setDir line (some { e with excl := true, sharers := oneHot a })
      | none => s.setDir line (some ⟨true, oneHot a, s.coh.stamp⟩)
    else (s.setCached a line { c with st := .m }).touch a line
  | none =>
    match s.dirOf line with
    | none =>
      let s := ((s.fillCost m cls line none).makeWay cls line).stampNext
      let s := s.install cls a line { st := .m, data := s.mem.line line, poison := widen (s.mem.poison line) }
      s.setDir line (some ⟨true, oneHot a, s.coh.stamp⟩)
    | some e =>
      let src := (s.nearest (homeOf line) a (holders e.sharers)).getD 0
      let s := s.fillCost m cls line (some src)
      let (d, p) := (s.copyOf src line).getD (s.mem.line line, s.mem.poison line)
      let stamp := e.stamp
      let s := (holders e.sharers).foldl (fun s b =>
        let s := if b = src then s else (s.rouse b).oweSnoop cls line b (msgBytes .snpInv false) (msgBytes .snpAck false)
        let s := match s.wbOf b line with
          | some w => s.setWb b line { w with dirty := false }
          | none => s
        let s := match s.missOf b line with
          | some m => if m.st = TState.sm then s.setMiss b line { m with st := TState.im } else s
          | none => s
        s.loseLine b line) s
      let s := s.install cls a line { st := .m, data := d, poison := widen p }
      s.setDir line (some ⟨true, oneHot a, stamp⟩)

/-- Whether a line has a directory entry or can get one: a set whose ways are all Busy makes the request wait (R84). -/
def State.wayReady (s : State) (line : Nat) : Bool :=
  let ways := s.dirWays line
  (s.dirOf line).isSome || decide (ways.length < 16) || (s.oldestWay ways).isSome

/-- Whether an agent can evict a line now: no transaction is under way for it, and a writeback-buffer entry is free (R94,
R95). -/
def State.evictable (s : State) (a line : Nat) : Bool :=
  !s.busy line && (s.missOf a line).isNone && (s.wbOf a line).isNone && decide (s.wbCount a < wbEntries a)

/-- Whether an agent has a non-caching request open for a line (R90). -/
def State.ncOpenFor (s : State) (a line : Nat) : Bool := s.coh.ncOpen.any (fun o => o.req == a && o.line == line)

/-- Whether an agent can take up a line now: it is not Busy, the agent has no open request and no writeback waiting for it, its
home has an entry for it, and a line that has to make room can be evicted (R84, R88, R90, R95). -/
def State.lineReady (s : State) (a line : Nat) : Bool :=
  !s.busy line && (s.missOf a line).isNone && (s.wbOf a line).isNone && !s.ncOpenFor a line && s.wayReady line &&
  ((s.cached a line).isSome || (match s.victimFor a line with
    | some v => s.evictable a v
    | none => true))

/-- A store into a line held in M (R94). -/
def State.storeCached (s : State) (a line : Nat) (w : LineWrite) : State :=
  match s.cached a line with
  | some c => s.setCached a line { c with st := .m, data := mergeLine c.data w.data w.mask,
                                          poison := poisonAfter c.poison w.mask w.poison }
  | none => s

/-- What an access returns: bytes, and the DETAIL of R251 when it failed (0 when it did not). -/
structure Got where
  bytes : List Byte
  detail : Nat
  deriving DecidableEq, Repr

/-- The lower of two DETAIL values, 0 meaning none (R250). -/
def worseDetail (a b : Nat) : Nat := if a = 0 then b else if b = 0 then a else min a b

/-- The lines a range of n bytes from a touches. -/
def linesOfRange (a n : Nat) : List Nat :=
  if n = 0 then [] else (List.range ((a + n - 1) / 64 - a / 64 + 1)).map (a / 64 + ·)

/-- One part of a range that lies within one line: address and length. -/
def splitRange (a n : Nat) : List (Nat × Nat) :=
  (linesOfRange a n).map (fun l =>
    let lo := max a (l * 64)
    let hi := min (a + n) (l * 64 + 64)
    (lo, hi - lo))

/-- The poison of the words of a store's line: all of them in the store of a slot retired without replacement (R199). -/
def State.storePoison (s : State) (c : Nat) : BitVec 16 :=
  match s.place c with
  | .cellStore k => if (s.blk (k / 16)).gone.contains (k % 16) then BitVec.allOnes 16 else s.mem.wordPoison (c / 64)
  | _ => s.mem.wordPoison (c / 64)

/-- A non-caching read of bytes within one line at a canonical or interleave address: from the home for coherent memory,
straight from a store, zeros with DETAIL 0x03 where R51 refuses, DETAIL 0x02 where it meets poison (R51, R112) or the store
of a slot retired without replacement (R199). -/
def State.readPart (s : State) (a n : Nat) : Got :=
  let c := canonical a
  match s.place c with
  | .near _ | .far _ =>
    let (d, p) := s.cohLine (c / 64)
    ⟨(List.range n).map (fun i => lineByte d (c % 64 + i)), if anyPoison p then 2 else 0⟩
  | .cellStore _ | .blockStore _ =>
    let p := s.storePoison c
    let hit := (List.range n).any (fun i => p.getLsbD ((c % 64 + i) / 4))
    ⟨(List.range n).map (fun i => s.mem.byte (c + i)), if hit then 2 else 0⟩
  | _ => ⟨List.replicate n 0, 3⟩

/-- A non-caching read of any range; parts in different lines are read one by one (R55). -/
def State.readBytes (s : State) (a n : Nat) : Got :=
  (splitRange a n).foldl (fun g p =>
    let h := s.readPart p.1 p.2
    ⟨g.bytes ++ h.bytes, worseDetail g.detail h.detail⟩) ⟨[], 0⟩

/-- Bytes written within one line, whoever writes them; answers the DETAIL of R251 (0x03 where R51 refuses). A block in GATED
wakes for an access to its stores (R60). -/
def State.storePart (s : State) (cls a : Nat) (l : List Byte) (poison : Bool) : State × Nat :=
  let c := canonical a
  let w : LineWrite := ⟨byteMask (c % 64) l.length, BitVec.ofNat 512 (leNat l <<< (8 * (c % 64))), poison⟩
  match s.place c with
  | .near _ | .far _ => (s.ncWrite cls (c / 64) w, 0)
  | .cellStore k =>
    (if (s.blk (k / 16)).gone.contains (k % 16) then s else (s.rouse (k / 16)).memWrite (c / 64) w, 0)
  | .blockStore b => ((s.rouse b).memWrite (c / 64) w, 0)
  | _ => (s, 3)

/-- The executor of a number. -/
def execOf (code : Nat) : Option Executor :=
  if h : code < 12 then some (.seq ⟨code, h⟩)
  else if h : code - 12 < 1536 then some (.cell ⟨code - 12, h⟩) else none

/-- Ranges as parts of lines at their canonical addresses. -/
def canonParts (l : List (Nat × Nat)) : List (Nat × Nat) :=
  (l.flatMap (fun p => splitRange p.1 p.2)).map (fun p => (canonical p.1, p.2))

/-- The bytes that two lists of ranges share. -/
def overlaps (a b : List (Nat × Nat)) : List (Nat × Nat) :=
  (canonParts a).flatMap (fun p => (canonParts b).filterMap (fun q =>
    let lo := max p.1 q.1
    let hi := min (p.1 + p.2) (q.1 + q.2)
    if lo < hi then some (lo, hi - lo) else none))

/-- Undefined bytes, as the next free value has them. -/
def State.freeBytes (s : State) (a n : Nat) : List Byte := (List.range n).map (fun i => Sys2Proof.Config.undefByte s.free (a + i))

/-- The bytes of some ranges take undefined values (R265, R276). -/
def State.undef (s : State) (l : List (Nat × Nat)) : State :=
  if l.isEmpty then s
  else (l.foldl (fun (s : State) p =>
    (splitRange p.1 p.2).foldl (fun (s : State) q => (s.storePart 7 q.1 (s.freeBytes q.1 q.2) false).1) s) s).tick

/-- The bytes among some ranges that an instruction in flight of another executor reads, adds to and writes back (R177, R276). -/
def State.updating (s : State) (m : Mover) (l : List (Nat × Nat)) : List (Nat × Nat) :=
  s.execs.flatMap (fun p => p.2.flights.flatMap (fun f =>
    if f.resid.isEmpty || (execOf p.1).any (fun x => decide (moverOf x = m)) then [] else overlaps f.resid l))

/-- A requester wrote some ranges: the bytes of them that another's instruction is adding to have undefined values (R177, R276). -/
def State.unsettle (s : State) (m : Mover) (l : List (Nat × Nat)) : State := s.undef (s.updating m l)

/-- The bytes a write to a line changes. -/
def writeRanges (w : LineWrite) (line : Nat) : List (Nat × Nat) :=
  ((List.range 64).filter (fun i => w.mask.getLsbD i)).map (fun i => (line * 64 + i, 1))

/-- A non-caching write of bytes within one line by a requester: what it moves is asked for in its class (R36), an address R51
refuses is recorded under its code as issued (R52, R54). -/
def State.writePart (s : State) (m : Mover) (cls a : Nat) (l : List Byte) (poison : Bool) : State × Nat :=
  let r := (s.haul m cls a l.length true).storePart cls a l poison
  (if r.2 = 3 then r.1.refuse m.code a true else r.1.unsettle m [(a, l.length)], r.2)

/-- A non-caching write of any range of bytes. -/
def State.writeBytes (s : State) (m : Mover) (cls a : Nat) (l : List Byte) (poison : Bool := false) : State × Nat :=
  (splitRange a l.length).foldl (fun (acc : State × Nat) p =>
    let r := acc.1.writePart m cls p.1 ((l.drop (p.1 - a)).take p.2) poison
    (r.1, worseDetail acc.2 r.2)) (s, 0)

/-- A store an agent made to a line in its cache met bytes that another's instruction is adding to (R177, R276). -/
def State.unsettleCached (s : State) (m : Mover) (line : Nat) (w : LineWrite) : State :=
  let l := s.updating m (writeRanges w line)
  if l.isEmpty then s
  else (l.foldl (fun (s : State) p => s.storeCached m.code line
    ⟨byteMask (p.1 % 64) p.2, BitVec.ofNat 512 (leNat (s.freeBytes p.1 p.2) <<< (8 * (p.1 % 64))), false⟩) s).tick

/-- The block, and for a local store the slot, that a place in the stores belongs to. -/
def Place.store : Place → Option (Nat × Option Nat)
  | .cellStore c => some (c / 16, some (c % 16))
  | .blockStore b => some (b, none)
  | _ => none

/-- Whether a place can be acted on now: a coherent line is not Busy (R87), a store's block is awake or wakes by itself (R60) and
its slot is not being retired (R198). -/
def State.placeFree (s : State) (c : Nat) : Bool :=
  match s.place c with
  | .near _ | .far _ => !s.busy (c / 64)
  | pl => match pl.store with
    | some (b, slot) => (decide (s.blkState b = .run) || decide (s.blkState b = .gated)) && !(s.blk b).slotStopped slot
    | none => true

/-- Whether every part of a range is free to be acted on. -/
def State.rangeFree (s : State) (a n : Nat) : Bool := (splitRange a n).all (fun p => s.placeFree (canonical p.1))

/-- Whether a range lies wholly in near memory or the populated part of far memory, as rings must (R630). -/
def State.inCoherent (s : State) (a n : Nat) : Bool :=
  (splitRange a n).all (fun p => (s.place (canonical p.1)).coherent)

/-- The parts of a range that R51 refuses are recorded as decode errors of a requester: one for each 64-byte part, since the
device presents an access line by line (DESIGN CHOICE, log entry 82). -/
def State.noteRange (s : State) (agent a n : Nat) (write : Bool) : State :=
  (splitRange a n).foldl (fun (s : State) p =>
    s.iff (!(s.place (canonical p.1)).memory) (fun s => s.refuse agent p.1 write)) s

end Sys2Proof.Machine
end

