-- ==== Sys2Proof/Machine/RingOps.lean ====
section
/-! DEFINITION. Rings: where each ring's registers stand, enabling and disabling, the ring writer, and event records (06:
R228 to R237, R252, R256, R630). -/

namespace Sys2Proof.Machine

/-- The registers of a ring (R228): its EN, OVWR where the ring can be set to overwrite, LOG2N, BASE and CB fields, the
register instance and index, the size of an entry, and whether the device produces its entries. -/
structure RingCfg where
  en : Fld
  ovwr : Option Fld
  log2n : Fld
  base : Fld
  cb : Fld
  inst : Nat
  idx : Nat
  entry : Nat
  device : Bool
  deriving DecidableEq, Repr

/-- The registers of every ring. -/
def ringCfg : RingId → RingCfg
  | .work r n => ⟨.SEQ_WR_BASE_EN, none, .SEQ_WR_BASE_LOG2N, .SEQ_WR_BASE_BASE, .SEQ_WR_CB_CB, r.val, n.val, 64, false⟩
  | .completion r => ⟨.SEQ_CR_BASE_EN, none, .SEQ_CR_BASE_LOG2N, .SEQ_CR_BASE_BASE, .SEQ_CR_CB_CB, r.val, 0, 32, true⟩
  | .schedule r => ⟨.SEQ_ER_BASE_EN, some .SEQ_ER_BASE_OVWR, .SEQ_ER_BASE_LOG2N, .SEQ_ER_BASE_BASE, .SEQ_ER_CB_CB, r.val, 0, 64, true⟩
  | .numeric r => ⟨.NUM_ER_BASE_EN, some .NUM_ER_BASE_OVWR, .NUM_ER_BASE_LOG2N, .NUM_ER_BASE_BASE, .NUM_ER_CB_CB, r.val, 0, 64, true⟩
  | .linkEvent r => ⟨.LNK_ER_BASE_EN, some .LNK_ER_BASE_OVWR, .LNK_ER_BASE_LOG2N, .LNK_ER_BASE_BASE, .LNK_ER_CB_CB, r.val, 0, 64, true⟩
  | .errorLog r => ⟨.RSL_EL_BASE_EN, some .RSL_EL_BASE_OVWR, .RSL_EL_BASE_LOG2N, .RSL_EL_BASE_BASE, .RSL_EL_CB_CB, 0, r.val, 64, true⟩
  | .chipLog => ⟨.RSL_ELC_BASE_EN, some .RSL_ELC_BASE_OVWR, .RSL_ELC_BASE_LOG2N, .RSL_ELC_BASE_BASE, .RSL_ELC_CB_CB, 0, 0, 64, true⟩
  | .jobReport => ⟨.RSL_JR_BASE_EN, none, .RSL_JR_BASE_LOG2N, .RSL_JR_BASE_BASE, .RSL_JR_CB_CB, 0, 0, 64, true⟩
  | .sampleReq n => ⟨.COL_RQ_BASE_EN, none, .COL_RQ_BASE_LOG2N, .COL_RQ_BASE_BASE, .COL_RQ_CB_CB, 0, n.val, 64, false⟩
  | .coreLane => ⟨.COL_CL_BASE_EN, none, .COL_CL_BASE_LOG2N, .COL_CL_BASE_BASE, .COL_CL_CB_CB, 0, 0, 64, true⟩
  | .coreReturn => ⟨.COL_CR_BASE_EN, none, .COL_CR_BASE_LOG2N, .COL_CR_BASE_BASE, .COL_CR_CB_CB, 0, 0, 64, false⟩
  | .hostLane p => ⟨.COL_HL_BASE_EN, none, .COL_HL_BASE_LOG2N, .COL_HL_BASE_BASE, .COL_HL_CB_CB, 0, p.val, 64, true⟩
  | .hostReturn p => ⟨.COL_HR_BASE_EN, none, .COL_HR_BASE_LOG2N, .COL_HR_BASE_BASE, .COL_HR_CB_CB, 0, p.val, 64, false⟩
  | .manifest => ⟨.COL_MF_BASE_EN, none, .COL_MF_BASE_LOG2N, .COL_MF_BASE_BASE, .COL_MF_CB_CB, 0, 0, 32, true⟩
  | .replay => ⟨.COL_RP_BASE_EN, none, .COL_RP_BASE_LOG2N, .COL_RP_BASE_BASE, .COL_RP_CB_CB, 0, 0, 64, false⟩
  | .inputEvent => ⟨.COL_ER_BASE_EN, some .COL_ER_BASE_OVWR, .COL_ER_BASE_LOG2N, .COL_ER_BASE_BASE, .COL_ER_CB_CB, 0, 0, 64, true⟩
  | .telemetry => ⟨.KTL_TEL_BASE_EN, some .KTL_TEL_BASE_OVWR, .KTL_TEL_BASE_LOG2N, .KTL_TEL_BASE_BASE, .KTL_TEL_CB_CB, 0, 0, 64, true⟩

/-- A number for each ring. -/
def ringKey (id : RingId) : Nat :=
  match id with
  | .work r n => r.val * 4 + n.val
  | .completion r => 48 + r.val
  | .schedule r => 60 + r.val
  | .numeric r => 72 + r.val
  | .linkEvent r => 84 + r.val
  | .errorLog r => 96 + r.val
  | .chipLog => 108
  | .jobReport => 109
  | .sampleReq n => 110 + n.val
  | .coreLane => 114
  | .coreReturn => 115
  | .hostLane p => 116 + p.val
  | .hostReturn p => 120 + p.val
  | .manifest => 124
  | .replay => 125
  | .inputEvent => 126
  | .telemetry => 127

/-- The agent that keeps a ring and the class of its traffic (R36): the region's sequencer, the Kettle for the rings of the chip,
the input scheduler for those of the pipeline. -/
def ringMover : RingId → Mover
  | .work r _ | .completion r | .schedule r | .numeric r | .linkEvent r | .errorLog r => ⟨112 + r.val, none⟩
  | .chipLog | .jobReport | .telemetry => ⟨124, none⟩
  | _ => ⟨125, none⟩
def ringClass (id : RingId) : Nat := defaultClass (ringMover id).code

/-- The device's side of a ring. -/
def State.ring (s : State) (id : RingId) : Ring := Tbl.get s.rings {} (ringKey id)
/-- Writes the device's side of a ring. -/
def State.setRing (s : State) (id : RingId) (v : Ring) : State := { s with rings := Tbl.set s.rings {} (ringKey id) v }

/-- Whether a ring is enabled. -/
def State.ringOn (s : State) (id : RingId) : Bool := s.flag (ringCfg id).en (ringCfg id).inst (ringCfg id).idx
/-- Whether a ring is in overwrite mode (R232). -/
def State.ringOver (s : State) (id : RingId) : Bool :=
  match (ringCfg id).ovwr with
  | some f => s.flag f (ringCfg id).inst (ringCfg id).idx
  | none => false
/-- The entries a ring holds: 2^(LOG2N + 4), values above 12 acting as 12. -/
def State.ringSize (s : State) (id : RingId) : Nat :=
  2 ^ (min (s.fld (ringCfg id).log2n (ringCfg id).inst (ringCfg id).idx) 12 + 4)
/-- The address of a ring's storage. -/
def State.ringBase (s : State) (id : RingId) : Nat := s.fld (ringCfg id).base (ringCfg id).inst (ringCfg id).idx * 64
/-- The address of a ring's control block. -/
def State.ringCb (s : State) (id : RingId) : Nat := s.fld (ringCfg id).cb (ringCfg id).inst (ringCfg id).idx * 128
/-- The address of entry i of a ring. -/
def State.ringEntry (s : State) (id : RingId) (i : Nat) : Nat :=
  s.ringBase id + (i % s.ringSize id) * (ringCfg id).entry

/-- Every ring. -/
def allRings : List RingId :=
  ((List.finRange 12).flatMap (fun r => [.completion r, .schedule r, .numeric r, .linkEvent r, .errorLog r] ++
    (List.finRange 4).map (.work r))) ++
  ((List.finRange 4).flatMap (fun n => [.sampleReq n, .hostLane n, .hostReturn n])) ++
  [.chipLog, .jobReport, .coreLane, .coreReturn, .manifest, .replay, .inputEvent, .telemetry]

/-- The line of a ring its agent watches: the consumer line of a ring it writes (R231), the line of the entry at HEAD of one it
consumes (R236, R487). -/
def State.ringLine (s : State) (id : RingId) : Nat :=
  (if (ringCfg id).device then s.ringCb id + 64 else s.ringEntry id (s.ring id).head) / 64

/-- An agent reads a line it waits for and sets a watch on it, when it holds none there and is below its limit of watched lines (R106,
R109, R631). -/
def State.watchLine (s : State) (m : Mover) (cls line : Nat) : State :=
  if !(s.place (line * 64)).coherent || !s.lineReady m.code line ||
      (s.cached m.code line).any (·.watched) then s
  else
    let can := decide (s.watchCount m.code < watchLimit m.code)
    let s := s.fillShared m cls line can
    match s.cached m.code line with
    | some c => if can then s.setCached m.code line { c with watched := true } else s
    | none => s

/-- A ring's agent watches its line (R231, R236, R487). -/
def State.watchRing (s : State) (id : RingId) : State := s.watchLine (ringMover id) (ringClass id) (canonical (s.ringLine id * 64) / 64)

/-- Writes an entry whole, then TAIL (R230). -/
def State.ringStore (s : State) (id : RingId) (rec : List Byte) : State :=
  let g := s.ring id
  let s := (s.writeBytes (ringMover id) (ringClass id) (s.ringEntry id g.tail) rec).1
  let s := (s.writeBytes (ringMover id) (ringClass id) (s.ringCb id) (leBytes 8 (g.tail + 1))).1
  s.setRing id { g with tail := g.tail + 1 }

/-- Whether a ring's storage takes an entry now: enabled, and in hold mode with room below HEAD + size (R231, R232). -/
def State.ringOpen (s : State) (id : RingId) : Bool :=
  s.ringOn id && (s.ringOver id || decide ((s.ring id).tail - (s.ring id).head < s.ringSize id))

/-- Whether a record is accepted at once: into storage, or into the overflow buffer of 64 (R216, R231). -/
def State.ringAccepts (s : State) (id : RingId) : Bool :=
  let g := s.ring id
  (s.ringOpen id && g.buf.isEmpty) || decide (g.buf.length < 64)

/-- The ring writer takes a record: storage, then the overflow buffer, then a stalled producer holds it (R231, R256). -/
def State.ringPut (s : State) (id : RingId) (rec : List Byte) : State :=
  let g := s.ring id
  if s.ringOpen id && g.buf.isEmpty then s.ringStore id rec
  else if g.buf.length < 64 then s.setRing id { g with buf := g.buf ++ [rec] }
  else s.setRing id { g with held := g.held ++ [rec] }

/-- The writer drains its overflow buffer as far as there is room, and stalled producers follow (R231). -/
def State.ringDrain (s : State) (id : RingId) : State :=
  let g := s.ring id
  (g.buf ++ g.held).foldl (fun s rec => s.ringPut id rec) (s.setRing id { g with buf := [], held := [] })

/-- The watched HEAD of a device ring is read again, with a watch for the next time, and the buffer drained (R231). -/
def State.ringRefresh (s : State) (id : RingId) : State :=
  let h := leNat (s.readBytes (s.ringCb id + 64) 8).bytes
  let s := s.watchRing id
  (s.setRing id { s.ring id with head := h }).ringDrain id

/-- Sets a ring's EN, when its storage and control block lie in near memory or populated far memory and the counters read
are not poison; otherwise EN stays 0 (R229, R630). The other fields of BASE have been written before. A poison entry of a work ring
is reported anew (R632). -/
def State.ringTryEnable (s : State) (id : RingId) : State :=
  let c := ringCfg id
  let cb := s.readBytes (s.ringCb id) 128
  let prod := s.readBytes (s.ringCb id) 8
  let cons := s.readBytes (s.ringCb id + 64) 8
  if s.inCoherent (s.ringBase id) (s.ringSize id * c.entry) && s.inCoherent (s.ringCb id) 128 && cb.detail == 0 then
    let s := (s.setFld c.en c.inst 1 c.idx).haul (ringMover id) (ringClass id) (s.ringCb id) 128 false
    let s := match id with
      | .work r n => s.setWork r { s.work r with poisonSeen := (s.work r).poisonSeen.filter (fun p => p.1 ≠ n.val) }
      | _ => s
    let s := s.setRing id { s.ring id with tail := leNat prod.bytes, head := leNat cons.bytes }
    if c.device then (s.watchRing id).ringDrain id else s
  else s

/-- The 64 bytes of an event record (R252, R161): the common fields, and the bytes of its type from an offset on. -/
structure EventRec where
  type : Nat
  status : Nat := 0
  source : Nat := 0
  opcode : Nat := 0
  cause : Nat := 0
  region : Nat := 0
  addr : Nat := 0
  epoch : Nat := 0
  step : Nat := 0
  mid : List Byte := []
  time : Nat := 0
  tail : List Byte := []
  deriving DecidableEq, Repr

/-- Pads a list of bytes with zeros to a length and cuts it there. -/
def padTo (n : Nat) (l : List Byte) : List Byte := (l ++ List.replicate (n - l.length) 0).take n

/-- The layout of R161 and R252: TYPE, STATUS, SOURCE, OPCODE, CAUSE, REGION, INSTR_ADDR, EPOCH, STEP in bytes 0 to 21;
bytes 22 to 39 and 48 to 63 by type; TIMESTAMP in bytes 40 to 47. -/
def EventRec.bytes (e : EventRec) : List Byte :=
  leBytes 1 e.type ++ leBytes 1 e.status ++ leBytes 2 e.source ++ leBytes 2 e.opcode ++ leBytes 1 e.cause ++
  leBytes 1 e.region ++ leBytes 6 e.addr ++ leBytes 2 e.epoch ++ leBytes 6 e.step ++ padTo 18 e.mid ++
  leBytes 8 e.time ++ padTo 16 e.tail

end Sys2Proof.Machine
end

