-- ==== Sys2Proof/Machine/ErrOps.lean ====
section
/-! DEFINITION. Error records, their queues and escalation, sending on links, and fencing the device (15: R531 to R542;
12: R436 to R441, R461). -/

namespace Sys2Proof.Machine

/-- A link. -/
def State.link (s : State) (l : Nat) : LinkSt := Tbl.get s.net.links {} l
/-- Writes a link. -/
def State.setLink (s : State) (l : Nat) (v : LinkSt) : State :=
  { s with net := { s.net with links := Tbl.set s.net.links {} l v } }
/-- Whether a link is in UP. -/
def State.linkUp (s : State) (l : Nat) : Bool := s.fld .LNK_STAT_STATE l == 3
/-- Whether the device is fenced (R542). -/
def State.fenced (s : State) : Bool := s.fld .RSL_STAT_STATE 0 == 2

/-- The phase a generation of keys uses (R584). -/
def phaseOf (gen : Nat) : Bool := gen % 2 == 1

/-- Whether a transaction type travels on the response channels (R443). -/
def ttypeResp (t : Nat) : Bool := decide (0x10 ≤ t)

/-- What a flit costs its link's budget (R441): 4 units for each DATA flit, in the class of its transaction; responses are charged and
never held, CTRL, LOSS and BEAT cost nothing, and neither does a flit that is sent again (R38). -/
def State.chargeFlit (s : State) (l : Nat) (f : OutFlit) : State :=
  let s := s.startFclk (l / 2)
  if f.ftype ≠ 1 ∨ f.x.ttype = 0x20 then s
  else if ttypeResp f.x.ttype then s.owe f.x.cls 256 (.link (Fin.ofNat 24 l))
  else s.ask ⟨164 + l, none⟩ f.x.cls 256 (.link (Fin.ofNat 24 l))

/-- Sends one flit if the link can: in UP, with a free replay entry, its counter not spent, and for a DATA flit a credit of
its channel (R437, R438, R440); it is charged (R441). Answers none when it has to wait. -/
def State.linkSend (s : State) (l : Nat) (f : OutFlit) : Option State :=
  let k := s.link l
  let isData := f.ftype == 1
  let cred := k.credits.getD f.vc 0
  if s.linkUp l && !s.fenced && decide (k.replay.length < 1024) && decide (k.ctr < 2 ^ 32) && (!isData || decide (0 < cred)) then
    let w : Flit := ⟨Fin.ofNat 16 f.ftype, Fin.ofNat 4 f.vc, phaseOf k.keyGen, Fin.ofNat 16777216 k.ctr, f.nak, f.abort,
      Fin.ofNat 16777216 (if f.nak then k.expect else k.expect + 16777215), k.freed, f.body, true, true, true⟩
    some ((s.setLink l { k with
      ctr := k.ctr + 1
      replay := k.replay ++ [⟨k.ctr, f, w⟩]
      credits := if isData then setAt k.credits f.vc (cred - 1) else k.credits
      sinceAck := 0
      ackOwed := false
      wire := k.wire ++ [w] }).chargeFlit l f)
  else none

/-- Sends what waits on a link as far as credits go, keeping the order within each channel. -/
def State.linkPump (s : State) (l : Nat) : State :=
  let w := (s.link l).waiting
  w.foldl (fun s f =>
    match s.linkSend l f with
    | some t => t
    | none => s.setLink l { s.link l with waiting := (s.link l).waiting ++ [f] }) (s.setLink l { s.link l with waiting := [] })

/-- Hands flits to a link. -/
def State.linkPush (s : State) (l : Nat) (fs : List OutFlit) : State :=
  (s.setLink l { s.link l with waiting := (s.link l).waiting ++ fs }).linkPump l

/-- The CAUSEs resolved at each level (R537). -/
def causeLevel (cause : Nat) : Nat :=
  if [0x01, 0x02, 0x03, 0x10, 0x13, 0x14].contains cause then 1
  else if [0x11, 0x21, 0x22, 0x23, 0x24, 0x25].contains cause then 2
  else 3

/-- The CAUSEs whose resolution is a job report (R537). -/
def causeJobReport (cause : Nat) : Bool :=
  [0x04, 0x05, 0x06, 0x12, 0x20, 0x26, 0x27, 0x28, 0x29, 0x33, 0x35, 0x3F].contains cause

/-- The layout of R532. -/
def ErrRec.bytes (e : ErrRec) : List Byte :=
  leBytes 1 e.status ++ leBytes 1 e.detail ++ leBytes 1 e.cause ++ leBytes 1 (e.sev + 4 * e.esc) ++
  leBytes 1 (e.origin + 4 * e.level) ++ leBytes 1 e.req ++ leBytes 2 e.inst ++ leBytes 6 e.addr ++ leBytes 2 e.epoch ++
  leBytes 6 e.step ++ leBytes 2 e.slot ++ leBytes 8 e.info ++ leBytes 8 e.time ++ leBytes 4 e.seqno ++
  leBytes 1 e.region ++ leBytes 1 e.qslot ++ List.replicate 18 0

/-- The ring a record's copies go to: its origin region's error log ring, or the chip's (R538). -/
def ErrRec.logRing (e : ErrRec) : RingId := if h : e.origin ≠ 3 ∧ e.region < 12 then .errorLog ⟨e.region, h.2⟩ else .chipLog

/-- The lowest QSLOT no record of a queue occupies. -/
def ErrQ.freeSlot (q : ErrQ) : Nat :=
  ((List.range 64).find? (fun i => !q.recs.any (fun e => e.qslot == i))).getD 0

/-- The record in a QSLOT. -/
def ErrQ.at (q : ErrQ) (slot : Nat) : Option ErrRec := q.recs.find? (fun e => e.qslot == slot)

/-- The device fences itself, or is fenced (R542): executors stop and what is in flight is abandoned without records, 64
LOSS flits go out on every link in UP, the outbound gates close, and the state and its cause are shown. A fenced device
stays as it is. -/
def State.fence (s : State) (cause : Nat) : State :=
  if s.fenced then s
  else
    let s := { s with
      execs := s.execs.map (fun (p : Nat × Exec) =>
        (p.1, { p.2 with flights := [], running := false, watch := none }))
      jobs := []
      coh := { s.coh with chunks := [] }
      net := { s.net with items := [], gets := [], puts := [], colls := [], gns := [] } }
    let lossBody := padTo 224 (leBytes 2 (s.fld .LNK_DEVID_ID 0))
    let s := s.forEach (List.range 24) (fun s l =>
      s.iff (s.linkUp l) (fun s => s.linkPush l (List.replicate 64 { ftype := 3, vc := 0, body := lossBody })))
    let s := s.forEach (List.range 4) (fun s p => s.setFld .HPT_EPOCH_OPEN p 0)
    (s.setFld .RSL_STAT_STATE 0 2).setFld .RSL_STAT_FCAUSE 0 cause

/-- Marks a queue's overflow (R536). -/
def State.markOvfl (s : State) (q : LevelInst) : State :=
  match q with
  | .cell _ => s
  | .block b => s.setFld .BLK_ELOG_OVFL b.val 1
  | .region r => s.setFld .RSL_RQ_STAT_OVFL 0 1 r.val
  | .chip => s.setFld .RSL_CQ_STAT_OVFL 0 1

/-- A record enters a queue that has room (R531, R538): it takes a slot and a copy goes to the log ring. A record of SEV 3
that reaches the chip while the chip handler handles one of SEV 3 fences the device (R540). -/
def State.enterQueue (s : State) (q : LevelInst) (e : ErrRec) : State :=
  let g := s.errq q
  let e := { e with level := q.level, qslot := g.freeSlot }
  let s := s.setErrq q { g with recs := g.recs ++ [e] }
  let s := s.ringPut e.logRing e.bytes
  let busy3 := match g.cur.head? with
    | some i => (g.at i).any (fun r => r.sev == 3)
    | none => false
  s.iff (decide (q = .chip) && e.sev == 3 && busy3) (fun s => s.fence e.cause)

/-- A record arrives at a queue: a full queue passes it on to the parent with ESC 2, and a full chip queue fences the device
(R536, R540). The first argument bounds the levels it can climb. -/
def State.enqueue : Nat → State → LevelInst → ErrRec → State
  | 0, s, _, _ => s
  | n + 1, s, q, e =>
    if (s.errq q).recs.length < 64 then s.enterQueue q e
    else
      let s := (s.markOvfl q).bump .RSL_CNT_ESC 0
      match q.parent with
      | some p => State.enqueue n s p { e with esc := 2 }
      | none => s.fence e.cause

/-- The region whose step, slot and clock a record of a level instance shows (R532). -/
def originRegion : LevelInst → Nat
  | .cell c => c.region.val
  | .block b => b.region.val
  | .region r => r.val
  | .chip => 0

/-- Writes an error record at its origin instance (R531, R532, R537). -/
def State.raise (s : State) (q : LevelInst) (cause status detail sev : Nat) (addr : Nat := 0) (req : Nat := 0xFF)
    (info : Nat := 0) (place : Nat := 0x1F) : State :=
  let g := s.errq q
  let r := originRegion q
  let e : ErrRec := {
    status := status, detail := detail, cause := cause, sev := sev, origin := q.level, req := req, inst := q.inst
    addr := addr, epoch := s.fld .LNK_EPOCH_EPOCH 0, step := s.fld .SEQ_STEP_STEP r, slot := s.fld .SEQ_SLOT_INDEX r
    info := info, time := if q.level = 3 then s.clk.aon else s.fclk r, seqno := g.written
    region := if q.level = 3 then place else r }
  State.enqueue 4 (s.setErrq q { g with written := g.written + 1 }) q e

/-- The row of a far address that failed is kept for post-package repair at the next boot (R537, R578); a row is numbered by the
4 KiB slot, since the spec gives no row of an address. -/
def State.keepFarRow (s : State) (f slot : Nat) : State :=
  let k : Ktl := s.ktl
  let p : Persist := k.persist
  if p.farRepair.contains (f, slot) then s
  else { s with ktl := { k with persist := { p with farRepair := p.farRepair ++ [(f, slot)] } } }

/-- A coded slot is decoded for a read (R421, R424): one the controller does not hold moves its coded lines whole, and its table
header unless it is held, over the channel; the line itself is charged as that of any read. -/
def State.decodeFar (s : State) (cls line table : Nat) : State :=
  let f := homeOf line
  let b := s.farBuf f
  let slot := line / 64
  if b.slots.contains slot then s
  else
    let coded := 64 * min 64 (ceilDiv (fieldAt (s.mem.raw (slot * 4096) 2) 0 2) 64)
    let head := if b.heads.contains table then 0 else 512
    let s := (memRes (s.place (line * 64))).foldl (fun s res => s.ask ⟨240 + f, none⟩ cls (coded - 64 + head) res) s
    let keep (n : Nat) (l : List Nat) : List Nat := l.drop (l.length - n)
    s.setFarBuf f {
      heads := if b.heads.contains table then b.heads else keep 64 (b.heads ++ [table])
      slots := keep 16 (b.slots ++ [slot]) }

/-- A read of a line that no cache holds meets a coded slot (R424, R426): it is decoded, or, where it cannot be, the slot's 64 lines are marked poison and the slot
is counted; a block that fails its check (R415), rather than being poison, is reported by the region. -/
def State.noteCoded (s : State) (cls line : Nat) : State :=
  let slot := line / 64
  match (if (s.dirOf line).isSome then none else s.mem.codedAt slot) with
  | none => s
  | some t =>
    if (s.mem.decodeSlot slot t).isSome then s.decodeFar cls line t
    else if s.mem.farPoison (slot * 4096) 4096 then s
    else
      let m := { s.mem with poisonF := (List.range 64).foldl (fun (p : Tbl Bool) i => Tbl.set p false (slot * 64 + i) true) s.mem.poisonF }
      let f := homeOf line
      let u := (s.setMem m).bump .FMC_CZ_STAT_POISONED f
      if s.mem.farPoison t 512 then u
      else if h : f < 12 then (u.keepFarRow f slot).raise (.region ⟨f, h⟩) 0x23 0xC0 0x05 1 (addr := slot * 4096) else u

/-- A read of a line whose slot is plain or can be decoded: a coded slot is decoded for it, where no cache holds the line. -/
def State.decodeLine (s : State) (cls line : Nat) : State :=
  match (if (s.dirOf line).isSome then none else s.mem.codedAt (line / 64)) with
  | none => s
  | some t => s.decodeFar cls line t

/-- The same for every line of a range. -/
def State.noteCodedRange (s : State) (cls a n : Nat) : State :=
  (linesOfRange a n).foldl (fun (s : State) l => s.noteCoded cls (canonical (l * 64) / 64)) s

/-- What a read of a line at its home does beside returning it: the holder it comes from is snooped and wakes (R29, R97). -/
def State.snoopRead (s : State) (cls line : Nat) : State :=
  match s.dirOf line with
  | none => s
  | some e =>
    match s.nearest (homeOf line) (112 + homeOf line) (holders e.sharers) with
    | none => s
    | some a => (s.rouse a).oweSnoop cls line a (msgBytes .snpFwdRd false) (msgBytes .snpData false)

/-- What a read of a range by a requester does beside returning its bytes (State.readBytes): the bytes are asked for in its class
at every resource they cross (R36), parts that R51 refuses are recorded under its code, a holder a line comes from wakes (R29), a
block in GATED wakes for an access to its stores (R60), and a coded slot that cannot be decoded is marked (R426). -/
def State.noteRead (s : State) (m : Mover) (cls a n : Nat) : State :=
  let s := (s.haul m cls a n false).noteCodedRange cls a n
  (splitRange a n).foldl (fun (s : State) p =>
    let c := canonical p.1
    match s.place c with
    | .near _ | .far _ => s.snoopRead cls (c / 64)
    | .cellStore k => s.rouse (k / 16)
    | .blockStore b => s.rouse b
    | _ => s.refuse m.code p.1 false) s

/-- The same for several ranges. -/
def State.noteReads (s : State) (m : Mover) (cls : Nat) (l : List (Nat × Nat)) : State :=
  l.foldl (fun (s : State) p => s.noteRead m cls p.1 p.2) s

/-- A record leaves its queue. -/
def State.dequeue (s : State) (q : LevelInst) (slot : Nat) : State :=
  let g := s.errq q
  s.setErrq q { g with recs := g.recs.filter (fun e => e.qslot ≠ slot), cur := g.cur.filter (· ≠ slot)
                       await := g.await.filter (· ≠ slot) }

/-- The resolved records of the chip queue whose job report is due go into the job report ring, oldest first, as far as it has room;
each leaves its slot as its copy enters (R541). -/
def State.jobReports (s : State) : State :=
  (s.errq .chip).await.foldl (fun (s : State) i =>
    match (s.errq .chip).at i with
    | some e => s.iff (s.ringOpen .jobReport && (s.ring .jobReport).buf.isEmpty) (fun s => (s.ringPut .jobReport e.bytes).dequeue .chip i)
    | none => s) s

/-- A record escalates to the parent of its queue (R536); from the chip there is no parent, and the device fences (R540). -/
def State.escalate (s : State) (q : LevelInst) (slot esc : Nat) : State :=
  match (s.errq q).at slot with
  | none => s
  | some e =>
    let s := (s.dequeue q slot).bump .RSL_CNT_ESC 0
    match q.parent with
    | some p => State.enqueue 4 s p { e with esc := esc }
    | none => s.fence e.cause

/-- The oldest record of the highest SEV that is not already being handled or suspended, or resolved and awaiting its job report
(R534, R541). -/
def ErrQ.best (q : ErrQ) : Option ErrRec :=
  (q.recs.filter (fun e => !q.cur.contains e.qslot && !q.await.contains e.qslot)).foldl (fun (b : Option ErrRec) e =>
    match b with
    | none => some e
    | some d => if d.sev < e.sev then some e else some d) none

end Sys2Proof.Machine
end

