-- ==== Sys2Proof/Machine/Power.lean ====
section
/-! DEFINITION. Block power states, clocks and accesses to the stores (01: R24 to R34; 02: R57 to R60). -/

namespace Sys2Proof.Machine

/-- What a meaning answers. -/
abbrev Answer := Host.Outcome State Fault Refusal

/-- The cells of a block. -/
def Block.cells (b : Block) : List Cell := (List.range 16).map (fun k => Sys2Proof.Block.cell b (Fin.ofNat 16 k))

/-- Whether an instruction is in flight in any cell of a block. -/
def State.blkBusy (s : State) (b : Block) : Bool := (Block.cells b).any (fun c => !(s.exe (.cell c)).flights.isEmpty)

/-- Whether a requester may write a block's power and repair registers (R28, R201). -/
def mayControl (who : Bank) (r : Region) : Bool :=
  match who with
  | .seq q => q == r
  | .kettle => true
  | _ => false

/-- A block state is requested (R28, R32): RUN and GATED are moved to at once, NAP and OFF wait for the conditions of R32. A
request takes the place of one still pending, and one for RUN or GATED is granted whatever is in flight: the spec states
conditions for NAP and OFF only and does not say what a second request does (DESIGN CHOICE, log entry 83). -/
def State.requestBlk (s : State) (b : Block) (t : BlkState) : State :=
  let s := (s.setFld .BLK_PWR_REQ b t.code).startFclk b.region
  let k := s.blk b
  if s.fld .BLK_PWR_STATE b = t.code ∧ k.moving = none then s.setBlk b { k with pend := none, cleaned := false }
  else match t with
    | .run | .gated => s.setBlk b { k with pend := none, cleaned := false, moving := some t.code }
    | .nap | .off => s.setBlk b { k with pend := some t.code, cleaned := false }

/-- BLK_PWR_REQ (R28): a write of BLK_PWR.REQ; from any other requester it is discarded (R201). -/
def execBlkPwrReq (who : Bank) (b : Block) (req : BlkState) (s : State) : Answer :=
  .next (let s := s.otherAccess who; if mayControl who b.region then s.requestBlk b req else s)

/-- A block has left the wait of the BLKST instructions that named it (R315): counted when it reached their state. -/
def State.settleBlkst (s : State) (b : Block) (reached : Option Nat) : State :=
  { s with jobs := s.jobs.map (fun j =>
      if j.kind = .blkst ∧ j.region = b.region.val ∧ j.waits.contains b.val = true then
        match reached with
        | some t => if t = j.target then { j with waits := j.waits.filter (· ≠ b.val), count := j.count + 1 } else j
        | none => { j with waits := j.waits.filter (· ≠ b.val) }
      else j) }

/-- The block cache is cleaned (R31): every line it holds goes back to its home. -/
def State.cleanCache (s : State) (b : Block) : State :=
  ((s.linesOf b.val).map (·.1)).foldl (fun s l => s.putBack 7 b.val l) s

/-- Whether every line a block cache holds can be put back now, and no miss of it is open. -/
def State.cleanable (s : State) (b : Block) : Bool :=
  ((s.linesOf b.val).all (fun p => s.evictable b.val p.1)) && s.missCount b.val == 0 && s.wbCount b.val == 0

/-- The commit point of R32: with the inbound queue still empty and nothing dispatched meanwhile, the block goes to the state asked
and takes nothing up any more; otherwise it abandons the request, stays in RUN and records it. -/
def State.commitSleep (s : State) (b : Block) (t : Nat) : State :=
  let k := s.blk b
  if k.inq.isEmpty && !s.blkBusy b && (s.linesOf b.val).isEmpty && s.missCount b.val == 0 then
    s.setBlk b { k with pend := none, cleaned := false, moving := some t }
  else ((s.setBlk b { k with pend := none, cleaned := false }).setFld .BLK_PWR_ABANDONED b 1).settleBlkst b none

/-- BLOCK_SLEEP_COMMIT (R31, R32): with nothing in flight and an empty inbound queue, the cache is cleaned, and at the commit
point the inbound queue is checked once more. pause says that the command stops before the commit point, so that instructions,
launches and accesses that arrive during the clean are commands of their own; the next BLOCK_SLEEP_COMMIT is then the commit
point. -/
def execBlockSleepCommit (b : Block) (pause : Bool) (s : State) : Answer :=
  .next (match (s.blk b).pend with
    | none => s
    | some t =>
      if (s.blk b).cleaned then s.commitSleep b t
      else if s.blkBusy b || !(s.blk b).inq.isEmpty || !s.cleanable b then s
      else
        let s := s.cleanCache b
        if pause then s.setBlk b { s.blk b with cleaned := true } else s.commitSleep b t)

/-- The first line of a cell's local store, and of a block's block store (R57, R58). -/
def cellLine (c : Nat) : Nat := (0x200000000000 + c * 0x400000) / 64
/-- The first line of a block store. -/
def blockLine (b : Nat) : Nat := (0x210000000000 + b * 0x2000000) / 64

/-- The stores of a block read zero with good check bits, and its cells hold nothing (R27, R33). -/
def State.wipeBlock (s : State) (b : Block) : State :=
  let m := (s.mem.clearLines (cellLine (b.val * 16)) (16 * 65536)).clearLines (blockLine b) 524288
  let s := s.setMem m
  (Block.cells b).foldl (fun s c => s.setExe (.cell c) {}) s

/-- A block's transition under way is complete (R27, R33). A block leaving OFF comes up empty, and a launch into a cell waits until
software has loaded that cell again (R30). -/
def State.reachState (s : State) (b : Block) : State :=
  match (s.blk b).moving with
  | none => s
  | some t =>
    let was := BlkState.ofCode (s.fld .BLK_PWR_STATE b)
    let s := (s.setFld .BLK_PWR_STATE b t).startFclk b.region
    let s := s.setBlk b { s.blk b with moving := none, waking := false }
    let s := s.iff (decide (was = .off) && t == 0) (fun s =>
      (s.wipeBlock b).setBlk b { s.blk b with unloaded := List.range 16 })
    let s := s.iff (t == 3) (fun s => s.wipeBlock b)
    let s := s.iff (t == 0) (fun s => s.setFld .BLK_PWR_WAKE_REQ b 0)
    s.settleBlkst b (some t)

/-- A dispatch, snoop or scratch access reaches a block that is not in RUN: from GATED it starts its own clock (R29), from
NAP or OFF it raises a wake request (R30). -/
def State.stirBlk (s : State) (b : Block) : State :=
  let s := s.startFclk b.region
  match s.blkState b with
  | .run => s
  | .gated => s.setBlk b { s.blk b with waking := true }
  | .nap | .off => s.setFld .BLK_PWR_WAKE_REQ b 1

/-- The blocks among the stores of some ranges that are in NAP or OFF: an access to them is held until they run (R60). -/
def State.asleep (s : State) (l : List (Nat × Nat)) : List Block :=
  ((l.flatMap (fun p => splitRange p.1 p.2)).filterMap (fun p => (s.place (canonical p.1)).store)).filterMap (fun p =>
    if h : p.1 < 96 then (if s.blkState p.1 = .nap ∨ s.blkState p.1 = .off then some ⟨p.1, h⟩ else none) else none)

/-- Wakes are asked of some blocks. -/
def State.stirAll (s : State) (l : List Block) : State := l.foldl (fun (t : State) b => t.stirBlk b) s

/-- What an access to some ranges finds when it cannot be made now: sleeping blocks are asked to wake (R60), and it waits for lines in
use (R87) and slots being retired (R198). None when it can be made. -/
def State.waitFor (s : State) (l : List (Nat × Nat)) : Option State :=
  if !(s.asleep l).isEmpty then some (s.stirAll (s.asleep l))
  else if l.all (fun p => s.rangeFree p.1 p.2) then none else some s

/-- BLOCK_GATED_WAKE (R29): the block that started its clock is in RUN; one that was still on its way into GATED stays in RUN. -/
def execBlockGatedWake (b : Block) (s : State) : Answer :=
  .next (if (s.blk b).waking && decide (s.blkState b = .gated) then
      ((s.setFld .BLK_PWR_STATE b 0).startFclk b.region).setBlk b
        { s.blk b with waking := false, moving := if (s.blk b).moving = some 1 then none else (s.blk b).moving }
    else s)

/-- The block and, for a local store, the slot a store address belongs to. -/
def scratchHome (a : Nat) : Option (Nat × Option Nat) :=
  if 0x200000000000 ≤ a ∧ a < 0x200180000000 then
    let c := (a - 0x200000000000) / 0x400000
    some (c / 16, some (c % 16))
  else if 0x210000000000 ≤ a ∧ a < 0x2100C0000000 then some ((a - 0x210000000000) / 0x2000000, none)
  else none

/-- The bytes a request to a store moves. -/
def ScratchReq.size (x : ScratchReq) : Nat :=
  match x.wr with
  | some w => (setBits w.mask.toNat 64).length
  | none => 64

/-- One access to a segment of a store, performed whole (R59); what a read returns is kept with the request. A slot retired
without replacement holds nothing: its reads come back as poison, its writes are dropped (R199). -/
def State.performScratch (s : State) (b : Nat) (slot : Option Nat) (x : ScratchReq) : State :=
  let s := s.haul ⟨x.req.val, none⟩ (defaultClass x.req) x.addr (ScratchReq.size x) x.wr.isSome
  let k := s.blk b
  let gone := match slot with
    | some n => k.gone.contains n
    | none => false
  let line := x.addr / 64
  match x.wr with
  | some w =>
    let s := s.iff (!gone) (fun s => (s.memWrite line w).unsettle ⟨x.req.val, none⟩ (writeRanges w line))
    s.setBlk b { k with scratchDone := k.scratchDone ++ [(x, w.data, false)] }
  | none =>
    s.setBlk b { k with scratchDone := k.scratchDone ++
      [(x, if gone then 0 else s.mem.line line, gone || anyPoison (s.mem.wordPoison line))] }

/-- An item of an inbound queue that a slot without replacement ends at once (R199). -/
def InItem.slotOf : InItem → Option Nat
  | .launch _ c _ _ _ => some c.slot
  | .load _ c _ _ _ => some c.slot
  | .scratch x => (scratchHome x.addr).bind (·.2)

/-- A cell has left the wait of a job: with what count it adds and with what status (R199, R227, R279). -/
def State.settleJob (s : State) (id cell add status detail : Nat) (promote : Bool := false) : State :=
  match s.job id with
  | none => s
  | some j =>
    let worse := decide (j.status / 64 < status / 64) || (j.status / 64 == status / 64 && decide (status ≠ 0) && (j.status == 0 || decide (status < j.status)))
    s.setJob { j with
      waits := j.waits.filter (· ≠ cell), count := j.count + add
      status := if worse then status else j.status
      detail := if worse then detail else if status = j.status then worseDetail j.detail detail else j.detail
      promote := j.promote || promote
      promoted := j.promoted + bit1 promote }

/-- BLOCK_INBOUND_DISPATCH (R29, R30, R60, R199): the front of the inbound queue is acted on according to the block's
state. In RUN an access is performed and an item for a slot without replacement ends at once; a launch or load waits for
its cell to take it. -/
def execBlockInboundDispatch (b : Block) (s : State) : Answer :=
  .next (
    let k := s.blk b
    let ready (i : InItem) : Bool := match i with
      | .scratch x => !k.slotStopped ((scratchHome x.addr).bind (·.2))
      | i => match i.slotOf with
        | some n => k.gone.contains n
        | none => false
    if k.inq.isEmpty then s
    else match s.blkState b with
      | .run =>
        match k.inq.find? ready with
        | none => s
        | some i =>
          let s := s.setBlk b { k with inq := k.inq.erase i }
          match i with
          | .scratch x => s.performScratch b ((scratchHome x.addr).bind (·.2)) x
          | .launch id c _ _ _ => s.settleJob id c.val 0 0xC0 0x06
          | .load id c _ _ _ => s.settleJob id c.val 0 0xC0 0x06
      | _ => s.stirBlk b)

/-- BLOCK_AUTOGATE (R34): a block in RUN with nothing queued, running or in flight gates itself when AUTOGATE is 1. -/
def execBlockAutogate (b : Block) (s : State) : Answer :=
  .next (if decide (s.blkState b = .run) && s.flag .BLK_PWR_AUTOGATE b && (s.blk b).inq.isEmpty && !s.blkBusy b &&
      (Block.cells b).all (fun c => !(s.exe (.cell c)).running) && (s.blk b).moving.isNone then
      s.setFld .BLK_PWR_STATE b 1
    else s)

/-- A request to a store: performed in a block in RUN, otherwise it stands in the inbound queue and the block is woken (R57 to
R60, R198). An address outside the stores is a decode error (R51). -/
def State.scratchAccess (s : State) (x : ScratchReq) : State :=
  match scratchHome x.addr with
    | none => s.refuse x.req x.addr x.wr.isSome
    | some (b, slot) =>
      if h : b < 96 then
        let k := s.blk b
        if decide (s.blkState b = .run) && !k.slotStopped slot then s.performScratch b slot x
        else (s.setBlk b { k with inq := k.inq ++ [.scratch x] }).stirBlk ⟨b, h⟩
      else s

/-- SCRATCH_ACCESS. -/
def execScratchAccess (x : ScratchReq) (s : State) : Answer := .next (s.scratchAccess x)

/-- Whether nothing waits at any resource of a clock domain (R24). -/
def State.noAsks (s : State) (d : Nat) : Bool :=
  let all : List BudgetRes := (List.finRange 12).map .via ++ (List.finRange 12).map .far ++ (List.finRange 24).map .link ++
    (List.finRange 52).map .fabric ++ (List.finRange 4).map .pcie
  (all.filter (fun b => clockOf b == d)).all (fun b => (s.budget b).asks.isEmpty)

/-- FCLK_IDLE_STOP (R24): the FCLK of a region (0 to 11) stops when every block of the region is in GATED, NAP or OFF, nothing is
under way in the region, and its sequencer waits on a watch: for work, or in a WATCH. The FCLK of a host-complex die's fabric
interface (12 and 13) stops when nothing is under way there; blocks and a sequencer it has none. -/
def execFclkIdleStop (d : Fin 14) (s : State) : Answer :=
  .next (
    let still := s.noAsks d && s.coh.net.all (fun m => siteOf m.src != d.val && siteOf m.dst != d.val)
    let stopped : State := { s with clk := { s.clk with fclkStopped := Tbl.set s.clk.fclkStopped false d true } }
    if h : d.val < 12 then
      let idle := (List.range 8).all (fun k => decide (s.fld .BLK_PWR_STATE (d.val * 8 + k) ≠ 0))
      let e := s.exe (.seq ⟨d.val, h⟩)
      let waits := e.watch.isSome || s.fld .SEQ_STAT_STATE d == 0
      let quiet := (s.reqsAt d).isEmpty && e.flights.isEmpty && s.coh.txns.all (fun t => homeOf t.1 != d.val)
      if idle && waits && quiet && still then stopped else s
    else if still then stopped else s)

/-- CLUSTER_CLOCK_STOP (R24): HCLK of a cluster stops when all four cores wait for an interrupt. -/
def execClusterClockStop (q : Cluster) (waiting : BitVec 4) (s : State) : Answer :=
  .next { s with clk := { s.clk with hclkStopped := Tbl.set s.clk.hclkStopped false q (waiting == 0b1111#4) } }

/-- FAR_SELF_REFRESH_ENTRY (R24): a populated far channel at which nothing waits enters self-refresh. -/
def execFarSelfRefreshEntry (f : Region) (s : State) : Answer :=
  .next (if s.flag .FMC_STAT_POP f && (s.budget (.far f)).asks.isEmpty then
      { s with clk := { s.clk with selfRefresh := Tbl.set s.clk.selfRefresh false f true } }
    else s)

/-- FAR_SELF_REFRESH_EXIT (R24): the channel has left self-refresh and transfers again. -/
def execFarSelfRefreshExit (f : Region) (s : State) : Answer :=
  .next { s with clk := { s.clk with selfRefresh := Tbl.set s.clk.selfRefresh false f false } }

end Sys2Proof.Machine
end

