-- ==== Sys2Proof/Machine/Budgets.lean ====
section
/-! DEFINITION. Activity budgets (01: R35 to R47). -/

namespace Sys2Proof.Machine

/-- The capacity of a fabric port (R35): ports that lead nowhere have none; ports between the mesh and a host die 64,000. -/
def fabricCap (n : Nat) : Nat :=
  if n < 48 then
    let r := n / 4
    let d := n % 4
    if d = 0 then (if r % 4 = 3 then 0 else 128000)
    else if d = 1 then (if r % 4 = 0 then 0 else 128000)
    else if d = 2 then (if 8 ≤ r then 0 else 128000)
    else if r < 4 then 64000 else 128000
  else 64000

/-- The capacity of a PCIe port by its configured width (R35). -/
def State.pcieCap (s : State) (p : Nat) : Nat :=
  let w := s.fld .HPT_CFG_WIDTH p
  if w = 8 then 7744 else if w = 4 then 3872 else if w = 2 then 1936 else 0

/-- The capacity of a resource per period in units of 64 bytes (R35). -/
def State.budgetCap (s : State) : BudgetRes → Nat
  | .via _ => 512000
  | .far _ => 16384
  | .link _ => 12800
  | .fabric n => fabricCap n.val
  | .pcie p => s.pcieCap p

/-- The resource a select value names (R35, R46). -/
def resOf (kind idx : Nat) : Option BudgetRes :=
  if kind = 1 then (if h : idx < 12 then some (.via ⟨idx, h⟩) else none)
  else if kind = 2 then (if h : idx < 12 then some (.far ⟨idx, h⟩) else none)
  else if kind = 3 then (if h : idx < 24 then some (.link ⟨idx, h⟩) else none)
  else if kind = 4 then (if h : idx < 52 then some (.fabric ⟨idx, h⟩) else none)
  else if kind = 5 then (if h : idx < 4 then some (.pcie ⟨idx, h⟩) else none)
  else none

/-- The quota of a class. -/
def State.quota (s : State) (b : BudgetRes) (n : Nat) : Nat := s.fld .BDG_QUOTA_QUOTA b.code n

/-- The sum of a resource's quotas. -/
def State.quotaSum (s : State) (b : BudgetRes) : Nat := (List.range 8).foldl (fun t n => t + s.quota b n) 0

/-- The refill of R39 at a period start: unspent tokens lapse, debt carries, MGMT has at least 64. -/
def refill (q : Nat → Nat) (bal : Nat → Int) : List Int :=
  (List.range 8).map (fun n => ((if n = 7 then max (q 7) 64 else q n : Nat) : Int) + min (bal n) 0)

/-- Whether the clock that times a resource's periods runs (R24, R35): FCLK of its region or host-complex die, or MCLK of the
far channel. -/
def State.budgetClock (s : State) (b : BudgetRes) : Bool :=
  match b with
  | .far f => !Tbl.get s.clk.selfRefresh false f.val
  | b => !Tbl.get s.clk.fclkStopped false (clockOf b)

/-- Whether a class has a request waiting at a resource. -/
def Budget.waiting (g : Budget) (n : Nat) : Bool := g.asks.any (fun a => a.cls == n)

/-- A period of a resource begins (R39, R45, R46): with budgeting enabled balances and pool are set; the usage and waiting of the
period that ended are shown, and each class's run of periods without a grant is counted. -/
def State.beginPeriod (s : State) (res : BudgetRes) : State :=
  if !s.budgetClock res then s else
    let g := s.budget res
    let on := s.budgetOn res
    let starve := (List.range 8).map (fun n =>
      if g.waiting n ∧ g.granted.contains n = false then g.starve.getD n 0 + 1 else 0)
    let s := (List.range 8).foldl (fun s n => s.setFld .BDG_USED_USED res.code (g.used.getD n 0) n) s
    let mask := (List.range 8).foldl (fun m n => if g.waiting n then m + 2 ^ n else m) 0
    let s := (s.setFld .BDG_STAT_WAITING res.code mask).bump .BDG_PCNT_PERIODS res.code
    s.setBudget res { g with
      bal := if on then refill (s.quota res) g.balOf else g.bal
      pool := if on then ((s.budgetCap res - s.quotaSum res : Nat) : Int) else g.pool
      used := List.replicate 8 0, starve := starve, granted := [] }

/-- BUDGET_PERIOD_START (R39) of the resource of a kind and an index (R35). -/
def execBudgetPeriodStart (kind index : Nat) (s : State) : Answer :=
  .next (match resOf kind index with
    | some res => s.beginPeriod res
    | none => s)

/-- The lending order of R40: MGMT, OPERAND, COLLECTIVE, STASH, UPDATE, INPUT, HOST, MIRROR. -/
def lendingOrder : List Nat := [7, 0, 2, 1, 6, 5, 4, 3]

/-- The classes in round-robin order after the one granted last. -/
def afterLast (last : Nat) : List Nat := (List.range 8).map (fun i => (last + 1 + i) % 8)

/-- The bytes of the next request of what waits (R41): at most 64 units. -/
def askBytes (a : Ask) : Nat := min a.bytes 4096

/-- The slots of a block in round-robin order after the one served last (R23). -/
def afterSlot (last : Nat) : List Nat := (List.range 16).map (fun i => (last + 1 + i) % 16)

/-- The cost of a request in units (R39). -/
def unitCost (bytes : Nat) : Nat := ceilDiv bytes 64

/-- Who is granted and whose tokens pay (R39): a class by its own balance, the first waiting class by the pool, or by a
lender's balance; none when nothing can be granted. -/
inductive Payer where
  | own | pool | lender (m : Nat) | free
  deriving DecidableEq, Repr

/-- The grant decision of R39 and R44 for one cycle. -/
def grantChoice (on : Bool) (g : Budget) (borrow : Nat) : Option (Nat × Payer) :=
  if !on then ((afterLast g.last).find? g.waiting).map (fun n => (n, .free))
  else
    match (afterLast g.last).find? (fun n => g.waiting n && decide (0 < g.balOf n)) with
    | some n => some (n, .own)
    | none =>
      match lendingOrder.find? g.waiting with
      | none => none
      | some n =>
        if 0 < g.pool then some (n, .pool)
        else ((List.range 8).find? (fun m => borrow.testBit m && decide (0 < g.balOf m) && !g.waiting m)).map
          (fun m => (n, .lender m))

/-- The request of a class that is next: the oldest that waits; where that is a cell's, its block's arbiter serves the cells of the
block in turn, one request each (R23). The spec states no slot the arbiter starts from after reset; the model's is slot 0
(DESIGN CHOICE, log entry 17). -/
def State.nextAsk (s : State) (g : Budget) (n : Nat) : Option Ask :=
  match g.asks.find? (fun a => a.cls == n) with
  | none => none
  | some a =>
    match a.cell with
    | none => some a
    | some _ =>
      let mine := g.asks.filter (fun o => o.cls == n && o.code == a.code && o.cell.isSome)
      ((afterSlot (s.blk a.code).arb).findSome? (fun k => mine.find? (fun o => o.cell == some k))).orElse (fun _ => some a)

/-- The request granted is taken off what waits, and the arbiter of a cell's block goes on to the next cell (R23). -/
def State.takeAsk (s : State) (res : BudgetRes) (g : Budget) (a : Ask) : State :=
  let left := a.bytes - askBytes a
  let asks := if left = 0 then g.asks.erase a else g.asks.map (fun o => if o = a then { o with bytes := left } else o)
  let s := s.setBudget res { g with asks := asks }
  match a.cell with
  | some k => s.setBlk a.code { s.blk a.code with arb := k }
  | none => s

/-- One waiting request of a resource, of the class whose turn it is, is granted and charged (R39, R41, R44). A grant from a class's own balance, or without
budgeting, moves the round robin past it; one that the pool or a lender pays leaves the round robin where it is, since the
pseudocode of R39 names the round robin in its first case only; traffic of R37 is charged as it is sent, so before the grants
that follow it (DESIGN CHOICE, log entry 17). -/
def State.grantNext (s : State) (res : BudgetRes) (cls : Nat) : State :=
  if !s.budgetClock res then s else
    let g := s.budget res
    match grantChoice (s.budgetOn res) g (s.fld .BDG_CTRL_BORROW res.code) with
    | none => s
    | some (n, payer) =>
      match (if n = cls then s.nextAsk g n else none) with
      | none => s
      | some a =>
        let c := unitCost (askBytes a)
        let g := { g.use n c with granted := g.granted ++ [n] }
        s.takeAsk res (match payer with
          | .own => { g.spend n c with last := n }
          | .free => { g with last := n }
          | .pool => { g with pool := g.pool - (c : Int) }
          | .lender m => g.spend m c) a

/-- BUDGET_GRANT (R39, R41, R44) at the resource of a kind and an index, to the class it names: when R39 grants another class, or
none, nothing happens (log entry 1); the choices of log entry 17 are in State.grantNext. -/
def execBudgetGrant (kind index : Nat) (cls : ActClass) (s : State) : Answer :=
  .next (match resOf kind index with
    | some res => s.grantNext res cls.val
    | none => s)

/-- The level a starvation is reported at (R45): region for via bundles, far channels and links, else the chip. -/
def starvedAt : BudgetRes → LevelInst
  | .via r => .region r
  | .far f => .region f
  | .link l => .region l.region
  | .fabric _ | .pcie _ => .chip

/-- BUDGET_STARVED (R45): a class that waited STARVE_LIM periods in a row without a grant sets its bit and is reported
once, until software clears the bit; while its run still stands at the limit it may then report again, with no new run. A record
of the chip level names no region of its own, so its REGION is the 0x1F of a record without one (DESIGN CHOICE, log entry 17). -/
def execBudgetStarved (res : BudgetRes) (cls : ActClass) (s : State) : Answer :=
  .next (
    let lim := s.fld .BDG_CTRL_STARVE_LIM res.code
    let st := s.fld .BDG_STAT_STARVED res.code
    if lim ≠ 0 ∧ lim ≤ (s.budget res).starve.getD cls.val 0 ∧ st.testBit cls.val = false then
      let s := s.setFld .BDG_STAT_STARVED res.code (st + 2 ^ cls.val)
      let info := res.kind + 256 * res.index + 65536 * cls.val
      let q := starvedAt res
      s.raise q (if q = .chip then 0x30 else 0x24) 0x44 0 0 (info := info)
    else s)

/-- The resource a bank's BDG_SEL names. -/
def State.selRes (s : State) (who : Bank) : Option BudgetRes :=
  resOf (s.fld .BDG_SEL_KIND who.code) (s.fld .BDG_SEL_INDEX who.code)

/-- A quota is written (R43, R47): it counts from the next period start, and OVERSUB shows at once whether the quotas now
exceed the capacity. -/
def State.writeQuota (s : State) (b : BudgetRes) (n v : Nat) : State :=
  let s := s.setFld .BDG_QUOTA_QUOTA b.code v n
  s.setFld .BDG_STAT_OVERSUB b.code (bit1 (decide (s.budgetCap b < s.quotaSum b)))

/-- BDG_QUOTA_WRITE (R43, R46, R47): through the writer's BDG_SEL; a select value that names nothing makes it have no
effect. -/
def execBdgQuotaWrite (who : Bank) (cls : ActClass) (v : W32) (s : State) : Answer :=
  .next (let s := s.otherAccess who; match s.selRes who with
    | some b => s.writeQuota b cls.val v.toNat
    | none => s)

end Sys2Proof.Machine
end

