-- ==== Sys2Proof/Machine/Coherence.lean ====
section
/-! DEFINITION. The coherence protocol message by message: requests at a home, snoops at a holder, responses (03: R82 to
R114; 05: R190). -/

namespace Sys2Proof.Machine

/-- The code of the home of region r (R92). -/
def homeCode (r : Nat) : Nat := 240 + r

/-- The transactions a home has open (R85). -/
def State.txnCount (s : State) (r : Nat) : Nat :=
  (s.coh.txns.filter (fun t => homeOf t.1 == r)).length + (s.coh.chunks.filter (fun c => c.region == r)).length

/-- Whether an atomic is naturally aligned and within its line (R55). -/
def atomAligned (x : Atom) : Bool := x.off.val % (if x.wide then 8 else 4) == 0

/-- Whether an atomic of R102 can be asked for by a requester: FADD32 has 32 bits, and AND, OR and XOR belong to the L2s of
the core clusters alone (R104). -/
def atomAllowed (x : Atom) (src : Nat) : Bool :=
  match x.op with
  | .and | .or | .xor => decide (96 ≤ src) && decide (src < 112)
  | .fadd32 => !x.wide
  | _ => true

/-- Whether a request's type and what it is for belong together (R93, R94, R104, R106): a GetS is for a load, a GetSW for a watch, a
GetM for a store or atomic. -/
def actLegal (m : ReqMsg) : Bool :=
  match m.ty, m.act with
  | .getS, .load => true
  | .getSW, .watch => true
  | .getM, .store _ => true
  | .getM, .atomic x => atomAllowed x m.src
  | .wrNC, .store _ => true
  | .atomNC, .atomic x => atomAllowed x 128
  | .rdNC, _ | .putS, _ | .putE, _ | .putM, _ => true
  | _, _ => false

/-- Whether a code belongs to a requester (R52). -/
def requester (code : Nat) : Bool := decide (code < 126) || (decide (128 ≤ code) && decide (code < 212))

/-- Whether a transaction number is not in use among a requester's open transactions (R92). -/
def State.txnFree (s : State) (a txn : Nat) : Bool :=
  s.coh.miss.all (fun p => p.2.agent != a || p.2.txn != txn) && s.coh.ncOpen.all (fun o => o.req != a || o.txn != txn) &&
  s.coh.wb.all (fun p => p.2.agent != a || !p.2.arrived || p.2.txn != txn)

/-- Whether a request can occur: its requester exists, its type fits what it is for, its transaction number is free, and for a
caching agent its present state, its other open requests and their number allow it (R52, R77, R90, R92, R94, R104). -/
def State.reqLegal (s : State) (m : ReqMsg) : Bool :=
  let a := m.src.val
  let line := reqLine m
  let idle := (s.missOf a line).isNone && (s.wbOf a line).isNone && !s.ncOpenFor a line &&
    (decide (126 ≤ a) || decide (s.missCount a < missLimit a))
  s.txnFree a m.txn && actLegal m && match m.ty with
  | .getS | .getSW => decide (a < 126) && idle && (s.cached a line).isNone
  | .getM => decide (a < 126) && idle && (match s.cached a line with
      | none => true
      | some c => decide (c.st = .s))
  | .putS | .putE | .putM => decide (a < 126) && (match s.wbOf a line with
      | some w => decide (w.put = m.ty) && !w.arrived
      | none => false)
  | .rdNC | .wrNC | .atomNC => requester a && (decide (126 ≤ a) || idle)

/-- What sending a request does at its sender (R94): a miss or a non-caching request opens, or the Put is on its way. -/
def State.noteSent (s : State) (m : ReqMsg) : State :=
  let a := m.src.val
  let line := reqLine m
  match m.ty with
  | .getS | .getSW => s.setMiss a line { st := .is, op := m.act, txn := m.txn.val, cls := m.cls.val }
  | .getM =>
    s.setMiss a line { st := if (s.cached a line).isSome then .sm else .im, op := m.act, txn := m.txn.val, cls := m.cls.val }
  | .putS | .putE | .putM =>
    match s.wbOf a line with
    | some w => s.setWb a line { w with arrived := true, txn := m.txn.val }
    | none => s
  | _ => s.setCoh { s.coh with ncOpen := s.coh.ncOpen ++ [⟨a, m.txn.val, line⟩] }

/-- A request as its home receives it: a Put has the class its eviction gave it (R37), and a PutM carries the 64 bytes of the
writeback buffer with one POISON bit (R93, R112). -/
def State.asSent (s : State) (m : ReqMsg) : ReqMsg :=
  match m.ty, s.wbOf m.src (reqLine m) with
  | .putS, some w | .putE, some w => { m with cls := Fin.ofNat 8 w.cls }
  | .putM, some w => { m with cls := Fin.ofNat 8 w.cls, act := .store ⟨fullMask, w.data, anyPoison w.poison⟩ }
  | _, _ => m

/-- The distance of a requester code from the rotating pointer (R86). -/
def prioDist (p code : Nat) : Nat := (code + 256 - p) % 256

/-- Puts a request among others by its distance from the pointer. -/
def insertByPrio (p : Nat) (m : ReqMsg) : List ReqMsg → List ReqMsg
  | [] => [m]
  | x :: t => if prioDist p m.src.val < prioDist p x.src.val then m :: x :: t else x :: insertByPrio p m t

/-- The order in which a home accepts the requests of one cycle (R86). -/
def prioOrder (p : Nat) (l : List ReqMsg) : List ReqMsg := l.foldl (fun acc m => insertByPrio p m acc) []

/-- Whether a request is refused as a decode error: its line has no home, or it is an atomic that is not naturally aligned
(R51, R55). -/
def State.reqRefused (s : State) (m : ReqMsg) : Bool :=
  !(s.place (canonical m.addr)).coherent || (match m.act with
    | .atomic x => (decide (m.ty = .atomNC) || decide (m.ty = .getM)) && !atomAligned x
    | _ => false)

/-- What a requester receives is kept with its code and transaction number. -/
def State.noteResult (s : State) (r : NcResult) : State := s.setCoh { s.coh with nc := s.coh.nc ++ [r] }

/-- A decode error of a request: a host port's is counted in its HPT_ERR.UR, any other is recorded in FAB_DECERR with the address
as issued, and its requester sees zeros and UNCORRECTABLE, or a server core an access fault (R51, R54). -/
def State.reqError (s : State) (m : ReqMsg) : State :=
  let s := s.refuse m.src.val m.addr (!(decide (m.ty = .rdNC) || decide (m.ty = .getS) || decide (m.ty = .getSW)))
  if 128 ≤ m.src.val ∧ m.src.val < 132 then s else s.noteResult { req := m.src.val, txn := m.txn.val, status := 0xC0 }

/-- Whether what an agent wants of a line needs no message, since it holds the line as R94 asks: a load or watch in S, E or M, a
store or atomic in E or M. -/
def State.hits (s : State) (m : ReqMsg) : Bool :=
  let a := m.src.val
  let line := reqLine m
  actLegal m && (s.missOf a line).isNone && match m.ty, s.cached a line with
  | .getS, some _ | .getSW, some _ => decide (a < 126)
  | .getM, some c => decide (a < 126) && decide (c.st ≠ .s)
  | _, _ => false

/-- What an agent does with a line it holds: a store or atomic is performed, a watch is set when its limit allows, and where it
does not the wait is told so; an atomic's old value is returned, or UNCORRECTABLE where it meets poison, a server core's
access fault (R94, R102, R106, R109, R626). -/
def State.performAgent (s : State) (a line txn : Nat) (op : AgentOp) : State :=
  match s.cached a line with
  | none => s
  | some c =>
    match op with
    | .load => s
    | .watch =>
      if c.watched || decide (s.watchCount a < watchLimit a) then s.setCached a line { c with watched := true }
      else s.noteResult { req := a, txn := txn, noWatch := true }
    | .store w => (s.storeCached a line w).unsettleCached ⟨a, none⟩ line w
    | .atomic x =>
      if atomPoison x c.poison then s.noteResult { req := a, txn := txn, status := 0xC0, poison := true }
      else ((s.storeCached a line (atomWrite fadd32 x c.data)).unsettleCached ⟨a, none⟩ line (atomWrite fadd32 x c.data)).noteResult
        { req := a, txn := txn, old := BitVec.ofNat 64 (atomOld x c.data) }

/-- Whether nothing a requester sent to a home before is still on its way there (R15). -/
def State.wayClear (s : State) (r code : Nat) : Bool := s.coh.net.all (fun o => o.src != code || o.dst != homeCode r)

/-- Whether a home takes a request into its buffer: it is not refused, its line is this home's, it needs a message, it can occur,
nothing its sender sent the home before is still on its way (R15), and there is room (R85). -/
def State.accepts (s : State) (r : Nat) (m : ReqMsg) : Bool :=
  !s.reqRefused m && s.wayClear r m.src && homeOf (reqLine m) == r && !s.hits m && s.reqLegal m && decide ((s.reqsAt r).length < 4096)

/-- One request accepted into a home's request buffer: its bytes ask for their way there (R36). One that is refused never reaches
memory (R51), one that hits is performed in its agent's cache (R94), and a full buffer makes it wait outside (R85). -/
def State.acceptReq (s : State) (r : Nat) (m : ReqMsg) : State :=
  if s.reqRefused m then s.reqError m
  else if homeOf (reqLine m) = r ∧ s.hits m = true then
    ((s.rouse m.src).touch m.src (reqLine m)).performAgent m.src (reqLine m) m.txn m.act
  else if s.accepts r m = false then s
  else
    let n := s.asSent m
    let s := s.askRoute ⟨n.src.val, none⟩ n.cls.val (reqBytes n.ty) (siteOf n.src.val) r
    let s := (s.noteSent m).setReqs r (s.reqsAt r ++ [n])
    s.peak .DIR_TXN_REQ_MAX r (s.reqsAt r).length

/-- HOME_REQUEST_ARRIVAL (R25, R86): the requests that reach a home in one cycle are accepted in order of their distance
from P; after more than one, P is one more than the first code accepted. A stopped FCLK starts. -/
def execHomeRequestArrival (r : Region) (reqs : List ReqMsg) (s : State) : Answer :=
  .next (
    let p := s.fld .DIR_PRIO_P r
    let (s, codes) := (prioOrder p reqs).foldl (fun (acc : State × List Nat) m =>
      (acc.1.acceptReq r m, if acc.1.accepts r m then acc.2 ++ [m.src.val] else acc.2)) (s.startFclk r, [])
    match codes with
    | a :: _ :: _ => s.setFld .DIR_PRIO_P r ((a + 1) % 256)
    | _ => s)

/-- The request a home is asked to act on: the first of its type, requester and transaction, when no earlier request names
its line, the line is not Busy, and a transaction-table entry is free (R85, R87). Atomics on a line, FADD32 among them, are so
performed one at a time in the order in which they came to the home, whoever their requesters are (R105). -/
def State.actable (s : State) (r : Nat) (ty : ReqTy) (src txn : Nat) : Option ReqMsg :=
  match (s.reqsAt r).find? (fun m => decide (m.ty = ty) && m.src.val == src && m.txn.val == txn) with
  | none => none
  | some m =>
    match (s.reqsAt r).find? (fun n => reqLine n == reqLine m) with
    | none => none
    | some f => if f = m ∧ s.busy (reqLine m) = false ∧ s.txnCount r < 512 then some m else none

/-- A message of a home about a line, in the class of the request that caused it (R37). -/
def homeMsg (r : Nat) (m : ReqMsg) (ty : MsgTy) (dst : Nat) : Msg :=
  { ty := ty, src := homeCode r, dst := dst, line := reqLine m, txn := m.txn.val, cls := m.cls.val }

/-- The home sends the memory copy of a line (R97, R112). -/
def State.sendMem (s : State) (r : Nat) (m : ReqMsg) (ty : MsgTy) (flag : Bool) : State :=
  (s.askMem m.cls.val (reqLine m)).send
    { homeMsg r m ty m.src.val with flag := flag, data := s.mem.line (reqLine m), poison := anyPoison (s.mem.poison (reqLine m)) }

/-- Sends a snoop to each of some holders. -/
def State.snoop (s : State) (r : Nat) (m : ReqMsg) (line : Nat) (ty : MsgTy) (cause : Nat) (dsts : List Nat) : State :=
  dsts.foldl (fun s a => s.send { homeMsg r m ty a with line := line, cause := cause, orig := m.src.val, origTxn := m.txn.val }) s

/-- Performs a write or atomic that needs no further response, and answers it (R97, R99, R626). -/
def State.performNc (s : State) (r : Nat) (m : ReqMsg) : State :=
  let s := s.askMem m.cls.val (reqLine m)
  match m.act with
  | .store w => ((s.memWrite (reqLine m) w).unsettle ⟨m.src.val, none⟩ (writeRanges w (reqLine m))).send (homeMsg r m .ncDone m.src.val)
  | .atomic x =>
    let d := s.mem.line (reqLine m)
    if atomPoison x (s.mem.poison (reqLine m)) then s.send { homeMsg r m .ncDone m.src.val with status := 0xC0 }
    else
      let w := atomWrite fadd32 x d
      let s := (s.memWrite (reqLine m) w).unsettle ⟨m.src.val, none⟩ (writeRanges w (reqLine m))
      s.send { homeMsg r m .ncDone m.src.val with flag := true, old := BitVec.ofNat 64 (atomOld x d) }
  | _ => s

/-- Starts the home's action on a request once a way is free (R97): what it sends, and the transaction it opens. -/
def State.actStart (s : State) (r : Nat) (m : ReqMsg) : State :=
  let me := oneHot m.src.val
  let t : HomeTxn := { req := m, start := s.dirOf (reqLine m), began := s.fclk r }
  match s.dirOf (reqLine m) with
  | none =>
    let s := s.stampNext
    match m.ty with
    | .getS =>
      let e : DirEntry := ⟨true, me, s.coh.stamp⟩
      ((s.sendMem r m .dataE false).allocDir (reqLine m) e.stamp).setTxn (reqLine m) { t with needComp := true, final := some e }
    | .getSW =>
      let e : DirEntry := ⟨false, me, s.coh.stamp⟩
      ((s.sendMem r m .dataS false).allocDir (reqLine m) e.stamp).setTxn (reqLine m) { t with needComp := true, final := some e }
    | .getM =>
      let e : DirEntry := ⟨true, me, s.coh.stamp⟩
      ((s.sendMem r m .gntE true).allocDir (reqLine m) e.stamp).setTxn (reqLine m) { t with needComp := true, final := some e }
    | .rdNC => s.sendMem r m .rdData false
    | .wrNC | .atomNC => s.performNc r m
    | _ => s
  | some e =>
    let hs := holders e.sharers
    let near (target : Nat) : Nat := (s.nearest r target hs).getD 0
    match m.ty with
    | .getS | .getSW =>
      let h := near m.src.val
      (s.snoop r m (reqLine m) .snpFwdS 0 [h]).setTxn (reqLine m)
        { t with needComp := true, waits := [h], final := some { e with excl := false, sharers := e.sharers ||| me } }
    | .getM =>
      let own : DirEntry := { e with excl := true, sharers := me }
      let rest := hs.filter (· != m.src.val)
      if !e.excl && e.sharers.getLsbD m.src.val then
        let s := s.snoop r m (reqLine m) .snpInv 0 rest
        let t := { t with needComp := true, waits := rest, final := some own }
        if rest.isEmpty then (s.send (homeMsg r m .gntE m.src.val)).setTxn (reqLine m) t
        else s.setTxn (reqLine m) { t with grantAfter := true }
      else
        let h := near m.src.val
        let s := (s.snoop r m (reqLine m) .snpFwdM 0 [h]).snoop r m (reqLine m) .snpInv 0 (rest.filter (· != h))
        s.setTxn (reqLine m) { t with needComp := true, waits := rest, grantAfter := true, final := some own }
    | .rdNC =>
      let h := near (112 + r)
      (s.snoop r m (reqLine m) .snpFwdRd 0 [h]).setTxn (reqLine m) { t with waits := [h], final := some e }
    | .wrNC | .atomNC =>
      (s.snoop r m (reqLine m) .snpInv 1 hs).setTxn (reqLine m) { t with waits := hs, final := none }
    | _ => s

/-- A home acts on a Get or a non-caching request: a request that needs a new entry in a full set first back-invalidates
the oldest entry that is not Busy, and waits when all are Busy (R84). -/
def State.homeAct (s : State) (r : Nat) (m : ReqMsg) : State :=
  let take (s : State) : State := s.setReqs r ((s.reqsAt r).erase m)
  let allocates := decide (m.ty = .getS) || decide (m.ty = .getSW) || decide (m.ty = .getM)
  let ways := s.dirWays (reqLine m)
  if allocates && (s.dirOf (reqLine m)).isNone && decide (16 ≤ ways.length) then
    match s.oldestWay ways with
    | none => s
    | some v =>
      let hs := match s.dirOf v with
        | some e => holders e.sharers
        | none => []
      let s := (take s).snoop r m v .snpInv 2 hs
      s.setTxn (reqLine m) { req := m, victim := some v, victimWaits := hs, began := s.fclk r }
  else (if m.ty = .wrNC then take s else (take s).noteCoded m.cls (reqLine m)).actStart r m

/-- Carries a transaction on after a response (R84, R88, R97): the victim's way is handed over, the grant follows the last
snoop response, a non-caching request is performed, and Busy ends when everything awaited has arrived. -/
def State.txnStep (s : State) (line : Nat) : State :=
  match s.txnOf line with
  | none => s
  | some t =>
    let r := homeOf line
    match t.victim with
    | some v =>
      if t.victimWaits.isEmpty then
        (((s.setDir v none).bump .DIR_BINV_CNT_COUNT r).dropTxn line).actStart r t.req
      else s
    | none =>
      if !t.waits.isEmpty then s
      else
        let (s, t) :=
          if t.grantAfter then
            let s := if t.lost then s.sendMem r t.req .gntE true else s.send (homeMsg r t.req .gntE t.req.src.val)
            let t := { t with grantAfter := false }
            (s.setTxn line t, t)
          else (s, t)
        if t.needComp then
          if t.comp then (s.setDir line t.final).dropTxn line else s
        else
          let s := (s.setDir line t.final).dropTxn line
          match t.req.ty with
          | .rdNC =>
            if t.hasData then
              s.send { homeMsg r t.req .rdData t.req.src.val with data := t.data, poison := t.poison }
            else s.sendMem r t.req .rdData false
          | _ => s.performNc r t.req

/-- GETS (R84, R97). -/
def execGets (r : Region) (src : ReqCode) (txn : Nat) (s : State) : Answer :=
  .next (match s.actable r .getS src txn with
    | some m => s.homeAct r m
    | none => s)

/-- GETSW (R97, R106). -/
def execGetsw (r : Region) (src : ReqCode) (txn : Nat) (s : State) : Answer :=
  .next (match s.actable r .getSW src txn with
    | some m => s.homeAct r m
    | none => s)

/-- GETM (R97). -/
def execGetm (r : Region) (src : ReqCode) (txn : Nat) (s : State) : Answer :=
  .next (match s.actable r .getM src txn with
    | some m => s.homeAct r m
    | none => s)

/-- RDNC (R97, R100). -/
def execRdnc (r : Region) (src : ReqCode) (txn : Nat) (s : State) : Answer :=
  .next (match s.actable r .rdNC src txn with
    | some m => s.homeAct r m
    | none => s)

/-- WRNC (R97, R99). -/
def execWrnc (r : Region) (src : ReqCode) (txn : Nat) (s : State) : Answer :=
  .next (match s.actable r .wrNC src txn with
    | some m => s.homeAct r m
    | none => s)

/-- ATOMNC (R97, R104, R626). -/
def execAtomnc (r : Region) (src : ReqCode) (txn : Nat) (s : State) : Answer :=
  .next (match s.actable r .atomNC src txn with
    | some m => s.homeAct r m
    | none => s)

/-- A home judges a Put (R98): a current one is retired, with PutM's data written to memory; a stale one is discarded, its
sender taken out of the sharers, and answered with PutAckStale. -/
def State.judgePut (s : State) (r : Nat) (m : ReqMsg) : State :=
  let a := m.src.val
  let s := s.setReqs r ((s.reqsAt r).erase m)
  let current := match s.dirOf (reqLine m) with
    | none => false
    | some e => match m.ty with
      | .putS => !e.excl && e.sharers.getLsbD a
      | _ => e.excl && e.sharers.getLsbD a
  let s := match current, m.ty, m.act with
    | true, .putM, .store w => s.writeBack m.cls.val (reqLine m) w.data w.poison
    | _, _, _ => s
  let s := match s.dirOf (reqLine m) with
    | some e => s.setDir (reqLine m) (some { e with sharers := e.sharers &&& ~~~ (oneHot a) })
    | none => s
  if current then s.send (homeMsg r m .putAck a)
  else (s.bump .DIR_STALE_CNT_COUNT r).send (homeMsg r m .putAckStale a)

/-- PUTS (R97, R98). -/
def execPuts (r : Region) (src : ReqCode) (txn : Nat) (s : State) : Answer :=
  .next (match s.actable r .putS src txn with
    | some m => s.judgePut r m
    | none => s)

/-- PUTE (R97, R98). -/
def execPute (r : Region) (src : ReqCode) (txn : Nat) (s : State) : Answer :=
  .next (match s.actable r .putE src txn with
    | some m => s.judgePut r m
    | none => s)

/-- PUTM (R97, R98). -/
def execPutm (r : Region) (src : ReqCode) (txn : Nat) (s : State) : Answer :=
  .next (match s.actable r .putM src txn with
    | some m => s.judgePut r m
    | none => s)

/-- A block in GATED wakes before it answers a snoop (R29). The clock of a sequencer or of an L2 starts for the snoop, which the wake
logic holds until it runs; the table has no command for that moment, so the two are one (R110). -/
def State.snoopable (s : State) (a : Nat) : Bool := decide (96 ≤ a) || decide (s.blkState a = .run)

/-- A snoop finds its block gated: the clock starts and the snoop proceeds later. -/
def State.stirAgent (s : State) (a : Nat) : State := if h : a < 96 then s.stirBlk ⟨a, h⟩ else s

/-- A holder's answer to the home. -/
def answer (m : Msg) (ty : MsgTy) : Msg :=
  { ty := ty, src := m.dst, dst := m.src, line := m.line, txn := m.txn, cls := m.cls }

/-- A holder's data for the requester it was told of (R93). -/
def forward (m : Msg) (ty : MsgTy) (d : Line) (p : BitVec 16) (dirty : Bool) : Msg :=
  { ty := ty, src := m.dst, dst := m.orig, line := m.line, txn := m.origTxn, cls := m.cls, data := d,
    poison := anyPoison p, flag := dirty }

/-- SNPFWDS at a holder (R94). -/
def State.onSnpFwdS (s : State) (m : Msg) : State :=
  let a := m.dst
  match s.cached a m.line with
  | some c =>
    let s := s.send (forward m .dataS c.data c.poison false)
    let s := s.setCached a m.line { c with st := .s }
    if c.st = .m then s.send { answer m .snpData with flag := true, data := c.data, poison := anyPoison c.poison }
    else s.send (answer m .snpAck)
  | none =>
    match s.wbOf a m.line with
    | some w =>
      let s := (s.send (forward m .dataS w.data w.poison false)).setWb a m.line { w with dirty := false }
      if w.dirty then s.send { answer m .snpData with flag := true, data := w.data, poison := anyPoison w.poison }
      else s.send (answer m .snpAck)
    | none => s.send (answer m .snpAck)

/-- SNPFWDM at a holder (R94): the copy is given up; an upgrade in progress falls back to IM. -/
def State.onSnpFwdM (s : State) (m : Msg) : State :=
  let a := m.dst
  match s.cached a m.line with
  | some c =>
    let s := (s.send (forward m .dataM c.data c.poison (decide (c.st = .m)))).send (answer m .snpAck)
    let s := match s.missOf a m.line with
      | some q => if q.st = TState.sm then s.setMiss a m.line { q with st := TState.im } else s
      | none => s
    s.loseLine a m.line
  | none =>
    match s.wbOf a m.line with
    | some w =>
      ((s.send (forward m .dataM w.data w.poison w.dirty)).send (answer m .snpAck)).setWb a m.line { w with dirty := false }
    | none => s.send (answer m .snpAck)

/-- SNPFWDRD at a holder (R94). -/
def State.onSnpFwdRd (s : State) (m : Msg) : State :=
  match s.copyOf m.dst m.line with
  | some (d, p) => s.send { answer m .snpData with data := d, poison := anyPoison p }
  | none => s.send (answer m .snpAck)

/-- SNPINV at a holder (R94). -/
def State.onSnpInv (s : State) (m : Msg) : State :=
  let a := m.dst
  let s := match s.missOf a m.line with
    | some q => if q.st = TState.sm then s.setMiss a m.line { q with st := TState.im } else s
    | none => s
  match s.dirtyCopy a m.line with
  | some (d, p) =>
    let s := s.send { answer m .snpData with flag := true, data := d, poison := p }
    match s.wbOf a m.line with
    | some w => s.setWb a m.line { w with dirty := false }
    | none => s.loseLine a m.line
  | none => (s.send (answer m .snpAck)).loseLine a m.line

/-- An agent installs a line, performs what it wanted it for, and sends CompAck (R94). -/
def State.finishFill (s : State) (a line : Nat) (q : Miss) (c : CLine) : State :=
  let s := (s.dropMiss a line).stampNext
  let s := (s.setCached a line { c with used := s.coh.stamp }).performAgent a line q.txn q.op
  s.send { ty := .compAck, src := a, dst := homeCode (homeOf line), line := line, txn := q.txn, cls := q.cls }

/-- A line an agent was given is installed, or waits while its set has no free way (R95). -/
def State.finishMiss (s : State) (a line : Nat) (q : Miss) (c : CLine) : State :=
  if (s.victimFor a line).isSome && (s.cached a line).isNone then
    s.setMiss a line { q with fill := some { c with agent := a, line := line } }
  else s.finishFill a line q c

/-- The fills of an agent that wait for a way take the ways there are (R95). -/
def State.resumeFills (s : State) (a : Nat) : State :=
  (s.coh.miss.filter (fun p => p.2.agent == a)).foldl (fun (s : State) p =>
    match p.2.fill with
    | some c => if (s.victimFor a c.line).isSome then s else s.finishFill a c.line p.2 c
    | none => s) s

/-- SNPFWDS (R29, R94). -/
def execSnpfwds (a : Agent) (line : Nat) (s : State) : Answer :=
  .next (match s.recv .snpFwdS a line with
    | some (m, t) => if s.snoopable a then (t.rouse a).onSnpFwdS m else s.stirAgent a
    | none => s)

/-- SNPFWDM (R29, R94, R107). -/
def execSnpfwdm (a : Agent) (line : Nat) (s : State) : Answer :=
  .next (match s.recv .snpFwdM a line with
    | some (m, t) => if s.snoopable a then ((t.rouse a).onSnpFwdM m).resumeFills a else s.stirAgent a
    | none => s)

/-- SNPFWDRD (R29, R94). -/
def execSnpfwdrd (a : Agent) (line : Nat) (s : State) : Answer :=
  .next (match s.recv .snpFwdRd a line with
    | some (m, t) => if s.snoopable a then (t.rouse a).onSnpFwdRd m else s.stirAgent a
    | none => s)

/-- SNPINV (R29, R94, R107). -/
def execSnpinv (a : Agent) (line : Nat) (s : State) : Answer :=
  .next (match s.recv .snpInv a line with
    | some (m, t) => if s.snoopable a then ((t.rouse a).onSnpInv m).resumeFills a else s.stirAgent a
    | none => s)

/-- The line whose transaction a response about a line belongs to: its own, or the one it is the victim of (R84). -/
def State.txnLineFor (s : State) (line : Nat) : Option Nat :=
  if (s.txnOf line).isSome then some line
  else (List.find? (fun (t : Nat × HomeTxn) => decide (t.2.victim = some line)) s.coh.txns).map (·.1)

/-- An agent's snoop response is in (R88); one that nobody awaits any more is discarded (R113). -/
def State.snoopIn (s : State) (a line : Nat) (f : HomeTxn → HomeTxn) : State :=
  match s.txnLineFor line with
  | none => s
  | some l =>
    match s.txnOf l with
    | none => s
    | some t =>
      let t := if l = line then { f t with waits := t.waits.filter (· ≠ a) }
               else { t with victimWaits := t.victimWaits.filter (· ≠ a) }
      (s.setTxn l t).txnStep l

/-- Whether a response of an agent about a line is awaited. -/
def State.awaits (s : State) (a line : Nat) : Bool :=
  match s.txnLineFor line with
  | none => false
  | some l => match s.txnOf l with
    | none => false
    | some t => if l = line then t.waits.contains a else t.victimWaits.contains a

/-- A response of an agent to the home of a line taken out of flight. -/
def State.recvFrom (s : State) (ty : MsgTy) (src dst line : Nat) : Option (Msg × State) :=
  s.deliver (fun m => decide (m.ty = ty) && m.src == src && m.dst == dst && m.line == line)

/-- Whether a snoop response is the one a home has given up waiting for (R113): an agent answers in the order it is asked, so the
first answer that comes is the late one. -/
def State.isLate (s : State) (a line : Nat) : Bool := s.coh.late.contains (a, line)
/-- A late response is discarded (R113). -/
def State.dropLate (s : State) (a line : Nat) : State := s.setCoh { s.coh with late := s.coh.late.erase (a, line) }

/-- SNPACK (R88). -/
def execSnpack (r : Region) (a : Agent) (line : Nat) (s : State) : Answer :=
  .next (match s.recvFrom .snpAck a (homeCode r) line with
    | some (_, t) => if s.isLate a line then t.dropLate a line else if s.awaits a line then t.snoopIn a line id else t
    | none => s)

/-- Whether a transaction's request overwrites the whole line, so that returned dirty data is discarded (R99). -/
def HomeTxn.fullWrite (t : HomeTxn) : Bool :=
  match t.req.ty, t.req.act with
  | .wrNC, .store w => decide (w.mask = fullMask)
  | _, _ => false

/-- SNPDATA (R97, R99): data with W set is written to memory, unless a full write discards it; data for a non-caching read
is kept for its answer. -/
def execSnpdata (r : Region) (a : Agent) (line : Nat) (s : State) : Answer :=
  .next (match s.recvFrom .snpData a (homeCode r) line with
    | some (m, t) =>
      if s.isLate a line then t.dropLate a line
      else if s.awaits a line then
        let full := match t.txnOf line with
          | some x => x.fullWrite
          | none => false
        let t := t.iff (m.flag && !full) (fun t => t.writeBack m.cls line m.data m.poison)
        t.snoopIn a line (fun x => { x with hasData := true, data := m.data, poison := m.poison })
      else t
    | none => s)

/-- COMPACK (R88): held until every snoop response of the transaction is in. -/
def execCompack (r : Region) (a : Agent) (line : Nat) (s : State) : Answer :=
  .next (match s.recvFrom .compAck a (homeCode r) line with
    | some (_, t) =>
      match t.txnOf line with
      | some x => if x.req.src.val = a.val then (t.setTxn line { x with comp := true }).txnStep line else t
      | none => t
    | none => s)

/-- PUTACK (R94): the writeback-buffer entry is free. -/
def execPutack (a : Agent) (line : Nat) (s : State) : Answer :=
  .next (match s.recv .putAck a line with
    | some (_, t) => (t.dropWb a line).resumeFills a
    | none => s)

/-- PUTACKSTALE (R94): the writeback-buffer entry is free. -/
def execPutackstale (a : Agent) (line : Nat) (s : State) : Answer :=
  .next (match s.recv .putAckStale a line with
    | some (_, t) => (t.dropWb a line).resumeFills a
    | none => s)

/-- The poison of a line that came in a message (R112). -/
def msgPoison (p : Bool) : BitVec 16 := if p then BitVec.allOnes 16 else 0

/-- The open request a message answers: that of its line, line and transaction number the same (R93); one that comes for a request
that is over, or whose line has come, is discarded (R113). -/
def State.answered (s : State) (a line : Nat) (m : Msg) : Option Miss :=
  match s.missOf a line with
  | some q => if q.txn = m.txn ∧ q.fill.isNone = true then some q else none
  | none => none

/-- GNTE (R94): an upgrade completes; a grant with data installs it; a grant without waits for the data. -/
def execGnte (a : Agent) (line : Nat) (s : State) : Answer :=
  .next (match s.recv .gntE a line with
    | none => s
    | some (m, t) =>
      match s.answered a line m with
      | none => t
      | some q =>
        if m.flag then t.finishMiss a line q { st := .m, data := m.data, poison := msgPoison m.poison }
        else match q.st, s.cached a line with
          | .sm, some c => t.finishMiss a line q { c with st := .m }
          | _, _ =>
            match q.data with
            | some (d, p, _) => t.finishMiss a line q { st := .m, data := d, poison := p }
            | none => t.setMiss a line { q with granted := true })

/-- DATAS (R94). -/
def execDatas (a : Agent) (line : Nat) (s : State) : Answer :=
  .next (match s.recv .dataS a line with
    | none => s
    | some (m, t) =>
      match s.answered a line m with
      | some q => t.finishMiss a line q { st := .s, data := m.data, poison := msgPoison m.poison }
      | none => t)

/-- DATAE (R94). -/
def execDatae (a : Agent) (line : Nat) (s : State) : Answer :=
  .next (match s.recv .dataE a line with
    | none => s
    | some (m, t) =>
      match s.answered a line m with
      | some q => t.finishMiss a line q { st := .e, data := m.data, poison := msgPoison m.poison }
      | none => t)

/-- DATAM (R94, R96): held until the grant arrives; then the line is installed in M. -/
def execDatam (a : Agent) (line : Nat) (s : State) : Answer :=
  .next (match s.recv .dataM a line with
    | none => s
    | some (m, t) =>
      match s.answered a line m with
      | none => t
      | some q =>
        if q.granted then t.finishMiss a line q { st := .m, data := m.data, poison := msgPoison m.poison }
        else t.setMiss a line { q with data := some (m.data, msgPoison m.poison, m.flag) })

/-- A result reaches its non-caching requester, and its request is no longer open. -/
def State.takeResult (s : State) (ty : MsgTy) (req txn : Nat) : State :=
  match s.deliver (fun m => decide (m.ty = ty) && m.dst == req && m.txn == txn) with
  | none => s
  | some (m, t) =>
    (t.setCoh { t.coh with ncOpen := t.coh.ncOpen.filter (fun o => !(o.req == req && o.txn == txn)) }).noteResult
      { req := req, txn := txn, status := m.status, poison := m.poison, data := m.data, old := m.old }

/-- RDDATA (R78, R97). -/
def execRddata (req : ReqCode) (txn : Nat) (s : State) : Answer := .next (s.takeResult .rdData req txn)

/-- NCDONE (R78, R97). -/
def execNcdone (req : ReqCode) (txn : Nat) (s : State) : Answer := .next (s.takeResult .ncDone req txn)

/-- Whether an agent may choose a line of its cache as victim: a watched one only when every way of its set is watched (R109), and
in a block cache the least recently used of those it may choose (R185). -/
def State.mayEvict (s : State) (a line : Nat) (c : CLine) : Bool :=
  let (set, ways) := cacheSet a line
  let mates := (s.linesOf a).filter (fun p => (cacheSet a p.1).1 == set)
  let plain := mates.filter (fun p => !p.2.watched)
  (!c.watched || (plain.isEmpty && decide (ways ≤ mates.length))) &&
  (decide (96 ≤ a) || lru (if plain.isEmpty then mates else plain) == some line)

/-- The class of the Put that makes room in a line's set: that of the request whose fill waits for the way, else MGMT (R37). -/
def State.evictClass (s : State) (a line : Nat) : Nat :=
  match List.find? (fun (p : Nat × Miss) => p.2.agent == a && (match p.2.fill with
      | some c => (cacheSet a c.line).1 == (cacheSet a line).1
      | none => false)) s.coh.miss with
  | some p => p.2.cls
  | none => 7

/-- CACHE_EVICT (R94, R95, R107, R109, R185): with a writeback-buffer entry free, the line moves there and its Put is sent, and a
fill that waited for the way goes on. -/
def execCacheEvict (a : Agent) (line : Nat) (s : State) : Answer :=
  .next (match s.cached a line with
    | none => s
    | some c =>
      if (s.missOf a line).isSome || (s.wbOf a line).isSome || decide (wbEntries a ≤ s.wbCount a) || !s.mayEvict a line c then s
      else
        let put : ReqTy := match c.st with
          | .s => .putS
          | .e => .putE
          | .m => .putM
        ((s.loseLine a line).setWb a line { agent := a.val, put := put, dirty := decide (c.st = .m), data := c.data,
                                            poison := c.poison, cls := s.evictClass a line }).resumeFills a)

/-- The line of a lost owner written to memory as poison (R113); what its bytes hold is open. -/
def State.writeLost (s : State) (cls line : Nat) : State :=
  (s.writeBack cls line (lineOf ((List.range 64).map (fun i => Sys2Proof.Config.undefByte s.free (line * 64 + i)))) true).tick

/-- The transaction whose snoop of a line is unanswered, once DIR_CTRL.SNP_TO × 4,096 FCLK cycles are over; a SNP_TO of 0 acts as 1
(R113). -/
def State.snoopDue (s : State) (r a line : Nat) : Option HomeTxn :=
  match (s.txnLineFor line).bind s.txnOf with
  | some t => if s.awaits a line = true ∧ homeOf line = r ∧ t.began + max (s.fld .DIR_CTRL_SNP_TO r) 1 * 4096 ≤ s.fclk r then some t
      else none
  | none => none

/-- SNOOP_TIMEOUT (R113): the silent agent leaves the sharer vector; an owner's data is lost and the line becomes poison in
memory; the transaction completes with the memory copy; a record names agent and line; the answer still to come will be
discarded. -/
def execSnoopTimeout (r : Region) (a : Agent) (line : Nat) (s : State) : Answer :=
  .next (match s.snoopDue r a line with
    | none => s
    | some due =>
      let wasOwner := match s.dirOf line with
        | some e => e.excl && e.sharers.getLsbD a
        | none => false
      let s := s.iff wasOwner (fun s => s.writeLost due.req.cls.val line)
      let s := match s.dirOf line with
        | some e => s.setDir line (some { e with sharers := e.sharers &&& ~~~ (oneHot a) })
        | none => s
      let s := match s.txnOf line with
        | none => s
        | some t =>
          let supplied := match t.start with
            | some e => match t.req.ty with
              | .getS | .getSW => true
              | .getM => (e.excl || !e.sharers.getLsbD t.req.src.val) &&
                         s.nearest r t.req.src.val (holders e.sharers) == some a.val
              | _ => false
            | none => false
          let s := s.setTxn line { t with
            final := t.final.map (fun (e : DirEntry) =>
              { e with sharers := (e.sharers &&& ~~~ (oneHot a)) ||| (if t.needComp then oneHot t.req.src.val else 0) })
            lost := t.lost || (supplied && decide (t.req.ty = ReqTy.getM)) }
          s.iff (supplied && decide (t.req.ty ≠ ReqTy.getM)) (fun s => s.sendMem r t.req .dataS false)
      let s := s.raise (.region r) 0x20 0xC0 0x07 2 (addr := line * 64) (req := a.val) (info := a.val)
      let s := s.setCoh { s.coh with late := s.coh.late ++ [(a.val, line)] }
      s.snoopIn a line id)

/-- WATCH_LIMIT_POLL (R109, R631): an agent that waits for a line of one of its rings reads it again, and sets the watch once
one of its watches has been freed. A line no ring of the agent waits for is not polled. -/
def execWatchLimitPoll (a : Agent) (line : Nat) (s : State) : Answer :=
  .next (match allRings.find? (fun id => (ringMover id).code == a.val && s.ringOn id && canonical (s.ringLine id * 64) / 64 == line) with
    | some id => s.watchRing id
    | none => s)

/-- DIR_PEEK (R114): writing GO takes a snapshot of a line's directory entry; nothing else changes. -/
def State.dirPeek (s : State) (r : Nat) (v : Nat) : State :=
  let line := bitsOf v 6 42
  let s := s.setFld .DIR_PEEK_ADDR_LINE r line
  if bitOf v 63 = false then s
  else
    let e := s.dirOf line
    let hit := e.isSome && homeOf line == r
    let st := if s.busy line && homeOf line == r then 3 else if !hit then 0 else match e with
      | some e => if e.excl then 2 else 1
      | none => 0
    let age := match e with
      | some e => ((s.dirWays line).filter (fun w => decide (w.2.stamp < e.stamp))).length
      | none => 0
    let vec := match e with
      | some e => if hit then e.sharers.toNat else 0
      | none => 0
    let s := s.setFld .DIR_PEEK_RES_DONE r 1
    let s := s.setFld .DIR_PEEK_RES_HIT r (bit1 hit)
    let s := s.setFld .DIR_PEEK_RES_STATE r st
    let s := s.setFld .DIR_PEEK_RES_AGE r (if hit then age else 0)
    let s := s.setFld .DIR_PEEK_RES_SET r (dirSet line)
    let s := s.setFld .DIR_PEEK_VEC_SHARERS r (vec % 2 ^ 64) 0
    s.setFld .DIR_PEEK_VEC_SHARERS r (vec / 2 ^ 64) 1

/-- DIR_PEEK (R114), through the writer's REG_SEL; a select value out of range makes it have no effect (R64). -/
def execDirPeek (who : Bank) (v : W64) (s : State) : Answer :=
  .next (let s := s.otherAccess who; let r := s.fld .REG_SEL_INDEX who.code
    if r < 12 then s.dirPeek r v.toNat else s)

end Sys2Proof.Machine
end

