-- ==== Sys2Proof/Machine/ExecOps.lean ====
section
/-! DEFINITION. Executors: scalar registers, predicates, tokens, completion records and the completion of instructions (06:
R202 to R219, R246 to R251). -/

namespace Sys2Proof.Machine

/-- A scalar register; S0 reads 0 (R203). -/
def Exec.reg (e : Exec) (i : Nat) : W64 := if i = 0 then 0 else Tbl.get e.sreg 0 i
/-- Writes a scalar register; a write of S0 is ignored (R203). -/
def Exec.setReg (e : Exec) (i : Nat) (v : W64) : Exec := if i = 0 then e else { e with sreg := Tbl.set e.sreg 0 i v }
/-- A token counter. -/
def Exec.token (e : Exec) (t : Nat) : Nat := Tbl.get e.tok 0 t
/-- Writes a token counter. -/
def Exec.setToken (e : Exec) (t v : Nat) : Exec := { e with tok := Tbl.set e.tok 0 t v }
/-- A predicate bit, P1 to P7. -/
def Exec.predBit (e : Exec) (i : Nat) : Bool := e.pred.getLsbD i
/-- Writes a predicate bit; there is no P0. -/
def Exec.setPred (e : Exec) (i : Nat) (v : Bool) : Exec :=
  if i = 0 then e else { e with pred := if v then e.pred ||| (1#8 <<< i) else e.pred &&& ~~~ (1#8 <<< i) }

/-- A status and its DETAIL. -/
abbrev Outc := Nat × Nat

/-- The more severe of two outcomes (R250): the higher bits [7:6], then the lower value other than OK, then the lower
DETAIL. -/
def worst (a b : Outc) : Outc :=
  if a.1 = 0 then b
  else if b.1 = 0 then a
  else if a.1 / 64 ≠ b.1 / 64 then (if a.1 / 64 < b.1 / 64 then b else a)
  else if a.1 ≠ b.1 then (if a.1 < b.1 then a else b)
  else if a.2 ≤ b.2 then a else b

/-- UNCORRECTABLE with a DETAIL, or OK when the DETAIL is 0. -/
def failed (detail : Nat) : Outc := if detail = 0 then (0, 0) else (0xC0, detail)

/-- The SOURCE field of a record (R246). -/
def sourceOf : Executor → Nat
  | .seq r => 0x4000 + r.val
  | .cell c => c.val

/-- The layout of a completion record (R246). -/
def recordBytes (status detail source opcode flags region addr epoch step slot count : Nat) : List Byte :=
  leBytes 1 status ++ leBytes 1 detail ++ leBytes 2 source ++ leBytes 2 opcode ++ leBytes 1 flags ++ leBytes 1 region ++
  leBytes 6 addr ++ leBytes 2 epoch ++ leBytes 6 step ++ leBytes 2 slot ++ leBytes 8 count

/-- The completion record of an instruction (R246). -/
def Flight.bytes (f : Flight) (x : Executor) : List Byte :=
  recordBytes f.status f.detail (sourceOf x) (f.cls * 1024 + f.op)
    (2 * bit1 f.predOff + 4 * bit1 ((f.forced && !f.cr) || f.refusedPark)) x.region.val f.addr f.epoch f.step f.slot f.count

/-- A token counter of an executor is incremented (R216, R217): at 0xFFFF it stays and a record reports it. -/
def State.incToken (s : State) (x : Executor) (t : Nat) : State :=
  if t = 0 then s
  else
    let e := s.exe x
    if e.token t < 0xFFFF then s.setExe x (e.setToken t (e.token t + 1))
    else match x with
      | .cell c => s.raise (.cell c) 0x05 0xC0 0x08 1 (info := t)
      | .seq r => s.raise (.region r) 0x29 0xC0 0x08 1 (info := t)

/-- Whether records of an instruction for the numeric event ring still wait at the writer (R231, R373): until they are taken it
does not complete. -/
def State.recordsHeld (s : State) (x : Executor) (f : Flight) : Bool :=
  (s.ring (.numeric x.region)).held.any (fun rec =>
    [sourceOf x, 0x8000 + x.region.val].contains (leNat ((rec.drop 2).take 2)) &&
    leNat ((rec.drop 4).take 2) == f.cls * 1024 + f.op && leNat ((rec.drop 8).take 6) == f.addr)

/-- Whether a cell stalls at a numeric record of its own, or of a bank-side pass of its own, that the writer cannot take (R231,
R373). -/
def State.cellStalled (s : State) (c : Cell) : Bool :=
  (s.ring (.numeric c.region)).held.any (fun rec => leNat ((rec.drop 2).take 2) == c.val) ||
  (s.exe (.cell c)).flights.any (fun f => s.recordsHeld (.cell c) f)

/-- Whether an instruction's completion can be written now (R216, R231): its pass is over (R160), its record is accepted, or it
writes none, and none of its event records waits. -/
def State.canComplete (s : State) (x : Executor) (f : Flight) : Bool :=
  f.pass.isNone && ((!f.cr && !f.forced) || s.ringAccepts (.completion x.region)) && !s.recordsHeld x f

/-- An instruction completes (R216, R247): its record is written when CR or FORCED asks for it, then its token is signalled. -/
def State.complete (s : State) (x : Executor) (f : Flight) : State :=
  let s := s.iff (f.cr || f.forced) (fun s => s.ringPut (.completion x.region) (f.bytes x))
  if f.noToken then s else s.incToken x f.tokOut

/-- The queues a flight occupies (R211). -/
def Flight.inQueue (f : Flight) (q : QueueId) : Bool := decide (f.q = q) || (f.both && decide (q = .vector))

/-- How many instructions a queue holds (R210). -/
def queueRoom : QueueId → Nat
  | .matrix => 8
  | .vector => 16
  | .move => 16
  | .dma | .coll | .codec => 64
  | .launch _ => 0

/-- Whether a queue of an executor has room. -/
def State.queueFree (s : State) (x : Executor) (q : QueueId) : Bool :=
  match q with
  | .launch _ => true
  | q => decide (((s.exe x).flights.filter (fun f => f.inQueue q)).length < queueRoom q)

/-- Whether two instructions in flight are in different queues (R265). -/
def Flight.apart (f g : Flight) : Bool :=
  let launch (h : Flight) : Bool := match h.q with
    | .launch _ => true
    | _ => false
  !launch f && !launch g && !f.inQueue g.q && !(g.both && f.inQueue .vector)

/-- Whether an instruction reads bytes that one in another queue, still in flight, writes. -/
def State.readsRaced (s : State) (x : Executor) (f : Flight) : Bool :=
  (s.exe x).flights.any (fun o => o.apart f && !(overlaps o.writes f.reads).isEmpty)

/-- An instruction that joins those in flight and shares bytes with one of another queue, one of the two writing them: no token
or FENCE orders the two, since the other has not completed. Those bytes have undefined values, and so have the destinations of
the one that reads them; they are left undefined again as each of the two completes (R265). -/
def State.race (s : State) (x : Executor) (f : Flight) : State × Flight :=
  let e := s.exe x
  let others := e.flights.filter (fun o => o.apart f)
  let shared (o : Flight) : List (Nat × Nat) := overlaps o.writes (f.reads ++ f.writes) ++ overlaps o.reads f.writes
  let mine := others.flatMap (fun o => shared o ++ (if (overlaps o.writes f.reads).isEmpty then [] else f.writes))
  let theirs (o : Flight) : List (Nat × Nat) := shared o ++ (if (overlaps o.reads f.writes).isEmpty then [] else o.writes)
  if others.all (fun o => (shared o).isEmpty) then (s, f)
  else
    let fl := e.flights.map (fun o => if o.apart f then { o with raced := o.raced ++ theirs o } else o)
    ((s.setExe x { e with flights := fl }).undef (mine ++ others.flatMap theirs), { f with raced := mine })

/-- The oldest instruction of a queue. -/
def State.queueHead (s : State) (x : Executor) (q : QueueId) : Option Flight := (s.exe x).flights.find? (fun f => f.inQueue q)

/-- A flight leaves its executor. -/
def State.dropFlight (s : State) (x : Executor) (uid : Nat) : State :=
  let e := s.exe x
  s.setExe x { e with flights := e.flights.filter (fun f => f.uid ≠ uid) }

/-- Changes the flight of an executor that has a number. -/
def State.mapFlight (s : State) (x : Executor) (uid : Nat) (g : Flight → Flight) : State :=
  let e := s.exe x
  s.setExe x { e with flights := e.flights.map (fun f => if f.uid = uid then g f else f) }

/-- What an executor reads at dispatch, with no queue of its own (R213, R214, R311), meets what its instructions in flight write:
no token or FENCE orders the two, so the shared bytes have undefined values, now and again as those instructions complete (R265).
Answers the shared bytes. -/
def State.raceReads (s : State) (x : Executor) (reads : List (Nat × Nat)) : State × List (Nat × Nat) :=
  let e := s.exe x
  let shared (o : Flight) : List (Nat × Nat) := overlaps o.writes reads
  let hit := e.flights.flatMap shared
  if hit.isEmpty then (s, [])
  else ((s.setExe x { e with flights := e.flights.map (fun o => { o with raced := o.raced ++ shared o }) }).undef hit, hit)

/-- The trap record (R161). -/
def State.trapRecord (s : State) (c : Cell) (f : Flight) (t : TrapAt) : List Byte :=
  EventRec.bytes {
    type := 0x01, status := 0x40, source := if f.bsu || t.bsu then 0x8000 + c.region.val else c.val, opcode := f.cls * 1024 + f.op
    cause := t.cause, region := c.region.val, addr := f.addr, epoch := f.epoch, step := f.step, time := s.fclk c.region
    mid := leBytes 2 0 ++ leBytes 3 t.row ++ leBytes 3 t.col ++ leBytes 1 t.er ++ leBytes 1 t.ec ++ leBytes 8 t.idx
    tail := leBytes 4 t.a ++ leBytes 4 t.b }

/-- The classes whose instructions trap (R157). -/
def classTraps (cls : Nat) : Bool := [2, 3, 4, 5, 6, 9].contains cls

/-- A NaN trap (R157 to R160), as an instruction f of a cell comes to its completion. One that wrote a NaN stops the cell, which
dispatches nothing more, and the cell's level records the stop. The trap has one record, which names the earliest instruction in
program order that wrote a NaN: it is written once none earlier is in flight that could trap (DESIGN CHOICE, log entry 84, for
the moment); those behind it in flight write none. -/
def State.trapStep (s : State) (c : Cell) (f : Flight) : State :=
  let e := s.exe (.cell c)
  let due : Option Flight := match e.trapDue, f.trap with
    | some g, some _ => some (if f.uid < g.uid then f else g)
    | none, some _ => if f.quiet then none else some f
    | d, none => d
  match due with
  | none => s
  | some g =>
    match g.trap with
    | none => s
    | some t =>
      let stops := e.trapDue.isNone && e.running && decide (e.stop = .no)
      let earlier := e.flights.any (fun h => classTraps h.cls && decide (h.uid < g.uid) && decide (h.uid ≠ f.uid))
      let s := s.setExe (.cell c) { e with
        stop := if stops then .nanTrap else e.stop
        trapDue := if earlier then some g else none
        flights := e.flights.map (fun h =>
          if h.uid = f.uid then { h with trap := none, quiet := true } else { h with quiet := h.quiet || decide (g.uid < h.uid) }) }
      let s := s.iff stops (fun s => s.raise (.cell c) 0x06 0x40 0 2 (addr := g.addr))
      s.iff (!earlier) (fun s => s.ringPut (.numeric c.region) (s.trapRecord c g t))

/-- The chunks a bank-side pass holds are released (R190). -/
def State.releaseChunks (s : State) (r : Region) (l : List Nat) : State :=
  s.setCoh { s.coh with chunks := s.coh.chunks.filter (fun c => c.region ≠ r.val || !l.contains c.chunk) }

/-- The flight as its job lets it complete: a kernel load or BLKST once no cell or block it waits for is left (R279, R315); a
LAUNCH completes by a command of its own. -/
def State.jobDone (s : State) (f : Flight) : Option Flight :=
  match f.job with
  | none => some f
  | some id => match s.job id with
    | some j => if decide (j.kind ≠ .launch) && j.waits.isEmpty then
        some { f with status := j.status, detail := j.detail, count := j.count } else none
    | none => none

/-- INSTRUCTION_COMPLETE (R211, R212, R216): the oldest instruction of a queue, all its writes performed and every item it
has outstanding answered, traps if it wrote a NaN (R158), writes its record and signals its token. -/
def execInstructionComplete (x : Executor) (q : QueueId) (s : State) : Answer :=
  .next (match s.queueHead x q with
    | none => s
    | some f =>
      let first := !f.both || (s.queueHead x .matrix == some f && s.queueHead x .vector == some f)
      match s.jobDone f with
      | none => s
      | some g =>
        if !first || decide (g.items ≠ 0) || !s.canComplete x g || s.fenced then s
        else
          let s := match x with
            | .cell c => s.trapStep c g
            | .seq _ => s
          if s.recordsHeld x g then s
          else
            let s := match g.job with
              | some id => s.endJob id
              | none => s
            let s := ((s.dropFlight x g.uid).undef g.raced).complete x g
            s.iff g.bsu (fun s => s.bump .NMS_BSU_PASSES x.region))

/-- The address an instruction of a cell is reported under (R207): L + 16 (j - J). Where no load has written the entry, as
after running past the last one, it is the address of the entry before it, if any. -/
def Exec.addrOf (e : Exec) (j : Nat) : Nat :=
  match (e.ibuf.find? (fun p => p.1 == j)) with
  | some (_, b) => b.src + 16 * (j - b.first)
  | none => match (e.ibuf.find? (fun p => p.1 + 1 == j)) with
    | some (_, b) => b.src + 16 * (j - 1 - b.first)
    | none => 0

/-- The entry of an instruction buffer. -/
def Exec.entry (e : Exec) (j : Nat) : Option IbEntry := Tbl.find? e.ibuf j

/-- The address of the instruction an executor is at. -/
def State.pcAddr (s : State) (x : Executor) : Nat :=
  match x with
  | .seq r => s.fld .SEQ_PC_PC r * 16
  | .cell _ => (s.exe x).addrOf (s.exe x).pc

/-- The step, layout epoch and slot a record of an executor shows (R246). -/
def State.execCtx (s : State) (x : Executor) : Nat × Nat × Nat :=
  match x with
  | .seq r => (s.fld .SEQ_STEP_STEP r, s.fld .SEQ_STEP_EPOCH r, s.fld .SEQ_SLOT_INDEX r)
  | .cell _ => ((s.exe x).ctx.step, (s.exe x).ctx.epoch, (s.exe x).ctx.slot)

/-- An executor stops on an illegal encoding or a fetch fault, and its level writes the record that says so (R209, R633). -/
def State.stopIllegal (s : State) (x : Executor) (detail : Nat) : State :=
  match x with
  | .cell c =>
    (s.setExe x { s.exe x with stop := .illegal detail }).raise (.cell c) 0x04 0xC0 detail 2 (addr := s.pcAddr x)
  | .seq r =>
    let s := (s.setFld .SEQ_STAT_STATE r 4).setFld .SEQ_STAT_DETAIL r detail
    (s.setExe x { s.exe x with stop := .illegal detail }).raise (.region r) 0x27 0xC0 detail 2 (addr := s.pcAddr x)

/-- The context of a launch: what SEQ_STEP, SEQ_SLOT and SEQ_SEED hold (R226). -/
def State.launchCtx (s : State) (r : Nat) : LaunchCtx :=
  let walk := s.fld .SEQ_SLOT_INDEX r ≠ 0xFFFF
  { step := s.fld .SEQ_STEP_STEP r, epoch := s.fld .SEQ_STEP_EPOCH r, slot := s.fld .SEQ_SLOT_INDEX r
    micro := if walk then s.fld .SEQ_SLOT_MICRO r else 0
    vstage := if walk then s.fld .SEQ_SLOT_VSTAGE r else 0
    seed := BitVec.ofNat 64 (s.fld .SEQ_SEED_SEED r) }

end Sys2Proof.Machine
end

