-- ==== Sys2Proof/Machine/Sparing.lean ====
section
/-! DEFINITION. Retiring cells, adopting spares, and near-memory repair (05: R182, R190 to R201). -/

namespace Sys2Proof.Machine

/-- The physical position of a slot, from BLK_MAP. -/
def State.posOf (s : State) (b slot : Nat) : Nat :=
  let f : Fld := if slot % 4 = 0 then .BLK_MAP_POS0 else if slot % 4 = 1 then .BLK_MAP_POS1
    else if slot % 4 = 2 then .BLK_MAP_POS2 else .BLK_MAP_POS3
  s.fld f b (slot / 4)

/-- Maps a slot to a physical position. -/
def State.setPos (s : State) (b slot pos : Nat) : State :=
  let f : Fld := if slot % 4 = 0 then .BLK_MAP_POS0 else if slot % 4 = 1 then .BLK_MAP_POS1
    else if slot % 4 = 2 then .BLK_MAP_POS2 else .BLK_MAP_POS3
  s.setFld f b pos (slot / 4)

/-- The CEL_ registers' instance of a physical position. -/
def physCell (b pos : Nat) : Nat := b * 17 + pos

/-- The tiles a cell has in flight (R172, R195): of the oldest instruction of its matrix queue the last two, of the oldest
of each other queue the last one. -/
def State.tilesInFlight (s : State) (x : Executor) : List (Flight × Nat) :=
  let of (q : QueueId) (n : Nat) : List (Flight × Nat) := match s.queueHead x q with
    | none => []
    | some f => if f.q = q then (List.range (min n (max f.tiles 1))).map (fun i => (f, max f.tiles 1 - min n (max f.tiles 1) + i)) else []
  of .matrix 2 ++ of .vector 1 ++ of .move 1

/-- The completion record of an abandoned tile (R195, R196, R246): UNCORRECTABLE 0x04, ABANDON set, COUNT the tile's index. -/
def abandonRecord (x : Executor) (f : Flight) (tile : Nat) : List Byte :=
  recordBytes 0xC0 0x04 (sourceOf x) (f.cls * 1024 + f.op) (1 + 4 * bit1 (!f.cr)) x.region.val f.addr f.epoch f.step f.slot tile

/-- A team whose cell is retired loses its barrier (R395). -/
def State.failTeam (s : State) (c : Cell) : State :=
  match s.job (s.exe (.cell c)).job with
  | some j => if (s.exe (.cell c)).running then s.setJob { j with lost := true } else s
  | none => s

/-- The record in a block's hands is done with (R539). -/
def State.endBlockHandling (s : State) (b : Block) : State :=
  match (s.errq (.block b)).cur with
  | i :: _ => s.dequeue (.block b) i
  | [] => s

/-- Records whose cause is resolved above their queue's level leave it for the parent with ESC 1 (R536). -/
def State.passUp (s : State) (q : LevelInst) : State :=
  let g := s.errq q
  (g.recs.filter (fun e => decide (q.level < causeLevel e.cause) && !g.cur.contains e.qslot)).foldl
    (fun s e => s.escalate q e.qslot 1) s

/-- The error chain of a cell or block, whose handlers are hardware (R539): what is resolved above moves up at once. -/
def State.raiseBlock (s : State) (b : Block) (cause status detail sev : Nat) (addr : Nat := 0) (info : Nat := 0) : State :=
  (s.raise (.block b) cause status detail sev (addr := addr) (req := b.val) (info := info)).passUp (.block b)

/-- A slot is retired without replacement (R199): what waits for it ends UNCORRECTABLE 0x06, a kernel it runs ends with it,
and the record goes up to the chip. -/
def State.retireBare (s : State) (b : Block) (slot : Nat) : State :=
  let k := s.blk b
  let c : Cell := Sys2Proof.Block.cell b (Fin.ofNat 16 slot)
  let e := s.exe (.cell c)
  let s := s.failTeam c
  let s := s.setBlk b { k with gone := k.gone ++ [slot], held := k.held.filter (· ≠ slot), retiring := none }
  let s := s.setPos b slot 0x1F
  let s := s.iff e.running (fun s => s.settleJob e.job c.val 0 0xC0 0x06)
  let s := s.setExe (.cell c) {}
  (s.raiseBlock b 0x12 0xC0 0x06 2 (info := slot)).endBlockHandling b

/-- The tiles a slot's executor has in flight are abandoned, each with a record of its own, and its team fails (R195). What a
bank-side pass of it still held is released, and a trap whose record waited for an earlier instruction writes it now. -/
def State.abandonTiles (s : State) (c : Cell) : State :=
  let s := (s.tilesInFlight (.cell c)).foldl (fun (s : State) p =>
    s.ringPut (.completion c.region) (abandonRecord (.cell c) p.1 p.2)) s
  let s := s.failTeam c
  let e : Exec := s.exe (.cell c)
  let s := e.flights.foldl (fun (s : State) f => match f.pass with
    | some p => s.releaseChunks c.region p.held
    | none => s) s
  let s := match e.trapDue with
    | some g => match g.trap with
      | some t => s.ringPut (.numeric c.region) (s.trapRecord c g t)
      | none => s
    | none => s
  s.setExe (.cell c) { e with flights := [], watch := none, trapDue := none }

/-- A position is marked retired, in BLK_SPARE and in the list of what was retired in the field (R195, R200). -/
def State.markRetired (s : State) (b : Block) (pos : Nat) : State :=
  let old : Nat := s.fld .BLK_SPARE_RETIRED b.val
  let s : State := s.setFld .BLK_SPARE_RETIRED b.val (Nat.lor old (Nat.pow 2 pos))
  let g : Repair := s.repair
  { s with repair := { g with retired := g.retired ++ [(b.val, pos)] } }

/-- The spare of a block takes a slot's retirement up, or there is none and the slot is retired without replacement (R195, R199). -/
def State.settleSpare (s : State) (b : Block) (slot cause : Nat) : State :=
  if s.fld .BLK_SPARE_SPARE b.val = 0x1F then s.retireBare b slot
  else
    let k : Blk := s.blk b.val
    s.setBlk b.val { k with retiring := some ⟨slot, s.posOf b slot, cause, .selfTest⟩ }

/-- Retirement begins (R195, steps 1 to 4): dispatch to the slot stops, each tile in flight is abandoned with a record of
its own, the position is marked retired, a record names slot and cause, and the spare is powered up; without a spare the
slot is retired without replacement (R199). While the spare is taken by another retirement the slot stays stopped and waits for
what becomes of it. A slot already retired or being retired is left alone. -/
def State.beginRetire (s : State) (b : Block) (slot cause : Nat) : State :=
  let k : Blk := s.blk b.val
  if k.gone.contains slot || k.slotStopped (some slot) then s.endBlockHandling b
  else
    let pos : Nat := s.posOf b slot
    let s : State := (s.abandonTiles (Sys2Proof.Block.cell b (Fin.ofNat 16 slot))).markRetired b pos
    let s : State := s.raise (.block b) 0x10 0xC0 0x04 0 (req := b.val) (info := slot + 256 * pos + 65536 * cause)
    if k.retiring.isSome then s.setBlk b.val { s.blk b.val with retireNext := (s.blk b.val).retireNext ++ [(slot, cause)] }
    else s.settleSpare b slot cause

/-- The next slot waiting to be retired goes on, once a retirement is over. -/
def State.nextRetire (s : State) (b : Block) : State :=
  match (s.blk b).retireNext, (s.blk b).retiring with
  | n :: t, none => (s.setBlk b { s.blk b with retireNext := t }).settleSpare b n.1 n.2
  | _, _ => s

/-- A level's free handler, or one busy with a lesser record, takes the oldest record of the highest SEV (R534, R535, R539,
R540): a cause resolved above goes up at once; a block retires the cell or ends the record; at the chip a record of SEV 3
fences the device. -/
def State.handlerTake (s : State) (q : LevelInst) : State :=
  let g := s.errq q
  match g.best with
  | none => s
  | some e =>
    let free := g.cur.isEmpty
    let higher := match g.cur.head?.bind g.at with
      | some d => decide (d.sev < e.sev) && decide (g.cur.length ≤ 3)
      | none => false
    if !free && !higher then s
    else
      let s := s.iff (!free) (fun s => s.bump .RSL_CNT_PREEMPT 0)
      if q.level < causeLevel e.cause then s.escalate q e.qslot 1
      else
        let s := s.setErrq q { s.errq q with
          cur := e.qslot :: g.cur
          recs := g.recs.map (fun (r : ErrRec) => if r.qslot = e.qslot then { r with began := s.clk.aon } else r) }
        match q with
        | .cell _ => s
        | .block b =>
          if e.cause ≤ 3 then s.beginRetire b (e.inst % 16) e.cause
          else s.endBlockHandling b
        | .region _ => s
        | .chip => s.iff (e.sev == 3) (fun s => s.fence e.cause)

/-- A fault of a cell is recorded, passes up to the block, and the block takes it when its handler is free (R194, R536). -/
def State.cellFault (s : State) (c : Cell) (cause status detail addr : Nat) : State :=
  let pos := s.posOf c.block c.slot
  let s := s.raise (.cell c) cause status detail 2 (addr := addr) (req := c.block.val) (info := pos)
  (s.handlerTake (.cell c)).handlerTake (.block c.block)

/-- Whether a cell's slot has been retired without replacement (R199): no cell is there that could fail. -/
def State.cellGone (s : State) (c : Cell) : Bool := (s.blk c.block).gone.contains c.slot

/-- An entry that failed its check is lost: the copy into the spare has an empty entry in its place (R195). -/
def State.loseEntry (s : State) (c : Cell) (src : CheckSrc) (n : Nat) : State :=
  let e := s.exe (.cell c)
  match src with
  | .store => s
  | .ibuf => s.setExe (.cell c) { e with ibuf := Tbl.erase e.ibuf n }
  | .desc => s.setExe (.cell c) { e with desc := Tbl.erase e.desc n }

/-- CELL_CHECK_FAILURE (R21, R194, R195): a read fails its check; when the retry fails the same way the cell is retired. addr
is the address in the local store, or the number of the entry. -/
def execCellCheckFailure (c : Cell) (src : CheckSrc) (addr : Nat) (retryFails : Bool) (s : State) : Answer :=
  .next (if retryFails && !s.cellGone c then
      let s := s.loseEntry c src addr
      (s.bumpSat .CEL_ECC_UE (physCell c.block (s.posOf c.block c.slot))).cellFault c 0x01 0xC0 0x01 addr
    else s)

/-- CELL_PARITY_ERROR (R194). -/
def execCellParityError (c : Cell) (s : State) : Answer :=
  .next (if s.cellGone c then s
    else (s.bumpSat .CEL_ECC_PARITY (physCell c.block (s.posOf c.block c.slot))).cellFault c 0x02 0xC0 0x01 0)

/-- CE_LIMIT_REACHED (R194): a cell has corrected some errors more; when that brings those of the window to BLK_RTHR.CE_LIM the
cell is retired. The windows of 2^31 FCLK cycles follow one another from reset (DESIGN CHOICE, log entry 85); a limit of 0 disables
it. -/
def execCeLimitReached (e : CellErrors) (s : State) : Answer :=
  .next (
    let c := e.cell
    if s.cellGone c then s
    else
      let lim := s.fld .BLK_RTHR_CE_LIM c.block
      let n := physCell c.block (s.posOf c.block c.slot)
      let now := s.fclk c.region / 2 ^ 31
      let w := Tbl.get s.repair.window (0, 0) n
      let count := (if w.1 = now then w.2 else 0) + e.errs
      let s := { s with repair := { s.repair with window := Tbl.set s.repair.window (0, 0) n (now, count) } }
      let s := s.bump .CEL_ECC_CE n e.errs
      if lim ≠ 0 ∧ lim ≤ count then s.cellFault c 0x03 0 0 0 else s)

/-- A write of BLK_RETIRE (R194, R201): the slot is named, and GO retires it. -/
def State.writeBlkRetire (s : State) (b : Block) (v : Nat) : State :=
  let s := s.setFld .BLK_RETIRE_SLOT b (v % 16)
  s.iff (bitOf v 31) (fun s => s.beginRetire b (v % 16) 0)

/-- The block a bank's BLK_SEL names. -/
def State.selBlk (s : State) (who : Bank) : Option Block :=
  if h : s.fld .BLK_SEL_INDEX who.code < 96 then some ⟨s.fld .BLK_SEL_INDEX who.code, h⟩ else none

/-- BLK_RETIRE (R194, R201), through the writer's BLK_SEL. -/
def execBlkRetire (who : Bank) (v : W32) (s : State) : Answer :=
  .next (let s := s.otherAccess who; match s.selBlk who with
    | some b => if mayControl who b.region then s.writeBlkRetire b v.toNat else s
    | none => s)

/-- SPARE_SELF_TEST_COMPLETE (R195, R199): a spare that passes is loaded next; one that fails is no replacement. -/
def execSpareSelfTestComplete (b : Block) (pass : Bool) (s : State) : Answer :=
  .next (match (s.blk b).retiring with
    | none => s
    | some r =>
      if r.phase ≠ .selfTest then s
      else if pass then s.setBlk b { s.blk b with retiring := some { r with phase := .copying } }
      else ((s.setFld .BLK_SPARE_SPARE b 0x1F).retireBare b r.slot).nextRetire b)

/-- A region's sequencer is woken: one that sleeps in a WATCH goes round its loop again (R195, R311). -/
def State.stirSeq (s : State) (r : Region) : State :=
  let e := s.exe (.seq r)
  s.setExe (.seq r) { e with watch := e.watch.map (fun w => { w with woken := true }) }

/-- SLOT_ADOPTION (R195, steps 6 and 7): the spare has the instruction buffer and descriptor table of the retired cell and
nothing else of it; its stores read zero; the slot is mapped to it and stays held; a record reports it to the region. -/
def execSlotAdoption (b : Block) (s : State) : Answer :=
  .next (match (s.blk b).retiring with
    | none => s
    | some r =>
      if r.phase ≠ .copying then s
      else
        let c : Cell := Sys2Proof.Block.cell b (Fin.ofNat 16 r.slot)
        let spare := s.fld .BLK_SPARE_SPARE b
        let e := s.exe (.cell c)
        let s := s.setMem (s.mem.clearLines (cellLine c) 65536)
        let s := s.setExe (.cell c) { e with sreg := [], pred := 0, tok := [], flights := [], watch := none }
        let s := (s.setPos b r.slot spare).setFld .BLK_SPARE_SPARE b 0x1F
        let k := s.blk b
        let s := s.setBlk b { k with retiring := none, held := k.held ++ [r.slot] }
        let s := s.raiseBlock b 0x11 0 0 1 (info := r.slot + 256 * spare)
        let s := (s.startFclk b.region.val).stirSeq b.region
        (s.endBlockHandling b).nextRetire b)

/-- The cell a bank's CEL_SEL names: a logical index, or the slot mapped to a physical position (R64). -/
def State.selCell (s : State) (who : Bank) : Option Cell :=
  let i := s.fld .CEL_SEL_INDEX who.code
  if s.flag .CEL_SEL_PHYS who.code then
    (List.range 16).findSome? (fun k =>
      if s.posOf (i / 17) k = i % 17 then (if h : i / 17 * 16 + k < 1536 then some ⟨i / 17 * 16 + k, h⟩ else none) else none)
  else if h : i < 1536 then some ⟨i, h⟩ else none

/-- The CEL_ registers' instance a bank's CEL_SEL names: a physical position, or a number of its own for a slot without one. -/
def State.selPhys (s : State) (who : Bank) : Option Nat :=
  let i := s.fld .CEL_SEL_INDEX who.code
  if s.flag .CEL_SEL_PHYS who.code then (if i < 1632 then some i else none)
  else if i < 1536 then
    (if s.posOf (i / 16) (i % 16) = 0x1F then some (1632 + i) else some (physCell (i / 16) (s.posOf (i / 16) (i % 16))))
  else none

/-- A held slot is released (R197, R343): a kernel that was interrupted runs again from its start index with the launch
state it had; instructions queued for the slot follow. -/
def State.releaseSlot (s : State) (c : Cell) : State :=
  let k := s.blk c.block
  if k.held.contains c.slot = false then s
  else
    let s := s.setBlk c.block { k with held := k.held.filter (· ≠ c.slot) }
    let e := s.exe (.cell c)
    if e.running then
      s.setExe (.cell c) ({ e with pc := e.start, stop := .no, rerun := true, promote := false,
                                   endStatus := 0, endDetail := 0 }.setReg 1 e.arg)
    else s

/-- CEL_RELEASE (R197, R201). -/
def execCelRelease (who : Bank) (s : State) : Answer :=
  .next (let s := s.otherAccess who; match s.selCell who with
    | some c => if mayControl who c.region then s.releaseSlot c else s
    | none => s)

/-- The block and position of a CEL_ instance. -/
def physBlock (n : Nat) : Option Block := if h : n / 17 < 96 then some ⟨n / 17, h⟩ else none

/-- CEL_SELFTEST (R195, R201): runs the self-test of an unused spare and keeps its result; ignored on any other position. -/
def execCelSelftest (who : Bank) (pass : Bool) (s : State) : Answer :=
  .next (let s := s.otherAccess who; match s.selPhys who with
    | none => s
    | some n =>
      match physBlock n with
      | none => s
      | some b =>
        if mayControl who b.region && s.fld .BLK_SPARE_SPARE b == n % 17 && (s.blk b).retiring.isNone then
          s.setBlk b { s.blk b with selfTest := some pass }
        else s)

/-- The error counters of a position are cleared. -/
def State.clearEcc (s : State) (n : Nat) : State :=
  ((s.setFld .CEL_ECC_UE n 0).setFld .CEL_ECC_PARITY n 0).setFld .CEL_ECC_CE n 0

/-- CEL_CLR_ECC (R201). -/
def execCelClrEcc (who : Bank) (s : State) : Answer :=
  .next (let s := s.otherAccess who; match s.selPhys who with
    | none => s
    | some n =>
      match physBlock n with
      | some b => if mayControl who b.region then s.clearEcc n else s
      | none => s)

/-- The row of near memory a word lies in, as region, column and row (R20, R192). The spec gives no size of a row; the model takes
4 KiB of a column (DESIGN CHOICE, log entry 86). -/
def nearRow (w : Nat) : Nat × Nat × Nat :=
  let a := w * 4
  (a / 0x1000000000, a % 0x1000000000 / 0x20000000, a % 0x20000000 / 4096)

/-- The key of a row's error count. -/
def rowKey (p : Nat × Nat × Nat) : Nat := pk (p.1 * 128 + p.2.1) p.2.2

/-- NEAR_SCRUB (R192): single-bit errors are corrected and counted, for the region and for their row; each uncorrectable word
becomes poison, is counted, and is reported. Words are given by their number, DPA div 4. SCRUB_HRS of 0 disables scrubbing. -/
def execNearScrub (r : Region) (fixed bad : List Nat) (s : State) : Answer :=
  .next (
    let mine (w : Nat) : Bool := w * 4 / 0x1000000000 == r.val
    if s.fld .NMS_CTRL_SCRUB_HRS r = 0 then s
    else
      let s := s.bump .NMS_ECC_CE r (fixed.filter mine).length
      let errs := (fixed.filter mine).foldl (fun (t : Tbl Nat) w =>
        Tbl.set t 0 (rowKey (nearRow w)) (Tbl.get t 0 (rowKey (nearRow w)) + 1)) s.repair.rowErrs
      let s := { s with repair := { s.repair with rowErrs := errs } }
      (bad.filter mine).foldl (fun s w =>
        let s := s.setMem { s.mem with poisonW := Tbl.set s.mem.poisonW false w true }
        (s.bumpSat .NMS_ECC_UE r).raise (.region r) 0x21 0xC0 0x01 1 (addr := w * 4)) s)

/-- ROW_SPARE (R192, R193): a row that has accumulated NMS_CTRL.ROW_THR corrected errors is redirected to a spare row of its
column, where its count starts again; a column without one is reported once. A threshold of 0 acts as 1 (DESIGN CHOICE, log entry
86). -/
def execRowSpare (r : Region) (col : Fin 128) (row : Nat) (s : State) : Answer :=
  .next (
    let p : Nat × Nat × Nat := (r.val, col.val, row)
    let used := (s.repair.spared.filter (fun q => q.1 == r.val && q.2.1 == col.val)).length
    if s.repair.spared.contains p || decide (Tbl.get s.repair.rowErrs 0 (rowKey p) < max 1 (s.fld .NMS_CTRL_ROW_THR r)) then s
    else if used < 256 then
      let s := { s with repair := { s.repair with
        spared := s.repair.spared ++ [p], rowErrs := Tbl.set s.repair.rowErrs 0 (rowKey p) 0 } }
      let s := s.bump .NMS_SPARE_USED r
      s.setFld .NMS_SPARE_FREE_MIN r (min (s.fld .NMS_SPARE_FREE_MIN r) (255 - used))
    else if s.repair.exhausted.contains (r.val, col.val) then s
    else
      let s := { s with repair := { s.repair with exhausted := s.repair.exhausted ++ [(r.val, col.val)] } }
      s.raise (.region r) 0x22 0 0 0 (info := col.val))

/-- EXPANDER_ABANDON (R182): a compressed block that the next instruction of a cell to read it will not have decoded in time. That
instruction finds the block poison, completes UNCORRECTABLE 0x05, and the block error log names the address (DESIGN CHOICE, log
entry 87: the command stands before the instruction, whose operands the model reads at dispatch). -/
def execExpanderAbandon (c : Cell) (addr : Nat) (s : State) : Answer :=
  .next (if s.repair.abandon.contains (c.val, addr) then s
    else { s with repair := { s.repair with abandon := s.repair.abandon ++ [(c.val, addr)] } })

/-- The blocks a cell's expander abandons are set before it reads its operands. -/
def State.armExpander (s : State) (x : Executor) : State :=
  match x with
  | .cell c => { s with repair := { s.repair with
      reading := (s.repair.abandon.filter (fun p => p.1 == c.val)).map (·.2) } }
  | .seq _ => s

/-- Those it met in the ranges it read are done with. -/
def State.disarmExpander (s : State) (x : Executor) (reads : List (Nat × Nat)) : State :=
  match x with
  | .cell c => { s with repair := { s.repair with
      reading := []
      abandon := s.repair.abandon.filter (fun p => p.1 != c.val || (overlaps reads [(p.2, 1)]).isEmpty) } }
  | .seq _ => s

end Sys2Proof.Machine
end

