-- ==== Sys2Proof/Machine/Sequencer.lean ====
section
/-! DEFINITION. The sequencer's work: work rings, work records, slot walks, the stash ledger, SEQ_CTRL, launches and loads
in the cells, and the fetch (06: R225 to R245, R253, R254, R631 to R633; 07: R273, R279, R312; 08: R318 to R336). -/

namespace Sys2Proof.Machine

/-- The region a bank's REG_SEL names, if it names one (R64). -/
def State.selRegion (s : State) (who : Bank) : Option Region :=
  if h : s.fld .REG_SEL_INDEX who.code < 12 then some ⟨s.fld .REG_SEL_INDEX who.code, h⟩ else none

/-- A sequencer stalls while a record it has for one of its rings cannot be taken (R231, R256). -/
def State.seqStalled (s : State) (r : Region) : Bool :=
  !(s.ring (.completion r)).held.isEmpty || !(s.ring (.schedule r)).held.isEmpty

/-- The completion record of a work record (R241, R246). -/
def WorkRec.bytes (w : WorkRec) (r : Region) (status detail count : Nat) : List Byte :=
  recordBytes status detail (0x8000 + 16 * w.ring + r.val) w.op (4 * bit1 (w.flags % 2 == 0)) r.val w.entry w.epoch w.step
    0xFFFF count

/-- A work record writes its completion record when CR is 1 or its status is other than OK (R241). -/
def State.reportWork (s : State) (r : Region) (w : WorkRec) (status detail count : Nat) : State :=
  s.iff (w.flags % 2 == 1 || status != 0) (fun s => s.ringPut (.completion r) (w.bytes r status detail count))

/-- A schedule event record (R253). -/
def State.schedEvent (s : State) (r : Region) (type status cause addr : Nat) (mid tail : List Byte) : State :=
  s.ringPut (.schedule r) (EventRec.bytes {
    type := type, status := status, source := 0x4000 + r.val, cause := cause, region := r.val, addr := addr
    epoch := s.fld .SEQ_STEP_EPOCH r, step := s.fld .SEQ_STEP_STEP r, mid := mid, time := s.fclk r, tail := tail })

/-- Bytes 22 to 39 of a slot event: slot index, KIND, VSTAGE and MICRO from byte 24, a count from byte 32 (R253). -/
def State.slotMid (s : State) (r : Region) (count : Nat) : List Byte :=
  leBytes 2 0 ++ leBytes 2 (s.fld .SEQ_SLOT_INDEX r) ++ leBytes 1 (s.fld .SEQ_SLOT_KIND r) ++
  leBytes 1 (s.fld .SEQ_SLOT_VSTAGE r) ++ leBytes 2 (s.fld .SEQ_SLOT_MICRO r) ++ leBytes 2 0 ++ leBytes 8 count

/-- An event of the current slot. -/
def State.slotEvent (s : State) (r : Region) (type status count : Nat) : State :=
  s.schedEvent r type status 0 (s.work r).slotAddr (s.slotMid r count) (leBytes 6 (s.work r).slotEntry)

/-- The schedule context stops (SEQ_STAT; R245, R254, R334, R354). -/
def State.seqStop (s : State) (r : Region) (st detail : Nat) : State :=
  (s.setFld .SEQ_STAT_STATE r st).setFld .SEQ_STAT_DETAIL r (if st = 4 then detail else s.fld .SEQ_STAT_DETAIL r)

/-- Writes a scalar register of a sequencer. -/
def State.seqReg (s : State) (r : Region) (i v : Nat) : State :=
  s.setExe (.seq r) ((s.exe (.seq r)).setReg i (BitVec.ofNat 64 v))

/-- The work record is over: its report, and the context waits for work (R241, R243). -/
def State.finishWork (s : State) (r : Region) (status detail count : Nat) : State :=
  let s := match (s.work r).cur, (s.work r).taken with
    | some w, _ => s.reportWork r w status detail count
    | none, some w => s.reportWork r w status detail count
    | none, none => s
  let k := s.work r
  let s := s.setWork r { nextRing := k.nextRing, poisonSeen := k.poisonSeen }
  let s := s.setExe (.seq r) { s.exe (.seq r) with running := false, stop := .no }
  let s := s.setFld .SEQ_SLOT_INDEX r 0xFFFF
  let s := (s.setFld .SEQ_SLOT_MICRO r 0).setFld .SEQ_SLOT_KIND r 0
  (s.setFld .SEQ_SLOT_VSTAGE r 0).setFld .SEQ_STAT_STATE r 0

/-- A region's sequencer as a mover; its own control traffic is of class MGMT, 7 (R36). -/
def seqMover (r : Region) : Mover := moverOf (.seq r)

/-- The ledger's bytes the sequencer writes: USED, PEAK, REFUSED, NREF, FULL and FIRST_SLOT (R329, R333). -/
def State.writeLedger (s : State) (r : Region) : State :=
  let l := (s.work r).ledger
  if !l.en then s
  else
    let s := (s.writeBytes (seqMover r) 7 (l.addr + 8) (leBytes 8 l.used)).1
    let s := (s.writeBytes (seqMover r) 7 (l.addr + 32) (leBytes 8 l.peak ++ leBytes 8 l.refused ++ leBytes 2 l.nref ++
      leBytes 1 (1 + 2 * bit1 l.full))).1
    (s.writeBytes (seqMover r) 7 (l.addr + 52) (leBytes 2 l.first)).1

/-- The walk is over: the ledger is written back and the work record reports the slots walked (R241, R333). -/
def State.endWalk (s : State) (r : Region) (count : Nat) : State :=
  let k := s.work r
  (s.writeLedger r).finishWork r k.status k.detail count

/-- The slot begins at the jump to its code: SEQ_STAT shows running, the begin event is written and the limit counts (R243,
R244, R253). An entry address that is not 16-byte aligned is DETAIL 0x19 (R208). -/
def State.beginSlot (s : State) (r : Region) : State :=
  let k := s.work r
  let s := s.setWork r { k with slotBegan := s.clk.aon, overran := false, paused := none }
  let s := s.iff (s.flag .SEQ_CTRL_SLOTLOG r) (fun s => s.slotEvent r 0x20 0 0)
  let s := s.setFld .SEQ_STAT_STATE r 1
  s.setExe (.seq r) { s.exe (.seq r) with running := true, stop := .no }

/-- A stop of the schedule context at a place that names no instruction word: the completion record and the region record
of R209, and SEQ_STAT. -/
def State.stopAt (s : State) (r : Region) (addr detail : Nat) : State :=
  let s := s.ringPut (.completion r) (recordBytes 0xC0 detail (0x4000 + r.val) 0 4 r.val addr
    (s.fld .SEQ_STEP_EPOCH r) (s.fld .SEQ_STEP_STEP r) (s.fld .SEQ_SLOT_INDEX r) 0)
  let s := s.seqStop r 4 detail
  let s := s.setExe (.seq r) { s.exe (.seq r) with stop := .illegal detail }
  s.raise (.region r) 0x27 0xC0 detail 2 (addr := addr)

/-- Entry k of the slot table is read and made current: SEQ_SLOT, S4 to S7 and SEQ_PC (R243); an entry with a reserved KIND
or that cannot be read stops the context there (R245). Answers whether the entry can be jumped to. -/
def State.prepareSlot (s : State) (r : Region) (k : Nat) : State × Bool :=
  let w := s.work r
  match w.cur with
  | none => (s, false)
  | some rec =>
    let addr := rec.target + 32 * k
    let g := s.readBytes addr 32
    let s := (s.noteRead (seqMover r) 7 addr 32).setFld .SEQ_SLOT_INDEX r k
    let s := s.setWork r { w with slotK := k, slotAddr := addr, entryFault := false }
    let kind := fieldAt g.bytes 0 1
    if g.detail ≠ 0 then ((s.setWork r { s.work r with entryFault := true }).stopAt r addr g.detail, false)
    else if 5 < kind then ((s.setWork r { s.work r with entryFault := true }).stopAt r addr 0x1B, false)
    else
      let vstage := fieldAt g.bytes 1 1 % 8
      let micro := fieldAt g.bytes 2 2
      let entry := fieldAt g.bytes 8 6
      let s := (s.setFld .SEQ_SLOT_KIND r kind).setFld .SEQ_SLOT_VSTAGE r vstage
      let s := (s.setFld .SEQ_SLOT_MICRO r micro).setFld .SEQ_PC_PC r (entry / 16)
      let s := ((s.seqReg r 4 k).seqReg r 5 micro).seqReg r 6 vstage
      let s := s.seqReg r 7 (fieldAt g.bytes 16 8)
      (s.setWork r { s.work r with slotLimit := fieldAt g.bytes 4 4, slotEntry := entry }, true)

/-- The walk goes to entry k: the entry is prepared and the slot begins; an entry address that is not 16-byte aligned is
DETAIL 0x19 at that address (R208, R243). -/
def State.startSlot (s : State) (r : Region) (k : Nat) : State :=
  let p := s.prepareSlot r k
  if p.2 then
    let s := p.1.beginSlot r
    if (s.work r).slotEntry % 16 = 0 then s else s.stopAt r (s.work r).slotEntry 0x19
  else p.1

/-- The slots of the work record in progress. -/
def State.slotCount (s : State) (r : Region) : Nat :=
  match (s.work r).cur with
  | some w => w.slots
  | none => 0

/-- The walk pauses for a full stash pool (R334, R335): the ledger goes back, the type 0x22 record is written, the next
entry is prepared but not entered, and the context stops with DETAIL 0x20. -/
def State.pauseWalk (s : State) (r : Region) (last : Bool) : State :=
  let s := s.writeLedger r
  let l := (s.work r).ledger
  let s := s.schedEvent r 0x22 0x80 l.refDetail l.refAddr
    (leBytes 2 0 ++ leBytes 2 (s.fld .SEQ_SLOT_INDEX r) ++ leBytes 1 (s.fld .SEQ_SLOT_KIND r) ++
     leBytes 1 (s.fld .SEQ_SLOT_VSTAGE r) ++ leBytes 2 (s.fld .SEQ_SLOT_MICRO r) ++ leBytes 2 l.nref ++ leBytes 8 l.used)
    (leBytes 8 l.refused ++ leBytes 8 l.quota)
  let k := s.work r
  let o := worst (k.status, k.detail) (0x80, l.refDetail)
  let s := s.setWork r { k with pauseDue := false, status := o.1, detail := o.2 }
  let n := (s.work r).slotK + 1
  let s := if last then (s.setFld .SEQ_SLOT_INDEX r 0xFFFF).setWork r { s.work r with slotK := n } else (s.prepareSlot r n).1
  let s := s.setWork r { s.work r with paused := some (s.fld .SEQ_PC_PC r) }
  if (s.work r).entryFault then s else s.seqStop r 4 0x20

/-- The current slot ends (R243, R253, R334); with the walk's end asked for, or after the last entry, the walk ends. -/
def State.endSlot (s : State) (r : Region) (endsWalk : Bool) : State :=
  let k := s.work r
  let s := s.iff (s.flag .SEQ_CTRL_SLOTLOG r) (fun s => s.slotEvent r 0x23 0 (s.clk.aon - k.slotBegan))
  let n := k.slotK + 1
  let last := endsWalk || decide (s.slotCount r ≤ n)
  if k.pauseDue then s.pauseWalk r last
  else if last then s.endWalk r n
  else s.startSlot r n

/-- The entry of a work ring its HEAD names. -/
def State.workEntry (s : State) (r : Region) (n : Fin 4) : Got :=
  s.readBytes (s.ringEntry (.work r n) (s.ring (.work r n)).head) 64

/-- Whether the entry at a work ring's HEAD reads as poison (R632). -/
def State.workPoison (s : State) (r : Region) (n : Fin 4) : Bool :=
  s.ringOn (.work r n) && (s.workEntry r n).detail != 0

/-- Whether a work ring's entry at HEAD carries the tag of R236. -/
def State.workReady (s : State) (r : Region) (n : Fin 4) : Bool :=
  s.ringOn (.work r n) && (s.workEntry r n).detail == 0 &&
  s.rangeFree (s.ringEntry (.work r n) (s.ring (.work r n)).head) 64 &&
  fieldAt (s.workEntry r n).bytes 4 4 == ((s.ring (.work r n)).head + 1) % 2 ^ 32

/-- The ring whose turn it is: the first that has a record, in order from the next in turn (R236). -/
def State.workTurn (s : State) (r : Region) : Option (Fin 4) :=
  ((List.range 4).map (fun k => Fin.ofNat 4 ((s.work r).nextRing + k))).find? (fun n => s.workReady r n)

/-- Whether a work record is refused under R240. FLAGS[7:1] count as rsvd. -/
def workRefused (b : List Byte) : Bool :=
  decide (2 < fieldAt b 0 1) || decide (1 < fieldAt b 1 1) || fieldAt b 22 2 != 0 || fieldAt b 32 32 != 0 ||
  (fieldAt b 0 1 == 2 && (fieldAt b 2 2 == 0 || fieldAt b 8 6 % 32 != 0))

/-- The record an entry holds (R238). -/
def workOf (ring entry : Nat) (b : List Byte) : WorkRec :=
  { ring := ring, entry := entry, op := fieldAt b 0 1, flags := fieldAt b 1 1, slots := fieldAt b 2 2
    target := fieldAt b 8 6, epoch := fieldAt b 14 2, step := fieldAt b 16 6, arg := BitVec.ofNat 64 (fieldAt b 24 8) }

/-- WORK_RING_CONSUME (R236, R240, R632): a sequencer waiting for work takes the record of the ring whose turn it is and
advances HEAD; a record refused under R240 is reported and done with. An entry that reads as poison is reported once and
not consumed. An entry without its tag, or a poison one, is watched. -/
def execWorkRingConsume (r : Region) (n : Fin 4) (s : State) : Answer :=
  .next (
    let k := s.work r
    if s.fenced || s.fld .SEQ_STAT_STATE r ≠ 0 || k.taken.isSome || k.cur.isSome || s.seqStalled r then s
    else
      let g := s.ring (.work r n)
      let addr := s.ringEntry (.work r n) g.head
      if s.workPoison r n then
        let s := s.watchRing (.work r n)
        if k.poisonSeen.contains (n.val, g.head) then s
        else
          (s.ringPut (.completion r) (recordBytes 0xC0 (s.workEntry r n).detail (0x8000 + 16 * n.val + r.val) 0 4 r.val
            addr (s.fld .SEQ_STEP_EPOCH r) (s.fld .SEQ_STEP_STEP r) 0xFFFF 0)).setWork r
              { k with poisonSeen := k.poisonSeen ++ [(n.val, g.head)] }
      else if s.workTurn r = some n then
        let b := (s.workEntry r n).bytes
        let s := s.iff (s.cached (112 + r.val) (canonical addr / 64)).isNone (fun s => s.noteRead (seqMover r) 7 addr 64)
        let s := (s.writeBytes (seqMover r) 7 (s.ringCb (.work r n) + 64) (leBytes 8 (g.head + 1))).1
        let s := s.setRing (.work r n) { g with head := g.head + 1 }
        let k := { k with nextRing := (n.val + 1) % 4, poisonSeen := k.poisonSeen.filter (fun p => p.1 ≠ n.val) }
        if workRefused b then (s.setWork r k).reportWork r (workOf n.val addr b) 0xC0 0x0A 0
        else s.setWork r { k with taken := some (workOf n.val addr b) }
      else if s.ringOn (.work r n) && !s.workReady r n then s.watchRing (.work r n)
      else s)

/-- WORK_NOP (R239, R241). -/
def execWorkNop (r : Region) (s : State) : Answer :=
  .next (match (s.work r).taken with
    | some w => if w.op = 0 ∧ s.fld .SEQ_STAT_STATE r = 0 then (s.setWork r { s.work r with taken := none }).reportWork r w 0 0 0 else s
    | none => s)

/-- A CALL or STEP record is set up: SEQ_STEP, S1, S2 and S3 (R239). -/
def State.setUpWork (s : State) (r : Region) (w : WorkRec) : State :=
  let s := s.setWork r { s.work r with taken := none, cur := some w }
  let s := (s.setFld .SEQ_STEP_STEP r w.step).setFld .SEQ_STEP_EPOCH r w.epoch
  ((s.seqReg r 1 w.arg.toNat).seqReg r 2 w.step).seqReg r 3 w.epoch

/-- WORK_CALL (R239): the program at TARGET runs until its END. -/
def execWorkCall (r : Region) (s : State) : Answer :=
  .next (match (s.work r).taken with
    | some w =>
      if w.op = 1 ∧ !s.fenced ∧ s.fld .SEQ_STAT_STATE r = 0 then
        let s := (s.setUpWork r w).setFld .SEQ_PC_PC r (w.target / 16)
        let s := (s.setFld .SEQ_STAT_STATE r 1).setExe (.seq r) { (s.setUpWork r w).exe (.seq r) with running := true, stop := .no }
        if w.target % 16 = 0 then s else s.stopAt r w.target 0x19
      else s
    | none => s)

/-- The stash ledger as a walk begins (R328, R330). -/
def State.readLedger (s : State) (addr : Nat) : Ledger :=
  let b := (s.readBytes addr 64).bytes
  { addr := addr, quota := fieldAt b 0 8, lo := fieldAt b 16 6, hi := fieldAt b 24 6, en := fieldAt b 50 1 % 2 == 1 }

/-- WORK_STEP (R239, R243, R330): the walk begins with the ledger and the first slot. -/
def execWorkStep (r : Region) (s : State) : Answer :=
  .next (match (s.work r).taken with
    | some w =>
      if w.op = 2 ∧ !s.fenced ∧ s.fld .SEQ_STAT_STATE r = 0 then
        let s := s.setUpWork r w
        let s := s.noteRead (seqMover r) 7 (w.target + 32 * w.slots) 64
        let s := s.setWork r { s.work r with walking := true, ledger := s.readLedger (w.target + 32 * w.slots) }
        s.startSlot r 0
      else s
    | none => s)

/-- SLOT_OVERRUN (R244): a slot whose code has run for LIMIT aon cycles reports it once and continues. -/
def execSlotOverrun (r : Region) (s : State) : Answer :=
  .next (
    let k := s.work r
    if s.fenced || k.cur.isNone || !k.walking || k.paused.isSome || k.entryFault || k.overran || k.slotLimit == 0 ||
        decide (s.clk.aon < k.slotBegan + k.slotLimit) then s
    else
      let o := worst (k.status, k.detail) (0x43, 0)
      (s.slotEvent r 0x21 0x43 (s.clk.aon - k.slotBegan)).setWork r { k with overran := true, status := o.1, detail := o.2 })

/-- The context returns to the work rings and the record is reported aborted (SEQ_CTRL.ABORT, R254). -/
def State.seqAbort (s : State) (r : Region) : State :=
  let k := s.work r
  let s := s.iff k.walking (fun s => s.writeLedger r)
  s.finishWork r 0xC0 0x09 (if k.walking then k.slotK + bit1 (k.paused.isNone && !k.entryFault) else 0)

/-- The ledger's QUOTA, POOL_BASE, POOL_END and FLAGS are read again (R336). -/
def State.rereadLedger (s : State) (r : Region) : State :=
  let k := s.work r
  let b := (s.readBytes k.ledger.addr 64).bytes
  (s.noteRead (seqMover r) 7 k.ledger.addr 64).setWork r { k with ledger := { k.ledger with
    quota := fieldAt b 0 8, lo := fieldAt b 16 6, hi := fieldAt b 24 6
    en := fieldAt b 50 1 % 2 == 1, full := fieldAt b 50 1 / 2 % 2 == 1 } }

/-- A stopped context restarts (R245, R254, R336): after a pause the ledger is read again, and the next slot begins at the jump to
SEQ_PC, or the walk ends; at a bad slot entry the entry is read again; otherwise execution goes on at SEQ_PC. -/
def State.seqResume (s : State) (r : Region) : State :=
  let k := s.work r
  if k.cur.isNone then s.setFld .SEQ_STAT_STATE r 0
  else
    let s := s.iff k.paused.isSome (fun s => s.rereadLedger r)
    if k.entryFault then s.startSlot r k.slotK
    else if k.paused.isSome then
      if s.fld .SEQ_SLOT_INDEX r = 0xFFFF then (s.setWork r { s.work r with paused := none }).endWalk r k.slotK
      else s.beginSlot r
    else (s.setFld .SEQ_STAT_STATE r 1).setExe (.seq r) { s.exe (.seq r) with running := true, stop := .no }

/-- Whether the schedule context is stopped. -/
def State.seqStopped (s : State) (r : Region) : Bool := s.fld .SEQ_STAT_STATE r == 3 || s.fld .SEQ_STAT_STATE r == 4

/-- ABORT and RESUME once the context is stopped (R254). -/
def State.afterStop (s : State) (r : Region) (abort resume : Bool) : State :=
  let s := s.iff (abort && s.seqStopped r) (fun s => s.seqAbort r)
  s.iff (resume && s.seqStopped r) (fun s => s.seqResume r)

/-- The instruction boundary a promotion stop or a pending HALT waited for is reached (R254, R354). -/
def State.haltBoundary (s : State) (r : Region) : State :=
  let k := s.work r
  let s := s.iff k.stopDue (fun s => (s.setWork r { s.work r with stopDue := false }).seqStop r 4 0x30)
  let k := s.work r
  k.halts.foldl (fun (s : State) h => (s.iff (!s.seqStopped r) (fun s => s.seqStop r 3 0)).afterStop r h.1 h.2)
    (s.setWork r { k with halts := [] })

/-- The actions of a write of SEQ_CTRL in the order of R254; SLOTLOG has been written before. A HALT while a WATCH sleeps
waits for the boundary after it. -/
def State.seqCtrl (s : State) (r : Region) (clr halt abort resume : Bool) : State :=
  let s := s.iff clr (fun s => s.setExe (.seq r) { s.exe (.seq r) with tok := [] })
  if s.fenced then s
  else if halt && !s.seqStopped r then
    let s := s.setWork r { s.work r with halts := (s.work r).halts ++ [(abort, resume)] }
    if (s.exe (.seq r)).watch.isSome then s else s.haltBoundary r
  else s.afterStop r abort resume

/-- SEQ_CLRTOK (R218, R254). -/
def execSeqClrtok (who : Bank) (s : State) : Answer :=
  .next (let s := s.otherAccess who; match s.selRegion who with
    | some r => s.seqCtrl r true false false false
    | none => s)
/-- SEQ_HALT (R254). -/
def execSeqHalt (who : Bank) (s : State) : Answer :=
  .next (let s := s.otherAccess who; match s.selRegion who with
    | some r => s.seqCtrl r false true false false
    | none => s)
/-- SEQ_ABORT (R254). -/
def execSeqAbort (who : Bank) (s : State) : Answer :=
  .next (let s := s.otherAccess who; match s.selRegion who with
    | some r => s.seqCtrl r false false true false
    | none => s)
/-- SEQ_RESUME (R245, R254, R336). -/
def execSeqResume (who : Bank) (s : State) : Answer :=
  .next (let s := s.otherAccess who; match s.selRegion who with
    | some r => s.seqCtrl r false false false true
    | none => s)

/-- Whether a sequencer is at an instruction boundary of a program that runs. -/
def State.seqRuns (s : State) (r : Region) : Bool :=
  let e := s.exe (.seq r)
  !s.fenced && e.running && decide (e.stop = .no) && (s.fld .SEQ_STAT_STATE r == 1 || s.fld .SEQ_STAT_STATE r == 2) &&
  e.watch.isNone && !s.seqStalled r

/-- SEQ_FETCH_FAULT (R633): the fetch at SEQ_PC returns data that is refused, poison, or fails its check; the context stops
there. -/
def execSeqFetchFault (f : FetchFault) (s : State) : Answer :=
  .next (
    let r := f.region
    let addr := s.fld .SEQ_PC_PC r * 16
    let g := s.readBytes addr 16
    let detail := if f.check && g.detail != 3 then 1 else g.detail
    if s.seqRuns r && detail != 0 then (s.noteRead (seqMover r) 7 addr 16).stopAt r addr detail else s)

/-- The first item of a block's inbound queue that is for a cell's launches and loads. -/
def Blk.itemFor (k : Blk) (c : Cell) : Option InItem :=
  k.inq.find? (fun i => match i with
    | .launch _ d _ _ _ => decide (d = c)
    | .load _ d _ _ _ => decide (d = c)
    | .scratch _ => false)

/-- Whether a cell can take a launch or load now: its block in RUN and loaded, its slot neither held, stopped nor gone, no
kernel running in it (R225, R226, R197, R199). -/
def State.cellFree (s : State) (c : Cell) : Bool :=
  let k := s.blk c.block
  !s.fenced && decide (s.blkState c.block = .run) && !k.held.contains c.slot && !k.slotStopped (some c.slot) &&
  !k.gone.contains c.slot && !(s.exe (.cell c)).running

/-- CELL_LAUNCH_ACCEPT (R226): the cell takes the launch at the front of its queue; a start index no load has written stops
it at once with DETAIL 0x19 and address 0 (R207, R208). -/
def execCellLaunchAccept (c : Cell) (s : State) : Answer :=
  .next (if !s.cellFree c || (s.blk c.block).unloaded.contains c.slot then s
    else match (s.blk c.block).itemFor c with
      | some (.launch id d start arg ctx) =>
        let k := s.blk c.block
        let s := s.setBlk c.block { k with inq := k.inq.erase (.launch id d start arg ctx) }
        let e := s.exe (.cell c)
        let e := ({ e with pc := start, running := true, stop := .no, job := id, start := start, arg := arg, ctx := ctx
                           promote := false, rerun := false, endStatus := 0, endDetail := 0 } : Exec).setReg 1 arg
        let s := s.setExe (.cell c) e
        if (e.entry start).isSome then s
        else
          let s := s.ringPut (.completion c.region)
            (recordBytes 0xC0 0x19 c.val 0 4 c.region.val 0 ctx.epoch ctx.step ctx.slot 0)
          (s.setExe (.cell c) { e with stop := .illegal 0x19 }).raise (.cell c) 0x04 0xC0 0x19 2
      | _ => s)

/-- The instructions of a load as buffer entries. -/
def loadEntries (start n src : Nat) (b : List Byte) : List (Nat × IbEntry) :=
  (List.range n).map (fun j => (start + j, ⟨BitVec.ofNat 128 (fieldAt b (16 * j) 16), start, src⟩))

/-- A buffer with some entries written. -/
def Exec.load (e : Exec) (l : List (Nat × IbEntry)) : Exec :=
  { e with ibuf := l.foldl (fun (t : List (Nat × IbEntry)) p => Tbl.insert t p.1 p.2) e.ibuf }

/-- What a block's fetch of a kernel load returned, with its DETAIL: fetched once per block and kept for the other cells the load
names (R225, R279); none while the lines are not to be had. -/
def State.kernelFetch (s : State) (c : Cell) (id src n : Nat) : Option (State × List Byte × Nat) :=
  let b := c.block.val
  match (s.job id).bind (fun j => j.fetched.find? (fun p => p.1 == b)) with
  | some (_, l, detail) => some (s, l, detail)
  | none =>
    if !s.rangeFree src n then none
    else
      let g := s.readBytes src n
      let s := s.noteRead ⟨b, none⟩ 0 src n
      let s := match s.job id with
        | some j => s.setJob { j with fetched := j.fetched ++ [(b, g.bytes, g.detail)] }
        | none => s
      some (s, g.bytes, g.detail)

/-- KLD_DELIVERY (R225, R279): a kernel load placed in the queue of a cell is performed once it runs no kernel: checked
whole, then written whole. -/
def execKldDelivery (c : Cell) (s : State) : Answer :=
  .next (if !s.cellFree c then s
    else match (s.blk c.block).itemFor c with
      | some (.load id d start n src) =>
        match s.kernelFetch c id src (16 * n) with
        | none => s
        | some (s, b, detail) =>
          let k := s.blk c.block
          let s := s.setBlk c.block { k with inq := k.inq.erase (.load id d start n src) }
          if detail ≠ 0 then s.settleJob id c.val 0 0xC0 detail
          else
            let s := s.setBlk c.block { s.blk c.block with unloaded := (s.blk c.block).unloaded.filter (· ≠ c.slot) }
            (s.setExe (.cell c) ((s.exe (.cell c)).load (loadEntries start n src b))).settleJob id c.val n 0 0
      | _ => s)

/-- A promotion stop (R354, R355, R359): the token is withheld, the record is forced, the TYPE 0x04 record is written, and
a running context stops with DETAIL 0x30, one that sleeps in a WATCH at the boundary after it. -/
def State.promotionStop (s : State) (r : Region) (f : Flight) (cells : Nat) : State :=
  let sleeps := (s.exe (.seq r)).watch.isSome && !s.seqStopped r
  let s := s.complete (.seq r) { f with forced := true, noToken := true }
  let s := s.ringPut (.numeric r) (EventRec.bytes {
    type := 0x04, status := 0x45, source := 0x4000 + r.val, opcode := f.cls * 1024 + f.op, region := r.val
    addr := f.addr, epoch := f.epoch, step := f.step, time := s.fclk r
    mid := leBytes 2 0 ++ leBytes 2 (s.fld .SEQ_SLOT_INDEX r) ++ leBytes 1 (s.fld .SEQ_SLOT_KIND r) ++
      leBytes 1 (s.fld .SEQ_SLOT_VSTAGE r) ++ leBytes 2 (s.fld .SEQ_SLOT_MICRO r) ++ leBytes 1 f.tokOut ++ leBytes 1 0 ++
      leBytes 2 cells
    tail := leBytes 6 ((s.fld .SEQ_PC_PC r + bit1 sleeps) % 2 ^ 44 * 16) })
  let s := (s.setFld .NUM_STAT_PROMOTE r 1).bump .NUM_EVCNT_PROMOTE r
  if s.seqStopped r then s
  else if sleeps then s.setWork r { s.work r with stopDue := true }
  else s.seqStop r 4 0x30

/-- LAUNCH_COMPLETE (R227, R353, R354): every named cell has ended the kernel. -/
def execLaunchComplete (r : Region) (id : Nat) (s : State) : Answer :=
  .next (match s.job id, s.queueHead (.seq r) (.launch id) with
    | some j, some f =>
      let g := { f with status := j.status, detail := j.detail, count := j.count }
      if decide (j.kind ≠ .launch) || !j.waits.isEmpty || s.fenced || !s.canComplete (.seq r) { g with forced := f.forced || j.promote } then s
      else
        let s := (s.endJob id).dropFlight (.seq r) f.uid
        if j.promote then s.promotionStop r g j.promoted else s.complete (.seq r) g
    | _, _ => s)

/-- SIGNAL_DELIVERY (R310): the oldest token increment on its way in a region arrives; a slot retired without replacement
discards it. -/
def execSignalDelivery (r : Region) (s : State) : Answer :=
  .next (match s.signals.find? (fun g => g.region == r.val) with
    | none => s
    | some g =>
      let s := { s with signals := s.signals.erase g }
      if g.target = 0xFF then s.incToken (.seq r) g.tok
      else if h : r.val * 128 + g.target < 1536 then
        let c : Cell := ⟨r.val * 128 + g.target, h⟩
        if (s.blk c.block).gone.contains c.slot then s else s.incToken (.cell c) g.tok
      else s)

/-- DEVICE_RING_DRAIN (R230, R231): the ring writer sees HEAD advance and empties its overflow buffer as far as there is
room; job reports that waited in the chip queue follow (R541). -/
def execDeviceRingDrain (ring : RingId) (s : State) : Answer :=
  .next (if (ringCfg ring).device && s.ringOn ring && s.rangeFree (s.ringCb ring + 64) 8 then
      (s.ringRefresh ring).iff (ring == .jobReport) State.jobReports
    else s)

end Sys2Proof.Machine
end

