-- ==== Sys2Proof/Machine/Tensor.lean ====
section
/-! DEFINITION. Tensors: descriptors and their checks, the placement of elements, reading and writing elements in every
format, and conversion on the way (04: R116 to R143, R628; 05: R167; 06: R220 to R224; 07: R260 to R264; 11: R407). -/

namespace Sys2Proof.Machine

/-- A tensor descriptor (R220), and who moves the bytes it names (R52). -/
structure Desc where
  base : Nat
  fmt : Nat
  orient : Bool
  compressed : Bool
  ndim : Nat
  su : Nat
  valid : Bool
  epoch : Nat
  cls : Nat
  posDim : Nat
  posBase : Nat
  ext : List Nat
  str : List Nat
  scale : Nat
  rsvd : Nat
  who : Mover := ⟨0, none⟩
  deriving DecidableEq, Repr

/-- The descriptor of 64 bytes. -/
def Desc.ofLine (l : Line) : Desc :=
  let n := l.toNat
  let byte (i k : Nat) : Nat := bitsOf n (8 * i) (8 * k)
  { base := byte 0 6, fmt := bitsOf n 48 6, orient := n.testBit 54, compressed := n.testBit 55
    ndim := bitsOf n 56 3, su := bitsOf n 59 4, valid := n.testBit 63, epoch := byte 8 2
    cls := bitsOf n 80 3, posDim := bitsOf n 83 3, posBase := byte 12 3
    ext := (List.range 5).map (fun i => byte (16 + 3 * i) 3), str := (List.range 4).map (fun i => byte (32 + 3 * i) 3)
    scale := byte 44 6
    rsvd := bitsOf n 86 10 + byte 15 1 + byte 31 1 + byte 50 14 }

/-- A destination as an engine writes it: uncompressed, whatever its COMPRESSED bit (R264). -/
def Desc.plain (d : Desc) : Desc := { d with compressed := false }

/-- The extent of a dimension: a field of 0 is 2^24, dimensions beyond NDIM have extent 1 (R221). -/
def Desc.extent (d : Desc) (i : Nat) : Nat :=
  if d.ndim ≤ i then 1 else if d.ext.getD i 0 = 0 then 2 ^ 24 else d.ext.getD i 0

/-- The five extents. -/
def Desc.extents (d : Desc) : List Nat := (List.range 5).map d.extent

/-- The stride of a dimension in bytes; dimension 0 has none. -/
def Desc.stride (d : Desc) (i : Nat) : Nat := if i = 0 ∨ d.ndim ≤ i then 0 else d.str.getD (i - 1) 0 * 2 ^ d.su

/-- The listed format codes (R116). -/
def fmtKnown (f : Nat) : Bool :=
  [0x00, 0x01, 0x02, 0x03, 0x04, 0x08, 0x09, 0x0A, 0x0B, 0x10, 0x11, 0x12, 0x13, 0x14, 0x15, 0x1C, 0x1D].contains f

/-- Whether a format is one of the six MX formats. -/
def fmtMx (f : Nat) : Bool := decide (0x10 ≤ f) && decide (f ≤ 0x15)

/-- The plain floating-point formats. -/
def fmtFloat (f : Nat) : Option FFmt :=
  if f = 0x00 then some f32 else if f = 0x01 then some f32x else if f = 0x02 then some bf16 else if f = 0x03 then some f16
  else if f = 0x04 then some f64 else if f = 0x08 then some e4m3 else if f = 0x09 then some e5m2 else none

/-- The element format of an MX format; none for MXINT8 and all others. -/
def mxFloat (f : Nat) : Option FFmt :=
  if f = 0x10 then some e4m3 else if f = 0x11 then some e5m2 else if f = 0x12 then some e3m2
  else if f = 0x13 then some e2m3 else if f = 0x14 then some e2m1 else none

/-- The bits an element takes in its own plane. -/
def fmtBits (f : Nat) : Nat :=
  if f = 0x04 then 64 else if f = 0x00 ∨ f = 0x01 ∨ f = 0x0B then 32 else if f = 0x02 ∨ f = 0x03 then 16
  else if f = 0x12 ∨ f = 0x13 then 6 else if f = 0x14 then 4 else if f = 0x1C then 1 else 8

/-- The bytes a block of 32 elements takes in an MX format (R125). -/
def mxBlockBytes (f : Nat) : Nat := 4 * fmtBits f

/-- The blocks of a row of an MX tensor (R124). -/
def Desc.blocks (d : Desc) : Nat := ceilDiv (d.extent 0) 32

/-- The bytes of a row: the dimension-0 vector of one index of the other dimensions; MX rows are padded to whole blocks
(R126). -/
def Desc.rowBytes (d : Desc) : Nat :=
  if fmtMx d.fmt then d.blocks * mxBlockBytes d.fmt else ceilDiv (d.extent 0 * fmtBits d.fmt) 8

/-- The rows of a tensor (R634). -/
def Desc.rows (d : Desc) : Nat := d.extent 1 * d.extent 2 * d.extent 3 * d.extent 4

/-- The elements of a tensor. -/
def Desc.count (d : Desc) : Nat := d.extent 0 * d.rows

/-- The bytes of a tensor's elements, without strides (R407). -/
def Desc.bytes (d : Desc) : Nat := d.rowBytes * d.rows

/-- Whether a descriptor breaks a rule of R220 to R223 or the stride rule of R125 (DETAIL 0x17). A SCALE field of a format
that uses none is not checked. -/
def Desc.broken (d : Desc) : Bool :=
  !fmtKnown d.fmt || d.ndim == 0 || decide (5 < d.ndim) ||
  (List.range 5).any (fun i => decide (d.ndim ≤ i) && d.ext.getD i 0 != 0) ||
  (List.range 4).any (fun i => decide (d.ndim ≤ i + 1) && d.str.getD i 0 != 0) ||
  d.rsvd != 0 || (decide (d.ndim ≤ d.posDim) && d.posDim != 7) ||
  (d.posDim != 7 && decide (2 ^ 24 < d.posBase + d.extent d.posDim)) ||
  (fmtMx d.fmt && decide (1 < d.ndim) && d.stride 1 % mxBlockBytes d.fmt != 0)

/-- Whether a descriptor with the orientation bit breaks R167 (DETAIL 0x18). -/
def Desc.badTile (d : Desc) : Bool :=
  d.orient && !(d.base % 4096 == 0 && d.extent 0 * fmtBits d.fmt == 512 && d.extent 1 == 64 && d.stride 1 == 64)

/-- The index of a linear index over some extents, dimension 0 innermost (R141). -/
def unrank : List Nat → Nat → List Nat
  | [], _ => []
  | e :: t, j => j % e :: unrank t (j / e)

/-- The linear index of an index. -/
def rank : List Nat → List Nat → Nat
  | e :: t, i :: u => i + e * rank t u
  | _, _ => 0

/-- The address of the row an index lies in (R222). -/
def Desc.rowAddr (d : Desc) (idx : List Nat) : Nat :=
  d.base + (List.range 4).foldl (fun (a : Nat) k => a + idx.getD (k + 1) 0 * d.stride (k + 1)) 0

/-- The row number of an index (R634). -/
def Desc.rowNo (d : Desc) (idx : List Nat) : Nat := rank (d.extents.drop 1) (idx.drop 1)

/-- Where an element lies in its row: first byte, bytes read together, first bit within them (R123, R125). -/
def elemSpot (f i : Nat) : Nat × Nat × Nat :=
  if fmtBits f = 6 then (i / 4 * 3, 3, 6 * (i % 4))
  else if fmtBits f = 4 then (i / 2, 1, 4 * (i % 2))
  else if fmtBits f = 1 then (i / 8, 1, i % 8)
  else (i * (fmtBits f / 8), fmtBits f / 8, 0)

/-- A tensor as an instruction read it: for each element in linear order its bits, the bits of its block scale or extension
byte, and the DETAIL of what went wrong (0 for nothing). -/
structure RawEl where
  bits : Nat
  side : Nat := 0
  bad : Nat := 0
  deriving DecidableEq, Repr

/-- An element of some row bytes, each with its DETAIL. -/
def pickElem (f i : Nat) (row : List (Byte × Nat)) : Nat × Nat :=
  let (o, k, b) := elemSpot f i
  let part := (row.drop o).take k
  (bitsOf (leNat (part.map (·.1))) b (fmtBits f), (part.map (·.2)).foldl worseDetail 0)

/-- The bytes of a range, each with the DETAIL of reading it: words of a store one by one, lines of coherent memory whole
(R112). -/
def State.byteList (s : State) (a n : Nat) : List (Byte × Nat) :=
  (splitRange a n).flatMap (fun p =>
    let c := canonical p.1
    match s.place c with
    | .cellStore _ | .blockStore _ =>
      (List.range p.2).map (fun i =>
        (s.mem.byte (c + i), if (s.storePoison c).getLsbD ((c % 64 + i) / 4) then 2 else 0))
    | _ => let g := s.readPart p.1 p.2; g.bytes.map (fun b => (b, g.detail)))

/-- Block j of a stream of n blocks: 4,096 bytes, each with its DETAIL. A block that fails, that the expander abandons (R182), or
any when the header fails, is poison with DETAIL 0x05 (R407 to R415). -/
def State.streamBlock (s : State) (base fmt n j : Nat) (h map : Got) : List (Byte × Nat) :=
  let slot : Nat := base + 512 + mapBytes n + 4096 * j
  let bad (d : Nat) : List (Byte × Nat) := List.replicate 4096 (0, d)
  if h.detail ≠ 0 ∨ map.detail ≠ 0 then bad (worseDetail h.detail map.detail)
  else match readHeader fmt h.bytes with
    | none => bad 5
    | some (e, m, nb) =>
      if nb ≤ j ∨ s.repair.reading.contains slot = true then bad 5
      else if (fieldAt map.bytes (j / 8) 1).testBit (j % 8) then
        let clen := leNat (s.readBytes (slot) 2).bytes
        let g := s.readBytes slot (max 16 (min clen 4096))
        if g.detail ≠ 0 then bad g.detail
        else match decodeBlock fmt e m g.bytes with
          | some l => l.map (fun b => (b, 0))
          | none => bad 5
      else s.byteList slot 4096

/-- The blocks of a stream of u bytes. -/
def State.streamBlocks (s : State) (base fmt u : Nat) : List (List (Byte × Nat)) :=
  let n := ceilDiv u 4096
  let h := s.readBytes base 512
  let map := s.readBytes (base + 512) (mapBytes n)
  (List.range n).map (fun j => s.streamBlock base fmt n j h map)

/-- A stream decoded: u bytes, each with its DETAIL. -/
def State.streamBytes (s : State) (base fmt u : Nat) : List (Byte × Nat) := ((s.streamBlocks base fmt u).flatten).take u

/-- The addresses of the blocks of a compressed operand that are abandoned (R182). -/
def State.abandonedOf (s : State) (d : Desc) : List Nat :=
  if !d.compressed then []
  else
    let l := s.streamBlocks d.base d.fmt d.bytes
    ((List.range l.length).filter (fun j => (l.getD j []).any (fun b => b.2 == 5))).map
      (fun j => d.base + 512 + mapBytes l.length + 4096 * j)

/-- Whether an index of the outer dimensions lies within some extents. -/
def rowWithin (row lim : List Nat) : Bool := (List.range 4).all (fun k => decide (row.getD k 0 < lim.getD (k + 1) 1))

/-- The rows of a tensor as bytes with their DETAIL, those within some extents: from its stream when compressed, else from its rows
in place. -/
def State.tensorRows (s : State) (d : Desc) (lim : List Nat) : List (List (Byte × Nat)) :=
  let image := if d.compressed then s.streamBytes d.base d.fmt d.bytes else []
  (List.range d.rows).map (fun r =>
    if !rowWithin (unrank (d.extents.drop 1) r) lim then []
    else if d.compressed then (image.drop (r * d.rowBytes)).take d.rowBytes
    else s.byteList (d.rowAddr (0 :: unrank (d.extents.drop 1) r)) d.rowBytes)

/-- A tensor's elements in linear order as they are stored, with scale or extension bytes (R120, R124). Elements beyond some
extents are not read (R262). -/
def State.loadRawIn (s : State) (d : Desc) (lim : List Nat) : List RawEl :=
  let rows := s.tensorRows d lim
  (List.range d.rows).flatMap (fun r =>
    let row := rows.getD r []
    let inside := rowWithin (unrank (d.extents.drop 1) r) lim
    (List.range (d.extent 0)).map (fun i =>
      if !inside || decide (lim.getD 0 1 ≤ i) then ⟨0, 0, 0⟩
      else
        let (b, bad) := pickElem d.fmt i row
        let sideAt : Option Nat :=
          if fmtMx d.fmt then some (d.scale + i / 32 + d.blocks * r)
          else if d.fmt = 0x01 then some (d.scale + r * d.extent 0 + i) else none
        match sideAt with
        | none => ⟨b, 0, bad⟩
        | some a =>
          let g := s.byteList a 1
          ⟨b, (g.map (·.1.toNat)).headD 0, worseDetail bad ((g.map (·.2)).headD 0)⟩))

/-- All elements of a tensor as they are stored. -/
def State.loadRaw (s : State) (d : Desc) : List RawEl := s.loadRawIn d d.extents

/-- The side byte of an element as it counts: the extension byte of an FP32X infinity or NaN is ignored on read and written as 0
(R121). -/
def cleanSide (f : Nat) (e : RawEl) : Nat := if f = 0x01 ∧ e.bits / 2 ^ 23 % 256 = 255 then 0 else e.side

/-- The 40 bits of an FP32X element (R120, R121). -/
def RawEl.wide (e : RawEl) : Nat := e.bits * 256 + cleanSide 0x01 e

/-- The value of an element (R117, R121, R123, R124, R129). -/
def elemNum (f : Nat) (e : RawEl) : Num :=
  if fmtMx f then
    if e.side = 255 then .nan
    else
      let x : Int := (e.side : Int) - 127
      match mxFloat f with
      | some g => (g.decode e.bits).scale x
      | none => Num.ofInt (signedOf 8 e.bits) (x - 6)
  else match fmtFloat f with
    | some g =>
      if f = 0x01 then f32x.decode e.wide else g.decode e.bits
    | none =>
      if f = 0x0A then Num.ofInt (signedOf 8 e.bits) 0
      else if f = 0x0B then Num.ofInt (signedOf 32 e.bits) 0
      else if f = 0x1D then (if e.bits = 255 then .nan else .fin false 1 ((e.bits : Int) - 127))
      else Num.ofInt (e.bits : Int) 0

/-- Whether R130 flushes subnormals of a format. -/
def fmtFlushes (f : Nat) : Bool := decide (f ≤ 0x04)

/-- Whether an element is a subnormal of a format R130 flushes. -/
def elemSub (f : Nat) (e : RawEl) : Bool :=
  match fmtFloat f with
  | some g => fmtFlushes f && (if f = 0x01 then f32x.isSub e.wide else g.isSub e.bits)
  | none => false

/-- An element read by an engine: its value after R130, its DETAIL, whether it was flushed. -/
structure El where
  num : Num
  bad : Nat := 0
  flushed : Bool := false
  deriving DecidableEq, Repr

/-- An element read under SUBN. -/
def readEl (subn : Bool) (f : Nat) (e : RawEl) : El :=
  let n := elemNum f e
  if subn && elemSub f e then ⟨.fin n.neg? 0 0, e.bad, true⟩ else ⟨n, e.bad, false⟩

/-- An operand as an engine read it. -/
structure Tens where
  ext : List Nat
  els : List El
  deriving DecidableEq, Repr

/-- Loads an operand. -/
def State.load (s : State) (subn : Bool) (d : Desc) : Tens := ⟨d.extents, (s.loadRaw d).map (readEl subn d.fmt)⟩

/-- Loads what an instruction that runs over the extents of a destination reads of an operand (R262). -/
def State.loadFor (s : State) (subn : Bool) (dest d : Desc) : Tens :=
  ⟨d.extents, (s.loadRawIn d dest.extents).map (readEl subn d.fmt)⟩

/-- The element of an operand for an index of the destination: broadcast along dimensions of extent 1, zero beyond the
operand (R262). -/
def Tens.at (t : Tens) (idx : List Nat) : El :=
  let i := (List.range 5).map (fun k => if t.ext.getD k 1 = 1 then 0 else idx.getD k 0)
  if (List.range 5).any (fun k => decide (t.ext.getD k 1 ≤ i.getD k 0)) then ⟨.fin false 0 0, 0, false⟩
  else t.els.getD (rank t.ext i) ⟨.fin false 0 0, 0, false⟩

/-- The indices of a tensor in linear order. -/
def Desc.indices (d : Desc) : List (List Nat) := (List.range d.count).map (unrank d.extents)

/-- A result element on its way to a destination: its value, the DETAIL of a bad operand, whether a NaN came in, and the
FP32 bits of the operands for a trap record (R161). -/
structure Out where
  num : Num
  bad : Nat := 0
  nanIn : Bool := false
  a : Nat := 0
  b : Nat := 0
  deriving DecidableEq, Repr

/-- What a conversion of one element wrote. -/
structure Put where
  bits : Nat
  side : Nat := 0
  bad : Bool := false
  nan : Bool := false
  cause : Nat := 0
  flushed : Bool := false
  ovf : Bool := false
  deriving DecidableEq, Repr

/-- The CAUSE of a NaN result (R161): carried or made. -/
def nanCause (o : Out) : Nat := if o.nanIn then 1 else 0

/-- Conversion of one element to a format that is not MX (R130, R134 to R137). -/
def putPlain (f : Nat) (rm : Rm) (sat subn : Bool) (o : Out) : Put :=
  if o.bad ≠ 0 then { bits := 0, bad := true }
  else match fmtFloat f with
    | some g =>
      let rm := if f = 0x01 then (match rm with | .stoch _ _ => Rm.nearest | r => r) else rm
      let e := g.encode rm sat o.num
      let flush := subn && fmtFlushes f && e.sub
      let bits := if flush then bit1 o.num.neg? * 2 ^ (g.eb + g.mb) else e.bits
      let cause := if o.num.isNan then nanCause o else if e.ovf then 2 else 3
      let p : Put := { bits := bits, nan := e.nan, cause := cause, flushed := flush, ovf := e.ovf }
      if f = 0x01 then { p with bits := bits / 256, side := bits % 256 } else p
    | none =>
      if f = 0x0A ∨ f = 0x0B then
        let e := encodeInt (fmtBits f) rm o.num
        { bits := e.bits, nan := e.nan, cause := 3, ovf := e.ovf }
      else { bits := bit1 (!o.num.isZero) }

/-- floor(log2) of a finite non-zero magnitude. -/
def Num.log2 : Num → Int
  | .fin _ m e => (Nat.log2 m : Int) + e
  | _ => 0

/-- The largest exponent of the finite, non-zero elements of a block. -/
def blockMax (l : List Out) : Option Int :=
  l.foldl (fun (b : Option Int) o =>
    match o.num with
    | .fin _ m _ => if m = 0 then b else
        match b with
        | none => some o.num.log2
        | some x => some (max x o.num.log2)
    | _ => b) none

/-- Whether a value is an infinity. -/
def Num.isInf : Num → Bool
  | .inf _ => true
  | _ => false

/-- The exponent emax of an MX element format (R127). -/
def mxEmax (f : Nat) : Int :=
  if f = 0x10 then 8 else if f = 0x11 then 15 else if f = 0x12 then 4 else if f = 0x13 ∨ f = 0x14 then 2 else 0

/-- An MX element of a value, given the block exponent X (R128). -/
def mxElem (f : Nat) (rm : Rm) (x : Int) (v : Num) : Nat :=
  match mxFloat f with
  | some g => (match v with
    | .inf s => if f = 0x11 then g.infBits s else g.big s
    | v => (g.encode rm true (v.scale (-x))).bits)
  | none =>
    match v with
    | .fin s m e =>
      let t := min 127 (roundTo rm m (e - x + 6) 0)
      unsignedOf 8 (if s then -(t : Int) else t)
    | _ => 0

/-- One block quantised under R128, scale lowered by a shift that is given back (R350). The elements' poison marks the whole
block. -/
def putBlock (f : Nat) (rm : Rm) (shift : Nat) (l : List Out) : List Put :=
  let bad := l.any (fun o => o.bad ≠ 0)
  let spoiled := l.any (fun o => o.num.isNan || (o.num.isInf && f != 0x11))
  if bad then l.map (fun o => { bits := 0, bad := true, nan := false, cause := o.bad })
  else if spoiled then
    let first := (l.find? (fun o => o.num.isNan || o.num.isInf)).getD ⟨.nan, 0, false, 0, 0⟩
    let cause := if first.num.isNan then nanCause first else 3
    l.map (fun _ => { bits := 0, side := 255, nan := true, cause := cause })
  else match blockMax l with
    | none => l.map (fun o =>
        let z := match mxFloat f with
          | some g => if o.num.isInf then g.infBits o.num.neg? else bit1 o.num.neg? * 2 ^ (g.eb + g.mb)
          | none => 0
        { bits := z, side := min 254 shift })
    | some mx =>
      let x := max (-127) (min 127 (mx - mxEmax f))
      let sc := (x + 127).toNat + shift
      l.map (fun o => { bits := mxElem f rm x o.num, side := min 254 sc, ovf := decide (254 < sc) })

/-- Elements of one row from index i0 on, i0 a multiple of 32 for an MX format, converted (R128, R134). -/
def putRow (f : Nat) (rm : Nat → Rm) (sat subn : Bool) (shift i0 : Nat) (l : List Out) : List Put :=
  if fmtMx f then
    (List.range (ceilDiv l.length 32)).flatMap (fun b =>
      let blk := (l.drop (32 * b)).take 32
      putBlock f (rm (i0 + 32 * b)) shift blk)
  else (List.range l.length).map (fun i => putPlain f (rm (i0 + i)) sat subn (l.getD i ⟨.fin false 0 0, 0, false, 0, 0⟩))

/-- The parts of a range that lie within one 32-bit word each. -/
def splitWords (a n : Nat) : List (Nat × Nat) :=
  if n = 0 then [] else (List.range ((a + n - 1) / 4 - a / 4 + 1)).map (fun k =>
    let lo := max a ((a / 4 + k) * 4)
    let hi := min (a + n) ((a / 4 + k) * 4 + 4)
    (lo, hi - lo))

/-- A run of bytes written, some of them poison: in the stores each 32-bit word takes its own poison, in coherent memory
each line's write carries one POISON bit (R112, R627). -/
def State.writeMixed (s : State) (m : Mover) (cls a : Nat) (l : List (Byte × Bool)) : State × Nat :=
  (splitRange a l.length).foldl (fun (acc : State × Nat) p =>
    let seg (q : Nat × Nat) : List (Byte × Bool) := (l.drop (q.1 - a)).take q.2
    let put (acc : State × Nat) (q : Nat × Nat) : State × Nat :=
      let r := acc.1.writePart m cls q.1 ((seg q).map (·.1)) ((seg q).any (·.2))
      (r.1, worseDetail acc.2 r.2)
    match acc.1.place (canonical p.1) with
    | .cellStore _ | .blockStore _ => if (seg p).any (·.2) then (splitWords p.1 p.2).foldl put acc else put acc p
    | _ => put acc p) (s, 0)

/-- The bytes that elements i0 onward of a row take, elements being packed by their width (R123, R125): the first byte's
offset in the row, and the bytes with their poison. Bits of other elements are kept from the old bytes. -/
def rowImage (f i0 : Nat) (ps : List Put) (count : Nat) (old : Nat → Nat → List Byte) : Nat × List (Byte × Bool) :=
  let w := fmtBits f
  let start := w * i0
  let off := start % 8
  let total := w * count
  let n := ceilDiv (off + total) 8
  let was := if off = 0 ∧ total % 8 = 0 then 0 else leNat (old (start / 8) n)
  let bits := (List.range ps.length).foldl (fun (acc : Nat) i => acc + (ps.getD i { bits := 0 }).bits % 2 ^ w * 2 ^ (w * i)) 0
  let v := was % 2 ^ off + bits * 2 ^ off + was / 2 ^ (off + total) * 2 ^ (off + total)
  let bytes := leBytes n v
  (start / 8, (List.range n).map (fun k =>
    let lo := (8 * k - off) / w
    let hi := (8 * k + 7 - off) / w
    (bytes.getD k 0, (natRange lo (hi + 1 - lo)).any (fun i => (ps.getD i { bits := 0 }).bad))))

/-- Elements of one row stored from index i0 on, with their extension bytes or block scales (R120, R124, R125); the padding
of an MX row's last block is written as the +0 code (R126). Answers the DETAIL of refused addresses. -/
def State.writePuts (s : State) (d : Desc) (row : List Nat) (i0 : Nat) (ps : List Put) : State × Nat :=
  let base := d.rowAddr (0 :: row)
  let last := i0 + ps.length == d.extent 0
  let count := if fmtMx d.fmt && last then d.blocks * 32 - i0 else ps.length
  let (o, img) := rowImage d.fmt i0 ps count (fun o n => (s.readBytes (base + o) n).bytes)
  let put (s : State) (a : Nat) (l : List (Byte × Bool)) : State × Nat := s.writeMixed d.who d.cls a l
  let r := put s (base + o) img
  let side (p : Put) : Byte × Bool := (BitVec.ofNat 8 p.side, p.bad)
  if fmtMx d.fmt then
    let firsts := (List.range ps.length).filter (fun i => (i0 + i) % 32 == 0)
    let q := put r.1 (d.scale + ceilDiv i0 32 + d.blocks * d.rowNo (0 :: row)) (firsts.map (fun i => side (ps.getD i { bits := 0 })))
    (q.1, worseDetail r.2 q.2)
  else if d.fmt = 0x01 then
    let q := put r.1 (d.scale + rank d.extents (i0 :: row)) (ps.map side)
    (q.1, worseDetail r.2 q.2)
  else r

/-- What storing some elements came to: the first NaN element with its cause and operands, flushes, overflow, and the
DETAIL of bad operands or refused addresses. -/
structure Stored where
  nan : Option (Nat × Nat × Nat × Nat) := none
  flushed : Bool := false
  ovf : Bool := false
  detail : Nat := 0
  deriving DecidableEq, Repr

/-- Elements of one row, from index i0 of dimension 0 on, converted and stored. -/
def State.storeRow (s : State) (d : Desc) (rm : Nat → Rm) (sat subn : Bool) (shift i0 : Nat) (row : List Nat) (l : List Out) :
    State × Stored :=
  let base := d.rowNo (0 :: row) * d.extent 0
  let ps := putRow d.fmt (fun i => rm (base + i)) sat subn shift i0 l
  let q := s.writePuts d row i0 ps
  let st := (List.range l.length).foldl (fun (t : Stored) i =>
    let p := ps.getD i { bits := 0 }
    let o := l.getD i ⟨.fin false 0 0, 0, false, 0, 0⟩
    { nan := if t.nan.isSome || !p.nan then t.nan else some (base + i0 + i, p.cause, o.a, o.b)
      flushed := t.flushed || p.flushed, ovf := t.ovf || p.ovf, detail := worseDetail t.detail o.bad }) {}
  (q.1, { st with detail := worseDetail st.detail q.2 })

/-- Two outcomes of storing joined; the NaN element of the lowest linear index stands, and the one written first of two with the
same (R159). -/
def Stored.join (a b : Stored) : Stored :=
  { nan := match a.nan, b.nan with
      | some p, some q => some (if q.1 < p.1 then q else p)
      | some p, none => some p
      | none, q => q
    flushed := a.flushed || b.flushed, ovf := a.ovf || b.ovf
    detail := worseDetail a.detail b.detail }

/-- A whole destination computed element by element from its index and stored, row by row in linear order. -/
def State.storeAll (s : State) (d : Desc) (rm : Nat → Rm) (sat subn : Bool) (f : List Nat → Out) : State × Stored :=
  (List.range d.rows).foldl (fun (acc : State × Stored) r =>
    let row := unrank (d.extents.drop 1) r
    let q := acc.1.storeRow d rm sat subn 0 0 row ((List.range (d.extent 0)).map (fun i => f (i :: row)))
    (q.1, acc.2.join q.2)) (s, {})

/-- The byte ranges a descriptor names: its rows, or its stream, and its scale or extension plane (R260). -/
def Desc.spans (d : Desc) : List (Nat × Nat) :=
  let main := if d.compressed then [(d.base, 512 + mapBytes (ceilDiv d.bytes 4096) + 4096 * ceilDiv d.bytes 4096)]
    else (List.range d.rows).map (fun r => (d.rowAddr (0 :: unrank (d.extents.drop 1) r), d.rowBytes))
  let side := if fmtMx d.fmt then [(d.scale, d.blocks * d.rows)] else if d.fmt = 0x01 then [(d.scale, d.count)] else []
  main ++ side

/-- The ranges of the first n elements of a row, with their scale or extension bytes. -/
def Desc.rowSpans (d : Desc) (row : List Nat) (n : Nat) : List (Nat × Nat) :=
  let r := d.rowNo (0 :: row)
  (d.rowAddr (0 :: row), ceilDiv (n * fmtBits d.fmt) 8) ::
    (if fmtMx d.fmt then [(d.scale + d.blocks * r, ceilDiv n 32)] else if d.fmt = 0x01 then [(d.scale + r * d.extent 0, n)] else [])

/-- The ranges of a tensor that an instruction running over some extents reads (R262): of each row within them its first elements,
and their scale or extension bytes; of a compressed tensor the whole stream. -/
def Desc.readSpans (d : Desc) (lim : List Nat) : List (Nat × Nat) :=
  if d.compressed then d.spans
  else
    let k := min (d.extent 0) (lim.getD 0 1)
    (((List.range d.rows).map (unrank (d.extents.drop 1))).filter (fun row => rowWithin row lim)).flatMap (fun row => d.rowSpans row k)

/-- What reading some ranges of a descriptor does beside returning the bytes, charged to its CLASS (R267). -/
def State.noteSpans (s : State) (d : Desc) (l : List (Nat × Nat)) : State := s.noteReads d.who d.cls l

/-- Whether a range lies in the stores an engine of a cell reaches, or with BSU in near memory of its region, under either name of
it (R53, R260). -/
def reachable (c : Cell) (bsu : Bool) (a n : Nat) : Bool :=
  (pieces (if canonical a = a then 2 ^ 36 else 4096) a n).all (fun p =>
    let b := canonical p.1
    let own (lo k : Nat) : Bool := decide (lo ≤ b) && decide (b + p.2 ≤ lo + k)
    own (0x200000000000 + c.val * 0x400000) 0x400000 ||
    own (0x210000000000 + c.val / 16 * 0x2000000) 0x2000000 ||
    (bsu && own (c.val / 128 * 0x1000000000) 0x1000000000))

/-- Whether every range of a descriptor is in reach. -/
def Desc.inReach (d : Desc) (c : Cell) (bsu : Bool) : Bool := d.spans.all (fun p => reachable c bsu p.1 p.2)

/-- Zeros to every byte of a destination that is in reach (R260). -/
def State.zeroDest (s : State) (c : Cell) (bsu : Bool) (d : Desc) : State :=
  d.spans.foldl (fun (s : State) p =>
    if reachable c bsu p.1 p.2 then (s.writeBytes d.who d.cls p.1 (List.replicate p.2 0)).1 else s) s

/-- The FP32 bits of a value, for records. -/
def Num.f32bits (n : Num) : Nat := (f32.encode .nearest false n).bits

end Sys2Proof.Machine
end

