-- ==== Sys2Proof/Machine/Issue.lean ====
section
/-! DEFINITION. Dispatch of Twiex instructions: fetch, illegal encodings, tokens, predicates, queues, and what every
instruction's meaning answers to it (06: R204 to R219, R224; 07: R257 to R269). -/

namespace Sys2Proof.Machine

/-- Bits [lo + n - 1 : lo] of a word. -/
def wf (w : W128) (lo n : Nat) : Nat := bitsOf w.toNat lo n

/-- The descriptor table entry of an executor. -/
def Exec.descLine (e : Exec) (i : Nat) : Line := Tbl.get e.desc 0 i
/-- The descriptor an instruction field names (R224). -/
def Exec.descr (e : Exec) (i : Nat) : Desc := Desc.ofLine (e.descLine i)
/-- A descriptor of an executor, whose engines move its bytes. -/
def State.descr (s : State) (x : Executor) (i : Nat) : Desc := { (s.exe x).descr i with who := moverOf x }

/-- Register field values of the scalar layout. -/
def fRD (w : W128) : Nat := wf w 92 5
/-- RA. -/
def fRA (w : W128) : Nat := wf w 87 5
/-- RB. -/
def fRB (w : W128) : Nat := wf w 82 5
/-- RC. -/
def fRC (w : W128) : Nat := wf w 77 5
/-- SUB. -/
def fSUB (w : W128) : Nat := wf w 64 13
/-- IMM. -/
def fIMM (w : W128) : Nat := wf w 0 64
/-- D of the tensor layout. -/
def fD (w : W128) : Nat := wf w 89 8
/-- A. -/
def fA (w : W128) : Nat := wf w 81 8
/-- B. -/
def fB (w : W128) : Nat := wf w 73 8
/-- C. -/
def fC (w : W128) : Nat := wf w 65 8
/-- RM. -/
def fRM (w : W128) : Nat := wf w 63 2
/-- SAT. -/
def fSAT (w : W128) : Bool := wf w 62 1 == 1
/-- CLASS. -/
def fCls (w : W128) : Nat := wf w 114 4
/-- OPCODE. -/
def fOp (w : W128) : Nat := wf w 118 10

/-- The value of a scalar register of an executor. -/
def State.sreg (s : State) (x : Executor) (i : Nat) : Nat := ((s.exe x).reg i).toNat
/-- Writes a scalar register of an executor. -/
def State.setSreg (s : State) (x : Executor) (i v : Nat) : State :=
  s.setExe x ((s.exe x).setReg i (BitVec.ofNat 64 v))

/-- Whether an executor is at the head of dispatch: running, not stopped, not asleep in a WATCH, a cell in
a block in RUN whose slot is neither held nor being retired, and neither with a record that its ring cannot take (R231, R373). -/
def State.atHead (s : State) (x : Executor) : Bool :=
  match x with
  | .seq r => s.seqRuns r
  | .cell c =>
    let e := s.exe x
    let k := s.blk c.block
    !s.fenced && e.running && decide (e.stop = .no) && e.watch.isNone && decide (s.blkState c.block = .run) &&
    !k.held.contains c.slot && !k.slotStopped (some c.slot) && !k.gone.contains c.slot && !s.cellStalled c

/-- The word at an executor's program counter: none where a sequencer's fetch fails or waits, or a cell's buffer entry has
not been loaded. -/
def State.fetch (s : State) (x : Executor) : Option W128 :=
  match x with
  | .seq r =>
    let a := s.fld .SEQ_PC_PC r * 16
    let g := s.readBytes a 16
    if g.detail = 0 ∧ s.rangeFree a 16 = true then some (BitVec.ofNat 128 (leNat g.bytes)) else none
  | .cell _ => ((s.exe x).entry (s.exe x).pc).map (·.word)

/-- What reading a line of instructions does beside returning it: as State.noteRead, of a line that is known to be readable. -/
def State.noteLine (s : State) (m : Mover) (cls a : Nat) : State :=
  let s := s.haul m cls a 64 false
  match s.place (canonical a) with
  | .near _ | .far _ => (s.decodeLine cls (canonical a / 64)).snoopRead cls (canonical a / 64)
  | .cellStore k => s.rouse (k / 16)
  | .blockStore b => s.rouse b
  | _ => s

/-- The state once an executor's instruction has been fetched: its region's FCLK runs (R25), and a sequencer's fetch has gone through
its instruction cache of 512 lines (R202): a line that is there as memory now has it costs nothing, any other is read, in class MGMT,
and takes the place of the one used longest ago. The spec does not say that this cache is coherent; the model keeps it so
(DESIGN CHOICE, log entry 88). -/
def State.fetched (s : State) (x : Executor) : State :=
  let s := s.startFclk x.region
  match x with
  | .cell _ => s
  | .seq r =>
    let a := s.fld .SEQ_PC_PC r * 16 / 64 * 64
    let line := canonical a / 64
    let data := lineOf (s.readBytes a 64).bytes
    let e := s.exe x
    let s := s.iff (!e.icache.contains (line, data)) (fun s => s.noteLine (seqMover r) 7 a)
    s.setExe x { s.exe x with icache := ((line, data) :: e.icache.filter (fun p => p.1 ≠ line)).take 512 }

/-- Whether a predicate field lets an instruction execute (R206). -/
def Exec.predOk (e : Exec) (p : Nat) : Bool :=
  if p % 8 = 0 then true else if p < 8 then e.predBit (p % 8) else !e.predBit (p % 8)

/-- What an instruction needs to be a legal encoding, beside its class and opcode (R208, R259): whether a rsvd field is not 0,
the descriptors it names, its destination descriptor, whether an operand breaks a condition (0x17), and any further DETAIL
its own description gives (0x19, 0x1A or 0x1C). -/
structure Need where
  rsvd : Bool := false
  descs : List Nat := []
  dest : Option Nat := none
  bad : Bool := false
  more : Nat := 0
  deriving DecidableEq, Repr

/-- A need that is only about rsvd fields. -/
def onlyRsvd (b : Bool) : Need := { rsvd := b }

/-- A need about rsvd fields and a further DETAIL. -/
def rsvdAnd (b : Bool) (more : Nat) : Need := { rsvd := b, more := more }

/-- Whether a class uses RM and SAT (R259). -/
def classRounds (c : Nat) : Bool := [2, 3, 4, 5, 6, 7, 9].contains c

/-- Whether RM is legal for a class (R133); in the other classes RM and SAT are rsvd. -/
def rmBad (w : W128) : Bool := fRM w == 3 || (fRM w == 2 && fCls w != 9)

/-- The DETAIL of an illegal encoding in the order of R208, or 0. -/
def illegalDetail (e : Exec) (x : Executor) (w : W128) (n : Need) : Nat :=
  let cls := fCls w
  let row := opRow cls (fOp w)
  let runs := opMap.any (fun r => r.cls == cls && (if x.isCell then r.cell else r.seq))
  let mine := match row with
    | some r => if x.isCell then r.cell else r.seq
    | none => false
  let tlay := match row with
    | some r => decide (r.layout = .t)
    | none => false
  let ds := n.descs.map (fun i => (i, e.descr i))
  if n.more = 0x19 then 0x19
  else if 0xD ≤ cls then 0x10
  else if !runs then 0x12
  else if !mine then 0x11
  else if n.rsvd || (tlay && !classRounds cls && (fRM w != 0 || fSAT w)) then 0x13
  else if wf w 110 4 = 8 then 0x14
  else if tlay && classRounds cls && rmBad w then 0x15
  else if ds.any (fun p => decide (255 < p.1) || !p.2.valid) then 0x16
  else if n.bad || ds.any (fun p => p.2.broken) then 0x17
  else if ds.any (fun p => p.2.badTile) then 0x18
  else n.more

/-- The record an instruction will write, as dispatch fills it (R246): the EPOCH is that of the destination descriptor. -/
def State.mkFlight (s : State) (x : Executor) (w : W128) (q : QueueId) (dest : Option Nat) : Flight :=
  let (step, epoch, slot) := s.execCtx x
  { q := q, uid := s.nextUid, addr := s.pcAddr x, cls := fCls w, op := fOp w, tokOut := wf w 98 6, cr := wf w 97 1 == 1
    epoch := match dest with
      | some d => (s.descr x d).epoch
      | none => epoch
    step := step, slot := slot }

/-- What a meaning answers to dispatch: it cannot start yet; it waits for blocks that sleep to be woken (R60); it is done at once, with its outcome, COUNT and where the
program goes (none: the next instruction); it is on its way in a queue, with what follows once it is there; or it has settled
everything itself. -/
inductive Act where
  | hold
  | wake (blocks : List Block)
  | done (s : State) (o : Outc) (count : Nat) (next : Option Nat)
  | fly (s : State) (f : Flight) (after : State → State := fun s => s)
  | raw (s : State)

/-- The program counter: an address div 16 for a sequencer, a buffer index for a cell. -/
def State.pcOf (s : State) (x : Executor) : Nat :=
  match x with
  | .seq r => s.fld .SEQ_PC_PC r
  | .cell _ => (s.exe x).pc

/-- Moves the program counter. -/
def State.setPc (s : State) (x : Executor) (n : Nat) : State :=
  match x with
  | .seq r => s.setFld .SEQ_PC_PC r n
  | .cell _ => s.setExe x { s.exe x with pc := n }

/-- The SEQ_STAT state of a sequencer that runs or waits. -/
def State.shows (s : State) (x : Executor) (st : Nat) : State :=
  match x with
  | .seq r => s.setFld .SEQ_STAT_STATE r st
  | .cell _ => s

/-- An illegal instruction (R209): the forced record, and the stop with its error record. -/
def State.illegal (s : State) (x : Executor) (w : W128) (dest : Option Nat) (detail : Nat) : State :=
  let f := s.mkFlight x w .move dest
  let s := s.ringPut (.completion x.region) ({ f with status := 0xC0, detail := detail, forced := true }.bytes x)
  s.stopIllegal x detail

/-- The instruction boundary after an instruction: a pending HALT takes effect (R254). -/
def State.boundary (s : State) (x : Executor) : State :=
  match x with
  | .seq r => s.haltBoundary r
  | .cell _ => s

/-- Consumes a token (R215). -/
def State.takeToken (s : State) (x : Executor) (t : Nat) : State :=
  if t = 0 then s else s.setExe x ((s.exe x).setToken t ((s.exe x).token t - 1))

/-- Instructions that are done at dispatch, which a full completion ring therefore holds there when CR is 1 (R231): classes
CTL, SYN and SYS, and the moves into the executor's own tables (R214). -/
def frontEnd (cls op : Nat) : Bool := [0x0, 0xB, 0xC].contains cls || (cls == 1 && decide (0x18 ≤ op))

/-- Dispatch of one instruction (R208 to R219): the word at the program counter must be the command's; encodings are checked,
the token is awaited and consumed, the predicate decides, and the meaning acts. A command for another class or opcode than
the word's does nothing, unless the word has none that runs here. -/
def issue (cls op : Nat) (x : Executor) (w : W128) (s : State) (need : State → Need) (act : State → Act) : Answer :=
  .next (
    if !s.atHead x then s
    else if x.isCell && (s.fetch x).isNone then s.illegal x 0 none 0x19
    else if s.fetch x ≠ some w then s
    else
      let s := s.fetched x
      let mine := fCls w == cls && fOp w == op
      let n := if mine then need s else {}
      let bad := illegalDetail (s.exe x) x w n
      if !mine && bad != 0x10 && bad != 0x11 && bad != 0x12 then s
      else if bad ≠ 0 then s.illegal x w (if mine then n.dest else none) bad
      else
        let t := wf w 104 6
        let e := s.exe x
        if t ≠ 0 ∧ e.token t = 0 then s.shows x 2
        else if wf w 97 1 == 1 && !s.ringAccepts (.completion x.region) &&
            (frontEnd cls op || !e.predOk (wf w 110 4)) then s.shows x 1
        else
          let s1 := (s.takeToken x t).shows x 1
          let f := s.mkFlight x w .move n.dest
          if !e.predOk (wf w 110 4) then
            ((s1.setPc x (s.pcOf x + 1)).complete x { f with predOff := true }).boundary x
          else match act s1 with
            | .hold => s.shows x 1
            | .wake l => (s.stirAll l).shows x 1
            | .done t o count next =>
              ((t.setPc x (next.getD (s.pcOf x + 1))).complete x { f with status := o.1, detail := o.2, count := count }).boundary x
            | .fly t g after =>
              let u := t.setExe x { t.exe x with flights := (t.exe x).flights ++ [g] }
              ((after u).setPc x (s.pcOf x + 1)).boundary x
            | .raw t => t)

/-- The bytes an instruction reads and writes, as ranges (R265). -/
structure Touch where
  reads : List (Nat × Nat) := []
  writes : List (Nat × Nat) := []
  deriving DecidableEq, Repr

/-- Whether a bank-side pass that a queue has in progress has still to reach its data: those behind it start after it (R211). -/
def State.passAhead (s : State) (x : Executor) (q : QueueId) : Bool :=
  (s.exe x).flights.any (fun f => f.inQueue q && f.pass.isSome)

/-- An instruction of a queue: it holds while the queue is full, else its effect happens and it is on its way (R210); what it
shares with other queues is left undefined (R265), but for a park that is refused and touches nothing (R332). -/
def queued (x : Executor) (w : W128) (q : QueueId) (dest : Option Nat) (s : State) (eff : State → Flight → State × Flight)
    (touch : Touch := {}) : Act :=
  if !s.queueFree x q || s.passAhead x q then .hold
  else
    let f := { s.mkFlight x w q dest with reads := touch.reads, writes := touch.writes }
    let (t, g) := eff ({ s with nextUid := s.nextUid + 1 }.armExpander x) f
    let t := t.disarmExpander x touch.reads
    let (t, g) := if g.refusedPark then (t, { g with reads := [], writes := [] }) else t.race x g
    .fly t g

/-- A meaning that writes a scalar register and is done (CTL). -/
def writesReg (x : Executor) (w : W128) (s : State) (v : Nat) : Act := .done (s.setSreg x (fRD w) v) (0, 0) 0 none

/-- The second operand of the scalar operations: RB + IMM modulo 2^64 (R270). -/
def opB (x : Executor) (w : W128) (s : State) : Nat := (s.sreg x (fRB w) + fIMM w) % 2 ^ 64

/-- Register fields that a cell may not name: bit 4 set (R258). -/
def regsBad (x : Executor) (l : List Nat) : Bool := x.isCell && l.any (fun i => decide (15 < i))

/-- An address RA + IMM modulo 2^64. -/
def addrRA (x : Executor) (w : W128) (s : State) : Nat := (s.sreg x (fRA w) + fIMM w) % 2 ^ 64

end Sys2Proof.Machine
end

