-- ==== Sys2Proof/Machine/Ctl.lean ====
section
/-! DEFINITION. CTL: control and scalars (07: R270 to R273). -/

namespace Sys2Proof.Machine

/-- The fields a scalar operation RD := RA op b leaves unused: RC and SUB (R259, R270). -/
def aluNeed (x : Executor) (w : W128) (_s : State) : Need :=
  { rsvd := fRC w != 0 || fSUB w != 0 || regsBad x [fRD w, fRA w, fRB w] }

/-- A scalar operation (R270). -/
def aluOp (op : Nat) (f : Nat → Nat → Nat) (x : Executor) (w : W128) (s : State) : Answer :=
  issue 0 op x w s (aluNeed x w) (fun s => writesReg x w s (f (s.sreg x (fRA w)) (opB x w s) % 2 ^ 64))

/-- CTL_SET. -/
def execCtlSet (x : Executor) (w : W128) (s : State) : Answer :=
  issue 0 0x010 x w s
    (fun _ => { rsvd := fRA w != 0 || fRB w != 0 || fRC w != 0 || fSUB w != 0 || regsBad x [fRD w] })
    (fun s => writesReg x w s (fIMM w))
/-- CTL_ADD. -/
def execCtlAdd (x : Executor) (w : W128) (s : State) : Answer := aluOp 0x011 (fun a b => a + b) x w s
/-- CTL_SUB. -/
def execCtlSub (x : Executor) (w : W128) (s : State) : Answer := aluOp 0x012 (fun a b => a + (2 ^ 64 - b)) x w s
/-- CTL_MUL. -/
def execCtlMul (x : Executor) (w : W128) (s : State) : Answer := aluOp 0x013 (fun a b => a * b) x w s
/-- CTL_SHL. -/
def execCtlShl (x : Executor) (w : W128) (s : State) : Answer := aluOp 0x014 (fun a b => a * 2 ^ (b % 64)) x w s
/-- CTL_SHR. -/
def execCtlShr (x : Executor) (w : W128) (s : State) : Answer := aluOp 0x015 (fun a b => a / 2 ^ (b % 64)) x w s
/-- CTL_AND. -/
def execCtlAnd (x : Executor) (w : W128) (s : State) : Answer := aluOp 0x016 Nat.land x w s
/-- CTL_OR. -/
def execCtlOr (x : Executor) (w : W128) (s : State) : Answer := aluOp 0x017 Nat.lor x w s
/-- CTL_XOR. -/
def execCtlXor (x : Executor) (w : W128) (s : State) : Answer := aluOp 0x018 Nat.xor x w s
/-- CTL_SRA. -/
def execCtlSra (x : Executor) (w : W128) (s : State) : Answer :=
  aluOp 0x019 (fun a b => unsignedOf 64 (signedOf 64 a / (2 ^ (b % 64) : Nat))) x w s

/-- The conditions of CMP (R270). -/
def cmpHolds (cond a b : Nat) : Bool :=
  if cond = 0 then a == b
  else if cond = 1 then a != b
  else if cond = 2 then decide (a < b)
  else if cond = 3 then decide (b ≤ a)
  else if cond = 4 then decide (signedOf 64 a < signedOf 64 b)
  else decide (signedOf 64 b ≤ signedOf 64 a)

/-- Writes a predicate bit of an executor. -/
def State.setPredBit (s : State) (x : Executor) (i : Nat) (v : Bool) : State := s.setExe x ((s.exe x).setPred i v)

/-- CTL_CMP. -/
def execCtlCmp (x : Executor) (w : W128) (s : State) : Answer :=
  issue 0 0x020 x w s
    (fun _ => onlyRsvd (fRD w != 0 || fRC w != 0 || fSUB w % 8 == 0 || decide (6 ≤ fSUB w / 8 % 8) || decide (64 ≤ fSUB w) ||
      regsBad x [fRA w, fRB w]))
    (fun s => .done (s.setPredBit x (fSUB w % 8) (cmpHolds (fSUB w / 8 % 8) (s.sreg x (fRA w)) (opB x w s))) (0, 0) 0 none)

/-- CTL_PSET. -/
def execCtlPset (x : Executor) (w : W128) (s : State) : Answer :=
  issue 0 0x021 x w s
    (fun _ => onlyRsvd (fRD w != 0 || fRA w != 0 || fRB w != 0 || fRC w != 0 || fSUB w % 8 == 0 || decide (8 ≤ fSUB w) ||
      decide (2 ≤ fIMM w)))
    (fun s => .done (s.setPredBit x (fSUB w % 8) (fIMM w == 1)) (0, 0) 0 none)

/-- CTL_GETS (R272). -/
def execCtlGets (x : Executor) (w : W128) (s : State) : Answer :=
  issue 0 0x030 x w s
    (fun _ => { rsvd := fRA w != 0 || fRB w != 0 || fRC w != 0 || fIMM w != 0 || decide (7 ≤ fSUB w) || regsBad x [fRD w] })
    (fun s =>
      let item := fSUB w
      let v := match x with
        | .seq r =>
          if item = 0 then s.fld .SEQ_STEP_STEP r else if item = 1 then s.fld .SEQ_STEP_EPOCH r
          else if item = 2 then s.fld .SEQ_SLOT_INDEX r else if item = 3 then s.fld .SEQ_SLOT_MICRO r
          else if item = 4 then s.fld .SEQ_SLOT_VSTAGE r else if item = 5 then r.val else s.fclk r
        | .cell c =>
          let k := (s.exe x).ctx
          if item = 0 then k.step else if item = 1 then k.epoch else if item = 2 then k.slot else if item = 3 then k.micro
          else if item = 4 then k.vstage else if item = 5 then c.val else s.fclk c.region
      writesReg x w s v)

/-- Where a branch by a signed count of instructions goes: for a sequencer an address div 16 within 48 bits, for a cell an
index, none when it leaves the buffer (R271). -/
def branchTo (x : Executor) (at_ imm : Nat) : Option Nat :=
  let t : Int := (at_ : Int) + signedOf 64 imm
  if x.isCell then (if 0 ≤ t ∧ t < 1024 then some t.toNat else none)
  else some (t % (2 ^ 44 : Nat)).toNat

/-- Whether a branch target holds an instruction; a sequencer's is fetched from memory. -/
def Exec.reaches (e : Exec) (x : Executor) (t : Option Nat) : Bool :=
  match t with
  | none => false
  | some n => !x.isCell || (e.entry n).isSome

/-- Whether an instruction's predicate holds. -/
def State.predHolds (s : State) (x : Executor) (w : W128) : Bool := (s.exe x).predOk (wf w 110 4)

/-- CTL_BR (R271). -/
def execCtlBr (x : Executor) (w : W128) (s : State) : Answer :=
  issue 0 0x002 x w s
    (fun s => rsvdAnd (fRD w != 0 || fRA w != 0 || fRB w != 0 || fRC w != 0 || fSUB w != 0)
      (if s.predHolds x w && !(s.exe x).reaches x (branchTo x (s.pcOf x) (fIMM w)) then 0x19 else 0))
    (fun s => .done s (0, 0) 0 (branchTo x (s.pcOf x) (fIMM w)))

/-- The value LOOP leaves in RA; S0 reads 0 and stays 0. -/
def loopValue (x : Executor) (w : W128) (s : State) : Nat :=
  if fRA w = 0 then 2 ^ 64 - 1 else (s.sreg x (fRA w) + 2 ^ 64 - 1) % 2 ^ 64

/-- Whether RA is not 0 after its decrement; S0 stays 0. -/
def loopTaken (w : W128) (v : Nat) : Bool := fRA w != 0 && v != 0

/-- CTL_LOOP (R271). -/
def execCtlLoop (x : Executor) (w : W128) (s : State) : Answer :=
  issue 0 0x003 x w s
    (fun s => rsvdAnd (fRD w != 0 || fRB w != 0 || fRC w != 0 || fSUB w != 0 || regsBad x [fRA w])
      (if s.predHolds x w && loopTaken w (loopValue x w s) && !(s.exe x).reaches x (branchTo x (s.pcOf x) (fIMM w)) then 0x19
       else 0))
    (fun s =>
      let t := s.setSreg x (fRA w) (loopValue x w s)
      .done t (0, 0) 0 (if t.sreg x (fRA w) = 0 then none else branchTo x (s.pcOf x) (fIMM w)))

/-- CTL_JR (R271). -/
def execCtlJr (x : Executor) (w : W128) (s : State) : Answer :=
  issue 0 0x004 x w s
    (fun s =>
      let a := s.sreg x (fRA w)
      let ok := if x.isCell then decide (a < 1024) && ((s.exe x).entry a).isSome else a % 16 == 0
      rsvdAnd (fRD w != 0 || fRB w != 0 || fRC w != 0 || fSUB w != 0 || fIMM w != 0 || regsBad x [fRA w])
        (if s.predHolds x w && !ok then 0x19 else 0))
    (fun s =>
      let a := s.sreg x (fRA w)
      .done s (0, 0) 0 (some (if x.isCell then a else a / 16 % 2 ^ 44)))

/-- The fields END and ENDSLOT leave unused. -/
def endNeed (w : W128) (_s : State) : Need :=
  { rsvd := fRD w != 0 || fRA w != 0 || fRB w != 0 || fRC w != 0 || fSUB w != 0 || fIMM w != 0 }

/-- A cell's kernel ends (R226, R273, R353): its launch learns of it, with the kernel's sticky status. -/
def State.endKernel (s : State) (c : Cell) (status detail : Nat) : State :=
  let e := s.exe (.cell c)
  let o := worst (status, detail) (e.endStatus, e.endDetail)
  let s := s.setExe (.cell c) { e with running := false, stop := .no, rerun := false, promote := false, endStatus := 0, endDetail := 0 }
  s.settleJob e.job c.val 1 o.1 o.2 e.promote

/-- END and ENDSLOT once every earlier instruction is complete: the instruction completes, then the kernel, program, slot or
walk ends (R226, R273). -/
def endAct (x : Executor) (w : W128) (endsWalk : Bool) (s : State) : Act :=
  if !(s.exe x).flights.isEmpty then .hold
  else
    let s1 := s.complete x (s.mkFlight x w .move none)
    match x with
    | .cell c => .raw (s1.endKernel c 0 0)
    | .seq r =>
      let k := s1.work r
      if k.walking then .raw (s1.endSlot r endsWalk)
      else .raw (s1.finishWork r k.status k.detail 0)

/-- CTL_END. -/
def execCtlEnd (x : Executor) (w : W128) (s : State) : Answer := issue 0 0x000 x w s (endNeed w) (endAct x w true)
/-- CTL_ENDSLOT. -/
def execCtlEndslot (x : Executor) (w : W128) (s : State) : Answer := issue 0 0x001 x w s (endNeed w) (endAct x w false)

end Sys2Proof.Machine
end

