-- ==== Sys2Proof/Machine/Syn.lean ====
section
/-! DEFINITION. SYN: fences, waits and signals (07: R308 to R310). -/

namespace Sys2Proof.Machine

/-- The queues FENCE's SUB selects: the three of a cell or of a sequencer, all of them for 0 (R308). -/
def fenceQueues (x : Executor) (sub : Nat) : List QueueId :=
  let qs : List (Nat × QueueId) := if x.isCell then [(0, .move), (1, .matrix), (2, .vector)] else [(0, .dma), (1, .coll), (2, .codec)]
  if sub = 0 then qs.map (·.2) else (qs.filter (fun p => sub.testBit p.1)).map (·.2)

/-- Whether an instruction in flight is a load, store or atomic. -/
def Flight.scalarMove (f : Flight) : Bool := f.cls == 1 && [0x10, 0x11, 0x12].contains f.op

/-- SYN_FENCE (R308). -/
def execSynFence (x : Executor) (w : W128) (s : State) : Answer :=
  issue 0xB 0 x w s
    (fun _ => onlyRsvd (fRD w != 0 || fRA w != 0 || fRB w != 0 || fRC w != 0 || decide (8 ≤ fSUB w) || fIMM w != 0))
    (fun s =>
      let waits := (s.exe x).flights.any (fun f =>
        f.scalarMove || (fenceQueues x (fSUB w)).any (fun q => f.inQueue q))
      if waits then .hold else .done s (0, 0) 0 none)

/-- SYN_WAIT (R309). -/
def execSynWait (x : Executor) (w : W128) (s : State) : Answer :=
  issue 0xB 1 x w s (endNeed w) (fun s => .done s (0, 0) 0 none)

/-- SYN_SIGNAL (R310): the increment is on its way to the executor SUB names. -/
def execSynSignal (x : Executor) (w : W128) (s : State) : Answer :=
  issue 0xB 2 x w s
    (fun _ => onlyRsvd (fRD w != 0 || fRA w != 0 || fRB w != 0 || fRC w != 0 || fIMM w == 0 || decide (64 ≤ fIMM w) ||
      !(decide (fSUB w ≤ 127) || fSUB w == 0xFF)))
    (fun s => .done { s with signals := s.signals ++ [⟨x.region.val, fSUB w, fIMM w⟩] } (0, 0) 0 none)

end Sys2Proof.Machine
end

