-- ==== Sys2Proof/Machine/Sys.lean ====
section
/-! DEFINITION. SYS: launches, restarts, token clearing, block states and halts (07: R312 to R315, R317), kernel loads (R279),
the moves into the descriptor table and AMO (R278). -/

namespace Sys2Proof.Machine

/-- The cells of a region that a 128-bit mask in two registers names (R279). -/
def maskCells (r : Region) (lo hi : Nat) : List Cell :=
  (List.range 128).filterMap (fun j =>
    if (lo + hi * 2 ^ 64).testBit j then (if h : r.val * 128 + j < 1536 then some ⟨r.val * 128 + j, h⟩ else none) else none)

/-- Places an item in a block's inbound queue. -/
def State.pushIn (s : State) (b : Block) (i : InItem) : State :=
  let k := s.blk b
  s.setBlk b { k with inq := k.inq ++ [i] }

/-- A job begins, and the instruction that waits for it is on its way. -/
def State.beginJob (s : State) (r : Region) (kind : JobKind) (waits : List Nat) (target : Nat) : State × Nat :=
  let id := s.nextJob
  ({ s with nextJob := id + 1, jobs := s.jobs ++ [{ id := id, region := r.val, kind := kind, waits := waits, cells := waits, target := target }] }, id)

/-- SYS_LAUNCH (R226, R312): the launch is placed in the named cells' inbound queues. -/
def execSysLaunch (x : Executor) (w : W128) (s : State) : Answer :=
  issue 0xC 0 x w s
    (fun _ => onlyRsvd (fRD w != 0 || fIMM w != 0 || decide (1024 ≤ fSUB w)))
    (fun s => match x with
      | .cell _ => .hold
      | .seq r =>
        let cells := maskCells r (s.sreg x (fRA w)) (s.sreg x (fRB w))
        let ctx := s.launchCtx r
        let arg := BitVec.ofNat 64 (s.sreg x (fRC w))
        let (t, id) := s.beginJob r .launch (cells.map (·.val)) 0
        let u := cells.foldl (fun (t : State) c => t.pushIn c.block (.launch id c (fSUB w) arg ctx)) t
        .fly { u with nextUid := u.nextUid + 1 } { s.mkFlight x w (.launch id) none with job := some id })

/-- The cells in a RESTART mask that are stopped. -/
def State.stoppedIn (s : State) (r : Region) (lo hi : Nat) : List Cell :=
  (maskCells r lo hi).filter (fun c => decide ((s.exe (.cell c)).stop ≠ .no))

/-- One stopped cell is restarted: its kernel ended with the status it stopped with, or resumed after the instruction that
stopped it (R312, R313). -/
def State.restartCell (s : State) (resume : Bool) (c : Cell) : State :=
  let e := s.exe (.cell c)
  let o : Outc := match e.stop with
    | .nanTrap => (0x40, 0)
    | .illegal d => (0xC0, d)
    | .no => (0, 0)
  if resume then
    let pc := match e.stop with
      | .illegal _ => e.pc + 1
      | _ => e.pc
    s.setExe (.cell c) { e with stop := .no, pc := pc }
  else s.endKernel c o.1 o.2

/-- SYS_RESTART (R313). -/
def execSysRestart (x : Executor) (w : W128) (s : State) : Answer :=
  issue 0xC 1 x w s
    (fun _ => onlyRsvd (fRD w != 0 || fRC w != 0 || fIMM w != 0 || decide (2 ≤ fSUB w)))
    (fun s => match x with
      | .cell _ => .hold
      | .seq r =>
        let cells := s.stoppedIn r (s.sreg x (fRA w)) (s.sreg x (fRB w))
        .done (cells.foldl (fun (t : State) c => t.restartCell (fSUB w == 1) c) s) (0, 0) cells.length none)

/-- SYS_TOKCLR (R314). -/
def execSysTokclr (x : Executor) (w : W128) (s : State) : Answer :=
  issue 0xC 2 x w s
    (fun _ => onlyRsvd (fRD w != 0 || fRA w != 0 || fRB w != 0 || fRC w != 0 || fSUB w != 0 || fIMM w % 2 == 1))
    (fun s =>
      let e := s.exe x
      .done (s.setExe x { e with tok := e.tok.filter (fun p => !(fIMM w).testBit p.1) }) (0, 0) 0 none)

/-- SYS_BLKST (R315): the state is requested of each named block; the instruction completes when each has reached it or given
the request up. -/
def execSysBlkst (x : Executor) (w : W128) (s : State) : Answer :=
  issue 0xC 3 x w s
    (fun _ => onlyRsvd (fRD w != 0 || fRA w != 0 || fRB w != 0 || fRC w != 0 || decide (4 ≤ fSUB w) || decide (256 ≤ fIMM w)))
    (fun s => match x with
      | .cell _ => .hold
      | .seq r =>
        let blocks : List Block := (setBits (fIMM w) 8).filterMap (fun k =>
          if h : r.val * 8 + k < 96 then some ⟨r.val * 8 + k, h⟩ else none)
        let target := BlkState.ofCode (fSUB w)
        let (t, id) := s.beginJob r .blkst (blocks.map (·.val)) target.code
        let u := blocks.foldl (fun (t : State) b =>
          let t := t.requestBlk b target
          if t.blkState b = target ∧ (t.blk b).moving = none then t.settleBlkst b (some target.code) else t) t
        .fly { u with nextUid := u.nextUid + 1 } { s.mkFlight x w (.launch id) none with job := some id })

/-- SYS_HALT (R317): the context stops at the boundary after it. -/
def execSysHalt (x : Executor) (w : W128) (s : State) : Answer :=
  issue 0xC 6 x w s (endNeed w)
    (fun s => match x with
      | .cell _ => .hold
      | .seq r => .done (s.setWork r { s.work r with halts := (s.work r).halts ++ [(false, false)] }) (0, 0) 0 none)

/-- The queue of an executor's moves. -/
def moveQueue (x : Executor) : QueueId := if x.isCell then .move else .dma

/-- Whether an executor's move queue is empty, as the moves into its own tables need (R211, R214). -/
def State.movesDone (s : State) (x : Executor) : Bool := (s.queueHead x (moveQueue x)).isNone

/-- MOV_KLD (R279): a cell loads its own buffer before it goes on (R214), words that its instructions in flight write being
undefined (R213, R265); a sequencer's load is placed in the named cells' inbound queues and takes its place in the DMA engine's queue
until they have it (R210, R211). -/
def execMovKld (x : Executor) (w : W128) (s : State) : Answer :=
  issue 1 0x01A x w s
    (fun _ =>
      let n := fIMM w
      rsvdAnd (fRD w != 0 || n == 0 || decide (1024 < n) || decide (1024 ≤ fSUB w) || regsBad x [fRC w] ||
          (x.isCell && (fRA w != 0 || fRB w != 0)))
        (if 1024 < fSUB w + n then 0x1A else 0))
    (fun s =>
      let src := s.sreg x (fRC w)
      let n := fIMM w
      match x with
      | .cell _ =>
        if !(s.asleep [(src, 16 * n)]).isEmpty then .wake (s.asleep [(src, 16 * n)])
        else if !s.movesDone x || !s.rangeFree src (16 * n) then .hold
        else
          let (s, raced) := s.raceReads x [(src, 16 * n)]
          let g := s.readBytes src (16 * n)
          let free := s.freeBytes src (16 * n)
          let b := (List.range n).flatMap (fun j =>
            ((if (overlaps raced [(src + 16 * j, 16)]).isEmpty then g.bytes else free).drop (16 * j)).take 16)
          let s := s.noteRead (moverOf x) 0 src (16 * n)
          if g.detail ≠ 0 then .done s (0xC0, g.detail) 0 none
          else .done (s.setExe x ((s.exe x).load (loadEntries (fSUB w) n src b))) (0, 0) n none
      | .seq r =>
        let cells := maskCells r (s.sreg x (fRA w)) (s.sreg x (fRB w))
        queued x w .dma none s (fun s f =>
          let (t, id) := s.beginJob r .load (cells.map (·.val)) 0
          (cells.foldl (fun (t : State) c => t.pushIn c.block (.load id c (fSUB w) n src)) t, { f with job := some id }))
          { reads := [(src, 16 * n)] })

/-- MOV_DWR (R278). -/
def execMovDwr (x : Executor) (w : W128) (s : State) : Answer :=
  issue 1 0x018 x w s
    (fun _ => onlyRsvd (fRD w != 0 || fRA w != 0 || fRC w != 0 || fIMM w != 0 || decide (2048 ≤ fSUB w) || regsBad x [fRB w]))
    (fun s =>
      if !s.movesDone x then .hold
      else
        let e := s.exe x
        let i := fSUB w % 256
        let j := fSUB w / 256
        let line := mergeLine (e.descLine i) (BitVec.ofNat 512 (s.sreg x (fRB w) * 2 ^ (64 * j))) (byteMask (8 * j) 8)
        .done (s.setExe x { e with desc := Tbl.set e.desc 0 i line }) (0, 0) 0 none)

/-- MOV_DLD (R278): each 64-byte record becomes an entry; one that is poison leaves its entry, one at a refused address, or at
one that is not aligned to the record's 64 bytes, is a decode error and writes a zero entry. An entry whose record the executor's
instructions in flight write is undefined (R213, R265). -/
def execMovDld (x : Executor) (w : W128) (s : State) : Answer :=
  issue 1 0x019 x w s
    (fun _ => onlyRsvd (fRD w != 0 || fRB w != 0 || fRC w != 0 || regsBad x [fRA w] ||
      decide (256 < fSUB w % 256 + fSUB w / 256 + 1)))
    (fun s =>
      let first := fSUB w % 256
      let n := fSUB w / 256 + 1
      let a := addrRA x w s
      if !(s.asleep [(a, 64 * n)]).isEmpty then .wake (s.asleep [(a, 64 * n)])
      else if !s.movesDone x || !s.rangeFree a (64 * n) then .hold
      else
        let m := moverOf x
        let (s, raced) := s.raceReads x [(a, 64 * n)]
        let s := s.iff (a % 64 == 0) (fun s => s.noteRead m (defaultClass m.code) a (64 * n))
        let r := (List.range n).foldl (fun (acc : State × Nat × Nat) k =>
          let g := if a % 64 = 0 then acc.1.readBytes (a + 64 * k) 64 else ⟨[], 3⟩
          let e := acc.1.exe x
          let put (l : Line) : State := acc.1.setExe x { e with desc := Tbl.set e.desc 0 (first + k) l }
          if !(overlaps raced [(a + 64 * k, 64)]).isEmpty then
            (put (lineOf (acc.1.freeBytes (a + 64 * k) 64)), acc.2.1 + 1, acc.2.2)
          else if g.detail = 0 then (put (lineOf g.bytes), acc.2.1 + 1, acc.2.2)
          else if g.detail = 3 then
            ((put 0).iff (a % 64 != 0) (fun s => s.refuse m.code (a + 64 * k) false), acc.2.1, worseDetail acc.2.2 3)
          else (acc.1, acc.2.1, worseDetail acc.2.2 g.detail)) (s, 0, 0)
        .done r.1 (failed r.2.2) r.2.1 none)

/-- What LD, ST and AMO find at an address: coherent memory once the line can be taken up, a store, or a decode error (R51,
R266, R278). -/
inductive Spot where
  | line (l off : Nat)
  | store (l off : Nat)
  | refused
  | later
  deriving DecidableEq, Repr

/-- The spot of a naturally aligned access of n bytes. -/
def State.spot (s : State) (x : Executor) (a n : Nat) : Spot :=
  let c := canonical a
  if a % n ≠ 0 then .refused
  else match s.place c with
    | .near _ | .far _ => if s.lineReady (moverOf x).code (c / 64) then .line (c / 64) (c % 64) else .later
    | .cellStore _ | .blockStore _ => .store (c / 64) (c % 64)
    | _ => .refused

/-- Whether n bytes from an offset on meet a poison word. -/
def poisonAt (p : BitVec 16) (off n : Nat) : Bool := (List.range n).any (fun i => p.getLsbD ((off + i) / 4))

/-- The atomic operation a code of R102 names. -/
def atomOp (n : Nat) : AtomOp :=
  if n = 0 then .add else if n = 1 then .smin else if n = 2 then .smax else if n = 3 then .umin else if n = 4 then .umax
  else if n = 5 then .swap else if n = 6 then .cas else .fadd32

/-- MOV_AMO (R55, R102, R278, R626): at the line in the executor's cache; a poisoned target is left alone and RD receives
0; an atomic to a store or a refused address is a decode error. -/
def execMovAmo (x : Executor) (w : W128) (s : State) : Answer :=
  issue 1 0x012 x w s
    (fun _ => onlyRsvd (decide (32 ≤ fSUB w) || decide (8 ≤ fSUB w % 16) || (fSUB w % 16 == 7 && decide (16 ≤ fSUB w)) ||
      regsBad x [fRD w, fRA w, fRB w, fRC w]))
    (fun s =>
      let wide := decide (16 ≤ fSUB w)
      let n := if wide then 8 else 4
      let a := addrRA x w s
      let atom (off : Nat) : Atom := ⟨atomOp (fSUB w % 16), wide, Fin.ofNat 64 off, BitVec.ofNat 64 (s.sreg x (fRB w)),
        BitVec.ofNat 64 (s.sreg x (fRC w))⟩
      let m := moverOf x
      let fail (t : State) (f : Flight) (d : Nat) : State × Flight := (t.setSreg x (fRD w) 0, { f with status := 0xC0, detail := d })
      match s.spot x a n with
      | .later => .hold
      | .refused | .store _ _ => queued x w (moveQueue x) none s (fun t f => fail (t.refuse m.code a true) f 3)
      | .line l off => queued x w (moveQueue x) none s (fun t f =>
          let t := (t.noteCoded (defaultClass m.code) l).fillOwned m (defaultClass m.code) l
          match t.cached m.code l with
          | some k =>
            if atomPoison (atom off) k.poison then fail t f 2
            else (((t.storeCached m.code l (atomWrite fadd32 (atom off) k.data)).unsettleCached m l
              (atomWrite fadd32 (atom off) k.data)).setSreg x (fRD w)
              (if t.readsRaced x f then leNat (t.freeBytes a n)
               else atomOld (atom off) k.data), f)
          | none => (t, f)) { reads := [(a, n)], writes := [(a, n)] })

end Sys2Proof.Machine
end

