-- ==== Sys2Proof/Machine/Engine.lean ====
section
/-! DEFINITION. What the engine instructions of a cell share: reach, NaN traps, sticky kernel status and outcomes (04: R130,
R131, R157 to R161; 06: R250; 07: R260, R284; 09: R353). -/

namespace Sys2Proof.Machine

/-- SUBN as it stands for an executor's region (R130, R132). -/
def State.subn (s : State) (x : Executor) : Bool := s.flag .NUM_CTRL_SUBN x.region

/-- RM of an instruction that does not round stochastically. -/
def fRm (w : W128) : Rm := Rm.ofField (fRM w)

/-- A cell's sticky numeric status and PROMOTE bit take up an instruction's status (R353). -/
def State.sticky (s : State) (x : Executor) (status : Nat) : State :=
  if status = 0x01 ∨ status = 0x41 ∨ status = 0x45 then
    let e := s.exe x
    let o := worst (e.endStatus, e.endDetail) (status, 0)
    s.setExe x { e with endStatus := o.1, endDetail := o.2, promote := e.promote || status == 0x45 }
  else s

/-- The sticky flag of R131. -/
def State.flushed (s : State) (x : Executor) (b : Bool) : State := s.iff b (fun s => s.setFld .NUM_STAT_FLUSHED x.region 1)

/-- Whether any element of an operand was flushed on reading. -/
def Tens.flushed (t : Tens) : Bool := t.els.any (·.flushed)

/-- The NaN of a stored tensor as a trap names it; the spec does not say which lane an element takes, ELEM_COL is its linear index
modulo 64 (DESIGN CHOICE, log entry 89). -/
def Stored.trap (st : Stored) : Option TrapAt :=
  st.nan.map (fun (i, cause, a, b) => { ec := i % 64, idx := i, cause := cause, a := a, b := b })

/-- The end of an engine instruction: flushes, the NaN it wrote, if any, which traps as it completes, the outcome of R250 and its
COUNT. -/
def State.engineEnd (s : State) (c : Cell) (f : Flight) (st : Stored) (more : Outc) (count tiles : Nat) : State × Flight :=
  let s := s.flushed (.cell c) st.flushed
  let trap := st.trap
  let o := worst (worst (failed st.detail) (if st.nan.isSome then (0x40, 0) else (0, 0))) more
  (s, { f with status := o.1, detail := o.2, count := count, tiles := tiles, trap := trap })

/-- Descriptors out of an engine's reach (R260): each such access is recorded as a decode error, at the first range of the
descriptor that is out of reach; zeros go to each destination in reach, and the instruction ends UNCORRECTABLE 0x03 without a
trap. -/
def State.outOfReach (s : State) (c : Cell) (bsu : Bool) (f : Flight) (dests : List Desc) (bad : List Desc) : State × Flight :=
  let s := bad.foldl (fun (s : State) d =>
    match d.spans.find? (fun p => !reachable c bsu p.1 p.2) with
    | some p => s.refuse c.block.val p.1 (dests.contains d)
    | none => s) s
  let s := dests.foldl (fun (s : State) d => s.zeroDest c bsu d) s
  (s, { f with status := 0xC0, detail := 3 })

/-- A number put into an ascending list that has it once. -/
def insertUp (n : Nat) : List Nat → List Nat
  | [] => [n]
  | k :: t => if n < k then n :: k :: t else if n = k then k :: t else k :: insertUp n t

/-- The chunks of near memory that some descriptors name, in ascending order (R190). -/
def chunksOfDescs (ds : List Desc) : List Nat :=
  ((ds.flatMap Desc.spans).flatMap (fun p => pieces 4096 p.1 p.2)).foldl (fun (l : List Nat) p =>
    if canonical p.1 < 0xC000000000 then insertUp (canonical p.1 / 4096) l else l) []

/-- What dispatch keeps for a bank-side pass (R132, R224, R378). -/
def State.newPass (s : State) (x : Executor) (w : W128) (ds : List Desc) (group : List Byte) : Pass :=
  { word := w, desc := (s.exe x).desc, sreg := (s.exe x).sreg, subn := s.subn x, group := group, todo := chunksOfDescs ds }

/-- The frame of an engine instruction: it needs room in its queue, free lines, and everything it names must be in reach; then its
effect happens, over what it reads within some extents. One that names the bank-side units makes a pass there when it fits them and
they are enabled, which waits for its chunks (R190); else it runs on the vector engine, and the fallback is counted (R188, R288). What
an instruction does before either, pre, may end it. A team instruction counts the fallbacks of its phases itself. -/
def engine (x : Executor) (w : W128) (q : QueueId) (dest : Option Nat) (bsu : Bool) (s : State)
    (dests srcs : List Desc) (eff : Cell → State → Flight → State × Flight) (lim : Option (List Nat) := none)
    (fits : Bool := false) (group : List Byte := [])
    (pre : Cell → State → Flight → State × Flight × Bool := fun _ s f => (s, f, false))
    (counts : Bool := true) : Act :=
  match x.cell? with
  | none => .hold
  | some c =>
    let all := dests ++ srcs
    let bad := all.filter (fun d => !d.inReach c bsu)
    let pass := bsu && fits && bad.isEmpty && s.flag .NMS_CTRL_BSU_EN c.region
    let read (d : Desc) : List (Nat × Nat) := d.readSpans (lim.getD d.extents)
    if !pass && !all.all (fun d => d.spans.all (fun p => s.rangeFree p.1 p.2)) then .hold
    else queued x w q dest s (fun t f =>
      let f := { f with both := decide (q = .matrix) && fCls w == 4 }
      if !bad.isEmpty then t.outOfReach c bsu f dests bad
      else
        let (t, f, ends) := pre c t f
        if ends then (t, f)
        else if pass then (t, { f with bsu := true, pass := some (t.newPass x w all group) })
        else eff c (srcs.foldl (fun (t : State) d => t.noteSpans d (read d)) (t.iff (bsu && counts) (fun t => t.bump .NMS_BSU_FALLBACKS c.region))) f)
      { reads := srcs.flatMap read, writes := dests.flatMap Desc.spans }

/-- The compressed blocks of some operands that were abandoned: the address of each goes to the block's error log (R182). -/
def State.logAbandoned (s : State) (c : Cell) (ds : List Desc) : State :=
  (ds.flatMap s.abandonedOf).foldl (fun (s : State) a => s.raiseBlock c.block 0x14 0xC0 0x05 1 (addr := a)) s

/-- Formats with elements that arithmetic reads (R628). -/
def fmtArith (f : Nat) : Bool := fmtKnown f && f != 0x1C && f != 0x1D

/-- Matrix operand formats (R154). -/
def fmtMatrix (f : Nat) : Bool := fmtArith f && f != 0x01 && f != 0x0B

end Sys2Proof.Machine
end

