-- ==== Sys2Proof/Machine/Mma.lean ====
section
/-! DEFINITION. MMA: the matrix engine, its group windows, tiles, and the rescue and promotion of overflowing tiles (04: R144
to R148, R155, R629; 05: R169 to R176; 07: R281 to R285; 09: R347 to R352, R358). -/

namespace Sys2Proof.Machine

/-- Batches of a matrix operand (R281). -/
def Tens.batches (t : Tens) (orient : Bool) : Nat :=
  if orient then t.ext.getD 4 1 else t.ext.getD 2 1 * t.ext.getD 3 1 * t.ext.getD 4 1

/-- An operand's extent along k (R281). -/
def Tens.kExtent (t : Tens) (orient : Bool) : Nat := if orient then t.ext.getD 0 1 * t.ext.getD 2 1 else t.ext.getD 1 1

/-- The zero that stands for a missing element. -/
def zeroEl : El := ⟨.fin false 0 0, 0, false⟩

/-- The element of a matrix operand at its free index (m or n), k and batch (R262, R281). -/
def Tens.mat (t : Tens) (orient : Bool) (free k batch : Nat) : El :=
  let nb := t.batches orient
  let b := if nb = 1 then 0 else batch
  let e0 := t.ext.getD 0 1
  let e1 := t.ext.getD 1 1
  if nb ≤ b then zeroEl
  else if orient then
    let i0 := k % e0
    let i2 := k / e0
    let i1 := free % 64
    let i3 := free / 64
    if t.ext.getD 2 1 ≤ i2 ∨ t.ext.getD 3 1 ≤ i3 then zeroEl
    else t.els.getD (rank t.ext [i0, i1, i2, i3, b]) zeroEl
  else
    let i0 := if e0 = 1 then 0 else free
    if e0 ≤ i0 ∨ e1 ≤ k then zeroEl else t.els.getD (i0 + e0 * (k + e1 * b)) zeroEl

/-- An operand with what an instruction does not read of it left out: nothing there is poison or flushed (R262). -/
def Tens.only (t : Tens) (p : List Nat → Bool) : Tens :=
  { t with els := (List.range t.els.length).map (fun j => if p (unrank t.ext j) then t.els.getD j zeroEl else zeroEl) }

/-- What a multiply reads of an operand: its first free indices, first k and first batches (R262, R281). -/
def Tens.onlyMat (t : Tens) (orient : Bool) (free k batches : Nat) : Tens :=
  let e (i : Nat) : Nat := t.ext.getD i 1
  let one := decide (t.batches orient = 1)
  t.only (fun idx =>
    let i (j : Nat) : Nat := idx.getD j 0
    if orient then decide (i 1 + 64 * i 3 < free) && decide (i 0 + e 0 * i 2 < k) && (one || decide (i 4 < batches))
    else decide (i 0 < free) && decide (i 1 < k) && (one || decide (i 2 + e 2 * (i 3 + e 3 * i 4) < batches)))

/-- The lowest weight of a group's window below E (R144, R145, R155): by the wider of the two operand formats. -/
def windowBits (fa fb : Nat) : Nat :=
  if fa = 0x04 ∨ fb = 0x04 then 121
  else if fa = 0x00 ∨ fb = 0x00 ∨ fa = 0x02 ∨ fb = 0x02 ∨ fa = 0x03 ∨ fb = 0x03 then 57 else 33

/-- The accumulator's format. -/
def accFmt (fa fb : Nat) : FFmt := if fa = 0x04 ∨ fb = 0x04 then f64 else f32

/-- What R347 looks at in an accumulator: an FP64 one never overflows a tile. -/
def acc32 (fa fb : Nat) (n : Num) : Num := if fa = 0x04 ∨ fb = 0x04 then .fin false 0 0 else n

/-- A magnitude truncated toward zero to a multiple of 2^q, signed, in units of 2^q. -/
def truncUnits (n : Num) (q : Int) : Int :=
  match n with
  | .fin s m e =>
    let v : Int := (roundTo .zero m e q : Nat)
    if s then -v else v
  | _ => 0

/-- The sum of a group's products in its window (R144, R145, R629). -/
def groupSum (wb : Nat) (ps : List Num) : Num :=
  let pinf := ps.any (fun p => decide (p = .inf false))
  let ninf := ps.any (fun p => decide (p = .inf true))
  if ps.any (·.isNan) || (pinf && ninf) then .nan
  else if pinf then .inf false
  else if ninf then .inf true
  else
    let live := ps.filter (fun p => !p.isZero)
    match live with
    | [] => .fin false 0 0
    | p :: t =>
      let e := t.foldl (fun (m : Int) v => max m v.log2) p.log2
      let q := e - (wb : Int)
      Num.ofInt (live.foldl (fun (acc : Int) v => acc + truncUnits v q) 0) q

/-- One correctly rounded addition in the accumulator's format. -/
def addRound (f : FFmt) (rm : Rm) (a b : Num) : Num := f.decode (f.encode rm false (a.add b)).bits

/-- What a multiply instruction works on: operands, orientations, formats, the length k, RM. -/
structure MmIn where
  a : Tens
  b : Tens
  oa : Bool
  ob : Bool
  fa : Nat
  fb : Nat
  k : Nat
  rm : Rm
  deriving DecidableEq, Repr

/-- The accumulated value of one output element: groups of 32 along k in ascending order, each scaled and added with one
rounding (R144 to R146, R282). -/
def MmIn.acc (i : MmIn) (start : Num) (m n batch : Nat) (sc : Int) : Num :=
  let f := accFmt i.fa i.fb
  (List.range (ceilDiv i.k 32)).foldl (fun (acc : Num) g =>
    let ks := (natRange (32 * g) 32).filter (fun k => decide (k < i.k))
    let ps := ks.map (fun k => (i.a.mat i.oa m k batch).num.mul (i.b.mat i.ob n k batch).num)
    addRound f i.rm acc ((groupSum (windowBits i.fa i.fb) ps).scale sc)) start

/-- The DETAIL of bad operands an output element depends on. -/
def MmIn.bad (i : MmIn) (m n batch : Nat) : Nat :=
  (List.range i.k).foldl (fun (d : Nat) k =>
    worseDetail d (worseDetail (i.a.mat i.oa m k batch).bad (i.b.mat i.ob n k batch).bad)) 0

/-- Whether a NaN is among the operands of an output element. -/
def MmIn.nanIn (i : MmIn) (m n batch : Nat) : Bool :=
  (List.range i.k).any (fun k => (i.a.mat i.oa m k batch).num.isNan || (i.b.mat i.ob n k batch).num.isNan)

/-- One element of a tile: where it is, its accumulated value, its output value, and the DETAIL of bad operands. -/
structure TileEl where
  r : Nat
  c : Nat
  acc : Num
  v : Num
  bad : Nat
  nanIn : Bool
  deriving DecidableEq, Repr

/-- Whether a format's conversion can overflow a tile (R347). -/
def fmtOverflows (f : Nat) : Bool := [0x00, 0x02, 0x03, 0x08, 0x09].contains f

/-- Whether a value overflows a destination format in the sense of R136. -/
def valueOverflows (f : Nat) (rm : Rm) (v : Num) : Bool :=
  fmtOverflows f && match fmtFloat f with
    | some g => (g.encode rm true v).ovf
    | none => false

/-- Whether an element of a tile overflows (R347); an INT8 tile never does. -/
def TileEl.overflows (t : TileEl) (f : Nat) (rm : Rm) : Bool :=
  t.bad == 0 && f != 0x0A && (t.acc.isInf || valueOverflows f rm t.v)

/-- The exponent of a destination format's largest finite value (R349). -/
def dstEmax (f : Nat) : Int := if f = 0x00 ∨ f = 0x02 then 127 else if f = 0x03 ∨ f = 0x09 then 15 else 8

/-- The amount a tile's scale is lowered by (R349). -/
def rescaleBy (f : Nat) (rm : Rm) (ts : List TileEl) : Nat :=
  if ts.any (fun t => t.bad == 0 && t.acc.isInf) then 64
  else
    let tooBig := ts.filter (fun t => t.overflows f rm)
    let e := tooBig.foldl (fun (m : Int) t => max m (t.v.log2 - dstEmax f)) 1
    e.toNat

/-- The element of largest magnitude, the first of equals. -/
def largest (ts : List TileEl) : Option TileEl :=
  ts.foldl (fun (b : Option TileEl) t =>
    if t.bad ≠ 0 ∨ t.v.isNan = true then b else
      match b with
      | none => some t
      | some u => if u.v.abs.cmp t.v.abs < 0 then some t else b) none

/-- A record of TYPE 0x02 or 0x03 (R358). -/
def State.tileRecord (s : State) (c : Cell) (f : Flight) (type status attempt shift trow tcol batch : Nat) (eff : Int) (d : Desc)
    (ts : List TileEl) : List Byte :=
  let big := largest ts
  let inf := ts.any (fun t => t.bad == 0 && t.acc.isInf)
  let (er, ec, amax) := match big with
    | some t => (t.r, t.c, if inf then 0x7F800000 else t.v.abs.f32bits)
    | none => (0, 0, 0)
  EventRec.bytes {
    type := type, status := status, source := c.val, opcode := f.cls * 1024 + f.op, cause := bit1 inf, region := c.region.val
    addr := f.addr, epoch := f.epoch, step := f.step, time := s.fclk c.region
    mid := leBytes 1 attempt ++ leBytes 1 shift ++ leBytes 3 trow ++ leBytes 3 tcol ++ leBytes 1 er ++ leBytes 1 ec ++
      leBytes 4 batch ++ leBytes 2 (unsignedOf 16 eff) ++ leBytes 1 d.fmt ++ leBytes 1 0
    tail := leBytes 6 d.base ++ leBytes 4 amax }

/-- A tile rescale record and its counts (R349, R352). -/
def State.recordRescale (s : State) (c : Cell) (rec : List Byte) : State :=
  ((s.ringPut (.numeric c.region) rec).bump .NUM_EVCNT_RESCALE c.region).setFld .NUM_STAT_RESCALED c.region 1

/-- What became of a tile: its elements at the last attempt, the shift, the status it reports, and the rescales made. -/
structure TileDone where
  ts : List TileEl
  shift : Nat
  status : Nat
  tries : Nat
  deriving DecidableEq, Repr

/-- The rescue of R349: at most the given number of further attempts, each with a record and a lowered scale. -/
def rescue (c : Cell) (f : Flight) (d : Desc) (rm : Rm) (compute : Int → List TileEl) (oscale : Int) (trow tcol batch : Nat) :
    Nat → Nat → State → List TileEl → State × TileDone
  | 0, shift, s, ts =>
    if ts.any (fun t => t.overflows d.fmt rm) then (s, ⟨ts, shift, 0x45, if shift = 0 then 0 else 2⟩)
    else (s, ⟨ts, shift, if shift = 0 then 0 else 0x01, if shift = 0 then 0 else 2⟩)
  | n + 1, shift, s, ts =>
    if ts.any (fun t => t.overflows d.fmt rm) then
      let by_ := rescaleBy d.fmt rm ts
      let attempt := 2 - n
      let s := s.recordRescale c (s.tileRecord c f 0x02 0x01 attempt by_ trow tcol batch (oscale - (shift : Int)) d ts)
      let shift := shift + by_
      rescue c f d rm compute oscale trow tcol batch n shift s (compute (oscale - (shift : Int)))
    else (s, ⟨ts, shift, if shift = 0 then 0 else 0x01, 1 - n⟩)

/-- Whether RSC lets a tile of a destination format be rescaled (R348). -/
def rescales (rsc fmt : Nat) : Bool := if rsc = 0 then false else if rsc = 2 then true else fmtMx fmt

/-- A tile computed, rescued as far as RSC allows, and promoted when it still overflows (R348, R349). -/
def State.tile (s : State) (c : Cell) (f : Flight) (d : Desc) (rm : Rm) (rsc : Nat) (compute : Int → List TileEl) (oscale : Int)
    (trow tcol batch : Nat) : State × TileDone :=
  let ts := compute oscale
  let (s, t) := rescue c f d rm compute oscale trow tcol batch (if rescales rsc d.fmt then 2 else 0) 0 s ts
  if t.status = 0x45 then
    (s.ringPut (.numeric c.region) (s.tileRecord c f 0x03 0x45 t.tries t.shift trow tcol batch (oscale - (t.shift : Int)) d t.ts), t)
  else (s, t)

/-- The rows of a tile of a destination stored; the first NaN in row, then column order (R159). -/
def State.storeTile (s : State) (d : Desc) (rm : Rm) (sat subn : Bool) (shift m0 n0 : Nat) (bidx : List Nat) (ts : List TileEl) :
    State × Stored × Option (Nat × Nat) :=
  let rows := (List.range 64).filter (fun r => ts.any (fun t => t.r == r))
  rows.foldl (fun (acc : State × Stored × Option (Nat × Nat)) r =>
    let row := ts.filter (fun t => t.r == r)
    let outs := row.map (fun t => (⟨t.v, t.bad, t.nanIn, 0, 0⟩ : Out))
    let q := acc.1.storeRow d (fun _ => rm) sat subn shift n0 ((m0 + r) :: bidx) outs
    let at_ : Option (Nat × Nat) := match acc.2.2, q.2.nan with
      | some p, _ => some p
      | none, some (i, _, _, _) => some (r, i % (d.extent 0) - n0)
      | none, none => none
    (q.1, acc.2.1.join q.2, at_)) (s, {}, none)

/-- The tiles of some extents in the order of R283: batch, row, column. -/
def tilesOf (ext : List Nat) : List (Nat × Nat × Nat) :=
  (List.range (ext.getD 2 1 * ext.getD 3 1 * ext.getD 4 1)).flatMap (fun b =>
    (List.range (ceilDiv (ext.getD 1 1) 64)).flatMap (fun tr =>
      (List.range (ceilDiv (ext.getD 0 1) 64)).map (fun tc => (b, tr, tc))))

/-- The elements of a tile, row by row. -/
def tileCells (ext : List Nat) (tr tc : Nat) : List (Nat × Nat) :=
  (List.range (min 64 (ext.getD 1 1 - 64 * tr))).flatMap (fun r =>
    (List.range (min 64 (ext.getD 0 1 - 64 * tc))).map (fun c => (r, c)))

/-- The elements of a tile that lie inside a destination's extents (R283). -/
def clipTile (d : Desc) (m0 n0 : Nat) (bidx : List Nat) (ts : List TileEl) : List TileEl :=
  if (List.range 3).all (fun k => decide (bidx.getD k 0 < d.extent (k + 2))) then
    ts.filter (fun t => decide (m0 + t.r < d.extent 1) && decide (n0 + t.c < d.extent 0))
  else []

/-- What the tiles of an instruction came to. -/
structure TileSum where
  st : Stored := {}
  o : Outc := (0, 0)
  trap : Option TrapAt := none
  tiles : Nat := 0
  deriving DecidableEq, Repr

/-- Of two NaNs an instruction wrote the one its trap names: for an MMA that of the earlier tile, for another instruction that of the
lower linear index (R159). -/
def firstTrap (mma : Bool) : Option TrapAt → Option TrapAt → Option TrapAt
  | some t, some u => some (if !mma && decide (u.idx < t.idx) then u else t)
  | some t, none => some t
  | none, h => h

/-- One tile's outcome taken into the sum: an MMA names the first NaN of its lowest tile, another instruction the NaN of the lowest
linear index, in no tile (R159, R161). -/
def TileSum.add (a : TileSum) (mma : Bool) (tr tc : Nat) (st : Stored) (at_ : Option (Nat × Nat)) (status : Nat) : TileSum :=
  let here : Option TrapAt := match st.nan, at_ with
    | some (i, cause, _, _), some (r, c) =>
      if mma then some { row := tr, col := tc, er := r, ec := c, idx := i, cause := cause }
      else some { ec := i % 64, idx := i, cause := cause }
    | _, _ => none
  { st := a.st.join st, o := worst a.o (status, 0), tiles := a.tiles + 1, trap := firstTrap mma a.trap here }

/-- A tensor stored beside the tiles taken into the sum. -/
def TileSum.also (a : TileSum) (st : Stored) : TileSum :=
  { a with st := a.st.join st, trap := firstTrap false a.trap st.trap }

/-- A destination written tile by tile, each tile rescued as R349 gives, from a function of the effective OSCALE and of the
tile's coordinates within the destination: row, column, batch (R283, R347 to R350). -/
def State.tiled (s : State) (c : Cell) (f : Flight) (rm : Rm) (d : Desc) (sat subn : Bool) (oscale : Int) (rsc : Nat)
    (cell : Int → Nat → Nat → Nat → TileEl) : State × TileSum :=
  (tilesOf d.extents).foldl (fun (acc : State × TileSum) p =>
    let (b, tr, tc) := p
    let bidx := unrank (d.extents.drop 2) b
    let compute (sc : Int) : List TileEl := (tileCells d.extents tr tc).map (fun q =>
      { cell sc (64 * tr + q.1) (64 * tc + q.2) b with r := q.1, c := q.2 })
    let (s, t) := acc.1.tile c f d rm rsc compute oscale tr tc b
    let (s, st, at_) := s.storeTile d rm sat subn t.shift (64 * tr) (64 * tc) bidx t.ts
    let late := st.ovf && fmtMx d.fmt && t.status != 0x45
    let s := s.iff late (fun s => s.ringPut (.numeric c.region)
      (s.tileRecord c f 0x03 0x45 t.tries t.shift tr tc b (oscale - (t.shift : Int)) d t.ts))
    (s, acc.2.add (f.cls == 2) tr tc st at_ (if late then 0x45 else t.status))) (s, {})

/-- MM in MODE 0b00 and 0b01 (R282, R283). R146 makes C one more term of the accumulator and does not say where it stands among the
groups: it is there first (DESIGN CHOICE, log entry 93). -/
def State.mmPlain (s : State) (c : Cell) (f : Flight) (i : MmIn) (d : Desc) (ct : Option Tens) (sat subn : Bool) (oscale : Int) (rsc : Nat) :
    State × TileSum :=
  s.tiled c f i.rm d sat subn oscale rsc (fun sc m n b =>
    let cel := match ct with
      | some t => t.at (n :: m :: unrank (d.extents.drop 2) b)
      | none => zeroEl
    let af := accFmt i.fa i.fb
    let start := af.decode (af.encode i.rm false (cel.num.scale sc)).bits
    let a := i.acc start m n b sc
    { r := 0, c := 0, acc := acc32 i.fa i.fb a, v := a, bad := worseDetail (i.bad m n b) cel.bad, nanIn := i.nanIn m n b || cel.num.isNan })

/-- MM in MODE 0b10 (R176, R262, R282, R347, R348): the residual sum over the extents of C, its narrow copy over those of D, and
promotion without a rescale. -/
def State.mmResidual (s : State) (c : Cell) (f : Flight) (i : MmIn) (cd : Desc) (ct : Tens) (narrow : Option Desc) (sat subn : Bool)
    (oscale : Int) : State × TileSum :=
  let ext := match narrow with
    | some d => (List.range 5).map (fun k => max (cd.extent k) (d.extent k))
    | none => cd.extents
  (tilesOf ext).foldl (fun (acc : State × TileSum) p =>
    let (b, tr, tc) := p
    let bidx := unrank (ext.drop 2) b
    let ts : List TileEl := (tileCells ext tr tc).map (fun q =>
      let m := 64 * tr + q.1
      let n := 64 * tc + q.2
      let cel := ct.at (n :: m :: bidx)
      let a := i.acc (.fin false 0 0) m n b oscale
      { r := q.1, c := q.2, acc := acc32 i.fa i.fb a, v := cel.num.add a, bad := worseDetail (i.bad m n b) cel.bad
        nanIn := i.nanIn m n b || cel.num.isNan })
    let wide := clipTile cd (64 * tr) (64 * tc) bidx ts
    let slim := match narrow with
      | some d => (clipTile d (64 * tr) (64 * tc) bidx ts).map (fun t => { t with v := f32.decode (f32.encode i.rm sat t.v).bits })
      | none => []
    let tooBig := wide.any (fun t => t.overflows 0x00 i.rm) ||
      (match narrow with
        | some d => slim.any (fun t => t.bad == 0 && (t.acc.isInf || valueOverflows d.fmt i.rm t.v))
        | none => false)
    let s := acc.1.iff tooBig (fun s => s.ringPut (.numeric c.region) (s.tileRecord c f 0x03 0x45 0 0 tr tc b oscale cd ts))
    let (s, st, at_) := s.storeTile cd i.rm sat subn 0 (64 * tr) (64 * tc) bidx wide
    let (s, st2, at2) := match narrow with
      | some d => s.storeTile d i.rm sat subn 0 (64 * tr) (64 * tc) bidx slim
      | none => (s, {}, none)
    let both := st.join st2
    (s, acc.2.add true tr tc (if at_.isSome then { both with nan := st.nan } else both) (if at_.isSome then at_ else at2)
      (if tooBig then 0x45 else 0))) (s, {})

/-- The end of an instruction that writes tiles: flushes, the NaN it wrote, which traps as it completes, sticky status, outcome and COUNT (R284, R353). -/
def State.tileEnd (s : State) (c : Cell) (f : Flight) (t : TileSum) (flushed : Bool) (count : Nat) : State × Flight :=
  let s := s.flushed (.cell c) (t.st.flushed || flushed)
  let o := worst (worst (failed t.st.detail) (if t.trap.isSome then (0x40, 0) else (0, 0))) t.o
  (s.sticky (.cell c) t.o.1, { f with status := o.1, detail := o.2, count := count, tiles := t.tiles, trap := t.trap })

/-- What MM needs (R208, R281 to R283). -/
def mmNeed (x : Executor) (w : W128) (s : State) : Need :=
  let mode := wf w 60 2
  let narrow := wf w 59 1 == 1
  let da := s.descr x (fA w)
  let db := s.descr x (fB w)
  let dd := s.descr x (fD w)
  let dc := s.descr x (fC w)
  let useC := mode == 1 || mode == 2
  let useD := mode != 2 || narrow
  { rsvd := mode == 3 || (mode != 2 && narrow) || wf w 0 51 != 0 || (!useC && fC w != 0) || (!useD && fD w != 0)
    descs := [fA w, fB w] ++ (if useC then [fC w] else []) ++ (if useD then [fD w] else [])
    dest := if mode = 2 then some (fC w) else some (fD w)
    bad := !fmtMatrix da.fmt || !fmtMatrix db.fmt || (useD && !fmtArith dd.fmt) ||
      (mode == 1 && !fmtArith dc.fmt) || (mode == 2 && dc.fmt != 0) }

/-- MMA_MM (R281 to R284). -/
def execMmaMm (x : Executor) (w : W128) (s : State) : Answer :=
  issue 2 0 x w s (mmNeed x w) (fun s =>
    let mode := wf w 60 2
    let da := s.descr x (fA w)
    let db := s.descr x (fB w)
    let dd := (s.descr x (fD w)).plain
    let c0 := s.descr x (fC w)
    let dc := if mode = 2 then c0.plain else c0
    let narrow := wf w 59 1 == 1
    let dests := if mode = 2 then dc :: (if narrow then [dd] else []) else [dd]
    let srcs := [da, db] ++ (if mode = 1 then [dc] else [])
    engine x w .matrix (if mode = 2 then some (fC w) else some (fD w)) false s dests srcs (fun c s f =>
      let subn := s.subn x
      let exts := match mode == 2, narrow with
        | true, true => (List.range 5).map (fun k => max (dc.extent k) (dd.extent k))
        | true, false => dc.extents
        | false, _ => dd.extents
      let nb := exts.getD 2 1 * exts.getD 3 1 * exts.getD 4 1
      let a0 := s.load subn da
      let kA := a0.kExtent da.orient
      let a := a0.onlyMat da.orient (exts.getD 1 1) kA nb
      let b := (s.load subn db).onlyMat db.orient (exts.getD 0 1) kA nb
      let cT : Tens := ⟨dc.extents, (s.loadRawIn dc exts).map (readEl subn dc.fmt)⟩
      let i : MmIn := { a := a, b := b, oa := da.orient, ob := db.orient, fa := da.fmt, fb := db.fmt
                        k := kA, rm := fRm w }
      let oscale := signedOf 8 (wf w 51 8)
      let s := s.logAbandoned c ([da, db] ++ (if mode = 1 then [dc] else []))
      let f := if mode = 2 then { f with resid := dc.spans } else f
      let (s, t) := if mode = 2 then s.mmResidual c f i dc cT (if narrow then some dd else none) (fSAT w) subn oscale
        else s.mmPlain c f i dd (if mode = 1 then some cT else none) (fSAT w) subn oscale (s.fld .NUM_CTRL_RSC x.region)
      s.tileEnd c f t (a.flushed || b.flushed || (mode != 0 && cT.flushed)) t.tiles))

end Sys2Proof.Machine
end

