-- ==== Sys2Proof/Machine/Vec.lean ====
section
/-! DEFINITION. VEC: elementwise operations and reductions, on the vector engine and in the bank-side units (04: R149, R150;
05: R174, R176, R187 to R191; 07: R286 to R289, R635). -/

namespace Sys2Proof.Machine

/-- The format an instruction computes in: the widest of its operands and destination (R174). -/
def widest (fmts : List Nat) : FFmt :=
  if fmts.contains 0x04 then f64 else if fmts.contains 0x01 then f32x else f32

/-- One correctly rounded step in a format (R133, R136). -/
def FFmt.step (g : FFmt) (rm : Rm) (sat : Bool) (n : Num) : Num := g.decode (g.encode rm sat n).bits

/-- A function that is evaluated in FP32 whatever the element's format (R149). -/
def viaF32 (rm : Rm) (sat : Bool) (fn : Nat) (n : Num) : Num :=
  f32.decode (approxFn rm fn (f32.encode rm sat n).bits)

/-- VEC.UN (R287). -/
def unFn (g : FFmt) (rm : Rm) (sat : Bool) (fn : Nat) (n : Num) : Num :=
  if fn = 0 then n else if fn = 1 then n.negate else if fn = 2 then n.abs
  else if fn = 5 then g.step rm sat n.sqrt else viaF32 rm sat fn n

/-- VEC.BIN (R287). -/
def binFn (g : FFmt) (rm : Rm) (sat : Bool) (fn : Nat) (a b : Num) : Num :=
  if fn = 0 then g.step rm sat (a.add b) else if fn = 1 then g.step rm sat (a.sub b)
  else if fn = 2 then g.step rm sat (a.mul b) else if fn = 3 then g.step rm sat (a.div b)
  else if fn = 4 then a.min2 b else a.max2 b

/-- VEC.CMP (R287): a NaN operand gives 0, except that NE gives 1. -/
def cmpFn (fn : Nat) (a b : Num) : Num :=
  let yes : Bool :=
    if a.isNan || b.isNan then fn == 1
    else
      let k := a.cmp b
      if fn = 0 then decide (k = 0) else if fn = 1 then decide (k ≠ 0) else if fn = 2 then decide (k < 0)
      else if fn = 3 then decide (k ≤ 0) else if fn = 4 then decide (0 < k) else decide (0 ≤ k)
  if yes then Num.one else .fin false 0 0

/-- VEC.RED over the terms of one output, in ascending order (R635). -/
def redFn (g : FFmt) (rm : Rm) (sat : Bool) (fn : Nat) : List Num → Num
  | [] => .fin false 0 0
  | a :: t =>
    if fn = 0 then t.foldl (fun (acc : Num) x => g.step rm sat (acc.add x)) a
    else if fn = 1 then t.foldl (fun (acc : Num) x => g.step rm sat ((x.mul x).add acc)) (g.step rm sat (a.mul a))
    else if fn = 2 then t.foldl Num.max2 a
    else t.foldl Num.min2 a

/-- The addresses of an element's bytes and of its extension byte or block scale. -/
def Desc.elAddrs (d : Desc) (idx : List Nat) : List Nat :=
  let a := d.rowAddr idx + (elemSpot d.fmt (idx.getD 0 0)).1
  if fmtMx d.fmt then [a, d.scale + idx.getD 0 0 / 32 + d.blocks * d.rowNo idx]
  else if d.fmt = 0x01 then [a, d.scale + rank d.extents idx] else [a]

/-- The column of near memory an address lies in (R20). -/
def nearColumn (a : Nat) : Option Nat :=
  let c := canonical a
  if c < 0xC000000000 then some (c / 0x20000000) else none

/-- The element of an operand an index reads, with broadcast; none beyond the operand (R262). -/
def Desc.broadcast (d : Desc) (idx : List Nat) : Option (List Nat) :=
  let i := (List.range 5).map (fun k => if d.extent k = 1 then 0 else idx.getD k 0)
  if (List.range 5).any (fun k => decide (d.extent k ≤ i.getD k 0)) then none else some i

/-- Whether a list of columns names one column of near memory only. -/
def oneColumn (l : List (Option Nat)) : Bool :=
  match l with
  | [] => true
  | none :: _ => false
  | some c :: t => t.all (fun x => x == some c)

/-- The column rule (R188): for each element of the destination, every operand and the result lie in one column. -/
def sameColumn (d : Desc) (dests ops : List Desc) (along : Nat) : Bool :=
  d.indices.all (fun idx =>
    let rd := dests.flatMap (fun e => ((e.broadcast idx).map e.elAddrs).getD [])
    let rs := ops.flatMap (fun e =>
      if along = 0 then ((e.broadcast idx).map e.elAddrs).getD []
      else (List.range along).flatMap (fun j => ((e.broadcast (setAt idx 0 j)).map e.elAddrs).getD []))
    oneColumn ((rd ++ rs).map nearColumn))

/-- The formats the bank-side units convert among (R187). -/
def fmtBsu (f : Nat) : Bool := [0x00, 0x01, 0x02, 0x03, 0x08, 0x09].contains f

/-- The operations of VEC the bank-side units provide (R187): by opcode and FN. -/
def bsuHas (op fn : Nat) : Bool :=
  if op = 0 then [0, 4, 5].contains fn else if op = 5 then fn ≠ 3 else true

/-- A destination, and a residual with it when one is named, written from a function of the index (R176, R262). The sum
with the residual is rounded once to FP32, and the destination is its narrow copy. -/
def State.elementwise (s : State) (subn : Bool) (d : Desc) (res : Option Desc) (rm : Rm) (sat : Bool) (g : List Nat → Out) :
    State × Stored :=
  match res with
  | none => s.storeAll d (fun _ => rm) sat subn g
  | some cd =>
    let ct := s.load subn cd
    let sum (idx : List Nat) : Out :=
      let o := g idx
      let e := ct.at idx
      { o with num := f32.step rm sat (e.num.add o.num), bad := worseDetail o.bad e.bad, nanIn := o.nanIn || e.num.isNan }
    let (t, a) := s.storeAll cd (fun _ => rm) sat subn sum
    let (u, b) := t.storeAll d (fun _ => rm) sat subn sum
    (u, { a.join b with flushed := a.flushed || b.flushed || ct.flushed })

/-- BSU of a VEC word. -/
def vBsu (w : W128) : Bool := wf w 55 1 == 1
/-- IMMB of a VEC word. -/
def vImmB (w : W128) : Bool := wf w 54 1 == 1
/-- RES of a VEC word. -/
def vRes (w : W128) : Bool := wf w 53 1 == 1
/-- FN of a word of class VEC or CNV. -/
def vFn (w : W128) : Nat := wf w 56 6

/-- What a VEC needs (R208, R286, R287, R628): how many functions it has, whether it uses B and C, and what its own operands
must meet. -/
def vecNeed (x : Executor) (w : W128) (s : State) (fns : Nat) (useB useC resOk destBit maskC : Bool) (bad : Bool) : Need :=
  let d := s.descr x (fD w)
  let arith (i : Nat) : Bool := fmtArith (s.descr x i).fmt
  let named := useB && !vImmB w
  let cNamed := useC || vRes w
  { rsvd := decide (fns ≤ vFn w) || wf w 32 21 != 0 || (!vImmB w && wf w 0 32 != 0) || (!useB && vImmB w) || (!resOk && vRes w) ||
      (!named && fB w != 0) || (!cNamed && fC w != 0)
    descs := [fD w, fA w] ++ (if named then [fB w] else []) ++ (if cNamed then [fC w] else [])
    dest := some (fD w)
    bad := bad || !(fmtArith d.fmt || (destBit && d.fmt == 0x1C)) || !arith (fA w) || (named && !arith (fB w)) ||
      (useC && (if maskC then (s.descr x (fC w)).fmt != 0x1C else !arith (fC w))) || (vRes w && (s.descr x (fC w)).fmt != 0) }

/-- The immediate of a VEC as an operand that broadcasts (R130, R286). -/
def immTens (subn : Bool) (w : W128) : Tens := ⟨[1, 1, 1, 1, 1], [readEl subn 0 ⟨wf w 0 32, 0, 0⟩]⟩

/-- The operands of a VEC: A, B or the immediate, and C. -/
structure VecIn where
  a : Tens
  b : Tens
  c : Tens
  deriving DecidableEq, Repr

/-- A result of two operands with what a trap record says of them (R161). -/
def mkOut (n : Num) (els : List El) : Out :=
  { num := n, bad := els.foldl (fun (d : Nat) e => worseDetail d e.bad) 0, nanIn := els.any (·.num.isNan)
    a := ((els.head?).map (·.num.f32bits)).getD 0, b := ((els.drop 1).head?.map (·.num.f32bits)).getD 0 }

/-- What an element of a VEC's destination becomes, by opcode (R262, R287, R635): SEL takes A where the mask bit is 1, else B, and
poison in any of the three is poison in the result; FMA rounds once. -/
def vecFn (op : Nat) (w : W128) (g : FFmt) (i : VecIn) (idx : List Nat) : Out :=
  let r := g.step (fRm w) (fSAT w)
  let a := i.a.at idx
  let b := i.b.at idx
  let c := i.c.at idx
  if op = 0 then mkOut (unFn g (fRm w) (fSAT w) (vFn w) (r a.num)) [a]
  else if op = 1 then mkOut (binFn g (fRm w) (fSAT w) (vFn w) (r a.num) (r b.num)) [a, b]
  else if op = 2 then mkOut (r (((r a.num).mul (r b.num)).add (r c.num))) [a, b, c]
  else if op = 3 then mkOut (cmpFn (vFn w) (r a.num) (r b.num)) [a, b]
  else if op = 4 then
    let pick := if c.num.isZero then b else a
    { mkOut (r pick.num) [a, b, c] with nanIn := pick.num.isNan }
  else
    let els := (List.range (i.a.ext.getD 0 1)).map (fun j => i.a.at (setAt idx 0 j))
    { mkOut (redFn g (fRm w) (fSAT w) (vFn w) (els.map (fun e => r e.num))) els with b := 0 }

/-- Whether a VEC uses field B, and field C as an operand. -/
def vecUsesB (op : Nat) : Bool := [1, 2, 3, 4].contains op
/-- Whether a VEC uses field C as an operand. -/
def vecUsesC (op : Nat) : Bool := [2, 4].contains op

/-- The destinations and sources of a VEC, and its residual. -/
def vecDescs (op : Nat) (x : Executor) (w : W128) (s : State) : List Desc × List Desc × Option Desc :=
  let res := if vRes w then some (s.descr x (fC w)).plain else none
  ((s.descr x (fD w)).plain :: res.toList,
   s.descr x (fA w) :: ((if vecUsesB op && !vImmB w then [s.descr x (fB w)] else []) ++ (if vecUsesC op then [s.descr x (fC w)] else [])),
   res)

/-- The extents a VEC reads its operands over: those of its destination, and for RED all of A's dimension 0 (R262, R287). -/
def vecLim (op : Nat) (d da : Desc) : List Nat := if op = 5 then setAt d.extents 0 (da.extent 0) else d.extents

/-- The effect of a VEC: its operands are read, each element computed from those of its index in the format of R174, and the results
written (R262, R286 to R289). -/
def vecEff (op : Nat) (x : Executor) (w : W128) (c : Cell) (s : State) (f : Flight) : State × Flight :=
  let d := (s.descr x (fD w)).plain
  let (dests, srcs, res) := vecDescs op x w s
  let subn := s.subn x
  let load (k : Nat) : Tens :=
    let a := s.descr x k
    ⟨a.extents, (s.loadRawIn a (vecLim op d (s.descr x (fA w)))).map (readEl subn a.fmt)⟩
  let i : VecIn := {
    a := load (fA w)
    b := if !vecUsesB op then ⟨[], []⟩ else if vImmB w then immTens subn w else load (fB w)
    c := if vecUsesC op then load (fC w) else ⟨[], []⟩ }
  let fmts := (dests ++ srcs).map (·.fmt)
  let s := s.logAbandoned c srcs
  let (t, st) := s.elementwise subn d res (fRm w) (fSAT w) (vecFn op w (widest (fmts.filter fmtArith)) i)
  t.engineEnd c { f with resid := res.toList.flatMap Desc.spans }
    { st with flushed := st.flushed || i.a.flushed || i.b.flushed || i.c.flushed } (0, 0) d.count 1

/-- Whether the bank-side units can run a VEC: they have its function, formats and column rule (R187, R188, R288). -/
def vecFits (op : Nat) (x : Executor) (w : W128) (s : State) : Bool :=
  let d := (s.descr x (fD w)).plain
  let da := s.descr x (fA w)
  let (dests, srcs, res) := vecDescs op x w s
  bsuHas op (vFn w) && ((dests ++ srcs).map (·.fmt)).all (fun k => fmtBsu k || k == 0x1C) && !srcs.any (·.compressed) &&
    sameColumn d dests (srcs ++ res.toList) (if op = 5 then da.extent 0 else 0)

/-- One VEC at dispatch. -/
def vecRun (op : Nat) (x : Executor) (w : W128) (s : State) : Act :=
  let (dests, srcs, _) := vecDescs op x w s
  engine x w .vector (some (fD w)) (vBsu w) s dests srcs (vecEff op x w)
    (some (vecLim op (s.descr x (fD w)) (s.descr x (fA w)))) (vBsu w && vecFits op x w s)

/-- VEC.UN (R287). -/
def execVecUn (x : Executor) (w : W128) (s : State) : Answer :=
  issue 3 0 x w s (fun s => vecNeed x w s 15 false false true false false false) (vecRun 0 x w)

/-- VEC.BIN (R287). -/
def execVecBin (x : Executor) (w : W128) (s : State) : Answer :=
  issue 3 1 x w s (fun s => vecNeed x w s 6 true false true false false false) (vecRun 1 x w)

/-- VEC.FMA (R287): one rounding. -/
def execVecFma (x : Executor) (w : W128) (s : State) : Answer :=
  issue 3 2 x w s (fun s => vecNeed x w s 1 true true false false false false) (vecRun 2 x w)

/-- VEC.CMP (R287). -/
def execVecCmp (x : Executor) (w : W128) (s : State) : Answer :=
  issue 3 3 x w s (fun s => vecNeed x w s 6 true false false true false false) (vecRun 3 x w)

/-- VEC.SEL (R287). -/
def execVecSel (x : Executor) (w : W128) (s : State) : Answer :=
  issue 3 4 x w s (fun s => vecNeed x w s 1 true true false false true false) (vecRun 4 x w)

/-- VEC.RED (R287, R635). -/
def execVecRed (x : Executor) (w : W128) (s : State) : Answer :=
  issue 3 5 x w s (fun s => vecNeed x w s 4 false false true false false (decide ((s.descr x (fD w)).extent 0 ≠ 1))) (vecRun 5 x w)

end Sys2Proof.Machine
end

