-- ==== Sys2Proof/Machine/Cnv.lean ====
section
/-! DEFINITION. CNV and RNG: conversions, masks and random numbers (04: R134 to R139; 07: R296 to R298, R636). -/

namespace Sys2Proof.Machine

/-- CNV.CVT (R296): each element rounded once to D's format. -/
def execCnvCvt (x : Executor) (w : W128) (s : State) : Answer :=
  issue 5 0 x w s (fun s =>
    { rsvd := wf w 0 62 != 0 || fB w != 0 || fC w != 0, descs := [fD w, fA w], dest := some (fD w)
      bad := !fmtArith (s.descr x (fD w)).fmt || !fmtArith (s.descr x (fA w)).fmt }) (fun s =>
    let d := (s.descr x (fD w)).plain
    let da := s.descr x (fA w)
    engine x w .vector (some (fD w)) false s [d] [da] (fun c s f =>
      let a := s.loadFor (s.subn x) d da
      let s := s.logAbandoned c [da]
      let (t, st) := s.storeAll d (fun _ => fRm w) (fSAT w) (s.subn x) (fun idx => let e := a.at idx; mkOut e.num [e])
      t.engineEnd c f { st with flushed := st.flushed || a.flushed } (0, 0) d.count 1) (some d.extents))

/-- CNV.MASK (R296): 1 where A is not 0, or where A is above 0. -/
def execCnvMask (x : Executor) (w : W128) (s : State) : Answer :=
  issue 5 1 x w s (fun s =>
    { rsvd := decide (1 < vFn w) || wf w 0 56 != 0 || fB w != 0 || fC w != 0, descs := [fD w, fA w], dest := some (fD w)
      bad := (s.descr x (fD w)).fmt != 0x1C || !fmtArith (s.descr x (fA w)).fmt }) (fun s =>
    let d := (s.descr x (fD w)).plain
    let da := s.descr x (fA w)
    engine x w .vector (some (fD w)) false s [d] [da] (fun c s f =>
      let a := s.loadFor (s.subn x) d da
      let s := s.logAbandoned c [da]
      let zero : Num := .fin false 0 0
      let (t, st) := s.storeAll d (fun _ => fRm w) (fSAT w) (s.subn x) (fun idx =>
        let e := a.at idx
        mkOut (cmpFn (if vFn w = 0 then 1 else 4) e.num zero) [e])
      t.engineEnd c f { st with flushed := st.flushed || a.flushed } (0, 0) d.count 1) (some d.extents))

/-- CNV.MAPPLY (R296): A where the mask bit is 1, a zero of D's format elsewhere. -/
def execCnvMapply (x : Executor) (w : W128) (s : State) : Answer :=
  issue 5 2 x w s (fun s =>
    { rsvd := wf w 0 62 != 0 || fC w != 0, descs := [fD w, fA w, fB w], dest := some (fD w)
      bad := !fmtArith (s.descr x (fD w)).fmt || !fmtArith (s.descr x (fA w)).fmt || (s.descr x (fB w)).fmt != 0x1C }) (fun s =>
    let d := (s.descr x (fD w)).plain
    let da := s.descr x (fA w)
    let db := s.descr x (fB w)
    engine x w .vector (some (fD w)) false s [d] [da, db] (fun c s f =>
      let a := s.loadFor (s.subn x) d da
      let b := s.loadFor (s.subn x) d db
      let s := s.logAbandoned c [da, db]
      let (t, st) := s.storeAll d (fun _ => fRm w) (fSAT w) (s.subn x) (fun idx =>
        let e := a.at idx
        let m := b.at idx
        let v : Num := if m.num.isZero then .fin false 0 0 else e.num
        { mkOut v [e, m] with nanIn := v.isNan })
      t.engineEnd c f { st with flushed := st.flushed || a.flushed } (0, 0) d.count 1) (some d.extents))

/-- The four words of Philox for element j of an RNG instruction (R298). -/
def State.rngWords (s : State) (x : Executor) (w : W128) (j : Nat) : Nat × Nat × Nat × Nat :=
  let e := s.exe x
  let i := (s.sreg x (wf w 54 4) + j) % 2 ^ 64
  philox (s.sreg x (wf w 58 4) % 2 ^ 32) (e.ctx.step % 2 ^ 32) (i % 2 ^ 32) (i / 2 ^ 32) (e.ctx.seed.toNat % 2 ^ 32)
    (e.ctx.seed.toNat / 2 ^ 32)

/-- What an RNG needs that names D alone. -/
def rngNeed (x : Executor) (w : W128) (s : State) (ok : Nat → Bool) : Need :=
  { rsvd := wf w 0 54 != 0 || fA w != 0 || fB w != 0 || fC w != 0, descs := [fD w], dest := some (fD w)
    bad := !ok (s.descr x (fD w)).fmt }

/-- An RNG that writes a function of its random words to D. -/
def rngRun (x : Executor) (w : W128) (s : State) (g : Nat × Nat × Nat × Nat → Num) : Act :=
  let d := (s.descr x (fD w)).plain
  engine x w .vector (some (fD w)) false s [d] [] (fun c s f =>
    let (t, st) := s.storeAll d (fun _ => fRm w) (fSAT w) (s.subn x) (fun idx =>
      mkOut (g (s.rngWords x w (rank d.extents idx))) [])
    t.engineEnd c f st (0, 0) d.count 1)

/-- RNG.UNIF (R298). -/
def execRngUnif (x : Executor) (w : W128) (s : State) : Answer :=
  issue 6 0 x w s (fun s => rngNeed x w s fmtArith) (fun s => rngRun x w s (fun r => .fin false (r.1 / 256) (-24)))

/-- The steps of RNG.NORMAL (R636). -/
def normalOf (rm : Rm) (w0 w1 : Nat) : Num :=
  let st := f32.step rm false
  let u1 : Num := .fin false (w0 / 256 + 1) (-24)
  let u2 : Num := .fin false (w1 / 256) (-24)
  let l := f32.decode (approxFn rm 8 (f32.encode rm false u1).bits)
  let t := (l.scale 1).negate
  let r := st t.sqrt
  let a := st ((f32.decode 0x40C90FDB).mul u2)
  let c := f32.decode (approxFn rm 14 (f32.encode rm false a).bits)
  st (r.mul c)

/-- RNG.NORMAL (R298, R636). -/
def execRngNormal (x : Executor) (w : W128) (s : State) : Answer :=
  issue 6 1 x w s (fun s => rngNeed x w s fmtArith) (fun s => rngRun x w s (fun r => normalOf (fRm w) r.1 r.2.1))

/-- RNG.BITS (R298): the first word into an INT32 element. -/
def execRngBits (x : Executor) (w : W128) (s : State) : Answer :=
  issue 6 2 x w s (fun s => rngNeed x w s (· == 0x0B)) (fun s => rngRun x w s (fun r => Num.ofInt (signedOf 32 r.1) 0))

/-- RNG.DROP (R298): the keep bit into a BIT1 D; else A scaled by the rounded 2^24 / (2^24 - T) where kept. -/
def execRngDrop (x : Executor) (w : W128) (s : State) : Answer :=
  issue 6 3 x w s (fun s =>
    let mask := (s.descr x (fD w)).fmt == 0x1C
    { rsvd := wf w 0 30 != 0 || (mask && fA w != 0) || fB w != 0 || fC w != 0
      descs := [fD w] ++ (if mask then [] else [fA w]), dest := some (fD w)
      bad := !mask && (!fmtArith (s.descr x (fD w)).fmt || !fmtArith (s.descr x (fA w)).fmt) }) (fun s =>
    let d := (s.descr x (fD w)).plain
    let da := s.descr x (fA w)
    let mask := d.fmt == 0x1C
    let thr := wf w 30 24
    engine x w .vector (some (fD w)) false s [d] (if mask then [] else [da]) (fun c s f =>
      let a : Tens := if mask then ⟨[], []⟩ else s.loadFor (s.subn x) d da
      let s := if mask then s else s.logAbandoned c [da]
      let g := widest [d.fmt, da.fmt]
      let r := g.step (fRm w) (fSAT w)
      let k := f32.step (fRm w) false ((Num.fin false 1 24).div (.fin false (2 ^ 24 - thr) 0))
      let (t, st) := s.storeAll d (fun _ => fRm w) (fSAT w) (s.subn x) (fun idx =>
        let keep := decide (thr ≤ (s.rngWords x w (rank d.extents idx)).1 / 256)
        if mask then mkOut (if keep then Num.one else .fin false 0 0) []
        else
          let e := a.at idx
          { mkOut (if keep then r ((r e.num).mul k) else .fin false 0 0) [e] with nanIn := keep && e.num.isNan })
      t.engineEnd c f { st with flushed := st.flushed || a.flushed } (0, 0) d.count 1) (some d.extents))

end Sys2Proof.Machine
end

