-- ==== Sys2Proof/Machine/Nrm.lean ====
section
/-! DEFINITION. NRM: row statistics, norms and fused attention (05: R178 to R180; 07: R290 to R295; 09: R347 to R349). The
arithmetic is FP32, one rounding an operation under RM; sums whose order the spec leaves open are Config.sum within R150. -/

namespace Sys2Proof.Machine

/-- FP32 bits of a value rounded under RM. -/
def bits32 (rm : Rm) (n : Num) : Nat := (f32.encode rm false n).bits

/-- One FP32 step under RM. -/
def st32 (rm : Rm) (n : Num) : Num := f32.step rm false n

/-- exp in FP32 (R149). -/
def exp32 (rm : Rm) (n : Num) : Num := f32.decode (approxFn rm 6 (bits32 rm n))

/-- Reciprocal square root in FP32 (R149). -/
def rsqrt32 (rm : Rm) (n : Num) : Num := f32.decode (approxFn rm 4 (bits32 rm n))

/-- A sum of FP32 values in an order the spec leaves open (R150). -/
def sum32 (rm : Rm) (kind : Nat) (l : List Num) : Num := f32.decode (openSum rm kind (l.map (bits32 rm)))

/-- The mean of n FP32 values. -/
def mean32 (rm : Rm) (kind : Nat) (l : List Num) : Num := st32 rm ((sum32 rm kind l).div (Num.ofInt l.length 0))

/-- Minus infinity. -/
def Num.minf : Num := .inf true

/-- Plus zero. -/
def Num.zero : Num := .fin false 0 0

/-- A descriptor for the statistics records of some rows: two FP32 values a row (R178). -/
def statDesc (d : Desc) (rows : Nat) : Desc :=
  { d with fmt := 0, orient := false, ndim := 2, su := 0, ext := [2, rows], str := [8], posDim := 7 }

/-- Splits a list of numbers 0 to n - 1 into tiles of 64. -/
def tiles64 (n : Nat) : List (List Nat) := (List.range (ceilDiv n 64)).map (fun t => (natRange (64 * t) 64).filter (fun j => decide (j < n)))

/-- The SOFTMAX record of a tile's part of a row: the maximum and the sum of exponentials; one of minus infinities alone has a sum of
0 (R178, R180). -/
def softmaxPart (rm : Rm) (l : List Num) : Num × Num :=
  let m := l.foldl Num.max2 Num.minf
  if m = Num.minf then (m, Num.zero) else (m, sum32 rm 1 (l.map (fun v => exp32 rm (st32 rm (v.sub m)))))

/-- Two SOFTMAX partials merged (R179, R180). -/
def mergeSoftmax (rm : Rm) (a b : Num × Num) : Num × Num :=
  let m := a.1.max2 b.1
  if m = Num.minf then (m, Num.zero)
  else
    let part (r : Num × Num) : Num := st32 rm (r.2.mul (exp32 rm (st32 rm (r.1.sub m))))
    (m, st32 rm ((part a).add (part b)))

/-- The SOFTMAX record of a row of FP32 values: the partials of its tiles, 64 elements each, merged in ascending order (R178, R179). -/
def softmaxRec (rm : Rm) (l : List Num) : Num × Num :=
  match (tiles64 l.length).map (fun t => softmaxPart rm (t.map (fun j => l.getD j Num.zero))) with
  | [] => (Num.minf, Num.zero)
  | a :: t => t.foldl (mergeSoftmax rm) a

/-- The statistics record of a row (R178): by kind, with the epsilon of the instruction. -/
def rowRec (rm : Rm) (kind : Nat) (eps : Num) (l : List Num) : Num × Num :=
  let sq (v : Num) : Num := st32 rm (v.mul v)
  if kind = 0 then softmaxRec rm l
  else if kind = 1 then
    let mu := mean32 rm 2 l
    let var := mean32 rm 3 (l.map (fun v => sq (st32 rm (v.sub mu))))
    (mu, rsqrt32 rm (st32 rm (var.add eps)))
  else if kind = 2 then
    let ms := mean32 rm 4 (l.map sq)
    (rsqrt32 rm (st32 rm (ms.add eps)), ms)
  else (sum32 rm 5 l, sum32 rm 6 (l.map sq))

/-- KIND of an NRM word. -/
def nKind (w : W128) : Nat := wf w 60 2
/-- CAUSAL of an NRM word. -/
def nCausal (w : W128) : Bool := wf w 59 1 == 1
/-- FUSE of an NRM word. -/
def nFuse (w : W128) : Bool := wf w 58 1 == 1
/-- The epsilon or score scale of an NRM word (R290). -/
def nImm (s : State) (x : Executor) (w : W128) : Num := (readEl (s.subn x) 0 ⟨wf w 0 32, 0, 0⟩).num

/-- The DETAIL of a list of elements. -/
def badOf (l : List El) : Nat := l.foldl (fun (d : Nat) e => worseDetail d e.bad) 0

/-- The values of elements in FP32. -/
def nums (rm : Rm) (l : List El) : List Num := l.map (fun e => st32 rm e.num)

/-- A row of an operand for the other indices of a destination: n elements along dimension 0. -/
def Tens.row (t : Tens) (n : Nat) (row : List Nat) : List El := (List.range n).map (fun j => t.at (j :: row))

/-- What an NRM needs (R208, R290, R291, R628): which class fields it uses, the entries of its group it uses, and those of them that
arithmetic reads or writes, or that must be FP32. -/
def nrmNeed (x : Executor) (w : W128) (s : State) (kind causal fuse : Bool) (used : List Nat) (fmts : List Nat) (f32s : List Nat) : Need :=
  let at_ (k : Nat) : Desc := s.descr x (fA w + k)
  { rsvd := (!kind && nKind w != 0) || (!causal && nCausal w) || (!fuse && nFuse w) || wf w 32 26 != 0 ||
      fB w != 0 || fC w != 0
    descs := fD w :: used.map (fA w + ·), dest := some (fD w)
    bad := !fmtArith (s.descr x (fD w)).fmt || fmts.any (fun k => !fmtArith (at_ k).fmt) || f32s.any (fun k => (at_ k).fmt != 0) }

/-- NRM with the frame of an engine instruction that needs room in both queues (R211). -/
def nrmRun (x : Executor) (w : W128) (s : State) (dests srcs : List Desc) (eff : Cell → State → Flight → State × Flight)
    (lim : Option (List Nat) := none) : Act :=
  if !s.queueFree x .vector then .hold else engine x w .matrix (some (fD w)) false s dests srcs eff lim

/-- Statistics records written, row by row. -/
def State.storeStats (s : State) (subn : Bool) (d : Desc) (rm : Rm) (f : Nat → (Num × Num) × Nat × Bool) : State × Stored :=
  s.storeAll d (fun _ => rm) false subn (fun idx =>
    let r := f (idx.getD 1 0)
    { num := if idx.getD 0 0 = 0 then r.1.1 else r.1.2, bad := r.2.1, nanIn := r.2.2 })

/-- NRM.STAT (R178, R291). -/
def execNrmStat (x : Executor) (w : W128) (s : State) : Answer :=
  issue 4 0 x w s (fun s => nrmNeed x w s true false false [0] [0] []) (fun s =>
    let dx := s.descr x (fA w)
    let d := (statDesc (s.descr x (fD w)) dx.rows).plain
    let rm := fRm w
    nrmRun x w s [d] [dx] (fun c s f =>
      let a := s.load (s.subn x) dx
      let s := s.logAbandoned c [dx]
      let eps := nImm s x w
      let row (r : Nat) : List El := (a.els.drop (r * dx.extent 0)).take (dx.extent 0)
      let (t, st) := s.storeStats (s.subn x) d rm (fun r =>
        (rowRec rm (nKind w) eps (nums rm (row r)), badOf (row r), (row r).any (·.num.isNan)))
      t.engineEnd c f { st with flushed := st.flushed || a.flushed } (0, 0) dx.rows 1))

/-- A value the spec does not state, by the kind and two FP32 values. -/
def freeNorm (kind : Nat) (a b : Num) : Num :=
  f32.decode (Sys2Proof.Config.approx (32 + kind) (a.f32bits * 2 ^ 32 + b.f32bits)).toNat

/-- The normalised element (R292): x rho for RMSNORM, (x - mu) rho for LAYERNORM. The kinds SOFTMAX and MOMENTS have no stated
result: it is free. -/
def xhat (rm : Rm) (kind : Nat) (r : Num × Num) (v : Num) : Num :=
  if kind = 1 then st32 rm ((st32 rm (v.sub r.1)).mul r.2) else if kind = 2 then st32 rm (v.mul r.1)
  else freeNorm kind v r.1

/-- The rho of a row's record (R178): free for the kinds that have none. -/
def rhoOf (kind : Nat) (r : Num × Num) : Num := if kind = 1 then r.2 else if kind = 2 then r.1 else freeNorm kind r.1 r.2

/-- NRM.NORM (R292): normalised rows, and the statistics in the same pass. -/
def execNrmNorm (x : Executor) (w : W128) (s : State) : Answer :=
  issue 4 1 x w s (fun s =>
    let ln := nKind w == 1
    let used := [0, 1] ++ (if ln then [2] else []) ++ [3]
    nrmNeed x w s true false false used used []) (fun s =>
    let d := (s.descr x (fD w)).plain
    let ln := nKind w == 1
    let dx := s.descr x (fA w)
    let dg := s.descr x (fA w + 1)
    let db := s.descr x (fA w + 2)
    let ds := (statDesc (s.descr x (fA w + 3)) d.rows).plain
    let rm := fRm w
    nrmRun x w s [d, ds] ([dx, dg] ++ (if ln then [db] else [])) (fun c s f =>
      let subn := s.subn x
      let a := s.loadFor subn d dx
      let g := s.loadFor subn d dg
      let b : Tens := if ln then s.loadFor subn d db else ⟨[], []⟩
      let s := s.logAbandoned c ([dx, dg] ++ (if ln then [db] else []))
      let eps := nImm s x w
      let n := d.extent 0
      let rec_ (row : List Nat) : Num × Num := rowRec rm (nKind w) eps (nums rm (a.row n row))
      let (t, s1) := s.storeAll d (fun _ => rm) (fSAT w) subn (fun idx =>
        let row := idx.drop 1
        let els := a.row n row
        let ge := g.at idx
        let be := if ln then b.at idx else zeroEl
        let y := st32 rm ((xhat rm (nKind w) (rec_ row) (st32 rm (a.at idx).num)).mul (st32 rm ge.num))
        let y := if ln then st32 rm (y.add (st32 rm be.num)) else y
        { mkOut y (els ++ [ge, be]) with a := (a.at idx).num.f32bits, b := ge.num.f32bits })
      let (u, s2) := t.storeStats subn ds rm (fun r =>
        let row := unrank (d.extents.drop 1) r
        let els := a.row n row
        (rec_ row, badOf els, els.any (·.num.isNan)))
      u.engineEnd c f { s1.join s2 with flushed := s1.flushed || s2.flushed || a.flushed || g.flushed || b.flushed } (0, 0) d.rows 1) (some d.extents))

/-- A matrix operand of NRM at a row, a column and batch indices: by rows and columns of dimensions 1 and 0, or in tile form
(R263, R281). -/
def Tens.cell (t : Tens) (orient : Bool) (row col batch : Nat) (bidx : List Nat) : El :=
  if orient then t.mat true row col batch else t.at (col :: row :: bidx)

/-- The columns of a matrix operand. -/
def Desc.cols (d : Desc) : Nat := if d.orient then d.extent 0 * d.extent 2 else d.extent 0
/-- The rows of a matrix operand. -/
def Desc.mrows (d : Desc) : Nat := if d.orient then d.extent 1 * d.extent 3 else d.extent 1

/-- Products added into an accumulator in groups of 32, each scaled, with one rounding a group (R144 to R146). -/
def dotAcc (fa fb : Nat) (rm : Rm) (sc : Int) (start : Num) (ps : List Num) : Num :=
  (List.range (ceilDiv ps.length 32)).foldl (fun (acc : Num) g =>
    addRound (accFmt fa fb) rm acc ((groupSum (windowBits fa fb) ((ps.drop (32 * g)).take 32)).scale sc)) start

/-- The matrix product of a row and a column of elements. -/
def dotEls (fa fb : Nat) (rm : Rm) (a b : List El) : Num :=
  dotAcc fa fb rm 0 Num.zero (List.zipWith (fun p q => p.num.mul q.num) a b)

/-- A row of a matrix operand. -/
def Tens.mrow (t : Tens) (orient : Bool) (cols row batch : Nat) (bidx : List Nat) : List El :=
  (List.range cols).map (fun j => t.cell orient row j batch bidx)

/-- What a matrix operand of NRM gives to rows, columns and batches within some extents; the rest is not read (R262). -/
def Tens.onlyRows (t : Tens) (orient : Bool) (p : Nat → Bool) (cols : Nat) (bext : List Nat) : Tens :=
  let e (k : Nat) : Nat := t.ext.getD k 1
  let nb := bext.getD 0 1 * bext.getD 1 1 * bext.getD 2 1
  t.only (fun idx =>
    let i (k : Nat) : Nat := idx.getD k 0
    if orient then p (i 1 + 64 * i 3) && decide (i 0 + e 0 * i 2 < cols) && decide (i 4 < nb)
    else p (i 1) && decide (i 0 < cols) && (List.range 3).all (fun k => decide (i (k + 2) < bext.getD k 1)))

/-- The operands of NORMB (R291, R292). -/
structure NormIn where
  kind : Nat
  rm : Rm
  d : Desc
  dy : Tens
  xs : Tens
  g : Tens
  sr : Tens
  dz : Tens
  wt : Tens
  dzd : Desc
  wtd : Desc
  fuse : Bool
  deriving DecidableEq, Repr

/-- An element of dY (R292): with FUSE that of dZ W^T, at a scale of its group sums; and the elements it comes from. -/
def NormIn.dyAt (i : NormIn) (sc : Int) (row : List Nat) (j : Nat) : Num × List El :=
  if i.fuse then
    let b := rank (i.d.extents.drop 2) (row.drop 1)
    let zr := i.dz.mrow i.dzd.orient i.dzd.cols (row.getD 0 0) b (row.drop 1)
    let wr := i.wt.mrow i.wtd.orient i.dzd.cols j b (row.drop 1)
    (dotAcc i.dzd.fmt i.wtd.fmt i.rm sc Num.zero (List.zipWith (fun p q => p.num.mul q.num) zr wr), zr ++ wr)
  else let e := i.dy.at (j :: row); (st32 i.rm e.num, [e])

/-- The statistics of a row as they were stored. -/
def NormIn.recAt (i : NormIn) (row : List Nat) : List El :=
  let r := rank (i.d.extents.drop 1) row
  [i.sr.at [0, r], i.sr.at [1, r]]

/-- The two values of a row's statistics. -/
def NormIn.stat (i : NormIn) (row : List Nat) : Num × Num :=
  let l := i.recAt row
  ((l.getD 0 zeroEl).num, (l.getD 1 zeroEl).num)

/-- The normalised element. -/
def NormIn.xh (i : NormIn) (row : List Nat) (j : Nat) : Num := xhat i.rm i.kind (i.stat row) (st32 i.rm (i.xs.at (j :: row)).num)

/-- An element of dX (R292), and those it comes from. -/
def NormIn.dx (i : NormIn) (sc : Int) (idx : List Nat) : Out :=
  let row := idx.drop 1
  let j := idx.getD 0 0
  let cols := List.range (i.d.extent 0)
  let dys := cols.map (i.dyAt sc row)
  let ts := cols.map (fun k => st32 i.rm ((st32 i.rm (i.g.at (k :: row)).num).mul (dys.getD k (Num.zero, [])).1))
  let mt := mean32 i.rm 7 ts
  let mx := mean32 i.rm 8 (cols.map (fun k => st32 i.rm ((i.xh row k).mul (ts.getD k Num.zero))))
  let tj := if i.kind = 1 then st32 i.rm ((ts.getD j Num.zero).sub mt) else ts.getD j Num.zero
  let v := st32 i.rm ((rhoOf i.kind (i.stat row)).mul (st32 i.rm (tj.sub (st32 i.rm ((i.xh row j).mul mx)))))
  let els := dys.flatMap (·.2) ++ cols.map (fun k => i.xs.at (k :: row)) ++ cols.map (fun k => i.g.at (k :: row)) ++ i.recAt row
  { mkOut v els with a := (dys.getD j (Num.zero, [])).1.f32bits, b := (i.xs.at idx).num.f32bits }

/-- An element of dg or dbeta: what was there, and a term of each row added in ascending order (R292). -/
def NormIn.grad (i : NormIn) (old : Tens) (gain : Bool) (idx : List Nat) : Out :=
  let j := idx.getD 0 0
  let rows := (List.range i.d.rows).map (unrank (i.d.extents.drop 1))
  let v := rows.foldl (fun (acc : Num) r =>
    let dy := (i.dyAt 0 r j).1
    st32 i.rm (acc.add (if gain then st32 i.rm (dy.mul (i.xh r j)) else dy))) (old.at idx).num
  let els := old.at idx :: rows.flatMap (fun r => (i.dyAt 0 r j).2 ++ (if gain then i.xs.at (j :: r) :: i.recAt r else []))
  { mkOut v els with a := 0, b := 0 }

/-- NRM.NORMB (R292, R295): dX from dY and X, and the gradients of the gain and bias added to in ascending row order. With FUSE, dY is
dZ W^T, computed tile by tile and never stored; a tile of D whose accumulators overflow has the outcomes of MM (DEDUCED, log entry
94). -/
def execNrmNormb (x : Executor) (w : W128) (s : State) : Answer :=
  issue 4 2 x w s (fun s =>
    let ln := nKind w == 1
    let fuse := nFuse w
    let reads := (if fuse then [] else [0]) ++ [1, 2] ++ (if fuse then [6, 7] else [])
    let n := nrmNeed x w s true false true (reads ++ [3, 4] ++ (if ln then [5] else [])) (3 :: reads) ([4] ++ (if ln then [5] else []))
    { n with bad := n.bad || (fuse && (!fmtMatrix (s.descr x (fA w + 6)).fmt || !fmtMatrix (s.descr x (fA w + 7)).fmt)) }) (fun s =>
    let ln := nKind w == 1
    let fuse := nFuse w
    let rm := fRm w
    let d := (s.descr x (fD w)).plain
    let at_ (k : Nat) : Desc := s.descr x (fA w + k)
    let ds := statDesc (at_ 3) d.rows
    let dgd := (at_ 4).plain
    let dbd := (at_ 5).plain
    let srcs := (if fuse then [at_ 6, at_ 7] else [at_ 0]) ++ [at_ 1, at_ 2, ds]
    nrmRun x w s (d :: dgd :: (if ln then [dbd] else [])) srcs (fun c s f =>
      let subn := s.subn x
      let none_ : Tens := ⟨[], []⟩
      let below (n : Nat) (j : Nat) : Bool := decide (j < n)
      let zcols := (at_ 6).cols
      let i : NormIn := {
        kind := nKind w, rm := rm, d := d, fuse := fuse, dzd := at_ 6, wtd := at_ 7
        dy := if fuse then none_ else s.loadFor subn d (at_ 0)
        xs := s.loadFor subn d (at_ 1), g := s.loadFor subn d (at_ 2), sr := s.load subn ds
        dz := if fuse then (s.load subn (at_ 6)).onlyRows (at_ 6).orient (below (d.extent 1)) zcols (d.extents.drop 2) else none_
        wt := if fuse then (s.load subn (at_ 7)).onlyRows (at_ 7).orient (below (d.extent 0)) zcols (d.extents.drop 2) else none_ }
      let dg := s.load subn dgd
      let db := if ln then s.load subn dbd else none_
      let s := s.logAbandoned c srcs
      let (t, u) := if fuse then
          s.tiled c f rm d (fSAT w) subn 0 (s.fld .NUM_CTRL_RSC x.region) (fun sc r col b =>
            let row := r :: unrank (d.extents.drop 2) b
            let o := i.dx sc (col :: row)
            { r := 0, c := 0, acc := acc32 i.dzd.fmt i.wtd.fmt (i.dyAt sc row col).1, v := o.num, bad := o.bad, nanIn := o.nanIn })
        else
          let q := s.storeAll d (fun _ => rm) (fSAT w) subn (i.dx 0)
          (q.1, ({ tiles := 1 } : TileSum).also q.2)
      let (t, s2) := t.storeAll dgd (fun _ => rm) (fSAT w) subn (i.grad dg true)
      let (t, s3) := if ln then t.storeAll dbd (fun _ => rm) (fSAT w) subn (i.grad db false) else (t, {})
      let fl := i.dy.flushed || i.xs.flushed || i.g.flushed || i.sr.flushed || i.dz.flushed || i.wt.flushed || dg.flushed || db.flushed
      t.tileEnd c f ((u.also s2).also s3) fl d.rows))

/-- The sequence position of an element, where its descriptor names a dimension that counts positions (R223). -/
def Desc.position (d : Desc) (idx : List Nat) : Option Nat :=
  if d.posDim = 7 then none else some (d.posBase + idx.getD d.posDim 0)

/-- The index of row r of a matrix operand. -/
def Desc.rowIdx (d : Desc) (r : Nat) (bidx : List Nat) : List Nat := if d.orient then [0, r % 64, 0, r / 64, 0] else 0 :: r :: bidx

/-- Whether CAUSAL masks a key for a query: both have positions, and the key's is above the query's (R293). -/
def masked (causal : Bool) (q k : Option Nat) : Bool :=
  causal && match q, k with
    | some a, some b => decide (a < b)
    | _, _ => false

/-- The operands of an attention instruction, and the number of its query rows. -/
structure AttIn where
  q : Tens
  k : Tens
  v : Tens
  dq : Desc
  dk : Desc
  dv : Desc
  rows : Nat
  scale : Num
  causal : Bool
  rm : Rm
  deriving DecidableEq, Repr

/-- The number of keys. -/
def AttIn.keys (i : AttIn) : Nat := i.dk.mrows

/-- Whether CAUSAL masks a score (R293). -/
def AttIn.hides (i : AttIn) (r j : Nat) (bidx : List Nat) : Bool :=
  masked i.causal (i.dq.position (i.dq.rowIdx r bidx)) (i.dk.position (i.dk.rowIdx j bidx))

/-- Whether a key tile is skipped for a query tile: every element of it is masked (R293). -/
def AttIn.skips (i : AttIn) (qt : Nat) (keys : List Nat) (bidx : List Nat) : Bool :=
  ((tiles64 i.rows).getD qt []).all (fun r => keys.all (fun j => i.hides r j bidx))

/-- The key tiles of a query tile that are not skipped. -/
def AttIn.keyTiles (i : AttIn) (qt : Nat) (bidx : List Nat) : List (List Nat) := (tiles64 i.keys).filter (fun t => !i.skips qt t bidx)

/-- A scaled score, minus infinity where masked (R293). -/
def AttIn.score (i : AttIn) (r j b : Nat) (bidx : List Nat) : Num :=
  let n := i.dq.cols
  if i.hides r j bidx then Num.minf
  else st32 i.rm (i.scale.mul (dotEls i.dq.fmt i.dk.fmt i.rm (i.q.mrow i.dq.orient n r b bidx) (i.k.mrow i.dk.orient n j b bidx)))

/-- The elements a score comes from: none where it is masked. -/
def AttIn.scoreEls (i : AttIn) (r j b : Nat) (bidx : List Nat) : List El :=
  let n := i.dq.cols
  if i.hides r j bidx then [] else i.q.mrow i.dq.orient n r b bidx ++ i.k.mrow i.dk.orient n j b bidx

/-- Probabilities converted to a format, as the matrix engine reads them. -/
def convertRow (f : Nat) (rm : Rm) (l : List Num) : List Num :=
  (putRow f (fun _ => rm) false false 0 0 (l.map (fun n => ⟨n, 0, false, 0, 0⟩))).map (fun p => elemNum f ⟨p.bits, p.side, 0⟩)

/-- What the key tiles of a query row have come to (R293): the running maximum and sum, and each tile's keys, factor and
probabilities. -/
structure AttRow where
  m : Num := Num.minf
  sum : Num := Num.zero
  tiles : List (List Nat × Num × List Num) := []
  deriving DecidableEq, Repr

/-- One key tile of a query row (R180, R293). -/
def AttRow.step (rm : Rm) (st : AttRow) (keys : List Nat) (z : List Num) : AttRow :=
  let m2 := z.foldl Num.max2 st.m
  let a := if m2 = Num.minf then Num.one else exp32 rm (st32 rm (st.m.sub m2))
  let p := z.map (fun v => if m2 = Num.minf then Num.zero else exp32 rm (st32 rm (v.sub m2)))
  { m := m2, sum := st32 rm ((st32 rm (st.sum.mul a)).add (sum32 rm 9 p)), tiles := st.tiles ++ [(keys, a, p)] }

/-- A query row over its key tiles in ascending order. -/
def AttIn.row (i : AttIn) (r b : Nat) (bidx : List Nat) : AttRow :=
  (i.keyTiles (r / 64) bidx).foldl (fun (st : AttRow) t => st.step i.rm t (t.map (fun j => i.score r j b bidx))) {}

/-- The accumulated output of a query row in one column (R293). -/
def AttIn.out (i : AttIn) (sc : Int) (row : AttRow) (col b : Nat) (bidx : List Nat) : Num :=
  row.tiles.foldl (fun (acc : Num) (keys, a, p) =>
    dotAcc i.dv.fmt i.dv.fmt i.rm sc (st32 i.rm (acc.mul a))
      (List.zipWith (fun (pc : Num) j => pc.mul (i.v.cell i.dv.orient j col b bidx).num) (convertRow i.dv.fmt i.rm p) keys)) Num.zero

/-- The elements a query row's record comes from. -/
def AttIn.els (i : AttIn) (r b : Nat) (bidx : List Nat) : List El :=
  (i.keyTiles (r / 64) bidx).flatten.flatMap (fun j => i.scoreEls r j b bidx)

/-- NRM.ATTF (R293): attention of each query row over all key tiles, the outputs tile by tile, and the row records. -/
def execNrmAttf (x : Executor) (w : W128) (s : State) : Answer :=
  issue 4 3 x w s (fun s =>
    let n := nrmNeed x w s false true false [0, 1, 2, 3] [0, 1, 2, 3] []
    { n with bad := n.bad || [0, 1, 2].any (fun k => !fmtMatrix (s.descr x (fA w + k)).fmt) }) (fun s =>
    let d := (s.descr x (fD w)).plain
    let at_ (k : Nat) : Desc := s.descr x (fA w + k)
    let ds := (statDesc (at_ 3) d.rows).plain
    nrmRun x w s [d, ds] [at_ 0, at_ 1, at_ 2] (fun c s f =>
      let subn := s.subn x
      let rm := fRm w
      let bext := d.extents.drop 2
      let batches := (List.range (bext.getD 0 1 * bext.getD 1 1 * bext.getD 2 1)).map (unrank bext)
      let whole : AttIn := { q := s.load subn (at_ 0), k := s.load subn (at_ 1), v := s.load subn (at_ 2), dq := at_ 0, dk := at_ 1
                             dv := at_ 2, rows := d.extent 1, scale := nImm s x w, causal := nCausal w, rm := rm }
      let used := batches.flatMap (fun bidx => (List.range (ceilDiv (d.extent 1) 64)).flatMap (fun qt => (whole.keyTiles qt bidx).flatten))
      let i := { whole with
        q := whole.q.onlyRows (at_ 0).orient (fun r => decide (r < d.extent 1)) (at_ 0).cols bext
        k := whole.k.onlyRows (at_ 1).orient used.contains (at_ 0).cols bext
        v := whole.v.onlyRows (at_ 2).orient used.contains (d.extent 0) bext }
      let s := s.logAbandoned c [at_ 0, at_ 1, at_ 2]
      let (t, u) := s.tiled c f rm d (fSAT w) subn 0 (s.fld .NUM_CTRL_RSC x.region) (fun sc r col b =>
        let bidx := unrank bext b
        let row := i.row r b bidx
        let acc := i.out sc row col b bidx
        let els := if row.sum.isZero then i.els r b bidx
          else i.els r b bidx ++ (i.keyTiles (r / 64) bidx).flatten.map (fun j => i.v.cell i.dv.orient j col b bidx)
        { r := 0, c := 0, acc := acc32 i.dv.fmt i.dv.fmt acc, v := if row.sum.isZero then Num.zero else st32 rm (acc.div row.sum)
          bad := badOf els, nanIn := els.any (·.num.isNan) })
      let (t, st) := t.storeStats subn ds rm (fun r =>
        let idx := unrank (d.extents.drop 1) r
        let b := rank bext (idx.drop 1)
        let row := i.row (idx.getD 0 0) b (idx.drop 1)
        let els := i.els (idx.getD 0 0) b (idx.drop 1)
        ((row.m, row.sum), badOf els, els.any (·.num.isNan)))
      t.tileEnd c f (u.also st) (i.q.flushed || i.k.flushed || i.v.flushed) d.rows))

/-- Whether a row record is that of a row of minus infinities, whose probabilities and gradients are zeros (R180). -/
def deadRow (r : Num × Num) : Bool := decide (r.1 = Num.minf) && r.2.isZero

/-- The probability of a score under a row record (R180, R294). -/
def probOf (rm : Rm) (z : Num) (r : Num × Num) : Num :=
  if deadRow r then Num.zero else st32 rm ((exp32 rm (st32 rm (z.sub r.1))).div r.2)

/-- The operands of ATTB beside those of ATTF: O, dO and the row records, with D's extents. -/
structure AttBack where
  i : AttIn
  o : Tens
  dO : Tens
  sr : Tens
  od : Desc
  dOd : Desc
  ext : List Nat
  deriving DecidableEq, Repr

/-- The stored record of a query row. -/
def AttBack.recAt (k : AttBack) (r : Nat) (bidx : List Nat) : List El :=
  let n := rank (k.ext.drop 1) (r :: bidx)
  [k.sr.at [0, n], k.sr.at [1, n]]

/-- Its two values. -/
def AttBack.stat (k : AttBack) (r : Nat) (bidx : List Nat) : Num × Num :=
  let l := k.recAt r bidx
  ((l.getD 0 zeroEl).num, (l.getD 1 zeroEl).num)

/-- A probability (R294). -/
def AttBack.prob (k : AttBack) (r j b : Nat) (bidx : List Nat) : Num := probOf k.i.rm (k.i.score r j b bidx) (k.stat r bidx)

/-- A row of dO. -/
def AttBack.doRow (k : AttBack) (r b : Nat) (bidx : List Nat) : List El := k.dO.mrow k.dOd.orient k.dOd.cols r b bidx
/-- A row of O. -/
def AttBack.oRow (k : AttBack) (r b : Nat) (bidx : List Nat) : List El := k.o.mrow k.od.orient k.dOd.cols r b bidx

/-- delta of a query row (R294). -/
def AttBack.delta (k : AttBack) (r b : Nat) (bidx : List Nat) : Num :=
  sum32 k.i.rm 10 (List.zipWith (fun p q => st32 k.i.rm ((st32 k.i.rm p.num).mul (st32 k.i.rm q.num))) (k.doRow r b bidx) (k.oRow r b bidx))

/-- An element of dS given the row's delta; a row of minus infinities has zero gradients (R180, R294). -/
def AttBack.dS (k : AttBack) (delta : Num) (r j b : Nat) (bidx : List Nat) : Num :=
  if deadRow (k.stat r bidx) then Num.zero
  else
    let dp := dotEls k.dOd.fmt k.i.dv.fmt k.i.rm (k.doRow r b bidx) (k.i.v.mrow k.i.dv.orient k.dOd.cols j b bidx)
    st32 k.i.rm ((k.prob r j b bidx).mul (st32 k.i.rm (dp.sub delta)))

/-- The elements an element of P comes from. -/
def AttBack.probEls (k : AttBack) (r j b : Nat) (bidx : List Nat) : List El := k.recAt r bidx ++ k.i.scoreEls r j b bidx

/-- The elements an element of dS comes from. -/
def AttBack.dsEls (k : AttBack) (r j b : Nat) (bidx : List Nat) : List El :=
  k.probEls r j b bidx ++ k.doRow r b bidx ++ k.oRow r b bidx ++ k.i.v.mrow k.i.dv.orient k.dOd.cols j b bidx

/-- One tile element of an attention gradient, from its accumulator and the elements it comes from. -/
def attEl (acc : Num) (els : List El) : TileEl :=
  { r := 0, c := 0, acc := acc, v := acc, bad := badOf els, nanIn := els.any (·.num.isNan) }

/-- An element of dQ (R180, R294): over key tiles in ascending order. -/
def AttBack.dq (k : AttBack) (sc : Int) (r col b : Nat) (bidx : List Nat) : TileEl :=
  if deadRow (k.stat r bidx) then attEl Num.zero (k.recAt r bidx)
  else
    let de := k.delta r b bidx
    let kc (j : Nat) : El := k.i.k.cell k.i.dk.orient j col b bidx
    let acc := (tiles64 k.i.keys).foldl (fun (acc : Num) tile =>
      let part := dotAcc 0 k.i.dk.fmt k.i.rm sc Num.zero (tile.map (fun j => (k.dS de r j b bidx).mul (kc j).num))
      st32 k.i.rm (acc.add (st32 k.i.rm (k.i.scale.mul part)))) Num.zero
    attEl acc ((List.range k.i.keys).flatMap (fun j => k.dsEls r j b bidx ++ [kc j]))

/-- An element of dV (R180, R294): what was there, and over query tiles in ascending order the products of P and dO. -/
def AttBack.dv (k : AttBack) (old : El) (sc : Int) (j col b : Nat) (bidx : List Nat) : TileEl :=
  let live := (List.range k.i.rows).filter (fun r => !deadRow (k.stat r bidx))
  let oc (r : Nat) : El := k.dO.cell k.dOd.orient r col b bidx
  let acc := (tiles64 k.i.rows).foldl (fun (acc : Num) tile =>
    dotAcc 0 k.dOd.fmt k.i.rm sc acc (tile.map (fun r => if live.contains r then (k.prob r j b bidx).mul (oc r).num else Num.zero)))
    (st32 k.i.rm (old.num.scale sc))
  attEl acc (old :: live.flatMap (fun r => k.probEls r j b bidx ++ [oc r]))

/-- An element of dK (R180, R294): what was there, and over query tiles in ascending order the scaled products of dS and Q. -/
def AttBack.dk (k : AttBack) (old : El) (sc : Int) (j col b : Nat) (bidx : List Nat) : TileEl :=
  let live := (List.range k.i.rows).filter (fun r => !deadRow (k.stat r bidx))
  let qc (r : Nat) : El := k.i.q.cell k.i.dq.orient r col b bidx
  let acc := (tiles64 k.i.rows).foldl (fun (acc : Num) tile =>
    let part := dotAcc 0 k.i.dq.fmt k.i.rm sc Num.zero (tile.map (fun r =>
      if live.contains r then (k.dS (k.delta r b bidx) r j b bidx).mul (qc r).num else Num.zero))
    st32 k.i.rm (acc.add (st32 k.i.rm (k.i.scale.mul part)))) (st32 k.i.rm (old.num.scale sc))
  attEl acc (old :: live.flatMap (fun r => k.dsEls r j b bidx ++ [qc r]))

/-- NRM.ATTB (R294, R295): dQ tile by tile, dK and dV added to in ascending order of query tiles; tiles of all three that overflow have
the outcomes of MM, what was in dK and dV entering the accumulator at the tile's scale (DEDUCED, log entry 94). -/
def execNrmAttb (x : Executor) (w : W128) (s : State) : Answer :=
  issue 4 4 x w s (fun s =>
    let n := nrmNeed x w s false true false [0, 1, 2, 3, 4, 5, 6, 7] [0, 1, 2, 3, 4, 5] [6, 7]
    { n with bad := n.bad || [0, 1, 2, 4].any (fun k => !fmtMatrix (s.descr x (fA w + k)).fmt) }) (fun s =>
    let d := (s.descr x (fD w)).plain
    let at_ (k : Nat) : Desc := s.descr x (fA w + k)
    let ds := statDesc (at_ 5) d.rows
    let dkd := (at_ 6).plain
    let dvd := (at_ 7).plain
    let srcs := [at_ 0, at_ 1, at_ 2, at_ 3, at_ 4, ds]
    nrmRun x w s [d, dkd, dvd] srcs (fun c s f =>
      let subn := s.subn x
      let rm := fRm w
      let i : AttIn := { q := s.load subn (at_ 0), k := s.load subn (at_ 1), v := s.load subn (at_ 2), dq := at_ 0, dk := at_ 1
                         dv := at_ 2, rows := (at_ 0).mrows, scale := nImm s x w, causal := nCausal w, rm := rm }
      let k : AttBack := { i := i, o := s.load subn (at_ 3), dO := s.load subn (at_ 4), sr := s.load subn ds, od := at_ 3, dOd := at_ 4
                           ext := d.extents }
      let oldK := s.load subn dkd
      let oldV := s.load subn dvd
      let rsc := s.fld .NUM_CTRL_RSC x.region
      let s := s.logAbandoned c srcs
      let (t, u) := s.tiled c f rm d (fSAT w) subn 0 rsc (fun sc r col b => k.dq sc r col b (unrank (d.extents.drop 2) b))
      let (t, v) := t.tiled c f rm dvd (fSAT w) subn 0 rsc (fun sc j col b =>
        let bidx := unrank (dvd.extents.drop 2) b
        k.dv (oldV.at (col :: j :: bidx)) sc j col b bidx)
      let (t, z) := t.tiled c f rm dkd (fSAT w) subn 0 rsc (fun sc j col b =>
        let bidx := unrank (dkd.extents.drop 2) b
        k.dk (oldK.at (col :: j :: bidx)) sc j col b bidx)
      let sum : TileSum := { st := (u.st.join v.st).join z.st, o := worst (worst u.o v.o) z.o, tiles := u.tiles + v.tiles + z.tiles
                             trap := firstTrap false (firstTrap false u.trap v.trap) z.trap }
      let fl := i.q.flushed || i.k.flushed || i.v.flushed || k.o.flushed || k.dO.flushed || k.sr.flushed || oldK.flushed || oldV.flushed
      t.tileEnd c f sum fl d.rows))

/-- NRM.SMXB (R294): the gradient of a softmax, with P recomputed from the logits and their statistics. -/
def execNrmSmxb (x : Executor) (w : W128) (s : State) : Answer :=
  issue 4 5 x w s (fun s =>
    nrmNeed x w s false false false [0, 1, 2] [0, 1, 2] []) (fun s =>
    let d := (s.descr x (fD w)).plain
    let dy := s.descr x (fA w)
    let dx := s.descr x (fA w + 1)
    let ds := statDesc (s.descr x (fA w + 2)) d.rows
    nrmRun x w s [d] [dy, dx, ds] (fun c s f =>
      let subn := s.subn x
      let rm := fRm w
      let y := s.loadFor subn d dy
      let xs := s.loadFor subn d dx
      let sr := s.load subn ds
      let s := s.logAbandoned c [dy, dx, ds]
      let scale := nImm s x w
      let n := d.extent 0
      let (t, st) := s.storeAll d (fun _ => rm) (fSAT w) subn (fun idx =>
        let row := idx.drop 1
        let r := rank (d.extents.drop 1) row
        let rec_ := ((sr.at [0, r]).num, (sr.at [1, r]).num)
        let ps := (nums rm (xs.row n row)).map (fun v => probOf rm (st32 rm (scale.mul v)) rec_)
        let ys := nums rm (y.row n row)
        let dot := sum32 rm 11 (List.zipWith (fun p q => st32 rm (q.mul p)) ps ys)
        let j := idx.getD 0 0
        let p := ps.getD j Num.zero
        let v := if deadRow rec_ then Num.zero else st32 rm (p.mul (st32 rm ((ys.getD j Num.zero).sub dot)))
        let els := xs.row n row ++ y.row n row ++ [sr.at [0, r], sr.at [1, r]]
        { mkOut v els with a := (y.at idx).num.f32bits, b := (xs.at idx).num.f32bits })
      t.engineEnd c f { st with flushed := st.flushed || y.flushed || xs.flushed || sr.flushed } (0, 0) d.rows 1))

end Sys2Proof.Machine
end

