-- ==== Sys2Proof/Machine/Sta.lean ====
section
/-! DEFINITION. STA: tensor and layer monitors and the silent-zero watch (07: R306, R307; 09: R360 to R369). -/

namespace Sys2Proof.Machine

/-- MONID of an STA word. -/
def aMon (w : W128) : Nat := wf w 46 16
/-- BSU of an STA word. -/
def aBsu (w : W128) : Bool := wf w 45 1 == 1

/-- What an STA needs (R208, R306, R360): the length of its record and whether it names B. -/
def staNeed (x : Executor) (w : W128) (s : State) (words : Nat) (useB : Bool) (bArith : Bool) : Need :=
  let d := s.descr x (fD w)
  { rsvd := wf w 0 45 != 0 || (!useB && fB w != 0) || fC w != 0
    descs := [fD w, fA w] ++ (if useB then [fB w] else []), dest := some (fD w)
    bad := d.fmt != 0x0B || d.ndim != 1 || d.base % 64 != 0 || d.extent 0 != words || !fmtArith (s.descr x (fA w)).fmt ||
      (useB && bArith && !fmtArith (s.descr x (fB w)).fmt) }

/-- Whether each element of a tensor lies in one column of near memory, as a bank-side reduction needs, whose result is sent up to the
logic die (R188, R189, R377). -/
def Desc.inColumns (d : Desc) : Bool := !d.compressed && d.indices.all (fun idx => oneColumn ((d.elAddrs idx).map nearColumn))

/-- Whether the bank-side units can run an STA (R187, R188). -/
def staFits (ops : List Desc) : Bool := ops.all (fun e => fmtBsu e.fmt && e.inColumns)

/-- A saturating count. -/
def satAdd (bits a b : Nat) : Nat := min (a + b) (2 ^ bits - 1)

/-- Whether a finite element stands at an end of its format's range (R363). -/
def atEnd (f : Nat) (e : RawEl) : Bool :=
  if f = 0x0A then e.bits == 127 || e.bits == 128
  else if f = 0x0B then e.bits == 2 ^ 31 - 1 || e.bits == 2 ^ 31
  else if f = 0x15 then e.bits == 127 || e.bits == 128 || e.bits == 129
  else
    let g := match mxFloat f with
      | some g => some g
      | none => fmtFloat f
    match g with
    | some g =>
      let b := if f = 0x01 then e.wide else e.bits
      b % 2 ^ (g.eb + g.mb) == g.big false
    | none => false

/-- What SHARES counts of some elements (R363). -/
structure Shares where
  elems : Nat := 0
  zeros : Nat := 0
  sats : Nat := 0
  nonfinite : Nat := 0
  maxabs : Num := .fin false 0 0
  hist : List Nat := List.replicate 16 0
  deriving DecidableEq, Repr

/-- The bin of an exponent: HBASE and HSTEP of NUM_HIST, an HSTEP of 0 acting as 1. -/
def histBin (hbase : Int) (hstep : Nat) (e : Int) : Nat :=
  (max 0 (min 15 ((e - hbase) / (max hstep 1 : Nat) + 1))).toNat

/-- One element counted; a poison element is examined and belongs to no class. -/
def Shares.add (h : Shares) (subn : Bool) (f : Nat) (hbase : Int) (hstep : Nat) (e : RawEl) : Shares :=
  let v := (readEl subn f e).num
  let h := { h with elems := h.elems + 1 }
  if e.bad ≠ 0 then h
  else if v.isNan || v.isInf then { h with nonfinite := h.nonfinite + 1 }
  else if v.isZero then { h with zeros := h.zeros + 1 }
  else
    let b := histBin hbase hstep v.log2
    { h with
      sats := h.sats + bit1 (atEnd f e)
      maxabs := if h.maxabs.cmp v.abs < 0 then v.abs else h.maxabs
      hist := setAt h.hist b (h.hist.getD b 0 + 1) }

/-- What an STA comes to: the state, its record, its outcome and COUNT. -/
structure StaDone where
  s : State
  rec_ : List Byte
  o : Outc
  n : Nat
  deriving DecidableEq, Repr

/-- The effect of SHARES on its record (R361, R363, R364). -/
def staShares (x : Executor) (w : W128) (s : State) (f : Flight) (old : List Byte) : StaDone :=
  let da := s.descr x (fA w)
  let els := s.loadRaw da
  let subn := s.subn x
  let h := els.foldl (fun (h : Shares) e =>
    h.add subn da.fmt (signedOf 8 (s.fld .NUM_HIST_HBASE x.region)) (s.fld .NUM_HIST_HSTEP x.region) e) {}
  let keep := decide (fieldAt old 0 6 = f.step)
  let was (i k : Nat) : Nat := if keep then fieldAt old i k else 0
  let mx := f32.decode (was 40 4)
  let mon := if keep then fieldAt old 6 2 else aMon w
  let out := leBytes 6 f.step ++ leBytes 2 mon ++ leBytes 8 (satAdd 64 (was 8 8) h.elems) ++ leBytes 8 (satAdd 64 (was 16 8) h.zeros) ++
    leBytes 8 (satAdd 64 (was 24 8) h.sats) ++ leBytes 8 (satAdd 64 (was 32 8) h.nonfinite) ++
    leBytes 4 ((if mx.cmp h.maxabs < 0 then h.maxabs else mx).f32bits) ++ leBytes 4 0 ++
    (List.range 16).flatMap (fun i => leBytes 4 (satAdd 32 (was (48 + 4 * i) 4) (h.hist.getD i 0))) ++ leBytes 16 0
  ⟨s.flushed x (els.any (fun e => (readEl subn da.fmt e).flushed)), out, failed ((els.map (·.bad)).foldl worseDetail 0), h.elems⟩

/-- The effect of RATIO on its record (R361, R365). -/
def staRatio (x : Executor) (w : W128) (s : State) (f : Flight) (old : List Byte) : StaDone :=
  let da := s.descr x (fA w)
  let a := s.load (s.subn x) da
  let b := s.load (s.subn x) (s.descr x (fB w))
  let rm := Rm.nearest
  let sq (t : Tens) (k : Nat) : Num := sum32 rm k ((nums rm t.els).map (fun v => st32 rm (v.mul v)))
  let keep := decide (fieldAt old 0 6 = f.step)
  let was (i k : Nat) : Nat := if keep then fieldAt old i k else 0
  let mon := if keep then fieldAt old 6 2 else aMon w
  let u := st32 rm ((f32.decode (was 8 4)).add (sq a 12))
  let v := st32 rm ((f32.decode (was 12 4)).add (sq b 13))
  let ratio := if v.isZero then (if u.isZero then Num.zero else .inf false) else st32 rm (st32 rm (u.div v)).sqrt
  let out := leBytes 6 f.step ++ leBytes 2 mon ++ leBytes 4 u.f32bits ++ leBytes 4 v.f32bits ++ leBytes 4 ratio.f32bits ++
    leBytes 8 (satAdd 64 (was 20 8) da.count) ++ leBytes 36 0
  ⟨s.flushed x (a.flushed || b.flushed), out, failed (worseDetail (badOf a.els) (badOf b.els)), da.count⟩

/-- The watch record of a layer (R368). -/
structure Watch where
  step : Nat
  mon : Nat
  nonzero : Bool
  rlow : Bool
  opened : Bool
  count : Nat
  ratio : Nat
  raised : Nat
  runStart : Nat
  deriving DecidableEq, Repr

/-- The watch record of 64 bytes. -/
def Watch.ofBytes (l : List Byte) : Watch :=
  { step := fieldAt l 0 6, mon := fieldAt l 6 2, nonzero := (fieldAt l 8 1).testBit 0, rlow := (fieldAt l 8 1).testBit 1
    opened := (fieldAt l 8 1).testBit 7, count := fieldAt l 12 4, ratio := fieldAt l 16 4, raised := fieldAt l 20 4
    runStart := fieldAt l 24 6 }

/-- The 64 bytes of a watch record. -/
def Watch.bytes (r : Watch) : List Byte :=
  leBytes 6 r.step ++ leBytes 2 r.mon ++ leBytes 1 (bit1 r.nonzero + 2 * bit1 r.rlow + 128 * bit1 r.opened) ++ leBytes 3 0 ++
  leBytes 4 r.count ++ leBytes 4 r.ratio ++ leBytes 4 r.raised ++ leBytes 6 r.runStart ++ leBytes 34 0

/-- One SZW (R366): the record after it, and the record as it stood when a report was due. -/
def szw (r : Watch) (step mon limit floor_ : Nat) (nonzero : Bool) (b : Option (Nat × Nat)) : Watch × Option (Watch × Nat) :=
  let close := r.opened && r.step != step
  let silent := !r.nonzero || r.rlow
  let r1 : Watch := if close then
      (if silent then { r with count := min (r.count + 1) (2 ^ 32 - 1) } else { r with count := 0, runStart := step }) else r
  let due := close && silent && limit != 0 && r1.count % (max limit 1) == 0
  let rep : Option (Watch × Nat) := if due then some (r1, bit1 r.nonzero) else none
  let r2 : Watch := if due then { r1 with raised := (r1.raised + 1) % 2 ^ 32 } else r1
  let r3 : Watch := if close then { r2 with nonzero := false, rlow := false } else r2
  let r4 : Watch := if r3.opened then r3 else { r3 with runStart := step }
  let r5 : Watch := { r4 with opened := true, step := step, mon := mon, nonzero := r4.nonzero || nonzero }
  match b with
  | some (bs, br) =>
    if bs = step then
      let x := f32.decode br
      let y := f32.decode floor_
      ({ r5 with ratio := br, rlow := !x.isNan && !y.isNan && decide (x.cmp y < 0) }, rep)
    else (r5, rep)
  | none => (r5, rep)

/-- The effect of SZW on its record (R366 to R369). -/
def staSzw (x : Executor) (w : W128) (c : Cell) (s : State) (f : Flight) (old : List Byte) : StaDone :=
  let a := s.load (s.subn x) (s.descr x (fA w))
  let bg := s.readBytes (s.descr x (fB w)).base 64
  let b := if fB w ≠ 0 then some (fieldAt bg.bytes 0 6, fieldAt bg.bytes 16 4) else none
  let nonzero := a.els.any (fun e => e.bad == 0 && !e.num.isZero)
  let d := s.descr x (fD w)
  let (r, rep) := szw (Watch.ofBytes old) f.step (aMon w) (s.fld .NUM_SZ_LIMIT x.region) (s.fld .NUM_SZ_FLOOR x.region) nonzero b
  let s := match rep with
    | none => s
    | some (q, cause) =>
      let s := s.ringPut (.numeric c.region) (EventRec.bytes {
        type := 0x08, status := 0x41, source := c.val, opcode := f.cls * 1024 + f.op, cause := cause, region := c.region.val
        addr := f.addr, epoch := f.epoch, step := f.step, time := s.fclk c.region
        mid := leBytes 2 0 ++ leBytes 2 q.mon ++ leBytes 2 0 ++ leBytes 4 q.count ++ leBytes 4 q.ratio
        tail := leBytes 6 d.base })
      (s.bump .NUM_EVCNT_SILENT c.region).setFld .NUM_STAT_SILENT c.region 1
  let bad := worseDetail (badOf a.els) (if fB w ≠ 0 then bg.detail else 0)
  ⟨s.flushed x a.flushed, r.bytes, worst (if rep.isSome then (0x41, 0) else (0, 0)) (failed bad), a.els.length⟩

/-- What an STA reads beside its record. -/
def staOps (op : Nat) (x : Executor) (w : W128) (s : State) : List Desc :=
  s.descr x (fA w) :: (if op = 1 ∨ (op = 2 ∧ fB w ≠ 0) then [s.descr x (fB w)] else [])

/-- Whether a monitor record is another writer's as well (R362): another cell wrote it last, or another instruction that writes it is
still in flight, so that no token orders the two. -/
def State.sharesRecord (s : State) (c : Cell) (uid : Nat) (d : Desc) : Bool :=
  let who := Tbl.get s.mem.owner 0 (canonical d.base / 64)
  (who != 0 && who != c.val + 1) ||
  s.execs.any (fun p => p.2.flights.any (fun f =>
    f.uid != uid && f.cls == 0xA && !(overlaps f.writes d.spans).isEmpty))

/-- The effect of an STA: its record is read, changed and written; one that has two writers has undefined contents (R362). -/
def staEff (op : Nat) (x : Executor) (w : W128) (c : Cell) (s : State) (f : Flight) : State × Flight :=
  let d := (s.descr x (fD w)).plain
  let g := s.readBytes d.base (4 * d.extent 0)
  let s := s.logAbandoned c (staOps op x w s)
  let r := if op = 0 then staShares x w s f g.bytes else if op = 1 then staRatio x w s f g.bytes else staSzw x w c s f g.bytes
  let shared := r.s.sharesRecord c f.uid d
  let out := if shared then r.s.freeBytes d.base (4 * d.extent 0) else r.rec_
  let q := (r.s.iff shared State.tick).writeBytes d.who d.cls d.base out (decide (g.detail ≠ 0))
  let t := q.1.setMem { q.1.mem with owner := Tbl.set q.1.mem.owner 0 (canonical d.base / 64) (c.val + 1) }
  let o := worst r.o (failed (worseDetail g.detail q.2))
  (t.sticky x o.1, { f with status := o.1, detail := o.2, count := r.n })

/-- One STA at dispatch: one that its monitor selection leaves out does nothing. -/
def staRun (op : Nat) (x : Executor) (w : W128) (s : State) (selected : Bool) : Act :=
  let d := (s.descr x (fD w)).plain
  let ops := staOps op x w s
  if !selected then queued x w .vector (some (fD w)) s (fun s f => (s, f))
  else engine x w .vector (some (fD w)) (aBsu w) s [d] ops (staEff op x w) none (aBsu w && staFits ops)

/-- STA.SHARES (R361, R363, R364). -/
def execStaShares (x : Executor) (w : W128) (s : State) : Answer :=
  issue 0xA 0 x w s (fun s => staNeed x w s 32 false false) (fun s =>
    staRun 0 x w s ((s.fld .NUM_MON_SEL_SEL x.region) % 2 == 1))

/-- STA.RATIO (R361, R365). -/
def execStaRatio (x : Executor) (w : W128) (s : State) : Answer :=
  issue 0xA 1 x w s (fun s => staNeed x w s 16 true true) (fun s => staRun 1 x w s (2 ≤ s.fld .NUM_MON_SEL_SEL x.region))

/-- STA.SZW (R366 to R369). -/
def execStaSzw (x : Executor) (w : W128) (s : State) : Answer :=
  issue 0xA 2 x w s (fun s => staNeed x w s 16 (fB w != 0) false) (fun s => staRun 2 x w s true)

end Sys2Proof.Machine
end

