-- ==== Sys2Proof/Machine/Moves.lean ====
section
/-! DEFINITION. The tensor moves within the device: COPY with its streams, parks and recalls, GATHER and SCATADD (07: R274 to
R277, R634; 08: R331, R332; 11: R418). -/

namespace Sys2Proof.Machine

/-- The class a tensor move is charged to (R274). -/
def moveClass (w : W128) (d : Desc) (other : Option Nat) : Nat :=
  if wf w 58 1 = 1 then wf w 59 3 else other.getD d.cls

/-- The address and length of what an element plane and its side plane take. -/
def Desc.sideBytes (d : Desc) : Nat := if fmtMx d.fmt then d.blocks * d.rows else if d.fmt = 0x01 then d.count else 0

/-- The bytes a move of a tensor writes. -/
def Desc.allBytes (d : Desc) : Nat := d.bytes + d.sideBytes

/-- The bytes of a range that an access reaches, the parts R51 refuses left out (R277). -/
def State.landed (s : State) (a n : Nat) : Nat :=
  (splitRange a n).foldl (fun (t : Nat) p => if (s.place (canonical p.1)).memory then t + p.2 else t) 0

/-- The bytes of a destination that a move of all of it writes. -/
def State.landedAll (s : State) (d : Desc) : Nat := d.spans.foldl (fun (t : Nat) p => t + s.landed p.1 p.2) 0

/-- The frame of a tensor move: sleeping blocks are woken (R60), lines in use and slots being retired are waited for, and the effect
follows. -/
def tensorMove (x : Executor) (w : W128) (dest : Nat) (s : State) (q : QueueId) (reads writes : List (Nat × Nat))
    (eff : State → Flight → State × Flight) : Act :=
  let all := reads ++ writes
  if !(s.asleep all).isEmpty then .wake (s.asleep all)
  else if !all.all (fun p => s.rangeFree p.1 p.2) then .hold
  else queued x w q (some dest) s eff { reads := reads, writes := writes }

/-- What a move does beside its effect: its reads are charged to its class and recorded where R51 refuses them, and destination bytes
that overlap source bytes are left undefined (R276). -/
def State.moved (s : State) (x : Executor) (cls : Nat) (reads writes : List (Nat × Nat)) (eff : State → State × Flight) : State × Flight :=
  let r := eff (s.noteReads (moverOf x) cls reads)
  (r.1.undef (overlaps writes reads), r.2)

/-- Elements as a tensor move carries them: bits, scale or extension byte, DETAIL. -/
def rawAt (ext : List Nat) (els : List RawEl) (idx : List Nat) : RawEl :=
  let i := (List.range 5).map (fun k => if ext.getD k 1 = 1 then 0 else idx.getD k 0)
  if (List.range 5).any (fun k => decide (ext.getD k 1 ≤ i.getD k 0)) then ⟨0, 0, 0⟩ else els.getD (rank ext i) ⟨0, 0, 0⟩

/-- An element written as a move writes it: zero where R51 refused its source, poison where its source was bad (R277). -/
def RawEl.put (e : RawEl) : Put :=
  if e.bad = 0 then { bits := e.bits, side := e.side } else if e.bad = 3 then { bits := 0, side := 0 } else { bits := 0, bad := true }

/-- A destination written row by row from elements as they are; answers the DETAIL met. -/
def State.storeRaw (s : State) (d : Desc) (f : List Nat → RawEl) : State × Nat :=
  (List.range d.rows).foldl (fun (acc : State × Nat) r =>
    let row := unrank (d.extents.drop 1) r
    let els := (List.range (d.extent 0)).map (fun i => f (i :: row))
    let q := acc.1.writePuts d row 0 (els.map (fun e => ({ e with side := cleanSide d.fmt e } : RawEl).put))
    (q.1, els.foldl (fun (b : Nat) e => worseDetail b e.bad) (worseDetail acc.2 q.2))) (s, 0)

/-- A run of bytes copied with their poison; zeros where R51 refuses the source (R277). -/
def State.copyBytes (s : State) (m : Mover) (cls src dst n : Nat) : State × Nat :=
  let l := s.byteList src n
  let q := s.writeMixed m cls dst (l.map (fun b => if b.2 = 3 then (0, false) else (b.1, b.2 ≠ 0)))
  (q.1, (l.map (·.2)).foldl worseDetail q.2)

/-- The runs a stream occupies that a copy of it takes: header and map, raw slots whole, the lines of coded slots (R418). -/
def State.streamRuns (s : State) (d : Desc) : List (Nat × Nat) :=
  let n := ceilDiv d.bytes 4096
  let map := (s.readBytes (d.base + 512) (mapBytes n)).bytes
  (0, 512 + mapBytes n) :: (List.range n).map (fun j =>
    let o := 512 + mapBytes n + 4096 * j
    if (fieldAt map (j / 8) 1).testBit (j % 8) then
      let clen := leNat (s.readBytes (d.base + o) 2).bytes
      (o, 64 * min 64 (ceilDiv clen 64))
    else (o, 4096))

/-- What a verbatim copy of a stream takes: its runs and the plane beside it, as source ranges with their destinations (R408,
R418). -/
def State.streamMoves (s : State) (d a : Desc) : List ((Nat × Nat) × Nat) :=
  (s.streamRuns a).map (fun p => ((a.base + p.1, p.2), d.base + p.1)) ++
    (if d.sideBytes = 0 then [] else [((a.scale, d.sideBytes), d.scale)])

/-- The ranges a COPY reads (R262, R275). -/
def State.copyReads (s : State) (d a : Desc) : List (Nat × Nat) :=
  if a.compressed && d.compressed then (s.streamMoves d a).map (·.1) else a.readSpans d.extents

/-- The ranges a COPY writes. -/
def State.copyWrites (s : State) (d a : Desc) : List (Nat × Nat) :=
  if a.compressed && d.compressed then (s.streamMoves d a).map (fun p => (p.2, p.1.2)) else d.spans

/-- The bytes of some ranges that an access reaches. -/
def State.landedIn (s : State) (l : List (Nat × Nat)) : Nat := l.foldl (fun (t : Nat) p => t + s.landed p.1 p.2) 0

/-- COPY without a ledger: streams verbatim with the plane beside them, a stream decoded, or elements as they are (R275, R408,
R418). Answers the DETAIL met and the bytes written. -/
def State.copyTensor (s : State) (d a : Desc) : State × Nat × Nat :=
  let n := s.landedIn (s.copyWrites d a)
  if a.compressed && d.compressed then
    let r := (s.streamMoves d a).foldl (fun (acc : State × Nat) p =>
      let q := acc.1.copyBytes d.who d.cls p.1.1 p.2 p.1.2
      (q.1, worseDetail acc.2 q.2)) (s, 0)
    (r.1, r.2, n)
  else
    let els := s.loadRawIn a d.extents
    let q := s.storeRaw d (fun idx => rawAt a.extents els idx)
    (q.1, q.2, n)

/-- The lengths of some ranges together. -/
def rangeBytes (l : List (Nat × Nat)) : Nat := l.foldl (fun (t : Nat) p => t + p.2) 0

/-- The bytes a park writes or a recall reads (R331). -/
def State.moveTraffic (s : State) (d a : Desc) (reads : Bool) : Nat :=
  rangeBytes (if reads then s.copyReads d a else s.copyWrites d a)

/-- What the stash ledger says of a move (R331): nothing, or the ledger afterwards and the DETAIL of a refusal. -/
def Ledger.move (l : Ledger) (slot addr : Nat) (back park : Option Nat) : Ledger × Nat :=
  let l := match back with
    | some n => { l with used := l.used - n }
    | none => l
  match park with
  | none => (l, 0)
  | some n =>
    let refuse (l : Ledger) : Ledger :=
      { l with refused := (l.refused + n) % 2 ^ 64, nref := min (l.nref + 1) 65535
               first := if l.first = 0xFFFF then slot else l.first }
    if l.full then (refuse l, 0x21)
    else if l.quota < l.used + n then (refuse { l with full := true, refAddr := addr, refDetail := 0x20 }, 0x20)
    else ({ l with used := l.used + n, peak := max l.peak (l.used + n) }, 0)

/-- The ledger's part in a COPY (R331): only in a walk with EN = 1, by a sequencer, charged to STASH. -/
def State.stashMove (s : State) (x : Executor) (w : W128) (d a : Desc) : State × Nat :=
  match x with
  | .cell _ => (s, 0)
  | .seq r =>
    let k := s.work r
    let l := k.ledger
    let inPool (b : Nat) : Bool := decide (l.lo ≤ b) && decide (b < l.hi)
    if k.walking && l.en && moveClass w d none == 1 then
      let back := if inPool a.base then some (s.moveTraffic d a true) else none
      let park := if inPool d.base then some (s.moveTraffic d a false) else none
      let (l', det) := l.move (s.fld .SEQ_SLOT_INDEX r) (s.pcAddr x) back park
      (s.setWork r { k with ledger := l', pauseDue := k.pauseDue || det == 0x20 }, det)
    else (s, 0)

/-- What a tensor move within the device needs (R208, R274, R275). -/
def moveNeed (w : W128) (descs : List Nat) (unused : Bool) (bad : Bool) : Need :=
  { rsvd := wf w 0 58 != 0 || unused, descs := descs, dest := some (fD w), bad := bad }

/-- MOV_COPY (R275, R331, R332, R418): a refused park touches nothing. -/
def execMovCopy (x : Executor) (w : W128) (s : State) : Answer :=
  issue 1 0 x w s (fun s =>
    let d := s.descr x (fD w)
    let a := s.descr x (fA w)
    moveNeed w [fD w, fA w] (fB w != 0 || fC w != 0) (d.fmt != a.fmt || (d.compressed && !a.compressed))) (fun s =>
    let d0 := s.descr x (fD w)
    let d := { d0 with cls := moveClass w d0 none }
    let a := s.descr x (fA w)
    let reads := s.copyReads d a
    let writes := s.copyWrites d a
    tensorMove x w (fD w) s (moveQueue x) reads writes (fun t f =>
      let (t, det) := t.stashMove x w d a
      if det ≠ 0 then (t, { f with status := 0x80, detail := det, forced := true, refusedPark := true })
      else t.moved x d.cls reads writes (fun t =>
        let (t, bad, n) := t.copyTensor d a
        (t, { f with status := (failed bad).1, detail := bad, count := n }))))

/-- An index element as a signed number. -/
def RawEl.int32 (e : RawEl) : Int := signedOf 32 e.bits

/-- The ranges that the first n elements of a tensor take, in linear order. -/
def Desc.firstSpans (d : Desc) (n : Nat) : List (Nat × Nat) :=
  if d.compressed then d.spans
  else (List.range (min d.rows (ceilDiv n (d.extent 0)))).flatMap (fun r =>
    d.rowSpans (unrank (d.extents.drop 1) r) (min (d.extent 0) (n - r * d.extent 0)))

/-- Whether an index element names a row (R277, R634): one at a refused address reads as 0, a poison one names none. -/
def RawEl.names (e : RawEl) : Bool := e.bad == 0 || e.bad == 3

/-- The row of A that a row of a GATHER's destination takes, when its index names one (R634). -/
def gatherRow (d a : Desc) (ix : List RawEl) (row : List Nat) : Option (List Nat) :=
  match ix[d.rowNo (0 :: row)]? with
  | none => none
  | some e =>
    let i := e.int32
    if !e.names || i < 0 || (a.extent 1 : Int) ≤ i then none
    else
      let k := i.toNat :: (List.range 3).map (fun n => if a.extent (n + 2) = 1 then 0 else row.getD (n + 1) 0)
      if (List.range 4).any (fun n => decide (a.extent (n + 1) ≤ k.getD n 0)) then none else some k

/-- The ranges a GATHER reads: its indices, and the rows they name. -/
def gatherReads (d a b : Desc) (ix : List RawEl) : List (Nat × Nat) :=
  b.firstSpans d.rows ++ (if a.compressed then a.spans
    else ((List.range d.rows).filterMap (fun r => gatherRow d a ix (unrank (d.extents.drop 1) r))).flatMap (fun k =>
      a.rowSpans k (min (a.extent 0) (d.extent 0))))

/-- Rows at least a byte of which an access reaches. -/
def State.landedRows (s : State) (d : Desc) (rows : List (List Nat)) : Nat :=
  (rows.filter (fun row => decide (0 < s.landed (d.rowAddr (0 :: row)) d.rowBytes))).length

/-- MOV_GATHER (R275, R634). -/
def execMovGather (x : Executor) (w : W128) (s : State) : Answer :=
  issue 1 5 x w s (fun s =>
    moveNeed w [fD w, fA w, fB w] (fC w != 0)
      ((s.descr x (fD w)).fmt != (s.descr x (fA w)).fmt || (s.descr x (fB w)).fmt != 0x0B)) (fun s =>
    let d0 := s.descr x (fD w)
    let d := { d0.plain with cls := moveClass w d0 none }
    let a := s.descr x (fA w)
    let b := s.descr x (fB w)
    let ix := s.loadRaw b
    let reads := gatherReads d a b ix
    tensorMove x w (fD w) s (moveQueue x) reads d.spans (fun t f => t.moved x d.cls reads d.spans (fun t =>
      let els := t.loadRaw a
      let (t, bad) := t.storeRaw d (fun idx =>
        match ix[d.rowNo idx]?, gatherRow d a ix (idx.drop 1) with
        | some e, none => if e.names then ⟨0, 0, e.bad⟩ else ⟨0, 0, 2⟩
        | _, some k =>
          let i := if a.extent 0 = 1 then 0 else idx.getD 0 0
          if a.extent 0 ≤ i then ⟨0, 0, 0⟩ else els.getD (rank a.extents (i :: k)) ⟨0, 0, 0⟩
        | none, none => ⟨0, 0, 0⟩)
      let bad := worseDetail bad ((ix.take d.rows).foldl (fun (m : Nat) (e : RawEl) => worseDetail m (if e.bad = 3 then 3 else 0)) 0)
      (t, { f with status := (failed bad).1, detail := bad
                   count := t.landedRows d ((List.range d.rows).map (unrank (d.extents.drop 1))) }))))

/-- One row of a SCATADD (R634): the row of D it goes to, when its index and its outer dimensions lie in D. -/
def scatRow (d : Desc) (row : List Nat) (i : Int) : Option (List Nat) :=
  if i < 0 ∨ (d.extent 1 : Int) ≤ i then none
  else
    let k := i.toNat :: (List.range 3).map (fun n => if d.extent (n + 2) = 1 then 0 else row.getD (n + 1) 0)
    if (List.range 3).any (fun n => decide (d.extent (n + 2) ≤ k.getD (n + 1) 0)) then none else some k

/-- The rows a SCATADD adds: row of A, row of D, in ascending order. -/
def scatRows (d a : Desc) (ix : List RawEl) : List (List Nat × List Nat) :=
  (List.range a.rows).filterMap (fun j =>
    match ix[j]? with
    | none => none
    | some e =>
      let row := unrank (a.extents.drop 1) j
      if e.names then (scatRow d row e.int32).map (fun k => (row, k)) else none)

/-- The elements of a row of A that a SCATADD reads, and those of the row of D that it adds to. -/
def scatWidth (d a : Desc) : Nat × Nat :=
  if d.extent 0 = 1 then (a.extent 0, 1) else (min (d.extent 0) (a.extent 0), min (d.extent 0) (a.extent 0))

/-- One row of A added into a row of D, each element by one FP32 addition (R634); answers the DETAIL met. -/
def State.scatAdd (s : State) (d a : Desc) (els : List RawEl) (row k : List Nat) : State × Nat :=
  let old := s.byteList (d.rowAddr (0 :: k)) d.rowBytes
  let terms (i : Nat) : List RawEl :=
    (if d.extent 0 = 1 then List.range (a.extent 0) else [i]).map (fun m => rawAt a.extents els (m :: row))
  let out := (List.range (scatWidth d a).2).map (fun i =>
    let (v, vb) := pickElem 0 i old
    (terms i).foldl (fun (acc y : RawEl) =>
      (⟨fadd32 acc.bits (if y.bad = 3 then 0 else y.bits), 0, worseDetail acc.bad y.bad⟩ : RawEl)) ⟨v, 0, vb⟩)
  let q := s.writePuts d k 0 (out.map (fun y => if y.bad = 3 then { bits := y.bits } else y.put))
  (q.1, out.foldl (fun (m : Nat) y => worseDetail m y.bad) q.2)

/-- MOV_SCATADD (R275, R276, R634): rows of A added in ascending order. -/
def execMovScatadd (x : Executor) (w : W128) (s : State) : Answer :=
  issue 1 6 x w s (fun s =>
    moveNeed w [fD w, fA w, fB w] (fC w != 0)
      ((s.descr x (fD w)).fmt != 0 || (s.descr x (fA w)).fmt != 0 || (s.descr x (fB w)).fmt != 0x0B)) (fun s =>
    let d0 := s.descr x (fD w)
    let d := { d0.plain with cls := moveClass w d0 none }
    let a := s.descr x (fA w)
    let b := s.descr x (fB w)
    let ix := s.loadRaw b
    let rows := scatRows d a ix
    let into := rows.flatMap (fun p => d.rowSpans p.2 (scatWidth d a).2)
    let reads := b.firstSpans a.rows ++
      (if a.compressed then a.spans else rows.flatMap (fun p => a.rowSpans p.1 (scatWidth d a).1))
    tensorMove x w (fD w) s (moveQueue x) (reads ++ into) into (fun t f =>
      let t := t.noteReads (moverOf x) d.cls (reads ++ into)
      let els := t.loadRaw a
      let r := rows.foldl (fun (acc : State × Nat) p =>
        let q := acc.1.scatAdd d a els p.1 p.2
        (q.1, worseDetail acc.2 q.2)) (t, 0)
      let bad := (ix.take a.rows).foldl (fun (m : Nat) (e : RawEl) =>
        worseDetail m (if e.bad = 0 then 0 else if e.names then 3 else 2)) r.2
      (r.1.undef (overlaps into reads),
       { f with status := (failed bad).1, detail := bad, count := r.1.landedRows d (rows.map (·.2)), resid := into })))

end Sys2Proof.Machine
end

