-- ==== Sys2Proof/Machine/Cpx.lean ====
section
/-! DEFINITION. Compression: CPX, coded segments in far memory, and the compression and encryption of far channels (07: R302;
11: R404 to R430). -/

namespace Sys2Proof.Machine

/-- The queue CPX runs in. -/
def cpxQueue (x : Executor) : QueueId := if x.isCell then .move else .codec

/-- The bytes of a tensor shaped as another, in linear order and packed, each with its DETAIL (R407). -/
def State.imageBytes (s : State) (d a : Desc) : List (Byte × Nat) :=
  let els := s.loadRawIn a d.extents
  (List.range d.rows).flatMap (fun r =>
    let row := unrank (d.extents.drop 1) r
    let ps := (List.range (d.extent 0)).map (fun i => rawAt a.extents els (i :: row))
    let count := if fmtMx d.fmt then d.blocks * 32 else d.extent 0
    let img := (rowImage d.fmt 0 (ps.map RawEl.put) count (fun _ n => List.replicate n 0)).2
    let worst := ps.foldl (fun (m : Nat) e => worseDetail m e.bad) 0
    img.map (fun b => (b.1, if b.2 then worst else 0)))

/-- A run of bytes with the DETAIL of each as a move writes it: zeros where R51 refused the source, poison where it was bad. -/
def carried (l : List (Byte × Nat)) : List (Byte × Bool) := l.map (fun b => (b.1, b.2 ≠ 0 && b.2 ≠ 3))

/-- Bytes of a run that are no poison. -/
def sound (l : List Byte) : List (Byte × Bool) := l.map (fun b => (b, false))

/-- The side plane of a tensor, shaped as the destination, as runs to be written: extension bytes and block scales are not
compressed (R408). -/
def State.sideRuns (s : State) (d a : Desc) : List (Nat × List (Byte × Bool)) :=
  if d.sideBytes = 0 then []
  else
    let els := s.loadRawIn a d.extents
    (List.range d.rows).map (fun r =>
      let row := unrank (d.extents.drop 1) r
      let ps := (List.range (d.extent 0)).map (fun i => (rawAt a.extents els (i :: row)).put)
      let pick := if fmtMx d.fmt then (List.range d.blocks).map (fun b => ps.getD (32 * b) { bits := 0 }) else ps
      (d.scale + (if fmtMx d.fmt then d.blocks * r else d.extent 0 * r), pick.map (fun p => (BitVec.ofNat 8 p.side, p.bad))))

/-- The map bytes of block flags (R407). -/
def mapOf (flags : List Bool) : List Byte :=
  padTo (mapBytes flags.length) ((List.range (ceilDiv flags.length 8)).map (fun k =>
    BitVec.ofNat 8 ((List.range 8).foldl (fun (acc : Nat) i => acc + bit1 (flags.getD (8 * k + i) false) * 2 ^ i) 0)))

/-- COMP of a source into a stream (R302, R406 to R414): the runs it writes, and the DETAIL of the source. A block with poison bytes is
stored raw, poison included. -/
def State.compRuns (s : State) (d a : Desc) : List (Nat × List (Byte × Bool)) × Nat :=
  let img := s.imageBytes d a
  let (hdr, _, blocks) := compressBuf d.fmt (img.map (·.1))
  let n := blocks.length
  let parts := (List.range n).map (fun j => carried ((img.drop (4096 * j)).take 4096))
  let use := (List.range n).map (fun j => if (parts.getD j []).any (·.2) then none else (blocks.getD j none))
  let slots := (List.range n).map (fun j =>
    (d.base + 512 + mapBytes n + 4096 * j, match use.getD j none with
      | some b => sound b
      | none => let p := parts.getD j []; p ++ List.replicate (4096 - p.length) (0, false)))
  ((d.base, sound hdr) :: (d.base + 512, sound (mapOf (use.map (·.isSome)))) :: (slots ++ s.sideRuns d a),
   img.foldl (fun (m : Nat) b => worseDetail m b.2) 0)

/-- Runs of bytes written by a descriptor's mover in its class; answers the DETAIL of refused addresses. -/
def State.writeRuns (s : State) (d : Desc) (l : List (Nat × List (Byte × Bool))) : State × Nat :=
  l.foldl (fun (acc : State × Nat) p =>
    let q := acc.1.writeMixed d.who d.cls p.1 p.2
    (q.1, worseDetail acc.2 q.2)) (s, 0)

/-- What a CPX needs (R208, R302): a compressed source is decoded on the way in (R264). -/
def cpxNeed (x : Executor) (w : W128) (s : State) (bad : Bool) : Need :=
  { rsvd := wf w 0 62 != 0 || fB w != 0 || fC w != 0, descs := [fD w, fA w], dest := some (fD w)
    bad := bad || (s.descr x (fD w)).fmt != (s.descr x (fA w)).fmt }

/-- CPX_COMP (R264, R267, R302): D must be a stream. -/
def execCpxComp (x : Executor) (w : W128) (s : State) : Answer :=
  issue 8 0 x w s (fun s => cpxNeed x w s (!(s.descr x (fD w)).compressed)) (fun s =>
    let d := s.descr x (fD w)
    let a := s.descr x (fA w)
    let reads := a.readSpans d.extents
    let writes := (s.compRuns d a).1.map (fun p => (p.1, p.2.length))
    tensorMove x w (fD w) s (cpxQueue x) reads writes (fun t f => t.moved x a.cls reads writes (fun t =>
      let (runs, bad) := t.compRuns d a
      let q := t.writeRuns d runs
      let bad := worseDetail bad q.2
      (q.1, { f with status := (failed bad).1, detail := bad, count := t.landedIn writes }))))

/-- CPX_EXPAND (R264, R267, R302): a stream decoded into D, which is written uncompressed whatever its COMPRESSED bit. -/
def execCpxExpand (x : Executor) (w : W128) (s : State) : Answer :=
  issue 8 1 x w s (fun s => cpxNeed x w s (!(s.descr x (fA w)).compressed)) (fun s =>
    let d := (s.descr x (fD w)).plain
    let a := s.descr x (fA w)
    let reads := s.copyReads d a
    let writes := s.copyWrites d a
    tensorMove x w (fD w) s (cpxQueue x) reads writes (fun t f => t.moved x a.cls reads writes (fun t =>
      let (t, bad, n) := t.copyTensor d a
      (t, { f with status := (failed bad).1, detail := bad, count := n }))))

/-- The bytes a segment expands to: coded blocks decoded, raw ones as they are; a block that fails, or lies at or beyond NBLOCKS, is
none (R415). -/
def expandSegment (g : CodedSegment) : List (Option (List Byte)) :=
  let fmt := fieldAt g.header 4 1 % 64
  (g.blocks.zip (List.range g.blocks.length)).map (fun (q : (Bool × List Byte) × Nat) =>
    if !q.1.1 then some (padTo 4096 q.1.2)
    else match readHeader fmt g.header with
      | some (e, m, n) => if q.2 < n then decodeBlock fmt e m (padTo 4096 q.1.2) else none
      | none => none)

/-- The compression window of a far channel: its first segment and the first after it (R422). -/
def State.czWindow (s : State) (f : Nat) : Nat × Nat := (s.fld .FMC_CZ_WIN_BASE f * 65536, s.fld .FMC_CZ_WIN_END f * 65536)

/-- A compressed segment arrives at its far channel (R422, R423): stored coded within the window while EN is 1, else expanded
and stored plain, a block that fails its check as poison with an error record of its region (R415, R426; DEDUCED for a block that
fails as it arrives, log entry 99). The home clears the segment's slots first, and waits for lines in use. The blocks of a list stay as they
are in memory: their bytes arrive on their own. -/
def State.storeSegment (s : State) (m : Mover) (cls f : Nat) (g : CodedSegment) (keep : List Nat := []) : State :=
  let line0 := g.dpa / 64
  let (lo, hi) := s.czWindow f
  let s := (List.range 1024).foldl (fun (s : State) i => s.invalidateAll cls (line0 + i)) s
  if s.flag .FMC_CZ_CTRL_EN f && decide (lo ≤ g.dpa) && decide (g.dpa < hi) then
    let table := s.fld .FMC_CZ_CTRL_TBASE f * 65536 + (g.dpa - lo) / 65536 * 512
    let s := s.setMem { s.mem with coded := (List.range 16).foldl (fun (m : Tbl Nat) i =>
      if keep.contains i then m else Tbl.set m 0 (g.dpa / 4096 + i) 0) s.mem.coded }
    let s := (s.writeBytes m cls table (padTo 512 g.header)).1
    let s := (List.range 16).foldl (fun (s : State) i =>
      let b := g.blocks.getD i (false, [])
      let at_ := g.dpa + 4096 * i
      if keep.contains i then s
      else if b.1 then
        let len := 64 * ceilDiv b.2.length 64
        let s := (s.writeBytes m cls at_ (padTo len b.2)).1
        s.setMem { s.mem with coded := Tbl.set s.mem.coded 0 (at_ / 4096) (table + 1) }
      else (s.writeBytes m cls at_ (padTo 4096 b.2)).1) s
    s.bump .FMC_CZ_STAT_SEGMENTS f
  else
    (List.range 16).foldl (fun (s : State) i =>
      if keep.contains i then s
      else match (expandSegment g).getD i none with
      | some l => (s.writeBytes m cls (g.dpa + 4096 * i) l).1
      | none =>
        let s := (s.writeBytes m cls (g.dpa + 4096 * i) (List.replicate 4096 0) true).1
        s.raise (.region (Fin.ofNat 12 f)) 0x23 0xC0 0x05 1 (addr := g.dpa + 4096 * i)) s

/-- SEGMENT_STORE_CODED (R422, R423): for a segment-aligned address in the channel's populated range. The command names no sender and
no class: the channel's home writes, in class MIRROR, one of the two that R404 gives (DESIGN CHOICE, log entry 17). -/
def execSegmentStoreCoded (f : Chan) (seg : CodedSegment) (s : State) : Answer :=
  .next (if seg.dpa % 65536 = 0 ∧ s.place seg.dpa = .far f.val ∧ s.rangeFree seg.dpa 65536 = true then s.storeSegment ⟨240 + f.val, none⟩ 3 f seg else s)

/-- The far channel a requester's select register names. -/
def State.selChan (s : State) (who : Bank) : Option Chan :=
  if h : s.fld .FMC_SEL_INDEX who.code < 12 then some ⟨s.fld .FMC_SEL_INDEX who.code, h⟩ else none

/-- A write of FMC_CZ_CTRL (R429): TBASE only while EN is 0; one that sets EN needs a sound window and table area, with room for
512 bytes per segment, or is ignored whole and sets CFGERR. -/
def State.writeCzCtrl (s : State) (f : Nat) (v : Nat) : State :=
  let on := s.flag .FMC_CZ_CTRL_EN f
  let based := s.setFld .FMC_CZ_CTRL_TBASE f (bitsOf v 16 32)
  if on then s.iff (!bitOf v 63) (fun s => s.setFld .FMC_CZ_CTRL_EN f 0)
  else if !bitOf v 63 then based
  else
    let (lo, hi) := s.czWindow f
    let t := bitsOf v 16 32 * 65536
    let tEnd := t + (hi - lo) / 65536 * 512
    let first := 0x100000000000 + f * 0x8000000000
    let last := first + s.farBytes f
    let inside (a b : Nat) : Bool := decide (first ≤ a) && decide (b ≤ last)
    if decide (hi ≤ lo) || !inside lo hi || !inside t tEnd || (decide (t < hi) && decide (lo < tEnd)) then s.setFld .FMC_CZ_STAT_CFGERR f 1
    else based.setFld .FMC_CZ_CTRL_EN f 1

/-- FMC_CZ_ENABLE (R429), through the writer's FMC_SEL. -/
def execFmcCzEnable (who : Bank) (v : W64) (s : State) : Answer :=
  .next (let s := s.otherAccess who; match s.selChan who with
    | some f => s.writeCzCtrl f v.toNat
    | none => s)

/-- Lines stored before encryption was turned on, or off, are read back through decryption, or without it (R427, R430): their bytes
become free values. -/
def State.garble (s : State) (f : Nat) : State :=
  let lo := 0x100000000000 + f * 0x8000000000
  let hi := lo + 0x8000000000
  let lines := (s.mem.bytes.filter (fun p => decide (lo ≤ p.1) && decide (p.1 < hi))).map (fun p => p.1 / 64)
  let m := lines.eraseDups.foldl (fun (m : Mem) l =>
    m.setBytes (l * 64) ((List.range 64).map (fun i => Sys2Proof.Config.undefByte s.free (l * 64 + i)))) s.mem
  (s.setMem m).tick

/-- A write of FMC_XTS (R9, R430): EN is set only while KEYED is 1, and keeps its value after the seal. -/
def State.writeXts (s : State) (f : Nat) (v : Nat) : State :=
  if s.flag .KTL_BOOT_SEALED 0 then s
  else if !bitOf v 0 then (s.iff (s.flag .FMC_XTS_EN f) (fun s => s.garble f)).setFld .FMC_XTS_EN f 0
  else if !s.flag .FMC_XTS_KEYED f || s.flag .FMC_XTS_EN f then s
  else (s.garble f).setFld .FMC_XTS_EN f 1

/-- FMC_XTS_ENABLE (R430), through the writer's FMC_SEL. -/
def execFmcXtsEnable (who : Bank) (v : W32) (s : State) : Answer :=
  .next (let s := s.otherAccess who; match s.selChan who with
    | some f => s.writeXts f v.toNat
    | none => s)

end Sys2Proof.Machine
end

