-- ==== Sys2Proof/Machine/Groups.lean ====
section
/-! DEFINITION. Parameter groups: entries, setup and release, row counters (10: R378 to R381, R400, R401, R403). -/

namespace Sys2Proof.Machine

/-- A group entry by its fields (R379). -/
structure Group0 where
  rule : Nat
  clip : Bool
  nesterov : Bool
  rowlazy : Bool
  keeprc : Bool
  srbits : Nat
  mfmt : Nat
  iters : Nat
  stream : Nat
  indexBase : Nat
  lr : Nat
  wd : Nat
  beta1 : Nat
  beta2 : Nat
  eps : Nat
  maxnorm : Nat
  normPtr : Nat
  every : Nat
  damp : Nat
  tol : Nat
  rcRows : Nat
  deriving DecidableEq, Repr

/-- The entry of 128 bytes. -/
def Group0.ofBytes (l : List Byte) : Group0 :=
  let c := fieldAt l 0 1
  { rule := c % 4, clip := c.testBit 2, nesterov := c.testBit 3, rowlazy := c.testBit 4, keeprc := c.testBit 5, srbits := c / 64
    mfmt := fieldAt l 1 1, iters := fieldAt l 2 1, stream := fieldAt l 4 4, indexBase := fieldAt l 8 8, lr := fieldAt l 16 4
    wd := fieldAt l 20 4, beta1 := fieldAt l 24 4, beta2 := fieldAt l 28 4, eps := fieldAt l 32 4, maxnorm := fieldAt l 36 4
    normPtr := fieldAt l 40 6, every := fieldAt l 46 2, damp := fieldAt l 48 4, tol := fieldAt l 52 4, rcRows := fieldAt l 56 4 }

/-- N of stochastic rounding (R138, R379). -/
def Group0.srN (g : Group0) : Nat := if g.srbits = 1 then 12 else if g.srbits = 2 then 8 else 16

/-- Whether FP32 bits are a finite number. -/
def finite32 (b : Nat) : Bool :=
  match f32.decode b with
  | .fin _ _ _ => true
  | _ => false

/-- Whether FP32 bits are a finite number that is not negative. -/
def nonNeg32 (b : Nat) : Bool := finite32 b && decide (0 ≤ (f32.decode b).cmp (.fin false 0 0))

/-- Whether FP32 bits are finite and not zero. -/
def nonZero32 (b : Nat) : Bool := finite32 b && !(f32.decode b).isZero

/-- Whether an entry is valid (R380). -/
def entryValid (l : List Byte) : Bool :=
  let g := Group0.ofBytes l
  let unit (b : Nat) : Bool := nonNeg32 b && decide ((f32.decode b).cmp (.fin false 1 0) < 0)
  fieldAt l 3 1 == 0 && fieldAt l 60 68 == 0 && g.srbits != 3 && (g.mfmt == 0 || g.mfmt == 2) &&
  nonNeg32 g.lr && nonNeg32 g.wd && nonNeg32 g.eps && unit g.beta1 && unit g.beta2 &&
  (!g.clip || (nonNeg32 g.maxnorm && nonZero32 g.maxnorm)) && (!g.nesterov || g.rule == 1) &&
  !(g.rowlazy && (g.rule == 1 || g.rule == 3)) &&
  (g.rule != 3 || (g.iters != 0 && g.every != 0 && nonZero32 g.damp && nonZero32 g.tol))

/-- The counters a group holds. -/
def Upd.held (u : Upd) (group : Nat) : Option RcHold := u.counters.find? (fun h => h.group == group)

/-- The free runs between held counters, which stand in ascending order: first and length (R400). -/
def freeRuns : Nat → List RcHold → List (Nat × Nat)
  | n, [] => [(n, 2 ^ 24 - n)]
  | n, h :: t => (n, h.first - n) :: freeRuns (h.first + h.count) t

/-- Inserts a hold in ascending order of its first counter. -/
def insertHold (h : RcHold) : List RcHold → List RcHold
  | [] => [h]
  | k :: t => if h.first ≤ k.first then h :: k :: t else k :: insertHold h t

/-- The lowest free position a run of counters fits (R400). -/
def placeRun (l : List RcHold) (n : Nat) : Option Nat := ((freeRuns 0 l).find? (fun p => decide (n ≤ p.2))).map (·.1)

/-- UPD_RCFREE follows the holdings. -/
def State.showFree (s : State) : State :=
  let runs := (freeRuns 0 s.upd.counters).map (·.2)
  (s.setFld .UPD_RCFREE_LARGEST 0 (runs.foldl max 0)).setFld .UPD_RCFREE_FREE 0 (runs.foldl (· + ·) 0)

/-- A group command ends with a RESULT (R378, R380). -/
def State.pgEnd (s : State) (result rcFirst : Nat) : State :=
  let s := { s with upd := { s.upd with pend := none } }
  let s := (s.setFld .UPD_PGSTAT_DONE 0 1).setFld .UPD_PGSTAT_BUSY 0 0
  (s.setFld .UPD_PGSTAT_RESULT 0 result).setFld .UPD_PGSTAT_RC_FIRST 0 rcFirst

/-- Shows whether a group is set up (UPD_PGV). -/
def State.showValid (s : State) (group : Nat) (on : Bool) : State :=
  let v := s.fld .UPD_PGV_VALID 0 (group / 32)
  let b := 2 ^ (group % 32)
  s.setFld .UPD_PGV_VALID 0 ((v - v / b % 2 * b) + bit1 on * b) (group / 32)

/-- The address of the row counters (R400). -/
def State.rcBase (s : State) : Nat := s.fld .UPD_RCBASE_BASE 0 * 4096

/-- Who reads a group's entry and clears its counters: the spec names no requester; the bank-side unit of the region the command was
written in does, in class UPDATE (DESIGN CHOICE, log entry 95). -/
def groupMover (r : Nat) : Mover := ⟨188 + r, none⟩

/-- Whether a setup keeps the counters its group holds (R401). -/
def State.keepsCounters (s : State) (group : Nat) (g : Group0) : Bool :=
  match s.upd.held group with
  | some h => g.keeprc && h.count == g.rcRows
  | none => false

/-- The counters a setup allocates (R400): none where it needs none; of one that needs some, whether a run of them is free. -/
def State.pgAlloc (s : State) (group : Nat) (g : Group0) : Option (Option Nat) :=
  if s.keepsCounters group g || !g.rowlazy then none
  else some (placeRun (s.upd.counters.filter (fun h => h.group ≠ group)) g.rcRows)

/-- A setup's effect on the table and the counters (R400, R401). -/
def State.pgSetup (s : State) (p : PgPend) : State :=
  let group := p.group
  let g := Group0.ofBytes p.entry
  let put (s : State) (first : Nat) : State :=
    let s := { s with upd := { s.upd with groups := Tbl.set s.upd.groups [] group p.entry } }
    ((s.showValid group true).showFree).pgEnd 0 first
  let rest := s.upd.counters.filter (fun h => h.group ≠ group)
  if s.keepsCounters group g then put s (if g.rowlazy then ((s.upd.held group).map (·.first)).getD 0 else 0)
  else match s.pgAlloc group g with
    | none => put { s with upd := { s.upd with counters := rest } } 0
    | some none => s.pgEnd 2 0
    | some (some first) =>
      let s := { s with upd := { s.upd with counters := insertHold ⟨group, first, g.rcRows⟩ rest } }
      put (s.writeBytes (groupMover p.region) 6 (s.rcBase + 8 * first) (List.replicate (8 * g.rcRows) 0)).1 first

/-- A release's effect (R401). -/
def State.pgRelease (s : State) (group : Nat) : State :=
  let s := { s with upd := { s.upd with
    groups := Tbl.erase s.upd.groups group, counters := s.upd.counters.filter (fun h => h.group ≠ group) } }
  ((s.showValid group false).showFree).pgEnd 0 0

/-- Whether a UPD that names a group is in flight in any region. -/
def State.updInFlight (s : State) (group : Nat) : Bool :=
  s.execs.any (fun p => p.2.flights.any (fun f => f.pgrp == some group))

/-- Whether a setup frees or allocates counters (R401). -/
def State.touchesCounters (s : State) (group : Nat) (entry : List Byte) : Bool :=
  let g := Group0.ofBytes entry
  !s.keepsCounters group g && ((s.upd.held group).isSome || g.rowlazy)

/-- A group command waits. -/
def State.pgHold (s : State) (p : PgPend) : State := { s with upd := { s.upd with pend := some p } }.setFld .UPD_PGSTAT_BUSY 0 1

/-- A group command acts, or waits: for instructions that name its group where it touches counters (R401), and for the counters it
clears. -/
def State.pgAct (s : State) (p : PgPend) : State :=
  if (p.release || s.touchesCounters p.group p.entry) && s.updInFlight p.group then s.pgHold p
  else if p.release then s.pgRelease p.group
  else match s.pgAlloc p.group (Group0.ofBytes p.entry) with
    | some (some first) => match s.waitFor [(s.rcBase + 8 * first, 8 * (Group0.ofBytes p.entry).rcRows)] with
      | some t => t.pgHold p
      | none => s.pgSetup p
    | _ => s.pgSetup p

/-- A group command goes on: a setup reads its entry, once the block that holds it is awake (R60), and checks it (R378, R380). -/
def State.pgStep (s : State) (p : PgPend) : State :=
  if p.release || !p.entry.isEmpty then s.pgAct p
  else match s.waitFor [(p.src, 128)] with
    | some t => t.pgHold p
    | none =>
      let got := s.readBytes p.src 128
      let s := s.noteRead (groupMover p.region) 6 p.src 128
      if got.detail ≠ 0 then s.pgEnd 4 0
      else if !entryValid got.bytes then s.pgEnd 1 0
      else if (Group0.ofBytes got.bytes).rowlazy && !s.flag .UPD_RCBASE_EN 0 then s.pgEnd 3 0
      else s.pgAct { p with entry := got.bytes }

/-- A GO of UPD_PGCMD (R378, R380, R401); ignored while BUSY is 1. -/
def State.pgGo (s : State) (r op group : Nat) : State :=
  if s.flag .UPD_PGSTAT_BUSY 0 then s
  else
    let s := ((s.setFld .UPD_PGSTAT_DONE 0 0).setFld .UPD_PGSTAT_GROUP 0 group).setFld .UPD_PGSTAT_RC_FIRST 0 0
    if op = 0 then s.pgStep { release := false, group := group, region := r, src := s.fld .UPD_PGSRC_ADDR 0 * 128 }
    else if op = 1 then
      if Tbl.get s.upd.groups [] group = [] then s.pgEnd 5 0 else s.pgStep { release := true, group := group, region := r }
    else s.pgEnd 1 0

/-- A write of UPD_PGCMD in a region's window. -/
def State.writePgCmd (s : State) (r v : Nat) : State :=
  let s := (s.setFld .UPD_PGCMD_OP 0 (bitsOf v 8 2)).setFld .UPD_PGCMD_GROUP 0 (bitsOf v 0 8)
  if bitOf v 31 then s.pgGo r (bitsOf v 8 2) (bitsOf v 0 8) else s

/-- PG_SETUP (R378 to R380, R400): a write of UPD_PGCMD whose OP is 0b00, through the writer's REG_SEL. -/
def execPgSetup (who : Bank) (v : W32) (s : State) : Answer :=
  .next (let s := s.otherAccess who; match s.selRegion who with
    | some r => if bitsOf v.toNat 8 2 = 0 then s.writePgCmd r v.toNat else s
    | none => s)

/-- PG_RELEASE (R401): a write of UPD_PGCMD whose OP is 0b01. -/
def execPgRelease (who : Bank) (v : W32) (s : State) : Answer :=
  .next (let s := s.otherAccess who; match s.selRegion who with
    | some r => if bitsOf v.toNat 8 2 = 1 then s.writePgCmd r v.toNat else s
    | none => s)

/-- PG_WAIT_END (R401): the waiting command acts once no UPD that names its group is in flight, and what it reads or clears is free. -/
def execPgWaitEnd (s : State) : Answer :=
  .next (match s.upd.pend with
    | some p => s.pgStep p
    | none => s)

/-- A write of UPD_RCBASE, ignored while any group holds counters (R403). -/
def State.writeRcBase (s : State) (v : Nat) : State :=
  if s.upd.counters.isEmpty then (s.setFld .UPD_RCBASE_EN 0 (bitsOf v 63 1)).setFld .UPD_RCBASE_BASE 0 (bitsOf v 12 36) else s

end Sys2Proof.Machine
end

