-- ==== Sys2Proof/Machine/Parts.lean ====
section
/-! DEFINITION. How a tensor crosses a link: runs of bytes, the transactions they are cut into, and compressed segments (07: R262,
R277; 11: R404, R419, R422; 12: R445, R459). -/

namespace Sys2Proof.Machine

/-- Runs of bytes that share one DETAIL, with the offset of each. -/
def detailRuns : Nat → List (Byte × Nat) → List (Nat × Nat × List Byte)
  | _, [] => []
  | o, (b, d) :: t =>
    match detailRuns (o + 1) t with
    | [] => [(o, d, [b])]
    | (p, e, l) :: r => if e = d then (o, d, b :: l) :: r else (o, d, [b]) :: (p, e, l) :: r

/-- A run of bytes on its way to an address, each byte with whether it is poison. -/
abbrev Run := Nat × List (Byte × Bool)

/-- The rows of a tensor as another describes them, in linear order: the run of each row, and of each row of its scale or
extension plane (R262, R277). -/
def remoteRuns (d : Desc) (ext : List Nat) (els : List RawEl) : List Run :=
  let rows := (List.range d.rows).map (fun r =>
    let row := unrank (d.extents.drop 1) r
    (r, row, (List.range (d.extent 0)).map (fun i => (rawAt ext els (i :: row)).put)))
  let main := rows.map (fun p =>
    let count := if fmtMx d.fmt then d.blocks * 32 else d.extent 0
    (d.rowAddr (0 :: p.2.1), (rowImage d.fmt 0 p.2.2 count (fun _ n => List.replicate n 0)).2))
  let side := if d.sideBytes = 0 then [] else rows.map (fun p =>
    let pick := if fmtMx d.fmt then (List.range d.blocks).map (fun b => p.2.2.getD (32 * b) { bits := 0 }) else p.2.2
    (d.scale + (if fmtMx d.fmt then d.blocks else d.extent 0) * p.1, pick.map (fun q => ((BitVec.ofNat 8 q.side : Byte), q.bad))))
  main ++ side

/-- Runs that follow one another at once joined. -/
def joinRuns : List Run → List Run
  | [] => []
  | (a, l) :: t => match joinRuns t with
    | [] => [(a, l)]
    | (b, m) :: r => if a + l.length = b then (a, l ++ m) :: r else (a, l) :: (b, m) :: r

/-- The parts of a range that lie within one 4 KiB page each (R445). -/
def splitPages (a n : Nat) : List (Nat × Nat) :=
  if n = 0 then [] else (List.range ((a + n - 1) / 4096 - a / 4096 + 1)).map (fun k =>
    let lo := max a ((a / 4096 + k) * 4096)
    let hi := min (a + n) ((a / 4096 + k) * 4096 + 4096)
    (lo, hi - lo))

/-- A run cut into transactions: pages, and within them stretches of one poison. -/
def cutRun (r : Run) : List (Nat × Bool × List Byte) :=
  (splitPages r.1 r.2.length).flatMap (fun p =>
    let part := (r.2.drop (p.1 - r.1)).take p.2
    (detailRuns 0 (part.map (fun b => (b.1, bit1 b.2)))).map (fun q => (p.1 + q.1, decide (q.2.1 ≠ 0), q.2.2)))

/-- One WR: where, whether compressed, poison, its bytes, and how many bytes of the tensor its confirmation counts. -/
structure WrPart where
  addr : Nat
  comp : Bool
  poison : Bool
  bytes : List Byte
  counts : Nat
  deriving DecidableEq, Repr

/-- A whole segment as it crosses the link (R404, R419, R422): its table header and block map, then each block, coded or raw. -/
def segmentParts (fmt addr : Nat) (l : List Byte) : List WrPart :=
  let (hdr, flags, blocks) := compressBuf fmt l
  ⟨addr, true, false, hdr ++ mapOf flags, 0⟩ :: (List.range 16).map (fun j =>
    match blocks.getD j none with
    | some b => ⟨addr + 4096 * j, true, false, padTo (64 * ceilDiv b.length 64) b, 4096⟩
    | none => ⟨addr + 4096 * j, false, false, blockOf l j, 4096⟩)

/-- The WRs of a run (R404, R422): whole segments of far memory are compressed in classes STASH and MIRROR, the rest is
plain. -/
def wrParts (fmt cls : Nat) (r : Run) : List WrPart :=
  let far := decide (0x100000000000 ≤ r.1) && decide (r.1 < 0x180000000000)
  let plain (q : Run) : List WrPart := (cutRun q).map (fun p => ⟨p.1, false, p.2.1, p.2.2, p.2.2.length⟩)
  if (cls == 1 || cls == 3) && far then
    let n := r.2.length
    let lo := (r.1 + 65535) / 65536 * 65536
    (List.range (n / 65536 + 2)).flatMap (fun k =>
      let a := if k = 0 then r.1 else lo + 65536 * (k - 1)
      let b := min (r.1 + n) (lo + 65536 * k)
      let part := (r.2.drop (a - r.1)).take (b - a)
      if b ≤ a then []
      else if a % 65536 = 0 ∧ part.length = 65536 ∧ part.all (fun x => !x.2) = true then segmentParts fmt a (part.map (·.1))
      else plain (a, part))
  else plain r

/-- The runs a PUT writes at its peer, and the DETAIL met reading them (R262, R277). -/
def State.putRuns (s : State) (d a : Desc) : List Run × Nat :=
  let els := s.loadRawIn a d.extents
  (joinRuns (remoteRuns d a.extents els), els.foldl (fun (m : Nat) e => worseDetail m e.bad) 0)

/-- Some bytes of the runs. -/
def runBytes (runs : List Run) (a n : Nat) : Option (List (Byte × Bool)) :=
  (runs.find? (fun r => decide (r.1 ≤ a) && decide (a + n ≤ r.1 + r.2.length))).map (fun r => (r.2.drop (a - r.1)).take n)

/-- A transaction of a PUT read again from its source (R459). One that no PUT outstanding accounts for is what it was: the data of a
collective stands in its engine. -/
def State.readAgain (s : State) (it : Item) : State × Xact :=
  match s.net.puts.find? (fun p => p.uid == it.uid && p.exec == it.exec), execOf it.exec with
  | some p, some x =>
    let d := (Desc.ofLine p.d).plain
    let a := Desc.ofLine p.a
    let runs := (s.putRuns d a).1
    let n := it.x.len + 1
    let t := s.haul (moverOf x) p.cls a.base n false
    if it.x.comp then
      match (runs.flatMap (wrParts d.fmt p.cls)).find? (fun q => q.comp && q.addr == it.x.addr && q.counts == it.left) with
      | some q => (t, { it.x with data := q.bytes, len := q.bytes.length - 1 })
      | none => (s, it.x)
    else
      match runBytes runs it.x.addr n with
      | some l => (t, { it.x with data := l.map (·.1), poison := l.any (·.2) })
      | none => (s, it.x)
  | _, _ => (s, it.x)

end Sys2Proof.Machine
end

