-- ==== Sys2Proof/Machine/Xacts.lean ====
section
/-! DEFINITION. Transactions: header slots and flits, routing, tags, sending items and settling them (12: R442 to R446, R452 to
R455, R460, R471; 09: R371). -/

namespace Sys2Proof.Machine

/-- Whether a transaction type is one of collectives, whose header has their fields (R442). -/
def ttypeColl (t : Nat) : Bool := [0x03, 0x13, 0x14].contains t

/-- Whether a transaction type carries data (R443). -/
def ttypeData (t : Nat) : Bool := [0x01, 0x03, 0x11, 0x20].contains t

/-- The listed transaction types (R443). -/
def ttypeKnown (t : Nat) : Bool := [0x01, 0x02, 0x03, 0x10, 0x11, 0x12, 0x13, 0x14, 0x20].contains t

/-- A header slot (R442). -/
def Xact.header (x : Xact) : List Byte :=
  leBytes 1 x.ttype ++ leBytes 1 (x.cls % 8 + 8 * bit1 x.comp + 32 * bit1 x.poison) ++ leBytes 2 x.src ++ leBytes 2 x.dst ++
  leBytes 2 x.tag ++ leBytes 1 x.slink ++ leBytes 1 x.status ++ leBytes 2 x.epoch ++ leBytes 2 x.len ++ leBytes 1 x.detail ++
  leBytes 1 x.op ++
  (if ttypeColl x.ttype then leBytes 2 x.grp ++ leBytes 2 x.colseq ++ leBytes 2 x.part ++ leBytes 2 (x.dim % 4 + 4 * x.ringStep)
   else leBytes 6 x.addr ++ leBytes 2 0) ++ leBytes 8 x.offset

/-- The transaction a header slot begins. -/
def Xact.ofHeader (b : List Byte) : Xact :=
  let t := fieldAt b 0 1
  let c := fieldAt b 1 1
  let base : Xact := {
    ttype := t, cls := c % 8, comp := c.testBit 3, poison := c.testBit 5, src := fieldAt b 2 2 % 16384, dst := fieldAt b 4 2 % 16384
    tag := fieldAt b 6 2 % 4096, slink := fieldAt b 8 1 % 32, status := fieldAt b 9 1, epoch := fieldAt b 10 2
    len := fieldAt b 12 2 % 4096, detail := fieldAt b 14 1, op := fieldAt b 15 1, offset := fieldAt b 24 8 }
  if ttypeColl t then
    { base with grp := fieldAt b 16 2 % 4096, colseq := fieldAt b 18 2, part := fieldAt b 20 2 % 16384
                dim := fieldAt b 22 2 % 4, ringStep := fieldAt b 22 2 / 4 }
  else { base with addr := fieldAt b 16 6 }

/-- The data bytes that follow a header. -/
def Xact.dataLen (x : Xact) : Nat := if ttypeData x.ttype then x.len + 1 else 0

/-- The flits a transaction with data takes, when n of its data bytes are there (R444). -/
def flitsOf (n : Nat) : Nat := 1 + ceilDiv (n - 192) 224

/-- The flit buffers a transaction that has arrived whole holds until it is taken (R440): those of a transaction with data. Header
slots without data leave their flit as they arrive (DEDUCED, log entry 100). -/
def Xact.held (x : Xact) : Nat := if ttypeData x.ttype then flitsOf x.dataLen else 0

/-- Flit buffers of a virtual channel are free again: CRED counts them, and a flit is owed that says so (R436, R440; DEDUCED, log
entry 100). Channels above 3 mark what arrived before the link entered UP: it counts no more. -/
def State.freeBuf (s : State) (l vc n : Nat) : State :=
  let k := s.link l
  if n = 0 ∨ 3 < vc then s
  else s.setLink l { k with freed := setAt k.freed vc ((k.freed.getD vc 0 + n) % 1024), ackOwed := true }

/-- A list cut into pieces of at most n, as many as k allows. -/
def chunks {α : Type} (n : Nat) : Nat → List α → List (List α)
  | 0, _ => []
  | k + 1, l => if l.isEmpty then [] else l.take n :: chunks n k (l.drop n)

/-- The flit bodies of a transaction (R444): the header in slot 0 with the first 192 data bytes, then 224 bytes each. -/
def Xact.bodies (x : Xact) : List (List Byte) :=
  padTo 224 (x.header ++ x.data.take 192) :: (chunks 224 x.data.length (x.data.drop 192)).map (padTo 224)

/-- The flits of a transaction on a channel. -/
def Xact.flits (x : Xact) (vc : Nat) (kind : FlitKind) : List OutFlit :=
  let keep := if kind = .reply then x else { x with data := [] }
  x.bodies.map (fun b => { ftype := 1, vc := vc, body := b, kind := kind, x := keep })

/-- The device's own ID, and whether it has one. -/
def State.devId (s : State) : Nat := s.fld .LNK_DEVID_ID 0
/-- Whether the device has an ID (R452). -/
def State.devValid (s : State) : Bool := s.flag .LNK_DEVID_VALID 0

/-- The routing table entry of a device ID: V and bundle (R453). -/
def State.routeEntry (s : State) (d : Nat) : Nat :=
  let f : Fld := if d % 4 = 0 then .LNK_RT_E0 else if d % 4 = 1 then .LNK_RT_E1 else if d % 4 = 2 then .LNK_RT_E2 else .LNK_RT_E3
  s.fld f 0 (d / 4)

/-- Clears V of a routing table entry (R461). -/
def State.clearRoute (s : State) (d : Nat) : State :=
  let f : Fld := if d % 4 = 0 then .LNK_RT_E0 else if d % 4 = 1 then .LNK_RT_E1 else if d % 4 = 2 then .LNK_RT_E2 else .LNK_RT_E3
  s.setFld f 0 (s.fld f 0 (d / 4) % 128) (d / 4)

/-- The links of a bundle that are in UP. -/
def State.bundleUp (s : State) (b : Nat) : List Nat :=
  if s.flag .LNK_BUNDLE_EN 0 b then (setBits (s.fld .LNK_BUNDLE_LINKS 0 b) 24).filter (fun l => s.linkUp l) else []

/-- The DIM of the bundle a link belongs to: the lowest-numbered bundle that names it. -/
def State.linkDim (s : State) (l : Nat) : Option Nat :=
  ((List.range 16).find? (fun b => s.flag .LNK_BUNDLE_EN 0 b && (s.fld .LNK_BUNDLE_LINKS 0 b).testBit l)).map
    (fun b => s.fld .LNK_BUNDLE_DIM 0 b)

/-- The tags of a link that are not free (R446, R451). -/
def State.tagsOut (s : State) (l : Nat) : List Nat :=
  (s.net.items.filter (fun i => decide (i.st ≠ .waiting) && i.link == l)).map (·.tag)

/-- The lowest free tag of a link. -/
def State.freeTag (s : State) (l : Nat) : Option Nat :=
  let out := s.tagsOut l
  (List.range 4096).find? (fun t => !out.contains t)

/-- The link with the fewest flits queued, the lowest number on a tie (R454). -/
def State.leastBusy (s : State) (l : List Nat) : Option Nat :=
  l.foldl (fun (b : Option Nat) k =>
    match b with
    | none => some k
    | some j => if (s.link k).waiting.length < (s.link j).waiting.length then some k else some j) none

/-- Where a transaction goes (R452, R453). -/
inductive Way where
  | refused
  | noRoute
  | wait
  | out (l vc : Nat)
  deriving DecidableEq, Repr

/-- The route of a transaction: its destination, whether it is a response, the link and channel it arrived on (none when this
device originates it), and whether it needs a tag (R452 to R455). -/
def State.way (s : State) (dst : Nat) (resp : Bool) (came : Option (Nat × Nat)) (tagged : Bool) : Way :=
  if s.fld .LNK_RTCFG_SIZE 0 ≤ dst then .refused
  else
    let e := s.routeEntry dst
    let b := e % 16
    let up := if e / 128 = 1 then s.bundleUp b else []
    if up.isEmpty then .noRoute
    else
      let free := if tagged then up.filter (fun l => (s.freeTag l).isSome) else up
      match s.leastBusy free with
      | none => .wait
      | some l =>
        let base := if resp then 2 else 0
        let vc := match came with
          | none => base
          | some (k, v) => if s.linkDim k ≠ some (s.fld .LNK_BUNDLE_DIM 0 b) then base else v
        .out l (if s.flag .LNK_CTRL_DATELINE l then base + 1 else vc)

/-- A response to a request (R446): to its SRC, under its SRC, SLINK and TAG. -/
def Xact.reply (x : Xact) (ttype status detail : Nat) : Xact :=
  { ttype := ttype, cls := x.cls, src := x.src, dst := x.src, tag := x.tag, slink := x.slink, status := status, detail := detail }

/-- Sends a transaction that holds no tag: a response, READY, CABORT or BEAT. Where it has no way it is lost, and the
requester's timeout reports it (R451). -/
def State.sendReply (s : State) (x : Xact) : State :=
  match s.way x.dst true none false with
  | .out l vc => s.linkPush l (x.flits vc .reply)
  | _ => s

/-- A started collective with SQ = 1 whose step differs from NUM_GNS_STEP zeroes the accumulators and sets NUM_GNS_STEP (R372). -/
def State.gnsOpen (s : State) (g : GnsEntry) : State :=
  if !g.opened || s.fld .NUM_GNS_STEP_STEP g.region == g.step then s
  else ((((s.setFld .NUM_GNS_STEP_STEP g.region g.step).setFld .NUM_GNS_SUM_S_LOC g.region 0).setFld .NUM_GNS_SUM_S_RED g.region 0).setFld
    .NUM_GNS_NLOC_COUNT g.region 0).setFld .NUM_GNS_NRED_COUNT g.region 0

/-- Opens a region's accumulators for the collectives with SQ = 1 that have started, and adds the sums of those that have ended, in the
order of issue, up to the first that is still under way: one of a new step that starts while an older one runs zeroes them once the
older one's sums are in (R371, R372; DEDUCED, log entry 98). The first argument bounds the entries. -/
def State.gnsFlush : Nat → Nat → State → State
  | 0, _, s => s
  | n + 1, r, s =>
    match s.net.gns.find? (fun g => g.region == r) with
    | none => s
    | some g =>
      let s := s.gnsOpen g
      let rest := { s with net := { s.net with gns := s.net.gns.erase g } }
      if g.gone then State.gnsFlush n r rest
      else match g.sums with
        | none => s
        | some v =>
          let t := rest
          let t := t.setFld .NUM_GNS_SUM_S_LOC r (fadd32 (t.fld .NUM_GNS_SUM_S_LOC r) (v.getD 0 0))
          let t := t.setFld .NUM_GNS_SUM_S_RED r (fadd32 (t.fld .NUM_GNS_SUM_S_RED r) (v.getD 2 0))
          let t := (t.bump .NUM_GNS_NLOC_COUNT r (v.getD 1 0)).bump .NUM_GNS_NRED_COUNT r (v.getD 3 0)
          State.gnsFlush n r t

/-- A group of the device. -/
def State.group (s : State) (g : Nat) : Option Group := s.net.groups.find? (fun h => h.grp == g)
/-- Changes a group. -/
def State.setGroup (s : State) (g : Group) : State :=
  { s with net := { s.net with groups := s.net.groups.map (fun h => if h.grp = g.grp then g else h) } }
/-- A collective by group and number. -/
def State.coll (s : State) (g q : Nat) : Option Coll := s.net.colls.find? (fun c => c.grp == g && c.seq == q)
/-- Changes a collective. -/
def State.setColl (s : State) (c : Coll) : State :=
  { s with net := { s.net with colls := s.net.colls.map (fun d => if d.grp = c.grp ∧ d.seq = c.seq then c else d) } }

/-- A collective leaves its engine: its instruction has the outcome given, its number has ended, its items no longer count. -/
def State.endColl (s : State) (c : Coll) (o : Outc) (count : Nat) (forced : Bool) : State :=
  let s := { s with net := { s.net with
    colls := s.net.colls.filter (fun d => !(d.grp == c.grp && d.seq == c.seq))
    items := (s.net.items.filter (fun (i : Item) => !(decide (i.coll = some (c.grp, c.seq)) && decide (i.st = ItemSt.waiting)))).map
      (fun (i : Item) => if i.coll = some (c.grp, c.seq) then { i with coll := none, uid := 0 } else i)
    gns := s.net.gns.map (fun (g : GnsEntry) => if g.uid = c.uid ∧ g.sums = none then { g with gone := true } else g) } }
  let s := match s.group c.grp with
    | some g => s.setGroup { g with ended := ((s.net.colls.find? (fun (d : Coll) => d.grp == c.grp)).map Coll.seq).getD g.nextSeq }
    | none => s
  let s := s.gnsFlush (s.net.gns.length + 1) c.region
  if h : c.region < 12 then
    s.mapFlight (.seq ⟨c.region, h⟩) c.uid (fun f =>
      { f with items := 0, status := o.1, detail := o.2, count := count, forced := f.forced || forced })
  else s

/-- The participants a collective exchanges data with. -/
def Coll.peers (c : Coll) : List Nat := (c.sends ++ c.expects.map (·.1)).eraseDups

/-- A collective fails (R471): D is undefined, and CABORT goes to every participant it exchanges data with. -/
def State.failColl (s : State) (c : Coll) (o : Outc) : State :=
  let s := (s.endColl c o 0 true).undef (Desc.ofLine c.lineD).spans
  c.peers.foldl (fun (s : State) d =>
    s.sendReply { ttype := 0x14, cls := c.cls, src := s.devId, dst := d, epoch := c.epoch, grp := c.grp, colseq := c.seq }) s

/-- Statuses of an item that stop what its instruction has not sent yet (R277, R460). -/
def stopsMove (status : Nat) : Bool := status == 0xC1 || status == 0xC2 || status == 0x82 || status == 0xC3

/-- What a GET gathered, as elements: read as if it stood in memory from address 0 on; nothing beyond D's extents (R262, R264). -/
def GetBuf.els (g : GetBuf) : List RawEl :=
  let a := Desc.ofLine g.a
  let img : State := { mem := {
    bytes := g.bytes
    poisonW := g.bad.foldl (fun (t : Tbl Bool) p => if p.2 = 2 then Tbl.set t false (p.1 / 4) true else t) [] } }
  img.loadRawIn { a with base := 0, scale := 2 ^ 35 } (Desc.ofLine g.d).extents

/-- The last item of a gathered GET has ended (R262, R264, R277): D is written, unless an item failed and stopped it. -/
def State.finishGet (s : State) (x : Executor) (uid : Nat) : State :=
  match s.net.gets.find? (fun g => g.uid == uid), (s.exe x).flights.find? (fun f => f.uid == uid) with
  | some g, some f =>
    let s := { s with net := { s.net with gets := s.net.gets.filter (fun h => h.uid ≠ uid) } }
    if stopsMove f.status then s.mapFlight x uid (fun f => { f with count := 0 })
    else
      let d := { (Desc.ofLine g.d).plain with who := moverOf x, cls := g.cls }
      let a := Desc.ofLine g.a
      let els := g.els
      let (t, bad) := s.storeRaw d (fun idx => rawAt a.extents els idx)
      let w := worst (f.status, f.detail) (failed bad)
      t.mapFlight x uid (fun f => { f with count := s.landedAll d, status := w.1, detail := w.2 })
  | _, _ => s

/-- An item of a MOV ends: its flight counts it, takes its outcome, and drops the items it has not sent when this one stops
them (R460). -/
def State.settleMove (s : State) (it : Item) (o : Outc) (bytes : Nat) (failedItem : Bool) : State :=
  let stop := stopsMove o.1
  let gone := if stop then (s.net.items.filter (fun i => i.uid == it.uid && decide (i.st = .waiting) && decide (i.coll = none))).length else 0
  let s := if stop then { s with net := { s.net with
      items := s.net.items.filter (fun i => !(i.uid == it.uid && decide (i.st = .waiting) && decide (i.coll = none))) } } else s
  match execOf it.exec with
  | none => s
  | some x =>
    let s := s.mapFlight x it.uid (fun f =>
      let w := worst (f.status, f.detail) o
      { f with items := f.items - 1 - gone, count := f.count + bytes, status := w.1, detail := w.2, forced := f.forced || failedItem })
    if it.buffered && s.net.items.all (fun i => i.uid ≠ it.uid) then s.finishGet x it.uid else s

/-- Takes an item out; a PUT without items is over. -/
def State.dropItem (s : State) (it : Item) : State :=
  let items := s.net.items.erase it
  { s with net := { s.net with
    items := items
    puts := s.net.puts.filter (fun p => items.any (fun i => i.uid == p.uid && i.exec == p.exec)) } }

/-- Who writes what an item returns: the engines of the instruction it belongs to. -/
def Item.mover (it : Item) : Mover :=
  match execOf it.exec with
  | some x => moverOf x
  | none => ⟨164 + it.link, none⟩

/-- An item ends with an outcome: for its collective, or for its move. -/
def State.settle (s : State) (it : Item) (o : Outc) (bytes : Nat) : State :=
  match it.coll with
  | some (g, q) => match s.coll g q with
    | some c => if o.1 = 0 then s.setColl { c with lastAt := s.clk.aon } else s.failColl c o
    | none => s
  | none => s.settleMove it o bytes (o.1 ≠ 0)

/-- Puts bytes that a GET received where they belong: at their address, or into the buffer of the GET. Answers the DETAIL of
writing them and how many were written (R277). -/
def State.landBytes (s : State) (it : Item) (off : Nat) (l : List Byte) (detail : Nat) : State × Nat × Nat :=
  if it.buffered then
    ({ s with net := { s.net with gets := s.net.gets.map (fun g =>
      if g.uid = it.uid then
        let n := List.range l.length
        { g with
          bytes := n.foldl (fun (t : Tbl Byte) i => Tbl.set t 0 (it.dst + off + i) (l.getD i 0)) g.bytes
          bad := n.foldl (fun (t : Tbl Nat) i => Tbl.set t 0 (it.dst + off + i) detail) g.bad }
      else g) } }, 0, 0)
  else
    let r := s.writeBytes it.mover it.x.cls (it.dst + off) l (detail ≠ 0 && detail ≠ 3)
    (r.1, r.2, s.landed (it.dst + off) l.length)

/-- An item that its destination cannot be asked for, or that was refused there (R277, R449, R452): a WR is discarded, an RDREQ
yields zeros. -/
def State.refuseItem (s : State) (it : Item) : State :=
  if it.x.ttype = 2 then
    let r := s.landBytes it 0 (List.replicate (it.x.len + 1) 0) 3
    r.1.settle it (0xC0, 3) r.2.2
  else s.settle it (0xC0, 3) 0

/-- Sends an item that waits, when it has a way, a tag and this device has an ID (R446, R452 to R454). -/
def State.trySend (s : State) (it : Item) : State :=
  if !s.devValid || s.fenced then s
  else match s.way it.x.dst false none true with
    | .refused => (s.dropItem it).refuseItem it
    | .noRoute => (s.dropItem it).settle it (0xC1, 1) 0
    | .wait => s
    | .out l vc =>
      let tag := (s.freeTag l).getD 0
      let x := { it.x with src := s.devId, tag := tag, slink := l }
      let it' := { it with st := .sent, link := l, tag := tag, x := { x with data := [] }, sentAt := s.clk.aon }
      let keep := { it' with x := { x with data := it.x.data } }
      let s := { s with net := { s.net with items := s.net.items.map (fun i => if i = it then keep else i) } }
      let s := s.peak .LNK_TAGS_PEAK l (s.tagsOut l).length
      s.linkPush l (x.flits vc .item)

/-- Sends what waits, oldest first. -/
def State.pumpItems (s : State) : State :=
  (s.net.items.filter (fun i => decide (i.st = .waiting))).foldl (fun (s : State) it =>
    if s.net.items.contains it then s.trySend it else s) s

/-- Adds items and sends them as far as tags go. -/
def State.addItems (s : State) (l : List Item) : State :=
  let s := { s with net := { s.net with items := s.net.items ++ l } }
  s.pumpItems

/-- The flits of this device's items, replies or forwarded transactions that a link has not seen acknowledged, by
transaction (R459). -/
def LinkSt.unacked (k : LinkSt) (kind : FlitKind) : List Xact :=
  (((k.replay.map (·.f)) ++ k.waiting).filter (fun f => f.ftype == 1 && decide (f.kind = kind))).map (·.x) |>.eraseDups

end Sys2Proof.Machine
end

