-- ==== Sys2Proof/Machine/Links.lean ====
section
/-! DEFINITION. Links: training, flits, replay, keys, retraining, fencing and loss (12: R434 to R441, R457 to R461, R477, R478; 16:
R583 to R587). -/

namespace Sys2Proof.Machine

/-- What a link event record shows beside the common fields (R478). -/
structure LinkNote where
  st : Nat := 0
  peer : Nat := 0
  grp : Nat := 0
  colseq : Nat := 0
  itemEpoch : Nat := 0
  ttype : Nat := 0
  cls : Nat := 0
  bytes : Nat := 0
  addr : Nat := 0
  deriving DecidableEq, Repr

/-- A link event record (R477, R478). -/
def State.linkEvent (s : State) (l type status cause : Nat) (n : LinkNote) : State :=
  if h : l / 2 < 12 then
    s.ringPut (.linkEvent ⟨l / 2, h⟩) (EventRec.bytes {
      type := type, status := status, source := 0x2000 + l, cause := cause, region := l / 2
      epoch := s.fld .LNK_EPOCH_EPOCH 0, step := s.fld .SEQ_STEP_STEP (l / 2), time := s.fclk (l / 2)
      mid := leBytes 2 0 ++ leBytes 1 l ++ leBytes 1 n.st ++ leBytes 2 n.peer ++ leBytes 2 n.grp ++ leBytes 2 n.colseq ++
        leBytes 2 n.itemEpoch ++ leBytes 1 n.ttype ++ leBytes 1 n.cls ++ leBytes 4 n.bytes
      tail := leBytes 6 n.addr })
  else s

/-- The note about a refused transaction. -/
def Xact.note (x : Xact) : LinkNote :=
  { peer := x.src, grp := x.grp, colseq := x.colseq, itemEpoch := x.epoch, ttype := x.ttype, cls := x.cls, bytes := x.dataLen
    addr := x.addr }

/-- Full training begins, unless the lane map leaves the link DOWN (R432, R434). -/
def State.startTraining (s : State) (l : Nat) : State :=
  if s.ktl.persona.badLinks.contains l then s.setFld .LNK_STAT_STATE l 0 else s.setFld .LNK_STAT_STATE l 1

/-- An item whose link was lost with flits not yet acknowledged (R459): read again from its source and sent on another link of its
bundle in UP, else it fails. -/
def State.resendItem (s : State) (detail : Nat) (it : Item) : State :=
  if !s.net.items.contains it then s
  else match s.way it.x.dst false none false with
    | .out _ _ =>
      let (s, x) := s.readAgain it
      let w := { it with st := ItemSt.waiting, link := 0, tag := 0, x := x }
      let s := { s with net := { s.net with items := s.net.items.map (fun i => if i = it then w else i) } }
      s.trySend w
    | _ => (s.dropItem it).settle it (0xC2, detail) 0

/-- The transactions still arriving on other links that were being forwarded out on a lost one (R459): the rest of them goes nowhere. -/
def State.cutForwards (s : State) (l : Nat) : State × List Xact :=
  (List.range 24).foldl (fun (acc : State × List Xact) i =>
    let k := acc.1.link i
    let out (p : Nat × Arriving) : Bool := (p.2.egress.map (·.1)) == some l
    if i = l ∨ !k.arriving.any out then acc
    else
      (acc.1.setLink i { k with arriving := k.arriving.map (fun p =>
        if out p then (p.1, { p.2 with egress := none, dropped := true }) else p) },
       acc.2 ++ (k.arriving.filter out).map (fun p => { p.2.x with data := [] }))) (s, [])

/-- A link is lost (R459): its transactions are handled as the table gives, and the loss is recorded. Its STATE has been set
before. -/
def State.linkLost (s : State) (l detail : Nat) : State :=
  let (s, cut) := s.cutForwards l
  let k := s.link l
  let own := (k.unacked .item).map (·.tag)
  let replies := k.unacked .reply
  let through := (k.unacked .forward ++ cut).eraseDups
  let s := s.setLink l { k with
    waiting := [], replay := [], arriving := [], badTagSeq := none, nakSent := false, leftUpAt := none, resends := 0 }
  let s := s.setFld .LNK_STAT_LOSS_DETAIL l detail
  let s := k.arriving.foldl (fun (s : State) (p : Nat × Arriving) =>
    match p.2.egress with
    | some (e, v) => s.linkPush e [{ ftype := 1, vc := v, body := List.replicate 224 0, abort := true, kind := .forward, x := p.2.x }]
    | none => s) s
  let s := (s.net.items.filter (fun i => decide (i.st = .sent) && i.link == l && own.contains i.tag)).foldl
    (fun (s : State) it => s.resendItem detail it) s
  let s := replies.foldl (fun (s : State) x => s.sendReply x) s
  let s := through.foldl (fun (s : State) x => if ttypeResp x.ttype then s else s.sendReply (x.reply 0x12 0xC2 detail)) s
  let s := s.linkEvent l 0x30 0xC2 detail { st := s.fld .LNK_STAT_STATE l, peer := s.fld .LNK_PEER_PDEV l }
  if h : l / 2 < 12 then s.raise (.region ⟨l / 2, h⟩) 0x25 0xC2 detail 2 (info := l) else s

/-- A retrain start is recorded (R458): answers whether it comes within one second of the seventh start before it. -/
def State.recordStart (s : State) (l : Nat) : State × Bool :=
  let k := s.link l
  let many := match k.starts[6]? with
    | some t => decide (s.clk.aon - t ≤ 25000000)
    | none => false
  (s.setLink l { k with starts := (s.clk.aon :: k.starts).take 15 }, many)

/-- A link in UP starts a retrain, or is fenced after too many (R457, R458). -/
def State.startRetrain (s : State) (l : Nat) : State :=
  if !s.linkUp l then s
  else
    let (s, many) := s.recordStart l
    if many then (s.setFld .LNK_STAT_STATE l 5).linkLost l 1
    else
      let s := s.setLink l { s.link l with leftUpAt := some s.clk.aon, retrainAt := s.clk.aon }
      s.setFld .LNK_STAT_STATE l 4

/-- The link a requester's select register names. -/
def State.selLink (s : State) (who : Bank) : Option Link :=
  if h : s.fld .LNK_SEL_INDEX who.code < 24 then some ⟨s.fld .LNK_SEL_INDEX who.code, h⟩ else none

/-- A write of LNK_CTRL (R434, R457 to R459). A fenced link stays fenced, whatever ENABLE becomes, until UNFENCE is written (R458). -/
def State.writeLnkCtrl (s : State) (l : Nat) (v : Nat) : State :=
  let was := s.flag .LNK_CTRL_ENABLE l
  let s := (s.setFld .LNK_CTRL_TXN_TO l (bitsOf v 8 4)).setFld .LNK_CTRL_DATELINE l (bitsOf v 4 1)
  let s := s.setFld .LNK_CTRL_ENABLE l (bitsOf v 0 1)
  if s.fld .LNK_STAT_STATE l = 5 then
    if !bitOf v 2 then s
    else
      let s := s.setLink l { s.link l with starts := [] }
      if bitOf v 0 then s.startTraining l else s.setFld .LNK_STAT_STATE l 0
  else if !bitOf v 0 then
    if !was then s
    else
      let up := s.linkUp l || (s.link l).leftUpAt.isSome
      let s := s.setFld .LNK_STAT_STATE l 0
      if up then s.linkLost l 4 else s
  else
    let s := if !was then s.startTraining l else s
    if bitOf v 3 then s.startRetrain l else s

/-- The value of LNK_CTRL's fields that stay, with other bits set. -/
def State.lnkCtrlWith (s : State) (l : Nat) (enable : Bool) (bits : Nat) : Nat :=
  s.fld .LNK_CTRL_TXN_TO l * 256 + s.fld .LNK_CTRL_DATELINE l * 16 + bits + bit1 enable

/-- A command that writes LNK_CTRL of the selected link; writes of host ports are discarded (R479). -/
def State.onLink (s : State) (who : Bank) (f : Nat → State) : State :=
  match s.selLink who with
  | some l => if who.isHost then s else f l.val
  | none => s

/-- LINK_ENABLE (R434): ENABLE is set and full training starts. -/
def execLinkEnable (who : Bank) (s : State) : Answer := .next (let s := s.otherAccess who; s.onLink who (fun l => s.writeLnkCtrl l (s.lnkCtrlWith l true 0)))
/-- LINK_DISABLE (R459): ENABLE is cleared and the link is lost. -/
def execLinkDisable (who : Bank) (s : State) : Answer := .next (let s := s.otherAccess who; s.onLink who (fun l => s.writeLnkCtrl l (s.lnkCtrlWith l false 0)))
/-- LNK_RETRAIN (R457). -/
def execLnkRetrain (who : Bank) (s : State) : Answer :=
  .next (let s := s.otherAccess who; s.onLink who (fun l => s.writeLnkCtrl l (s.lnkCtrlWith l (s.flag .LNK_CTRL_ENABLE l) 8)))
/-- LNK_UNFENCE (R458). -/
def execLnkUnfence (who : Bank) (s : State) : Answer :=
  .next (let s := s.otherAccess who; s.onLink who (fun l => s.writeLnkCtrl l (s.lnkCtrlWith l (s.flag .LNK_CTRL_ENABLE l) 4)))

/-- LINK_TRAINED (R434): full training ends with the peer's identity and the link waits for keys; a training that fails starts
again. -/
def execLinkTrained (l : Link) (peer : Option PeerInfo) (s : State) : Answer :=
  .next (
    if s.fld .LNK_STAT_STATE l ≠ 1 then s
    else match peer with
      | none => s
      | some p =>
        let s := ((s.setFld .LNK_PEER_VALID l 1).setFld .LNK_PEER_PLINK l p.link.val).setFld .LNK_PEER_PDEV l p.dev.val
        s.setFld .LNK_STAT_STATE l 2)

/-- LINK_UP (R434, R440, R585, R587): with a master secret and key check values that match, both ends hold keys and the link
enters UP with fresh counters and credits; a mismatch keeps it in KEYWAIT and raises an alert. -/
def execLinkUp (l : Link) (keysMatch : Bool) (s : State) : Answer :=
  .next (
    if s.fld .LNK_STAT_STATE l ≠ 2 || s.ktl.lms.isNone then s
    else if !keysMatch then s.setFld .KTL_ALERT_KEYMIS 0 1
    else
      let k := s.link l
      let old (q : List (Nat × Xact)) : List (Nat × Xact) := q.map (fun p => (p.1 % 4 + 4, p.2))
      let s := s.setLink l { starts := k.starts, inbox := old k.inbox, forwards := old k.forwards, wire := k.wire }
      let s := (s.setFld .LNK_STAT_STATE l 3).setFld .LNK_STAT_KEYPHASE l 0
      let s := s.linkEvent l 0x30 0 0 { st := 3, peer := s.fld .LNK_PEER_PDEV l }
      s.pumpItems)

/-- IDLE_FRAME (R435): ignored. -/
def execIdleFrame (_l : Link) (s : State) : Answer := .next s

/-- A CTRL flit: an acknowledgement, or a NAK (R438). -/
def State.sendCtrl (s : State) (l : Nat) (nak : Bool) : State :=
  s.linkPush l [{ ftype := 2, vc := 0, body := List.replicate 224 0, nak := nak }]

/-- The replay entries up to and including the one with a SEQ are free (R438). -/
def LinkSt.acked (k : LinkSt) (seq : Nat) : LinkSt :=
  match k.replay.reverse.findIdx? (fun f => f.sent.seq.val == seq) with
  | some i =>
    let rest := k.replay.drop (k.replay.length - i)
    { k with replay := rest, resends := if (rest.head?.map (·.ctr)) = some k.resendSeq then k.resends else 0 }
  | none => k

/-- A NAK (R438, R457): the entries before the flit it names are free, and everything from it on is sent again unchanged; a flit
resent 8 times already makes the link retrain. -/
def State.nakReceived (s : State) (l seq : Nat) : State :=
  if !s.linkUp l then s
  else
    let k := s.link l
    match k.replay.findIdx? (fun f => f.sent.seq.val == seq) with
    | none => s
    | some i =>
      let rest := k.replay.drop i
      let first := (rest.head?.map (·.ctr)).getD 0
      let n := if k.resendSeq = first then k.resends else 0
      if 8 ≤ n then (s.setLink l { k with replay := rest }).startRetrain l
      else s.setLink l { k with replay := rest, resendSeq := first, resends := n + 1, wire := k.wire ++ rest.map (·.sent) }

/-- FLIT_NAK_RECEIVE (R438). -/
def execFlitNakReceive (l : Link) (ackseq : Nat) (s : State) : Answer := .next (s.nakReceived l ackseq)

/-- A flit is discarded (R438): the first discard sends a NAK for the flit that is expected, and so does the discard of that
flit when it has been sent again (DEDUCED: R457 counts flits resent 8 times). -/
def State.discardFlit (s : State) (l seq : Nat) : State :=
  let k := s.link l
  if k.nakSent && seq != k.expect then s
  else ((s.setLink l { k with nakSent := true }).bump .LNK_ERR_REPLAY l).sendCtrl l true

/-- A LOSS flit is accepted (R461): the route is cleared, every item to the device fails, and the loss is recorded. It is not
forwarded. -/
def State.lossAccepted (s : State) (l dev : Nat) : State :=
  let s := s.clearRoute dev
  let s := (s.net.items.filter (fun i => i.x.dst == dev && decide (i.st ≠ .quarantined))).foldl (fun (s : State) it =>
    if s.net.items.contains it then (s.dropItem it).settle it (0xC1, 2) it.got else s) s
  let s := s.linkEvent l 0x31 0xC1 2 { peer := dev }
  if h : l / 2 < 12 then s.raise (.region ⟨l / 2, h⟩) 0x28 0xC1 2 2 (info := dev) else s

/-- LOSS_FLIT (R461). -/
def execLossFlit (l : Link) (dev : Nat) (s : State) : Answer := .next (if s.linkUp l then s.lossAccepted l (dev % 16384) else s)

/-- A refusal of an inbound transaction (R443, R449, R472, R475): NAK, and a record where its status is one of a refusal's (R477). -/
def State.refuseXact (s : State) (l : Nat) (x : Xact) (status detail : Nat) (record : Bool) : State :=
  let s := s.sendReply (x.reply 0x12 status detail)
  if record then s.linkEvent l 0x32 status detail x.note else s

/-- A complete transaction has arrived: for this device, or to be forwarded; one of a reserved type is refused (R443, R452). -/
def State.arrived (s : State) (l vc : Nat) (x : Xact) : State :=
  if !ttypeKnown x.ttype then s.refuseXact l x 0xC0 3 true
  else
    let k := s.link l
    if s.devValid && x.dst ≠ s.devId then s.setLink l { k with forwards := k.forwards ++ [(vc, x)] }
    else s.setLink l { k with inbox := k.inbox ++ [(vc, x)] }

/-- Takes the transaction that is arriving on a channel out, and puts another in its place. -/
def State.setArriving (s : State) (l vc : Nat) (a : Option Arriving) : State :=
  let k := s.link l
  let rest := k.arriving.filter (fun p => p.1 ≠ vc)
  s.setLink l { k with arriving := match a with
    | some b => rest ++ [(vc, b)]
    | none => rest }

/-- The body of an accepted DATA flit (R444, R447, R456): more data of the transaction arriving on its channel, the first flit of
one with data, or up to seven transactions without. Its buffer is free once nothing of it has to be kept (R440). -/
def State.takeBody (s : State) (l vc : Nat) (abort : Bool) (body : List Byte) : State :=
  match (s.link l).arriving.find? (fun p => p.1 == vc) with
  | some (_, a) =>
    let pass (s : State) : State := match a.egress with
      | some (e, v) => s.linkPush e [{ ftype := 1, vc := v, body := body, abort := abort, kind := .forward, x := { a.x with data := [] } }]
      | none => s
    let gone := if a.egress.isSome || a.dropped then 1 else flitsOf a.x.data.length + 1
    if abort then ((s.setArriving l vc none).freeBuf l vc gone) |> pass
    else
      let n := min 224 a.left
      let a' := { a with x := { a.x with data := a.x.data ++ body.take n }, left := a.left - n }
      let keep := a.egress.isNone && !a.dropped
      let s := if keep then s else s.freeBuf l vc 1
      if a'.left ≠ 0 then (s.setArriving l vc (some a')) |> pass
      else
        let s := s.setArriving l vc none
        if a.dropped then s else if a.egress.isSome then pass s else s.arrived l vc a'.x
  | none =>
    let x := Xact.ofHeader (body.take 32)
    if abort then s.freeBuf l vc 1
    else if ttypeData x.ttype then
      let n := min 192 x.dataLen
      let x := { x with data := (body.drop 32).take n }
      if n = x.dataLen then s.arrived l vc x
      else s.setArriving l vc (some { x := x, left := x.dataLen - n, forward := s.devValid && x.dst ≠ s.devId })
    else
      (List.range 7).foldl (fun (s : State) i =>
        let y := Xact.ofHeader ((body.drop (32 * i)).take 32)
        if y.ttype = 0 then s else s.arrived l vc y) (s.freeBuf l vc 1)

/-- A flit accepted in order: acknowledgements and credits, then what it carries (R438, R440). -/
def State.acceptFlit (s : State) (l : Nat) (f : Flit) : State :=
  let k := s.link l
  let s := if k.badTagSeq.isSome then s.linkEvent l 0x33 0 0 { st := 3, peer := s.fld .LNK_PEER_PDEV l } else s
  let k := s.link l
  let isData := f.ftype.val == 1
  let gain (v : Nat) : Nat := (f.cred.getD v 0 % 1024 + 1024 - k.credSeen.getD v 0 % 1024) % 1024
  let k1 := { k with
    expect := (f.seq.val + 1) % 16777216, recvPhase := f.phase, nakSent := false, badTagSeq := none, sinceAck := k.sinceAck + 1
    ackOwed := true
    credits := (List.range 4).map (fun v => k.credits.getD v 0 + gain v)
    credSeen := (List.range 4).map (fun v => f.cred.getD v 0 % 1024) }
  let s := s.setLink l (if f.nak then k1 else k1.acked f.ackseq.val)
  let s := if f.nak then s.nakReceived l f.ackseq.val else s
  let s := if isData then s.takeBody l f.vc.val f.abort f.body
    else if f.ftype.val = 3 then s.lossAccepted l (fieldAt f.body 0 2 % 16384) else s
  let s := s.linkPump l
  if 64 ≤ (s.link l).sinceAck then s.sendCtrl l false else s

/-- A flit of the right SEQ whose tag fails (R439): it is asked for again; when it was asked for already, the link is fenced and
the Kettle alerted. -/
def State.badTag (s : State) (l seq : Nat) : State :=
  let s := s.bump .LNK_ERR_AUTH l
  if (s.link l).badTagSeq = some seq then
    let s := s.setFld .KTL_ALERT_LINKAUTH 0 1
    let s := s.setFld .LNK_STAT_STATE l 5
    let s := s.linkEvent l 0x33 0xC2 3 { st := 5, peer := s.fld .LNK_PEER_PDEV l }
    s.linkLost l 3
  else
    let s := s.setLink l { s.link l with badTagSeq := some seq, nakSent := false }
    s.discardFlit l seq

/-- FLIT_RECEIVE (R435, R438 to R440): checks in order FEC, CRC (a reserved FTYPE counts as failing it), SEQ and tag; a link takes
flits only in UP. The region's FCLK runs for it (R25). -/
def execFlitReceive (l : Link) (flit : Flit) (s : State) : Answer :=
  .next (
    if !s.linkUp l || s.fenced || flit.ftype.val = 0 then s
    else
    let s := s.startFclk (l.val / 2)
    if !flit.fec then (s.bump .LNK_ERR_FECUNC l).discardFlit l flit.seq.val
    else if !flit.crc || 3 < flit.ftype.val then (s.bump .LNK_ERR_CRC l).discardFlit l flit.seq.val
    else
      let k := s.link l
      let turns := flit.phase != k.recvPhase && flit.seq.val == 0
      if !turns && flit.seq.val ≠ k.expect then s.discardFlit l flit.seq.val
      else if !flit.tagOk then s.badTag l flit.seq.val
      else s.acceptFlit l flit)

/-- ACK_TIMER (R438): 200 ns after an accepted flit, with nothing else sent meanwhile, a CTRL flit acknowledges it. -/
def execAckTimer (l : Link) (s : State) : Answer := .next (if s.linkUp l && (s.link l).ackOwed then s.sendCtrl l false else s)

/-- KEY_GENERATION_SWITCH (R437, R586): with the counter spent or a rekey asked for, 100 ms or more after the last switch, and
nothing sealed under an older generation still to be acknowledged. -/
def execKeyGenerationSwitch (l : Link) (s : State) : Answer :=
  .next (
    let k := s.link l
    let due := decide (2 ^ 32 ≤ k.ctr) || k.rekey
    let apart := match k.switchedAt with
      | some t => decide (t + 2500000 ≤ s.clk.aon)
      | none => true
    let clean := k.replay.all (fun f => f.sent.phase == phaseOf k.keyGen)
    if !s.linkUp l || !due || !apart || !clean then s
    else
      let s := s.setLink l { k with keyGen := k.keyGen + 1, ctr := 0, rekey := false, switchedAt := some s.clk.aon }
      (s.setFld .LNK_STAT_KEYPHASE l ((k.keyGen + 1) % 2)).linkPump l)

/-- LINK_LOCK_LOSS (R457): the PHY of a link loses lock. -/
def execLinkLockLoss (l : Link) (s : State) : Answer := .next (s.startRetrain l)

/-- LINK_REFCLK_LOSS (R611): every link loses lock. -/
def execLinkRefclkLoss (s : State) : Answer := .next ((List.range 24).foldl (fun (s : State) l => s.startRetrain l) s)

/-- LINK_RETRAIN_DONE (R457): the link is in UP again and sends from the last flit acknowledged on. -/
def execLinkRetrainDone (l : Link) (s : State) : Answer :=
  .next (
    if s.fld .LNK_STAT_STATE l ≠ 4 then s
    else
      let k := s.link l
      let s := s.setLink l { k with leftUpAt := none, resends := 0, wire := k.wire ++ k.replay.map (·.sent) }
      let s := s.setFld .LNK_STAT_STATE l 3
      let s := s.linkEvent l 0x30 0 0 { st := 3, peer := s.fld .LNK_PEER_PDEV l }
      (s.linkPump l).pumpItems)

/-- A retrain is abandoned (R458, R459): full training starts, itself a retrain start, and the link, out of UP all the time, is
lost. -/
def State.retrainOver (s : State) (l : Nat) : State :=
  let (s, many) := s.recordStart l
  if many then (s.setFld .LNK_STAT_STATE l 5).linkLost l 1
  else (s.startTraining l).linkLost l 2

/-- RETRAIN_TIMEOUT (R458): a retrain not ended within 50 ms gives way to full training. -/
def execRetrainTimeout (l : Link) (s : State) : Answer :=
  .next (if s.fld .LNK_STAT_STATE l ≠ 4 || s.clk.aon < (s.link l).retrainAt + 1250000 then s else s.retrainOver l)

/-- LINK_LOSS (R459): a link that left UP has not returned within 50 ms. A retrain has then taken as long, and is abandoned. -/
def execLinkLoss (l : Link) (s : State) : Answer :=
  .next (match (s.link l).leftUpAt with
    | some t =>
      if s.linkUp l || s.clk.aon < t + 1250000 then s
      else if s.fld .LNK_STAT_STATE l = 4 then s.retrainOver l else s.linkLost l 2
    | none => s)

end Sys2Proof.Machine
end

