-- ==== Sys2Proof/Machine/LinkOps.lean ====
section
/-! DEFINITION. What arrives on the links for this device, what is forwarded, and the timeouts of transactions (12: R446 to R456,
R473, R475; 11: R422). -/

namespace Sys2Proof.Machine

/-- How an epoch compares with the device's (R473): the DETAIL of a refusal, or 0 for the same or a newer one. -/
def epochDetail (e dev : Nat) : Nat :=
  let d := (e + 65536 - dev % 65536) % 65536
  if d < 32768 then 0 else if d = 32768 then 2 else 1

/-- The device epoch. -/
def State.epoch (s : State) : Nat := s.fld .LNK_EPOCH_EPOCH 0

/-- Classes MIRROR and MGMT, which R475 does not check. -/
def clsUnchecked (c : Nat) : Bool := c == 3 || c == 7

/-- Takes the first transaction of an inbox that a condition holds of; its flit buffers are free (R440). -/
def State.fromInbox (s : State) (l : Nat) (p : Xact → Bool) : Option (State × Xact) :=
  let k := s.link l
  match k.inbox.find? (fun q => p q.2) with
  | some q => some ((s.setLink l { k with inbox := k.inbox.erase q }).freeBuf l q.1 q.2.held, q.2)
  | none => none

/-- The status and DETAIL an inbound WR, RDREQ or CDATA is refused with before its address is looked at (R452, R475, R557). -/
def State.inboundBad (s : State) (x : Xact) : Option (Nat × Nat) :=
  if !s.devValid then some (0xC1, 4)
  else if clsUnchecked x.cls then none
  else if s.fld .RSL_STAT_STATE 0 = 1 then some (0xC1, 7)
  else if epochDetail x.epoch s.epoch ≠ 0 then some (0x82, epochDetail x.epoch s.epoch) else none

/-- Whether every byte of a range is memory a peer may reach (R449). -/
def State.peerRange (s : State) (a n : Nat) : Bool := (splitRange a n).all (fun p => (s.place (canonical p.1)).memory)

/-- The link engine of a link as a requester (R52). -/
def linkMover (l : Nat) : Mover := ⟨164 + l, none⟩

/-- An inbound WR or RDREQ at an address that R449 refuses: a decode error of the link engine (R51), and a NAK. -/
def State.refuseAddr (s : State) (l : Nat) (x : Xact) : State :=
  (s.noteRange (linkMover l).code x.addr (x.len + 1) (x.ttype == 1)).refuseXact l x 0xC0 3 true

/-- The blocks of a segment that its map lists as coded (R407). -/
def segCoded (map : List Byte) : List Nat := (List.range 16).filter (fun j => (fieldAt map (j / 8) 1).testBit (j % 8))

/-- A transaction of a compressed segment (R422): kept until the table header and every coded block have come, then stored and
answered. -/
def State.gatherSegment (s : State) (l : Nat) (x : Xact) : State :=
  let dpa := x.addr / 65536 * 65536
  let old := s.net.segs.find? (fun g => g.src == x.src && g.dpa == dpa)
  let g : SegIn := { src := x.src, dpa := dpa, xs := (old.map (·.xs)).getD [] ++ [(l, x)] }
  let rest := s.net.segs.filter (fun h => !(h.src == x.src && h.dpa == dpa))
  let isHdr (y : Xact) : Bool := fieldAt y.data 0 4 == 0x31584356
  match g.xs.find? (fun p => isHdr p.2) with
  | none => { s with net := { s.net with segs := rest ++ [g] } }
  | some (_, h) =>
    let coded := segCoded (h.data.drop 512)
    let block (j : Nat) : Option (List Byte) :=
      (g.xs.find? (fun p => !isHdr p.2 && p.2.addr == dpa + 4096 * j)).map (·.2.data)
    if coded.all (fun j => (block j).isSome) then
      let seg : CodedSegment := { dpa := dpa, header := h.data.take 512, blocks := (List.range 16).map (fun j => (true, (block j).getD [])) }
      let s := { s with net := { s.net with segs := rest } }
      let s := match s.place dpa with
        | .far f => s.storeSegment (linkMover l) x.cls f seg ((List.range 16).filter (fun j => !coded.contains j))
        | _ => s
      g.xs.foldl (fun (s : State) p => s.sendReply (p.2.reply 0x10 0 0)) s
    else { s with net := { s.net with segs := rest ++ [g] } }

/-- LINK_WR (R447, R449, R452, R475): an inbound WR is refused, or performed and confirmed. -/
def execLinkWr (l : Link) (s : State) : Answer :=
  .next (match s.fromInbox l (fun x => x.ttype == 0x01) with
    | none => s
    | some (t, x) =>
      let n := x.len + 1
      match s.inboundBad x with
      | some (st, d) => t.refuseXact l x st d (st == 0x82)
      | none =>
        if !s.peerRange x.addr n then t.refuseAddr l x
        else match s.waitFor [(x.addr, n)] with
          | some u => u
          | none =>
            if x.comp then
              if s.rangeFree (x.addr / 65536 * 65536) 65536 then t.gatherSegment l x else s
            else ((t.writeBytes (linkMover l) x.cls x.addr x.data x.poison).1).sendReply (x.reply 0x10 0 0))

/-- LINK_RDREQ (R448, R449, R452, R475): an inbound read is refused, or answered with its data; bad data travels as poison. -/
def execLinkRdreq (l : Link) (s : State) : Answer :=
  .next (match s.fromInbox l (fun x => x.ttype == 0x02) with
    | none => s
    | some (t, x) =>
      let n := x.len + 1
      match s.inboundBad x with
      | some (st, d) => t.refuseXact l x st d (st == 0x82)
      | none =>
        if !s.peerRange x.addr n then t.refuseAddr l x
        else match s.waitFor [(x.addr, n)] with
          | some u => u
          | none =>
          let t := t.noteRead (linkMover l) x.cls x.addr n
          (detailRuns 0 (t.byteList x.addr n)).foldl (fun (s : State) r =>
            s.sendReply { x.reply 0x11 0 0 with
              poison := r.2.1 ≠ 0, len := r.2.2.length - 1, offset := r.1, data := r.2.2 }) t)

/-- The item a response answers (R446). -/
def State.itemOf (s : State) (x : Xact) (ttypes : List Nat) : Option Item :=
  s.net.items.find? (fun i => decide (i.st = .sent) && i.link == x.slink && i.tag == x.tag && ttypes.contains i.x.ttype)

/-- LINK_WCMP (R446, R447): a WR or CDATA is confirmed. -/
def execLinkWcmp (l : Link) (s : State) : Answer :=
  .next (match s.fromInbox l (fun x => x.ttype == 0x10) with
    | none => s
    | some (t, x) => match t.itemOf x [1, 3] with
      | none => t
      | some it => ((t.dropItem it).settle it (0, 0) it.left).pumpItems)

/-- Where data for an item goes in this device. -/
def State.landSpans (s : State) (it : Item) (off n : Nat) : List (Nat × Nat) :=
  if it.buffered then
    match s.net.gets.find? (fun g => g.uid == it.uid) with
    | some g => (Desc.ofLine g.d).spans
    | none => []
  else [(it.dst + off, n)]

/-- LINK_RDATA (R448, R277): data of a read arrives; the read ends with its last byte. -/
def execLinkRdata (l : Link) (s : State) : Answer :=
  .next (match s.fromInbox l (fun x => x.ttype == 0x11) with
    | none => s
    | some (t, x) => match t.itemOf x [2] with
      | none => t
      | some it =>
        let n := x.data.length
        match s.waitFor (s.landSpans it x.offset n) with
        | some u => u
        | none =>
          let (t, d, k) := t.landBytes it x.offset x.data (if x.poison then 2 else 0)
          let bad := it.x.poison || x.poison
          let out := failed (worseDetail d (if bad then 2 else 0))
          if it.left ≤ n then ((t.dropItem it).settleMove it out (it.got + k) false).pumpItems
          else
            let w := { it with left := it.left - n, got := it.got + k, x := { it.x with poison := bad } }
            { t with net := { t.net with items := t.net.items.map (fun i => if i = it then w else i) } })

/-- LINK_NAK (R277, R451, R460, R471): an item fails as its destination or a forwarder says. -/
def execLinkNak (l : Link) (s : State) : Answer :=
  .next (match s.fromInbox l (fun x => x.ttype == 0x12) with
    | none => s
    | some (t, x) => match t.itemOf x [1, 2, 3] with
      | none => t
      | some it =>
        match (if it.x.ttype = 2 then s.waitFor (s.landSpans it 0 (it.x.len + 1)) else none) with
        | some u => u
        | none =>
          let t := t.dropItem it
          (if x.status = 0xC0 ∧ x.detail = 3 ∧ it.coll = none then t.refuseItem it
           else t.settle it (x.status, x.detail) it.got).pumpItems)

/-- A transaction that cannot be forwarded (R452, R453): the source of a request hears of it. -/
def State.notForwarded (s : State) (x : Xact) (status detail : Nat) : State :=
  if ttypeResp x.ttype then s else s.sendReply (x.reply 0x12 status detail)

/-- TRANSACTION_FORWARD (R452 to R456): the oldest transaction waiting to be forwarded leaves on its egress link, or the first of
those still arriving does as far as it has come. -/
def execTransactionForward (l : Link) (s : State) : Answer :=
  .next (
    let k := s.link l
    match k.forwards with
    | (vc, x) :: rest =>
      let t := (s.setLink l { k with forwards := rest }).freeBuf l vc x.held
      match s.way x.dst (ttypeResp x.ttype) (some (l.val, vc % 4)) false with
      | .out e v => t.linkPush e (x.flits v .forward)
      | .refused => t.notForwarded x 0xC0 3
      | .noRoute => t.notForwarded x 0xC1 1
      | .wait => s
    | [] => match k.arriving.find? (fun p => p.2.forward && p.2.egress.isNone && !p.2.dropped) with
      | none => s
      | some (vc, a) =>
        let put (b : Arriving) : State := (s.setArriving l vc (some b)).freeBuf l vc (flitsOf a.x.data.length)
        match s.way a.x.dst (ttypeResp a.x.ttype) (some (l.val, vc)) false with
        | .out e v => (put { a with egress := some (e, v) }).linkPush e (a.x.flits v .forward)
        | .refused => (put { a with dropped := true }).notForwarded a.x 0xC0 3
        | .noRoute => (put { a with dropped := true }).notForwarded a.x 0xC1 1
        | .wait => s)

/-- The transaction timeout of a link in aon cycles (R451). -/
def State.txnTimeout (s : State) (l : Nat) : Nat := max 1 (s.fld .LNK_CTRL_TXN_TO l) * 2 ^ 20

/-- TRANSACTION_TIMEOUT (R451): the item fails, and its tag stays out of use as long again. -/
def execTransactionTimeout (l : Link) (tag : Nat) (s : State) : Answer :=
  .next (match s.net.items.find? (fun i => decide (i.st = .sent) && i.link == l.val && i.tag == tag) with
    | none => s
    | some it =>
      if s.clk.aon < it.sentAt + s.txnTimeout l then s
      else
        let q : Item := { it with st := .quarantined, sentAt := s.clk.aon, uid := 0, coll := none }
        let s := { s with net := { s.net with items := s.net.items.map (fun i => if i = it then q else i) } }
        s.settle it (0xC1, 3) it.got)

/-- TAG_RELEASE (R451): the time of a tag out of use is over. -/
def execTagRelease (l : Link) (tag : Nat) (s : State) : Answer :=
  .next (match s.net.items.find? (fun i => decide (i.st = .quarantined) && i.link == l.val && i.tag == tag) with
    | none => s
    | some it => if s.clk.aon < it.sentAt + s.txnTimeout l then s else (s.dropItem it).pumpItems)

end Sys2Proof.Machine
end

