-- ==== Sys2Proof/Machine/Fife.lean ====
section
/-! DEFINITION. Fife beats, adoption and errors of the server cores (15: R537, R545 to R549, R556, R557). -/

namespace Sys2Proof.Machine

/-- What the device keeps of a partner. -/
def State.fife (s : State) (n : Nat) : Fife := Tbl.get s.net.fife {} n
/-- Writes it. -/
def State.setFife (s : State) (n : Nat) (v : Fife) : State := { s with net := { s.net with fife := Tbl.set s.net.fife {} n v } }

/-- PERIOD in aon cycles; values below 2,500 act as 2,500. -/
def State.beatPeriod (s : State) : Nat := max 2500 (s.fld .RSL_FIFE_CTRL_PERIOD 0)

/-- The enabled partners. -/
def State.partners (s : State) : List Nat := (List.range 4).filter (fun n => s.flag .RSL_FIFEP_EN 0 n)

/-- Whether beats are sent and watched (R545). -/
def State.beating (s : State) : Bool :=
  s.flag .RSL_FIFE_CTRL_EN 0 && s.devValid && decide (s.fld .RSL_STAT_STATE 0 < 2)

/-- A BEAT (R443, R546); its class and offset carry nothing. -/
def State.beatXact (s : State) (n kind : Nat) : Xact :=
  let data := leBytes 4 (s.fife n).seq ++ leBytes 1 kind ++ leBytes 1 (s.fld .RSL_STAT_STATE 0) ++
    leBytes 2 (s.fld .LNK_EPOCH_EPOCH 0) ++ leBytes 6 (s.fld .SEQ_STEP_STEP 0) ++ leBytes 2 0 ++ leBytes 8 s.clk.aon ++ leBytes 8 0
  { ttype := 0x20, cls := Sys2Proof.Config.choice s.free % 8, src := s.devId, dst := s.fld .RSL_FIFEP_PDEV 0 n, epoch := s.epoch
    len := 31, data := data }

/-- A probe or an answer leaves on a link of the partner's ALTB bundle (R547). -/
def State.sendAlt (s : State) (n kind : Nat) : State :=
  let x := s.beatXact n kind
  match s.leastBusy (s.bundleUp (s.fld .RSL_FIFEP_ALTB 0 n)) with
  | some l => (s.linkPush l (x.flits (2 + bit1 (s.flag .LNK_CTRL_DATELINE l)) .reply)).tick
  | none => s.tick

/-- BEAT_SEND (R545, R546): PERIOD aon cycles after the last beats, one to each enabled partner. -/
def execBeatSend (s : State) : Answer :=
  .next (
    let due := match s.net.beatAt with
      | some t => decide (t + s.beatPeriod ≤ s.clk.aon)
      | none => true
    if !s.beating || !due then s
    else
      let s := { s with net := { s.net with beatAt := some s.clk.aon } }
      s.partners.foldl (fun (s : State) n =>
        ((s.sendReply (s.beatXact n 0)).setFife n { s.fife n with seq := ((s.fife n).seq + 1) % 2 ^ 32 }).tick) s)

/-- The record of a suspicion or its end (R537): INFO partner and outcome. -/
def State.suspectRecord (s : State) (n outcome : Nat) : State :=
  s.raise .chip 0x32 0 0 0 (info := n + 256 * outcome) (place := 0x10)

/-- The enabled partner a BEAT comes from. -/
def State.partnerOf (s : State) (src : Nat) : Option Nat := s.partners.find? (fun n => s.fld .RSL_FIFEP_PDEV 0 n == src)

/-- A BEAT from a partner that is not in LOST (R547, R548): LAST, and the partner's state. -/
def State.beatFrom (s : State) (n kind : Nat) : State :=
  let st := s.fld .RSL_FIFES_STATE 0 n
  if st = 4 then s
  else
    let s := (s.setFld .RSL_FIFES_LAST 0 s.clk.aon n).setFld .RSL_FIFES_MISSED 0 0 n
    if st = 2 then (s.setFld .RSL_FIFES_STATE 0 3 n).suspectRecord n 1
    else if st = 3 ∧ kind = 0 then s.setFld .RSL_FIFES_STATE 0 1 n
    else s

/-- The KIND of a BEAT. -/
def Xact.beatKind (x : Xact) : Nat := fieldAt x.data 4 1

/-- FIFE_BEAT (R547, R548): a beat or an answer arrives; from a device that is no enabled partner it is discarded. -/
def execFifeBeat (l : Link) (s : State) : Answer :=
  .next (match s.fromInbox l (fun x => x.ttype == 0x20 && x.beatKind != 1) with
    | none => s
    | some (t, x) => match t.partnerOf x.src with
      | some n => t.beatFrom n x.beatKind
      | none => t)

/-- FIFE_PROBE (R547, R548): a probe arrives; one from an enabled partner is answered at once, one from a partner in LOST is
discarded. -/
def execFifeProbe (l : Link) (s : State) : Answer :=
  .next (match s.fromInbox l (fun x => x.ttype == 0x20 && x.beatKind == 1) with
    | none => s
    | some (t, x) => match t.partnerOf x.src with
      | some n => if t.fld .RSL_FIFES_STATE 0 n = 4 then t else (t.beatFrom n 1).sendAlt n 2
      | none => t)

/-- PARTNER_SUSPECT (R548): 3 1/4 periods have passed since LAST for a partner in OK or DETOUR; it is probed. -/
def execPartnerSuspect (n : Fin 4) (s : State) : Answer :=
  .next (
    let st := s.fld .RSL_FIFES_STATE 0 n
    let p := s.beatPeriod
    if !s.beating || !s.flag .RSL_FIFEP_EN 0 n || !(st == 1 || st == 3) ||
        decide (s.clk.aon < s.fld .RSL_FIFES_LAST 0 n + 3 * p + p / 4) then s
    else
      let s := (s.setFld .RSL_FIFES_STATE 0 2 n).suspectRecord n 0
      let s := (s.setFife n { s.fife n with probeAt := s.clk.aon }).bump .RSL_CNT_PROBES 0
      s.sendAlt n 1)

/-- Every outstanding item addressed to a device fails (R460, R548). -/
def State.failItemsTo (s : State) (dev : Nat) (o : Outc) : State :=
  (s.net.items.filter (fun i => i.x.dst == dev && decide (i.st ≠ .quarantined))).foldl (fun (s : State) it =>
    if s.net.items.contains it then (s.dropItem it).settle it o it.got else s) s

/-- A device that watches its beat partners, has one, and has lost every one of them fences itself (R549). -/
def State.fenceIfCutOff (s : State) : State :=
  if s.flag .RSL_FIFE_CTRL_EN 0 && !s.partners.isEmpty && s.partners.all (fun m => s.fld .RSL_FIFES_STATE 0 m == 4) && !s.fenced then
    (s.raise .chip 0x34 0xC1 6 3 (place := 0x10)).fence 0x34
  else s

/-- PARTNER_LOSS_CONFIRM (R548, R549): PROBE_TO periods after the probe there is no BEAT; the loss is confirmed, and a device all
of whose enabled partners are lost fences itself. -/
def execPartnerLossConfirm (n : Fin 4) (s : State) : Answer :=
  .next (
    let due := (s.fife n).probeAt + max 1 (s.fld .RSL_FIFE_CTRL_PROBE_TO 0) * s.beatPeriod
    if !s.beating || !s.flag .RSL_FIFEP_EN 0 n || s.fld .RSL_FIFES_STATE 0 n ≠ 2 || decide (s.clk.aon < due) then s
    else
      let dev := s.fld .RSL_FIFEP_PDEV 0 n
      let s := (s.setFld .RSL_FIFES_STATE 0 4 n).bump .RSL_CNT_CONFIRMS 0
      let s := (s.clearRoute dev).failItemsTo dev (0xC1, 6)
      (s.raise .chip 0x33 0xC1 6 2 (info := dev) (place := 0x10)).fenceIfCutOff)

/-- A write of RSL_FIFEPn (R548): with EN = 1 the partner is watched from now on, in OK; with EN = 0 it is OFF, and the partners
left may all be lost (R549). -/
def State.writeFifep (s : State) (n v : Nat) : State :=
  let s := (s.setFld .RSL_FIFEP_EN 0 (bitsOf v 31 1) n).setFld .RSL_FIFEP_ALTB 0 (bitsOf v 24 4) n
  let s := s.setFld .RSL_FIFEP_PDEV 0 (bitsOf v 0 14) n
  if bitOf v 31 then
    let s := (s.setFld .RSL_FIFES_LAST 0 s.clk.aon n).setFld .RSL_FIFES_MISSED 0 0 n
    (s.setFld .RSL_FIFES_STATE 0 1 n).setFife n { s.fife n with seq := 0 }
  else (s.setFld .RSL_FIFES_STATE 0 0 n).fenceIfCutOff

/-- FIFE_PARTNER_ARM (R548, R563): a write of RSL_FIFEPn with EN = 1. -/
def execFifePartnerArm (who : Bank) (n : Fin 4) (v : W32) (s : State) : Answer :=
  .next (let s := s.otherAccess who; s.iff (!who.isHost) (fun s => s.writeFifep n (v ||| 0x80000000#32).toNat))

/-- Whether the conditions of R556 hold: every schedule context stopped or waiting for work, no tag allocated, no collective
outstanding, every collective engine queue empty. -/
def State.quiet (s : State) : Bool :=
  (List.range 12).all (fun r => [0, 3, 4].contains (s.fld .SEQ_STAT_STATE r)) &&
  s.net.items.all (fun i => decide (i.st = .waiting)) && s.net.colls.isEmpty &&
  s.execs.all (fun e => e.2.flights.all (fun f => decide (f.q ≠ .coll)))

/-- A write of RSL_ADOPT (R557). -/
def State.writeAdopt (s : State) (v : Nat) : State :=
  let s := s.setFld .RSL_ADOPT_ID 0 (bitsOf v 0 14)
  let st := s.fld .RSL_STAT_STATE 0
  let id := s.fld .RSL_ADOPT_ID 0
  let s1 :=
    if !bitOf v 31 then s
    else if st = 0 ∧ s.quiet ∧ s.net.groups.isEmpty ∧ id < s.fld .LNK_RTCFG_SIZE 0 then
      let s := (s.setFld .LNK_DEVID_ID 0 id).setFld .LNK_DEVID_VALID 0 1
      let s := (List.range 4).foldl (fun (s : State) n => (s.setFld .RSL_FIFEP_EN 0 0 n).setFld .RSL_FIFES_STATE 0 0 n) s
      (s.setFld .RSL_STAT_STATE 0 1).pumpItems
    else s.setFld .RSL_STAT_ADERR 0 1
  if !bitOf v 30 then s1
  else if st = 1 then s1.setFld .RSL_STAT_STATE 0 0
  else s1.setFld .RSL_STAT_ADERR 0 1

/-- ADOPT (R557, R563): a write of RSL_ADOPT with GO = 1. -/
def execAdopt (who : Bank) (v : W32) (s : State) : Answer :=
  .next (let s := s.otherAccess who; s.iff (!who.isHost) (fun s => s.writeAdopt (v ||| 0x80000000#32).toNat))

/-- ADOPT_DONE (R557, R563): a write of RSL_ADOPT with DONE = 1 and the ID it holds. -/
def execAdoptDone (who : Bank) (s : State) : Answer :=
  .next (let s := s.otherAccess who; s.iff (!who.isHost) (fun s => s.writeAdopt (0x40000000 + s.fld .RSL_ADOPT_ID 0)))

/-- SERVER_CORE_ERROR (R537): a chip record, and the cluster is taken offline. -/
def execServerCoreError (q : Cluster) (s : State) : Answer :=
  .next (
    let s := s.raise .chip 0x35 0xC0 1 2 (place := 0x10 + q.val / 8)
    { s with ktl := { s.ktl with dom := { s.ktl.dom with offline := s.ktl.dom.offline ++ [q.val] } } })

end Sys2Proof.Machine
end

