-- ==== Sys2Proof/Machine/Peers.lean ====
section
/-! DEFINITION. PUT and GET: tensors written to and read from a peer device (07: R274 to R277; 11: R404, R422; 12: R445, R475). -/

namespace Sys2Proof.Machine

/-- The device ID a PUT or GET names (R274). -/
def State.peerOf (s : State) (x : Executor) (w : W128) : Nat := s.sreg x (wf w 53 5) % 16384

/-- What PUT and GET need. -/
def peerNeed (x : Executor) (w : W128) (s : State) : Need :=
  { rsvd := wf w 0 53 != 0 || fB w != 0 || fC w != 0 || regsBad x [wf w 53 5]
    descs := [fD w, fA w], dest := some (fD w), bad := (s.descr x (fD w)).fmt != (s.descr x (fA w)).fmt }

/-- Puts a flight with items on its way, and sends the items once the flight is there; a PUT's source is kept (R459). -/
def flyItems (x : Executor) (s : State) (f : Flight) (puts : List PutSrc) (items : List Item) : Act :=
  .fly s { f with items := items.length } (fun t =>
    ({ t with net := { t.net with puts := t.net.puts ++ puts } } : State).addItems (items.map (fun i => { i with uid := f.uid, exec := x.code })))

/-- MOV_PUT (R275, R277, R445): A is read, and written to the peer at the addresses D describes. -/
def execMovPut (x : Executor) (w : W128) (s : State) : Answer :=
  issue 1 1 x w s (fun s => peerNeed x w s) (fun s =>
    let d := (s.descr x (fD w)).plain
    let a := s.descr x (fA w)
    let cls := moveClass w d (some 2)
    let peer := s.peerOf x w
    let (runs, bad) := s.putRuns d a
    let parts := runs.flatMap (wrParts d.fmt cls)
    let reads := a.readSpans d.extents
    match tensorMove x w (fD w) s (moveQueue x) reads [] (fun t f =>
      (t.noteReads (moverOf x) cls reads, { f with status := (failed bad).1, detail := bad })) with
    | .fly t f _ =>
      let src : PutSrc := ⟨x.code, f.uid, (t.exe x).descLine (fD w), (t.exe x).descLine (fA w), cls⟩
      flyItems x t f [src] (parts.map (fun p =>
        { uid := 0, left := p.counts
          x := { ttype := 1, cls := cls, comp := p.comp, poison := p.poison, dst := peer, epoch := d.epoch
                 len := p.bytes.length - 1, addr := p.addr, data := p.bytes } }))
    | act => act)

/-- The reads of a GET whose rows lie in D as they lie in A, within one 4 KiB page of either (R445): remote address, local address,
length. -/
def getParts (d a : Desc) : List (Nat × Nat × Nat) :=
  let rows := (List.range d.rows).map (fun r =>
    let row := unrank (d.extents.drop 1) r
    (a.rowAddr (0 :: row), d.rowAddr (0 :: row), d.rowBytes))
  let side := if d.sideBytes = 0 then [] else [(a.scale, d.scale, d.sideBytes)]
  (rows ++ side).flatMap (fun p => (splitPages p.1 p.2.2).flatMap (fun q =>
    let to' := p.2.1 + (q.1 - p.1)
    (splitPages to' q.2).map (fun t => (q.1 + (t.1 - to'), t.1, t.2))))

/-- Where a gathered GET keeps its side plane in its buffer. -/
def gatherSide : Nat := 2 ^ 35

/-- The reads of a GET that is gathered first: remote address, place in the buffer, length. Nothing beyond the destination's extents
is read (R262); a stream is read whole. -/
def gatherParts (a : Desc) (lim : List Nat) : List (Nat × Nat × Nat) :=
  let n := ceilDiv a.bytes 4096
  let rows := ((List.range a.rows).map (unrank (a.extents.drop 1))).filter (fun row => rowWithin row lim)
  let k := min (a.extent 0) (lim.getD 0 1)
  let main := if a.compressed then [(a.base, 0, 512 + mapBytes n + 4096 * n)]
    else rows.map (fun row =>
      let o := a.rowAddr (0 :: row)
      (o, o - a.base, ((a.rowSpans row k).headD (0, 0)).2))
  let side := if a.sideBytes = 0 then []
    else if a.compressed then [(a.scale, gatherSide, a.sideBytes)]
    else rows.map (fun row => match (a.rowSpans row k)[1]? with
      | some p => (p.1, gatherSide + (p.1 - a.scale), p.2)
      | none => (a.scale, gatherSide, 0))
  (main ++ side).flatMap (fun p => (splitPages p.1 p.2.2).map (fun q => (q.1, p.2.1 + (q.1 - p.1), q.2)))

/-- MOV_GET (R275, R277, R445): the peer's memory at the addresses A describes is read into D. -/
def execMovGet (x : Executor) (w : W128) (s : State) : Answer :=
  issue 1 2 x w s (fun s => peerNeed x w s) (fun s =>
    let d := (s.descr x (fD w)).plain
    let a := s.descr x (fA w)
    let cls := moveClass w d (some 2)
    let peer := s.peerOf x w
    let direct := !a.compressed && a.extents == d.extents
    let parts := if direct then getParts d a else gatherParts a d.extents
    match tensorMove x w (fD w) s (moveQueue x) [] d.spans (fun t f => (t, f)) with
    | .fly t f _ =>
      let t := if direct then t else { t with net := { t.net with
        gets := t.net.gets ++ [{ uid := f.uid, d := (t.exe x).descLine (fD w), a := (t.exe x).descLine (fA w), cls := cls }] } }
      flyItems x t f [] (parts.map (fun p =>
        { uid := 0, dst := p.2.1, buffered := !direct, left := p.2.2
          x := { ttype := 2, cls := cls, dst := peer, epoch := a.epoch, len := p.2.2 - 1, addr := p.1 } }))
    | act => act)

end Sys2Proof.Machine
end

