-- ==== Sys2Proof/Machine/Rings.lean ====
section
/-! DEFINITION. Writes of the rings' BASE and CB registers (06: R228, R229, R256, R630). -/

namespace Sys2Proof.Machine

/-- Whether a requester's writes of a ring's registers are kept (R479, R563, R603; 13: the COL_ registers). -/
def mayRing (who : Bank) (ring : RingId) : Bool :=
  match ring with
  | .work _ _ | .completion _ | .schedule _ | .numeric _ => true
  | _ => !who.isHost

/-- The fields of a ring's BASE register other than EN, from a value written. -/
def State.setRingFields (s : State) (ring : RingId) (v : Nat) : State :=
  let c := ringCfg ring
  let s := (s.setFld c.log2n c.inst (bitsOf v 52 4) c.idx).setFld c.base c.inst (bitsOf v 6 42) c.idx
  match c.ovwr with
  | some f => s.setFld f c.inst (bitsOf v 62 1) c.idx
  | none => s

/-- A write of a ring's BASE register. While EN is 1 only EN is written (R256); a write with EN = 1 writes the other fields and
then enables the ring if R630 lets it. -/
def State.writeRingBase (s : State) (ring : RingId) (v : Nat) : State :=
  let c := ringCfg ring
  if s.ringOn ring then s.setFld c.en c.inst (bitsOf v 63 1) c.idx
  else
    let s := s.setRingFields ring v
    s.iff (bitOf v 63) (fun s => (s.ringTryEnable ring).iff (ring == .jobReport) State.jobReports)

/-- A write of a ring's CB register, ignored while EN is 1 (R256). -/
def State.writeRingCb (s : State) (ring : RingId) (v : Nat) : State :=
  let c := ringCfg ring
  if s.ringOn ring then s else s.setFld c.cb c.inst (bitsOf v 7 41) c.idx

/-- RING_ENABLE (R229, R256, R630): a write of a ring's BASE register with EN = 1. -/
def execRingEnable (who : Bank) (ring : RingId) (v : W64) (s : State) : Answer :=
  .next (let s := s.otherAccess who; s.iff (mayRing who ring) (fun s => s.writeRingBase ring (v ||| 0x8000000000000000#64).toNat))

/-- RING_DISABLE (R256): a write of a ring's BASE register with EN = 0. -/
def execRingDisable (who : Bank) (ring : RingId) (v : W64) (s : State) : Answer :=
  .next (let s := s.otherAccess who; s.iff (mayRing who ring) (fun s => s.writeRingBase ring (v &&& 0x7FFFFFFFFFFFFFFF#64).toNat))

end Sys2Proof.Machine
end

