-- ==== Sys2Proof/Machine/Image.lean ====
section
/-! DEFINITION. Images of the input pipeline: JPEG reconstruction, PNG samples, concealment and the transform (13: R481, R483,
R484, R501). -/

namespace Sys2Proof.Machine

/-- An image: its size, its channels, and the 8-bit value at a column, a row and a channel. -/
structure Img where
  w : Nat
  h : Nat
  ch : Nat
  px : Nat → Nat → Nat → Nat

/-- A value rounded to FP32. -/
def Num.toF32 (n : Num) : Num := f32.decode (f32.encode .nearest false n).bits

/-- c(x, u) of R483 as FP32: 1 / (2 √2) for u = 0, else half the cosine of (2x + 1) u π / 16. -/
def idctCoef (x u : Nat) : Num :=
  if u = 0 then f32.decode 0x3EB504F3
  else
    let k := (2 * x + 1) * u % 32
    let k := if 16 < k then 32 - k else k
    let half := [0, 0x3EFB14BE, 0x3EEC835E, 0x3ED4DB31, 0x3EB504F3, 0x3E8E39DA, 0x3E43EF15, 0x3DC7C5C2, 0]
    if k ≤ 8 then f32.decode (half.getD k 0) else (f32.decode (half.getD (16 - k) 0)).negate

/-- One output of the one-dimensional 8-point inverse DCT, each product and addition rounded (R483). -/
def idct1 (f : Nat → Num) (x : Nat) : Num :=
  (List.range 7).foldl (fun (acc : Num) u => (acc.add ((f (u + 1)).mul (idctCoef x (u + 1))).toF32).toF32)
    ((f 0).mul (idctCoef x 0)).toF32

/-- A sample of a reconstructed block: rows, then columns, then offset, rounded and clamped to 8 bits (R483). -/
def idctSample (block : List Int) (x y : Nat) : Nat :=
  let rows (v : Nat) : Num := idct1 (fun u => Num.ofInt (block.getD (8 * v + u) 0) 0) x
  let t := (idct1 rows y).add (.fin false 128 0)
  match t with
  | .fin s m e => if s then 0 else min 255 (roundTo .nearest m e 0)
  | _ => 0

/-- The largest sampling factors of a frame. -/
def JpegData.hmax (d : JpegData) : Nat := (d.comps.map (·.h)).foldl max 1
/-- The largest vertical sampling factor of a frame. -/
def JpegData.vmax (d : JpegData) : Nat := (d.comps.map (·.v)).foldl max 1
/-- The MCUs of a row of the image. -/
def JpegData.mcus (d : JpegData) : Nat := ceilDiv d.width (8 * JpegData.hmax d)

/-- A component's sample at a position of the image, its chroma replicated (R483). -/
def JpegData.sample (d : JpegData) (c x y : Nat) : Nat :=
  match d.comps[c]? with
  | none => 0
  | some k =>
    let cx := x * k.h / JpegData.hmax d
    let cy := y * k.v / JpegData.vmax d
    idctSample (k.blocks.getD (cy / 8 * (JpegData.mcus d * k.h) + cx / 8) []) (cx % 8) (cy % 8)

/-- The row of MCUs whose pixels stand at an MCU: its own, or for a lost one the nearest above it that is not lost; none when
there is no such row (R501). -/
def JpegData.sourceRow (d : JpegData) (mx : Nat) : Nat → Option Nat
  | 0 => if d.lost.contains mx then none else some 0
  | n + 1 => if d.lost.contains ((n + 1) * JpegData.mcus d + mx) then JpegData.sourceRow d mx n else some (n + 1)

/-- A decoded JPEG with its concealment; an image whose header is unreadable is all mid-grey, of the output's size (R481, R483,
R501). -/
def jpegImage (d : JpegData) (ow oh : Nat) : Img :=
  if !d.ok then ⟨ow, oh, 3, fun _ _ _ => 128⟩
  else
    let hh := 8 * JpegData.vmax d
    ⟨d.width, d.height, d.comps.length, fun x y c =>
      match JpegData.sourceRow d (x / (8 * JpegData.hmax d)) (y / hh) with
      | none => 128
      | some r =>
        let y' := r * hh + y % hh
        if d.comps.length = 3 then
          let q := Sys2Proof.Config.jfif (JpegData.sample d 0 x y') (JpegData.sample d 1 x y') (JpegData.sample d 2 x y')
          min 255 (if c = 0 then q.1 else if c = 1 then q.2.1 else q.2.2)
        else JpegData.sample d 0 x y'⟩

/-- One PNG pixel at 8 bits per channel, alpha dropped (R481). -/
def pngPixel (d : PngData) (p : List Nat) (c : Nat) : Nat :=
  match d.palette with
  | some t =>
    let e := t.getD (p.getD 0 0) (0, 0, 0)
    if c = 0 then e.1 else if c = 1 then e.2.1 else e.2.2
  | none =>
    let v := p.getD (if d.grey then 0 else c) 0
    if d.depth = 16 then v / 256 else v * 255 / (2 ^ d.depth - 1)

/-- A decoded PNG; rows not fully decoded are zero (R481, R501). -/
def pngImage (d : PngData) (ow oh : Nat) : Img :=
  if !d.ok then ⟨ow, oh, 3, fun _ _ _ => 0⟩
  else ⟨d.width, d.height, if d.grey && d.palette.isNone then 1 else 3, fun x y c =>
    match d.rows[y]? with
    | some row => pngPixel d (row.getD x []) c
    | none => 0⟩

/-- The fields of an image transform entry (R484). -/
structure Xform where
  ops : Nat
  outFmt : Nat
  planes : Bool
  chans : Nat
  outW : Nat
  outH : Nat
  cropW : Nat
  cropH : Nat
  rstream : Nat
  mean : List Nat
  rstd : List Nat
  deriving DecidableEq, Repr

/-- The layout of R484. -/
def xformOf (b : List Byte) : Xform :=
  { ops := fieldAt b 0 1, outFmt := fieldAt b 1 1, planes := fieldAt b 2 1 == 1, chans := if fieldAt b 3 1 = 1 then 1 else 3
    outW := fieldAt b 4 2, outH := fieldAt b 6 2, cropW := fieldAt b 8 2, cropH := fieldAt b 10 2, rstream := fieldAt b 12 4
    mean := (List.range 3).map (fun c => fieldAt b (16 + 4 * c) 4), rstd := (List.range 3).map (fun c => fieldAt b (28 + 4 * c) 4) }

/-- The format an image entry's OUTFMT names. -/
def Xform.fmt (x : Xform) : FFmt :=
  if x.outFmt = 0x02 then bf16 else if x.outFmt = 0x03 then f16 else if x.outFmt = 0x08 then e4m3 else f32

/-- The bytes of one output element. -/
def Xform.elemBytes (x : Xform) : Nat := x.fmt.width / 8
/-- The bytes of one output image. -/
def Xform.imageBytes (x : Xform) : Nat := x.outW * x.outH * x.chans * x.elemBytes

/-- The channels the transform asks for: grey images become equal channels (R481). -/
def Img.channels (i : Img) (n : Nat) : Img :=
  if i.ch = n then i
  else if i.ch = 1 then { i with ch := n, px := fun x y _ => i.px x y 0 }
  else { i with ch := 1, px := fun x y _ => min 255 (Sys2Proof.Config.greyOf (i.px x y 0) (i.px x y 1) (i.px x y 2)) }

/-- The crop and the random choices of R484. -/
def Img.crop (i : Img) (x : Xform) (seed id : Nat) : Img :=
  let on := x.ops.testBit 0
  let cw := if on then min x.cropW i.w else i.w
  let ch := if on then min x.cropH i.h else i.h
  let (w0, w1, w2, _) := philox x.rstream 0 (id % 2 ^ 32) (id / 2 ^ 32) (seed % 2 ^ 32) (seed / 2 ^ 32)
  let rnd := x.ops.testBit 1
  let ox := if rnd then w0 % (i.w - cw + 1) else if on then (i.w - cw) / 2 else 0
  let oy := if rnd then w1 % (i.h - ch + 1) else if on then (i.h - ch) / 2 else 0
  let flip := x.ops.testBit 2 && w2.testBit 31
  { i with w := cw, h := ch, px := fun a b c => i.px (ox + if flip then cw - 1 - a else a) (oy + b) c }

/-- The lower neighbour of an output position along one axis, the upper one, and the weight of the upper in units of
1 / (2 out), with pixel centres at half-integer positions and edges clamped (R484). -/
def bilinearAxis (o out size : Nat) : Nat × Nat × Nat :=
  let p : Int := ((2 * o + 1) * size : Nat) - (out : Int)
  let d : Int := 2 * out
  if p < 0 then (0, 0, 0)
  else
    let i := (p / d).toNat
    if size ≤ i + 1 then (size - 1, size - 1, 0) else (i, i + 1, (p % d).toNat)

/-- The value of an output position after the resize step, as FP32 (R484). -/
def Img.resized (i : Img) (x : Xform) (a b c : Nat) : Num :=
  if x.ops.testBit 3 then
    let (x0, x1, fx) := bilinearAxis a x.outW i.w
    let (y0, y1, fy) := bilinearAxis b x.outH i.h
    if i.w = 0 ∨ i.h = 0 then .fin false 0 0
    else if fx = 0 ∧ fy = 0 then .fin false (i.px x0 y0 c) 0
    else
      let dx := 2 * x.outW
      let dy := 2 * x.outH
      let p00 := i.px x0 y0 c
      let p10 := i.px x1 y0 c
      let p01 := i.px x0 y1 c
      let p11 := i.px x1 y1 c
      let top := (p00 * (dx - fx) + p10 * fx) * (dy - fy) + (p01 * (dx - fx) + p11 * fx) * fy
      let exact := (Num.fin false top 0).div (.fin false (dx * dy) 0)
      f32.decode (boundedF32 .nearest exact 8 (-16) (Sys2Proof.Config.bilinear [p00, p10, p01, p11, fx, dx, fy, dy]))
  else if a < i.w ∧ b < i.h then .fin false (i.px a b c) 0 else .fin false 0 0

/-- NORM of R484: each operation rounded to FP32. -/
def Xform.norm (x : Xform) (c : Nat) (p : Num) : Num :=
  if x.ops.testBit 4 then
    let q := (p.div (.fin false 255 0)).toF32
    let d := (q.sub (f32.decode (x.mean.getD c 0))).toF32
    (d.mul (f32.decode (x.rstd.getD c 0))).toF32
  else p

/-- One output element of the transform, as its bytes (R484). -/
def Img.element (i : Img) (x : Xform) (a b c : Nat) : List Byte :=
  leBytes x.elemBytes (x.fmt.encode .nearest true (x.norm c (i.resized x a b c))).bits

/-- The output of the transform (R484). -/
def Img.output (i : Img) (x : Xform) (seed id : Nat) : List Byte :=
  let k := (i.channels x.chans).crop x seed id
  if x.planes then
    (List.range x.chans).flatMap (fun c => (List.range x.outH).flatMap (fun b => (List.range x.outW).flatMap (fun a => k.element x a b c)))
  else
    (List.range x.outH).flatMap (fun b => (List.range x.outW).flatMap (fun a => (List.range x.chans).flatMap (fun c => k.element x a b c)))

/-- What decoding a content produced: the output, its units, whether it was cut, and the damage: CAUSE (0 for none), first byte,
first unit, units concealed. -/
structure Decoded where
  bytes : List Byte
  units : Nat
  cut : Bool := false
  cause : Nat := 0
  at_ : Nat := 0
  unit_ : Nat := 0
  count : Nat := 0
  deriving DecidableEq, Repr

/-- A JPEG sample decoded and transformed (R483, R484, R501). -/
def decodeJpeg (u : Unpacked) (x : Xform) (seed id : Nat) : Decoded :=
  let d := Sys2Proof.Config.jpeg u.bytes
  let out := (jpegImage d x.outW x.outH).output x seed id
  let lost := if d.ok then d.lost.length else max 1 d.lost.length
  if u.cause ≠ 0 then ⟨out, 1, false, u.cause, u.at_, d.unit_, lost⟩
  else if d.cause ≠ 0 then ⟨out, 1, false, d.cause, d.at_, d.unit_, lost⟩
  else { bytes := out, units := 1 }

/-- A PNG sample decoded and transformed (R481, R484, R501). -/
def decodePng (u : Unpacked) (x : Xform) (seed id : Nat) : Decoded :=
  let d := Sys2Proof.Config.png u.bytes
  let out := (pngImage d x.outW x.outH).output x seed id
  let done := d.rows.length
  if u.cause ≠ 0 then ⟨out, 1, false, u.cause, u.at_, done, d.height - done⟩
  else if d.cause ≠ 0 then ⟨out, 1, false, d.cause, d.at_, done, d.height - done⟩
  else { bytes := out, units := 1 }

end Sys2Proof.Machine
end

