-- ==== Sys2Proof/Machine/Text.lean ====
section
/-! DEFINITION. Text of the input pipeline: UTF-8, pieces and merge-rank tokenisation (13: R485, R496, R501). -/

namespace Sys2Proof.Machine

/-- The ranges the bytes after a lead byte must lie in; none for a byte that leads nothing. -/
def utf8Tail (b : Nat) : Option (List (Nat × Nat)) :=
  let any := (0x80, 0xBF)
  if b < 0x80 then some []
  else if 0xC2 ≤ b ∧ b ≤ 0xDF then some [any]
  else if b = 0xE0 then some [(0xA0, 0xBF), any]
  else if b = 0xED then some [(0x80, 0x9F), any]
  else if 0xE1 ≤ b ∧ b ≤ 0xEF then some [any, any]
  else if b = 0xF0 then some [(0x90, 0xBF), any, any]
  else if 0xF1 ≤ b ∧ b ≤ 0xF3 then some [any, any, any]
  else if b = 0xF4 then some [(0x80, 0x8F), any, any]
  else none

/-- How many bytes of a list lie in ranges, in order, from the front. -/
def matchTail : List (Nat × Nat) → List Byte → Nat
  | (lo, hi) :: rs, b :: t => if lo ≤ b.toNat ∧ b.toNat ≤ hi then matchTail rs t + 1 else 0
  | _, _ => 0

/-- What stands in a text: a character as its bytes, or one maximal invalid subpart at an offset. -/
inductive TextItem where
  | char (bytes : List Byte)
  | bad (at_ : Nat)
  deriving DecidableEq, Repr

/-- A text split into characters and maximal invalid subparts; the first argument bounds the number of items. -/
def utf8Items : Nat → Nat → List Byte → List TextItem
  | 0, _, _ => []
  | _, _, [] => []
  | n + 1, at_, b :: t =>
    match utf8Tail b.toNat with
    | none => .bad at_ :: utf8Items n (at_ + 1) t
    | some rs =>
      let k := matchTail rs t
      if k = rs.length then .char (b :: t.take k) :: utf8Items n (at_ + 1 + k) (t.drop k)
      else .bad at_ :: utf8Items n (at_ + 1 + k) (t.drop k)

/-- The code point of a character. -/
def codePoint (l : List Byte) : Nat :=
  match l with
  | [] => 0
  | b :: t =>
    let lead := if t.length = 0 then b.toNat else b.toNat % 2 ^ (6 - t.length)
    t.foldl (fun (acc : Nat) c => acc * 64 + c.toNat % 64) lead

/-- The character classes of R485: 0 letter, 1 digit, 2 whitespace, 3 other. -/
def charClass (l : List Byte) : Nat :=
  let p := codePoint l
  if (65 ≤ p ∧ p ≤ 90) ∨ (97 ≤ p ∧ p ≤ 122) then 0
  else if 48 ≤ p ∧ p ≤ 57 then 1
  else if (9 ≤ p ∧ p ≤ 13) ∨ p = 32 then 2
  else if p < 128 then 3
  else Sys2Proof.Config.charClass p % 4

/-- A piece of the text, or a place where the replacement token goes. -/
inductive Piece where
  | text (cls : Nat) (bytes : List Byte)
  | repl
  deriving DecidableEq, Repr

/-- Runs of one character class (R485). -/
def runsOf (l : List TextItem) : List Piece :=
  l.foldr (fun (i : TextItem) acc =>
    match i with
    | .bad _ => .repl :: acc
    | .char b =>
      match acc with
      | .text c bs :: t => if c = charClass b then .text c (b ++ bs) :: t else .text (charClass b) b :: acc
      | _ => .text (charClass b) b :: acc) []

/-- A piece that is a single space character joins the piece that follows it (R485). -/
def joinSpace : List Piece → List Piece
  | .text 2 [0x20#8] :: .text c b :: t => .text c (0x20#8 :: b) :: joinSpace t
  | p :: t => p :: joinSpace t
  | [] => []

/-- A list cut after every n items; the first argument bounds the number of parts. -/
def chunksOf {α : Type} : Nat → Nat → List α → List (List α)
  | 0, _, _ => []
  | _, _, [] => []
  | f + 1, n, l => l.take n :: chunksOf f n (l.drop n)

/-- The merge table: LEFT, RIGHT and RESULT of each rank (R485). -/
abbrev Merges := List (Nat × Nat × Nat)

/-- The rank of an adjacent pair. -/
def rankOf (m : Merges) (a b : Nat) : Option Nat := m.findIdx? (fun e => e.1 == a && e.2.1 == b)

/-- The position and rank of the adjacent pair with the lowest rank, the leftmost on a tie, from a position on. -/
def bestPair (m : Merges) : Nat → List Nat → Option (Nat × Nat)
  | i, a :: b :: t =>
    let rest := bestPair m (i + 1) (b :: t)
    match rankOf m a b, rest with
    | none, r => r
    | some k, none => some (i, k)
    | some k, some (j, q) => if k ≤ q then some (i, k) else some (j, q)
  | _, _ => none

/-- Merging until no adjacent pair is in the table; each merge makes the list shorter (R485). -/
def mergeAll (m : Merges) : Nat → List Nat → List Nat
  | 0, l => l
  | n + 1, l =>
    match bestPair m 0 l with
    | none => l
    | some (i, k) => mergeAll m n (l.take i ++ [(m.getD k (0, 0, 0)).2.2] ++ l.drop (i + 2))

/-- The tokens of a piece. -/
def pieceTokens (m : Merges) (repl : List Nat) : Piece → List Nat
  | .repl => repl
  | .text _ b => (chunksOf b.length 256 b).flatMap (fun p => mergeAll m p.length (p.map (·.toNat)))

/-- A token a text entry names; 0xFFFF_FFFF inserts none (R484). -/
def tokenField (xf : List Byte) (i : Nat) : List Nat := if fieldAt xf i 4 = 0xFFFFFFFF then [] else [fieldAt xf i 4]

/-- A text sample tokenised, cut to LONGMAX tokens (R485, R496, R501). -/
def decodeText (u : Unpacked) (xf : List Byte) (m : Merges) (longmax : Nat) : Decoded :=
  let items := utf8Items u.bytes.length 0 u.bytes
  let pieces := joinSpace (runsOf items)
  let body := pieces.map (pieceTokens m (tokenField xf 12))
  let bos := tokenField xf 4
  let all := bos ++ body.flatten ++ tokenField xf 8
  let toks := all.take longmax
  let bads := items.filterMap (fun i => match i with | .bad a => some a | .char _ => none)
  let places := ((pieces.zip body).foldl (fun (acc : Nat × List Nat) p =>
    (acc.1 + p.2.length, if p.1 = .repl then acc.2 ++ [acc.1] else acc.2)) (bos.length, [])).2
  let met := (bads.zip places).filter (fun p => decide (p.2 < longmax))
  let d : Decoded := { bytes := toks.flatMap (leBytes 4), units := toks.length, cut := decide (longmax < all.length) }
  match met with
  | (a, k) :: _ => { d with cause := 5, at_ := a, unit_ := k, count := met.length }
  | [] =>
    if u.cause ≠ 0 && !d.cut then { d with cause := if u.dict then 3 else 1, at_ := u.at_, unit_ := toks.length }
    else d

end Sys2Proof.Machine
end

