-- ==== Sys2Proof/Machine/Pipe.lean ====
section
/-! DEFINITION. The input scheduler and the lanes: requests, dispatch, completion and returns (13: R487 to R493, R499, R501 to
R503, R632). -/

namespace Sys2Proof.Machine

/-- The input scheduler, and a Colander engine, as requesters (R52); their traffic is of class INPUT (R36). -/
def schedMover : Mover := ⟨125, none⟩
/-- A Colander engine. -/
def colMover (e : Nat) : Mover := ⟨132 + e, none⟩
/-- The class of the pipeline's traffic. -/
def inputClass : Nat := 5

/-- Replaces the input pipeline. -/
def State.setPipe (s : State) (p : Pipe) : State := { s with pipe := p }
/-- A stream. -/
def State.stream (s : State) (n : Nat) : Strm := Tbl.get s.pipe.streams {} n
/-- Writes a stream. -/
def State.setStream (s : State) (n : Nat) (v : Strm) : State := s.setPipe { s.pipe with streams := Tbl.set s.pipe.streams {} n v }
/-- A lane's account. -/
def State.lane (s : State) (n : Nat) : LaneSt := Tbl.get s.pipe.lanes {} n
/-- Writes a lane's account. -/
def State.setLane (s : State) (n : Nat) (v : LaneSt) : State := s.setPipe { s.pipe with lanes := Tbl.set s.pipe.lanes {} n v }

/-- The fields of a request (R487). -/
def Sample.container (x : Sample) : Nat := fieldAt x.req 0 1
/-- CONTENT. -/
def Sample.content (x : Sample) : Nat := fieldAt x.req 1 1
/-- XFORM. -/
def Sample.xform (x : Sample) : Nat := fieldAt x.req 2 1 % 64
/-- STREAM. -/
def Sample.stream (x : Sample) : Nat := fieldAt x.req 3 1 % 16
/-- SAMPLE_ID. -/
def Sample.sampleId (x : Sample) : Nat := fieldAt x.req 8 5
/-- SRC. -/
def Sample.src (x : Sample) : Nat := fieldAt x.req 16 6
/-- SRC_LEN. -/
def Sample.srcLen (x : Sample) : Nat := fieldAt x.req 24 4
/-- SRC_LEN in KiB, rounded up. -/
def Sample.kib (x : Sample) : Nat := ceilDiv x.srcLen 1024

/-- Whether a sample holds a staging slot (R490). -/
def Sample.staged (x : Sample) : Bool := x.at_ != .wait

/-- The lane a sample counts in. -/
def SampleAt.lane : SampleAt → Option Nat
  | .queued | .engine _ => some 0
  | .core => some 1
  | .host p _ => some (2 + p)
  | _ => none

/-- A sample by its number. -/
def State.sample (s : State) (uid : Nat) : Option Sample := s.pipe.samples.find? (fun x => x.uid == uid)
/-- Writes a sample. -/
def State.setSample (s : State) (x : Sample) : State :=
  s.setPipe { s.pipe with samples := s.pipe.samples.map (fun (y : Sample) => if y.uid = x.uid then x else y) }
/-- A sample is gone and its slot is free. -/
def State.dropSample (s : State) (x : Sample) : State :=
  s.setPipe { s.pipe with samples := s.pipe.samples.filter (fun (y : Sample) => y.uid ≠ x.uid) }

/-- The staging slots no sample holds. -/
def State.freeSlots (s : State) : List Nat :=
  (List.range 256).filter (fun i => !s.pipe.samples.any (fun x => x.staged && x.slot == i))

/-- The DPA of a staging slot. -/
def State.slotAddr (s : State) (i : Nat) : Nat := s.fld .COL_STAGE_BASE 0 * 4096 + i * (s.fld .COL_STAGE_SLOTKIB 0 * 1024)

/-- The sample an engine decodes. -/
def State.inEngine (s : State) (e : Nat) : Option Sample := s.pipe.samples.find? (fun x => x.at_ == .engine e)

/-- An input event record (R503): the sample, its type, status, cause and source, and the bytes of its type. -/
def State.inputEvent (s : State) (x : Sample) (type status cause source die at_ : Nat) (tail : List Byte) : State :=
  s.ringPut .inputEvent ({ type := type, status := status, source := 0x1000 + source, cause := cause, region := 0x10 + die
                           addr := x.entry
                           mid := leBytes 2 0 ++ leBytes 5 x.sampleId ++ leBytes 1 x.stream ++ leBytes 1 x.content ++ leBytes 1 0 ++ leBytes 8 at_
                           time := s.clk.aon * 80, tail := tail } : EventRec).bytes

/-- A manifest entry (R499). -/
def manifestBytes (id lane status stream step micro offset units : Nat) : List Byte :=
  leBytes 5 id ++ leBytes 1 lane ++ leBytes 1 status ++ leBytes 1 stream ++ leBytes 6 step ++ leBytes 2 micro ++
  leBytes 4 offset ++ leBytes 4 units ++ List.replicate 8 0

/-- The LANE field of a manifest entry for a lane. -/
def laneField (lane : Nat) : Nat := if lane < 2 then lane else 2 + 4 * (lane - 2)

/-- Whether the input event ring and the manifest ring take a record now. -/
def State.reportsFit (s : State) : Bool := s.ringAccepts .inputEvent && s.ringAccepts .manifest

/-- A sample is refused: its manifest entry is marked REFUSED and nothing of it is delivered (R488, R499, R502). In replay the
refusal is kept for its record (R500). -/
def State.refuseSample (s : State) (x : Sample) (status : Nat) : State :=
  let s := s.ringPut .manifest (manifestBytes x.sampleId (laneField x.lane + 0x80) status x.stream 0 0xFFFF 0 0)
  let s := s.dropSample x
  s.iff (s.flag .COL_CTRL_REPLAY 0) (fun s => s.setPipe { s.pipe with refused := s.pipe.refused ++ [⟨x.sampleId, x.stream, status⟩] })

/-- A source number for a record no lane has a part in, which R503 leaves open. -/
def State.openSource (s : State) : Nat := Sys2Proof.Config.choice s.free % 64

/-- The DPA of a sample's transform entry (R484). -/
def State.xformAddr (s : State) (x : Sample) : Nat := s.fld .COL_XFBASE_BASE 0 * 4096 + 64 * x.xform

/-- Whether a request is refused for what it says (R488), whose rsvd bits count with the rsvd bytes. -/
def State.requestBad (s : State) (x : Sample) : Bool :=
  let b := x.req
  let text := x.content == 3
  let xf := s.readBytes (s.xformAddr x) 64
  let bad := decide (3 < x.container) || x.content == 0 || decide (3 < x.content) || decide (64 ≤ fieldAt b 2 1) ||
    decide (16 ≤ fieldAt b 3 1) || fieldAt b 13 3 != 0 || fieldAt b 22 2 != 0 || fieldAt b 28 36 != 0
  bad || (match (s.stream x.stream).rcd with
    | none => true
    | some r => (fieldAt r 0 1).testBit 0 != text || (fieldAt xf.bytes 0 1).testBit 7 != text)

/-- The CAUSE a request is refused with under R488, 0 for none. -/
def State.requestCause (s : State) (x : Sample) : Nat := if s.requestBad x then 0x0A else (s.readBytes x.src x.srcLen).detail

/-- A request ring's entry at HEAD. -/
def State.rqEntry (s : State) (ring : RingId) : Got := s.readBytes (s.ringEntry ring (s.ring ring).head) 64

/-- Whether a work ring's entry at HEAD shows its tag (R236, R632). -/
def State.entryReady (s : State) (ring : RingId) : Bool :=
  s.ringOn ring && s.rangeFree (s.ringEntry ring (s.ring ring).head) 64 && (s.rqEntry ring).detail == 0 &&
  fieldAt (s.rqEntry ring).bytes 4 4 == ((s.ring ring).head + 1) % 2 ^ 32

/-- A work ring's consumer writes HEAD := h + 1 (R236). -/
def State.advanceHead (s : State) (ring : RingId) : State :=
  let g := s.ring ring
  let s := (s.writeBytes (ringMover ring) (ringClass ring) (s.ringCb ring + 64) (leBytes 8 (g.head + 1))).1
  let s := s.setRing ring { g with head := g.head + 1 }
  s.setPipe { s.pipe with poisonSeen := s.pipe.poisonSeen.filter (fun p => p.1 ≠ ringKey ring) }

/-- The scheduler copies the record of the entry at HEAD: from its cache where it watched the line, else by a read (R236). -/
def State.copyEntry (s : State) (ring : RingId) : State :=
  let a := s.ringEntry ring (s.ring ring).head
  s.iff (s.cached 125 (canonical a / 64)).isNone (fun s => s.noteRead schedMover inputClass a 64)

/-- An entry at HEAD that reads as poison is reported once, not consumed, and watched (R632). -/
def State.reportPoison (s : State) (ring : RingId) : State :=
  let h := (s.ring ring).head
  let s := s.iff (s.ringOn ring) (fun s => s.watchRing ring)
  if !s.ringOn ring || (s.rqEntry ring).detail == 0 || s.pipe.poisonSeen.contains (ringKey ring, h) || !s.ringAccepts .inputEvent then s
  else
    let s := s.ringPut .inputEvent ({ type := 0x43, status := 0xC0, source := 0x1000 + s.openSource, cause := 2, region := 0x11
                                      addr := s.ringEntry ring h, time := s.clk.aon * 80 } : EventRec).bytes
    (s.setPipe { s.pipe with poisonSeen := s.pipe.poisonSeen ++ [(ringKey ring, h)] }).tick

/-- The request ring whose turn it is (R236, R487). -/
def State.requestTurn (s : State) : Option (Fin 4) :=
  ((List.range 4).map (fun k => Fin.ofNat 4 (s.pipe.nextRing + k))).find? (fun n => s.entryReady (.sampleReq n))

/-- SAMPLE_REQUEST (R487, R488): the scheduler takes the request of the ring whose turn it is, and refuses it or keeps it for a
lane. Source bytes the scheduler, agent 125, may not reach are decode errors (R51); a source in a store that sleeps is waited for
(R60). While the entry at HEAD lacks its tag, its line is watched (R236). -/
def execSampleRequest (n : Fin 4) (s : State) : Answer :=
  .next (
    let ring := RingId.sampleReq n
    if s.fenced || !s.flag .COL_CTRL_EN 0 then s
    else if (s.rqEntry ring).detail ≠ 0 then s.reportPoison ring
    else if s.ringOn ring && !s.entryReady ring then s.watchRing ring
    else if s.requestTurn ≠ some n || !s.reportsFit then s
    else
      let b := (s.rqEntry ring).bytes
      let x : Sample := { uid := s.nextUid, req := b, entry := s.ringEntry ring (s.ring ring).head }
      match s.waitFor ((s.xformAddr x, 64) :: (if s.requestBad x then [] else [(x.src, x.srcLen)])) with
      | some u => u
      | none =>
      let x := { x with cost := x.kib * s.fld (if x.content = 1 then .COL_CWT_JPEG else if x.content = 2 then .COL_CWT_PNG else .COL_CWT_TEXT) 0 }
      let cause := s.requestCause x
      let s := { (s.copyEntry ring).advanceHead ring with nextUid := s.nextUid + 1 }
      let s := s.setPipe { s.pipe with nextRing := (n.val + 1) % 4 }
      let s := s.iff (cause == 3) (fun s => s.noteRange 125 x.src x.srcLen false)
      if cause ≠ 0 then ((s.inputEvent x 0x43 0xC0 cause s.openSource 1 0 []).refuseSample x 0xC0).tick
      else s.setPipe { s.pipe with samples := s.pipe.samples ++ [x] })

/-- Whether a lane takes part for a sample: its enable bit, and for a host lane that it has not lost the sample before (R489,
R491). -/
def State.laneOpen (s : State) (x : Sample) (lane : Nat) : Bool :=
  if lane = 0 then s.flag .COL_CTRL_ENG_EN 0
  else if lane = 1 then s.flag .COL_CTRL_CORE_EN 0
  else (s.fld .COL_CTRL_HOST_EN 0).testBit (lane - 2) && !x.noHost.contains (lane - 2)

/-- The lane with the least (backlog + cost) / max(rate, 1) of some, ties to the first (R489). -/
def State.leastLane (s : State) (cost : Nat) (l : List Nat) : Option Nat :=
  l.foldl (fun (b : Option Nat) k =>
    match b with
    | none => some k
    | some j =>
      let p := s.lane j
      let q := s.lane k
      if (q.backlog + cost) * max p.rate 1 < (p.backlog + cost) * max q.rate 1 then some k else some j) none

/-- The ring a core or host lane's assignments go to. -/
def laneRing (lane : Nat) : RingId := if lane = 1 then .coreLane else .hostLane (Fin.ofNat 4 (lane - 2))

/-- The assignment record of R490. -/
def State.assignment (s : State) (x : Sample) (slot lane : Nat) : List Byte :=
  x.req.take 32 ++ leBytes 6 (s.slotAddr slot) ++ leBytes 2 (if lane = 1 then 0 else s.fld .HPT_EPOCH_EPOCH (lane - 2)) ++ x.req.drop 40

/-- A lane's backlog grows by a cost. -/
def State.loadLane (s : State) (lane cost : Nat) : State :=
  s.setLane lane { s.lane lane with backlog := (s.lane lane).backlog + cost }
/-- A lane's backlog shrinks by a cost. -/
def State.unloadLane (s : State) (lane cost : Nat) : State :=
  s.setLane lane { s.lane lane with backlog := (s.lane lane).backlog - cost }
/-- A lane has completed a cost (R489). -/
def State.creditLane (s : State) (lane cost : Nat) : State :=
  let s := s.unloadLane lane cost
  s.setLane lane { s.lane lane with done := (s.lane lane).done + cost }

/-- A sample begins in an engine: its decode budget is that of its dispatch (R489, R492). -/
def State.startEngine (s : State) (x : Sample) (e : Nat) : State := s.setSample { x with at_ := .engine e, began := s.clk.aon }

/-- The lowest-numbered free engines take the samples that wait for one, in request order (R489). -/
def State.fillEngines (s : State) : State :=
  (List.range 32).foldl (fun (s : State) e =>
    if (s.inEngine e).isSome then s
    else match s.pipe.samples.find? (fun x => x.at_ == .queued) with
      | some x => s.startEngine x e
      | none => s) s

/-- The decode budget of a sample (R492); with SLOWMUL 0 there is none. -/
def State.decodeBudget (s : State) (x : Sample) : Option Nat :=
  let m := s.fld .COL_CTRL_SLOWMUL 0
  if m = 0 then none else some (m * s.fld .COL_AVG_AVG 0 (x.content - 1) * max x.kib 4)

/-- A sample goes to a lane with a staging slot (R489, R490). -/
def State.assign (s : State) (x : Sample) (lane : Nat) : State :=
  let slots := s.freeSlots
  let slot := slots.getD (Sys2Proof.Config.choice s.free % slots.length) 0
  let s := s.tick
  let xf := (s.readBytes (s.xformAddr x) 64).bytes
  let s := s.noteRead schedMover inputClass (s.xformAddr x) 64
  let y := { x with slot := slot, xf := xf, lane := lane, began := s.clk.aon, budget := s.decodeBudget x }
  let s := s.loadLane lane x.cost
  if lane = 0 then (s.setSample { y with at_ := .queued }).fillEngines
  else
    let s := s.ringPut (laneRing lane) (s.assignment y slot lane)
    s.setSample { y with at_ := if lane = 1 then .core else .host (lane - 2) (s.fld .HPT_EPOCH_EPOCH (lane - 2)) }

/-- The CAUSE of IMPLAUSIBLE_DIMENSIONS a header gives, 0 for none (R502). -/
def SampleHeader.cause (h : SampleHeader) (x : Sample) : Nat :=
  if (match h.dims with | some (w, k) => decide (2 ^ 26 < w * k) | none => false) then 1
  else if [h.size, h.frame].any (fun (o : Option Nat) => match o with
      | some n => decide (1024 * x.srcLen + 65536 < n)
      | none => false) then 2
  else 0

/-- Whether a sample uses a feature the engines do not support (R480, R482): only JPEG contents and Zstandard containers have
such. -/
def SampleHeader.slow (h : SampleHeader) (x : Sample) : Bool := h.unsupported && (x.content == 1 || x.container == 3)

/-- The bytes 48 to 63 of a record of type 0x41 (R503). -/
def SampleHeader.fields (h : SampleHeader) : List Byte :=
  leBytes 8 (match h.dims with | some (w, k) => w * k | none => 0) ++ leBytes 8 (max (h.size.getD 0) (h.frame.getD 0))

/-- SAMPLE_DISPATCH (R482, R489, R490, R502): the oldest sample that waits for a lane is refused for its header, or goes to the
least loaded lane once a staging slot is free; one with a feature the engines do not support goes to the core lane. -/
def execSampleDispatch (hdr : SampleHeader) (s : State) : Answer :=
  .next (match s.pipe.samples.find? (fun x => x.at_ == .wait) with
    | none => s
    | some x =>
      let cause := SampleHeader.cause hdr x
      if s.fenced || !s.reportsFit then s
      else if x.noHost.isEmpty && cause ≠ 0 then
        ((s.inputEvent x 0x41 0x84 cause s.openSource 1 0 (SampleHeader.fields hdr)).refuseSample x 0x84).tick
      else
        let slow := SampleHeader.slow hdr x
        let lanes := (if slow then [1] else List.range 6).filter (fun l => s.laneOpen x l)
        match s.leastLane x.cost lanes with
        | none => s
        | some lane =>
          if s.freeSlots.isEmpty || (decide (lane ≠ 0) && !s.ringAccepts (laneRing lane)) then s
          else
            let x := { x with declared := x.container == 3 && hdr.frame.isSome, status := if slow then 0x04 else x.status }
            let s := s.iff slow (fun s => s.inputEvent x 0x42 0x04 2 0x3E 1 0 [])
            s.assign x lane)

/-- LANE_RATE_PERIOD (R489). -/
def execLaneRatePeriod (s : State) : Answer :=
  .next (s.forEach (List.range 6) (fun s l =>
    let k := s.lane l
    s.setLane l { k with rate := (7 * k.rate + k.done) / 8, done := 0 }))

/-- A sample is decoded: it is next in the order of completion (R497). -/
def State.finishSample (s : State) (x : Sample) (status units : Nat) (cut : Bool) : State :=
  let s := s.setSample { x with at_ := .done, order := s.pipe.orders, status := (worst (x.status, 0) (status, 0)).1
                                units := units, cut := cut }
  s.setPipe { s.pipe with orders := s.pipe.orders + 1 }

/-- The merge table (R485). -/
def State.merges (s : State) : Merges :=
  (List.range (min (s.fld .COL_TOKN_NENT 0) 262144)).map (fun j =>
    let v := leNat (s.readBytes (s.fld .COL_TOKBASE_BASE 0 * 4096 + 8 * j) 8).bytes
    (bitsOf v 0 20, bitsOf v 20 20, bitsOf v 40 20))

/-- The content of a sample, its container opened (R480). -/
def State.content (s : State) (x : Sample) : Unpacked :=
  let b := (s.readBytes x.src x.srcLen).bytes
  if x.container = 0 then ⟨b, 0, 0, false⟩ else Sys2Proof.Config.unpack x.container b

/-- The output of a sample (R483 to R486, R496, R501). -/
def State.decodeSample (s : State) (x : Sample) : Decoded :=
  let u := s.content x
  let seed := s.fld .COL_SEED_SEED 0
  if x.content = 1 then decodeJpeg u (xformOf x.xf) seed x.sampleId
  else if x.content = 2 then decodePng u (xformOf x.xf) seed x.sampleId
  else decodeText u x.xf s.merges (fieldAt ((s.stream x.stream).rcd.getD []) 8 4)

/-- Whether the bytes a container's decoder produces pass the limit of R502 for a sample whose container declared no size. -/
def State.tooLong (s : State) (x : Sample) : Bool :=
  decide (x.container ≠ 0) && !x.declared && decide (1024 * x.srcLen + 65536 < (s.content x).bytes.length)

/-- The mean of R492 after a completion of some FCLK cycles; the quotients are rounded down. -/
def newAverage (avg cycles len : Nat) : Nat :=
  let c : Int := (cycles * 1024 / max len 1 : Nat)
  ((avg : Int) + (c - avg) / 64).toNat

/-- SAMPLE_DECODE_COMPLETE (R480 to R486, R492, R493, R501): an engine has written a sample's last output unit after some FCLK
cycles, within its budget. The engine reads the source and, for text, the merge table, and writes the staging slot, under its own
code (R52) in class INPUT. -/
def execSampleDecodeComplete (e : Engine) (cycles : Nat) (s : State) : Answer :=
  .next (match s.inEngine e with
    | none => s
    | some x =>
      let late := match x.budget with
        | some n => decide (n < cycles)
        | none => false
      if s.fenced || late || s.tooLong x || !s.ringAccepts .inputEvent then s
      else
        let d := s.decodeSample x
        let table := (s.fld .COL_TOKBASE_BASE 0 * 4096, 8 * min (s.fld .COL_TOKN_NENT 0) 262144)
        let reads := (x.src, x.srcLen) :: (if x.content = 3 then [table] else [])
        match s.waitFor ((s.slotAddr x.slot, d.bytes.length) :: reads) with
        | some u => u
        | none =>
          let s := s.noteReads (colMover e) inputClass reads
          let s := (s.writeBytes (colMover e) inputClass (s.slotAddr x.slot) d.bytes).1
          let s := if d.cause ≠ 0 then
              s.inputEvent x 0x40 0x02 d.cause e.val (e.val / 16) d.at_ (leBytes 4 d.unit_ ++ leBytes 4 d.count)
            else s.setFld .COL_AVG_AVG 0 (newAverage (s.fld .COL_AVG_AVG 0 (x.content - 1)) cycles x.srcLen) (x.content - 1)
          ((s.creditLane 0 x.cost).finishSample x (if d.cause ≠ 0 then 0x02 else 0) d.units d.cut).fillEngines)

/-- SLOW_LANE_ABANDON (R493): an engine has spent a sample's budget; the sample and its slot go to the core lane. -/
def execSlowLaneAbandon (e : Engine) (s : State) : Answer :=
  .next (match s.inEngine e with
    | none => s
    | some x =>
      let due := match x.budget with
        | some n => decide (n ≤ (s.clk.aon - x.began) * 80)
        | none => false
      if s.fenced || !due || !s.ringAccepts .inputEvent || !s.ringAccepts .coreLane then s
      else
        let s := s.inputEvent x 0x42 0x04 1 e.val (e.val / 16) 0 []
        let s := (s.unloadLane 0 x.cost).loadLane 1 x.cost
        let s := s.ringPut .coreLane (s.assignment x x.slot 1)
        (s.setSample { x with at_ := .core, lane := 1, budget := none, status := 0x04 }).fillEngines)

/-- DECODE_SIZE_LIMIT (R502): a decoder's bytes pass the limit and the sample is refused with CAUSE 0x03. -/
def execDecodeSizeLimit (e : Engine) (s : State) : Answer :=
  .next (match s.inEngine e with
    | none => s
    | some x =>
      if s.fenced || !s.tooLong x || !s.reportsFit then s
      else
        let s := s.inputEvent x 0x41 0x84 3 e.val (e.val / 16) 0 []
        ((s.creditLane 0 x.cost).refuseSample x 0x84).fillEngines)

/-- The return ring of a core or host lane. -/
def Lane.returns : Lane → Option RingId
  | .engine => none
  | .core => some .coreReturn
  | .host p => some (.hostReturn p)

/-- The sample a return record answers: the one in the lane with its SAMPLE_ID; for a host lane the host epoch must be that of
the assignment (R490, R491). -/
def State.returned (s : State) (lane : Lane) (b : List Byte) : Option Sample :=
  s.pipe.samples.find? (fun x => x.sampleId == fieldAt b 8 5 && (match lane, x.at_ with
    | .core, .core => true
    | .host p, .host q ep => p.val == q && fieldAt b 14 2 == ep
    | _, _ => false))

/-- A sample that came back: concealed damage is reported, a status that says it was not performed refuses it (R490, R501,
R502). Whether a text sample was cut follows from its bytes, whichever lane decoded it (R486, R496). -/
def State.takeReturn (s : State) (x : Sample) (b : List Byte) : State :=
  let status := fieldAt b 1 1
  let cause := fieldAt b 20 1
  let src := if x.lane = 1 then 0x3E else 0x3F
  let s := s.creditLane x.lane x.cost
  if 0x80 ≤ status then
    (s.inputEvent x (if status = 0x84 then 0x41 else 0x43) status cause src 1 (fieldAt b 32 8) ((b.drop 48).take 16)).refuseSample x status
  else
    let s := s.iff (status == 0x02) (fun s => s.inputEvent x 0x40 0x02 cause src 1 (fieldAt b 32 8) ((b.drop 48).take 8))
    s.finishSample x status (fieldAt b 16 4) (x.content == 3 && (s.decodeSample x).cut)

/-- LANE_RETURN (R490, R491, R632): the record at HEAD of a lane's return ring completes its sample, or answers none and is
discarded. While that record lacks its tag, its line is watched (R236). -/
def execLaneReturn (lane : Lane) (s : State) : Answer :=
  .next (match Lane.returns lane with
    | none => s
    | some ring =>
      if s.fenced then s
      else if (s.rqEntry ring).detail ≠ 0 then s.reportPoison ring
      else if s.ringOn ring && !s.entryReady ring then s.watchRing ring
      else if !s.entryReady ring || !s.reportsFit then s
      else
        let b := (s.rqEntry ring).bytes
        let t := (s.copyEntry ring).advanceHead ring
        match s.returned lane b with
        | some x => t.takeReturn x b
        | none => t)

/-- A port's host epoch advances: every sample assigned to its lane and not returned goes back to the scheduler, which keeps
that lane from it (R491). -/
def State.reassignHost (s : State) (p : Nat) : State :=
  let mine := s.pipe.samples.filter (fun (x : Sample) => x.at_.lane == some (2 + p))
  mine.foldl (fun (s : State) x =>
    (s.unloadLane (2 + p) x.cost).setSample { x with at_ := .wait, noHost := x.noHost ++ [p] }) s

end Sys2Proof.Machine
end

