-- ==== Sys2Proof/Machine/HostOps.lean ====
section
/-! DEFINITION. The host ports' outbound side: pieces, reads, the journal, and the advance of a host epoch (14: R516 to R529). -/

namespace Sys2Proof.Machine

/-- A host port. -/
def State.port (s : State) (p : Nat) : HostPort := Tbl.get s.hosts {} p
/-- Writes a host port. -/
def State.setPort (s : State) (p : Nat) (v : HostPort) : State := { s with hosts := Tbl.set s.hosts {} p v }

/-- Whether the mode configures a port (R506). -/
def State.portOn (s : State) (p : Nat) : Bool := decide (s.fld .HPT_CFG_WIDTH p ≠ 0)
/-- Whether a port's data link is up. -/
def State.dlUp (s : State) (p : Nat) : Bool := s.flag .HPT_LSTAT_DLUP p
/-- Whether a port's gate is open (R524). -/
def State.gateOpen (s : State) (p : Nat) : Bool := s.flag .HPT_EPOCH_OPEN p
/-- Whether outbound requests leave a port: the link is up and Bus Master Enable is 1 (R518). -/
def State.portSends (s : State) (p : Nat) : Bool := s.dlUp p && s.flag .HPT_LSTAT_BME p && s.gateOpen p

/-- The destination class of a host address (R519): the lowest enabled window it lies in, or host memory. -/
def State.hostClass (s : State) (p addr : Nat) : Nat :=
  match (List.range 8).find? (fun n => s.flag .HPT_P2PL_EN p n &&
      decide (s.fld .HPT_P2PB_BASE p n ≤ addr / 4096) && decide (addr / 4096 ≤ s.fld .HPT_P2PL_LIMIT p n)) with
  | some n => n + 1
  | none => 0

/-- The parts of a range between multiples of a size. -/
def splitAligned (size a n : Nat) : List (Nat × Nat) :=
  if n = 0 ∨ size = 0 then [] else (List.range ((a + n - 1) / size - a / size + 1)).map (fun k =>
    let lo := max a ((a / size + k) * size)
    let hi := min (a + n) ((a / size + k) * size + size)
    (lo, hi - lo))

/-- The host port as a requester (R52). -/
def hostMover (p : Nat) : Mover := ⟨128 + p, none⟩

/-- Payload bytes go out of a port for a requester and a class (R35, R36). -/
def State.askPcie (s : State) (m : Mover) (cls bytes p : Nat) : State := s.ask m cls bytes (.pcie (Fin.ofNat 4 p))

/-- Who sends a piece: the executor of its instruction, or the port for HPT_OBDATA. -/
def HostPiece.mover (w : HostPiece) (p : Nat) : Mover :=
  match w.flight, execOf w.exec with
  | some _, some x => moverOf x
  | _, _ => hostMover p

/-- Adds to what a port has sent. -/
def State.sendTlps (s : State) (p : Nat) (l : List Tlp) : State := s.setPort p { s.port p with out := (s.port p).out ++ l }

/-- A journal entry is made and the peak occupancy kept (R520). -/
def State.addJournal (s : State) (p : Nat) (w : HostPiece) : State :=
  let k := s.port p
  let e : JEntry := { seq := k.nextSeq, exec := w.exec, flight := w.flight, index := w.index, addr := w.addr, len := w.bytes.length
                      cls := s.hostClass p w.addr, sentAt := s.clk.aon }
  let s := s.setPort p { k with journal := k.journal ++ [e], nextSeq := k.nextSeq + 1 }
  s.peak .HPT_JSTAT_PEAK p (k.journal.length + 1)

/-- An item of an instruction ends: counted, with its outcome (R460). -/
def State.settleFlight (s : State) (exec uid bytes : Nat) (o : Outc) (n : Nat := 1) : State :=
  match execOf exec with
  | none => s
  | some x => s.mapFlight x uid (fun f =>
      let w := worst (f.status, f.detail) o
      { f with items := f.items - n, count := f.count + bytes, status := w.1, detail := w.2, forced := f.forced || decide (64 ≤ o.1) })

/-- One piece goes out, in TLPs of at most the Max Payload Size, charged to its class, and enters the journal (R516, R520). -/
def State.sendPiece (s : State) (p : Nat) (w : HostPiece) : State :=
  let tlps := (splitAligned (s.port p).mps w.addr w.bytes.length).map (fun q =>
    Tlp.write q.1 ((w.bytes.drop (q.1 - w.addr)).take q.2) w.bad)
  let s := ((s.askPcie (w.mover p) w.act w.bytes.length p).sendTlps p tlps).addJournal p w
  match w.flight with
  | some f => s.settleFlight w.exec f.uid w.bytes.length (0, 0)
  | none => s

/-- Sends what waits at a port, in order, while it can be sent: a write needs an open gate and room in the journal (R516, R518,
R520, R524); a bound on how many. -/
def State.pumpWrites : Nat → State → Nat → State
  | 0, s, _ => s
  | n + 1, s, p =>
    if !(s.dlUp p && s.flag .HPT_LSTAT_BME p) then s
    else match (s.port p).waits with
      | [] => s
      | .msi v :: t =>
        State.pumpWrites n (((s.askPcie (hostMover p) 4 4 p).setPort p { s.port p with waits := t }).sendTlps p [.msi v]) p
      | .write w :: t =>
        if 4096 ≤ (s.port p).journal.length ∨ !s.gateOpen p then s
        else State.pumpWrites n ((s.setPort p { s.port p with waits := t }).sendPiece p w) p

/-- Issues reads while fewer than 1,024 are outstanding (R508, R517, R518). -/
def State.pumpReads (s : State) (p : Nat) : State :=
  if !s.portSends p then s
  else
    let k := s.port p
    let room := 1024 - (k.reads.filter (fun r => r.sent)).length
    let next := (k.reads.filter (fun r => !r.sent)).take room
    let s := s.setPort p { k with reads := k.reads.map (fun r => if next.contains r then { r with sent := true } else r) }
    s.sendTlps p (next.map (fun r => .read r.addr r.len r.id))

/-- Everything a port can send now. -/
def State.pumpPort (s : State) (p : Nat) : State := ((s.pumpWrites ((s.port p).waits.length + 1) p).pumpReads p)

/-- Journal entries are confirmed: those of a class leave it, and what waited for room goes on (R520). -/
def State.confirm (s : State) (p cls : Nat) : State :=
  let k := s.port p
  (s.setPort p { k with journal := k.journal.filter (fun e => e.cls ≠ cls) }).pumpPort p

/-- The completion record of a failed journal entry of an HWR (R526): FORCED and [0] set, COUNT the piece. -/
def JEntry.bytes (e : JEntry) (x : Executor) (f : Flight) (o : Outc) : List Byte :=
  recordBytes o.1 o.2 (sourceOf x) (f.cls * 1024 + f.op) 5 x.region.val f.addr f.epoch f.step f.slot e.index

/-- Journal entries fail (R521, R523, R526). -/
def State.failEntries (s : State) (p : Nat) (l : List JEntry) (o : Outc) : State :=
  let k := s.port p
  let s := s.setPort p { k with journal := k.journal.filter (fun e => !l.contains e) }
  l.foldl (fun (s : State) e =>
    let s := s.bump .HPT_JSTAT_FAILED p
    match e.flight, execOf e.exec with
    | some f, some x => s.ringPut (.completion x.region) (e.bytes x f o)
    | _, _ => s) s

/-- A read of an HRD leaves the port and its instruction counts it (R517, R526). With a status that stops the move, the
instruction's reads not yet sent go as well (R460). -/
def State.endRead (s : State) (p : Nat) (r : HostRd) (o : Outc) : State :=
  let k := s.port p
  let drop := if stopsMove o.1 then k.reads.filter (fun q => q.uid == r.uid && q.exec == r.exec && !q.sent && q.id != r.id) else []
  let s := s.setPort p { k with reads := k.reads.filter (fun q => q.id ≠ r.id && !drop.contains q) }
  (s.settleFlight r.exec r.uid 0 o (1 + drop.length))

/-- Waiting pieces of HWRs fail with an outcome, and what else waited is gone (R524, R526). -/
def State.failWaits (s : State) (p : Nat) (o : Outc) : State :=
  let w := (s.port p).waits
  let s := s.setPort p { s.port p with waits := [] }
  w.foldl (fun (s : State) q =>
    match q with
    | .write w => match w.flight with
      | some f => s.settleFlight w.exec f.uid 0 o
      | none => s
    | .msi _ => s) s

/-- A requester bank resets (R65): its select registers and its access history. -/
def State.resetBank (s : State) (k : Bank) : State :=
  let s := [Fld.REG_SEL_INDEX, .BLK_SEL_INDEX, .LNK_SEL_INDEX, .FMC_SEL_INDEX, .HPT_SEL_INDEX, .CEL_SEL_PHYS, .CEL_SEL_INDEX,
    .BDG_SEL_KIND, .BDG_SEL_INDEX].foldl (fun (s : State) f => s.setFld f k.code 0) s
  s.setBank k {}

/-- A port's host epoch advances (R523 to R527): CAUSE, and the outcome of everything that fails. -/
def State.advanceEpoch (s : State) (p : Port) (cause : Nat) (o : Outc) : State :=
  let e := (s.fld .HPT_EPOCH_EPOCH p + 1) % 65536
  let s := ((s.setFld .HPT_EPOCH_EPOCH p e).setFld .HPT_EPOCH_OPEN p 0).setFld .HPT_EPOCH_CAUSE p cause
  let s := s.failEntries p (s.port p).journal o
  let s := (s.port p).reads.foldl (fun (s : State) r => s.endRead p r o) s
  let s := s.failWaits p o
  let s := s.setPort p { s.port p with reads := [], flushes := [], msiWait := [], downAt := none }
  let s := ((s.resetBank (.host p)).reassignHost p)
  s.raise .chip 0x31 o.1 o.2 1 (info := p.val + 2 ^ 16 * e) (place := 0x11)

/-- Whether an event may advance a port's epoch now (R525): the link is up, PERST_N is not asserted, and no advance for the end
of this link has taken place. -/
def State.mayAdvance (s : State) (p : Nat) : Bool := s.dlUp p && !s.flag .HPT_LSTAT_PERST p && (s.port p).armed

/-- The bytes of a tensor in linear order, each with whether it is poison, its scale or extension bytes after its elements
(R275). -/
def linearBytes (a : Desc) (els : List RawEl) : List (Byte × Bool) := (remoteRuns a a.extents els).flatMap (·.2)

/-- Where linear bytes of a tensor lie: offset, address and length of each row, and of its side plane (R275). -/
def linearSpans (d : Desc) : List (Nat × Nat × Nat) :=
  let rows := (List.range d.rows).map (fun r => (r * d.rowBytes, d.rowAddr (0 :: unrank (d.extents.drop 1) r), d.rowBytes))
  if d.sideBytes = 0 then rows else rows ++ [(d.rows * d.rowBytes, d.scale, d.sideBytes)]

/-- Writes bytes at an offset among the linear bytes of a tensor; answers the DETAIL met and the bytes that landed (R277). -/
def State.writeLinear (s : State) (d : Desc) (off : Nat) (l : List Byte) (poison : Bool) : State × Nat × Nat :=
  (linearSpans d).foldl (fun (acc : State × Nat × Nat) q =>
    let lo := max off q.1
    let hi := min (off + l.length) (q.1 + q.2.2)
    if hi ≤ lo then acc
    else
      let a := q.2.1 + (lo - q.1)
      let r := acc.1.writeBytes d.who d.cls a ((l.drop (lo - off)).take (hi - lo)) poison
      (r.1, worseDetail acc.2.1 r.2, acc.2.2 + s.landed a (hi - lo))) (s, 0, 0)

/-- The host address of an HWR or HRD, and its port. -/
def hostTarget (x : Executor) (w : W128) (s : State) : Nat × Port := (s.sreg x (wf w 53 5), ⟨wf w 51 2 % 4, Nat.mod_lt _ (by decide)⟩)

/-- What an HWR or HRD completes with at once, if it cannot use its port: a closed gate (R524), or a port the mode does not
configure. -/
def State.portShut (s : State) (p : Nat) : Option Outc :=
  if !s.portOn p then some (0xC2, 0x10) else if !s.gateOpen p then some (0xC3, 0x04) else none

/-- MOV_HWR (R274 to R277, R516, R518, R520, R524). -/
def execMovHwr (x : Executor) (w : W128) (s : State) : Answer :=
  issue 1 3 x w s (fun _ => { rsvd := wf w 0 51 != 0 || fD w != 0 || fB w != 0 || fC w != 0 || regsBad x [wf w 53 5], descs := [fA w] })
    (fun s =>
      let a := s.descr x (fA w)
      let (addr, p) := hostTarget x w s
      let els := s.loadRaw a
      let bad := els.foldl (fun (m : Nat) e => worseDetail m e.bad) 0
      let l := linearBytes a els
      let act := moveClass w a (some 4)
      match tensorMove x w (fA w) s (moveQueue x) a.spans [] (fun t f =>
          let f := { f with epoch := (s.execCtx x).2.1 }
          match s.portShut p with
          | some o => (t, { f with status := o.1, detail := o.2, forced := true })
          | none => (t.noteReads (moverOf x) act a.spans, { f with status := (failed bad).1, detail := bad })) with
      | .fly t f _ =>
        if (s.portShut p).isSome then .fly t f
        else
          let parts := splitAligned 4096 addr l.length
          let ws := (List.range parts.length).map (fun i =>
            let q := parts.getD i (0, 0)
            let seg := (l.drop (q.1 - addr)).take q.2
            OutWait.write { exec := x.code, flight := some { f with forced := false }, index := i, addr := q.1, bytes := seg.map (·.1), bad := seg.any (·.2), act := act })
          .fly t { f with items := ws.length } (fun u =>
            (u.setPort p { u.port p with waits := (u.port p).waits ++ ws }).pumpPort p)
      | act => act)

/-- MOV_HRD (R274 to R277, R517, R518, R524). -/
def execMovHrd (x : Executor) (w : W128) (s : State) : Answer :=
  issue 1 4 x w s (fun _ => { rsvd := wf w 0 51 != 0 || fA w != 0 || fB w != 0 || fC w != 0 || regsBad x [wf w 53 5]
                              descs := [fD w], dest := some (fD w) })
    (fun s =>
      let d := (s.descr x (fD w)).plain
      let (addr, p) := hostTarget x w s
      match tensorMove x w (fD w) s (moveQueue x) [] d.spans (fun t f =>
          match s.portShut p with
          | some o => (t, { f with status := o.1, detail := o.2, forced := true })
          | none => (t, f)) with
      | .fly t f _ =>
        if (s.portShut p).isSome then .fly t f
        else
          let parts := splitAligned (s.port p).mrrs addr d.allBytes
          let rs := (List.range parts.length).map (fun i =>
            let q := parts.getD i (0, 0)
            ({ id := (s.port p).nextId + i, exec := x.code, uid := f.uid, addr := q.1, len := q.2, off := q.1 - addr
               cls := s.hostClass p q.1, act := moveClass w d (some 4), desc := (s.exe x).descLine (fD w) } : HostRd))
          .fly t { f with items := rs.length } (fun u =>
            (u.setPort p { u.port p with reads := (u.port p).reads ++ rs, nextId := (u.port p).nextId + rs.length }).pumpPort p)
      | act => act)

end Sys2Proof.Machine
end

