-- ==== Sys2Proof/Machine/Host.lean ====
section
/-! DEFINITION. The host ports' commands: inbound requests, completions, flush reads, epochs, interrupts (02: R69 to R74; 14:
R506 to R530; 16: R570). -/

namespace Sys2Proof.Machine

/-- A port answers an inbound request; data it sends is charged to HOST and never held (R515). -/
def State.reply (s : State) (p : Nat) (r : Reply) : State :=
  let s := match r with
    | .data l _ => s.owe 4 l.length (.pcie (Fin.ofNat 4 p))
    | _ => s
  s.setPort p { s.port p with replies := (s.port p).replies ++ [r] }

/-- A bit of a port's access table: the entry of an address, read or write (R69, R70). -/
def State.accBit (s : State) (p addr : Nat) (write : Bool) : Bool :=
  let n := addr / 2 ^ 30
  (s.fld .HPT_ACC_ENT p (n / 16)).testBit (2 * (n % 16) + bit1 write)

/-- What the checks of R70 say of a part: it passes, it is unmapped, or the table refuses it. -/
inductive Verdict where
  | pass | unmapped | refused
  deriving DecidableEq, Repr

/-- The checks of R70 on a part of a request through BAR2, which needs R, W or both. -/
def State.checkPart (s : State) (p dpa : Nat) (rd wr : Bool) : Verdict :=
  let a := canonical dpa
  if 0x300000000000 ≤ dpa then .unmapped
  else if (rd && !s.accBit p a false) || (wr && !s.accBit p a true) then .refused
  else if (s.place a).memory then .pass
  else .unmapped

/-- A refusal of the access table is recorded; the first since VALID was cleared sends MSI-X vector 0 (R72, R528). -/
def State.noteRefusal (s : State) (p : Port) (addr : Nat) (write bar0 : Bool) : State :=
  if s.flag .HPT_ACCERR_VALID p then s.bumpSat .HPT_ACCERR_COUNT p
  else
    let s := (s.setFld .HPT_ACCERR_VALID p 1).setFld .HPT_ACCERR_WRITE p (bit1 write)
    let s := (s.setFld .HPT_ACCERR_BAR0 p (bit1 bar0)).setFld .HPT_ACCERR_COUNT p 1
    let s := s.setFld .HPT_ACCERR_ADDR p (canonical addr)
    (s.setPort p { s.port p with waits := (s.port p).waits ++ [.msi 0] }).pumpPort p

/-- Whether a port serves memory requests: its link is up, and the device is not in the Kettle-only state (R570). -/
def State.portServes (s : State) (p : Nat) : Bool := s.portOn p && s.dlUp p

/-- The first part that fails its checks with a verdict. -/
def firstWith (l : List ((Nat × Nat) × Verdict)) (v : Verdict) : Option Nat := (l.find? (fun q => decide (q.2 = v))).map (·.1.1)

/-- One part of a posted write takes effect: one WrNC with exactly its bytes, or one access to a store, in class HOST (R511). -/
def State.postPart (s : State) (p a : Nat) (l : List Byte) (ep : Bool) : State :=
  let c := canonical a
  let w : LineWrite := ⟨byteMask (c % 64) l.length, BitVec.ofNat 512 (leNat l <<< (8 * (c % 64))), ep⟩
  if (s.place c).coherent then (s.writePart (hostMover p) 4 a l ep).1
  else s.scratchAccess ⟨Fin.ofNat 256 (128 + p), c, some w⟩

/-- HOST_POSTED_WRITE (R69 to R74, R510, R511, R542): a posted write through BAR2, its parts that pass performed, the others
discarded. -/
def execHostPostedWrite (p : Port) (addr : Nat) (data : List Byte) (ep : Bool) (s : State) : Answer :=
  .next (
    if !s.portServes p || !s.rangeFree addr data.length then s
    else
      let s := s.iff ep (fun s => s.bump .HPT_ERR_EP p)
      if s.flag .KTL_BOOT_KONLY 0 then s.bump .HPT_ERR_UR p
      else if s.fenced then s
      else
        let parts := (splitAligned 64 addr data.length).map (fun q => (q, s.checkPart p q.1 false true))
        let s := match firstWith parts .refused with
          | some a => s.noteRefusal p a true false
          | none => s
        let s := match firstWith parts .unmapped with
          | some a => s.hostError p a true
          | none => s
        (parts.filter (fun q => decide (q.2 = .pass))).foldl (fun (s : State) q =>
          s.postPart p q.1.1 ((data.drop (q.1.1 - addr)).take q.1.2) ep) s)

/-- Whether a posted write of a port still waits for a block (R513). -/
def State.postedWaits (s : State) (p : Nat) : Bool :=
  s.blks.any (fun b => b.2.inq.any (fun i =>
    match i with
    | .scratch x => x.req.val == 128 + p && x.wr.isSome
    | _ => false))

/-- A read or an atomic fails with the status of its lowest failing part (R72); the answer, or none when every part passes. -/
def State.failRequest (s : State) (p : Port) (parts : List ((Nat × Nat) × Verdict)) (write : Bool) : Option State :=
  match parts.find? (fun q => decide (q.2 ≠ .pass)) with
  | none => none
  | some q =>
    let s := match firstWith parts .refused with
      | some a => s.noteRefusal p a write false
      | none => s
    some (if q.2 = .unmapped then (s.bump .HPT_ERR_UR p).reply p .ur else (s.bump .HPT_ERR_CA p).reply p .ca)

/-- HOST_READ (R70 to R72, R513, R515, R542): performed once every earlier posted write of the port has taken effect. -/
def execHostRead (p : Port) (addr len : Nat) (s : State) : Answer :=
  .next (
    if !s.portServes p || s.postedWaits p then s
    else if s.flag .KTL_BOOT_KONLY 0 then (s.bump .HPT_ERR_UR p).reply p .ur
    else if s.fenced then (s.bump .HPT_ERR_CA p).reply p .ca
    else
      let parts := (splitAligned 64 addr len).map (fun q => (q, s.checkPart p q.1 true false))
      match s.failRequest p parts false with
      | some t => t
      | none =>
        match s.waitFor [(addr, len)] with
        | some u => u
        | none =>
          let g := s.readBytes addr len
          (s.noteRead (hostMover p) 4 addr len).reply p (.data g.bytes (g.detail != 0)))

/-- The operation of an AtomicOp (R104). -/
def HostAtomic.op : HostAtomic → AtomOp
  | .fetchAdd => .add
  | .swap => .swap
  | .cas => .cas

/-- An AtomicOp through BAR0 (R51, R67, R70, R72, R510): a register-space access like any other for the halves of R67; the access table
refuses it without R and W of entry 49,152, else it is an Unsupported Request. -/
def State.atomicBar0 (s : State) (p : Port) (addr : Nat) : State :=
  let s := s.otherAccess (.host p)
  if s.accBit p 0x300000000000 false && s.accBit p 0x300000000000 true then (s.bump .HPT_ERR_UR p).reply p .ur
  else ((s.noteRefusal p (0x300000000000 + addr) true true).bump .HPT_ERR_CA p).reply p .ca

/-- HOST_ATOMICOP (R55, R70 to R72, R104, R510, R513, R626): an AtomicOp of 4 or 8 bytes at near or far memory; at a store, of another
size, or through BAR0 where the access table lets it, it is an Unsupported Request. One that is not naturally aligned is a Malformed TLP, which gets no
completion and reaches no home. -/
def execHostAtomicop (p : Port) (bar0 : Bool) (op : HostAtomic) (size addr : Nat) (operand compare : W64) (s : State) : Answer :=
  .next (
    if !s.portServes p || addr % max size 1 != 0 || s.postedWaits p then s
    else if s.flag .KTL_BOOT_KONLY 0 then (s.bump .HPT_ERR_UR p).reply p .ur
    else if bar0 then s.atomicBar0 p addr
    else if !(size == 4 || size == 8) then (s.bump .HPT_ERR_UR p).reply p .ur
    else if s.fenced then (s.bump .HPT_ERR_CA p).reply p .ca
    else
      match s.failRequest p [((addr, size), s.checkPart p addr true true)] true with
      | some t => t
      | none =>
        let c := canonical addr
        if !(s.place c).coherent then (s.bump .HPT_ERR_UR p).reply p .ur
        else if !s.rangeFree addr size then s
        else
          let a := if op = .cas then compare else operand
          let s := s.haul (hostMover p) 4 addr size true
          let r := State.ncAtomic fadd32 (s.noteCoded 4 (c / 64)) 4 (c / 64) ⟨HostAtomic.op op, size == 8, Fin.ofNat 64 c, a, operand⟩
          match r.2 with
          | some old => (r.1.unsettle (hostMover p) [(addr, size)]).reply p (.data (leBytes size old) false)
          | none => (r.1.reply p (.data ((List.range size).map (Sys2Proof.Config.undefByte s.free)) true)).tick)

/-- A bit of configuration space other than the identifiers of R2 is PCIe's own; a read of it is free. -/
def configWord (n off : Nat) : List Byte :=
  if off = 0 then leBytes 4 0x15361E5C
  else if off = 8 then leBytes 4 0x120000A1
  else (List.range 4).map (fun i => Sys2Proof.Config.undefByte n (off + i))

/-- CONFIG_REQUEST (R2, R508, R570): answered with retry status until stage 7 begins, unless the device is Kettle-only. -/
def execConfigRequest (p : Port) (req : ConfigReq) (s : State) : Answer :=
  .next (
    if !s.portServes p then s
    else if s.fld .KTL_BOOT_STAGE 0 < 7 && !s.flag .KTL_BOOT_KONLY 0 then s.reply p .crs
    else match req with
      | .read off => (s.reply p (.data (configWord s.free off) false)).tick
      | .busMaster en => ((s.setFld .HPT_LSTAT_BME p (bit1 en)).reply p (.data [] false)).pumpPort p
      | .sizes m r =>
        (s.setPort p { s.port p with mps := min (128 * 2 ^ m.val) 512, mrrs := min (128 * 2 ^ r.val) 4096 }).reply p (.data [] false))

/-- HRD_COMPLETION (R517, R520): a completion for an outstanding read. Data is written as it comes; the read is over when all of
it has come, or with an error completion, and then confirms the journal entries of its class. -/
def execHrdCompletion (p : Port) (id : Nat) (outcome : HrdOutcome) (s : State) : Answer :=
  .next (match (s.port p).reads.find? (fun r => r.sent && r.id == id) with
    | none => s
    | some r =>
      match outcome with
      | .unsupported | .abort => (s.endRead p r (0xC0, 3)).confirm p r.cls
      | .data l ep =>
        let d := { (Desc.ofLine r.desc).plain with who := (execOf r.exec).elim (hostMover p) moverOf, cls := r.act }
        if l.isEmpty || decide (r.len < r.got + l.length) then s
        else match s.waitFor d.spans with
        | some u => u
        | none =>
          let (t, det, n) := s.writeLinear d (r.off + r.got) l ep
          let t := t.iff ep (fun t => t.bump .HPT_ERR_EP p)
          let o := failed (worseDetail det (if ep then 2 else 0))
          let t := t.settleFlight r.exec r.uid n o 0
          if r.got + l.length = r.len then (t.endRead p r (0, 0)).confirm p r.cls
          else t.setPort p { t.port p with reads := (t.port p).reads.map (fun q =>
            if q.id = r.id then { q with got := q.got + l.length } else q) })

/-- HRD_COMPLETION_TIMEOUT (R517). -/
def execHrdCompletionTimeout (p : Port) (id : Nat) (s : State) : Answer :=
  .next (match (s.port p).reads.find? (fun r => r.sent && r.id == id) with
    | none => s
    | some r => ((s.bump .HPT_ERR_CTO p).endRead p r (0xC2, 0x11)).pumpPort p)

/-- A flush read of a class is issued to an address (R521, R528). -/
def State.issueFlush (s : State) (p cls : Nat) (msis : List Nat) : State :=
  let k := s.port p
  let addr := match (k.journal.reverse.find? (fun e => e.cls == cls)) with
    | some e => e.addr
    | none => Sys2Proof.Config.choice s.free
  (s.setPort p { k with flushes := k.flushes ++ [⟨cls, k.nextSeq, msis⟩], out := k.out ++ [.flush addr cls] }).tick

/-- JOURNAL_FLUSH_READ (R521): the journal holds AUTO_THR entries or its oldest has waited AUTO_AGE; the class of the oldest is
flushed, unless it is being flushed. -/
def execJournalFlushRead (p : Port) (s : State) : Answer :=
  .next (
    let k := s.port p
    match k.journal with
    | [] => s
    | e :: _ =>
      let thr := s.fld .HPT_JCTRL_AUTO_THR p
      let age := s.fld .HPT_JCTRL_AUTO_AGE p
      let due := (decide (thr ≠ 0) && decide (thr ≤ k.journal.length)) ||
        (decide (age ≠ 0) && decide (age * 1024 ≤ (s.clk.aon - e.sentAt) * 80))
      if !s.flag .HPT_CTRL_JAUTO p || !due || !s.portSends p || k.flushes.any (fun f => f.cls == e.cls) then s
      else s.issueFlush p e.cls [])

/-- The messages that waited for a flush read of class 0 get one of their own (R528). -/
def State.nextMsiFlush (s : State) (p : Nat) : State :=
  let k := s.port p
  if k.msiWait.isEmpty || k.flushes.any (fun f => f.cls == 0) || !s.portSends p then s
  else (s.setPort p { k with msiWait := [] }).issueFlush p 0 k.msiWait

/-- FLUSH_READ_COMPLETION (R520, R521, R528): the entries of its class are confirmed and the messages it is for are sent. -/
def execFlushReadCompletion (p : Port) (cls : Fin 9) (s : State) : Answer :=
  .next (match (s.port p).flushes.find? (fun f => f.cls == cls.val) with
    | none => s
    | some f =>
      let k := s.port p
      let s := s.setPort p { k with flushes := k.flushes.erase f, waits := f.msis.map OutWait.msi ++ k.waits }
      (s.confirm p cls).nextMsiFlush p)

/-- FLUSH_READ_TIMEOUT (R521): the entries of its class sent before it fail; the messages it is for are not sent. -/
def execFlushReadTimeout (p : Port) (cls : Fin 9) (s : State) : Answer :=
  .next (match (s.port p).flushes.find? (fun f => f.cls == cls.val) with
    | none => s
    | some f =>
      let k := s.port p
      let s := (s.setPort p { k with flushes := k.flushes.erase f }).bump .HPT_ERR_CTO p
      ((s.failEntries p (k.journal.filter (fun e => e.cls == cls.val && decide (e.seq < f.before))) (0xC2, 0x11)).nextMsiFlush p).pumpPort p)

/-- The function is reset: Bus Master Enable and the sizes the host set are gone. -/
def State.resetFunction (s : State) (p : Nat) : State :=
  (s.setFld .HPT_LSTAT_BME p 0).setPort p { s.port p with mps := 128, mrrs := 512 }

/-- A port's honoured PERST_N is asserted (R523, R525): while its link is up, or within the 2 µs after it went down, the epoch
advances once. Unused inputs are ignored (R506). -/
def State.perstOn (s : State) (p : Port) : State :=
  if !s.portOn p || s.flag .HPT_LSTAT_PERST p then s
  else
    let may := (s.port p).armed && (s.dlUp p || (s.port p).downAt.isSome)
    let s := s.setFld .HPT_LSTAT_PERST p 1
    let s := s.iff may (fun s => s.advanceEpoch p 1 (0xC3, 1))
    (s.setPort p { s.port p with armed := false }).resetFunction p

/-- A port's honoured PERST_N is deasserted (R615). -/
def State.perstOff (s : State) (p : Port) : State := if s.portOn p then s.setFld .HPT_LSTAT_PERST p 0 else s

/-- FUNCTION_LEVEL_RESET (R523). -/
def execFunctionLevelReset (p : Port) (s : State) : Answer :=
  .next (if !s.portServes p then s
    else (s.iff (s.mayAdvance p) (fun s => s.advanceEpoch p 2 (0xC3, 2))).resetFunction p)

/-- The host port a bank's HPT_SEL names (R61, R64). -/
def State.selPort (s : State) (who : Bank) : Option Port :=
  if h : s.fld .HPT_SEL_INDEX who.code < 4 then some ⟨s.fld .HPT_SEL_INDEX who.code, h⟩ else none

/-- The configured port a bank may command: host ports' writes are discarded (R506, R530). -/
def State.cmdPort (s : State) (who : Bank) : Option Port :=
  if who.isHost then none else (s.selPort who).filter (fun p => s.portOn p)

/-- HPT_CTRL.ADV is written (R523). -/
def State.softAdvance (s : State) (p : Port) : State := s.iff (s.mayAdvance p) (fun s => s.advanceEpoch p 3 (0xC3, 3))

/-- HPT_ADV. -/
def execHptAdv (who : Bank) (s : State) : Answer :=
  .next (let s := s.otherAccess who; match s.cmdPort who with
    | some p => s.softAdvance p
    | none => s)

/-- A port's data link goes down and its wait of 2 µs begins (R525). -/
def State.hostLinkDown (s : State) (p : Nat) : State :=
  if !s.dlUp p then s
  else
    let s := [Fld.HPT_LSTAT_DLUP, .HPT_LSTAT_SPEED, .HPT_LSTAT_NLW, .HPT_LSTAT_FLIT].foldl (fun (s : State) f => s.setFld f p 0) s
    s.setPort p { s.port p with downAt := if (s.port p).armed then some s.clk.aon else none }

/-- HOST_LINK_DOWN (R525). -/
def execHostLinkDown (p : Port) (s : State) : Answer := .next (s.hostLinkDown p.val)

/-- HOST_LINK_DOWN_ADVANCE (R523, R525): 50 aon cycles have passed and PERST_N is not asserted. -/
def execHostLinkDownAdvance (p : Port) (s : State) : Answer :=
  .next (match (s.port p).downAt with
    | none => s
    | some t =>
      if s.clk.aon < t + 50 || s.flag .HPT_LSTAT_PERST p || !(s.port p).armed then s
      else
        let s := s.advanceEpoch p 4 (0xC2, 0x10)
        (s.setPort p { s.port p with armed := s.dlUp p }).iff (!s.dlUp p) (fun s => s.resetFunction p))

/-- A write of HPT_GATE (R524): GO opens the gate when EPOCH is the current host epoch and the data link is up. -/
def State.writeGate (s : State) (p v : Nat) : State :=
  if bitOf v 31 && bitsOf v 0 16 == s.fld .HPT_EPOCH_EPOCH p && s.dlUp p then s.setFld .HPT_EPOCH_OPEN p 1 else s

/-- HPT_GATE_OPEN (R524, R530): open to every bank. -/
def execHptGateOpen (who : Bank) (v : W32) (s : State) : Answer :=
  .next (let s := s.otherAccess who; match (s.selPort who).filter (fun p => s.portOn p) with
    | some p => s.writeGate p v.toNat
    | none => s)

/-- A write of HPT_OBDATA (R524, R529): 4 bytes to the writer's OBADDR on a port; behind a closed gate nothing is sent. -/
def State.writeObdata (s : State) (who : Bank) (p v : Nat) : State :=
  if !s.gateOpen p then s
  else
    let w : HostPiece := { addr := s.fld .HPT_OBADDR_ADDR who.code * 4, bytes := leBytes 4 v }
    (s.setPort p { s.port p with waits := (s.port p).waits ++ [.write w] }).pumpPort p

/-- OBDATA_WRITE (R529, R530). -/
def execObdataWrite (who : Bank) (v : W32) (s : State) : Answer :=
  .next (let s := s.otherAccess who; match s.cmdPort who with
    | some p => s.writeObdata who p v.toNat
    | none => s)

/-- A write of HPT_MSIGEN (R524, R528). -/
def State.writeMsigen (s : State) (p v : Nat) : State :=
  let vec := bitsOf v 0 6
  if vec = 0 ∨ !s.gateOpen p then s
  else if bitOf v 8 then (s.setPort p { s.port p with msiWait := (s.port p).msiWait ++ [vec] }).nextMsiFlush p
  else (s.setPort p { s.port p with waits := (s.port p).waits ++ [.msi vec] }).pumpPort p

/-- MSIGEN (R528, R530). -/
def execMsigen (who : Bank) (v : W32) (s : State) : Answer :=
  .next (let s := s.otherAccess who; match s.cmdPort who with
    | some p => s.writeMsigen p v.toNat
    | none => s)

/-- HOST_LINK_UP (R507, R615): a port's link has trained; what waits at the port goes on. -/
def execHostLinkUp (p : Port) (speed : Fin 8) (lanes : Fin 9) (s : State) : Answer :=
  .next (
    if !s.portOn p || !s.ktl.dom.hostPort || s.flag .HPT_LSTAT_PERST p || s.dlUp p || speed.val == 0 then s
    else
      let s := (s.setFld .HPT_LSTAT_DLUP p 1).setFld .HPT_LSTAT_SPEED p speed
      let s := (s.setFld .HPT_LSTAT_NLW p lanes).setFld .HPT_LSTAT_FLIT p (bit1 (decide (6 ≤ speed.val)))
      ((s.setPort p { s.port p with armed := true }).pumpPort p).nextMsiFlush p)

/-- HPT_ACC_WRITE (R69, R73, R74): a write of HPT_ACCn of the port the writer's HPT_SEL names. -/
def execHptAccWrite (who : Bank) (n : Nat) (v : W32) (s : State) : Answer :=
  .next (let s := s.otherAccess who; match s.cmdPort who with
    | some p => if n < 4096 then s.setFld .HPT_ACC_ENT p v.toNat n else s
    | none => s)

end Sys2Proof.Machine
end

