-- ==== Sys2Proof/Machine/Boot.lean ====
section
/-! DEFINITION. Signed objects, the personality record, the boot stages, device resets and what is lost with power
(16: R565 to R579, R588; 17: R605, R608, R613 to R622; 03: R101, R115; 01: R18, R33). -/

namespace Sys2Proof.Machine

/-- Replaces the Kettle's part. -/
def State.setKtl (s : State) (k : Ktl) : State := { s with ktl := k }

/-- Bytes of the flash; erased bytes read 0xFF. -/
def Persist.bytes (p : Persist) (a n : Nat) : List Byte := (List.range n).map (fun i => Tbl.get p.flash 0xFF#8 (a + i))

/-- Where a slot begins (R568). -/
def slotBase (slot : Nat) : Nat := slot * 0x2000000

/-- Where the object of a TYPE begins in its slot, and the bytes it may take (R568). -/
def objectArea (type : Nat) : Nat × Nat :=
  if type = 1 then (0, 0x400000) else if type = 2 then (0x400000, 0x10000) else if type = 3 then (0x500000, 0x400000)
  else (0x900000, 0x1700000)

/-- The header of an object (R566). -/
def State.objHeader (s : State) (slot type : Nat) : List Byte :=
  s.ktl.persist.bytes (slotBase slot + (objectArea type).1) 128

/-- PLEN. -/
def State.objLen (s : State) (slot type : Nat) : Nat := fieldAt (s.objHeader slot type) 12 4

/-- The payload of an object. -/
def State.objPayload (s : State) (slot type : Nat) : List Byte :=
  s.ktl.persist.bytes (slotBase slot + (objectArea type).1 + 128) (s.objLen slot type)

/-- A whole object: header, payload and both signatures (R565). -/
def State.objBytes (s : State) (slot type : Nat) : List Byte :=
  s.ktl.persist.bytes (slotBase slot + (objectArea type).1) (128 + s.objLen slot type + 64 + 3309)

/-- Whether every one of some bytes is zero. -/
def allZero (l : List Byte) : Bool := l.all (fun b => decide (b = 0))

/-- Bytes [a, b] of a list. -/
def part (l : List Byte) (a b : Nat) : List Byte := (l.drop a).take (b + 1 - a)

/-- The checks of R567 on the object of a TYPE in a slot; a personality record with BIND all zeros is refused. -/
def State.objectOk (s : State) (slot type : Nat) (sigs : Sigs) : Bool :=
  let h := s.objHeader slot type
  let bind := part h 32 79
  let magic := if type = 2 then 0x52505856 else 0x57465856
  fieldAt h 0 4 == magic && fieldAt h 4 1 == type &&
  allZero (part h 5 7) && allZero (part h 22 23) && allZero (part h 30 31) && allZero (part h 80 127) &&
  decide (128 + s.objLen slot type + 64 + 3309 ≤ (objectArea type).2) &&
  sigs.ed && sigs.ml && decide (s.ktl.persist.svn.getD (type - 1) 0 ≤ fieldAt h 8 4) &&
  ((allZero bind && type != 2) || decide (bind = Sys2Proof.Config.identity))

/-- The booted slot. -/
def State.bootedSlot (s : State) : Nat := s.fld .KTL_BOOT_SLOT 0

/-- The digest of something a boot uses is kept under its measurement index (R582). -/
def State.measure (s : State) (index : Nat) (bytes : List Byte) : State :=
  s.setKtl { s.ktl with measured := Tbl.set s.ktl.measured [] index (Sys2Proof.Config.sha384 bytes) }

/-- The host-port mode and the widths of the ports (R506). -/
def State.setMode (s : State) (mode : Nat) : State :=
  (List.range 4).foldl (fun (s : State) p =>
    let w := if mode = 0 then (if p = 0 then 8 else 0) else if mode = 1 then (if p < 2 then 4 else 0) else 2
    (s.setFld .HPT_CFG_MODE p mode).setFld .HPT_CFG_WIDTH p w) s

/-- The stage of boot. -/
def State.stage (s : State) : Nat := s.fld .KTL_BOOT_STAGE 0

/-- Whether boot is at a stage and goes on: not Kettle-only, not held off by a thermal trip (R569, R617). -/
def State.atStage (s : State) (k : Nat) : Bool :=
  s.stage == k && !s.flag .KTL_BOOT_KONLY 0 && !s.ktl.stage1Due && !s.ktl.dom.tripped

/-- Boot goes on to a stage. -/
def State.toStage (s : State) (k : Nat) : State := s.setFld .KTL_BOOT_STAGE 0 k

/-! ## Power domains -/

/-- A host port goes dark: its link is down and what it held is gone; what was sent, answered and logged stays on record. -/
def State.portDark (s : State) (p : Nat) : State :=
  let s := [Fld.HPT_LSTAT_DLUP, .HPT_LSTAT_SPEED, .HPT_LSTAT_NLW, .HPT_LSTAT_FLIT, .HPT_LSTAT_BME].foldl
    (fun (s : State) f => s.setFld f p 0) s
  s.setPort p { out := (s.port p).out, replies := (s.port p).replies, aer := (s.port p).aer }

/-- Every port goes dark. -/
def State.portsDark (s : State) : State := (List.range 4).foldl (fun (s : State) p => s.portDark p) s

/-- Every domain except the Kettle's and the host-port domain is turned off: executors, caches and links stop. -/
def State.mainOff (s : State) : State :=
  let d : Domains := s.ktl.dom
  let n : Net := s.net
  let s : State := { s with
    execs := [], jobs := [], works := [], coh := {}
    net := { n with items := [], gets := [], puts := [], segs := [], colls := [], readies := [], gns := []
                    links := n.links.map (fun (p : Nat × LinkSt) => (p.1, { wire := p.2.wire })) }
    ktl := { s.ktl with dom := { d with fabric := false, logic := false, cores := false, far := false } } }
  (List.range 24).foldl (fun (s : State) l => s.setFld .LNK_STAT_STATE l 0) s

/-- Every domain except the Kettle's is turned off, the host-port domain too (R618, R619). -/
def State.allOff (s : State) : State :=
  let s : State := s.mainOff.portsDark
  s.setKtl { s.ktl with dom := { s.ktl.dom with hostPort := false } }

/-- The device enters the Kettle-only state (R569, R570): everything except the Kettle and the host-port domain is down; if the
record has not been applied, the port mode is 1×8. -/
def State.kettleOnly (s : State) (fail : Nat) : State :=
  let s := ((s.setFld .KTL_BOOT_KONLY 0 1).setFld .KTL_BOOT_FAIL 0 fail).setFld .KTL_ALERT_KONLY 0 1
  let s := s.iff (decide (fail ≤ 4)) (fun s => s.setMode 0)
  let s := s.mainOff
  s.setKtl { s.ktl with resetting := false }

/-- Memory whose contents have become undefined (R616): every byte that held something reads a free value. -/
def Mem.scrambled (m : Mem) (k : Nat) : Mem :=
  { bytes := m.bytes.foldl (fun (t : List Host.Cell) p => Tbl.set t unlistedByte p.1 (Sys2Proof.Config.undefByte k p.1)) [] }

/-- The registers of the Kettle that exist once. -/
def kettleRegs : List Reg :=
  [.KTL_BOOT, .KTL_PWR, .KTL_THERM, .KTL_SB, .KTL_SBLIM, .KTL_ALERT, .KTL_ALERT_EN, .KTL_TEL_CTRL, .KTL_TEL_BASE, .KTL_TEL_CB]

/-- Takes one register's fields over from another state. -/
def State.keepReg (s old : State) (r : Reg) (inst : Nat) : State :=
  r.fields.foldl (fun (s : State) f => s.setFld f inst (old.fld f inst)) s

/-- The registers that a device reset leaves: those of the Kettle, the port configuration and the PERST_N levels (R616). -/
def State.keepKettle (s old : State) : State :=
  let s := kettleRegs.foldl (fun (s : State) r => s.keepReg old r 0) s
  let s := (List.range 33).foldl (fun (s : State) k => (s.keepReg old .KTL_MB_DB k).keepReg old .KTL_MB_STAT k) s
  (List.range 4).foldl (fun (s : State) p =>
    (s.keepReg old .HPT_CFG p).setFld .HPT_LSTAT_PERST p (old.fld .HPT_LSTAT_PERST p)) s

/-- What the MRAM and the command queue hold across every reset, what the device has sent, and memory, undefined. -/
def State.bare (s : State) : State :=
  { pending := s.pending
    mem := s.mem.scrambled s.free
    repair := { retired := s.repair.retired }
    net := { links := s.net.links.map (fun (p : Nat × LinkSt) => (p.1, { wire := p.2.wire })) }
    hosts := s.hosts.map (fun (p : Nat × HostPort) => (p.1, { out := p.2.out, replies := p.2.replies, aer := p.2.aer }))
    ktl := { persist := s.ktl.persist }
    nextUid := s.nextUid
    free := s.free + 1 }

/-- TMAX as last measured. -/
def State.tmax (s : State) : Int := signedOf 8 (s.fld .KTL_THERM_TMAX 0)

/-- A device reset (R573, R598, R616, R617): every domain except the Kettle's and the host-port domain goes off, every register
but the Kettle's takes its reset value, links go down, memory is undefined, and boot goes on at stage 3. A device tripped by
temperature stays off unless TMAX is below 105 °C; one that never started its Kettle firmware has no stage to repeat and turns
on its host-port domain. -/
def State.deviceReset (s : State) : State :=
  if s.ktl.dom.tripped && decide (105 ≤ s.tmax) then s
  else if s.flag .KTL_BOOT_KONLY 0 && decide (s.fld .KTL_BOOT_FAIL 0 ≤ 3) then
    s.setKtl { s.ktl with dom := { s.ktl.dom with hostPort := true, tripped := false } }
  else
    let t := s.bare.keepKettle s
    let t := (t.setFld .KTL_BOOT_KONLY 0 0).setFld .KTL_BOOT_SEALED 0 0
    let t := (t.setFld .KTL_BOOT_FAIL 0 0).toStage 3
    let tel := s.ring .telemetry
    let t := { t with clk := { aon := s.clk.aon } }
    let t := t.setRing .telemetry tel
    t.setKtl { s.ktl with
      dom := { hostPort := s.ktl.dom.hostPort }
      seqEntry := none, coreEntry := none, runningAt := none, resetting := true }

/-- Standby power fails, or boot restarts at stage 1 (R573, R608): what is left is the MRAM, the flash and, over a
restart, LMS, the domains on standby power and the aon count. -/
def State.restart (s : State) (standby : Bool) : State :=
  let t := s.bare
  let k : Ktl := t.ktl
  if standby then
    let t : State := { t with clk := { aon := s.clk.aon } }
    let t := (t.setFld .KTL_SB_LEVEL 0 (s.fld .KTL_SB_LEVEL 0)).setFld .KTL_SB_HELD 0 (s.fld .KTL_SB_HELD 0)
    let t := (List.range 4).foldl (fun (t : State) p => t.setFld .HPT_LSTAT_PERST p (s.fld .HPT_LSTAT_PERST p)) t
    t.setKtl { k with standby := true, lms := s.ktl.lms, inputs := s.ktl.inputs, losses := s.ktl.losses
                      dom := { hostPort := s.ktl.dom.hostPort, tripped := s.ktl.dom.tripped } }
  else t

/-! ## Stages 1 and 2 -/

/-- STANDBY_POWER_UP (R569, R576 to R578, R605): stage 1. The boot counter counts, MADDR is sampled, and the self-test and the
root key decide whether boot goes on. -/
def execStandbyPowerUp (rep : StandbyReport) (s : State) : Answer :=
  .next (
    if !s.ktl.stage1Due then s
    else
      let p : Persist := s.ktl.persist
      let s := s.setKtl { s.ktl with
        standby := true, stage1Due := false, maddr := rep.maddr.val, identity := rep.selfTest && rep.pufOk
        persist := { p with boots := (p.boots + 1) % 2 ^ 32 } }
      let s := s.toStage 1
      if !rep.selfTest then s.kettleOnly 1
      else if !rep.pufOk then s.kettleOnly 2
      else s.toStage 2)

/-- BOOT_SLOT_CHOICE (R569, R571): stage 2. A slot under trial is tried first, at most three times; the Kettle firmware of the
other slot is tried when the first fails its checks. -/
def execBootSlotChoice (a b : Sigs) (s : State) : Answer :=
  .next (
    if !s.atStage 2 then s
    else
      let p : Persist := s.ktl.persist
      let trial := p.pendingSlot && decide (p.tries < 3)
      let first := if trial then 1 - p.active else p.active
      let s := s.setKtl { s.ktl with persist := { p with
        pendingSlot := trial, tries := if trial then p.tries + 1 else p.tries } }
      let ok (slot : Nat) : Bool := s.objectOk slot 1 (if slot = 0 then a else b)
      if !ok first && !ok (1 - first) then s.kettleOnly 3
      else
        let slot := if ok first then first else 1 - first
        let s := (s.setFld .KTL_BOOT_SLOT 0 slot).measure 1 Sys2Proof.Config.bootRom
        (s.measure 2 (s.objBytes slot 1)).toStage 3)

/-! ## Stage 3 -/

/-- The enable mask of a block in a record (R574). -/
def recordMask (r : List Byte) (b : Nat) : Nat := bitsOf (fieldAt r 32 204) (17 * b) 17

/-- A link's lane map (R574). -/
def recordLanes (r : List Byte) (l : Nat) : List Nat :=
  (List.range 8).map (fun i => bitsOf (fieldAt r (240 + 8 * l) 4) (4 * i) 3)

/-- Whether a link's lane map leaves it in DOWN (R432, R575): not a permutation, or a lane marked unusable. -/
def recordLinkBad (r : List Byte) (l : Nat) : Bool :=
  !((List.range 8).all (fun v => (recordLanes r l).contains v)) || fieldAt r (240 + 8 * l + 4) 1 != 0xFF

/-- DIMMs per channel and capacity of a FAR entry. -/
def recordFar (r : List Byte) (f : Nat) : Nat × Nat := (fieldAt r (432 + 4 * f) 1 % 4, fieldAt r (432 + 4 * f + 2) 2)

/-- The bytes of a record's payload that are rsvd (R574). -/
def recordRsvd (r : List Byte) : Bool :=
  allZero (part r 6 7) && allZero (part r 26 27) && allZero (part r 236 239) && allZero (part r 486 1023) &&
  (List.range 24).all (fun l => allZero (part r (240 + 8 * l + 5) (240 + 8 * l + 7))) &&
  (List.range 12).all (fun f => allZero (part r (432 + 4 * f + 1) (432 + 4 * f + 1)))

/-- PART: "VX1536-LA", zero-padded to 16 bytes. -/
def partName : List Byte := padTo 16 ([0x56, 0x58, 0x31, 0x35, 0x33, 0x36, 0x2D, 0x4C, 0x41].map (BitVec.ofNat 8))

/-- Whether a record's payload passes stage 3 (R575). -/
def recordOk (r : List Byte) (secver : Nat) : Bool :=
  r.length == 1024 && fieldAt r 0 4 == 0x52505856 && fieldAt r 4 2 == 1 && decide (part r 8 23 = partName) &&
  fieldAt r 24 1 == 0xA1 && fieldAt r 25 1 % 4 != 3 && fieldAt r 28 4 == secver &&
  fieldAt r 480 2 != 0 && decide (fieldAt r 480 2 ≤ 4200) && decide (fieldAt r 480 2 ≤ fieldAt r 482 2) &&
  decide (16 ≤ fieldAt r 485 1) && decide (fieldAt r 485 1 ≤ 32) && recordRsvd r

/-- The enable mask applied to a block: the record's with every retired position cleared (R200, R575). -/
def State.appliedMask (s : State) (r : List Byte) (b : Nat) : Nat :=
  (s.repair.retired.filter (fun p => p.1 == b)).foldl (fun (m : Nat) p => if m.testBit p.2 then m - 2 ^ p.2 else m) (recordMask r b)

/-- A record is applied: the port mode, the enable masks, the lane maps, the far population and the limits (R506, R575, R590,
R594); the power cap stands at PMAX. -/
def State.applyRecord (s : State) (r : List Byte) : State :=
  let masks := (List.range 96).map (fun b => s.appliedMask r b)
  let s := s.setKtl { s.ktl with
    persona := {
      spare := masks, badLinks := (List.range 24).filter (fun l => recordLinkBad r l)
      farPop := (List.range 12).map (fun f => recordFar r f), pmax := fieldAt r 480 2, pfast := fieldAt r 482 2
      tjThr := fieldAt r 484 1, cstepMin := fieldAt r 485 1 } }
  let s := s.setMode (fieldAt r 25 1 % 4)
  let s := (List.range 96).foldl (fun (s : State) b => s.setFld .BLK_SPARE_ENABLE b (masks.getD b 0)) s
  let s := (s.setFld .KTL_PWR_PCAP 0 (fieldAt r 480 2)).setFld .KTL_PWR_CAPINT 0 1
  s.setFld .KTL_THERM_TJ_THR 0 (fieldAt r 484 1)

/-- BOOT_PERSONALITY (R567, R569, R575): stage 3. -/
def execBootPersonality (sigs : Sigs) (s : State) : Answer :=
  .next (
    if !s.atStage 3 then s
    else
      let slot := s.bootedSlot
      let r := s.objPayload slot 2
      if s.objectOk slot 2 sigs && recordOk r (fieldAt (s.objHeader slot 2) 8 4) then
        ((s.applyRecord r).measure 3 (s.objBytes slot 2)).toStage 4
      else s.kettleOnly 4)

/-! ## Stages 4 and 5 -/

/-- The honoured PWR_OK. -/
def State.powerGood (s : State) : Bool := bitOf (s.fld .KTL_SB_LEVEL 0) 5

/-- BOOT_POWER_ON (R588, R612 to R614): stage 4. Once PWR_OK is honoured the domains are turned on in order and keys are drawn
for each populated far channel; in the Kettle-only state the host-port domain alone is turned on. -/
def execBootPowerOn (s : State) : Answer :=
  .next (
    if !s.powerGood || !s.ktl.losses.isEmpty || s.ktl.dom.tripped then s
    else if s.flag .KTL_BOOT_KONLY 0 then s.setKtl { s.ktl with dom := { s.ktl.dom with hostPort := true } }
    else if !s.atStage 4 then s
    else
      let d : Domains := s.ktl.dom
      let w : PowerSt := s.ktl.power
      let s := s.setKtl { s.ktl with
        dom := { d with hostPort := true, fabric := true, logic := true, cores := true, far := true }
        power := { w with energy := 0 } }
      let s := (List.range 12).foldl (fun (s : State) f =>
        s.iff (decide ((s.ktl.persona.farPop.getD f (0, 0)).1 ≠ 0)) (fun s => s.setFld .FMC_XTS_KEYED f 1)) s
      s.toStage 5)

/-- A block comes up (R18, R33): slots 0 to 15 take its enabled positions in ascending order and the one left over is the
spare; with any number of positions but 16 or 17 it stays in OFF, and the Kettle reports it as unusable: its report is kept in
Ktl.unusable (the spec lays no place for it down: DESIGN CHOICE, log entry 65). -/
def State.initBlock (s : State) (b : Block) : State :=
  let ps := setBits (s.ktl.persona.spare.getD b.val 0) 17
  let s := s.setBlk b.val {}
  let s := (List.range 16).foldl (fun (s : State) k => s.setPos b.val k (ps.getD k 0x1F)) s
  if ps.length = 16 ∨ ps.length = 17 then
    let s := s.setFld .BLK_SPARE_SPARE b.val (ps.getD 16 0x1F)
    (s.setFld .BLK_PWR_STATE b.val 0).wipeBlock b
  else
    let s := (s.setFld .BLK_SPARE_SPARE b.val 0x1F).setFld .BLK_PWR_STATE b.val 3
    s.setKtl { s.ktl with unusable := s.ktl.unusable ++ [b.val] }

/-- Whether a number of DIMMs and a capacity follow R620. -/
def farRules (p : Nat × Nat) : Bool :=
  (p.1 == 0 && p.2 == 0) || (p.1 == 1 && [64, 128, 256].contains p.2) || (p.1 == 2 && [128, 256, 512].contains p.2)

/-- Whether the DIMMs found are the ones a FAR entry names and follow R620 (R621). -/
def farMatches (p : Nat × Nat) (d : DimmReport) : Bool :=
  farRules p && d.dimms.length == p.1 && (d.dimms.map (·.1)).sum == p.2 && d.dimms.all (·.2) &&
  d.dimms.all (fun x => decide (some x.1 = d.dimms.head?.map (·.1)))

/-- The rows kept for repair on a channel: those with a resource left are repaired and removed, the others are counted
(R622). -/
def State.repairFar (s : State) (f : Nat) (d : DimmReport) : State :=
  let p : Persist := s.ktl.persist
  let left := p.farRepair.filter (fun q => q.1 != f || d.noResource.contains q.2)
  let s := s.setKtl { s.ktl with persist := { p with farRepair := left } }
  s.setFld .FMC_ECC_PPR_PEND f (left.filter (fun q => q.1 == f)).length

/-- A far channel is trained, or left unpopulated with a record of cause 0x26 (R621, R622). -/
def State.initFar (s : State) (f : Chan) (d : DimmReport) : State :=
  let p := s.ktl.persona.farPop.getD f.val (0, 0)
  let s := s.setFld .FMC_STAT_DPC f.val d.dimms.length
  if p = (0, 0) ∧ d.dimms = [] then s
  else if farMatches p d && d.trained then
    let s := s.repairFar f.val d
    let s := (s.setFld .FMC_STAT_POP f.val 1).setFld .FMC_STAT_CAP f.val p.2
    s.setFld .FMC_STAT_RATE f.val (if p.1 = 1 then 12800 else 8800)
  else (s.setFld .FMC_STAT_FAILED f.val 1).raise (.region f) 0x26 0xC0 0x01 2

/-- BOOT_INIT_STACKS (R18, R33, R569, R620 to R622): stage 5. -/
def execBootInitStacks (dimms : List DimmReport) (s : State) : Answer :=
  .next (
    if !s.atStage 5 then s
    else
      let s := s.setKtl { s.ktl with unusable := [] }
      let s := (List.range 96).foldl (fun (s : State) b => s.initBlock (Fin.ofNat 96 b)) s
      let s := (List.range 12).foldl (fun (s : State) f => s.initFar (Fin.ofNat 12 f) (dimms.getD f ⟨[], false, []⟩)) s
      s.toStage 6)

/-! ## Stages 6 to 8 -/

/-- The hop counts of R101. -/
def hopValue (i j : Nat) : Nat :=
  if 126 ≤ i ∨ 126 ≤ j then 15
  else
    let a := agentPlace i
    let b := agentPlace j
    if a < 12 ∧ b < 12 then meshHops a b
    else if 12 ≤ a ∧ 12 ≤ b then (if a = b then 0 else 3)
    else if a < 12 then dieHops (b - 12) a
    else dieHops (a - 12) b

/-- The value of DIR_HOPn that R101 gives: eight entries of four bits. -/
def hopWord (n : Nat) : Nat :=
  (List.range 8).foldl (fun (w : Nat) k => w + hopValue ((n * 8 + k) / 128) ((n * 8 + k) % 128) * 16 ^ k) 0

/-- The Kettle writes the hop table of every home (R101, R115). -/
def State.writeHops (s : State) : State :=
  (List.range 12).foldl (fun (s : State) r =>
    (List.range 2048).foldl (fun (s : State) n => s.setFld .DIR_HOP_HOPS r (hopWord n) n) s) s

/-- The Kettle, agent 124, as a mover (R52). -/
def kettleMover : Mover := ⟨124, none⟩

/-- An object's payload is placed at LOAD by the Kettle, in class MGMT (R36). -/
def State.placeObject (s : State) (slot type : Nat) : State :=
  (s.writeBytes kettleMover 7 (fieldAt (s.objHeader slot type) 16 6) (s.objPayload slot type)).1

/-- ENTRY of an object. -/
def State.objEntry (s : State) (slot type : Nat) : Nat := fieldAt (s.objHeader slot type) 24 6

/-- BOOT_SEQ_FIRMWARE (R101, R569): stage 6. The firmware runs in the sequencers' own context; the schedule contexts wait for
work (R203). -/
def execBootSeqFirmware (sigs : Sigs) (s : State) : Answer :=
  .next (
    if !s.atStage 6 then s
    else
      let s := s.writeHops
      let slot := s.bootedSlot
      if !s.objectOk slot 3 sigs then s.kettleOnly 5
      else
        let s := (s.placeObject slot 3).measure 4 (s.objBytes slot 3)
        (s.setKtl { s.ktl with seqEntry := some (s.objEntry slot 3) }).toStage 7)

/-- BOOT_HOST_FIRMWARE (R569): stage 7. -/
def execBootHostFirmware (sigs : Sigs) (s : State) : Answer :=
  .next (
    if !s.atStage 7 || s.ktl.coreEntry.isSome then s
    else
      let slot := s.bootedSlot
      if !s.objectOk slot 4 sigs then s.kettleOnly 6
      else
        let s := (s.placeObject slot 4).measure 5 (s.objBytes slot 4)
        s.setKtl { s.ktl with coreEntry := some (s.objEntry slot 4) })

/-- BOOT_RUNNING (R569): stage 8 begins and the seal is pending; a device reset is over. -/
def execBootRunning (s : State) : Answer :=
  .next (
    if !s.atStage 7 || s.ktl.coreEntry.isNone then s
    else (s.setKtl { s.ktl with runningAt := some s.clk.aon, resetting := false }).toStage 8)

/-- Configuration is sealed (R572). -/
def State.seal (s : State) : State := s.setFld .KTL_BOOT_SEALED 0 1

/-- SEAL_TIMEOUT (R572): 60 s after stage 8 began. -/
def execSealTimeout (s : State) : Answer :=
  .next (match s.ktl.runningAt with
    | some t => if s.clk.aon < t + 60 * 25000000 then s else s.seal
    | none => s)

end Sys2Proof.Machine
end

