-- ==== Sys2Proof/Machine/Colls.lean ====
section
/-! DEFINITION. Collectives: groups, the order of combination as each part passes through the rings, rendezvous, data, completion
and failure (07: R299 to R301; 12: R462 to R476; 11: R419; 09: R370). -/

namespace Sys2Proof.Machine

/-! ## Elements on the wire -/

/-- Whether a format has a scale or extension byte for its elements. -/
def fmtSide (f : Nat) : Bool := fmtMx f || f == 0x01

/-- The bytes n elements take on the wire: packed, then one scale or extension byte each where the format has them. -/
def wireBytes (f n : Nat) : Nat := ceilDiv (n * fmtBits f) 8 + (if fmtSide f then n else 0)

/-- Elements as bytes with their poison. -/
def elsToWire (f : Nat) (l : List CollEl) : List (Byte × Bool) :=
  let puts := l.map (fun e => match e with
    | some b => ({ bits := b % 2 ^ 64, side := b / 2 ^ 64 } : Put)
    | none => { bits := 0, bad := true })
  (rowImage f 0 puts puts.length (fun _ n => List.replicate n 0)).2 ++
    (if fmtSide f then puts.map (fun p => ((BitVec.ofNat 8 p.side : Byte), p.bad)) else [])

/-- n elements from bytes, a missing or poisoned byte being none. -/
def elsOfWire (f n : Nat) (l : List (Option Byte)) : List CollEl :=
  let row : List (Byte × Nat) := l.map (fun b => match b with
    | some v => (v, 0)
    | none => (0, 2))
  (List.range n).map (fun i =>
    let (b, bad) := pickElem f i row
    let side := if fmtSide f then l.getD (ceilDiv (n * fmtBits f) 8 + i) none else some 0
    match side with
    | some v => if bad = 0 then some (b + v.toNat * 2 ^ 64) else none
    | none => none)

/-- An element of memory as a collective carries it. -/
def RawEl.coll (e : RawEl) : CollEl := if e.bad = 0 then some (e.bits + e.side * 2 ^ 64) else if e.bad = 3 then some 0 else none

/-- The value of an element. -/
def collNum (subn : Bool) (f : Nat) (b : Nat) : Num := (readEl subn f ⟨b % 2 ^ 64, b / 2 ^ 64, 0⟩).num

/-- Elements of one format converted to another under RM, as one conversion each, and whether R130 flushed any (R131, R134, R469).
Elements that are only carried, in a format that stays the same, are left as they are (R135). -/
def convEls (arith : Bool) (rm : Nat) (sat subn : Bool) (src dst : Nat) (l : List CollEl) : List CollEl × Bool :=
  if src = dst ∧ arith = false then (l, false)
  else
    let els : List (Option El) := l.map (fun e => e.map (fun b => readEl subn src ⟨b % 2 ^ 64, b / 2 ^ 64, 0⟩))
    let outs : List Out := els.map (fun e => match e with
      | some v => { num := v.num }
      | none => { num := .fin false 0 0, bad := 2 })
    let puts := putRow dst (fun _ => Rm.ofField rm) sat subn 0 0 outs
    (puts.map (fun p => if p.bad then none else some (p.bits + p.side * 2 ^ 64)),
     els.any (fun e => (e.map (·.flushed)).getD false) || puts.any (·.flushed))

/-- Elements as FP32, to be combined (R469). -/
def toF32 (subn : Bool) (rm src : Nat) (l : List CollEl) : List CollEl × Bool := convEls true rm false subn src 0 l

/-- One combination of FP32 values, and whether R130 flushed one of them or the result (R131, R299, R468): a sum rounded to nearest,
or the maximum or minimum of IEEE 754-2019. -/
def combine (subn : Bool) (rop : Nat) (a b : CollEl) : CollEl × Bool :=
  match a, b with
  | some x, some y =>
    let u := readEl subn 0 ⟨x, 0, 0⟩
    let v := readEl subn 0 ⟨y, 0, 0⟩
    let r := if rop = 0 then u.num.add v.num else if rop = 1 then u.num.max2 v.num else u.num.min2 v.num
    let p := putPlain 0 .nearest false subn { num := r }
    (some p.bits, u.flushed || v.flushed || p.flushed)
  | _, _ => (none, false)

/-- What a collective notes of a conversion it made. -/
def Coll.noteFlush (c : Coll) (b : Bool) : Coll := { c with flushed := c.flushed || b }

/-! ## Rings -/

/-- The coordinates of a participant (R462). -/
def Coll.coords (c : Coll) (p : Nat) : List Nat := unrank c.shape p

/-- The participant next to another along a ring of a dimension. -/
def Coll.hop (c : Coll) (me d : Nat) (up : Bool) : Nat :=
  let n := c.shape.getD d 1
  let i := (c.coords me).getD d 0
  rank c.shape (setAt (c.coords me) d ((if up then i + 1 else i + n - 1) % n))

/-- This device's index among the participants. -/
def Coll.meIn (c : Coll) (dev : Nat) : Nat := c.parts.findIdx (· == dev)

/-- The number of participants. -/
def Coll.size (c : Coll) : Nat := c.parts.length

/-- The elements of a part. -/
def Coll.sizeOf (c : Coll) (q : Nat) : Nat := c.sizes.getD q 0

/-- The first element of a part. -/
def Coll.offOf (c : Coll) (q : Nat) : Nat := (c.sizes.take q).foldl (· + ·) 0

/-- Whether a part's coordinates agree with this participant's in every dimension before one. -/
def Coll.agrees (c : Coll) (me q d : Nat) : Bool := (List.range d).all (fun e => (c.coords me).getD e 0 == (c.coords q).getD e 0)

/-- Whether a collective reduces (RS, AR, SQN), and whether it gathers (AG, AR, SQN). -/
def Coll.reduces (c : Coll) : Bool := c.op == 0 || c.op == 2 || c.op == 5
/-- Whether a collective gathers. -/
def Coll.gathers (c : Coll) : Bool := c.op == 1 || c.op == 2 || c.op == 5

/-- The ring step at which an all-gather starts: after the steps of the reduce-scatter, where there is one. -/
def Coll.agBase (c : Coll) (d : Nat) : Nat := if c.op = 1 then 0 else c.shape.getD d 1 - 1

/-- The format the finals of a collective have. -/
def Coll.fmtD (c : Coll) : Nat := (Desc.ofLine c.lineD).fmt

/-- The data a participant will receive: sender's index, dimension, ring step, part (R465, R468). -/
def Coll.inflows (c : Coll) (me : Nat) : List (Nat × Nat × Nat × Nat) :=
  let i := c.coords me
  let parts := (List.range c.size).filter (fun q => c.sizeOf q ≠ 0)
  let rs := if !c.reduces then [] else (List.range c.shape.length).flatMap (fun d =>
    let n := c.shape.getD d 1
    parts.filterMap (fun q =>
      let j := (c.coords q).getD d 0
      if n ≤ 1 || !c.agrees me q d || i.getD d 0 = (j + 1) % n then none
      else some (c.hop me d false, d, (i.getD d 0 + 2 * n - j - 2) % n, q)))
  let ag := if !c.gathers then [] else (List.range c.shape.length).flatMap (fun d =>
    let n := c.shape.getD d 1
    parts.filterMap (fun q =>
      let j := (c.coords q).getD d 0
      if n ≤ 1 || !c.agrees me q d || i.getD d 0 = j then none
      else some (c.hop me d false, d, c.agBase d + (i.getD d 0 + 2 * n - j - 1) % n, q)))
  let bc := if c.op ≠ 4 then [] else
    let t := (me + c.size - c.root) % c.size
    if t = 0 then [] else parts.map (fun q => ((me + c.size - 1) % c.size, 0, t - 1, q))
  let a2a := if c.op ≠ 3 then [] else
    ((List.range c.size).filter (fun p => p ≠ me && c.recvSizes.getD p 0 ≠ 0)).map (fun p => (p, 0, 0, me))
  rs ++ ag ++ bc ++ a2a

/-- The participants a participant will send to. -/
def Coll.outflows (c : Coll) (me : Nat) : List Nat :=
  ((List.range c.size).filter (fun p => p ≠ me && (
    if c.op = 3 then c.sizeOf p ≠ 0
    else (c.inflows p).any (fun f => f.1 == me)))).eraseDups

/-- Data made ready for a neighbour. -/
def Coll.push (c : Coll) (peer dim ringStep part fmt : Nat) (els : List CollEl) : Coll :=
  { c with outs := c.outs ++ [{ peer := c.parts.getD peer 0, dim := dim, ringStep := ringStep, part := part, fmt := fmt, els := els }] }

/-- A part's final elements are here, obtained in a ring of dimension d (or made here: d is the number of dimensions): they are
kept, go on round that ring unless the next participant began it, and start the rings of the lower dimensions (R468). -/
def Coll.spread (c : Coll) (me q d : Nat) (els : List CollEl) : Coll :=
  let c := { c with finals := c.finals ++ [(q, els)] }
  let i := c.coords me
  if els.isEmpty then c
  else
    let c := if d < c.shape.length then
        let n := c.shape.getD d 1
        let j := (c.coords q).getD d 0
        let i0 := i.getD d 0
        if (i0 + 1) % n = j then c else c.push (c.hop me d true) d (c.agBase d + (i0 + n - j) % n) q c.fmtD els
      else c
    (List.range (min d c.shape.length)).foldl (fun (c : Coll) e =>
      if c.shape.getD e 1 ≤ 1 then c else c.push (c.hop me e true) e (c.agBase e) q c.fmtD els) c

/-- A part's value enters phase d of the reduction (R468): it begins a ring here, waits for the partial sum, or passes to the next
phase; after the last it is converted once and is final. The first argument bounds the phases. -/
def Coll.reduceOn (me : Nat) : Nat → Coll → Nat → Nat → List CollEl → Coll
  | 0, c, _, _, _ => c
  | k + 1, c, q, d, v =>
    if c.shape.length ≤ d then
      let (els, fl) := convEls true c.rm c.sat c.subn 0 c.fmtD v
      let c := c.noteFlush fl
      if c.gathers then c.spread me q c.shape.length els else { c with finals := c.finals ++ [(q, els)] }
    else
      let n := c.shape.getD d 1
      let j := (c.coords q).getD d 0
      let i := (c.coords me).getD d 0
      if n ≤ 1 then Coll.reduceOn me k c q (d + 1) v
      else if v.isEmpty then (if i = j then Coll.reduceOn me k c q (d + 1) v else c)
      else if i = (j + 1) % n then c.push (c.hop me d true) d 0 q 0 v
      else { c with own := c.own ++ [(q, d, v)] }

/-- Data that has arrived whole is taken in (R468). Answers none when this participant's own value is not there yet. -/
def Coll.takeIn (c : Coll) (me : Nat) (p : PartIn) (els : List CollEl) : Option Coll :=
  let n := c.shape.getD p.dim 1
  if c.reduces && decide (p.ringStep < n - 1) then
    match c.own.find? (fun o => o.1 == p.part && o.2.1 == p.dim) with
    | none => none
    | some o =>
      let both := (List.range o.2.2.length).map (fun k => combine c.subn c.rop (els.getD k none) (o.2.2.getD k none))
      let sum := both.map (·.1)
      let c := { c with own := c.own.erase o }.noteFlush (both.any (·.2))
      let j := (c.coords p.part).getD p.dim 0
      let i := (c.coords me).getD p.dim 0
      if i = j then some (Coll.reduceOn me (c.shape.length + 1) c p.part (p.dim + 1) sum)
      else some (c.push (c.hop me p.dim true) p.dim (p.ringStep + 1) p.part 0 sum)
  else if c.gathers then some (c.spread me p.part p.dim els)
  else if c.op = 4 then
    let t := (me + c.size - c.root) % c.size
    let c := { c with finals := c.finals ++ [(p.part, els)] }
    some (if t + 1 < c.size then c.push ((me + 1) % c.size) 0 t p.part c.fmtD els else c)
  else
    let src := c.parts.findIdx (· == p.src)
    some { c with finals := c.finals ++ [(src, els)] }

/-! ## Data on the links (R419, R469) -/

/-- The transactions of a part's data: for each 64 KiB buffer its table header and block map, then its blocks. Offset,
compressed, poison, bytes. -/
def bufferParts (fmt : Nat) (l : List (Byte × Bool)) : List (Nat × Bool × Bool × List Byte) :=
  (List.range (ceilDiv l.length 65536)).flatMap (fun b =>
    let part := (l.drop (65536 * b)).take 65536
    let (hdr, _, blocks) := compressBuf fmt (part.map (·.1))
    let n := blocks.length
    let poison (j : Nat) : Bool := ((part.drop (4096 * j)).take 4096).any (·.2)
    let use (j : Nat) : Option (List Byte) := if poison j then none else blocks.getD j none
    (65536 * b, true, false, hdr ++ mapOf ((List.range n).map (fun j => (use j).isSome))) :: (List.range n).map (fun j =>
      match use j with
      | some x => (65536 * b + 4096 * j, true, false, padTo (64 * ceilDiv x.length 64) x)
      | none => (65536 * b + 4096 * j, false, poison j, blockOf (part.map (·.1)) j)))

/-- The first n bytes of a part from its transactions so far, once they are all there. -/
def PartIn.whole (p : PartIn) (fmt n : Nat) : Option (List (Option Byte)) :=
  let isHdr (l : List Byte) : Bool := fieldAt l 0 4 == 0x31584356
  let block (k : Nat) : Option (List (Option Byte)) :=
    match p.xs.find? (fun x => x.1 == 4096 * k && !(x.2.1 && isHdr x.2.2.2)) with
    | none => none
    | some (_, comp, poison, l) =>
      if poison then some (List.replicate 4096 none)
      else if !comp then some (l.map some)
      else match p.xs.find? (fun x => x.1 == 65536 * (k / 16) && x.2.1 && isHdr x.2.2.2) with
        | none => none
        | some (_, _, _, h) =>
          match readHeader fmt (h.take 512) with
          | some (e, m, _) => match decodeBlock fmt e m (padTo 4096 l) with
            | some b => some (b.map some)
            | none => some (List.replicate 4096 none)
          | none => some (List.replicate 4096 none)
  let all := (List.range (ceilDiv n 4096)).map block
  if all.all (·.isSome) then some ((all.flatMap (fun b => b.getD [])).take n) else none

/-- The format data of a ring step has: FP32 for partial sums, else the destination's (R469). -/
def Coll.wireFmt (c : Coll) (p : PartIn) : Nat := if c.reduces && decide (p.ringStep < c.shape.getD p.dim 1 - 1) then 0 else c.fmtD

/-- The elements expected with some data. -/
def Coll.countIn (c : Coll) (p : PartIn) : Nat :=
  if c.op = 3 then c.recvSizes.getD (c.parts.findIdx (· == p.src)) 0 else c.sizeOf p.part

/-- Takes in what has arrived whole, as far as it can be used. The first argument bounds the rounds. -/
def Coll.settleIns (me : Nat) : Nat → Coll → Coll
  | 0, c => c
  | k + 1, c =>
    let ready : Option (PartIn × Coll) := c.ins.findSome? (fun p =>
      let n := c.countIn p
      match p.whole (c.wireFmt p) (wireBytes (c.wireFmt p) n) with
      | none => none
      | some l => (c.takeIn me p (elsOfWire (c.wireFmt p) n l)).map (fun d => (p, d)))
    match ready with
    | none => c
    | some (p, d) =>
      Coll.settleIns me k { d with
        ins := d.ins.erase p
        expects := d.expects.filter (fun e => !(e.1 == p.src && e.2.1 == p.dim && e.2.2.1 == p.ringStep && e.2.2.2 == p.part)) }

/-- The collective engine of a region as a requester (R52). -/
def collMover (r : Nat) : Mover := ⟨200 + r, none⟩

/-- A descriptor as a collective engine uses it: its traffic is charged to its CLASS (R267). -/
def Coll.desc (c : Coll) (l : Line) : Desc := { Desc.ofLine l with who := collMover c.region }

/-- Sends what is ready for participants whose READY is here (R465, R469); flushed values show in the region's NUM_STAT (R131). -/
def State.sendOuts (s : State) (c : Coll) : State :=
  let s := s.iff c.flushed (fun s => s.setFld .NUM_STAT_FLUSHED c.region 1)
  let c := { c with flushed := false }
  let go := c.outs.filter (fun o => c.ready.contains o.peer)
  let s := s.setColl { c with outs := c.outs.filter (fun o => !c.ready.contains o.peer) }
  s.addItems (go.flatMap (fun o =>
    (bufferParts o.fmt (elsToWire o.fmt o.els)).map (fun p =>
      { uid := c.uid, exec := c.region, left := 0, coll := some (c.grp, c.seq)
        x := { ttype := 3, cls := c.cls, comp := p.2.1, poison := p.2.2.1, dst := o.peer, epoch := c.epoch, len := p.2.2.2.length - 1
               grp := c.grp, colseq := c.seq, part := o.part, dim := o.dim, ringStep := o.ringStep, offset := p.1, data := p.2.2.2 } })))

/-! ## Groups -/

/-- GRP, ROP, RAGGED, SQ and ROOT of a COL word (R299). -/
def cGrp (w : W128) : Nat := wf w 50 12
/-- ROP. -/
def cRop (w : W128) : Nat := wf w 47 3
/-- RAGGED. -/
def cRagged (w : W128) : Bool := wf w 46 1 == 1
/-- SQ. -/
def cSq (w : W128) : Bool := wf w 45 1 == 1
/-- ROOT. -/
def cRoot (w : W128) : Nat := wf w 31 14

/-- An INT32 element as a count; negative ones count nothing. -/
def RawEl.cnt (e : RawEl) : Nat := e.int32.toNat

/-- Whether a list names no value twice. -/
def noRepeats : List Nat → Bool
  | [] => true
  | a :: t => !t.contains a && noRepeats t

/-- The DETAIL with which GNEW refuses a group, or 0 (R463, R476). -/
def State.groupBad (s : State) (grp : Nat) (ids shape : List Nat) : Nat :=
  if (s.group grp).isSome then 1
  else if ids.isEmpty || decide (12288 < ids.length) || ids.any (fun d => decide (s.fld .LNK_RTCFG_SIZE 0 ≤ d)) || !noRepeats ids ||
      !ids.contains s.devId || shape.any (· == 0) || shape.foldl (· * ·) 1 != ids.length then 2
  else if !s.flag .LNK_GRPBASE_EN 0 then 3 else 0

/-- The area of a group holds what the device keeps there, in a form the spec does not give (R462). -/
def State.markGroupArea (s : State) (r grp : Nat) : State :=
  let a := s.fld .LNK_GRPBASE_BASE 0 * 2 ^ 27 + grp * 32768
  ((s.writeBytes (collMover r) 2 a ((List.range 32768).map (fun i => Sys2Proof.Config.undefByte s.free (a + i)))).1).tick

/-- Whether a collective engine holds an instruction at dispatch: its queue is full, or GNEW meets a group that is ending. -/
def State.groupEnding (s : State) (grp : Nat) : Bool := match s.group grp with
  | some g => g.freeing
  | none => false

/-- COL_GNEW (R462, R463): a group is created from the list of A and the shape of B. -/
def execColGnew (x : Executor) (w : W128) (s : State) : Answer :=
  issue 7 0x10 x w s (fun s =>
    let b := s.descr x (fB w)
    { rsvd := wf w 0 50 != 0 || fD w != 0 || fC w != 0, descs := [fA w] ++ (if fB w = 0 then [] else [fB w])
      bad := (s.descr x (fA w)).fmt != 0x0B || (fB w != 0 && (b.fmt != 0x0B || b.ndim != 1 || decide (4 < b.extent 0))) }) (fun s =>
    let a := s.descr x (fA w)
    let b := s.descr x (fB w)
    if s.groupEnding (cGrp w) then .hold
    else
    let reads := a.spans ++ (if fB w = 0 then [] else b.spans)
    tensorMove x w (fA w) s .coll reads [] (fun t f =>
      let t := (t.noteReads (collMover x.region) a.cls a.spans).noteReads (collMover x.region) b.cls (if fB w = 0 then [] else b.spans)
      let f := { f with epoch := (t.execCtx x).2.1 }
      let ids := t.loadRaw a
      let dims := if fB w = 0 then [] else t.loadRaw b
      let bad := (ids ++ dims).foldl (fun (m : Nat) e => worseDetail m e.bad) 0
      let shape := if fB w = 0 then [ids.length] else dims.map RawEl.cnt
      let list := ids.map (fun e => e.bits)
      if bad ≠ 0 then (t, { f with status := 0xC0, detail := bad })
      else
        let why := t.groupBad (cGrp w) list shape
        if why ≠ 0 then (t, { f with status := 0x83, detail := why })
        else
          let t := { t with net := { t.net with groups := t.net.groups ++ [({ grp := cGrp w, parts := list, shape := shape } : Group)] } }
          (t.markGroupArea x.region (cGrp w), f)))

/-- The collectives of a group that have not ended. -/
def State.groupBusy (s : State) (grp : Nat) : Bool := s.net.colls.any (fun c => c.grp == grp)

/-- COL_GFREE (R301): the group ends once every collective issued before is complete. -/
def execColGfree (x : Executor) (w : W128) (s : State) : Answer :=
  issue 7 0x11 x w s (fun _ => { rsvd := wf w 0 50 != 0 || fD w != 0 || fA w != 0 || fB w != 0 || fC w != 0 }) (fun s =>
    match s.group (cGrp w) with
    | some g =>
      if g.freeing then queued x w .coll none s (fun t f => (t, { f with status := 0xC0, detail := 3 }))
      else queued x w .coll none s (fun t f =>
        (t.setGroup { g with freeing := true, freeUid := f.uid, freeRegion := x.region.val }, { f with items := 1 }))
    | none => queued x w .coll none s (fun t f => (t, { f with status := 0xC0, detail := 3 })))

/-- GROUP_FREED (R301): a group whose GFREE has been issued ends, none of its collectives being left. -/
def execGroupFreed (grp : Nat) (s : State) : Answer :=
  .next (match s.group grp with
    | some g =>
      if !g.freeing || s.groupBusy grp then s
      else
        let s := { s with net := { s.net with
          groups := s.net.groups.filter (fun h => h.grp ≠ grp), readies := s.net.readies.filter (fun h => h.grp ≠ grp) } }
        if h : g.freeRegion < 12 then s.mapFlight (.seq ⟨g.freeRegion, h⟩) g.freeUid (fun f => { f with items := 0 }) else s
    | none => s)

/-! ## Issue -/

/-- The class a collective's data is charged to on the links: the default of the collective engines (R36). What its descriptors read
and write in this device is charged to their CLASS fields (R267). -/
def collClass : Nat := 2

/-- What a collective needs (R259, R299, R466, R467); BIT1 and E8M0 are only carried (R628). -/
def collNeed (op : Nat) (x : Executor) (w : W128) (s : State) : Need :=
  let a2aB := op == 3 && cRagged w
  let usesC := cRagged w && op != 5
  let root := match s.group (cGrp w) with
    | some g => g.parts.getD (cRoot w) 16384 == s.devId
    | none => true
  let usesA := op != 4 || root
  let d := s.descr x (fD w)
  let a := s.descr x (fA w)
  let carried (f : Nat) : Bool := f == 0x1C || f == 0x1D
  { rsvd := wf w 0 31 != 0 || decide (2 < cRop w) || (op != 0 && op != 2 && (cRop w != 0 || cSq w)) ||
      (op != 4 && cRoot w != 0) || (op == 5 && cRagged w) || (!usesC && fC w != 0) || (!a2aB && fB w != 0)
    descs := [fD w] ++ (if usesA then [fA w] else []) ++ (if a2aB then [fB w] else []) ++ (if usesC then [fC w] else [])
    dest := some (fD w)
    bad := (op == 3 && d.fmt != a.fmt) || ((op == 0 || op == 2 || op == 5) && (carried a.fmt || carried d.fmt)) ||
      ((op == 1 || op == 4) && usesA && d.fmt != a.fmt && (carried a.fmt || carried d.fmt)) || (a2aB && (s.descr x (fB w)).fmt != 0x0B) ||
      (usesC && (s.descr x (fC w)).fmt != 0x0B) || (op == 5 && (d.count != 1 || d.fmt != 0)) }

/-- A collective enters its engine's queue (R301, R464): it takes the group's next number; a group that is not live is a decode
error. -/
def collIssue (op : Nat) (x : Executor) (w : W128) (s : State) : Answer :=
  issue 7 op x w s (fun s => collNeed op x w s) (fun s =>
    match s.group (cGrp w) with
    | none => queued x w .coll (some (fD w)) s (fun t f => (t, { f with status := 0xC0, detail := 3 }))
    | some g =>
      if g.freeing then queued x w .coll (some (fD w)) s (fun t f => (t, { f with status := 0xC0, detail := 3 }))
      else queued x w .coll (some (fD w)) s (fun t f =>
        let line (i : Nat) : Line := (t.exe x).descLine i
        let c : Coll := {
          grp := g.grp, seq := g.nextSeq, region := x.region.val, uid := f.uid, op := op, rop := cRop w, ragged := cRagged w, sq := cSq w
          epoch := f.epoch, cls := collClass, root := cRoot w, rm := fRM w, sat := fSAT w, subn := t.subn x, step := f.step
          lineD := line (fD w), lineA := line (fA w), lineB := line (fB w), lineC := line (fC w), parts := g.parts, shape := g.shape }
        let t := t.setGroup { g with nextSeq := (g.nextSeq + 1) % 65536 }
        let t := { t with net := { t.net with
          colls := t.net.colls ++ [c]
          gns := t.net.gns ++ (if cSq w then [{ region := x.region.val, uid := f.uid, step := f.step }] else []) } }
        (t, { f with items := 1 }))
        { reads := ([fA w] ++ (if fB w = 0 then [] else [fB w]) ++ (if fC w = 0 then [] else [fC w])).flatMap (fun i =>
            if (s.descr x i).valid then (s.descr x i).spans else [])
          writes := (s.descr x (fD w)).spans })

/-- COL_RS (R466, R468). -/
def execColRs (x : Executor) (w : W128) (s : State) : Answer := collIssue 0 x w s
/-- COL_AG (R466, R468). -/
def execColAg (x : Executor) (w : W128) (s : State) : Answer := collIssue 1 x w s
/-- COL_AR (R466, R468). -/
def execColAr (x : Executor) (w : W128) (s : State) : Answer := collIssue 2 x w s
/-- COL_A2A (R466, R467). -/
def execColA2a (x : Executor) (w : W128) (s : State) : Answer := collIssue 3 x w s
/-- COL_BC (R466, R468). -/
def execColBc (x : Executor) (w : W128) (s : State) : Answer := collIssue 4 x w s
/-- COL_SQN (R469). -/
def execColSqn (x : Executor) (w : W128) (s : State) : Answer := collIssue 5 x w s

/-! ## Start -/

/-- The sum of squares of some values in the ascending order of R635, in the internal format of their format (R174): the first square
rounded, then one fused step each. -/
def sumSquares (g : FFmt) (l : List Num) : Num := redFn g .nearest false 1 l

/-- The sum of the squares of some elements for the noise accumulators (R370): a poison element has no value, and neither has the sum
then. -/
def State.noiseSum (s : State) (kind : Nat) (f : Nat) (subn : Bool) (l : List CollEl) : State × Nat :=
  if l.any (·.isNone) then (s.tick, (Sys2Proof.Config.sum kind [s.free]).toNat)
  else (s, openSum .nearest kind (l.map (fun e =>
    let v := collNum subn f (e.getD 0)
    (f32.encode .nearest false (v.mul v)).bits)))

/-- The sizes of the parts (R466). -/
def Coll.partSizes (c : Coll) (n : Nat) (counts : List RawEl) : List Nat :=
  (List.range c.size).map (fun q =>
    if c.ragged then ((counts.map RawEl.cnt).getD q 0)
    else if c.op = 1 then n / c.size
    else n / c.size + bit1 (decide (q < n % c.size)))

/-- The counts a collective reads from C, and from B. -/
def State.collCounts (s : State) (c : Coll) : List RawEl × List RawEl :=
  (if c.ragged && c.op ≠ 5 then s.loadRaw (c.desc c.lineC) else [], if c.ragged && c.op = 3 then s.loadRaw (c.desc c.lineB) else [])

/-- The sizes of a collective's parts, and how many elements of A this participant contributes (R466). -/
def State.collSizes (s : State) (c : Coll) : List Nat × Nat :=
  let d := c.desc c.lineD
  let a := c.desc c.lineA
  let me := c.meIn s.devId
  let n := if c.op = 1 then c.size * a.count else if c.op = 4 then d.count else if c.op = 5 then 1 else a.count
  let sizes := c.partSizes n (s.collCounts c).1
  let all := sizes.foldl (· + ·) 0
  (sizes, if c.op = 4 ∧ me ≠ c.root then 0
    else min a.count (if c.op = 5 then a.count else if c.op = 1 then sizes.getD me 0 else all))

/-- The ranges a collective reads as it starts, with the class of each (R267). -/
def State.collReads (s : State) (c : Coll) : List (Nat × List (Nat × Nat)) :=
  let a := c.desc c.lineA
  let part (b : Bool) (d : Desc) : List (Nat × List (Nat × Nat)) := if b then [(d.cls, d.spans)] else []
  let n := (s.collSizes c).2
  (if n = 0 then [] else [(a.cls, a.firstSpans n)]) ++ part (c.ragged && c.op ≠ 5) (c.desc c.lineC) ++
    part (c.ragged && c.op = 3) (c.desc c.lineB)

/-- A collective begins at its engine (R465, R466): its operands are read, its parts formed, READY goes to whoever will send it
data, and the data it can send at once is made ready. The noise accumulators open for it (R372). -/
def State.beginColl (s : State) (c : Coll) : State :=
  let d := c.desc c.lineD
  let a := c.desc c.lineA
  let me := c.meIn s.devId
  let (counts, recvs) := s.collCounts c
  let (sizes, taken) := s.collSizes c
  let els := if taken = 0 then [] else (s.loadRaw a).take taken
  let bad := (els ++ counts ++ recvs).foldl (fun (m : Nat) e => worseDetail m e.bad) 0
  let s := (s.collReads c).foldl (fun (s : State) p => s.noteReads (collMover c.region) p.1 p.2) s
  let s := { s with net := { s.net with gns := s.net.gns.map (fun (g : GnsEntry) => if g.uid = c.uid then { g with opened := true } else g) } }
  let s := s.gnsFlush (s.net.gns.length + 1) c.region
  let c : Coll := { c with started := true, lastAt := s.clk.aon, bad := bad, sizes := sizes }
  let slots : List Nat :=
    if c.op ≠ 3 then [] else if c.ragged then (List.range c.size).map (fun p => (recvs.map RawEl.cnt).getD p 0)
    else List.replicate c.size (c.sizeOf me)
  let c : Coll := { c with recvSizes := slots }
  let c : Coll := { c with
    expects := (c.inflows me).map (fun (f : Nat × Nat × Nat × Nat) => (c.parts.getD f.1 0, f.2.1, f.2.2.1, f.2.2.2))
    sends := (c.outflows me).map (fun p => c.parts.getD p 0) }
  let vals : List CollEl := els.map RawEl.coll
  let slice (o k : Nat) : List CollEl := (List.range k).map (fun i => vals.getD (o + i) (some 0))
  let c : Coll :=
    if c.op = 5 then
      let vs := els.map (readEl c.subn a.fmt)
      let p := putPlain 0 .nearest false c.subn { num := sumSquares (widest [a.fmt]) (vs.map (·.num)) }
      let v := if bad ≠ 0 && bad ≠ 3 then none else some p.bits
      let c : Coll := c.noteFlush (p.flushed || vs.any (·.flushed))
      (List.range c.size).foldl (fun (c : Coll) q => Coll.reduceOn me (c.shape.length + 1) c q 0 (if c.sizeOf q = 0 then [] else [v])) c
    else if c.reduces then
      (List.range c.size).foldl (fun (c : Coll) q =>
        let (v, fl) := toF32 c.subn c.rm a.fmt (slice (c.offOf q) (c.sizeOf q))
        Coll.reduceOn me (c.shape.length + 1) (c.noteFlush fl) q 0 v) c
    else if c.op = 1 then
      let (v, fl) := convEls false c.rm c.sat c.subn a.fmt d.fmt (slice 0 (c.sizeOf me))
      (c.noteFlush fl).spread me me c.shape.length v
    else if c.op = 4 then
      if me ≠ c.root then c
      else (List.range c.size).foldl (fun (c : Coll) q =>
        let (v, fl) := convEls false c.rm c.sat c.subn a.fmt d.fmt (slice (c.offOf q) (c.sizeOf q))
        let c : Coll := { c with finals := c.finals ++ [(q, v)] }.noteFlush fl
        if v.isEmpty || c.size ≤ 1 then c else c.push ((me + 1) % c.size) 0 0 q d.fmt v) c
    else (List.range c.size).foldl (fun (c : Coll) q =>
      let v := slice (c.offOf q) (c.sizeOf q)
      if q = me then { c with finals := c.finals ++ [(me, v)] }
      else if v.isEmpty then c else c.push q 0 0 q d.fmt v) c
  let (s, loc) := if c.sq then s.noiseSum 40 a.fmt c.subn vals else (s, 0)
  let c : Coll := { c with loc := if c.sq then [loc, els.length] else [] }
  let held := s.net.readies.filter (fun h => h.grp == c.grp && h.seq == c.seq)
  let clash := held.any (fun h => h.op ≠ c.op || h.rop ≠ c.rop)
  let c : Coll := { c with ready := held.map HeldReady.src }
  let s := { s with net := { s.net with readies := s.net.readies.filter (fun h => !(h.grp == c.grp && h.seq == c.seq)) } }
  let s := s.setColl c
  if clash then s.failColl c (0xC0, 3)
  else
    let s := (c.expects.map (fun (e : Nat × Nat × Nat × Nat) => e.1)).eraseDups.foldl (fun (s : State) p =>
      s.sendReply { ttype := 0x13, cls := c.cls, src := s.devId, dst := p, epoch := c.epoch, op := c.op + 16 * c.rop, grp := c.grp, colseq := c.seq }) s
    s.sendOuts c

/-- The oldest collective of a region that has not started: the head of its engine's queue (R210, R464). -/
def State.collHead (s : State) (r : Nat) : Option Coll := s.net.colls.find? (fun c => c.region == r && !c.started)

/-- Whether the engine can start it: no other collective of its group runs, and fewer than 16 run in the region. -/
def State.collCan (s : State) (c : Coll) : Bool :=
  !s.net.colls.any (fun e => e.grp == c.grp && e.started) &&
  decide ((s.net.colls.filter (fun e => e.region == c.region && e.started)).length < 16) && !s.fenced

/-- A collective starts, once nothing it reads has to be waited for. -/
def State.startColl (s : State) (c : Coll) (go : State → State) : State :=
  match s.waitFor ((s.collReads c).flatMap (·.2)) with
  | some u => u
  | none => (go s).beginColl c

/-- The DETAIL with which a collective's epoch is refused (R474): older than the device's or distant, or older than one that
reached the epoch unit before it and waits. -/
def State.collStale (s : State) (c : Coll) : Nat :=
  let before := s.net.colls.takeWhile (fun e => !(e.grp == c.grp && e.seq == c.seq))
  let waits := before.filter (fun e => !e.started && e.epoch ≠ s.epoch && epochDetail e.epoch s.epoch == 0)
  if epochDetail c.epoch s.epoch ≠ 0 then epochDetail c.epoch s.epoch
  else waits.foldl (fun (m : Nat) e => worseDetail m (epochDetail c.epoch e.epoch)) 0

/-- COLLECTIVE_START (R464, R465, R474): the collective at the head of a region's engine starts, or is refused for its epoch. -/
def execCollectiveStart (r : Region) (grp : Nat) (s : State) : Answer :=
  .next (match s.collHead r with
    | some c =>
      if c.grp ≠ grp || s.fenced then s
      else if s.collStale c ≠ 0 then s.endColl c (0x82, s.collStale c) 0 true
      else if c.epoch ≠ s.epoch || !s.collCan c then s
      else s.startColl c (fun s => s)
    | none => s)

/-- EPOCH_ADVANCE (R474): a collective of a newer epoch starts once none of an older epoch that came before it is left, and the
device epoch becomes its own. -/
def execEpochAdvance (r : Region) (s : State) : Answer :=
  .next (match s.collHead r with
    | some c =>
      let before := s.net.colls.takeWhile (fun e => !(e.grp == c.grp && e.seq == c.seq))
      if c.epoch = s.epoch || s.collStale c ≠ 0 || !s.collCan c || before.any (fun e => epochDetail e.epoch c.epoch ≠ 0) then s
      else s.startColl c (fun s => s.setFld .LNK_EPOCH_EPOCH 0 c.epoch)
    | none => s)

/-! ## Arrivals -/

/-- Whether a collective's number has ended at its group (R472): it is below those that are left, or was issued and is not there. -/
def State.collEnded (s : State) (g : Group) (q : Nat) : Bool :=
  let d := (q % 65536 + 65536 - g.ended) % 65536
  decide (32768 ≤ d) || (decide (d < (g.nextSeq + 65536 - g.ended) % 65536) && (s.coll g.grp q).isNone)

/-- Whether a collective transaction can be acted on now: its group is not live, its number has ended, or its collective is
here. -/
def State.collReach (s : State) (x : Xact) (startedOnly : Bool) : Bool :=
  match s.group x.grp with
  | none => true
  | some g => s.collEnded g x.colseq || (match s.coll x.grp x.colseq with
    | some c => c.started || !startedOnly
    | none => false)

/-- LINK_CDATA (R465, R469, R472, R475): data of a collective is refused, or taken in and confirmed. -/
def execLinkCdata (l : Link) (s : State) : Answer :=
  .next (match s.fromInbox l (fun x => x.ttype == 0x03 && ((s.inboundBad x).isSome || s.collReach x true)) with
    | none => s
    | some (t, x) => match s.inboundBad x with
      | some (st, d) => t.refuseXact l x st d (st == 0x82)
      | none => match s.group x.grp with
        | none => t.refuseXact l x 0xC0 3 true
        | some g =>
          if s.collEnded g x.colseq then t.refuseXact l x 0x82 3 true
          else match s.coll x.grp x.colseq with
            | none => s
            | some c =>
              let mine (p : PartIn) : Bool := p.src == x.src && p.dim == x.dim && p.ringStep == x.ringStep && p.part == x.part
              let old := (c.ins.find? mine).getD { src := x.src, dim := x.dim, ringStep := x.ringStep, part := x.part }
              let p := { old with xs := old.xs ++ [(x.offset, x.comp, x.poison, x.data)] }
              let awaited := c.expects.any (fun e => e.1 == x.src && e.2.1 == x.dim && e.2.2.1 == x.ringStep && e.2.2.2 == x.part)
              let c := { c with
                ins := if awaited then c.ins.filter (fun q => !mine q) ++ [p] else c.ins
                lastAt := s.clk.aon }
              let c := Coll.settleIns (c.meIn s.devId) (c.ins.length + 1) c
              ((t.setColl c).sendReply (x.reply 0x10 0 0)).sendOuts c)

/-- LINK_READY (R465, R472): a participant is ready for this device's data. -/
def execLinkReady (l : Link) (s : State) : Answer :=
  .next (match s.fromInbox l (fun x => x.ttype == 0x13) with
    | none => s
    | some (t, x) => match s.group x.grp with
      | none => t.refuseXact l x 0xC0 3 true
      | some g =>
        if s.collEnded g x.colseq then t
        else match s.coll x.grp x.colseq with
          | some c =>
            if !c.started then { t with net := { t.net with readies := t.net.readies ++ [⟨x.src, x.grp, x.colseq, x.op % 16, x.op / 16 % 8⟩] } }
            else if x.op % 16 ≠ c.op || x.op / 16 % 8 ≠ c.rop then t.failColl c (0xC0, 3)
            else
              let c := { c with ready := c.ready ++ [x.src], lastAt := s.clk.aon }
              (t.setColl c).sendOuts c
          | none => { t with net := { t.net with readies := t.net.readies ++ [⟨x.src, x.grp, x.colseq, x.op % 16, x.op / 16 % 8⟩] } })

/-- LINK_CABORT (R471, R472): a participant has abandoned a collective. -/
def execLinkCabort (l : Link) (s : State) : Answer :=
  .next (match s.fromInbox l (fun x => x.ttype == 0x14 && s.collReach x false) with
    | none => s
    | some (t, x) => match s.group x.grp with
      | none => t.refuseXact l x 0xC0 3 true
      | some g =>
        if s.collEnded g x.colseq then t
        else match s.coll x.grp x.colseq with
          | some c => t.failColl c (0xC1, 5)
          | none => s)

/-! ## Completion -/

/-- The elements of D a collective has, by linear index: none where it writes nothing. -/
def Coll.result (c : Coll) (me : Nat) (j : Nat) : Option CollEl :=
  let part (q i : Nat) : Option CollEl := ((c.finals.find? (fun f => f.1 == q)).map (·.2)).bind (fun l => l[i]?)
  if c.op = 0 then part me j
  else if c.op = 3 then
    let slot := (Desc.ofLine c.lineD).count / c.size
    (List.range c.size).findSome? (fun p =>
      let lo := if c.ragged then (c.recvSizes.take p).foldl (· + ·) 0 else p * slot
      let n := if c.ragged then c.recvSizes.getD p 0 else slot
      if lo ≤ j ∧ j < lo + n then part p (j - lo) else none)
  else (List.range c.size).findSome? (fun q =>
    if c.offOf q ≤ j ∧ j < c.offOf q + c.sizeOf q then part q (j - c.offOf q) else none)

/-- Stretches of elements that are written, with the index each begins at. -/
def collRuns : Nat → List (Option CollEl) → List (Nat × List CollEl)
  | _, [] => []
  | i, none :: t => collRuns (i + 1) t
  | i, some e :: t => match collRuns (i + 1) t with
    | [] => [(i, [e])]
    | (j, l) :: r => if j = i + 1 then (i, e :: l) :: r else (i, [e]) :: (j, l) :: r

/-- The ranges that elements of one row take, from an index on, with their scale or extension bytes. -/
def Desc.pieceSpans (d : Desc) (row : List Nat) (i n : Nat) : List (Nat × Nat) :=
  let w := fmtBits d.fmt
  (d.rowAddr (0 :: row) + w * i / 8, ceilDiv (w * i % 8 + w * n) 8) ::
    (if fmtMx d.fmt then [(d.scale + ceilDiv i 32 + d.blocks * d.rowNo (0 :: row), ceilDiv (i + n) 32 - ceilDiv i 32)]
     else if d.fmt = 0x01 then [(d.scale + rank d.extents (i :: row), n)] else [])

/-- The result written to D (R466, R467, R470). Answers the DETAIL met and the bytes written. -/
def State.storeColl (s : State) (c : Coll) (me : Nat) : State × Nat × Nat :=
  let d := (c.desc c.lineD).plain
  (List.range d.rows).foldl (fun (acc : State × Nat × Nat) r =>
    let row := unrank (d.extents.drop 1) r
    let runs := collRuns 0 ((List.range (d.extent 0)).map (fun i => c.result me (r * d.extent 0 + i)))
    runs.foldl (fun (acc : State × Nat × Nat) p =>
      let puts : List Put := p.2.map (fun e => match e with
        | some b => { bits := b % 2 ^ 64, side := b / 2 ^ 64 }
        | none => { bits := 0, bad := true })
      let q := acc.1.writePuts d row p.1 puts
      let bad := if p.2.any (·.isNone) then 2 else 0
      (q.1, worseDetail acc.2.1 (worseDetail q.2 bad), acc.2.2 + s.landedIn (d.pieceSpans row p.1 p.2.length))) acc) (s, 0, 0)

/-- COLLECTIVE_COMPLETE (R470): all data has come and gone and every CDATA is confirmed; D is written and the instruction may
complete. -/
def execCollectiveComplete (r : Region) (grp : Nat) (s : State) : Answer :=
  .next (match s.net.colls.find? (fun c => c.region == r.val && c.grp == grp && c.started) with
    | none => s
    | some c =>
      let d := (c.desc c.lineD).plain
      let left := s.net.items.any (fun i => decide (i.coll = some (c.grp, c.seq)))
      if !c.expects.isEmpty || !c.outs.isEmpty || left || s.fenced then s
      else match s.waitFor d.spans with
      | some u => u
      | none =>
        let me := c.meIn s.devId
        let (t, bad, n) := s.storeColl c me
        let out := failed (worseDetail c.bad bad)
        let red := (List.range d.count).filterMap (fun j => c.result me j)
        let (t, sum) := if c.sq then t.noiseSum 41 d.fmt c.subn red else (t, 0)
        let t := if !c.sq then t else { t with net := { t.net with gns := t.net.gns.map (fun (g : GnsEntry) =>
          if g.uid = c.uid then { g with sums := some (c.loc ++ [sum, red.length]) } else g) } }
        t.endColl c out n false)

/-- The progress timeout of collectives in aon cycles (R471). -/
def State.collTimeout (s : State) : Nat := max 1 (s.fld .LNK_CETO_CE_TO 0) * 2 ^ 20

/-- COLLECTIVE_TIMEOUT (R471): nothing of a collective has arrived for the time of LNK_CETO. -/
def execCollectiveTimeout (r : Region) (grp : Nat) (s : State) : Answer :=
  .next (match s.net.colls.find? (fun c => c.region == r.val && c.grp == grp && c.started) with
    | none => s
    | some c => if s.clk.aon < c.lastAt + s.collTimeout then s else s.failColl c (0xC1, 3))

end Sys2Proof.Machine
end

