-- ==== Sys2Proof/Machine/Handlers.lean ====
section
/-! DEFINITION. The error handlers' commands and software reports (15: R534 to R542, R563). -/

namespace Sys2Proof.Machine

/-- HANDLER_TAKE (R534, R535, R539). -/
def execHandlerTake (q : LevelInst) (s : State) : Answer := .next (s.handlerTake q)

/-- The time limit of a level's handler in aon cycles: HTO × 25,000 for a region, 100 ms for the chip; the hardware handlers of
cells and blocks have none and end by a self-check failure (R539, R540). -/
def State.handlerLimit (s : State) (q : LevelInst) : Nat :=
  match q with
  | .cell _ | .block _ => 0
  | .region _ => max 1 (s.fld .RSL_CTRL_HTO 0) * 25000
  | .chip => 2500000

/-- HANDLER_TIMEOUT (R536, R539, R540): the record in hand, not ended within the limit of its level, escalates with ESC 3; the
chip's fences the device. -/
def execHandlerTimeout (q : LevelInst) (s : State) : Answer :=
  .next (match (s.errq q).cur with
    | [] => s
    | i :: _ =>
      match (s.errq q).at i with
      | none => s
      | some e =>
        if s.clk.aon < e.began + s.handlerLimit q then s
        else match q with
          | .chip => s.fence e.cause
          | _ => s.escalate q i 3)

/-- Whether a level's queue is popped by a register (R539, R540). -/
def popped : LevelInst → Bool
  | .region _ | .chip => true
  | _ => false

/-- The front record is resolved (R540, R541): at the chip its handling ends, but a record awaiting its job report keeps its slot until
its copy has entered the ring, and one of SEV 3 fences the device. -/
def State.popResolved (s : State) (q : LevelInst) : State :=
  match (s.errq q).cur with
  | [] => s
  | i :: _ =>
    match (s.errq q).at i with
    | none => s
    | some e =>
      if q = .chip then
        if e.sev = 3 then s.fence e.cause
        else if causeJobReport e.cause then
          let g := s.errq q
          (s.setErrq q { g with cur := g.cur.filter (· ≠ i), await := g.await ++ [i] }).jobReports
        else s.dequeue q i
      else s.dequeue q i

/-- A write of a POP register (R539, R540, R563). -/
def State.pop (s : State) (who : Bank) (q : LevelInst) (outcome : Nat) : State :=
  if who.isHost || !popped q then s
  else if outcome = 0 then s.popResolved q
  else match (s.errq q).cur with
    | [] => s
    | i :: _ => s.escalate q i (if outcome = 1 then 1 else 3)

/-- RSL_POP_RESOLVED. -/
def execRslPopResolved (who : Bank) (q : LevelInst) (s : State) : Answer := .next (let s := s.otherAccess who; s.pop who q 0)
/-- RSL_POP_ESCALATE. -/
def execRslPopEscalate (who : Bank) (q : LevelInst) (s : State) : Answer := .next (let s := s.otherAccess who; s.pop who q 1)
/-- RSL_POP_FAULT: OUTCOME 2, and 3, which acts as 2. -/
def execRslPopFault (who : Bank) (q : LevelInst) (s : State) : Answer := .next (let s := s.otherAccess who; s.pop who q 2)

/-- RSL_FENCE (R542, R563). -/
def execRslFence (who : Bank) (s : State) : Answer := .next (let s := s.otherAccess who; if who.isHost then s else s.fence 0x3F)

/-- A write of RSL_REPORT: its fields are kept, and GO writes a chip record of cause 0x3F from them (R537). -/
def State.report (s : State) (v : Nat) : State :=
  let s := s.setFld .RSL_REPORT_SEV 0 (bitsOf v 56 2)
  let s := s.setFld .RSL_REPORT_STATUS 0 (bitsOf v 48 8)
  let s := s.setFld .RSL_REPORT_DETAIL 0 (bitsOf v 40 8)
  let s := s.setFld .RSL_REPORT_INFO 0 (bitsOf v 0 40)
  s.iff (bitOf v 63) (fun s =>
    s.raise .chip 0x3F (bitsOf v 48 8) (bitsOf v 40 8) (bitsOf v 56 2) (info := bitsOf v 0 40))

/-- RSL_REPORT (R537, R563): open to every requester with a bank. -/
def execRslReport (who : Bank) (v : W64) (s : State) : Answer := .next (let s := s.otherAccess who; s.report v.toNat)

/-- FABRIC_ERROR (R537): a chip record of SEV 3, which fences the device. -/
def execFabricError (s : State) : Answer :=
  .next ((s.raise .chip 0x36 0xC0 0x01 3 (place := 0x10)).fence 0x36)

/-- FAR_CHANNEL_FAILURE (R537): the channel is shown failed and a region record degrades the device. -/
def execFarChannelFailure (f : Chan) (s : State) : Answer :=
  .next ((s.setFld .FMC_STAT_FAILED f 1).raise (.region f) 0x26 0xC0 0x01 2)

end Sys2Proof.Machine
end

