-- ==== Sys2Proof/Machine/Spdm.lean ====
section
/-! DEFINITION. Attestation: the Kettle as an SPDM responder (16: R580 to R582). -/

namespace Sys2Proof.Machine

/-- A number for each transport. -/
def transportCode : Transport → Nat
  | .doe p => p.val
  | .i3c => 4
  | .smbus => 5

/-- An SPDM transport. -/
def State.spdmOn (s : State) (t : Transport) : Spdm := Tbl.get s.ktl.spdm {} (transportCode t)
/-- Writes it. -/
def State.setSpdm (s : State) (t : Transport) (v : Spdm) : State :=
  s.setKtl { s.ktl with spdm := Tbl.set s.ktl.spdm {} (transportCode t) v }

/-- Whether a transport carries requests: the DOE mailbox of a configured port whose link is up, I3C and SMBus always. -/
def State.transportOn (s : State) (t : Transport) : Bool :=
  match t with
  | .doe p => s.portOn p.val && s.dlUp p.val
  | _ => true

/-- SPDM error codes (R580). -/
def spdmInvalid : SpdmResp := .error 1
/-- UnexpectedRequest. -/
def spdmUnexpected : SpdmResp := .error 4
/-- DecryptError. -/
def spdmDecrypt : SpdmResp := .error 6

/-- A request on a transport is answered; a device without an identity answers none (R577). -/
def State.spdm (s : State) (t : Transport) (f : Spdm → Spdm × SpdmResp) : State :=
  if !s.ktl.identity || !s.transportOn t then s
  else
    let r := f (s.spdmOn t)
    s.setSpdm t { r.1 with responses := r.1.responses ++ [r.2] }

/-- Whether a connection has been negotiated. -/
def Spdm.ready (d : Spdm) : Bool := d.version && d.caps && d.algs

/-- The request's bytes enter the transcript. -/
def Spdm.note (d : Spdm) (code : Nat) (bytes : List Byte) : Spdm :=
  { d with transcript := d.transcript ++ leBytes 1 code ++ bytes }

/-- A response over what it holds is signed with the Ed25519 key; M is kept for the ML-DSA-65 half (R580, R581). -/
def Spdm.sign (d : Spdm) (body : List Byte) : Spdm × List Byte :=
  let m := Sys2Proof.Config.spdmMessage d.transcript body
  ({ d with signed := some m }, Sys2Proof.Config.ed25519 m)

/-- SPDM_GET_VERSION (R580): negotiation starts anew. -/
def execSpdmGetVersion (t : Transport) (s : State) : Answer :=
  .next (s.spdm t (fun d => (({ version := true, signed := d.signed, responses := d.responses } : Spdm).note 0x84 [], .version)))

/-- SPDM_GET_CAPABILITIES (R580). -/
def execSpdmGetCapabilities (t : Transport) (s : State) : Answer :=
  .next (s.spdm t (fun d => if d.version then ({ d with caps := true }.note 0xE1 [], .capabilities) else (d, spdmUnexpected)))

/-- SPDM_NEGOTIATE_ALGORITHMS (R580): Ed25519, SHA-384, secp384r1 and AES-256-GCM. -/
def execSpdmNegotiateAlgorithms (t : Transport) (s : State) : Answer :=
  .next (s.spdm t (fun d =>
    if d.version && d.caps then ({ d with algs := true }.note 0xE3 [], .algorithms) else (d, spdmUnexpected)))

/-- SPDM_GET_DIGESTS (R580): the digest of the chain in slot 0. -/
def execSpdmGetDigests (t : Transport) (s : State) : Answer :=
  .next (s.spdm t (fun d =>
    if d.ready then (d.note 0x81 [], .digests (Sys2Proof.Config.sha384 (Sys2Proof.Config.chain 0))) else (d, spdmUnexpected)))

/-- SPDM_GET_CERTIFICATE (R580): a part of the Ed25519 chain in slot 0. -/
def execSpdmGetCertificate (t : Transport) (slot offset length : Nat) (s : State) : Answer :=
  .next (s.spdm t (fun d =>
    let c := Sys2Proof.Config.chain 0
    if !d.ready then (d, spdmUnexpected)
    else if slot ≠ 0 ∨ c.length < offset then (d, spdmInvalid)
    else
      let p := (c.drop offset).take length
      (d.note 0x82 (leBytes 2 offset ++ leBytes 2 length), .certificate p (c.length - offset - p.length))))

/-- SPDM_CHALLENGE (R580): a signed response. -/
def execSpdmChallenge (t : Transport) (nonce : List Byte) (s : State) : Answer :=
  .next (s.spdm t (fun d =>
    if !d.ready then (d, spdmUnexpected)
    else
      let r := (d.note 0x83 nonce).sign (Sys2Proof.Config.sha384 (Sys2Proof.Config.chain 0))
      (r.1, .challengeAuth r.2)))

/-- The four counters and the booted slot, which index 6 measures (R582). -/
def State.countersBytes (s : State) : List Byte :=
  (s.ktl.persist.svn.flatMap (fun c => leBytes 4 c)) ++ leBytes 1 s.bootedSlot

/-- The sealed values of every DIR_HOPn, DIR_CTRL and FMC_XTS, which index 7 measures (R582). -/
def State.sealedBytes (s : State) : List Byte :=
  ((List.range 12).flatMap (fun r =>
    ((List.range 2048).flatMap (fun n => leBytes 4 (s.fld .DIR_HOP_HOPS r n))) ++
    leBytes 4 (s.fld .DIR_CTRL_SNP_TO r * 65536))) ++
  (List.range 12).flatMap (fun f => leBytes 4 (s.fld .FMC_XTS_KEYED f * 2 + s.fld .FMC_XTS_EN f))

/-- A measurement (R582); an item this boot has not used has no stated digest. -/
def State.measurement (s : State) (index : Nat) : List Byte :=
  if index = 6 then Sys2Proof.Config.sha384 s.countersBytes
  else if index = 7 then (if s.flag .KTL_BOOT_SEALED 0 then Sys2Proof.Config.sha384 s.sealedBytes else List.replicate 48 0)
  else match Tbl.find? s.ktl.measured index with
    | some d => d
    | none => (List.range 48).map (fun i => Sys2Proof.Config.undefByte s.free i)

/-- SPDM_GET_MEASUREMENTS (R580, R582): index 0 asks how many there are, 0xFF for all of them. -/
def execSpdmGetMeasurements (t : Transport) (index : Nat) (nonce : List Byte) (s : State) : Answer :=
  .next (
    let items : Option (List (List Byte)) :=
      if index = 0 then some [[7#8]]
      else if index = 0xFF then some ((List.range 7).map (fun i => s.measurement (i + 1)))
      else if index ≤ 7 then some [s.measurement index]
      else none
    (s.spdm t (fun d =>
      if !d.ready then (d, spdmUnexpected)
      else match items with
        | none => (d, spdmInvalid)
        | some l =>
          let r := (d.note 0xE0 (leBytes 1 index ++ nonce)).sign l.flatten
          (r.1, .measurements l r.2))).tick)

/-- SPDM_KEY_EXCHANGE (R580): a signed response opens a handshake. -/
def execSpdmKeyExchange (t : Transport) (nonce : List Byte) (s : State) : Answer :=
  .next (s.spdm t (fun d =>
    if !d.ready || d.session then (d, spdmUnexpected)
    else
      let r := ({ d with handshake := true }.note 0xE4 nonce).sign nonce
      (r.1, .keyExchange r.2)))

/-- SPDM_FINISH (R580): the session is secured when the requester's code verifies. -/
def execSpdmFinish (t : Transport) (macOk : Bool) (s : State) : Answer :=
  .next (s.spdm t (fun d =>
    if !d.handshake then (d, spdmUnexpected)
    else if macOk then ({ d with handshake := false, session := true }, .finish)
    else ({ d with handshake := false }, spdmDecrypt)))

/-- SPDM_END_SESSION (R580). -/
def execSpdmEndSession (t : Transport) (s : State) : Answer :=
  .next (s.spdm t (fun d => if d.session then ({ d with session := false }, .endSession) else (d, spdmUnexpected)))

/-- SPDM_ML_DSA_SIGNATURE (R581): command 0x01, over the message of the last Ed25519-signed response of the transport. -/
def execSpdmMlDsaSignature (t : Transport) (s : State) : Answer :=
  .next (s.spdm t (fun d => match d.signed with
    | some m => (d, .vendor (Sys2Proof.Config.mldsa m))
    | none => (d, spdmUnexpected)))

/-- SPDM_ML_DSA_CHAIN (R581): command 0x02, a part of 1,024 bytes of the ML-DSA-65 chain. -/
def execSpdmMlDsaChain (t : Transport) (part : Nat) (s : State) : Answer :=
  .next (s.spdm t (fun d =>
    let c := Sys2Proof.Config.chain 1
    if c.length ≤ 1024 * part then (d, spdmInvalid) else (d, .vendor ((c.drop (1024 * part)).take 1024))))

end Sys2Proof.Machine
end

