-- ==== Sys2Proof/Machine/Mailbox.lean ====
section
/-! DEFINITION. The Kettle's mailbox and its commands (16: R571, R572, R579, R583, R586, R590, R593, R600 to R603). -/

namespace Sys2Proof.Machine

/-- A write of KTL_MB_DB (R600): with GO = 1 the doorbell is queued unless the bank's previous command is not done. -/
def State.writeDoorbell (s : State) (who : Bank) (v : Nat) : State :=
  let s := s.setFld .KTL_MB_DB_ADDR who.code (bitsOf v 6 42)
  if bitOf v 63 && !s.flag .KTL_MB_STAT_BUSY who.code then
    let s := (s.setFld .KTL_MB_STAT_BUSY who.code 1).setFld .KTL_MB_STAT_DONE who.code 0
    s.setKtl { s.ktl with doorbells := s.ktl.doorbells ++ [(who.code, bitsOf v 6 42 * 64)] }
  else s

/-- From whom a command is accepted (R601). -/
inductive MbFrom where
  | all | coresSession | session
  deriving DecidableEq, Repr

/-- Whether a source may send a command: server-core banks count as cores. -/
def MbFrom.takes (f : MbFrom) (src : MbSource) : Bool :=
  match f, src with
  | .all, _ => true
  | _, .session _ _ => true
  | .coresSession, .bank (.cluster _) => true
  | _, _ => false

/-- What a command does with its block: a RESULT and, when it is 0, the state after it and the DATA it returns. -/
abbrev MbAct := State → List Byte → Nat × State × List Byte

/-- A refusal with a RESULT of R602. -/
def mbFail (code : Nat) (s : State) : Nat × State × List Byte := (code, s, [])

/-- The command codes of R601. -/
def mbCodes : List Nat := [1, 2, 3, 0x10, 0x11, 0x20, 0x21, 0x30, 0x31, 0x32, 0x33, 0x34, 0x40, 0x41, 0x42]

/-- A command is performed on a block (R601, R602): unknown or malformed blocks give 1, a source that may not send it 2; a
refused command changes nothing. -/
def State.mbRun (s : State) (src : MbSource) (from_ : MbFrom) (act : MbAct) (block : List Byte) (bad : Bool) :
    Nat × State × List Byte :=
  if bad || !mbCodes.contains (fieldAt block 0 2) then mbFail 1 s
  else if !from_.takes src then mbFail 2 s
  else
    let r := act s block
    if r.1 = 0 then r else mbFail r.1 s

/-- The length of a block as it says itself; out of 64 to 4,096 it is malformed. -/
def mbLen (block : List Byte) : Nat := fieldAt block 4 4

/-- A mailbox command (R600): the front doorbell when it is the bank's, or the message of a secured session. The block is read,
the command performed, RESULT and DATA written, and then DONE set. A block that names another known command is left to it; one
the Kettle, agent 124, may not reach is malformed and a decode error (R51). One that lies in the store of a sleeping block waits
and wakes it (R60); one whose lines are in use waits (R87). -/
def State.mailbox (s : State) (src : MbSource) (cmd : Nat) (from_ : MbFrom) (act : MbAct) : State :=
  match src with
  | .bank k =>
    match s.ktl.doorbells with
    | [] => s
    | (c, a) :: t =>
      if c ≠ k.code then s
      else
        let head := s.readBytes a 64
        let len := mbLen head.bytes
        let badLen := decide (len < 64) || decide (4096 < len)
        let body := s.readBytes a (if badLen then 64 else len)
        let bad := badLen || body.detail != 0
        let code := fieldAt head.bytes 0 2
        if mbCodes.contains code && code != cmd && !bad then s
        else match s.waitFor [(a, max body.bytes.length (64 + (s.mbRun src from_ act body.bytes bad).2.2.length))] with
        | some held => held
        | none =>
          let s := s.noteRead kettleMover 7 a body.bytes.length
          let r := s.mbRun src from_ act body.bytes bad
          let u := r.2.1
          let u := u.setKtl { u.ktl with doorbells := t }
          let u := (u.writeBytes kettleMover 7 (a + 2) (leBytes 1 r.1)).1
          let u := if r.2.2.isEmpty then u
            else ((u.writeBytes kettleMover 7 (a + 4) (leBytes 4 (64 + r.2.2.length))).1.writeBytes kettleMover 7 (a + 64) r.2.2).1
          let u := (u.setFld .KTL_MB_STAT_RESULT c r.1).setFld .KTL_MB_STAT_BUSY c 0
          u.setFld .KTL_MB_STAT_DONE c 1
  | .session t block =>
    let len := mbLen block
    let bad := decide (len < 64) || decide (4096 < len) || block.length != len
    if !(s.spdmOn t).session || !s.ktl.identity || !s.transportOn t then s
    else if mbCodes.contains (fieldAt block 0 2) && fieldAt block 0 2 != cmd && !bad then s
    else
      let r := s.mbRun src from_ act block bad
      let out := if r.2.2.isEmpty then block.take 2 ++ leBytes 1 r.1 ++ block.drop 3
        else block.take 2 ++ leBytes 1 r.1 ++ part block 3 3 ++ leBytes 4 (64 + r.2.2.length) ++ part block 8 63 ++ r.2.2
      r.2.1.setSpdm t { r.2.1.spdmOn t with responses := (r.2.1.spdmOn t).responses ++ [.vendor out] }

/-- GET_INFO's DATA (R601): PART, STEPPING, identity digest, booted slot, stage, FAIL, counters, boot counter; a device without
an identity has no stated digest. -/
def State.infoBytes (s : State) : List Byte :=
  partName ++ leBytes 1 0xA1 ++
  (if s.ktl.identity then padTo 48 Sys2Proof.Config.identity else (List.range 48).map (fun i => Sys2Proof.Config.undefByte s.free i)) ++
  leBytes 1 s.bootedSlot ++ leBytes 1 s.stage ++ leBytes 1 (s.fld .KTL_BOOT_FAIL 0) ++
  (s.ktl.persist.svn.flatMap (fun c => leBytes 4 c)) ++ leBytes 4 s.ktl.persist.boots

/-- GET_INFO. -/
def execGetInfo (src : MbSource) (s : State) : Answer :=
  .next (s.mailbox src 1 .all (fun s _ => (0, s.tick, s.infoBytes)))

/-- GET_TELEMETRY (R599): the latest record; before the first there is none to return. -/
def execGetTelemetry (src : MbSource) (s : State) : Answer :=
  .next (s.mailbox src 2 .all (fun s _ => match s.ktl.telemetry with
    | some r => (0, s, r)
    | none => mbFail 5 s))

/-- GET_RETIRED: the retirement list, each entry as its physical number 17 b + p in two bytes. -/
def execGetRetired (src : MbSource) (s : State) : Answer :=
  .next (s.mailbox src 3 .all (fun s _ => (0, s, s.repair.retired.flatMap (fun p => leBytes 2 (physCell p.1 p.2)))))

/-- SET_POWER_CAP (R590, R592): PCAP, clamped to PMAX, and CAPINT from 1 to 100 ms. -/
def execSetPowerCap (src : MbSource) (s : State) : Answer :=
  .next (s.mailbox src 0x10 .coresSession (fun s b =>
    let cap := fieldAt b 8 2
    let int_ := fieldAt b 10 1
    if int_ = 0 ∨ 100 < int_ then mbFail 3 s
    else (0, (s.setFld .KTL_PWR_PCAP 0 (min cap s.ktl.persona.pmax)).setFld .KTL_PWR_CAPINT 0 int_, [])))

/-- SET_HCLK (R593): the rate of named clusters, 0.8 to 3.2 GHz in steps of 100 MHz; a cluster the power loop has slowed stays
slow. -/
def execSetHclk (src : MbSource) (s : State) : Answer :=
  .next (s.mailbox src 0x11 .coresSession (fun s b =>
    let mask := fieldAt b 8 2
    let mhz := fieldAt b 10 2
    if mhz < 800 ∨ 3200 < mhz ∨ mhz % 100 ≠ 0 then mbFail 3 s
    else
      let w : PowerSt := s.ktl.power
      let w := (setBits mask 16).foldl (fun (w : PowerSt) q =>
        let slow := decide (w.hclk.getD q 3200 < w.hclkSet.getD q 3200)
        { w with hclkSet := setAt w.hclkSet q mhz
                 hclk := setAt w.hclk q (if slow then min (w.hclk.getD q 3200) mhz else mhz) }) w
      (0, s.setKtl { s.ktl with power := w }, [])))

/-- LINK_SECRET (R583). -/
def execLinkSecret (src : MbSource) (s : State) : Answer :=
  .next (s.mailbox src 0x20 .session (fun s b => (0, s.setKtl { s.ktl with lms := some (part b 8 39) }, [])))

/-- LINK_REKEY (R586): the named links are to switch to their next generation. -/
def execLinkRekey (src : MbSource) (s : State) : Answer :=
  .next (s.mailbox src 0x21 .coresSession (fun s b =>
    (0, (setBits (fieldAt b 8 3) 24).foldl (fun (s : State) l => s.setLink l { s.link l with rekey := true }) s, [])))

/-- The writable slot (R571): neither ACTIVE nor booted. -/
def State.writableSlot (s : State) : Option Nat :=
  if s.ktl.persist.active = s.bootedSlot then some (1 - s.bootedSlot) else none

/-- Whether a range of the flash lies in the writable slot. -/
def State.inWritable (s : State) (a n : Nat) : Bool :=
  match s.writableSlot with
  | some k => decide (slotBase k ≤ a) && decide (a + n ≤ slotBase k + 0x2000000)
  | none => false

/-- FLASH_ERASE (R601): sectors of 64 KiB of the writable slot; offset in bytes 8 to 11, count in bytes 12 to 15. -/
def execFlashErase (src : MbSource) (flashOk : Bool) (s : State) : Answer :=
  .next (s.mailbox src 0x30 .coresSession (fun s b =>
    let a := fieldAt b 8 4
    let n := fieldAt b 12 4 * 65536
    if a % 65536 ≠ 0 ∨ !s.inWritable a n then mbFail 3 s
    else if !flashOk then mbFail 6 s
    else
      let p : Persist := s.ktl.persist
      (0, s.setKtl { s.ktl with persist := { p with
        flash := p.flash.filter (fun (q : Nat × Byte) => !(decide (a ≤ q.1) && decide (q.1 < a + n))) } }, [])))

/-- FLASH_WRITE (R601): DATA at a flash offset of the writable slot, given in bytes 8 to 11. -/
def execFlashWrite (src : MbSource) (flashOk : Bool) (s : State) : Answer :=
  .next (s.mailbox src 0x31 .coresSession (fun s b =>
    let a := fieldAt b 8 4
    let d := (b.drop 64).take (mbLen b - 64)
    if !s.inWritable a d.length then mbFail 3 s
    else if !flashOk then mbFail 6 s
    else
      let p : Persist := s.ktl.persist
      let f := (d.zip (natRange a d.length)).foldl (fun (f : Tbl Byte) (q : Byte × Nat) => Tbl.set f 0xFF#8 q.2 q.1) p.flash
      (0, s.setKtl { s.ktl with persist := { p with flash := f } }, [])))

/-- SET_PENDING (R601): all four objects of the writable slot pass R567, and it goes under trial. -/
def execSetPending (src : MbSource) (sigs : List Sigs) (s : State) : Answer :=
  .next (s.mailbox src 0x32 .coresSession (fun s _ => match s.writableSlot with
    | none => mbFail 5 s
    | some k =>
      if [1, 2, 3, 4].all (fun t => s.objectOk k t (sigs.getD (t - 1) ⟨false, false⟩)) then
        let p : Persist := s.ktl.persist
        (0, s.setKtl { s.ktl with persist := { p with pendingSlot := true, tries := 0 } }, [])
      else mbFail 4 s))

/-- COMMIT (R571): the booted pending slot becomes ACTIVE. -/
def execCommit (src : MbSource) (s : State) : Answer :=
  .next (s.mailbox src 0x33 .coresSession (fun s _ =>
    let p : Persist := s.ktl.persist
    if p.pendingSlot && s.bootedSlot != p.active then
      (0, s.setKtl { s.ktl with persist := { p with active := s.bootedSlot, pendingSlot := false, tries := 0 } }, [])
    else mbFail 5 s))

/-- ADVANCE_SVN (R579): each counter is raised to the SECVER of that TYPE's object in the ACTIVE slot. -/
def execAdvanceSvn (src : MbSource) (s : State) : Answer :=
  .next (s.mailbox src 0x34 .session (fun s _ =>
    let p : Persist := s.ktl.persist
    let svn := [1, 2, 3, 4].map (fun t => max (p.svn.getD (t - 1) 0) (fieldAt (s.objHeader p.active t) 8 4))
    (0, s.setKtl { s.ktl with persist := { p with svn := svn } }, [])))

/-- SEAL (R572). -/
def execSeal (src : MbSource) (s : State) : Answer :=
  .next (s.mailbox src 0x40 .coresSession (fun s _ => if s.flag .KTL_BOOT_SEALED 0 then mbFail 5 s else (0, s.seal, [])))

/-- What follows a command that was done: its effect on the whole device, once RESULT and DONE are written. -/
def State.thenIf (s old : State) (src : MbSource) (f : State → State) : State :=
  let done := match src with
    | .bank k => s.ktl.doorbells != old.ktl.doorbells && s.fld .KTL_MB_STAT_RESULT k.code == 0
    | .session t block => match (s.spdmOn t).responses.getLast? with
      | some (.vendor b) => decide (64 ≤ block.length) &&
          (s.spdmOn t).responses.length != (old.spdmOn t).responses.length && fieldAt b 2 1 == 0
      | _ => false
  if done then f s else s

/-- RESET_DEVICE (R573, R616, R617): refused while a device reset is in progress. -/
def execResetDevice (src : MbSource) (s : State) : Answer :=
  .next ((s.mailbox src 0x41 .coresSession (fun s _ => if s.ktl.resetting then mbFail 5 s else (0, s, []))).thenIf s src
    (fun s => s.deviceReset))

/-- RESET_KETTLE (R573): boot restarts at stage 1. -/
def execResetKettle (src : MbSource) (s : State) : Answer :=
  .next ((s.mailbox src 0x42 .session (fun s _ => (0, s, []))).thenIf s src (fun s => s.restart true))

end Sys2Proof.Machine
end

