-- ==== Sys2Proof/Machine/Pack.lean ====
section
/-! DEFINITION. The packer, replay and the stream commands (13: R494 to R500). -/

namespace Sys2Proof.Machine

/-- The fields of a stream record (R494). -/
structure StreamCfg where
  text : Bool
  log2n : Nat
  maxSamp : Nat
  budget : Nat
  longMax : Nat
  perStep : Nat
  start : Nat
  base : Nat
  bytes : Nat
  off : Nat
  cb : Nat
  pad : Nat
  flush : Nat
  deriving DecidableEq, Repr

/-- The layout of R494. -/
def streamCfg (b : List Byte) : StreamCfg :=
  { text := (fieldAt b 0 1).testBit 0, log2n := fieldAt b 1 1 % 16, maxSamp := fieldAt b 2 2, budget := fieldAt b 4 4
    longMax := fieldAt b 8 4, perStep := fieldAt b 12 4, start := fieldAt b 16 6, base := fieldAt b 24 6, bytes := fieldAt b 32 4
    off := fieldAt b 36 4, cb := fieldAt b 40 6, pad := fieldAt b 48 4, flush := fieldAt b 52 4 }

/-- Whether a stream record is invalid (R495); the bits of FLAGS and LOG2N that R494 does not list count as rsvd. -/
def streamInvalid (b : List Byte) : Bool :=
  let c := streamCfg b
  decide (12 < c.log2n) || c.maxSamp == 0 || decide (4096 < c.maxSamp) || c.budget == 0 ||
  decide (c.off < 64 + 16 * c.maxSamp) || c.base % 64 != 0 || (c.text && decide (c.longMax < c.budget)) ||
  decide (1 < fieldAt b 0 1) || decide (15 < fieldAt b 1 1) ||
  [22, 23, 30, 31, 46, 47].any (fun i => fieldAt b i 1 != 0) || fieldAt b 56 8 != 0

/-- The address of a stream's buffer i. -/
def StreamCfg.buf (c : StreamCfg) (i : Nat) : Nat := c.base + (i % 2 ^ c.log2n) * c.bytes

/-- The bytes of one unit of a stream's data region. -/
def StreamCfg.unit (c : StreamCfg) (image : Nat) : Nat := if c.text then 4 else image

/-- Closes a stream's open micro-batch (R497, R498): the unused positions are filled, the header and TAIL are written and the
number of the next micro-batch goes up. -/
def State.closeBatch (s : State) (n : Nat) : State :=
  let k := s.stream n
  match k.rcd, k.mb with
  | some r, some o =>
    let c := streamCfg r
    let a := c.buf o.buf
    let spare := c.budget - o.units
    let fill := if c.text then (List.replicate spare (leBytes 4 c.pad)).flatten else List.replicate (spare * o.image) 0
    let s := (s.writeBytes schedMover inputClass (a + c.off + c.unit o.image * o.units) fill).1
    let hdr := padTo 64 (leBytes 6 o.step ++ leBytes 2 o.micro ++ leBytes 4 o.nsamp ++ leBytes 4 o.units ++ leBytes 1 o.flags)
    let s := (s.writeBytes schedMover inputClass a hdr).1
    let s := (s.writeBytes schedMover inputClass c.cb (leBytes 8 (k.tail + 1))).1
    s.setStream n { k with mb := none, tail := k.tail + 1, m := k.m + 1 }
  | _, _ => s

/-- Whether a stream's batch ring has a free buffer (R497, R498). -/
def State.bufferFree (s : State) (n : Nat) : Bool :=
  let k := s.stream n
  match k.rcd with
  | some r =>
    let c := streamCfg r
    decide (k.tail - leNat (s.readBytes (c.cb + 64) 8).bytes < 2 ^ c.log2n)
  | none => false

/-- The ranges of a buffer that placing and closing touch (R498), with the batch ring's control block. -/
def StreamCfg.ranges (c : StreamCfg) (buf image units : Nat) : List (Nat × Nat) :=
  [(c.buf buf, 64 + 16 * c.maxSamp), (c.buf buf + c.off, c.unit image * max c.budget units), (c.cb, 128)]

/-- The packer waits for a free buffer: it watches the batch ring's consumer line (R231, R497, R498). -/
def State.watchBatch (s : State) (c : StreamCfg) : State := s.watchLine schedMover inputClass (canonical (c.cb + 64) / 64)

/-- A micro-batch is opened with a step and a number (R497). -/
def State.openBatch (s : State) (n step micro : Nat) : State :=
  let k := s.stream n
  s.setStream n { k with mb := some { buf := k.tail, step := step, micro := micro, last := s.clk.aon } }

/-- The units of a sample that are placed: a text sample keeps LONGMAX tokens (R496). -/
def StreamCfg.keeps (c : StreamCfg) (x : Sample) : Nat := if c.text then min x.units c.longMax else x.units

/-- Whether a placed sample carries TRUNC (R496). -/
def StreamCfg.cuts (c : StreamCfg) (x : Sample) : Bool := x.cut || (c.text && decide (c.longMax < x.units))

/-- The bytes of one image of a sample; 0 for text. -/
def StreamCfg.imageOf (c : StreamCfg) (x : Sample) : Nat := if c.text then 0 else (xformOf x.xf).imageBytes

/-- The ranges that placing a sample touches: the open micro-batch that closes first, the staging slot, and the buffer it goes to at a
unit offset. -/
def State.placeRanges (s : State) (n : Nat) (c : StreamCfg) (x : Sample) (closes : Bool) (off : Nat) : List (Nat × Nat) :=
  let k := s.stream n
  let image := c.imageOf x
  let now := match k.mb with
    | some o => c.ranges o.buf (if o.nsamp = 0 then image else o.image) (max o.units (off + c.keeps x))
    | none => []
  let next := if closes || k.mb.isNone then c.ranges (k.tail + bit1 closes) image (off + c.keeps x) else []
  (s.slotAddr x.slot, c.keeps x * c.unit image) :: (now ++ next)

/-- A sample is placed at a unit offset of the open micro-batch: its units are copied from the staging slot, the sample table
and the manifest get their entries, and the slot is freed (R490, R497 to R499). -/
def State.placeSample (s : State) (n : Nat) (x : Sample) (off : Nat) : State :=
  let k := s.stream n
  match k.rcd, k.mb with
  | some r, some o =>
    let c := streamCfg r
    let u := c.keeps x
    let image := c.imageOf x
    let size := u * c.unit image
    let a := c.buf o.buf
    let s := s.noteRead schedMover inputClass (s.slotAddr x.slot) size
    let s := (s.copyBytes schedMover inputClass (s.slotAddr x.slot) (a + c.off + c.unit image * off) size).1
    let s := (s.writeBytes schedMover inputClass (a + 64 + 16 * o.nsamp) (leBytes 5 x.sampleId ++ leBytes 3 x.status ++ leBytes 4 off ++ leBytes 4 u)).1
    let cut := c.cuts x
    let s := s.ringPut .manifest (manifestBytes x.sampleId (laneField x.lane + 16 * bit1 cut) x.status n o.step o.micro off u)
    let flags := o.flags ||| bit1 (x.status == 0x02) ||| (2 * bit1 cut)
    let s := s.setStream n { k with mb := some { o with nsamp := o.nsamp + 1, units := max o.units (off + u), flags := flags
                                                        image := image, last := s.clk.aon } }
    s.dropSample x
  | _, _ => s

/-- The sample whose turn it is to be packed: the first completed of those not packed (R497). -/
def State.firstDone (s : State) : Option Sample :=
  (s.pipe.samples.filter (fun x => x.at_ == .done)).foldl (fun (b : Option Sample) x =>
    match b with
    | none => some x
    | some y => if x.order < y.order then some x else b) none

/-- SAMPLE_PACK (R497 to R499): the first completed sample is placed into its stream's open micro-batch; without a free buffer
the packer waits, and so it does for blocks whose stores it reaches (R60). -/
def execSamplePack (slot : Nat) (s : State) : Answer :=
  .next (match s.firstDone with
    | none => s
    | some x =>
      let n := x.stream
      match (s.stream n).rcd with
      | none => s
      | some r =>
        let c := streamCfg r
        let u := c.keeps x
        if s.fenced || x.slot ≠ slot || s.flag .COL_CTRL_REPLAY 0 || !s.ringAccepts .manifest then s
        else
          let full := match (s.stream n).mb with
            | some o => decide (0 < o.nsamp) && decide (c.budget < o.units + u)
            | none => false
          let at0 := match (s.stream n).mb with
            | some o => if full then 0 else o.units
            | none => 0
          match s.waitFor (s.placeRanges n c x full at0) with
          | some u => u
          | none =>
          let t := s.iff full (fun s => s.closeBatch n)
          let k := t.stream n
          if k.mb.isNone && !t.bufferFree n then t.watchBatch c
          else
            let t := t.iff k.mb.isNone (fun s => s.openBatch n (c.start + k.m / max c.perStep 1) (k.m % max c.perStep 1))
            let off := match (t.stream n).mb with
              | some o => o.units
              | none => 0
            let t := t.placeSample n x off
            match (t.stream n).mb with
            | some o => t.iff (decide (c.budget ≤ o.units) || o.nsamp == c.maxSamp) (fun s => s.closeBatch n)
            | none => t)

/-- MICROBATCH_FLUSH (R497): FLUSH aon cycles have passed with no placement into a micro-batch that is not empty. -/
def execMicrobatchFlush (st : Fin 16) (s : State) : Answer :=
  .next (match (s.stream st).rcd, (s.stream st).mb with
    | some r, some o =>
      let c := streamCfg r
      if s.fenced || s.flag .COL_CTRL_REPLAY 0 || c.flush == 0 || o.nsamp == 0 || decide (s.clk.aon < o.last + c.flush) then s
      else (s.waitFor (c.ranges o.buf o.image o.units)).getD (s.closeBatch st)
    | _, _ => s)

/-- The status a replay record and a sample are compared by: moving to the slow lane is no part of the outcome (R500). -/
def outcomeOf (status : Nat) : Nat := if status = 0x04 then 0 else status

/-- A sample or refusal differs from its record: RPLERR is set and packing stops (R500). -/
def State.replayError (s : State) : State := s.setFld .COL_STAT_RPLERR 0 1

/-- REPLAY_RECORD (R500): the packer takes the record at HEAD of the replay ring once its sample is decoded or refused. While that
record lacks its tag, its line is watched (R236). -/
def execReplayRecord (s : State) : Answer :=
  .next (
    if s.fenced || !s.flag .COL_CTRL_REPLAY 0 || s.flag .COL_STAT_RPLERR 0 then s
    else if (s.rqEntry .replay).detail ≠ 0 then s.reportPoison .replay
    else if s.ringOn .replay && !s.entryReady .replay then s.watchRing .replay
    else if !s.entryReady .replay || !s.ringAccepts .manifest then s
    else
      let e := ((s.rqEntry .replay).bytes.drop 32)
      let id := fieldAt e 0 5
      let n := fieldAt e 7 1 % 16
      let refusal := (fieldAt e 5 1).testBit 7
      let was := s.pipe.refused.find? (fun f => f.sample == id && f.stream == n)
      let x := s.pipe.samples.find? (fun x => x.at_ == .done && x.sampleId == id && x.stream == n)
      match was, x with
      | some f, _ =>
        if refusal && f.status == fieldAt e 6 1 then
          let s := (s.copyEntry .replay).advanceHead .replay
          s.setPipe { s.pipe with refused := s.pipe.refused.erase f }
        else s.replayError
      | none, none => s
      | none, some x =>
        match (s.stream n).rcd with
        | none => s
        | some r =>
          let c := streamCfg r
          let same := !refusal && outcomeOf x.status == outcomeOf (fieldAt e 6 1) && c.keeps x == fieldAt e 20 4 &&
            c.cuts x == (fieldAt e 5 1).testBit 4
          if !same then s.replayError
          else
            let step := fieldAt e 8 6
            let micro := fieldAt e 14 2
            let other := match (s.stream n).mb with
              | some o => o.step != step || o.micro != micro
              | none => false
            match s.waitFor (s.placeRanges n c x other (fieldAt e 16 4)) with
            | some u => u
            | none =>
            let t := s.iff other (fun s => s.closeBatch n)
            let shut := (t.stream n).mb.isNone
            if shut && !t.bufferFree n then t.watchBatch c
            else (((t.iff shut (fun s => s.openBatch n step micro)).copyEntry .replay).advanceHead .replay).placeSample n x (fieldAt e 16 4))

/-- A command of COL_STRCMD ends with a result (R494). -/
def State.strEnd (s : State) (res : Nat) : State := (s.setFld .COL_STRCMD_DONE 0 1).setFld .COL_STRCMD_RESULT 0 res

/-- A stream is loaded from the record at an address; an invalid or unreadable record leaves it as it was. The batch ring goes on
from the counter its control block holds (R229). -/
def State.loadStream (s : State) (n a : Nat) : State :=
  let g := s.readBytes a 64
  let s := s.noteRead schedMover inputClass a 64
  if g.detail ≠ 0 then s.strEnd 1
  else if streamInvalid g.bytes then s.strEnd 1
  else (s.setStream n { rcd := some g.bytes, tail := leNat (s.readBytes (streamCfg g.bytes).cb 8).bytes }).strEnd 0

/-- A write of COL_STRCMD: OP and STREAM are kept, and GO performs OP on STREAM (R495). A load whose record stands in the store of a
sleeping block asks the block to wake and waits for it, DONE being 0 (R60); the next GO takes its place (DESIGN CHOICE, log
entry 104). -/
def State.writeStrCmd (s : State) (v : Nat) : State :=
  let op := bitsOf v 8 2
  let n := bitsOf v 0 4
  let a := s.fld .COL_STRSRC_ADDR 0 * 64
  let s := (s.setFld .COL_STRCMD_OP 0 op).setFld .COL_STRCMD_STREAM 0 n
  if !bitOf v 31 then s
  else
    let s := s.setPipe { s.pipe with strWait := none }
    if 1 < op then s.strEnd 1
    else if (s.stream n).mb.isSome then s.strEnd 2
    else if op = 1 then (s.setStream n {}).strEnd 0
    else if (s.asleep [(a, 64)]).isEmpty then s.loadStream n a
    else ((s.stirAll (s.asleep [(a, 64)])).setPipe { s.pipe with strWait := some (n, a) }).setFld .COL_STRCMD_DONE 0 0

/-- The load that waited for a block's store is made, now that the block runs (R60); a stream with an open micro-batch refuses it
(R495). -/
def State.strAwake (s : State) (b : Block) : State :=
  match s.pipe.strWait with
  | none => s
  | some (n, a) =>
    if s.blkState b ≠ .run ∨ ((s.place (canonical a)).store).all (fun p => p.1 ≠ b.val) then s
    else
      let s := s.setPipe { s.pipe with strWait := none }
      if (s.stream n).mb.isSome then s.strEnd 2 else s.loadStream n a

/-- BLOCK_STATE_REACHED (R27, R33, R60): the transition under way is complete, and a stream load that waited for it is made. -/
def execBlockStateReached (b : Block) (s : State) : Answer := .next ((s.reachState b).strAwake b)

/-- STREAM_LOAD (R494, R495): a write of COL_STRCMD with GO and the load OP; host ports' writes are discarded. -/
def execStreamLoad (who : Bank) (v : W32) (s : State) : Answer :=
  .next (let s := s.otherAccess who; s.iff (!who.isHost) (fun s => s.writeStrCmd ((v &&& 0xFFFFFCFF#32) ||| 0x80000000#32).toNat))

/-- STREAM_UNLOAD (R494): a write of COL_STRCMD with GO and the unload OP; host ports' writes are discarded. -/
def execStreamUnload (who : Bank) (v : W32) (s : State) : Answer :=
  .next (let s := s.otherAccess who; s.iff (!who.isHost) (fun s => s.writeStrCmd ((v &&& 0xFFFFFCFF#32) ||| 0x80000100#32).toNat))

end Sys2Proof.Machine
end

