-- ==== Sys2Proof/Machine/Upd.lean ====
section
/-! DEFINITION. UPD: the shard record and its checks, the common arithmetic, and GSQ, APPLY and ROWS (07: R303 to R305; 10: R376
to R390, R402). -/

namespace Sys2Proof.Machine

/-- PGRP of a UPD word. -/
def uPgrp (w : W128) : Nat := wf w 54 8
/-- BSU of a UPD word. -/
def uBsu (w : W128) : Bool := wf w 53 1 == 1
/-- COPY of a UPD word. -/
def uCopy (w : W128) : Bool := wf w 52 1 == 1

/-- The entry of a parameter group, when it is set up. -/
def State.group? (s : State) (n : Nat) : Option (List Byte) :=
  let e := Tbl.get s.upd.groups [] n
  if e = [] then none else some e

/-- Some bytes of a list replaced by a number. -/
def putAt (l : List Byte) (i k v : Nat) : List Byte := l.take i ++ leBytes k v ++ l.drop (i + k)

/-- Whether two descriptors have the same extents (R381). -/
def sameShape (a b : Desc) : Bool := a.extents == b.extents

/-- Formats a weight copy may have (R381). -/
def fmtCopy (f : Nat) : Bool := [0x00, 0x02, 0x03, 0x08, 0x09].contains f

/-- Formats a gradient may have (R377, R381). -/
def fmtGrad (f : Nat) : Bool := f == 0x00 || f == 0x02

/-- Whether a descriptor can be a shard record (R382). -/
def recordDesc (d : Desc) : Bool := d.fmt == 0x0B && d.ndim == 1 && d.extent 0 == 16 && d.base % 64 == 0

/-- What every UPD but GSQ needs (R381, R382): the rules its opcode serves, the entries it names beside D, D + 1, A and C,
and what else its operands must meet. -/
def updNeed (x : Executor) (w : W128) (s : State) (serves : Group0 → Bool) (entries : Group0 → List Nat) (ok : Group0 → Bool) : Need :=
  let d := s.descr x (fD w)
  let c := s.descr x (fC w)
  let base : Need := {
    rsvd := wf w 0 52 != 0 || (!uCopy w && fC w != 0)
    descs := [fD w, fD w + 1, fA w] ++ (if uCopy w then [fC w] else []), dest := some (fD w)
    bad := d.fmt != 0x01 || !fmtGrad (s.descr x (fA w)).fmt || !recordDesc (s.descr x (fD w + 1)) ||
      (uCopy w && (!fmtCopy c.fmt || !sameShape c d)) }
  match s.group? (uPgrp w) with
  | none => { base with more := 0x1C }
  | some e =>
    let g := Group0.ofBytes e
    if serves g then { base with descs := base.descs ++ entries g, bad := base.bad || !ok g } else { base with more := 0x1C }

/-- The constants of an update (R386). -/
structure UpdConst where
  fin : Bool
  k : Num
  lr : Num
  cw : Num
  b1 : Num
  b2 : Num
  c1 : Num
  c2 : Num
  eps : Num
  deriving DecidableEq, Repr

/-- The constants formed once from the group and S, which R130 may flush (R386). -/
def updConst (subn : Bool) (g : Group0) (norm : Nat) : UpdConst :=
  let r := st32 .nearest
  let v := (readEl subn 0 ⟨norm, 0, 0⟩).num
  let mx := f32.decode g.maxnorm
  let one := Num.one
  let k := if !g.clip || (!v.isNan && decide (v.cmp (mx.mul mx) ≤ 0)) then one
    else if v.isNan then .nan else r ((mx.mul mx).div v).sqrt
  { fin := finite32 norm, k := k, lr := f32.decode g.lr
    cw := r (one.sub ((f32.decode g.lr).mul (f32.decode g.wd))), b1 := f32.decode g.beta1, b2 := f32.decode g.beta2
    c1 := r (one.sub (f32.decode g.beta1)), c2 := r (one.sub (f32.decode g.beta2)), eps := f32.decode g.eps }

/-- The scaled gradient of an element (R386). -/
def UpdConst.grad (u : UpdConst) (a : Num) : Num := if u.fin then st32 .nearest (u.k.mul a) else Num.zero

/-- A master weight after its decay and step (R386, R388, R389): lq is the product of LR and the direction. -/
def UpdConst.weight (u : UpdConst) (wt lq : Num) : Num :=
  let rx := f32x.step .nearest false
  rx ((rx (wt.mul u.cw)).sub lq)

/-- The sign of a value as a value (R388). -/
def signOf (v : Num) : Num :=
  match v with
  | .nan => .nan
  | .inf s => .fin s 1 0
  | .fin s m _ => if m = 0 then Num.zero else .fin s 1 0

/-- What an element of a shard becomes: weight, momentum, second moment. -/
structure UpdEl where
  w : Num
  m : Num
  v : Num
  deriving DecidableEq, Repr

/-- SIGN (R388). -/
def signRule (u : UpdConst) (wt m a : Num) : UpdEl :=
  let r := st32 .nearest
  let g := u.grad a
  let dir := if u.b1.isZero && u.b2.isZero then signOf g else signOf (r ((r (u.b1.mul m)).add (r (u.c1.mul g))))
  ⟨u.weight wt (r (u.lr.mul dir)), r ((r (u.b2.mul m)).add (r (u.c2.mul g))), Num.zero⟩

/-- A power in FP64 by squaring and multiplying over the bits of the exponent from the most significant (R389). -/
def powBits (b : Num) : List Bool → Num → Num
  | [], acc => acc
  | t :: ts, acc =>
    let r := f64.step .nearest false
    let sq := r (acc.mul acc)
    powBits b ts (if t then r (sq.mul b) else sq)

/-- 1 / (1 - b^t) rounded once to FP32 (R389). -/
def biasFix (b : Num) (t : Nat) : Num :=
  let bits := ((List.range (Nat.log2 t)).map (fun i => t.testBit i)).reverse
  st32 .nearest (Num.one.div (Num.one.sub (powBits b bits b)))

/-- MOMENT (R389), with the two bias corrections. -/
def momentRule (u : UpdConst) (r1 r2 wt m v a : Num) : UpdEl :=
  let r := st32 .nearest
  let g := u.grad a
  let m := r ((r (u.b1.mul m)).add (r (u.c1.mul g)))
  let v := r ((r (u.b2.mul v)).add (r (u.c2.mul (r (g.mul g)))))
  let q := r ((r (m.mul r1)).div (r ((r (r (v.mul r2)).sqrt).add u.eps)))
  ⟨u.weight wt (r (u.lr.mul q)), m, v⟩

/-- The rounding of the weight copy (R138, R387): stochastic bits by the element's index in the copy, or RM. -/
def copyRm (w : W128) (g : Group0) (e : Exec) (i : Nat) : Rm :=
  if fRM w = 2 then .stoch g.srN (stochBits e.ctx.seed.toNat g.stream e.ctx.step ((g.indexBase + i) % 2 ^ 64) g.srN)
  else fRm w

/-- The check of R383 on a shard record: nothing to report, or why the update does not happen, with its COUNT. -/
def shardCheck (rec : List Byte) (step : Nat) (rows : Bool) : Option (Outc × Nat) :=
  if (fieldAt rec 6 1).testBit 0 then some ((0xC0, 0x0B), 0)
  else if !rows && step ≠ (fieldAt rec 0 6 + 1) % 2 ^ 48 then some ((0x81, 0), fieldAt rec 0 6)
  else none

/-- The first write of a shard record (R383): TORN and PEND. -/
def recordBegin (rec : List Byte) (step : Nat) : List Byte :=
  putAt (putAt rec 6 1 (fieldAt rec 6 1 / 2 * 2 + 1)) 24 6 step

/-- The last write of a shard record (R382, R383, R386): COUNT, T, K, NONFINITE and CLIPPED, TORN and PEND cleared. -/
def recordEnd (rec : List Byte) (step : Nat) (u : UpdConst) : List Byte :=
  let fl := fieldAt rec 6 1
  let clipped := !u.k.isNan && decide (u.k.cmp Num.one < 0)
  let rec1 := putAt rec 0 6 step
  let rec2 := putAt rec1 6 1 (fl / 16 * 16 + fl / 2 % 2 * 2 + 4 * bit1 (!u.fin) + 8 * bit1 clipped)
  let rec3 := putAt rec2 8 4 (min (fieldAt rec 8 4 + 1) (2 ^ 32 - 1))
  putAt (putAt rec3 12 4 u.k.f32bits) 24 6 0

/-- A refused or skewed update is counted (UPD_CNT). -/
def State.countUpd (s : State) (r : Nat) (status detail : Nat) : State :=
  if status = 0x81 then s.bump .UPD_CNT_SKEW r
  else if status = 0xC0 ∧ detail = 0x0B then s.bump .UPD_CNT_TORN r
  else if status = 0x03 then s.bump .UPD_CNT_DAMPED r
  else if status = 0x42 then s.bump .UPD_CNT_HELD r
  else s

/-- What an update keeps from its dispatch (R376, R378, R383): the group's entry, S with its DETAIL, and the shard record as the check
found it. -/
structure UpdSnap where
  entry : List Byte
  norm : Nat
  normBad : Nat
  shard : List Byte
  deriving DecidableEq, Repr

/-- The bytes of a snapshot, as a pass keeps them. -/
def UpdSnap.bytes (k : UpdSnap) : List Byte := padTo 128 k.entry ++ leBytes 4 k.norm ++ leBytes 1 k.normBad ++ k.shard

/-- The snapshot of some bytes. -/
def UpdSnap.ofBytes (l : List Byte) : UpdSnap := ⟨l.take 128, fieldAt l 128 4, fieldAt l 132 1, l.drop 133⟩

/-- The snapshot of an update that is dispatched now. -/
def State.updSnap (s : State) (x : Executor) (w : W128) : UpdSnap :=
  let e := (s.group? (uPgrp w)).getD []
  let norm := s.readBytes (Group0.ofBytes e).normPtr 4
  ⟨e, leNat norm.bytes, norm.detail, (s.readBytes (s.descr x (fD w + 1)).base 64).bytes⟩

/-- What an update's rule came to: the state, the record before its last write, what was stored, the outcome and COUNT. -/
structure UpdDone where
  s : State
  shard : List Byte
  st : Stored
  o : Outc
  count : Nat

/-- The rounding of a momentum: under RM, to nearest where RM names stochastic rounding, which R387 gives the copy alone (R134;
DEDUCED, log entry 33). -/
def momentRm (w : W128) : Rm := if fRM w = 2 then .nearest else fRm w

/-- A UPD's check of its shard (R305, R376, R383): S is read; an update that may not happen is over, else TORN and PEND are written. -/
def updCheck (x : Executor) (w : W128) (rows : Bool) (c : Cell) (s : State) (f : Flight) : State × Flight × Bool :=
  let dr := s.descr x (fD w + 1)
  let f := { f with pgrp := some (uPgrp w) }
  let s := s.noteRead (moverOf x) 6 (Group0.ofBytes ((s.group? (uPgrp w)).getD [])).normPtr 4
  let got := s.readBytes dr.base 64
  if got.detail ≠ 0 then (s, { f with status := 0xC0, detail := got.detail }, true)
  else match shardCheck got.bytes f.step rows with
    | some (o, n) => (s.countUpd c.region o.1 o.2, { f with status := o.1, detail := o.2, count := n }, true)
    | none => ((s.writeBytes dr.who dr.cls dr.base (recordBegin got.bytes f.step)).1, f, false)

/-- The end of a UPD: its record is written last (R382, R383). -/
def updFinish (x : Executor) (w : W128) (k : UpdSnap) (c : Cell) (f : Flight) (r : UpdDone) : State × Flight :=
  let dr := r.s.descr x (fD w + 1)
  let subn := r.s.subn x
  let u := updConst subn (Group0.ofBytes k.entry) k.norm
  let t := (r.s.writeBytes dr.who dr.cls dr.base (recordEnd r.shard f.step u)).1
  let t := t.countUpd c.region r.o.1 r.o.2
  t.engineEnd c f { r.st with flushed := r.st.flushed || (readEl subn 0 ⟨k.norm, 0, 0⟩).flushed } r.o r.count 1

/-- The frame of a UPD that updates a shard alone (R376, R383): its group's entry and S are read at dispatch, the record is
checked, written first and last, and the rule acts between. -/
def updRun (x : Executor) (w : W128) (rows : Bool) (s : State) (dests srcs : List Desc) (fits : Bool)
    (eff : UpdSnap → Cell → State → Flight → State × Flight) : Act :=
  let k := s.updSnap x w
  let near := [((Group0.ofBytes k.entry).normPtr, 4)]
  if !(s.asleep near).isEmpty then .wake (s.asleep near)
  else if !near.all (fun p => s.rangeFree p.1 p.2) then .hold
  else engine x w .vector (some (fD w)) (uBsu w) s dests (s.descr x (fD w + 1) :: srcs) (eff k) none (uBsu w && fits) k.bytes
    (updCheck x w rows)

/-- The effect of GSQ (R377, R635). -/
def gsqEff (x : Executor) (w : W128) (c : Cell) (s : State) (f : Flight) : State × Flight :=
  let d := (s.descr x (fD w)).plain
  let da := s.descr x (fA w)
  let a := s.load (s.subn x) da
  let s := s.logAbandoned c [da]
  let (t, st) := s.storeAll d (fun _ => fRm w) (fSAT w) (s.subn x) (fun _ =>
    { mkOut (redFn f32 (fRm w) (fSAT w) 1 (nums (fRm w) a.els)) a.els with b := 0 })
  t.engineEnd c f { st with flushed := st.flushed || a.flushed } (0, 0) d.count 1

/-- UPD_GSQ (R377, R381, R635). -/
def execUpdGsq (x : Executor) (w : W128) (s : State) : Answer :=
  issue 9 0 x w s (fun s =>
    { rsvd := wf w 0 53 != 0 || uPgrp w != 0 || fB w != 0 || fC w != 0, descs := [fD w, fA w], dest := some (fD w)
      bad := (s.descr x (fD w)).fmt != 0 || (s.descr x (fD w)).count != 1 || !fmtGrad (s.descr x (fA w)).fmt }) (fun s =>
    let da := s.descr x (fA w)
    engine x w .vector (some (fD w)) (uBsu w) s [(s.descr x (fD w)).plain] [da] (gsqEff x w) none (uBsu w && da.inColumns))

/-- The state tensors of an elementwise rule (R388, R389): from an entry on, how many. -/
def stateEntries (g : Group0) (first : Nat) : List Nat :=
  if g.rule = 0 then (if (f32.decode g.beta1).isZero && (f32.decode g.beta2).isZero then [] else [first])
  else [first, first + 1]

/-- Whether the state tensors of an elementwise rule have their formats and D's shape (R381, R388, R389). -/
def stateOk (s : State) (x : Executor) (d : Desc) (g : Group0) (first : Nat) : Bool :=
  ((stateEntries g first).zip [g.mfmt, 0]).all (fun p =>
    (s.descr x p.1).fmt == p.2 && sameShape (s.descr x p.1) d)

/-- An element of a tensor with exactly the destination's shape. -/
def Tens.same (t : Tens) (idx : List Nat) : El := t.els.getD (rank t.ext idx) zeroEl

/-- The state tensors a group's rule names from an entry on. -/
def State.stateDescs (s : State) (x : Executor) (g : Group0) (first : Nat) : List Desc :=
  (stateEntries g first).map (fun i => (s.descr x i).plain)

/-- The narrow copy of an update, when it has one. -/
def State.copyDesc (s : State) (x : Executor) (w : W128) : List Desc := if uCopy w then [(s.descr x (fC w)).plain] else []

/-- The effect of APPLY after its check (R386 to R389). -/
def applyEff (x : Executor) (w : W128) (k : UpdSnap) (c : Cell) (s : State) (f : Flight) : State × Flight :=
  let g := Group0.ofBytes k.entry
  let subn := s.subn x
  let u := updConst subn g k.norm
  let d := (s.descr x (fD w)).plain
  let da := s.descr x (fA w)
  let dc := (s.descr x (fC w)).plain
  let sts := s.stateDescs x g (fB w)
  let a := s.load subn da
  let s := s.logAbandoned c [da]
  let wt := s.load subn d
  let part (i : Nat) : Tens := match sts[i]? with
    | some e => s.load subn e
    | none => ⟨[], []⟩
  let m := part 0
  let v := part 1
  let t := fieldAt k.shard 8 4 + 1
  let r1 := biasFix u.b1 t
  let r2 := biasFix u.b2 t
  let els (idx : List Nat) : List El := [a.same idx, m.same idx, v.same idx, wt.same idx]
  let up (idx : List Nat) : UpdEl :=
    if g.rule = 0 then signRule u (wt.same idx).num (m.same idx).num (a.same idx).num
    else momentRule u r1 r2 (wt.same idx).num (m.same idx).num (v.same idx).num (a.same idx).num
  let out (n : Num) (idx : List Nat) : Out := let o := mkOut n (els idx); { o with bad := worseDetail o.bad k.normBad }
  let put (p : State × Stored) (e : Desc) (rm : Nat → Rm) (sat : Bool) (pick : UpdEl → Num) : State × Stored :=
    let q := p.1.storeAll e rm sat subn (fun idx => out (pick (up idx)) idx)
    (q.1, p.2.join q.2)
  let p := put (s, {}) d (fun _ => .nearest) false (·.w)
  let p := match sts with
    | dm :: _ => put p dm (fun _ => momentRm w) (fSAT w) (·.m)
    | [] => p
  let p := match sts with
    | _ :: dv :: _ => put p dv (fun _ => .nearest) false (·.v)
    | _ => p
  let p := if uCopy w then put p dc (copyRm w g (s.exe x)) (fSAT w) (·.w) else p
  updFinish x w k c f { s := p.1, shard := k.shard, o := (0, 0), count := d.count
                        st := { p.2 with flushed := p.2.flushed || a.flushed || wt.flushed || m.flushed || v.flushed } }

/-- UPD_APPLY (R304, R386 to R389). -/
def execUpdApply (x : Executor) (w : W128) (s : State) : Answer :=
  issue 9 1 x w s (fun s =>
    let d := s.descr x (fD w)
    updNeed x w s (fun g => (g.rule == 0 || g.rule == 2) && !g.rowlazy) (fun g => stateEntries g (fB w))
      (fun g => stateOk s x d g (fB w) && sameShape (s.descr x (fA w)) d)) (fun s =>
    let d := (s.descr x (fD w)).plain
    let da := s.descr x (fA w)
    let dests := d :: s.stateDescs x (Group0.ofBytes ((s.group? (uPgrp w)).getD [])) (fB w) ++ s.copyDesc x w
    updRun x w false s dests [da] (!da.compressed && sameColumn d dests [da] 0) (applyEff x w))

/-- What ROWS has come to over its list: the state, what was stored, rows updated, entries skipped, the first row whose count
does not fit, and the DETAIL of unreadable entries. -/
structure RowsAcc where
  s : State
  st : Stored := {}
  n : Nat := 0
  skipped : Nat := 0
  skew : Option Nat := none
  bad : Nat := 0

/-- The indices of dimensions 2 to 4 of a tensor. -/
def Desc.outer (d : Desc) : List (List Nat) := (List.range (d.extent 2 * d.extent 3 * d.extent 4)).map (unrank (d.extents.drop 2))

/-- The operands of ROWS, as read under R130. -/
structure RowsIn where
  g : Group0
  u : UpdConst
  d : Desc
  a : Tens
  wt : Tens
  m : Tens
  v : Tens
  deriving DecidableEq, Repr

/-- The elements an element of a row comes from: gradient row j, row i of the table. -/
def RowsIn.els (k : RowsIn) (j i col : Nat) (o : List Nat) : List El :=
  [k.a.same (col :: j :: o), k.m.same (col :: i :: o), k.v.same (col :: i :: o), k.wt.same (col :: i :: o)]

/-- An element of a row updated by the rule at its own count (R388, R389, R402). -/
def RowsIn.up (k : RowsIn) (t j i col : Nat) (o : List Nat) : UpdEl :=
  let e := (k.els j i col o).map (·.num)
  let at_ (n : Nat) : Num := e.getD n Num.zero
  if k.g.rule = 0 then signRule k.u (at_ 3) (at_ 1) (at_ 0)
  else momentRule k.u (biasFix k.u.b1 t) (biasFix k.u.b2 t) (at_ 3) (at_ 1) (at_ 2) (at_ 0)

/-- One entry of a row list (R402). -/
def rowEntry (x : Executor) (w : W128) (k : RowsIn) (normBad step : Nat) (sts : List Desc) (subn : Bool) (acc : RowsAcc) (j : Nat)
    (e : RawEl) : RowsAcc :=
  let i := e.int32
  let d := k.d
  let first := ((acc.s.upd.held (uPgrp w)).map (·.first)).getD 0
  if e.bad ≠ 0 then { acc with bad := worseDetail acc.bad e.bad }
  else if i < 0 ∨ (k.g.rcRows : Int) ≤ i ∨ (d.extent 1 : Int) ≤ i then { acc with skipped := acc.skipped + 1 }
  else
    let r := i.toNat
    let at_ := acc.s.rcBase + 8 * (first + r)
    let c := acc.s.readBytes at_ 8
    let s := acc.s.noteRead (moverOf x) 6 at_ 8
    let n : Nat := fieldAt c.bytes 0 4
    let last : Nat := fieldAt c.bytes 4 4
    let gap : Nat := (step % 2 ^ 32 + 2 ^ 32 - last) % 2 ^ 32
    if c.detail ≠ 0 then { acc with s := s, bad := worseDetail acc.bad c.detail }
    else if 0 < n ∧ (gap = 0 ∨ 2 ^ 31 ≤ gap) then { acc with s := s, skew := some (acc.skew.getD last) }
    else
      let cols := List.range (d.extent 0)
      let row (o : List Nat) (pick : UpdEl → Num) : List Out := cols.map (fun col =>
        let q := mkOut (pick (k.up (n + 1) j r col o)) (k.els j r col o)
        { q with bad := worseDetail q.bad normBad })
      let put (p : State × Stored) (t : Desc) (rm : Nat → Rm) (sat : Bool) (pick : UpdEl → Num) : State × Stored :=
        d.outer.foldl (fun (p : State × Stored) o =>
          let q := p.1.storeRow t rm sat subn 0 0 (r :: o) (row o pick)
          (q.1, p.2.join q.2)) p
      let p := put (s, acc.st) d (fun _ => .nearest) false (·.w)
      let p := match sts with
        | dm :: _ => put p dm (fun _ => momentRm w) (fSAT w) (·.m)
        | [] => p
      let p := match sts with
        | _ :: dv :: _ => put p dv (fun _ => .nearest) false (·.v)
        | _ => p
      let p := if uCopy w then put p (s.descr x (fC w)).plain (copyRm w k.g (s.exe x)) (fSAT w) (·.w) else p
      let fl := d.outer.any (fun o => cols.any (fun col => (k.els j r col o).any (·.flushed)))
      let t := (p.1.writeBytes (moverOf x) 6 at_ (leBytes 4 (min (n + 1) (2 ^ 32 - 1)) ++ leBytes 4 step)).1
      { acc with s := t, st := { p.2 with flushed := p.2.flushed || fl }, n := acc.n + 1 }

/-- The effect of ROWS after its check (R402). -/
def rowsEff (x : Executor) (w : W128) (k : UpdSnap) (c : Cell) (s : State) (f : Flight) : State × Flight :=
  let g := Group0.ofBytes k.entry
  let subn := s.subn x
  let d := (s.descr x (fD w)).plain
  let da := s.descr x (fA w)
  let db := s.descr x (fB w)
  let sts := s.stateDescs x g (fD w + 2)
  let ix := s.loadRaw db
  let part (i : Nat) : Tens := match sts[i]? with
    | some e => s.load subn e
    | none => ⟨[], []⟩
  let i : RowsIn := { g := g, u := updConst subn g k.norm, d := d, a := s.load subn da, wt := s.load subn d, m := part 0, v := part 1 }
  let s := s.logAbandoned c [da, db]
  let acc := (List.range ix.length).foldl (fun (acc : RowsAcc) j =>
    rowEntry x w i k.normBad f.step sts subn acc j (ix.getD j ⟨0, 0, 0⟩)) { s := s }
  updFinish x w k c f {
    s := acc.s, shard := putAt k.shard 20 4 ((fieldAt k.shard 20 4 + acc.skipped) % 2 ^ 32), st := acc.st
    o := worst (failed acc.bad) (if acc.skew.isSome then (0x81, 0) else (0, 0))
    count := acc.skew.getD (acc.n * d.extent 0 * d.outer.length) }

/-- Whether the bank-side units can run a ROWS: each listed row's elements lie column by column with their gradients (R188). -/
def rowsFits (d da : Desc) (states : List Desc) (ix : List RawEl) : Bool :=
  !da.compressed && (List.range ix.length).all (fun j =>
    let i := (ix.getD j ⟨0, 0, 0⟩).int32
    (i < 0 || (d.extent 1 : Int) ≤ i) || d.outer.all (fun o => (List.range (d.extent 0)).all (fun col =>
      oneColumn ((states.flatMap (fun e => e.elAddrs (col :: i.toNat :: o)) ++ da.elAddrs (col :: j :: o)).map nearColumn))))

/-- UPD_ROWS (R304, R305, R402): each listed row whose own count fits is updated by the rule. -/
def execUpdRows (x : Executor) (w : W128) (s : State) : Answer :=
  issue 9 4 x w s (fun s =>
    let d := s.descr x (fD w)
    let a := s.descr x (fA w)
    let b := s.descr x (fB w)
    updNeed x w s (fun g => g.rowlazy) (fun g => fB w :: stateEntries g (fD w + 2))
      (fun g => stateOk s x d g (fD w + 2) && b.fmt == 0x0B && a.extent 0 == d.extent 0 && a.extent 1 == b.count &&
        (List.range 3).all (fun k => a.extent (k + 2) == d.extent (k + 2)))) (fun s =>
    let d := (s.descr x (fD w)).plain
    let da := s.descr x (fA w)
    let db := s.descr x (fB w)
    let g := Group0.ofBytes ((s.group? (uPgrp w)).getD [])
    let dests := d :: s.stateDescs x g (fD w + 2) ++ s.copyDesc x w
    let counters := match s.upd.held (uPgrp w) with
      | some h => [(s.rcBase + 8 * h.first, 8 * h.count)]
      | none => []
    if !(s.asleep counters).isEmpty then .wake (s.asleep counters)
    else if !counters.all (fun p => s.rangeFree p.1 p.2) then .hold
    else updRun x w true s dests [da, db] (rowsFits d da dests (s.loadRaw db)) (rowsEff x w))

end Sys2Proof.Machine
end

