-- ==== Sys2Proof/Machine/Team.lean ====
section
/-! DEFINITION. ORTHO and PRECOND, and the barriers of their teams (10: R391 to R399). The phases of ORTHO act one after the
other at the barriers; the spec names no phases of PRECOND, whose rule acts at one. -/

namespace Sys2Proof.Machine

/-- A matrix of FP32 values by rows. -/
abbrev Mat := List (List Num)

/-- The element of a matrix. -/
def Mat.at (m : Mat) (i j : Nat) : Num := (m.getD i []).getD j Num.zero

/-- A matrix made from a function of row and column. -/
def mkMat (r c : Nat) (f : Nat → Nat → Num) : Mat := (List.range r).map (fun i => (List.range c).map (f i))

/-- The transpose of an r × c matrix. -/
def Mat.tr (m : Mat) (r c : Nat) : Mat := mkMat c r (fun i j => m.at j i)

/-- Rounding in FP32 to nearest (R386). -/
def r32 (n : Num) : Num := st32 .nearest n

/-- The product of an r × k and a k × c matrix, accumulated under R145. -/
def Mat.mul (a b : Mat) (r k c : Nat) : Mat :=
  mkMat r c (fun i j => dotAcc 0 0 .nearest 0 Num.zero ((List.range k).map (fun t => (a.at i t).mul (b.at t j))))

/-- A value rounded to BF16. -/
def toBf16 (n : Num) : Num := bf16.step .nearest false n

/-- The sum of squares of an r × c matrix: tile sums in an open order, added in ascending tile order (R150, R392, R394). -/
def Mat.sumSq (m : Mat) (r c : Nat) : Num :=
  let tiles := (List.range (ceilDiv r 64)).flatMap (fun i => (List.range (ceilDiv c 64)).map (fun j => (i, j)))
  let sums := tiles.map (fun t =>
    sum32 .nearest 14 ((natRange (64 * t.1) 64).filter (fun i => decide (i < r)) |>.flatMap (fun i =>
      ((natRange (64 * t.2) 64).filter (fun j => decide (j < c))).map (fun j => r32 ((m.at i j).mul (m.at i j))))))
  match sums with
  | [] => Num.zero
  | a :: t => t.foldl (fun (acc : Num) v => r32 (acc.add v)) a

/-- A constant in FP32. -/
def c32 (bits : Nat) : Num := f32.decode bits

/-- A matrix of elements as an engine read them, by rows. -/
abbrev EMat := List (List El)

/-- An element of it. -/
def EMat.el (m : EMat) (i j : Nat) : El := (m.getD i []).getD j zeroEl

/-- Its values. -/
def EMat.vals (m : EMat) : Mat := m.map (fun r => r.map (·.num))

/-- Whether any of it was flushed. -/
def EMat.flushed (m : EMat) : Bool := m.any (fun r => r.any (·.flushed))

/-- An r × c matrix of elements made from a function of row and column. -/
def mkEMat (r c : Nat) (f : Nat → Nat → El) : EMat := (List.range r).map (fun i => (List.range c).map (f i))

/-- A plain matrix operand with rows along dimension 1 and columns along dimension 0, in FP32. -/
def State.matOf (s : State) (subn : Bool) (d : Desc) : EMat :=
  let t := s.load subn d
  mkEMat (d.extent 1) (d.extent 0) (fun i j => let e := t.at [j, i, 0, 0, 0]; { e with num := r32 e.num })

/-- A tile-form work tensor as an r × c matrix (R167, R391). -/
def State.tileMat (s : State) (subn : Bool) (d : Desc) (r c : Nat) : EMat :=
  let t := s.load subn d
  mkEMat r c (fun i j => t.mat true i j 0)

/-- An element of a team's output: its value, and the elements it comes from (R161, R284). -/
def teamOut (bad : Nat) (n : Num) (els : List El) : Out :=
  { num := n, bad := worseDetail bad (badOf els), nanIn := els.any (·.num.isNan) }

/-- What a phase stores: what came of it, and each NaN element with the number of its output tile (R393). -/
structure TeamPut where
  st : Stored := {}
  nans : List (Nat × TrapAt) := []
  deriving DecidableEq, Repr

/-- Two of them joined. -/
def TeamPut.join (a b : TeamPut) : TeamPut := ⟨a.st.join b.st, a.nans ++ b.nans⟩

/-- A tensor of a format that is not MX written by a team from a function of row and column; at gives an index's row and column, and
tile the number of an element's output tile (R283, R393). -/
def State.teamPut (s : State) (d : Desc) (rm : Nat → Rm) (sat subn : Bool) (at_ : List Nat → Nat × Nat) (tile : Nat → Nat → Nat)
    (f : Nat → Nat → Out) : State × TeamPut :=
  let g (idx : List Nat) : Out := f (at_ idx).1 (at_ idx).2
  let q := s.storeAll d rm sat subn g
  (q.1, ⟨q.2, (List.range d.count).filterMap (fun k =>
    let idx := unrank d.extents k
    let p := putPlain d.fmt (rm k) sat subn (g idx)
    if p.nan then some (tile (at_ idx).1 (at_ idx).2, { ec := k % 64, idx := k, cause := p.cause }) else none)⟩)

/-- The row and column of an index of a plain matrix. -/
def plainAt (idx : List Nat) : Nat × Nat := (idx.getD 1 0, idx.getD 0 0)
/-- The row and column of an index of a tile-form matrix (R167). -/
def tileAt (d : Desc) (idx : List Nat) : Nat × Nat := (idx.getD 1 0 + 64 * idx.getD 3 0, idx.getD 0 0 + d.extent 0 * idx.getD 2 0)
/-- The number of the 64 × 64 tile an element lies in, of a matrix with some columns (R283). -/
def tileNo (cols i j : Nat) : Nat := i / 64 * ceilDiv cols 64 + j / 64

/-- A matrix written to a plain tensor. -/
def State.putMat (s : State) (subn : Bool) (d : Desc) (f : Nat → Nat → Out) : State × TeamPut :=
  s.teamPut d (fun _ => .nearest) false subn plainAt (tileNo (d.extent 0)) f

/-- A matrix written to a tile-form tensor; its padding is written as zero. -/
def State.putTile (s : State) (subn : Bool) (d : Desc) (r c : Nat) (tile : Nat → Nat → Nat) (f : Nat → Nat → Out) : State × TeamPut :=
  s.teamPut d (fun _ => .nearest) false subn (tileAt d) tile (fun i j => if i < r ∧ j < c then f i j else { num := Num.zero })

/-- Whether a BF16 tensor is a tile-form r × c matrix (R167, R391). -/
def tileOk (d : Desc) (r c : Nat) : Bool :=
  d.fmt == 0x02 && !({ d with orient := true } : Desc).badTile && d.extent 2 == ceilDiv c 32 && d.extent 3 == ceilDiv r 64 && d.extent 4 == 1

/-- Whether a tensor is an FP32 r × c matrix. -/
def matOk (d : Desc) (r c : Nat) : Bool := d.fmt == 0 && d.extents == [c, r, 1, 1, 1]

/-- The descriptor of a team instruction, from the table as dispatch found it, its bytes moved by a cell. -/
def TeamOp.descr (t : TeamOp) (x : Executor) (i : Nat) : Desc := { Desc.ofLine (Tbl.get t.desc 0 i) with who := moverOf x }

/-- What a phase came to. -/
structure PhaseDone where
  s : State
  shard : List Byte
  put : TeamPut := {}
  flushed : Bool := false
  o : Outc := (0, 0)

/-- The number of phases of an instruction: 18 for ORTHO. -/
def TeamOp.phases (t : TeamOp) : Nat := if fOp t.word = 2 then 18 else 1

/-- Whether a phase of ORTHO is elementwise (R391, R392, R395): the momentum and its sum, the normalisation, the final write. -/
def elementPhase (n : Nat) : Bool := n == 1 || n == 2 || n == 18

/-- What a phase of a team instruction reads and writes (R391, R392, R396). -/
def TeamOp.operands (t : TeamOp) (x : Executor) (n : Nat) : List Desc × List Desc :=
  let w := t.word
  let d := (t.descr x (fD w)).plain
  let a := t.descr x (fA w)
  let b (i : Nat) : Desc := (t.descr x (fB w + i)).plain
  let out := d :: (if uCopy w then [(t.descr x (fC w)).plain] else [])
  let round := (n - 3) / 3
  if fOp w ≠ 2 then ([d, a, b 0, b 1, b 2, b 3, b 4], out ++ (List.range 11).map b)
  else if n = 1 then ([a, b 0], [b 0])
  else if n = 2 then ((if (Group0.ofBytes t.entry).nesterov then [a] else []) ++ [b 0], [b 1])
  else if n = 18 then ([b 2, d], out)
  else if n % 3 = 0 then ([b (1 + round % 2)], [b 3])
  else if n % 3 = 1 then ([b 3], [b 4])
  else ([b 4, b (1 + round % 2)], [b (1 + (round + 1) % 2)])

/-- The final write of a team instruction: the weights and their narrow copy (R386, R387). lq is the step of an element with the
elements it comes from. -/
def State.teamWeights (s : State) (x : Executor) (t : TeamOp) (g : Group0) (u : UpdConst) (e : Exec) (lq : Nat → Nat → Num × List El) :
    State × TeamPut × Bool :=
  let w := t.word
  let d := (t.descr x (fD w)).plain
  let wt := s.load t.subn d
  let f (i j : Nat) : Out :=
    let o := wt.at [j, i, 0, 0, 0]
    let (v, els) := lq i j
    teamOut t.normBad (u.weight o.num v) (o :: els)
  let q := s.teamPut d (fun _ => .nearest) false t.subn plainAt (tileNo (d.extent 0)) f
  if uCopy w then
    let p := q.1.teamPut (t.descr x (fC w)).plain (copyRm w g e) (fSAT w) t.subn plainAt (tileNo (d.extent 0)) f
    (p.1, q.2.join p.2, wt.flushed)
  else (q.1, q.2, wt.flushed)

/-- A phase of ORTHO (R392): 1 the momentum, 2 the normalisation, 3 to 17 the products, 18 the final write. -/
def orthoPhase (s : State) (x : Executor) (t : TeamOp) (e : Exec) (shard : List Byte) (n : Nat) : PhaseDone :=
  let w := t.word
  let subn := t.subn
  let g := Group0.ofBytes t.entry
  let u := updConst subn g t.norm
  let d := (t.descr x (fD w)).plain
  let rows := d.extent 1
  let cols := d.extent 0
  let tall := decide (cols < rows)
  let m := min rows cols
  let k := max rows cols
  let b (i : Nat) : Desc := (t.descr x (fB w + i)).plain
  let round := (n - 3) / 3
  let done (q : State × TeamPut) (fl : Bool) : PhaseDone := { s := q.1, shard := shard, put := q.2, flushed := fl }
  if n ≤ 2 then
    let ga := s.matOf subn (t.descr x (fA w))
    let mo := s.matOf subn (b 0)
    let gr (i j : Nat) : Num := u.grad (ga.el i j).num
    let used (i j : Nat) : List El := if n = 1 ∨ g.nesterov then [ga.el i j, mo.el i j] else [mo.el i j]
    if n = 1 then
      done (s.putMat subn (b 0) (fun i j => teamOut t.normBad (r32 ((r32 (u.b1.mul (mo.el i j).num)).add (gr i j))) (used i j)))
        (ga.flushed || mo.flushed)
    else
      let uu : Mat := mkMat rows cols (fun i j =>
        if g.nesterov then r32 ((gr i j).add (r32 (u.b1.mul (mo.el i j).num))) else (mo.el i j).num)
      let f := r32 ((r32 (uu.sumSq rows cols).sqrt).add (c32 0x35800000))
      let all := (List.range rows).flatMap (fun i => (List.range cols).flatMap (used i))
      done (s.putTile subn (b 1) rows cols (tileNo cols) (fun i j => teamOut t.normBad (r32 ((uu.at i j).div f)) all))
        (mo.flushed || (g.nesterov && ga.flushed))
  else if n = 18 then
    let sc := r32 (Num.one.max2 (r32 ((Num.ofInt rows 0).div (Num.ofInt cols 0)))).sqrt
    let xf := s.tileMat subn (b 2) rows cols
    let (s, p, fl) := s.teamWeights x t g u e (fun i j => (r32 ((r32 (u.lr.mul sc)).mul (xf.el i j).num), [xf.el i j]))
    done (s, p) (fl || xf.flushed)
  else if n % 3 = 0 ∨ n % 3 = 2 then
    let xs := s.tileMat subn (b (1 + round % 2)) rows cols
    let el (i j : Nat) : El := if tall then xs.el j i else xs.el i j
    let xv : Mat := mkMat m k (fun i j => (el i j).num)
    if n % 3 = 0 then
      let p := xv.mul (xv.tr m k) m k m
      done (s.putTile subn (b 3) m m (tileNo m) (fun i j =>
        teamOut 0 (p.at i j) ((List.range k).flatMap (fun v => [el i v, el j v])))) xs.flushed
    else
      let q := s.tileMat subn (b 4) m m
      let qx := q.vals.mul xv m m k
      let out (i j : Nat) : Out := teamOut 0 (r32 ((r32 ((c32 0x40540000).mul (xv.at i j))).add (qx.at i j)))
        ((List.range m).flatMap (fun v => [q.el i v, el v j]))
      done (s.putTile subn (b (1 + (round + 1) % 2)) rows cols
        (fun i j => if tall then tileNo k j i else tileNo k i j) (fun i j => if tall then out j i else out i j)) (xs.flushed || q.flushed)
  else
    let p := s.tileMat subn (b 3) m m
    let pp := p.vals.mul p.vals m m m
    done (s.putTile subn (b 4) m m (tileNo m) (fun i j =>
      teamOut 0 (r32 ((r32 ((c32 0xC0900000).mul (p.el i j).num)).add (r32 ((c32 0x40000000).mul (pp.at i j)))))
        ((List.range m).flatMap (fun v => [p.el i v, p.el v j])))) p.flushed

/-- The identity matrix's element. -/
def delta01 (i j : Nat) : Num := if i = j then Num.one else Num.zero

/-- One Newton step of R398: the next X and Mx. -/
def rootStep (n : Nat) (x mx : Mat) : Mat × Mat :=
  let tn := mkMat n n (fun i j => r32 ((r32 ((c32 0x3FA00000).mul (delta01 i j))).sub (r32 ((c32 0x3E800000).mul (mx.at i j)))))
  let t2 := tn.mul tn n n n
  (x.mul tn n n n, (t2.mul t2 n n n).mul mx n n n)

/-- The largest |Mx - I|. -/
def residOf (n : Nat) (mx : Mat) : Num :=
  (List.range n).foldl (fun (a : Num) i => (List.range n).foldl (fun (a : Num) j => a.max2 (r32 ((mx.at i j).sub (delta01 i j))).abs) a) Num.zero

/-- Whether every element of a matrix is finite. -/
def Mat.finite (m : Mat) : Bool := m.all (fun r => r.all (fun v => !v.isNan && !v.isInf))

/-- The iterations of R398: success, X, and the residual of the last iteration run. -/
def rootLoop (n : Nat) (tol : Num) : Nat → Mat → Mat → Num → Bool × Mat × Num
  | 0, x, _, res => (false, x, res)
  | k + 1, x, mx, _ =>
    let (x', mx') := rootStep n x mx
    let res := residOf n mx'
    if x'.finite && mx'.finite && !res.isNan && decide (res.cmp tol ≤ 0) then (true, x', res) else rootLoop n tol k x' mx' res

/-- The inverse fourth root of a statistics matrix with damping (R398). -/
def rootOf (n iters : Nat) (tol delta : Num) (sm : Mat) : Bool × Mat × Num :=
  let a := mkMat n n (fun i j => r32 ((sm.at i j).add (r32 (delta.mul (delta01 i j)))))
  let z := r32 (r32 (r32 ((c32 0x40200000).mul (r32 (a.sumSq n n).sqrt))).sqrt).sqrt
  let z2 := r32 (z.mul z)
  let z4 := r32 (z2.mul z2)
  rootLoop n tol iters (mkMat n n (fun i j => r32 ((delta01 i j).div z))) (mkMat n n (fun i j => r32 ((a.at i j).div z4))) Num.zero

/-- The attempts of R397: the damping used, the raises, whether the roots were found, the roots, and RESID. -/
def rootTries (rn cn iters : Nat) (tol : Num) (l r : Mat) : Nat → Nat → Num → Num × Nat × Option (Mat × Mat) × Num
  | 0, raises, delta => (delta, raises, none, Num.zero)
  | k + 1, raises, delta =>
    let (ok1, x1, e1) := rootOf rn iters tol delta l
    let (ok2, x2, e2) := if ok1 then rootOf cn iters tol delta r else (false, [], e1)
    let res := e1.max2 e2
    if ok1 && ok2 then (delta, raises, some (x1, x2), res)
    else if raises = 3 then (delta, raises, none, res)
    else rootTries rn cn iters tol l r k (raises + 1) (r32 ((c32 0x41200000).mul delta))

/-- A work tensor of PRECOND afterwards: what it holds is not stated. It is free, and the same for the same step and operands (R151). -/
def State.freeWork (s : State) (subn : Bool) (d : Desc) (key : List Nat) (i : Nat) : State :=
  (s.storeAll d (fun _ => .nearest) false subn (fun idx =>
    { num := f32.decode (Sys2Proof.Config.sum (32 + i) (rank d.extents idx :: key)).toNat })).1

/-- PRECOND (R396 to R399). -/
def precondPhase (s : State) (x : Executor) (t : TeamOp) (e : Exec) (shard : List Byte) : PhaseDone :=
  let w := t.word
  let subn := t.subn
  let g := Group0.ofBytes t.entry
  let u := updConst subn g t.norm
  let d := (t.descr x (fD w)).plain
  let rows := d.extent 1
  let cols := d.extent 0
  let b (i : Nat) : Desc := (t.descr x (fB w + i)).plain
  let ga := s.matOf subn (t.descr x (fA w))
  let ls := s.matOf subn (b 0)
  let rs := s.matOf subn (b 1)
  let lr0 := s.matOf subn (b 2)
  let rr0 := s.matOf subn (b 3)
  let mo := s.matOf subn (b 4)
  let gm : Mat := mkMat rows cols (fun i j => u.grad (ga.el i j).num)
  let gb : Mat := mkMat rows cols (fun i j => toBf16 (gm.at i j))
  let gbt := gb.tr rows cols
  let mix (n : Nat) (old : EMat) (new : Mat) : Mat :=
    mkMat n n (fun i j => r32 ((r32 (u.b2.mul (old.el i j).num)).add (r32 (u.c2.mul (new.at i j)))))
  let ls1 := mix rows ls (gb.mul gbt rows cols rows)
  let rs1 := mix cols rs (gbt.mul gb cols rows cols)
  let gRow (i : Nat) : List El := (List.range cols).map (ga.el i)
  let gCol (j : Nat) : List El := (List.range rows).map (fun i => ga.el i j)
  let q0 := s.putMat subn (b 0) (fun i j => teamOut t.normBad (ls1.at i j) (ls.el i j :: (gRow i ++ gRow j)))
  let q1 := q0.1.putMat subn (b 1) (fun i j => teamOut t.normBad (rs1.at i j) (rs.el i j :: (gCol i ++ gCol j)))
  let stats := ga.flatten ++ ls.flatten ++ rs.flatten
  let due := fieldAt shard 8 4 % (max g.every 1) == 0
  let (s, put, shard, o, lr, rr) : State × TeamPut × List Byte × Outc × Mat × Mat :=
    if due then
      let (delta, raises, got, res) := rootTries rows cols g.iters (c32 g.tol) ls1 rs1 4 0 (c32 g.damp)
      let sh := putAt (putAt (putAt shard 7 1 raises) 32 4 (bits32 .nearest res)) 36 4 (bits32 .nearest delta)
      let fl := fieldAt sh 6 1
      match got with
      | some (l1, r1) =>
        let sh := putAt (putAt (putAt sh 6 1 (fl - fl / 2 % 2 * 2)) 16 4 0) 40 6 e.ctx.step
        let p0 := q1.1.putMat subn (b 2) (fun i j => teamOut t.normBad (l1.at i j) stats)
        let p1 := p0.1.putMat subn (b 3) (fun i j => teamOut t.normBad (r1.at i j) stats)
        (p1.1, (q0.2.join q1.2).join (p0.2.join p1.2), sh, if raises = 0 then (0, 0) else (0x03, 0), l1, r1)
      | none =>
        let sh := putAt (putAt sh 6 1 (fl - fl / 2 % 2 * 2 + 2)) 16 4 ((fieldAt sh 16 4 + 1) % 2 ^ 32)
        (q1.1, q0.2.join q1.2, sh, (0x42, 0), lr0.vals, rr0.vals)
    else (q1.1, q0.2.join q1.2, shard, (0, 0), lr0.vals, rr0.vals)
  let all := (if due then stats else []) ++ ga.flatten ++ lr0.flatten ++ rr0.flatten
  let p := (lr.mul gm rows rows cols).mul rr rows cols cols
  let sc := r32 ((r32 (gm.sumSq rows cols).sqrt).div (r32 ((r32 (p.sumSq rows cols).sqrt).add u.eps)))
  let ps : Mat := mkMat rows cols (fun i j => r32 ((p.at i j).mul sc))
  let m1 : Mat := mkMat rows cols (fun i j => r32 ((r32 (u.b1.mul (mo.el i j).num)).add (ps.at i j)))
  let q2 := s.putMat subn (b 4) (fun i j => teamOut t.normBad (m1.at i j) (mo.el i j :: all))
  let (s, q3, wf_) := q2.1.teamWeights x t g u e (fun i j => (r32 (u.lr.mul (m1.at i j)), mo.el i j :: all))
  let key := e.ctx.step :: (ls1 ++ rs1 ++ lr ++ rr ++ gm).flatten.map (bits32 .nearest)
  let s := (natRange 5 6).foldl (fun (s : State) i => s.freeWork subn (b i) key i) s
  { s := s, shard := shard, put := (put.join q2.2).join q3, o := o
    flushed := wf_ || [ga, ls, rs, lr0, rr0, mo].any (·.flushed) }

/-- The team instruction at the head of a cell's vector queue. -/
def State.teamHead (s : State) (c : Nat) : Option (Flight × TeamOp) :=
  match execOf (12 + c) with
  | some x => match s.queueHead x .vector with
    | some f => f.team.map (fun t => (f, t))
    | none => none
  | none => none

/-- The cells of a region that wait at a barrier. -/
def State.waitingCells (s : State) (r : Region) : List Nat :=
  (natRange (r.val * 128) 128).filter (fun c => (s.teamHead c).isSome && !s.fenced && (s.teamHead c).any (fun p => p.1.items ≠ 0))

/-- The launch a waiting cell runs: its team is the cells of that launch (R393). -/
def State.teamJob (s : State) (c : Nat) : Option Job :=
  match execOf (12 + c) with
  | some x => s.job (s.exe x).job
  | none => none

/-- Whether a team can go on: every cell of it waits with the same instruction at the same barrier, or one of them is lost (R393,
R395). -/
def State.teamReady (s : State) (r : Region) (j : Job) : Bool :=
  j.lost || (match j.cells.head?.bind s.teamHead with
    | some (_, t) => j.cells.all (fun c => (s.waitingCells r).contains c &&
        (s.teamHead c).any (fun p => p.2.word == t.word && p.2.phase == t.phase))
    | none => false)

/-- The first team of a region that can go on, else the first that waits; the spec does not order the teams of a region (DESIGN
CHOICE, log entry 96). -/
def State.teamOf (s : State) (r : Region) : Option (Nat × Job) :=
  let l := (s.waitingCells r).filterMap (fun c => (s.teamJob c).map (fun j => (c, j)))
  match l.find? (fun (p : Nat × Job) => s.teamReady r p.2) with
  | some p => some p
  | none => l.head?

/-- Changes the team flight of a cell. -/
def State.mapTeam (s : State) (c : Nat) (g : Flight → Flight) : State :=
  match execOf (12 + c), s.teamHead c with
  | some x, some (f, _) => s.mapFlight x f.uid g
  | _, _ => s

/-- A team instruction is over for some cells: they may complete with a status. -/
def State.teamEnd (s : State) (cells : List Nat) (o : Outc) (count : Nat) : State :=
  cells.foldl (fun (s : State) c => s.mapTeam c (fun f => { f with items := 0, status := o.1, detail := o.2, count := count })) s

/-- The effect of a phase reaches the cells of its team (R157 to R160, R393): the cell of rank j mod T wrote output tile j, and traps
for the first NaN among its tiles; every cell has the phase's status. -/
def State.teamMark (s : State) (cells : List Nat) (bsu : Bool) (nans : List (Nat × TrapAt)) (o : Outc) : State :=
  (List.range cells.length).foldl (fun (s : State) k =>
    let mine := (nans.filter (fun (p : Nat × TrapAt) => p.1 % cells.length == k)).map (fun p => { p.2 with bsu := bsu })
    let trap := mine.foldl (fun (a : Option TrapAt) b => firstTrap false a (some b)) none
    s.mapTeam (cells.getD k 0) (fun f =>
      let q := worst (f.status, f.detail) o
      { f with status := q.1, detail := q.2, trap := firstTrap false f.trap trap })) s

/-- A phase of a team instruction runs (R392 to R394, R397); after the last one the record is written and every cell may complete. -/
def State.teamPhase (s : State) (r : Region) (cells : List Nat) (lead : Cell) (f : Flight) (t : TeamOp) (bsu : Bool) : State :=
  let w := t.word
  let x : Executor := .cell lead
  let dr := t.descr x (fD w + 1)
  let u := updConst t.subn (Group0.ofBytes t.entry) t.norm
  let e := s.exe x
  let got := s.readBytes dr.base 64
  let s := if bsu then s else ((t.operands x t.phase).1).foldl (fun (s : State) d => s.noteSpans d d.spans) s
  let s := s.logAbandoned lead (t.operands x t.phase).1
  let p := if fOp w = 2 then orthoPhase s x t e got.bytes t.phase else precondPhase s x t e got.bytes
  let p1 := if p.shard = got.bytes then p.s else (p.s.writeBytes dr.who dr.cls dr.base p.shard).1
  let s := p1.flushed x (p.flushed || p.put.st.flushed || (t.phase == 1 && (readEl t.subn 0 ⟨t.norm, 0, 0⟩).flushed))
  let o := worst (worst (failed p.put.st.detail) (if p.put.st.nan.isSome then (0x40, 0) else (0, 0))) p.o
  let s := s.teamMark cells bsu p.put.nans o
  if t.phase < t.phases then
    cells.foldl (fun (s : State) c =>
      s.mapTeam c (fun f => { f with team := f.team.map (fun (k : TeamOp) => { k with phase := t.phase + 1 }) })) s
  else
    let q := worst (f.status, f.detail) o
    let s := (s.writeBytes dr.who dr.cls dr.base (recordEnd p.shard f.step u)).1
    (s.countUpd r p.o.1 p.o.2).teamEnd cells q (t.descr x (fD w)).count

/-- Whether the bank-side units can run an elementwise phase of ORTHO (R188, R391): each element of what it reads and writes lies in one
column with the others. Works in tile form are named by row and column. -/
def TeamOp.fits (t : TeamOp) (x : Executor) (n : Nat) : Bool :=
  let (ins, outs) := t.operands x n
  let d := t.descr x (fD t.word)
  let spot (e : Desc) (i j : Nat) : List Nat :=
    if e.extents = d.extents then e.elAddrs [j, i, 0, 0, 0]
    else e.elAddrs [j % e.extent 0, i % 64, j / e.extent 0, i / 64, 0]
  (ins ++ outs).all (fun e => fmtBsu e.fmt && !e.compressed) &&
  (List.range (d.extent 1)).all (fun i => (List.range (d.extent 0)).all (fun j =>
    oneColumn (((ins ++ outs).flatMap (fun e => spot e i j)).map nearColumn)))

/-- One barrier of a whole team (R383, R393): the first lets the check decide, each later one runs a phase; the cell of rank 0 checks
and writes the record. With BSU an elementwise phase of ORTHO is a bank-side pass where it fits, which first waits for its chunks
(R188, R190, R391). -/
def State.teamStep (s : State) (r : Region) (cells : List Nat) (lead : Cell) (f : Flight) (t : TeamOp) : State :=
  let w := t.word
  let x : Executor := .cell lead
  if t.phase = 0 then
    let dr := t.descr x (fD w + 1)
    let got := s.readBytes dr.base 64
    if got.detail ≠ 0 then s.teamEnd cells (0xC0, got.detail) 0
    else match shardCheck got.bytes f.step false with
      | some (o, n) => (s.countUpd r o.1 o.2).teamEnd cells o n
      | none => cells.foldl (fun (s : State) c =>
          s.mapTeam c (fun f => { f with team := f.team.map (fun (k : TeamOp) => { k with phase := 1 }) }))
          (s.writeBytes dr.who dr.cls dr.base (recordBegin got.bytes f.step)).1
  else if uBsu w && fOp w == 2 && elementPhase t.phase then
    if s.flag .NMS_CTRL_BSU_EN r && t.fits x t.phase then
      let (ins, outs) := t.operands x t.phase
      s.mapTeam lead.val (fun f => { f with pass := some { word := w, todo := chunksOfDescs (ins ++ outs) } })
    else (s.bump .NMS_BSU_FALLBACKS r).teamPhase r cells lead f t false
  else s.teamPhase r cells lead f t false

/-- TEAM_BARRIER (R393 to R395): when every cell of a team waits at the barrier with the same instruction, the next phase
runs; when a cell of the team has been retired, the cells that wait complete with UNCORRECTABLE 0x0C. -/
def execTeamBarrier (r : Region) (s : State) : Answer :=
  .next (match s.teamOf r with
    | none => s
    | some (_, j) =>
      if !s.teamReady r j then s
      else if j.lost then s.teamEnd (j.cells.filter (fun c => (s.waitingCells r).contains c)) (0xC0, 0x0C) 0
      else match j.cells.head? with
        | none => s
        | some c0 =>
          if h : c0 < 1536 then
            match s.teamHead c0 with
            | some (f, t) => if f.pass.isSome then s else s.teamStep r j.cells ⟨c0, h⟩ f t
            | none => s
          else s)

/-- Dispatch of a team instruction (R383, R393, R395): it waits in the vector queue at the first barrier. In a rerun it reads
the shard record, writes nothing and is done. -/
def teamRun (x : Executor) (w : W128) (s : State) (dests srcs : List Desc) : Act :=
  let k := s.updSnap x w
  let near := [((Group0.ofBytes k.entry).normPtr, 4)]
  if !(s.asleep near).isEmpty then .wake (s.asleep near)
  else if !near.all (fun p => s.rangeFree p.1 p.2) then .hold
  else
    let dr := s.descr x (fD w + 1)
    engine x w .vector (some (fD w)) (uBsu w) s dests (dr :: srcs) (fun c s f =>
      let f := { f with pgrp := some (uPgrp w) }
      let s := s.noteReads (moverOf x) 6 near
      let got := s.readBytes dr.base 64
      if (s.exe x).rerun then
        let n := fieldAt got.bytes 0 6
        if got.detail ≠ 0 then (s, { f with status := 0xC0, detail := got.detail })
        else if n = f.step then (s.countUpd c.region 0x81 0, { f with status := 0x81, count := n })
        else if (fieldAt got.bytes 6 1).testBit 0 then (s.countUpd c.region 0xC0 0x0B, { f with status := 0xC0, detail := 0x0B })
        else (s, { f with status := 0xC0, detail := 0x0C })
      else
        let t : TeamOp := { word := w, subn := s.subn x, entry := k.entry, norm := k.norm, normBad := k.normBad, desc := (s.exe x).desc }
        (s, { f with items := 1, tiles := 1, team := some t })) (counts := false)

/-- UPD_ORTHO (R304, R391 to R395). -/
def execUpdOrtho (x : Executor) (w : W128) (s : State) : Answer :=
  let works (s : State) : List Desc := (List.range 5).map (fun i => (s.descr x (fB w + i)).plain)
  issue 9 2 x w s (fun s =>
    let d := s.descr x (fD w)
    let b (i : Nat) : Desc := s.descr x (fB w + i)
    let rows := d.extent 1
    let cols := d.extent 0
    let m := min rows cols
    updNeed x w s (fun g => g.rule == 1) (fun _ => (List.range 5).map (fB w + ·)) (fun _ =>
      d.ndim == 2 && sameShape (s.descr x (fA w)) d && matOk (b 0) rows cols && tileOk (b 1) rows cols && tileOk (b 2) rows cols &&
      tileOk (b 3) m m && tileOk (b 4) m m)) (fun s =>
    teamRun x w s ((s.descr x (fD w)).plain :: works s ++ (if uCopy w then [(s.descr x (fC w)).plain] else [])) [s.descr x (fA w)])

/-- UPD_PRECOND (R304, R393 to R399). -/
def execUpdPrecond (x : Executor) (w : W128) (s : State) : Answer :=
  let works (s : State) : List Desc := (List.range 11).map (fun i => (s.descr x (fB w + i)).plain)
  issue 9 3 x w s (fun s =>
    let d := s.descr x (fD w)
    let b (i : Nat) : Desc := s.descr x (fB w + i)
    let rows := d.extent 1
    let cols := d.extent 0
    let n := max rows cols
    updNeed x w s (fun g => g.rule == 3) (fun _ => (List.range 11).map (fB w + ·)) (fun _ =>
      d.ndim == 2 && (s.descr x (fA w)).fmt == 0 && sameShape (s.descr x (fA w)) d && matOk (b 0) rows rows && matOk (b 1) cols cols &&
      matOk (b 2) rows rows && matOk (b 3) cols cols && matOk (b 4) rows cols && (natRange 5 6).all (fun i => matOk (b i) n n))) (fun s =>
    teamRun x w s ((s.descr x (fD w)).plain :: works s ++ (if uCopy w then [(s.descr x (fC w)).plain] else [])) [s.descr x (fA w)])

end Sys2Proof.Machine
end

