-- ==== Sys2Proof/Machine/Passes.lean ====
section
/-! DEFINITION. Bank-side passes as they work through their chunks (05: R187 to R191; 10: R390, R391). The spec lets a pass touch its
data chunk by chunk; here all of it acts when the last chunk is cleared, or, where a pass needs more chunks than the home clears at a
time, on the chunks held then (DESIGN CHOICE, log entry 97). -/

namespace Sys2Proof.Machine

/-- A line of near memory set to some bytes and poison. -/
def Mem.setLine (m : Mem) (line : Nat) (d : Line) (p : BitVec 16) : Mem :=
  (m.setBytes (line * 64) ((List.range 64).map (lineByte d))).setWordPoison line p

/-- The lines of some chunks. -/
def chunkLines (l : List Nat) : List Nat := l.flatMap (fun k => (List.range 64).map (k * 64 + ·))

/-- Memory as a pass found it, in the chunks it has let go (R191): what others did there since is out of its sight. -/
def State.passView (s : State) (p : Pass) : State :=
  let gone (line : Nat) : Bool := p.seen.any (fun (q : Nat × Line × BitVec 16) => q.1 == line)
  let m := p.seen.foldl (fun (m : Mem) (q : Nat × Line × BitVec 16) => m.setLine q.1 q.2.1 q.2.2) s.mem
  (s.setMem m).setCoh { s.coh with
    dir := s.coh.dir.filter (fun (q : Nat × DirEntry) => !gone q.1)
    cache := s.coh.cache.filter (fun (q : Nat × CLine) => !gone q.2.line) }

/-- The chunks a pass has let go come back to everyone's sight as they stand. -/
def State.unview (t s : State) (p : Pass) : State :=
  let mine (line : Nat) : Bool := p.seen.any (fun (q : Nat × Line × BitVec 16) => q.1 == line)
  let m := p.seen.foldl (fun (m : Mem) (q : Nat × Line × BitVec 16) => m.setLine q.1 (s.mem.line q.1) (s.mem.wordPoison q.1)) t.mem
  (t.setMem m).setCoh { t.coh with
    dir := (s.coh.dir.filter (fun (q : Nat × DirEntry) => mine q.1)).foldl (fun (d : Tbl DirEntry) q => Tbl.insert d q.1 q.2) t.coh.dir
    cache := (s.coh.cache.filter (fun (q : Nat × CLine) => mine q.2.line)).foldl (fun (d : Tbl CLine) q => Tbl.insert d q.1 q.2) t.coh.cache }

/-- The descriptors, registers and SUBN of a cell as a pass's dispatch read them (R132, R224). -/
def State.passRegs (s : State) (c : Cell) (p : Pass) : State :=
  let e := s.exe (.cell c)
  (s.setExe (.cell c) { e with desc := p.desc, sreg := p.sreg }).setFld .NUM_CTRL_SUBN c.region (bit1 p.subn)

/-- What a pass does, by its instruction. -/
def passEff (c : Cell) (s : State) (f : Flight) (p : Pass) : State × Flight :=
  let x : Executor := .cell c
  if f.cls = 3 then vecEff f.op x p.word c s f
  else if f.cls = 0xA then staEff f.op x p.word c s f
  else if f.op = 0 then gsqEff x p.word c s f
  else if f.op = 1 then applyEff x p.word (UpdSnap.ofBytes p.group) c s f
  else rowsEff x p.word (UpdSnap.ofBytes p.group) c s f

/-- The bytes a pass sends up to the logic die: the results of reductions and histograms (R189). -/
def sentUp (d : Desc) (f : Flight) : Nat :=
  if (f.cls = 3 ∧ f.op = 5) ∨ f.cls = 0xA ∨ (f.cls = 9 ∧ f.op = 0) then d.allBytes else 0

/-- The cells of a launch, and the effect of a team's phase as a pass. -/
def State.teamPass (s : State) (c : Cell) (f : Flight) (t : TeamOp) : State :=
  match s.teamJob c.val with
  | some j => s.teamPhase c.region j.cells c f t true
  | none => s

/-- The effect of a pass, of which budgets are told only what it sends up (R189). -/
def State.passRun (s : State) (c : Cell) (f : Flight) (p : Pass) : State :=
  let x : Executor := .cell c
  let v := s.passView p
  let t : State := match f.team with
    | some k => v.teamPass c f k
    | none =>
      let q := passEff c (v.passRegs c p) f p
      let u := q.1.mapFlight x f.uid (fun _ => { q.2 with pass := f.pass })
      let e := u.exe x
      (u.setExe x { e with desc := (s.exe x).desc, sreg := (s.exe x).sreg }).setFld .NUM_CTRL_SUBN c.region (s.fld .NUM_CTRL_SUBN c.region)
  let d := Desc.ofLine (Tbl.get p.desc 0 (fD p.word))
  ({ t.unview s p with budgets := s.budgets }).ask ⟨188 + c.region.val, none⟩ d.cls
    (match f.team with
      | some k => if k.phase = 1 then 4 * ceilDiv (k.descr x (fD k.word)).rows 64 * ceilDiv ((k.descr x (fD k.word)).extent 0) 64 else 0
      | none => sentUp d f) (.via c.region)

/-- A pass has all its chunks: it acts, and they are free again. One that was a phase of a team is counted here, any other as it
completes. -/
def State.passEnd (s : State) (c : Cell) (f : Flight) (p : Pass) : State :=
  let s := (s.passRun c f p).iff f.team.isSome (fun s => s.bump .NMS_BSU_PASSES c.region)
  (s.mapFlight (.cell c) f.uid (fun g => { g with pass := none })).releaseChunks c.region p.held

/-- The home has no more chunks to clear while a pass still needs some: what it writes in those it holds is written, and they are let
go. -/
def State.passFlush (s : State) (c : Cell) (f : Flight) (p : Pass) : State :=
  let t := s.passRun c f p
  let lines := chunkLines p.held
  let m := lines.foldl (fun (m : Mem) l => m.setLine l (t.mem.line l) (t.mem.wordPoison l)) s.mem
  let seen := lines.foldl (fun (b : Tbl (Line × BitVec 16)) l => Tbl.insert b l (s.mem.line l, s.mem.wordPoison l)) p.seen
  ((s.setMem m).mapFlight (.cell c) f.uid (fun g => { g with pass := some { p with held := [], seen := seen } })).releaseChunks
    c.region p.held

/-- The pass of a region that reaches a chunk next: of several the one dispatched first. -/
def State.passAt (s : State) (r : Region) (chunk : Nat) : Option (Cell × Flight × Pass) :=
  ((natRange (r.val * 128) 128).flatMap (fun k => if h : k < 1536 then
    (s.exe (.cell ⟨k, h⟩)).flights.filterMap (fun f => match f.pass with
      | some p => if p.todo.head? = some chunk then some ((⟨k, h⟩ : Cell), f, p) else none
      | none => none) else [])).foldl (fun (b : Option (Cell × Flight × Pass)) q =>
    match b with
    | some a => some (if q.2.1.uid < a.2.1.uid then q else a)
    | none => some q) none

/-- BSU_CHUNK_CLEAR (R190, R191): the next chunk of a bank-side pass, in ascending order. The home of the region invalidates every
cached line of it and holds it Busy under one transaction-table entry, at most 64 chunks at a time; the pass acts once it has all its
chunks. -/
def execBsuChunkClear (r : Region) (chunk : Nat) (s : State) : Answer :=
  .next (match s.passAt r chunk with
    | none => s
    | some (c, f, p) =>
      let lines := chunkLines [chunk]
      let held (s : State) : Nat := (s.coh.chunks.filter (fun k => k.region == r.val)).length
      if chunk * 4096 / 0x1000000000 = r.val ∧ held s < 64 ∧ s.txnCount r < 512 ∧ lines.all (fun l => !s.busy l) = true then
        let s := (lines.foldl (fun (s : State) l => s.invalidateAll 6 l) s).startFclk r
        let s := s.setCoh { s.coh with chunks := s.coh.chunks ++ [⟨r.val, chunk⟩] }
        let p := { p with todo := p.todo.drop 1, held := p.held ++ [chunk] }
        let f := { f with pass := some p }
        let s := s.mapFlight (.cell c) f.uid (fun _ => f)
        if p.todo.isEmpty then s.passEnd c f p
        else if held s < 64 then s else s.passFlush c f p
      else s)

end Sys2Proof.Machine
end

