-- ==== Sys2Proof/Machine/Pins.lean ====
section
/-! DEFINITION. The power loop, temperature, telemetry, the sideband pins and the loss of supplies and clocks (16: R589 to R599;
17: R607, R608, R611, R616 to R619). -/

namespace Sys2Proof.Machine

/-! ## Power and temperature -/

/-- nthrottle (R594): from KTL_SBLIM.TSTEP while THROTTLE_N is honoured as asserted, values outside 16 to 32 acting as 16. -/
def State.nthrottle (s : State) : Nat :=
  let t := s.fld .KTL_SBLIM_TSTEP 0
  let t := if 16 ≤ t ∧ t ≤ 32 then t else 16
  if bitOf (s.fld .KTL_SB_LEVEL 0) 4 then max t s.ktl.persona.cstepMin else 32

/-- The step n and what limits it are shown (R590; KTL_PWR). -/
def State.setStep (s : State) : State :=
  let w : PowerSt := s.ktl.power
  let h := s.nthrottle
  let n := min (min w.ncap w.nthermal) (min h 32)
  let lim (v : Nat) : Nat := bit1 (v == n && decide (n < 32))
  (s.setFld .KTL_PWR_NCUR 0 n).setFld .KTL_PWR_THROT 0 (lim w.ncap + 2 * lim w.nthermal + 4 * lim h + 8 * bit1 w.fast)

/-- The cap step of R590. -/
def State.capStep (s : State) (p : Nat) : Nat :=
  let cap := s.fld .KTL_PWR_PCAP 0
  let n := s.ktl.power.ncap
  if cap < p then max s.ktl.persona.cstepMin (n - 1)
  else if p < cap - cap / 32 then min 32 (n + 1)
  else n

/-- The thermal step of R594. -/
def State.thermalStep (s : State) (t : Int) : Nat :=
  let n := s.ktl.power.nthermal
  let thr : Int := s.ktl.persona.tjThr
  if thr ≤ t then max s.ktl.persona.cstepMin (n - 2)
  else if t ≤ thr - 5 then min 32 (n + 1)
  else n

/-- The HCLK rates after a tick (R593): slowed by 200 MHz down to 1.0 GHz, or restored at the same rate. -/
def PowerSt.stepHclk (w : PowerSt) (slow restore : Bool) : PowerSt :=
  { w with hclk := (w.hclk.zip w.hclkSet).map (fun (q : Nat × Nat) =>
      if slow then (if 1000 < q.1 then max 1000 (q.1 - 200) else q.1)
      else if restore then min q.2 (q.1 + 200)
      else q.1) }

/-- POWER_TICK (R590, R593, R594): every 500 aon cycles. -/
def execPowerTick (meas : PowerMeas) (s : State) : Answer :=
  .next (
    let due := match s.ktl.power.lastTick with
      | some t => decide (t + 500 ≤ s.clk.aon)
      | none => true
    if !due then s
    else
      let p := meas.power.val
      let t := signedOf 8 meas.tmax.toNat
      let low := s.ktl.persona.cstepMin
      let w : PowerSt := s.ktl.power
      let ncap := s.capStep p
      let atMin := if ncap = low then w.atMin + 1 else 0
      let tooHigh := decide (s.fld .KTL_PWR_PCAP 0 < p)
      let was := w.ncap
      let w : PowerSt := { w with
        ncap := ncap, nthermal := s.thermalStep t, atMin := atMin, fast := w.fast && tooHigh
        energy := w.energy + (if s.ktl.dom.fabric then 20 * p else 0), lastTick := some s.clk.aon }
      let w := w.stepHclk (decide (10 ≤ atMin) && tooHigh) (decide (low < ncap))
      let s := s.setKtl { s.ktl with power := w }
      let s := ((s.setFld .KTL_PWR_PIN 0 p).setFld .KTL_THERM_TMAX 0 meas.tmax.toNat).setFld .KTL_THERM_TDIE 0 meas.hottest.val
      let s := s.iff (decide ((s.ktl.persona.tjThr : Int) ≤ t)) (fun s => s.setFld .KTL_ALERT_THERMAL 0 1)
      let s := s.iff (decide (ncap = low ∧ was ≠ low)) (fun s => s.setFld .KTL_ALERT_CAP 0 1)
      s.setStep)

/-- FAST_LIMIT (R591): the instantaneous power exceeds PFAST. -/
def execFastLimit (power : Nat) (s : State) : Answer :=
  .next (
    if power ≤ s.ktl.persona.pfast then s
    else
      let w : PowerSt := s.ktl.power
      let low := s.ktl.persona.cstepMin
      let s := s.iff (decide (w.ncap ≠ low)) (fun s => s.setFld .KTL_ALERT_CAP 0 1)
      let s := s.setKtl { s.ktl with power := { w with ncap := low, fast := true } }
      (s.setFld .KTL_ALERT_FAST 0 1).setStep)

/-- The record of cause 0x36 from the Kettle, and the fence (R537, R542). -/
def State.powerFence (s : State) : State := (s.raise .chip 0x36 0xC0 0x01 3).fence 0x36

/-- THERMAL_TRIP (R594, R617, R619): at 115 °C or above THERMTRIP_N is asserted, the device fences and every domain except the
Kettle's goes off; a device reset in progress stops. -/
def execThermalTrip (tmax : Int) (s : State) : Answer :=
  .next (
    if tmax < 115 then s
    else
      let s := s.setFld .KTL_THERM_TMAX 0 (unsignedOf 8 (min tmax 127))
      let s := s.powerFence.allOff
      s.setKtl { s.ktl with dom := { s.ktl.dom with tripped := true }, resetting := false })

/-- The telemetry record of R599. -/
def State.telemetryRecord (s : State) (m : PowerMeas) : List Byte :=
  let temp (i : Nat) : List Byte := [m.temps.getD i 0]
  let mid := leBytes 2 m.power.val ++ leBytes 2 m.vin.val ++ leBytes 2 (s.fld .KTL_PWR_PCAP 0) ++ leBytes 1 (s.fld .KTL_PWR_NCUR 0) ++
    leBytes 1 (s.fld .KTL_PWR_THROT 0) ++ leBytes 1 m.tmax.toNat ++ leBytes 1 m.hottest.val ++ leBytes 8 (s.ktl.power.energy / 1000)
  EventRec.bytes { type := 0x50, source := 0x800, region := 0x1F, mid := mid, time := s.clk.aon
                   tail := (List.range 14).flatMap temp }

/-- TELEMETRY_TICK (R599): every PERIOD ms one record; the latest is kept for GET_TELEMETRY whether or not the ring is
enabled. -/
def execTelemetryTick (meas : PowerMeas) (s : State) : Answer :=
  .next (
    let period := s.fld .KTL_TEL_CTRL_PERIOD 0
    let due := match s.ktl.lastTel with
      | some t => decide (t + period * 25000 ≤ s.clk.aon)
      | none => true
    if period = 0 ∨ !due then s
    else
      let r := s.telemetryRecord meas
      (s.setKtl { s.ktl with telemetry := some r, lastTel := some s.clk.aon }).ringPut .telemetry r)

/-! ## Losing and regaining main power -/

/-- Main power is lost (R607, R611, R617, R618): during a device reset what the reset turned on goes off and boot waits at stage
4 again; otherwise the device fences with cause 0x36 and every domain except the Kettle's goes off. Before stage 4 has
turned anything on there is nothing to lose. -/
def State.losePower (s : State) (w : Loss) : State :=
  if s.ktl.losses.contains w then s
  else if s.ktl.resetting then
    let s := s.mainOff
    let s := s.iff (decide (4 < s.stage)) (fun s => s.toStage 4)
    s.setKtl { s.ktl with losses := s.ktl.losses ++ [w], seqEntry := none, coreEntry := none }
  else if s.ktl.dom.hostPort || s.ktl.dom.fabric then
    let s := s.iff s.ktl.dom.fabric (fun s => s.powerFence)
    let s := s.allOff
    s.setKtl { s.ktl with losses := s.ktl.losses ++ [w] }
  else s

/-- Main power returns (R616, R617): once nothing keeps it away and PWR_OK is honoured, a device reset follows; one that was in
progress goes on at stage 4. -/
def State.regainPower (s : State) (w : Loss) : State :=
  if !s.ktl.losses.contains w then s
  else
    let s := s.setKtl { s.ktl with losses := s.ktl.losses.filter (· ≠ w) }
    if !s.ktl.losses.isEmpty || !s.powerGood || s.ktl.resetting then s else s.deviceReset

/-! ## Sideband inputs -/

/-- A sideband input. -/
def State.input (s : State) (n : Nat) : SbIn := Tbl.get s.ktl.inputs {} n
/-- Writes it. -/
def State.setInput (s : State) (n : Nat) (v : SbIn) : State := s.setKtl { s.ktl with inputs := Tbl.set s.ktl.inputs {} n v }

/-- One bit of a KTL_SB field. -/
def State.setSbBit (s : State) (f : Fld) (n : Nat) (b : Bool) : State :=
  s.setFld f 0 (if b then s.fld f 0 ||| 2 ^ n else s.fld f 0 &&& (63 - 2 ^ n))

/-- The safe level of an input (R596): asserted for PERST_N and THROTTLE_N, deasserted for PWR_OK. -/
def safeLevel (n : Nat) : Bool := decide (n < 5)

/-- A level is honoured (R594 to R597, R614, R616, R618): KTL_SB.LEVEL shows it, and it has its consequences. -/
def State.honour (s : State) (n : Nat) (level : Bool) : State :=
  if bitOf (s.fld .KTL_SB_LEVEL 0) n = level then s
  else
    let s := s.setSbBit .KTL_SB_LEVEL n level
    let s := s.setInput n (if level then { s.input n with since := s.clk.aon } else { s.input n with stuckArmed := true })
    if h : n < 4 then (if level then s.perstOn ⟨n, h⟩ else s.perstOff ⟨n, h⟩)
    else if n = 4 then s
    else if level then
      if s.ktl.losses.contains .pwrOk then s.regainPower .pwrOk
      else s.iff (s.flag .KTL_BOOT_KONLY 0 && !s.ktl.dom.tripped) (fun s =>
        s.setKtl { s.ktl with dom := { s.ktl.dom with hostPort := true } })
    else s.losePower .pwrOk

/-- Whether the moments an input's filtered level changed are chatter (R596): at least 20 of them in 10 ms, no level between two
of them having lasted 500 µs. -/
def chatters (l : List Nat) : Bool :=
  decide (20 ≤ l.length) && (l.zip l.tail).all (fun (q : Nat × Nat) => decide (q.2 < q.1 + 12500))

/-- The filtered level of an input changes (R595, R596): a chattering input is held at its safe level, any other level is
honoured. -/
def State.sense (s : State) (n : Nat) (level : Bool) : State :=
  let k := s.input n
  if k.level = level then s
  else
    let now := s.clk.aon
    let ch := (k.changes ++ [now]).filter (fun t => decide (now < t + 250000))
    let s := s.setInput n { k with level := level, changes := ch, changedAt := now }
    if bitOf (s.fld .KTL_SB_HELD 0) n then s
    else if chatters ch then
      let s := (s.setSbBit .KTL_SB_HELD n true).setSbBit .KTL_SB_CHATTER n true
      (s.setFld .KTL_ALERT_CHATTER 0 1).honour n (safeLevel n)
    else s.honour n level

/-- SIDEBAND_LEVEL_CHANGE (R595, R596): inputs 0 to 3 are PERST_N, 4 THROTTLE_N, 5 PWR_OK. -/
def execSidebandLevelChange (n : Fin 6) (level : Bool) (s : State) : Answer := .next (s.sense n.val level)

/-- PERST_ASSERT (R523, R525, R595): the filtered PERST_N of a port is asserted. -/
def execPerstAssert (p : Port) (s : State) : Answer := .next (s.sense p.val true)

/-- PERST_DEASSERT (R595, R615). -/
def execPerstDeassert (p : Port) (s : State) : Answer := .next (s.sense p.val false)

/-- PWR_OK_LOSS (R618): the filtered PWR_OK is deasserted. -/
def execPwrOkLoss (s : State) : Answer := .next (s.sense 5 false)

/-- PWR_OK_RESTORE (R616): the filtered PWR_OK is asserted. -/
def execPwrOkRestore (s : State) : Answer := .next (s.sense 5 true)

/-- CHATTER_HOLD_END (R596): the filtered input has kept one level for 100 ms and is honoured again. -/
def execChatterHoldEnd (n : Fin 6) (s : State) : Answer :=
  .next (
    let k := s.input n.val
    if !bitOf (s.fld .KTL_SB_HELD 0) n.val || decide (s.clk.aon < k.changedAt + 2500000) then s
    else (s.setSbBit .KTL_SB_HELD n.val false).honour n.val k.level)

/-- The stuck limit of an input in seconds, 0 for none (R597). -/
def State.stuckLimit (s : State) (n : Nat) : Nat :=
  if n < 4 then s.fld .KTL_SBLIM_PERST_LIM 0 else if n = 4 then s.fld .KTL_SBLIM_THR_LIM 0 else 0

/-- SIDEBAND_STUCK (R597): an input honoured as asserted beyond its limit. -/
def execSidebandStuck (n : Fin 6) (s : State) : Answer :=
  .next (
    let k := s.input n.val
    let lim := s.stuckLimit n.val
    if lim = 0 ∨ !bitOf (s.fld .KTL_SB_LEVEL 0) n.val ∨ !k.stuckArmed ∨ s.clk.aon ≤ k.since + lim * 25000000 then s
    else
      let s := s.setInput n.val { k with stuckArmed := false }
      (s.setSbBit .KTL_SB_STUCK n.val true).setFld .KTL_ALERT_STUCK 0 1)

/-! ## Supplies and clocks -/

/-- VIN48_FAULT (R607): only while PWR_OK is honoured. -/
def execVin48Fault (s : State) : Answer := .next (if s.powerGood then s.losePower .vin48 else s)

/-- VIN48_RESTORE (R607, R616). -/
def execVin48Restore (s : State) : Answer := .next (s.regainPower .vin48)

/-- SYS_REFCLK_LOSS (R611). -/
def execSysRefclkLoss (s : State) : Answer := .next (s.losePower .sysRefclk)

/-- SYS_REFCLK_RETURN (R611, R616). -/
def execSysRefclkReturn (s : State) : Answer := .next (s.regainPower .sysRefclk)

/-- STANDBY_LOSS (R608): everything is off and what the Kettle held is lost, except the MRAM; the next rise of VSTBY33 starts at
stage 1. -/
def execStandbyLoss (s : State) : Answer := .next (s.restart false)

/-- AON_CLOCK_LOSS (R611): the Kettle's own oscillator takes over, FAULT_N is asserted and the device fences. -/
def execAonClockLoss (s : State) : Answer := .next ((s.setKtl { s.ktl with aonLost := true }).powerFence)

/-- PCIE_REFCLK_LOSS (R525, R611): every host data link goes down. -/
def execPcieRefclkLoss (s : State) : Answer :=
  .next ((List.range 4).foldl (fun (s : State) p => s.hostLinkDown p) s)

/-! ## Sideband outputs -/

/-- Whether ALERT_N is asserted (R598): without standby power every output is high-impedance and reads deasserted (R605). -/
def State.alertN (s : State) : Bool :=
  let bits := [Fld.KTL_ALERT_CHATTER, .KTL_ALERT_STUCK, .KTL_ALERT_CAP, .KTL_ALERT_THERMAL, .KTL_ALERT_KEYMIS, .KTL_ALERT_LINKAUTH,
    .KTL_ALERT_FAST, .KTL_ALERT_KONLY]
  s.ktl.standby && (List.range 8).any (fun j => s.flag (bits.getD j .KTL_ALERT_KONLY) 0 && bitOf (s.fld .KTL_ALERT_EN_EN 0) j)

/-- Whether FAULT_N is asserted (R598, R605, R611). -/
def State.faultN (s : State) : Bool := s.ktl.standby && (s.fenced || s.flag .KTL_BOOT_KONLY 0 || s.ktl.aonLost)

/-- Whether THERMTRIP_N is asserted (R598, R605). -/
def State.thermtripN (s : State) : Bool := s.ktl.standby && s.ktl.dom.tripped

end Sys2Proof.Machine
end

