-- ==== Sys2Proof/Machine/Registers.lean ====
section
/-! DEFINITION. Accesses to the register space: windows, selects, halves, who may write what, what a read shows and what a write
does (02: R61 to R68, R73; 05: R201; 12: R479; 13: R504; 14: R530; 15: R563; 16: R603). -/

namespace Sys2Proof.Machine

/-! ## Where a register is -/

/-- The window an offset of the register space lies in (R61). -/
def winOf (off : Nat) : Option Win :=
  [Win.global, .region, .block, .cell, .link, .farChannel, .hostPort, .colander, .kettle, .resilience, .budgets][off / 0x100000]?

/-- Where an in-window offset falls in a register: its index and whether it is the high half. -/
def RegPlace.hit (p : RegPlace) (o : Nat) : Option (Nat × Bool) :=
  if o < p.off then none
  else
    let d := o - p.off
    let i := if p.s1 = 0 then 0 else min (d / p.s1) (p.c1 - 1)
    let e := d - i * p.s1
    let j := if p.s2 = 0 then 0 else min (e / p.s2) (p.c2 - 1)
    let r := e - j * p.s2
    if r = 0 then some (i * p.c2 + j, false) else if r = 4 && p.wide then some (i * p.c2 + j, true) else none

/-- A register, its array index, and the half an offset names. -/
structure RegAt where
  reg : Reg
  idx : Nat
  high : Bool
  deriving DecidableEq, Repr

/-- The register at an offset; none where no chapter assigns one (R61). -/
def regAt (off : Nat) : Option RegAt :=
  match winOf off with
  | none => none
  | some w => Reg.all.findSome? (fun r =>
      if r.place.win = w then (RegPlace.hit r.place (off % 0x100000)).map (fun h => ⟨r, h.1, h.2⟩) else none)

/-- Whether a register is a select register (R61, R62). -/
def selectReg (r : Reg) : Bool :=
  [Reg.REG_SEL, .BLK_SEL, .CEL_SEL, .LNK_SEL, .FMC_SEL, .HPT_SEL, .BDG_SEL].contains r

/-- Whether a bank's select register of a window names something (R64). -/
def State.selected (s : State) (who : Bank) (w : Win) : Bool :=
  match w with
  | .region => (s.selRegion who).isSome
  | .block => (s.selBlk who).isSome
  | .cell => (s.selPhys who).isSome
  | .link => (s.selLink who).isSome
  | .farChannel => (s.selChan who).isSome
  | .hostPort => (s.selPort who).isSome
  | .budgets => (s.selRes who).isSome
  | _ => true

/-- The instance of a register a bank reaches; none where its select value is out of range (R63, R64). -/
def State.regInst (s : State) (who : Bank) (r : Reg) : Option Nat :=
  if selectReg r then some who.code
  else if !s.selected who r.place.win then none
  else match r.place.inst with
    | .device => some 0
    | .bank => some who.code
    | .region => (s.selRegion who).map (fun x => x.val)
    | .block => (s.selBlk who).map (fun x => x.val)
    | .cell => s.selPhys who
    | .link => (s.selLink who).map (fun x => x.val)
    | .linkRegion => (s.selLink who).map (fun x => x.val / 2)
    | .channel => (s.selChan who).map (fun x => x.val)
    | .port => (s.selPort who).map (fun x => x.val)
    | .resource => (s.selRes who).map (fun x => x.code)

/-- Whether a register of the host-port window belongs to a port that the mode does not configure (R506). -/
def State.regHidden (s : State) (who : Bank) (r : Reg) : Bool :=
  match s.selPort who with
  | some p => decide (r.place.win = .hostPort) && !selectReg r && decide (r ≠ .HPT_CFG) && !s.portOn p
  | none => false

/-! ## What a read shows -/

/-- The ring a BASE, CB or STAT register belongs to. -/
def ringOf (r : Reg) (inst idx : Nat) : Option RingId :=
  let reg12 : Region := Fin.ofNat 12 inst
  let i12 : Region := Fin.ofNat 12 idx
  let i4 : Fin 4 := Fin.ofNat 4 idx
  match r with
  | .SEQ_WR_BASE | .SEQ_WR_CB => some (.work reg12 i4)
  | .SEQ_CR_BASE | .SEQ_CR_CB => some (.completion reg12)
  | .SEQ_ER_BASE | .SEQ_ER_CB => some (.schedule reg12)
  | .NUM_ER_BASE | .NUM_ER_CB | .NUM_ER_STAT => some (.numeric reg12)
  | .LNK_ER_BASE | .LNK_ER_CB | .LNK_ER_STAT => some (.linkEvent reg12)
  | .COL_RQ_BASE | .COL_RQ_CB => some (.sampleReq i4)
  | .COL_CL_BASE | .COL_CL_CB => some .coreLane
  | .COL_CR_BASE | .COL_CR_CB => some .coreReturn
  | .COL_HL_BASE | .COL_HL_CB => some (.hostLane i4)
  | .COL_HR_BASE | .COL_HR_CB => some (.hostReturn i4)
  | .COL_MF_BASE | .COL_MF_CB => some .manifest
  | .COL_RP_BASE | .COL_RP_CB => some .replay
  | .COL_ER_BASE | .COL_ER_CB | .COL_ER_STAT => some .inputEvent
  | .RSL_EL_BASE | .RSL_EL_CB | .RSL_EL_STAT => some (.errorLog i12)
  | .RSL_ELC_BASE | .RSL_ELC_CB | .RSL_ELC_STAT => some .chipLog
  | .RSL_JR_BASE | .RSL_JR_CB | .RSL_JR_STAT => some .jobReport
  | .KTL_TEL_BASE | .KTL_TEL_CB | .KTL_TEL_STAT => some .telemetry
  | _ => none

/-- Whether an executor of a region has a record that its completion ring cannot take (R231): it stalls at an instruction that
is done at dispatch, or with one in flight that writes a record. -/
def State.recordStalls (s : State) (r : Region) : Bool :=
  !s.ringAccepts (.completion r) && s.execs.any (fun (k, e) => match execOf k with
    | none => false
    | some x => decide (x.region = r) && (e.flights.any (fun f => f.cr || f.forced) || match s.fetch x with
      | none => false
      | some w => s.atHead x && wf w 97 1 == 1 && (wf w 104 6 == 0 || e.token (wf w 104 6) != 0) &&
          (frontEnd (fCls w) (fOp w) || !e.predOk (wf w 110 4))))

/-- PEND and STALL of a ring (R231, R256). -/
def State.ringShown (s : State) (pend stall : Fld) (ring : RingId) : List (Fld × Nat) :=
  [(pend, (s.ring ring).buf.length), (stall, bit1 (!(s.ring ring).held.isEmpty))]

/-- What RSL_xQ_STAT shows of a queue. -/
def State.queueShown (s : State) (q : LevelInst) (fsev depth front count head : Fld) : List (Fld × Nat) :=
  let g := s.errq q
  let e := g.cur.head?.bind g.at
  [(fsev, (e.map (·.sev)).getD 0), (depth, g.cur.length - 1), (front, bit1 e.isSome), (count, g.recs.length), (head, (e.map (·.qslot)).getD 0)]

/-- Bytes 8 j to 8 j + 7 of the front record of a queue. -/
def State.frontWord (s : State) (q : LevelInst) (j : Nat) : Nat :=
  let g := s.errq q
  match g.cur.head?.bind g.at with
  | some e => fieldAt e.bytes (8 * j) 8
  | none => 0

/-- What CEL_STAT shows of a physical position (R158, R195, R197); a slot without one shows nothing. -/
def State.cellShown (s : State) (n : Nat) : List (Fld × Nat) :=
  if 1632 ≤ n then [] else
  let b := n / 17
  let slot := (List.range 16).find? (fun k => s.posOf b k == n % 17)
  let x : Option Exec := slot.map (fun k => Tbl.get s.execs {} (12 + b * 16 + k))
  [(.CEL_STAT_RETIRED, bit1 (s.repair.retired.contains (b, n % 17))),
   (.CEL_STAT_SPARE, bit1 (s.fld .BLK_SPARE_SPARE b == n % 17)),
   (.CEL_STAT_HELD, bit1 (slot.any (fun k => (s.blk b).held.contains k || (s.blk b).slotStopped (some k)))),
   (.CEL_STAT_TRAPPED, bit1 (x.any (fun e => decide (e.stop = .nanTrap)))),
   (.CEL_STAT_BUSY, bit1 (x.any (fun e => !e.flights.isEmpty)))]

/-- What UPD_TEAM shows of a region (R393, R395). -/
def State.teamShown (s : State) (r : Region) : List (Fld × Nat) :=
  match s.teamOf r with
  | none => []
  | some (c, j) =>
    let phase := match s.teamHead c with
      | some p => p.2.phase - 1
      | none => 0
    [(.UPD_TEAM_WAIT, 1), (.UPD_TEAM_PHASE, phase), (.UPD_TEAM_SIZE, j.cells.length),
     (.UPD_TEAM_ARRIVED, (j.cells.filter (fun c => (s.waitingCells r).contains c)).length)]

/-- The fields a read computes from other state, with their values; every other field is shown as it is kept. -/
def State.shown (s : State) (r : Reg) (inst idx : Nat) : List (Fld × Nat) :=
  match r with
  | .BDG_CAP => match resOf (inst / 256) (inst % 256) with
    | some b => [(.BDG_CAP_CAP, s.budgetCap b)]
    | none => []
  | .BDG_BAL => match resOf (inst / 256) (inst % 256) with
    | some b => [(.BDG_BAL_BAL, unsignedOf 21 ((s.budget b).bal.getD idx 0))]
    | none => []
  | .DIR_OCC => [(.DIR_OCC_ENTRIES, (s.coh.dir.filter (fun p => homeOf p.1 == inst)).length)]
  | .DIR_TXN => [(.DIR_TXN_TXN, s.txnCount inst)]
  | .BLK_ELOG => match (s.errq (.block (Fin.ofNat 96 inst))).recs with
    | [] => []
    | e :: t => [(.BLK_ELOG_COUNT, t.length + 1), (.BLK_ELOG_HEAD, e.qslot)]
  | .CEL_STAT => s.cellShown inst
  | .SEQ_RSTAT =>
    s.ringShown .SEQ_RSTAT_ER_PEND .SEQ_RSTAT_ER_STALL (.schedule (Fin.ofNat 12 inst)) ++
    [(.SEQ_RSTAT_CR_PEND, (s.ring (.completion (Fin.ofNat 12 inst))).buf.length),
     (.SEQ_RSTAT_CR_STALL, bit1 (!(s.ring (.completion (Fin.ofNat 12 inst))).held.isEmpty || s.recordStalls (Fin.ofNat 12 inst)))]
  | .NUM_ER_STAT => s.ringShown .NUM_ER_STAT_PEND .NUM_ER_STAT_STALL (.numeric (Fin.ofNat 12 inst))
  | .LNK_ER_STAT => s.ringShown .LNK_ER_STAT_PEND .LNK_ER_STAT_STALL (.linkEvent (Fin.ofNat 12 inst))
  | .COL_ER_STAT => s.ringShown .COL_ER_STAT_PEND .COL_ER_STAT_STALL .inputEvent
  | .RSL_EL_STAT => s.ringShown .RSL_EL_STAT_PEND .RSL_EL_STAT_STALL (.errorLog (Fin.ofNat 12 idx))
  | .RSL_ELC_STAT => s.ringShown .RSL_ELC_STAT_PEND .RSL_ELC_STAT_STALL .chipLog
  | .RSL_JR_STAT => s.ringShown .RSL_JR_STAT_PEND .RSL_JR_STAT_STALL .jobReport
  | .KTL_TEL_STAT => s.ringShown .KTL_TEL_STAT_PEND .KTL_TEL_STAT_STALL .telemetry
  | .UPD_TEAM => s.teamShown (Fin.ofNat 12 inst)
  | .LNK_STAT => [(.LNK_STAT_RETRAINS, min 15 ((s.link inst).starts.filter (fun t => decide (s.clk.aon < t + 25000000))).length)]
  | .LNK_TAGS => [(.LNK_TAGS_OUT, (s.tagsOut inst).length)]
  | .LNK_EPOCH => [(.LNK_EPOCH_WAIT, bit1 (s.net.colls.any (fun c =>
      !c.started && decide (c.epoch ≠ s.epoch) && epochDetail c.epoch s.epoch == 0)))]
  | .LNK_GRPSTAT => [(.LNK_GRPSTAT_LIVE, s.net.groups.length)]
  | .COL_STAT => [(.COL_STAT_STAGE_FREE, s.freeSlots.length),
      (.COL_STAT_ENG_BUSY, ((List.range 32).filter (fun e => (s.inEngine e).isSome)).length),
      (.COL_STAT_SLOWQ, (s.pipe.samples.filter (fun x => decide (x.at_ = .core))).length)]
  | .HPT_JSTAT => [(.HPT_JSTAT_OCC, (s.port inst).journal.length)]
  | .RSL_STAT => [(.RSL_STAT_QUIET, bit1 s.quiet)]
  | .RSL_CQ_STAT => s.queueShown .chip .RSL_CQ_STAT_FSEV .RSL_CQ_STAT_DEPTH .RSL_CQ_STAT_FRONT .RSL_CQ_STAT_COUNT .RSL_CQ_STAT_HEAD
  | .RSL_RQ_STAT =>
    s.queueShown (.region (Fin.ofNat 12 idx)) .RSL_RQ_STAT_FSEV .RSL_RQ_STAT_DEPTH .RSL_RQ_STAT_FRONT .RSL_RQ_STAT_COUNT .RSL_RQ_STAT_HEAD
  | .RSL_CQ_REC => [(.RSL_CQ_REC_DATA, s.frontWord .chip idx)]
  | .RSL_RQ_REC => [(.RSL_RQ_REC_DATA, s.frontWord (.region (Fin.ofNat 12 (idx / 8))) (idx % 8))]
  | .RSL_FIFES =>
    if s.fld .RSL_FIFES_STATE 0 idx = 0 then [(.RSL_FIFES_MISSED, 0)]
    else [(.RSL_FIFES_MISSED, min 31 ((s.clk.aon - s.fld .RSL_FIFES_LAST 0 idx) / s.beatPeriod))]
  | _ => []

/-- A field as a read shows it; a WO field reads 0 (R9). -/
def State.fieldShown (s : State) (l : List (Fld × Nat)) (f : Fld) (inst idx : Nat) : Nat :=
  if f.acc = .wo then 0
  else match l.find? (fun p => decide (p.1 = f)) with
    | some p => p.2 % 2 ^ f.width
    | none => s.fld f inst idx

/-- What a register reads as for a bank (R9, R10, R64, R506). -/
def State.regRead (s : State) (who : Bank) (r : Reg) (idx : Nat) : Nat :=
  match s.regInst who r with
  | none => 0
  | some inst =>
    if s.regHidden who r then 0
    else
      let l := s.shown r inst idx
      r.fields.foldl (fun (v : Nat) f => v + s.fieldShown l f inst idx * 2 ^ f.lo) 0

/-! ## What a write does -/

/-- The registers a host port may write (R73, R479, R530, R563, R603; 13: the COL_ registers). -/
def hostMayWrite (r : Reg) : Bool :=
  match r.place.win with
  | .link => decide (r = .LNK_SEL)
  | .hostPort => decide (r = .HPT_SEL) || decide (r = .HPT_GATE)
  | .colander => false
  | .resilience => decide (r = .RSL_REPORT)
  | .kettle => decide (r = .KTL_MB_DB)
  | _ => true

/-- Whether a bank's write of a register is kept (R73, R201, R479, R530, R563, R603; 13: the COL_ registers). -/
def State.regMayWrite (_s : State) (who : Bank) (r : Reg) (inst : Nat) : Bool :=
  (!who.isHost || hostMayWrite r) &&
  (match r with
   | .BLK_PWR | .BLK_RETIRE | .BLK_RTHR => mayControl who (Fin.ofNat 12 (inst / 8))
   | .CEL_CTRL => mayControl who (Fin.ofNat 12 (inst / 136))
   | _ => true)

/-- A write to one field under its access code (R9): an RWL field keeps its value after the seal. -/
def State.writeField (s : State) (f : Fld) (inst idx v : Nat) : State :=
  let x := bitsOf v f.lo f.width
  match f.acc with
  | .rw => s.setFld f inst x idx
  | .rwl => if s.flag .KTL_BOOT_SEALED 0 then s else s.setFld f inst x idx
  | .w1c => s.setFld f inst (s.fld f inst idx - (s.fld f inst idx &&& x)) idx
  | .w1s => s.setFld f inst (s.fld f inst idx ||| x) idx
  | .ro | .wo => s

/-- A write to every field of a register under its access code. -/
def State.writeFields (s : State) (r : Reg) (inst idx v : Nat) : State :=
  r.fields.foldl (fun (s : State) f => s.writeField f inst idx v) s

/-- A write of CEL_CTRL (R194, R195, R197): the result of a self-test is open. -/
def State.writeCelCtrl (s : State) (n v : Nat) : State :=
  match physBlock n with
  | none => s
  | some b =>
    let s := s.iff (bitOf v 2) (fun s => s.clearEcc n)
    let s := s.iff (bitOf v 1 && s.fld .BLK_SPARE_SPARE b.val == n % 17 && (s.blk b.val).retiring.isNone) (fun s =>
      (s.setBlk b.val { s.blk b.val with selfTest := some (Sys2Proof.Config.choice s.free % 2 == 1) }).tick)
    if bitOf v 0 then
      match (List.range 16).find? (fun k => s.posOf b.val k == n % 17) with
      | some k => s.releaseSlot (Sys2Proof.Block.cell b (Fin.ofNat 16 k))
      | none => s
    else s

/-- A write of LNK_DEVID or LNK_RTCFG (R452), ignored when it would leave the own ID at or above SIZE. -/
def State.writeIdent (s : State) (r : Reg) (v : Nat) : State :=
  let t := s.writeFields r 0 0 v
  if t.fld .LNK_DEVID_ID 0 < t.fld .LNK_RTCFG_SIZE 0 then t.pumpItems else s

/-- What a write does to a register (R9, and the rules that name the register). -/
def State.regEffect (s : State) (who : Bank) (r : Reg) (inst idx v : Nat) : State :=
  match r with
  | .BDG_QUOTA => match resOf (inst / 256) (inst % 256) with
    | some b => s.writeQuota b idx v
    | none => s
  | .FAB_DECERR =>
    let s := s.writeFields r inst idx v
    s.iff (bitOf v 63) (fun s => s.setFld .FAB_DECERR_COUNT 0 0)
  | .HPT_ACCERR =>
    let s := s.writeFields r inst idx v
    s.iff (bitOf v 63) (fun s => s.setFld .HPT_ACCERR_COUNT inst 0)
  | .DIR_PEEK_ADDR => s.dirPeek inst v
  | .BLK_PWR => (s.writeFields r inst idx v).requestBlk (Fin.ofNat 96 inst) (BlkState.ofCode (bitsOf v 4 2))
  | .BLK_RETIRE => s.writeBlkRetire (Fin.ofNat 96 inst) v
  | .CEL_CTRL => s.writeCelCtrl inst v
  | .SEQ_CTRL => (s.writeFields r inst idx v).seqCtrl (Fin.ofNat 12 inst) (bitOf v 4) (bitOf v 1) (bitOf v 3) (bitOf v 2)
  | .SEQ_PC => if [3, 4].contains (s.fld .SEQ_STAT_STATE inst) then s.writeFields r inst idx v else s
  | .UPD_PGCMD => match s.selRegion who with
    | some x => s.writePgCmd x v
    | none => s
  | .UPD_RCBASE => s.writeRcBase v
  | .FMC_CZ_CTRL => s.writeCzCtrl inst v
  | .FMC_CZ_WIN => if s.flag .FMC_CZ_CTRL_EN inst then s else s.writeFields r inst idx v
  | .FMC_XTS => s.writeXts inst v
  | .LNK_CTRL => s.writeLnkCtrl inst v
  | .LNK_DEVID | .LNK_RTCFG => s.writeIdent r v
  | .LNK_BUNDLE | .LNK_RT => (s.writeFields r inst idx v).pumpItems
  | .LNK_EPOCH => if s.net.colls.isEmpty then s.writeFields r inst idx v else s
  | .LNK_GRPBASE =>
    let s := s.setFld .LNK_GRPBASE_EN 0 (bitsOf v 63 1)
    if s.net.groups.isEmpty then s.setFld .LNK_GRPBASE_BASE 0 (bitsOf v 27 21) else s
  | .COL_STAGE | .COL_XFBASE | .COL_TOKBASE | .COL_TOKN => if s.flag .COL_CTRL_EN 0 then s else s.writeFields r inst idx v
  | .COL_STRCMD => s.writeStrCmd v
  | .HPT_GATE => s.writeGate inst v
  | .HPT_CTRL =>
    let s := s.writeFields r inst idx v
    if bitOf v 0 then s.softAdvance (Fin.ofNat 4 inst) else s
  | .HPT_OBDATA => s.writeObdata who inst v
  | .HPT_MSIGEN => s.writeMsigen inst v
  | .RSL_CTRL =>
    let s := s.writeFields r inst idx v
    if bitOf v 0 then s.fence 0x3F else s
  | .RSL_CQ_POP => if bitOf v 31 then s.pop who .chip (bitsOf v 0 2) else s
  | .RSL_RQ_POP => if bitOf v 31 then s.pop who (.region (Fin.ofNat 12 idx)) (bitsOf v 0 2) else s
  | .RSL_FIFE_CTRL => (s.writeFields r inst idx v).fenceIfCutOff
  | .RSL_FIFEP => s.writeFifep idx v
  | .RSL_ADOPT => s.writeAdopt v
  | .RSL_REPORT => s.report v
  | .KTL_MB_DB => s.writeDoorbell who v
  | r =>
    match ringOf r inst idx with
    | some ring =>
      if [Reg.SEQ_WR_BASE, .SEQ_CR_BASE, .SEQ_ER_BASE, .NUM_ER_BASE, .LNK_ER_BASE, .COL_RQ_BASE, .COL_CL_BASE, .COL_CR_BASE,
          .COL_HL_BASE, .COL_HR_BASE, .COL_MF_BASE, .COL_RP_BASE, .COL_ER_BASE, .RSL_EL_BASE, .RSL_ELC_BASE, .RSL_JR_BASE,
          .KTL_TEL_BASE].contains r then s.writeRingBase ring v
      else if (ringCfg ring).cb.reg = r then s.writeRingCb ring v
      else s
    | none => s.writeFields r inst idx v

/-- A write of a whole register by a bank. -/
def State.regWrite (s : State) (who : Bank) (r : Reg) (idx v : Nat) : State :=
  match s.regInst who r with
  | none => s
  | some inst => if s.regHidden who r || !s.regMayWrite who r inst then s else s.regEffect who r inst idx v

/-! ## Accesses -/

/-- What a register access answers: the value of a read (0 for a write), or a decode error. -/
abbrev RegAns := Option Nat

/-- One 32-bit read (R61, R67). -/
def State.read32 (s : State) (who : Bank) (off : Nat) : State × Nat :=
  let k := s.bank who
  match regAt off with
  | none => (s.setBank who { k with latched := none }, 0)
  | some a =>
    let v := s.regRead who a.reg a.idx
    if !a.reg.place.wide then (s.setBank who { k with latched := none }, v)
    else if !a.high then (s.setBank who { k with latched := some (off, BitVec.ofNat 32 (v / 2 ^ 32)) }, v % 2 ^ 32)
    else
      let h := match k.latched with
        | some (o, h) => if o + 4 = off then h.toNat else v / 2 ^ 32
        | none => v / 2 ^ 32
      (s.setBank who { k with latched := none }, h)

/-- One 32-bit write (R61, R67); answers whether it was accepted. -/
def State.write32 (s : State) (who : Bank) (off v : Nat) : State × Bool :=
  let k := s.bank who
  let clear := { k with latched := none, heldLow := none }
  match regAt off with
  | none => (s.setBank who clear, true)
  | some a =>
    if !a.reg.place.wide then ((s.setBank who clear).regWrite who a.reg a.idx v, true)
    else if !a.high then (s.setBank who { clear with heldLow := some (off, BitVec.ofNat 32 v) }, true)
    else match k.heldLow with
      | some (o, l) =>
        if o + 4 = off then ((s.setBank who clear).regWrite who a.reg a.idx (l.toNat + v % 2 ^ 32 * 2 ^ 32), true)
        else ((s.setBank who clear).regError who off true, false)
      | none => ((s.setBank who clear).regError who off true, false)

/-- A 64-bit access at an offset that holds no 64-bit register: two 32-bit accesses, the lower first (R66). -/
def State.twoHalves (s : State) (who : Bank) (off : Nat) (wr : Option Nat) : State × RegAns :=
  match wr with
  | none =>
    let a := s.read32 who off
    let b := a.1.read32 who (off + 4)
    (b.1, some (a.2 + b.2 * 2 ^ 32))
  | some v =>
    let a := s.write32 who off (v % 2 ^ 32)
    let b := a.1.write32 who (off + 4) (v / 2 ^ 32 % 2 ^ 32)
    (b.1, some 0)

/-- A register access of a bank (R63 to R68): 4 or 8 bytes at an offset, a write with its value or a read. -/
def State.regAccess (s : State) (who : Bank) (off size : Nat) (wr : Option Nat) : State × RegAns :=
  let high := match regAt off with
    | some a => a.high && size == 4 && wr.isSome
    | none => false
  let s := s.dropHeld who (if high then some (off - 4) else none)
  if !(size == 4 || size == 8) || off % max size 1 != 0 || (winOf off).isNone then
    ((s.forget who).regError who off wr.isSome, none)
  else if size = 4 then
    match wr with
    | none => let r := s.read32 who off; (r.1, some r.2)
    | some v => let r := s.write32 who off (v % 2 ^ 32); (r.1, if r.2 then some 0 else none)
  else
    match regAt off with
    | some a =>
      if a.reg.place.wide then
        match wr with
        | none => (s.forget who, some (s.regRead who a.reg a.idx))
        | some v => ((s.forget who).regWrite who a.reg a.idx (v % 2 ^ 64), some 0)
      else s.twoHalves who off wr
    | none => s.twoHalves who off wr

/-- An access whose answer goes back to its bank: what a read returned, or one more refusal. -/
def State.bankAccess (s : State) (who : Bank) (off size : Nat) (wr : Option Nat) : State :=
  let r := s.regAccess who off size wr
  let k := r.1.bank who
  match r.2 with
  | some v => if wr.isNone then r.1.setBank who { k with data := BitVec.ofNat 64 v } else r.1
  | none => r.1.setBank who { k with faults := k.faults + 1, data := if wr.isNone then 0 else k.data }

/-- The offset of a window's select register. -/
def Window.selOff : Window → Nat
  | .region => 0x100000
  | .block => 0x200000
  | .cell => 0x300000
  | .link => 0x400000
  | .farChannel => 0x500000
  | .hostPort => 0x600000
  | .budgets => 0xA00000

/-- SELECT_REGISTER_WRITE (R62, R63). -/
def execSelectRegisterWrite (who : Bank) (win : Window) (v : W32) (s : State) : Answer :=
  .next (s.bankAccess who (Window.selOff win) 4 (some v.toNat))

/-- REGISTER_WRITE (R9, R61 to R68): a write of 32 or 64 bits at an offset of the register space. -/
def execRegisterWrite (who : Bank) (off : Nat) (wide : Bool) (v : W64) (s : State) : Answer :=
  .next (s.bankAccess who off (if wide then 8 else 4) (some v.toNat))

/-- LOW_HALF_READ (R67). -/
def execLowHalfRead (who : Bank) (off : Nat) (s : State) : Answer := .next (s.bankAccess who off 4 none)

/-- HIGH_HALF_READ (R67). -/
def execHighHalfRead (who : Bank) (off : Nat) (s : State) : Answer := .next (s.bankAccess who off 4 none)

/-- LOW_HALF_WRITE (R67). -/
def execLowHalfWrite (who : Bank) (off : Nat) (v : W32) (s : State) : Answer := .next (s.bankAccess who off 4 (some v.toNat))

/-- HIGH_HALF_WRITE (R67). -/
def execHighHalfWrite (who : Bank) (off : Nat) (v : W32) (s : State) : Answer := .next (s.bankAccess who off 4 (some v.toNat))

/-- Whether a port's access through BAR0 is served (R542, R570): in the Kettle-only state the Kettle mailbox window alone, in a
fenced device the select registers and the RSL_ and KTL_ registers. -/
def State.bar0Serves (s : State) (off : Nat) : Option Reply :=
  let w := winOf off
  if s.flag .KTL_BOOT_KONLY 0 then (if w = some .kettle then none else some .ur)
  else if s.fenced then
    let sel := match regAt off with
      | some a => selectReg a.reg
      | none => false
    if sel || w = some .kettle || w = some .resilience || w = none then none else some .ca
  else none

/-- HOST_REGISTER_ACCESS (R66 to R74, R509, R510, R513, R542, R570): an access through BAR0, checked at entry 49,152 of the port's
access table and performed with the port's bank. A read waits for the port's earlier posted writes. An access that is refused
ends a pair of halves like any other (R67). -/
def execHostRegisterAccess (p : Port) (off size : Nat) (wr : Option W64) (ep : Bool) (s : State) : Answer :=
  .next (
    if !s.portServes p || (wr.isNone && s.postedWaits p) then s
    else if wr.isSome && ep then (s.otherAccess (.host p)).bump .HPT_ERR_EP p
    else match s.bar0Serves off with
      | some r =>
        let s := s.otherAccess (.host p)
        let s := s.bump (if r = .ur then .HPT_ERR_UR else .HPT_ERR_CA) p (if r = .ur || wr.isNone then 1 else 0)
        if wr.isNone then s.reply p r else s
      | none =>
        let a := 0x300000000000 + off
        if !s.accBit p a wr.isSome then
          let s := s.otherAccess (.host p)
          let s := s.noteRefusal p a wr.isSome true
          if wr.isNone then (s.bump .HPT_ERR_CA p).reply p .ca else s
        else
          let r := s.regAccess (.host p) off size (wr.map (·.toNat))
          if wr.isSome then r.1
          else match r.2 with
            | some v => r.1.reply p (.data (leBytes size v) false)
            | none => r.1.reply p .ur)

end Sys2Proof.Machine
end

