-- ==== Sys2Proof/Machine/Scalar.lean ====
section
/-! DEFINITION. Scalar loads and stores, and the sequencers' register accesses (02: R50, R66; 07: R266, R278, R316). -/

namespace Sys2Proof.Machine

/-- The value LD writes: zero- or sign-extended. -/
def extendLd (n : Nat) (signed : Bool) (v : Nat) : Nat := if signed then unsignedOf 64 (signedOf (8 * n) v) else v

/-- The register-space offset a sequencer's access reaches (R50, R66); a cell holds no bank (R51). -/
def regSpot (x : Executor) (s : State) (a : Nat) : Option (Region × Nat) :=
  match x, s.place (canonical a) with
  | .seq r, .regs off => some (r, off)
  | _, _ => none

/-- Whether a store address belongs to a slot retired without replacement (R199). -/
def State.storeGone (s : State) (a : Nat) : Bool :=
  match scratchHome (canonical a) with
  | some (b, some k) => (s.blk b).gone.contains k
  | _ => false

/-- An access to a store waits while its slot is being retired and wakes a block that sleeps (R60, R198); any other is left to what
it does. -/
def atStore (s : State) (a n : Nat) (act : Act) : Act :=
  match (s.place (canonical a)).store with
  | none => act
  | some _ =>
    if !(s.asleep [(a, n)]).isEmpty then .wake (s.asleep [(a, n)]) else if s.rangeFree a n then act else .hold

/-- MOV_LD (R50, R60, R265, R266, R278): the line is taken into the executor's cache; a failed load writes 0. -/
def execMovLd (x : Executor) (w : W128) (s : State) : Answer :=
  issue 1 0x010 x w s
    (fun _ => onlyRsvd (fRB w != 0 || fRC w != 0 || decide (8 ≤ fSUB w) || regsBad x [fRD w, fRA w]))
    (fun s =>
      let n := 2 ^ (fSUB w % 4)
      let a := addrRA x w s
      let fin (t : State) (f : Flight) (v : Nat) (bad : Nat) : State × Flight :=
        (t.setSreg x (fRD w) (if bad = 0 then extendLd n ((fSUB w).testBit 2) v else 0), { f with status := (failed bad).1, detail := bad })
      let m := moverOf x
      let free (t : State) (f : Flight) (v : Nat) : Nat :=
        if t.readsRaced x f then leNat (t.freeBytes a 8) else v
      match s.spot x a n with
      | .later => .hold
      | .refused => queued x w (moveQueue x) none s (fun t f =>
          match regSpot x t a with
          | some (r, off) =>
            let q := t.regAccess (.seq r) off n none
            fin q.1 f (q.2.getD 0) (if q.2.isSome then 0 else 3)
          | none => fin (t.refuse m.code a false) f 0 3)
      | .store l off => atStore s a n (queued x w (moveQueue x) none s (fun t f =>
          let bad := poisonAt (t.mem.wordPoison l) off n || t.storeGone a
          fin (t.noteRead m (defaultClass m.code) a n) f (free t f ((t.mem.line l).extractLsb' (8 * off) (8 * n)).toNat) (if bad then 2 else 0)) { reads := [(a, n)] })
      | .line l off => queued x w (moveQueue x) none s (fun t f =>
          let t := (t.noteCoded (defaultClass m.code) l).fillShared m (defaultClass m.code) l false
          match t.cached x.agent l with
          | some k => fin t f (free t f (k.data.extractLsb' (8 * off) (8 * n)).toNat) (if poisonAt k.poison off n then 2 else 0)
          | none => fin t f 0 0) { reads := [(a, n)] })

/-- MOV_ST (R50, R60, R266, R278). -/
def execMovSt (x : Executor) (w : W128) (s : State) : Answer :=
  issue 1 0x011 x w s
    (fun _ => onlyRsvd (fRD w != 0 || fRC w != 0 || decide (4 ≤ fSUB w) || regsBad x [fRA w, fRB w]))
    (fun s =>
      let n := 2 ^ (fSUB w % 4)
      let a := addrRA x w s
      let m := moverOf x
      let wr (off : Nat) : LineWrite :=
        ⟨byteMask off n, BitVec.ofNat 512 ((s.sreg x (fRB w) % 2 ^ (8 * n)) * 2 ^ (8 * off)), false⟩
      match s.spot x a n with
      | .later => .hold
      | .refused => queued x w (moveQueue x) none s (fun t f =>
          match regSpot x t a with
          | some (r, off) =>
            let q := t.regAccess (.seq r) off n (some (s.sreg x (fRB w)))
            (q.1, if q.2.isSome then f else { f with status := 0xC0, detail := 3 })
          | none => (t.refuse m.code a true, { f with status := 0xC0, detail := 3 }))
      | .store _ _ => atStore s a n (queued x w (moveQueue x) none s (fun t f =>
          ((t.writePart m (defaultClass m.code) a (leBytes n (s.sreg x (fRB w))) false).1, f)) { writes := [(a, n)] })
      | .line l off => queued x w (moveQueue x) none s (fun t f =>
          ((((t.noteCoded (defaultClass m.code) l).fillOwned m (defaultClass m.code) l).storeCached m.code l (wr off)).unsettleCached m l (wr off), f))
          { writes := [(a, n)] })

/-- The access of REGRD and REGWR: its width, and the answer's status. -/
def regSize (w : W128) : Nat := if fSUB w % 2 = 1 then 8 else 4

/-- SYS_REGRD (R316): RD receives the register at RA + IMM, or 0 where the access is refused. -/
def execSysRegrd (x : Executor) (w : W128) (s : State) : Answer :=
  issue 0xC 4 x w s
    (fun _ => onlyRsvd (fRB w != 0 || fRC w != 0 || decide (2 ≤ fSUB w)))
    (fun s => match x with
      | .cell _ => .hold
      | .seq r =>
        let q := s.regAccess (.seq r) (addrRA x w s) (regSize w) none
        .done (q.1.setSreg x (fRD w) (q.2.getD 0)) (if q.2.isSome then (0, 0) else (0xC0, 3)) 0 none)

/-- SYS_REGWR (R316): RB goes to the register at RA + IMM. -/
def execSysRegwr (x : Executor) (w : W128) (s : State) : Answer :=
  issue 0xC 5 x w s
    (fun _ => onlyRsvd (fRD w != 0 || fRC w != 0 || decide (2 ≤ fSUB w)))
    (fun s => match x with
      | .cell _ => .hold
      | .seq r =>
        let q := s.regAccess (.seq r) (addrRA x w s) (regSize w) (some (s.sreg x (fRB w)))
        .done q.1 (if q.2.isSome then (0, 0) else (0xC0, 3)) 0 none)

/-- One pass of WATCH's loop came to this: it exits with v and a predicate, it fails with a DETAIL, it sleeps, or the line is
not to be had now. -/
inductive Look where
  | exits (v : Nat) (p : Bool)
  | fails (detail : Nat)
  | sleeps (v : Nat)
  | later
  deriving DecidableEq, Repr

/-- One pass of the loop of R311 at an address: the word is read with a watch, which is not set when the agent holds its limit
of watched lines (R109) and never for a store or a register, which is read once; registers are a sequencer's only, through its bank
(R50, R51, R62). A word the executor's own instructions in flight write has an undefined value (R213, R265). -/
def State.watchPass (s : State) (x : Executor) (a old : Nat) : State × Look :=
  let c := canonical a
  let pl := s.place c
  let m := moverOf x
  let cls := defaultClass m.code
  let regs := regSpot x s a
  if a % 8 ≠ 0 ∨ (pl.memory = false ∧ regs = none) then (s.refuse m.code a false, .fails 3)
  else match regs with
  | some (r, off) =>
    let q := s.regAccess (.seq r) off 8 none
    match q.2 with
    | some v => (q.1, .exits v (v != old))
    | none => (q.1, .fails 3)
  | none =>
    let (s, raced) := s.raceReads x [(a, 8)]
    let free := leNat (s.freeBytes a 8)
    if !pl.coherent then
      let g := s.readBytes a 8
      let v := if raced.isEmpty then leNat g.bytes else free
      let s := s.noteRead m cls a 8
      if g.detail ≠ 0 then (s, .fails g.detail) else (s, .exits v (v != old))
    else
      let line := c / 64
      if !s.lineReady m.code line then (s, .later)
      else
        let held := (s.cached m.code line).any (·.watched)
        let canWatch := held || decide (s.watchCount m.code < watchLimit m.code)
        let s := (s.noteCoded cls line).fillShared m cls line canWatch
        match s.cached m.code line with
        | none => (s, .later)
        | some k =>
          let off := c % 64
          let v := if raced.isEmpty then (k.data.extractLsb' (8 * off) 64).toNat else free
          if k.poison.getLsbD (off / 4) || k.poison.getLsbD (off / 4 + 1) then (s, .fails 2)
          else if v ≠ old then (s, .exits v true)
          else if !canWatch then (s, .exits v false)
          else (s.setCached m.code line { k with watched := true }, .sleeps v)

/-- Whether the record of an instruction, if its CR asks for one, is accepted now (R216, R231). -/
def State.recordFits (s : State) (x : Executor) (w : W128) : Bool := wf w 97 1 == 0 || s.ringAccepts (.completion x.region)

/-- WATCH completes: RD and PD are written, and the record and token follow. -/
def State.watchEnds (s : State) (x : Executor) (w : W128) (v : Nat) (p : Bool) (o : Outc) : State :=
  let s := s.setExe x { s.exe x with watch := none }
  let f := s.mkFlight x w .move none
  let s := (s.setSreg x (fRD w) v).setPredBit x (fSUB w % 8) p
  let s := s.shows x 1
  ((s.setPc x (s.pcOf x + 1)).complete x { f with status := o.1, detail := o.2 }).boundary x

/-- What a pass comes to for the executor. -/
def State.watchAfter (s : State) (x : Executor) (w : W128) (deadline : Option Nat) (p : State × Look) : Option State :=
  match p.2 with
  | .exits v b => some (p.1.watchEnds x w v b (0, 0))
  | .fails d => some (p.1.watchEnds x w 0 false (0xC0, d))
  | .later => none
  | .sleeps v =>
    let t := p.1
    let ww : WatchWait := ⟨addrRA x w s, BitVec.ofNat 64 v, fRD w, deadline, false⟩
    some ((t.setExe x { t.exe x with watch := some ww }).shows x 2)

/-- SYN_WATCH (R311): the first pass at dispatch; once the sleeper has been woken the command goes round the loop again. -/
def execSynWatch (x : Executor) (w : W128) (s : State) : Answer :=
  match (s.exe x).watch with
  | some k =>
    .next (if !k.woken || s.fenced || s.fetch x ≠ some w || !s.recordFits x w then s
      else (s.watchAfter x w k.deadline (s.watchPass x k.addr k.old.toNat)).getD s)
  | none =>
    issue 0xB 3 x w s
      (fun _ => onlyRsvd (fSUB w % 8 == 0 || decide (8 ≤ fSUB w) || regsBad x [fRD w, fRA w, fRB w, fRC w]))
      (fun s =>
        let limit := s.sreg x (fRC w)
        let deadline := if limit = 0 then none else some (s.clk.aon + limit)
        atStore s (addrRA x w s) 8
          (match s.watchAfter x w deadline (s.watchPass x (addrRA x w s) (s.sreg x (fRB w))) with
            | some t => .raw t
            | none => .hold))

/-- WATCH_TIMEOUT (R311): the time a WATCH may sleep has passed, and it ends without a change. -/
def execWatchTimeout (x : Executor) (s : State) : Answer :=
  .next (match (s.exe x).watch, s.fetch x with
    | some k, some w =>
      match k.deadline with
      | some t =>
        if s.fenced || decide (s.clk.aon < t) || !s.recordFits x w then s
        else s.watchEnds x w k.old.toNat false (0, 0)
      | none => s
    | _, _ => s)


end Sys2Proof.Machine
end

