-- ==== Sys2Proof/Machine/Dispatch.lean ====
section
/-! DEFINITION. The dispatch of commands to their meanings, one arm per constructor. -/

namespace Sys2Proof.Machine

def exec (i : Instr) (s : State) : Host.Outcome State Fault Refusal :=
  match i with
  | .blkPwrReq who b req => Sys2Proof.Machine.execBlkPwrReq who b req s
  | .blockSleepCommit b pause => Sys2Proof.Machine.execBlockSleepCommit b pause s
  | .blockInboundDispatch b => Sys2Proof.Machine.execBlockInboundDispatch b s
  | .blockGatedWake b => Sys2Proof.Machine.execBlockGatedWake b s
  | .blockStateReached b => Sys2Proof.Machine.execBlockStateReached b s
  | .blockAutogate b => Sys2Proof.Machine.execBlockAutogate b s
  | .fclkIdleStop d => Sys2Proof.Machine.execFclkIdleStop d s
  | .clusterClockStop q waiting => Sys2Proof.Machine.execClusterClockStop q waiting s
  | .farSelfRefreshEntry f => Sys2Proof.Machine.execFarSelfRefreshEntry f s
  | .farSelfRefreshExit f => Sys2Proof.Machine.execFarSelfRefreshExit f s
  | .budgetPeriodStart kind index => Sys2Proof.Machine.execBudgetPeriodStart kind index s
  | .budgetGrant kind index cls => Sys2Proof.Machine.execBudgetGrant kind index cls s
  | .budgetStarved res cls => Sys2Proof.Machine.execBudgetStarved res cls s
  | .bdgQuotaWrite who cls v => Sys2Proof.Machine.execBdgQuotaWrite who cls v s
  | .selectRegisterWrite who win v => Sys2Proof.Machine.execSelectRegisterWrite who win v s
  | .registerWrite who off wide v => Sys2Proof.Machine.execRegisterWrite who off wide v s
  | .lowHalfRead who off => Sys2Proof.Machine.execLowHalfRead who off s
  | .highHalfRead who off => Sys2Proof.Machine.execHighHalfRead who off s
  | .lowHalfWrite who off v => Sys2Proof.Machine.execLowHalfWrite who off v s
  | .highHalfWrite who off v => Sys2Proof.Machine.execHighHalfWrite who off v s
  | .scratchAccess x => Sys2Proof.Machine.execScratchAccess x s
  | .hptAccWrite who n v => Sys2Proof.Machine.execHptAccWrite who n v s
  | .homeRequestArrival r reqs => Sys2Proof.Machine.execHomeRequestArrival r reqs s
  | .gets r src txn => Sys2Proof.Machine.execGets r src txn s
  | .getsw r src txn => Sys2Proof.Machine.execGetsw r src txn s
  | .getm r src txn => Sys2Proof.Machine.execGetm r src txn s
  | .puts r src txn => Sys2Proof.Machine.execPuts r src txn s
  | .pute r src txn => Sys2Proof.Machine.execPute r src txn s
  | .putm r src txn => Sys2Proof.Machine.execPutm r src txn s
  | .rdnc r src txn => Sys2Proof.Machine.execRdnc r src txn s
  | .wrnc r src txn => Sys2Proof.Machine.execWrnc r src txn s
  | .atomnc r src txn => Sys2Proof.Machine.execAtomnc r src txn s
  | .snpfwds a line => Sys2Proof.Machine.execSnpfwds a line s
  | .snpfwdm a line => Sys2Proof.Machine.execSnpfwdm a line s
  | .snpfwdrd a line => Sys2Proof.Machine.execSnpfwdrd a line s
  | .snpinv a line => Sys2Proof.Machine.execSnpinv a line s
  | .snpack r a line => Sys2Proof.Machine.execSnpack r a line s
  | .snpdata r a line => Sys2Proof.Machine.execSnpdata r a line s
  | .compack r a line => Sys2Proof.Machine.execCompack r a line s
  | .putack a line => Sys2Proof.Machine.execPutack a line s
  | .putackstale a line => Sys2Proof.Machine.execPutackstale a line s
  | .gnte a line => Sys2Proof.Machine.execGnte a line s
  | .datas a line => Sys2Proof.Machine.execDatas a line s
  | .datae a line => Sys2Proof.Machine.execDatae a line s
  | .datam a line => Sys2Proof.Machine.execDatam a line s
  | .rddata req txn => Sys2Proof.Machine.execRddata req txn s
  | .ncdone req txn => Sys2Proof.Machine.execNcdone req txn s
  | .cacheEvict a line => Sys2Proof.Machine.execCacheEvict a line s
  | .snoopTimeout r a line => Sys2Proof.Machine.execSnoopTimeout r a line s
  | .watchLimitPoll a line => Sys2Proof.Machine.execWatchLimitPoll a line s
  | .dirPeek who v => Sys2Proof.Machine.execDirPeek who v s
  | .cellCheckFailure c src addr retryFails => Sys2Proof.Machine.execCellCheckFailure c src addr retryFails s
  | .cellParityError c => Sys2Proof.Machine.execCellParityError c s
  | .ceLimitReached e => Sys2Proof.Machine.execCeLimitReached e s
  | .blkRetire who v => Sys2Proof.Machine.execBlkRetire who v s
  | .spareSelfTestComplete b pass => Sys2Proof.Machine.execSpareSelfTestComplete b pass s
  | .slotAdoption b => Sys2Proof.Machine.execSlotAdoption b s
  | .celRelease who => Sys2Proof.Machine.execCelRelease who s
  | .celSelftest who pass => Sys2Proof.Machine.execCelSelftest who pass s
  | .celClrEcc who => Sys2Proof.Machine.execCelClrEcc who s
  | .nearScrub r fixed bad => Sys2Proof.Machine.execNearScrub r fixed bad s
  | .rowSpare r col row => Sys2Proof.Machine.execRowSpare r col row s
  | .expanderAbandon c addr => Sys2Proof.Machine.execExpanderAbandon c addr s
  | .bsuChunkClear r chunk => Sys2Proof.Machine.execBsuChunkClear r chunk s
  | .seqFetchFault f => Sys2Proof.Machine.execSeqFetchFault f s
  | .instructionComplete x q => Sys2Proof.Machine.execInstructionComplete x q s
  | .cellLaunchAccept c => Sys2Proof.Machine.execCellLaunchAccept c s
  | .kldDelivery c => Sys2Proof.Machine.execKldDelivery c s
  | .launchComplete r id => Sys2Proof.Machine.execLaunchComplete r id s
  | .ringEnable who ring v => Sys2Proof.Machine.execRingEnable who ring v s
  | .ringDisable who ring v => Sys2Proof.Machine.execRingDisable who ring v s
  | .deviceRingDrain ring => Sys2Proof.Machine.execDeviceRingDrain ring s
  | .workRingConsume r n => Sys2Proof.Machine.execWorkRingConsume r n s
  | .workNop r => Sys2Proof.Machine.execWorkNop r s
  | .workCall r => Sys2Proof.Machine.execWorkCall r s
  | .workStep r => Sys2Proof.Machine.execWorkStep r s
  | .slotOverrun r => Sys2Proof.Machine.execSlotOverrun r s
  | .seqClrtok who => Sys2Proof.Machine.execSeqClrtok who s
  | .seqHalt who => Sys2Proof.Machine.execSeqHalt who s
  | .seqAbort who => Sys2Proof.Machine.execSeqAbort who s
  | .seqResume who => Sys2Proof.Machine.execSeqResume who s
  | .ctlEnd x w => Sys2Proof.Machine.execCtlEnd x w s
  | .ctlEndslot x w => Sys2Proof.Machine.execCtlEndslot x w s
  | .ctlBr x w => Sys2Proof.Machine.execCtlBr x w s
  | .ctlLoop x w => Sys2Proof.Machine.execCtlLoop x w s
  | .ctlJr x w => Sys2Proof.Machine.execCtlJr x w s
  | .ctlSet x w => Sys2Proof.Machine.execCtlSet x w s
  | .ctlAdd x w => Sys2Proof.Machine.execCtlAdd x w s
  | .ctlSub x w => Sys2Proof.Machine.execCtlSub x w s
  | .ctlMul x w => Sys2Proof.Machine.execCtlMul x w s
  | .ctlShl x w => Sys2Proof.Machine.execCtlShl x w s
  | .ctlShr x w => Sys2Proof.Machine.execCtlShr x w s
  | .ctlAnd x w => Sys2Proof.Machine.execCtlAnd x w s
  | .ctlOr x w => Sys2Proof.Machine.execCtlOr x w s
  | .ctlXor x w => Sys2Proof.Machine.execCtlXor x w s
  | .ctlSra x w => Sys2Proof.Machine.execCtlSra x w s
  | .ctlCmp x w => Sys2Proof.Machine.execCtlCmp x w s
  | .ctlPset x w => Sys2Proof.Machine.execCtlPset x w s
  | .ctlGets x w => Sys2Proof.Machine.execCtlGets x w s
  | .movCopy x w => Sys2Proof.Machine.execMovCopy x w s
  | .movPut x w => Sys2Proof.Machine.execMovPut x w s
  | .movGet x w => Sys2Proof.Machine.execMovGet x w s
  | .movHwr x w => Sys2Proof.Machine.execMovHwr x w s
  | .movHrd x w => Sys2Proof.Machine.execMovHrd x w s
  | .movGather x w => Sys2Proof.Machine.execMovGather x w s
  | .movScatadd x w => Sys2Proof.Machine.execMovScatadd x w s
  | .movLd x w => Sys2Proof.Machine.execMovLd x w s
  | .movSt x w => Sys2Proof.Machine.execMovSt x w s
  | .movAmo x w => Sys2Proof.Machine.execMovAmo x w s
  | .movDwr x w => Sys2Proof.Machine.execMovDwr x w s
  | .movDld x w => Sys2Proof.Machine.execMovDld x w s
  | .movKld x w => Sys2Proof.Machine.execMovKld x w s
  | .mmaMm x w => Sys2Proof.Machine.execMmaMm x w s
  | .vecUn x w => Sys2Proof.Machine.execVecUn x w s
  | .vecBin x w => Sys2Proof.Machine.execVecBin x w s
  | .vecFma x w => Sys2Proof.Machine.execVecFma x w s
  | .vecCmp x w => Sys2Proof.Machine.execVecCmp x w s
  | .vecSel x w => Sys2Proof.Machine.execVecSel x w s
  | .vecRed x w => Sys2Proof.Machine.execVecRed x w s
  | .nrmStat x w => Sys2Proof.Machine.execNrmStat x w s
  | .nrmNorm x w => Sys2Proof.Machine.execNrmNorm x w s
  | .nrmNormb x w => Sys2Proof.Machine.execNrmNormb x w s
  | .nrmAttf x w => Sys2Proof.Machine.execNrmAttf x w s
  | .nrmAttb x w => Sys2Proof.Machine.execNrmAttb x w s
  | .nrmSmxb x w => Sys2Proof.Machine.execNrmSmxb x w s
  | .cnvCvt x w => Sys2Proof.Machine.execCnvCvt x w s
  | .cnvMask x w => Sys2Proof.Machine.execCnvMask x w s
  | .cnvMapply x w => Sys2Proof.Machine.execCnvMapply x w s
  | .rngUnif x w => Sys2Proof.Machine.execRngUnif x w s
  | .rngNormal x w => Sys2Proof.Machine.execRngNormal x w s
  | .rngBits x w => Sys2Proof.Machine.execRngBits x w s
  | .rngDrop x w => Sys2Proof.Machine.execRngDrop x w s
  | .colRs x w => Sys2Proof.Machine.execColRs x w s
  | .colAg x w => Sys2Proof.Machine.execColAg x w s
  | .colAr x w => Sys2Proof.Machine.execColAr x w s
  | .colA2a x w => Sys2Proof.Machine.execColA2a x w s
  | .colBc x w => Sys2Proof.Machine.execColBc x w s
  | .colSqn x w => Sys2Proof.Machine.execColSqn x w s
  | .colGnew x w => Sys2Proof.Machine.execColGnew x w s
  | .colGfree x w => Sys2Proof.Machine.execColGfree x w s
  | .groupFreed grp => Sys2Proof.Machine.execGroupFreed grp s
  | .cpxComp x w => Sys2Proof.Machine.execCpxComp x w s
  | .cpxExpand x w => Sys2Proof.Machine.execCpxExpand x w s
  | .updGsq x w => Sys2Proof.Machine.execUpdGsq x w s
  | .updApply x w => Sys2Proof.Machine.execUpdApply x w s
  | .updOrtho x w => Sys2Proof.Machine.execUpdOrtho x w s
  | .updPrecond x w => Sys2Proof.Machine.execUpdPrecond x w s
  | .updRows x w => Sys2Proof.Machine.execUpdRows x w s
  | .teamBarrier r => Sys2Proof.Machine.execTeamBarrier r s
  | .staShares x w => Sys2Proof.Machine.execStaShares x w s
  | .staRatio x w => Sys2Proof.Machine.execStaRatio x w s
  | .staSzw x w => Sys2Proof.Machine.execStaSzw x w s
  | .synFence x w => Sys2Proof.Machine.execSynFence x w s
  | .synWait x w => Sys2Proof.Machine.execSynWait x w s
  | .synSignal x w => Sys2Proof.Machine.execSynSignal x w s
  | .signalDelivery r => Sys2Proof.Machine.execSignalDelivery r s
  | .synWatch x w => Sys2Proof.Machine.execSynWatch x w s
  | .watchTimeout x => Sys2Proof.Machine.execWatchTimeout x s
  | .sysLaunch x w => Sys2Proof.Machine.execSysLaunch x w s
  | .sysRestart x w => Sys2Proof.Machine.execSysRestart x w s
  | .sysTokclr x w => Sys2Proof.Machine.execSysTokclr x w s
  | .sysBlkst x w => Sys2Proof.Machine.execSysBlkst x w s
  | .sysRegrd x w => Sys2Proof.Machine.execSysRegrd x w s
  | .sysRegwr x w => Sys2Proof.Machine.execSysRegwr x w s
  | .sysHalt x w => Sys2Proof.Machine.execSysHalt x w s
  | .pgSetup who v => Sys2Proof.Machine.execPgSetup who v s
  | .pgRelease who v => Sys2Proof.Machine.execPgRelease who v s
  | .pgWaitEnd => Sys2Proof.Machine.execPgWaitEnd s
  | .segmentStoreCoded f seg => Sys2Proof.Machine.execSegmentStoreCoded f seg s
  | .fmcCzEnable who v => Sys2Proof.Machine.execFmcCzEnable who v s
  | .fmcXtsEnable who v => Sys2Proof.Machine.execFmcXtsEnable who v s
  | .linkEnable who => Sys2Proof.Machine.execLinkEnable who s
  | .linkTrained l peer => Sys2Proof.Machine.execLinkTrained l peer s
  | .linkUp l keysMatch => Sys2Proof.Machine.execLinkUp l keysMatch s
  | .linkDisable who => Sys2Proof.Machine.execLinkDisable who s
  | .idleFrame l => Sys2Proof.Machine.execIdleFrame l s
  | .flitReceive l flit => Sys2Proof.Machine.execFlitReceive l flit s
  | .flitNakReceive l ackseq => Sys2Proof.Machine.execFlitNakReceive l ackseq s
  | .ackTimer l => Sys2Proof.Machine.execAckTimer l s
  | .keyGenerationSwitch l => Sys2Proof.Machine.execKeyGenerationSwitch l s
  | .lossFlit l dev => Sys2Proof.Machine.execLossFlit l dev s
  | .linkLockLoss l => Sys2Proof.Machine.execLinkLockLoss l s
  | .lnkRetrain who => Sys2Proof.Machine.execLnkRetrain who s
  | .linkRetrainDone l => Sys2Proof.Machine.execLinkRetrainDone l s
  | .retrainTimeout l => Sys2Proof.Machine.execRetrainTimeout l s
  | .lnkUnfence who => Sys2Proof.Machine.execLnkUnfence who s
  | .linkLoss l => Sys2Proof.Machine.execLinkLoss l s
  | .linkWr l => Sys2Proof.Machine.execLinkWr l s
  | .linkRdreq l => Sys2Proof.Machine.execLinkRdreq l s
  | .linkCdata l => Sys2Proof.Machine.execLinkCdata l s
  | .linkWcmp l => Sys2Proof.Machine.execLinkWcmp l s
  | .linkRdata l => Sys2Proof.Machine.execLinkRdata l s
  | .linkNak l => Sys2Proof.Machine.execLinkNak l s
  | .linkReady l => Sys2Proof.Machine.execLinkReady l s
  | .linkCabort l => Sys2Proof.Machine.execLinkCabort l s
  | .transactionForward l => Sys2Proof.Machine.execTransactionForward l s
  | .transactionTimeout l tag => Sys2Proof.Machine.execTransactionTimeout l tag s
  | .tagRelease l tag => Sys2Proof.Machine.execTagRelease l tag s
  | .collectiveStart r grp => Sys2Proof.Machine.execCollectiveStart r grp s
  | .epochAdvance r => Sys2Proof.Machine.execEpochAdvance r s
  | .collectiveComplete r grp => Sys2Proof.Machine.execCollectiveComplete r grp s
  | .collectiveTimeout r grp => Sys2Proof.Machine.execCollectiveTimeout r grp s
  | .sampleRequest n => Sys2Proof.Machine.execSampleRequest n s
  | .sampleDispatch hdr => Sys2Proof.Machine.execSampleDispatch hdr s
  | .laneRatePeriod => Sys2Proof.Machine.execLaneRatePeriod s
  | .sampleDecodeComplete e cycles => Sys2Proof.Machine.execSampleDecodeComplete e cycles s
  | .slowLaneAbandon e => Sys2Proof.Machine.execSlowLaneAbandon e s
  | .decodeSizeLimit e => Sys2Proof.Machine.execDecodeSizeLimit e s
  | .laneReturn lane => Sys2Proof.Machine.execLaneReturn lane s
  | .samplePack slot => Sys2Proof.Machine.execSamplePack slot s
  | .microbatchFlush st => Sys2Proof.Machine.execMicrobatchFlush st s
  | .replayRecord => Sys2Proof.Machine.execReplayRecord s
  | .streamLoad who v => Sys2Proof.Machine.execStreamLoad who v s
  | .streamUnload who v => Sys2Proof.Machine.execStreamUnload who v s
  | .hostPostedWrite p addr data ep => Sys2Proof.Machine.execHostPostedWrite p addr data ep s
  | .hostRead p addr len => Sys2Proof.Machine.execHostRead p addr len s
  | .hostAtomicop p bar0 op size addr operand compare => Sys2Proof.Machine.execHostAtomicop p bar0 op size addr operand compare s
  | .hostRegisterAccess p off size wr ep => Sys2Proof.Machine.execHostRegisterAccess p off size wr ep s
  | .configRequest p req => Sys2Proof.Machine.execConfigRequest p req s
  | .hrdCompletion p id outcome => Sys2Proof.Machine.execHrdCompletion p id outcome s
  | .hrdCompletionTimeout p id => Sys2Proof.Machine.execHrdCompletionTimeout p id s
  | .journalFlushRead p => Sys2Proof.Machine.execJournalFlushRead p s
  | .flushReadCompletion p cls => Sys2Proof.Machine.execFlushReadCompletion p cls s
  | .flushReadTimeout p cls => Sys2Proof.Machine.execFlushReadTimeout p cls s
  | .perstAssert p => Sys2Proof.Machine.execPerstAssert p s
  | .perstDeassert p => Sys2Proof.Machine.execPerstDeassert p s
  | .functionLevelReset p => Sys2Proof.Machine.execFunctionLevelReset p s
  | .hptAdv who => Sys2Proof.Machine.execHptAdv who s
  | .hostLinkDown p => Sys2Proof.Machine.execHostLinkDown p s
  | .hostLinkDownAdvance p => Sys2Proof.Machine.execHostLinkDownAdvance p s
  | .hptGateOpen who v => Sys2Proof.Machine.execHptGateOpen who v s
  | .obdataWrite who v => Sys2Proof.Machine.execObdataWrite who v s
  | .msigen who v => Sys2Proof.Machine.execMsigen who v s
  | .handlerTake q => Sys2Proof.Machine.execHandlerTake q s
  | .handlerTimeout q => Sys2Proof.Machine.execHandlerTimeout q s
  | .rslPopResolved who q => Sys2Proof.Machine.execRslPopResolved who q s
  | .rslPopEscalate who q => Sys2Proof.Machine.execRslPopEscalate who q s
  | .rslPopFault who q => Sys2Proof.Machine.execRslPopFault who q s
  | .rslFence who => Sys2Proof.Machine.execRslFence who s
  | .rslReport who v => Sys2Proof.Machine.execRslReport who v s
  | .beatSend => Sys2Proof.Machine.execBeatSend s
  | .fifeBeat l => Sys2Proof.Machine.execFifeBeat l s
  | .fifeProbe l => Sys2Proof.Machine.execFifeProbe l s
  | .partnerSuspect n => Sys2Proof.Machine.execPartnerSuspect n s
  | .partnerLossConfirm n => Sys2Proof.Machine.execPartnerLossConfirm n s
  | .fifePartnerArm who n v => Sys2Proof.Machine.execFifePartnerArm who n v s
  | .adopt who v => Sys2Proof.Machine.execAdopt who v s
  | .adoptDone who => Sys2Proof.Machine.execAdoptDone who s
  | .standbyPowerUp rep => Sys2Proof.Machine.execStandbyPowerUp rep s
  | .bootSlotChoice a b => Sys2Proof.Machine.execBootSlotChoice a b s
  | .bootPersonality sigs => Sys2Proof.Machine.execBootPersonality sigs s
  | .bootPowerOn => Sys2Proof.Machine.execBootPowerOn s
  | .bootInitStacks dimms => Sys2Proof.Machine.execBootInitStacks dimms s
  | .bootSeqFirmware sigs => Sys2Proof.Machine.execBootSeqFirmware sigs s
  | .bootHostFirmware sigs => Sys2Proof.Machine.execBootHostFirmware sigs s
  | .bootRunning => Sys2Proof.Machine.execBootRunning s
  | .sealTimeout => Sys2Proof.Machine.execSealTimeout s
  | .getInfo src => Sys2Proof.Machine.execGetInfo src s
  | .getTelemetry src => Sys2Proof.Machine.execGetTelemetry src s
  | .getRetired src => Sys2Proof.Machine.execGetRetired src s
  | .setPowerCap src => Sys2Proof.Machine.execSetPowerCap src s
  | .setHclk src => Sys2Proof.Machine.execSetHclk src s
  | .linkSecret src => Sys2Proof.Machine.execLinkSecret src s
  | .linkRekey src => Sys2Proof.Machine.execLinkRekey src s
  | .flashErase src flashOk => Sys2Proof.Machine.execFlashErase src flashOk s
  | .flashWrite src flashOk => Sys2Proof.Machine.execFlashWrite src flashOk s
  | .setPending src sigs => Sys2Proof.Machine.execSetPending src sigs s
  | .commit src => Sys2Proof.Machine.execCommit src s
  | .advanceSvn src => Sys2Proof.Machine.execAdvanceSvn src s
  | .seal src => Sys2Proof.Machine.execSeal src s
  | .resetDevice src => Sys2Proof.Machine.execResetDevice src s
  | .resetKettle src => Sys2Proof.Machine.execResetKettle src s
  | .spdmGetVersion t => Sys2Proof.Machine.execSpdmGetVersion t s
  | .spdmGetCapabilities t => Sys2Proof.Machine.execSpdmGetCapabilities t s
  | .spdmNegotiateAlgorithms t => Sys2Proof.Machine.execSpdmNegotiateAlgorithms t s
  | .spdmGetDigests t => Sys2Proof.Machine.execSpdmGetDigests t s
  | .spdmGetCertificate t slot offset length => Sys2Proof.Machine.execSpdmGetCertificate t slot offset length s
  | .spdmChallenge t nonce => Sys2Proof.Machine.execSpdmChallenge t nonce s
  | .spdmGetMeasurements t index nonce => Sys2Proof.Machine.execSpdmGetMeasurements t index nonce s
  | .spdmKeyExchange t nonce => Sys2Proof.Machine.execSpdmKeyExchange t nonce s
  | .spdmFinish t macOk => Sys2Proof.Machine.execSpdmFinish t macOk s
  | .spdmEndSession t => Sys2Proof.Machine.execSpdmEndSession t s
  | .spdmMlDsaSignature t => Sys2Proof.Machine.execSpdmMlDsaSignature t s
  | .spdmMlDsaChain t part => Sys2Proof.Machine.execSpdmMlDsaChain t part s
  | .powerTick meas => Sys2Proof.Machine.execPowerTick meas s
  | .fastLimit power => Sys2Proof.Machine.execFastLimit power s
  | .thermalTrip tmax => Sys2Proof.Machine.execThermalTrip tmax s
  | .sidebandLevelChange n level => Sys2Proof.Machine.execSidebandLevelChange n level s
  | .chatterHoldEnd n => Sys2Proof.Machine.execChatterHoldEnd n s
  | .sidebandStuck n => Sys2Proof.Machine.execSidebandStuck n s
  | .telemetryTick meas => Sys2Proof.Machine.execTelemetryTick meas s
  | .pwrOkLoss => Sys2Proof.Machine.execPwrOkLoss s
  | .pwrOkRestore => Sys2Proof.Machine.execPwrOkRestore s
  | .vin48Fault => Sys2Proof.Machine.execVin48Fault s
  | .standbyLoss => Sys2Proof.Machine.execStandbyLoss s
  | .aonClockLoss => Sys2Proof.Machine.execAonClockLoss s
  | .sysRefclkLoss => Sys2Proof.Machine.execSysRefclkLoss s
  | .linkRefclkLoss => Sys2Proof.Machine.execLinkRefclkLoss s
  | .pcieRefclkLoss => Sys2Proof.Machine.execPcieRefclkLoss s
  | .hostLinkUp p speed lanes => Sys2Proof.Machine.execHostLinkUp p speed lanes s
  | .farChannelFailure f => Sys2Proof.Machine.execFarChannelFailure f s
  | .serverCoreError q => Sys2Proof.Machine.execServerCoreError q s
  | .fabricError => Sys2Proof.Machine.execFabricError s
  | .sysRefclkReturn => Sys2Proof.Machine.execSysRefclkReturn s
  | .vin48Restore => Sys2Proof.Machine.execVin48Restore s

end Sys2Proof.Machine
end

