-- ==== Sys2Proof/Safety.lean ====
section
/-! DEFINITION. What counts as a safe answer of the machine, and the frames that statements are written with. -/

namespace Sys2Proof.Machine

/-- A step is safe when it answers a next state. -/
def Safe (o : Host.Outcome State Fault Refusal) : Prop := ∃ s, o = .next s

/-- Every register field outside a list of keys stands as it was. -/
def RegsBut (s t : State) (ks : List Nat) : Prop := ∀ k, k ∉ ks → Tbl.find? t.regs k = Tbl.find? s.regs k

/-- Nothing but some register fields differs between two states. -/
def OnlyRegs (s t : State) (ks : List Nat) : Prop := RegsBut s t ks ∧ t = { s with regs := t.regs }

/-- The register fields an access to memory may change beside what it is for: the power states of the blocks it wakes (R29) and the
decode errors it meets (R51). -/
def accessRegs : List Nat :=
  (List.range 96).map (fun b => Fld.BLK_PWR_STATE.key b 0) ++ [Fld.FAB_DECERR_VALID.key 0 0, Fld.FAB_DECERR_WRITE.key 0 0,
    Fld.FAB_DECERR_REQ.key 0 0, Fld.FAB_DECERR_COUNT.key 0 0, Fld.FAB_DECERR_ADDR.key 0 0]

/-- The first of two states with the traffic of the second: what waits and is charged at the budgets, and which FCLKs are stopped
(R25, R35 to R37). -/
def State.trafficOf (s t : State) : State :=
  { s with budgets := t.budgets, clk := { s.clk with fclkStopped := t.clk.fclkStopped } }

/-- Every register of an executor but one reads as before. -/
def SregsBut (s t : State) (x : Executor) (rd : Nat) : Prop := ∀ i, i ≠ rd → t.sreg x i = s.sreg x i

/-- Every byte of memory outside n bytes from an address reads as before. -/
def BytesBut (s t : State) (a n : Nat) : Prop := ∀ p, p < a ∨ a + n ≤ p → t.mem.byte p = s.mem.byte p

/-- A level's error queue holds nothing and its handler is free. -/
def QuietAt (s : State) (q : LevelInst) : Prop := (s.errq q).recs = [] ∧ (s.errq q).cur = [] ∧ (s.errq q).await = []

/-- An instruction word is at the head of an executor's dispatch and free to go: it is the word at the program counter, its
predicate field is legal and lets it execute, and the token it waits for, if any, is there (R206, R208, R215). -/
def Going (s : State) (x : Executor) (w : W128) : Prop :=
  s.atHead x = true ∧ s.fetch x = some w ∧ wf w 110 4 ≠ 8 ∧ (s.exe x).predOk (wf w 110 4) = true ∧
  (wf w 104 6 = 0 ∨ (s.exe x).token (wf w 104 6) ≠ 0)

/-- The completion ring takes the record an instruction asks for, if it asks for one (R231). -/
def RingTakes (s : State) (x : Executor) (w : W128) : Prop :=
  wf w 97 1 = 0 ∨ s.ringAccepts (.completion x.region) = true

/-- No HALT and no promotion stop waits for the next instruction boundary of an executor (R254, R354). -/
def NoStopDue (s : State) (x : Executor) : Prop :=
  ∀ r, x = .seq r → (s.work r).halts = [] ∧ (s.work r).stopDue = false

/-- Between two states nothing differs but an executor's own state, for a sequencer SEQ_PC and SEQ_STAT.STATE, and what fetching its
word costs: traffic and clocks, and where a sequencer's line was not in its instruction cache the far controllers' buffers and the
power state of a block that was woken to give the line (R25, R29, R36, R202). -/
def ExecOnly (s t : State) (x : Executor) : Prop :=
  (∀ y : Executor, y ≠ x → t.exe y = s.exe y) ∧
  match x with
  | .cell _ => t = { s.trafficOf t with execs := t.execs }
  | .seq r =>
    t = { s with
      execs := t.execs, regs := t.regs, budgets := t.budgets, far := t.far, blks := t.blks
      clk := { s.clk with fclkStopped := t.clk.fclkStopped, hclkStopped := t.clk.hclkStopped } } ∧
    (∀ k, k ∉ [Fld.SEQ_PC_PC.key r 0, Fld.SEQ_STAT_STATE.key r 0] → (∀ b : Block, k ≠ Fld.BLK_PWR_STATE.key b 0) →
      Tbl.find? t.regs k = Tbl.find? s.regs k)

/-- No instruction in flight reads bytes, adds to them and writes them back (R177, R276). -/
def NoUpdates (s : State) : Prop := ∀ p ∈ s.execs, ∀ f ∈ p.2.flights, f.resid = []

/-- The state an instruction starts from: its token consumed, the executor shown running (R215). -/
def State.begun (s : State) (x : Executor) (w : W128) : State := (s.takeToken x (wf w 104 6)).shows x 1

/-- A descriptor an instruction names is legal (R208): its index is in the table, it is VALID and breaks no rule. -/
def DescOk (s : State) (x : Executor) (i : Nat) : Prop :=
  i ≤ 255 ∧ (s.descr x i).valid = true ∧ (s.descr x i).broken = false ∧ (s.descr x i).badTile = false

/-- No ring is enabled, so that every record waits in its overflow buffer and no ring is written (R256). -/
def RingsOff (s : State) : Prop := ∀ id, s.ringOn id = false

/-- Memory is as the cells alone use it: no far slot is coded, no expander is to abandon a block, and nothing in flight adds to memory
(R177, R182, R424). -/
def PlainMemory (s : State) : Prop := s.mem.coded = [] ∧ s.repair.abandon = [] ∧ s.repair.reading = [] ∧ NoUpdates s

/-- An engine instruction of a cell is free to run whole: it is free to go, nothing else of the cell is in flight, what it names
is in reach and no line of it is in use (R210, R260). -/
def EngineGoing (s : State) (c : Cell) (w : W128) (bsu : Bool) (ds : List Desc) : Prop :=
  Going s (.cell c) w ∧ (s.exe (.cell c)).flights = [] ∧
  ∀ d ∈ ds, d.inReach c bsu = true ∧ ∀ p ∈ d.spans, s.rangeFree p.1 p.2 = true

/-- An instruction has joined a queue of its executor alone, with a COUNT; the program counter names the next instruction, and
registers and predicates stand. -/
def Joined (s t : State) (x : Executor) (w : W128) (q : QueueId) (count : Nat) : Prop :=
  (∃ g, (t.exe x).flights = [g] ∧ g.q = q ∧ g.cls = fCls w ∧ g.op = fOp w ∧ g.count = count ∧ g.tokOut = wf w 98 6) ∧
  t.pcOf x = (if x.isCell then s.pcOf x + 1 else (s.pcOf x + 1) % 2 ^ 44) ∧
  (∀ i, (t.exe x).reg i = (s.exe x).reg i) ∧ (t.exe x).pred = (s.exe x).pred

/-- Every byte of memory outside what some tensors occupy reads as before. -/
def TensorsBut (s t : State) (ds : List Desc) : Prop :=
  ∀ p, (∀ d ∈ ds, ∀ r ∈ d.spans, ∀ i, i < r.2 → canonical (r.1 + i) ≠ p) → t.mem.byte p = s.mem.byte p

/-- A tensor move is free to run whole: it is free to go, nothing else of its executor is in flight, no line of its tensors is in
use and no store they lie in being retired or asleep (R60, R87, R198, R210). -/
def MoveGoing (s : State) (x : Executor) (w : W128) (ds : List Desc) : Prop :=
  Going s x w ∧ NoStopDue s x ∧ (s.exe x).flights = [] ∧ (∀ d ∈ ds, ∀ p ∈ d.spans, s.rangeFree p.1 p.2 = true) ∧
  s.asleep (ds.flatMap (fun d => d.spans)) = []

/-- A message is the oldest in flight that a test picks, and nothing its source sent to its destination before is under way: it is the
one delivered (R15). -/
def Comes (s : State) (want : Msg → Bool) (m : Msg) : Prop :=
  s.coh.net.find? want = some m ∧ s.coh.net.find? (fun o => o.src == m.src && o.dst == m.dst) = some m

/-- A message of a type comes to a destination about a line. -/
def ComesTo (s : State) (ty : MsgTy) (dst line : Nat) (m : Msg) : Prop :=
  Comes s (fun m => decide (m.ty = ty) && m.dst == dst && m.line == line) m

/-- A message of a type comes from an agent to a home about a line. -/
def ComesFrom (s : State) (ty : MsgTy) (src dst line : Nat) (m : Msg) : Prop :=
  Comes s (fun m => decide (m.ty = ty) && m.src == src && m.dst == dst && m.line == line) m

/-- The state once a message has left flight. -/
def State.without (s : State) (m : Msg) : State := s.setCoh { s.coh with net := s.coh.net.erase m }

/-- No line that was given to an agent waits for a way of its set (R95). -/
def NoFillWaits (s : State) (a : Nat) : Prop := ∀ p ∈ s.coh.miss, p.2.agent = a → p.2.fill = none

/-- The commands of the coherence protocol: requests at a home, snoops, responses, evictions and what watches over them (03). -/
def cohCommand : Instr → Bool
  | .homeRequestArrival .. | .gets .. | .getsw .. | .getm .. | .rdnc .. => true
  | .wrnc .. | .atomnc .. | .puts .. | .pute .. | .putm .. => true
  | .snpfwds .. | .snpfwdm .. | .snpfwdrd .. | .snpinv .. | .snpack .. => true
  | .snpdata .. | .compack .. | .putack .. | .putackstale .. | .gnte .. => true
  | .datas .. | .datae .. | .datam .. | .rddata .. | .ncdone .. => true
  | .cacheEvict .. | .snoopTimeout .. | .watchLimitPoll .. | .dirPeek .. | .bsuChunkClear .. => true
  | _ => false

end Sys2Proof.Machine
end

