-- ==== Sys2Proof/WellFormed.lean ====
section
/-! DEFINITION. Which commands are well formed: the operands a type does not bound by itself. exec is total; what the spec says
of a register offset or an address that no rule assigns is in the meanings. -/

namespace Sys2Proof

/-- Whether a scratch request's address is a DPA of 48 bits (R48). -/
def ScratchReq.wf (x : ScratchReq) : Bool := decide (x.addr < 2 ^ 48)

/-- Whether a coherence request names an address of the 48-bit address space (R48, R76). -/
def ReqMsg.wf (m : ReqMsg) : Bool := decide (m.addr < 2 ^ 48)

/-- Whether a flit has four counts of 10 bits in CRED and a BODY of seven 32-byte slots (R436). -/
def Flit.wf (f : Flit) : Bool := f.cred.length == 4 && f.cred.all (fun c => decide (c < 1024)) && f.body.length == 224

/-- Whether a compressed segment is 64 KiB aligned, with a table header of 512 bytes and 16 blocks, a raw one of 4,096 bytes and a
coded one no longer (R404, R406, R419). -/
def CodedSegment.wf (g : CodedSegment) : Bool :=
  g.dpa % 65536 == 0 && decide (g.dpa < 2 ^ 48) && g.header.length == 512 && g.blocks.length == 16 &&
  g.blocks.all (fun b => if b.1 then decide (b.2.length ≤ 4096) else b.2.length == 4096)

/-- Whether a completion carries data of a TLP's size. -/
def HrdOutcome.wf : HrdOutcome → Bool
  | .data l _ => decide (0 < l.length) && decide (l.length ≤ 4096)
  | .unsupported => true
  | .abort => true

/-- Whether a configuration read lies in the 4 KiB of configuration space. -/
def ConfigReq.wf : ConfigReq → Bool
  | .read o => decide (o < 4096)
  | .busMaster _ => true
  | .sizes _ _ => true

/-- Whether a channel reports no more than its two slots hold (R620). -/
def DimmReport.wf (d : DimmReport) : Bool := decide (d.dimms.length ≤ 2)

/-- Whether a session's block has one of the lengths of R601. -/
def MbSource.wf : MbSource → Bool
  | .bank _ => true
  | .session _ b => decide (64 ≤ b.length) && decide (b.length ≤ 4096)

/-- Whether a kind and an index name a budgeted resource (R35): 12 via bundles and far channels, 24 links, 52 fabric ports, 4 PCIe
ports. -/
def resWf (kind index : Nat) : Bool := decide (index < [0, 12, 12, 24, 52, 4].getD kind 0)

/-- Whether every operand of a command lies in its range. -/
def Instr.wf : Instr → Bool
  | .blkPwrReq _ _ _ => true
  | .blockSleepCommit _ _ => true
  | .blockInboundDispatch _ => true
  | .blockGatedWake _ => true
  | .blockStateReached _ => true
  | .blockAutogate _ => true
  | .fclkIdleStop _ => true
  | .clusterClockStop _ _ => true
  | .farSelfRefreshEntry _ => true
  | .farSelfRefreshExit _ => true
  | .budgetPeriodStart kind index => resWf kind index
  | .budgetGrant kind index _ => resWf kind index
  | .budgetStarved _ _ => true
  | .bdgQuotaWrite _ _ _ => true
  | .selectRegisterWrite _ _ _ => true
  | .registerWrite _ off _ _ => decide (off < 2 ^ 26)
  | .lowHalfRead _ off => decide (off < 2 ^ 26)
  | .highHalfRead _ off => decide (off < 2 ^ 26)
  | .lowHalfWrite _ off _ => decide (off < 2 ^ 26)
  | .highHalfWrite _ off _ => decide (off < 2 ^ 26)
  | .scratchAccess x => x.wf
  | .hptAccWrite _ n _ => decide (n < 4096)
  | .homeRequestArrival _ reqs => reqs.all ReqMsg.wf
  | .gets _ _ txn => decide (txn < 512)
  | .getsw _ _ txn => decide (txn < 512)
  | .getm _ _ txn => decide (txn < 512)
  | .puts _ _ txn => decide (txn < 512)
  | .pute _ _ txn => decide (txn < 512)
  | .putm _ _ txn => decide (txn < 512)
  | .rdnc _ _ txn => decide (txn < 512)
  | .wrnc _ _ txn => decide (txn < 512)
  | .atomnc _ _ txn => decide (txn < 512)
  | .snpfwds _ line => decide (line < 2 ^ 42)
  | .snpfwdm _ line => decide (line < 2 ^ 42)
  | .snpfwdrd _ line => decide (line < 2 ^ 42)
  | .snpinv _ line => decide (line < 2 ^ 42)
  | .snpack _ _ line => decide (line < 2 ^ 42)
  | .snpdata _ _ line => decide (line < 2 ^ 42)
  | .compack _ _ line => decide (line < 2 ^ 42)
  | .putack _ line => decide (line < 2 ^ 42)
  | .putackstale _ line => decide (line < 2 ^ 42)
  | .gnte _ line => decide (line < 2 ^ 42)
  | .datas _ line => decide (line < 2 ^ 42)
  | .datae _ line => decide (line < 2 ^ 42)
  | .datam _ line => decide (line < 2 ^ 42)
  | .rddata _ txn => decide (txn < 512)
  | .ncdone _ txn => decide (txn < 512)
  | .cacheEvict _ line => decide (line < 2 ^ 42)
  | .snoopTimeout _ _ line => decide (line < 2 ^ 42)
  | .watchLimitPoll _ line => decide (line < 2 ^ 42)
  | .dirPeek _ _ => true
  | .cellCheckFailure _ _ addr _ => decide (addr < 2 ^ 48)
  | .cellParityError _ => true
  | .ceLimitReached e => decide (e.errs < 2 ^ 32)
  | .blkRetire _ _ => true
  | .spareSelfTestComplete _ _ => true
  | .slotAdoption _ => true
  | .celRelease _ => true
  | .celSelftest _ _ => true
  | .celClrEcc _ => true
  | .nearScrub _ fixed bad => fixed.all (fun w => decide (w < 12 * 2 ^ 34)) && bad.all (fun w => decide (w < 12 * 2 ^ 34))
  | .rowSpare _ _ _ => true
  | .expanderAbandon _ addr => decide (addr < 2 ^ 48)
  | .bsuChunkClear _ chunk => decide (chunk < 12 * 2 ^ 24)
  | .seqFetchFault _ => true
  | .instructionComplete _ _ => true
  | .cellLaunchAccept _ => true
  | .kldDelivery _ => true
  | .launchComplete _ _ => true
  | .ringEnable _ _ _ => true
  | .ringDisable _ _ _ => true
  | .deviceRingDrain _ => true
  | .workRingConsume _ _ => true
  | .workNop _ => true
  | .workCall _ => true
  | .workStep _ => true
  | .slotOverrun _ => true
  | .seqClrtok _ => true
  | .seqHalt _ => true
  | .seqAbort _ => true
  | .seqResume _ => true
  | .ctlEnd _ _ => true
  | .ctlEndslot _ _ => true
  | .ctlBr _ _ => true
  | .ctlLoop _ _ => true
  | .ctlJr _ _ => true
  | .ctlSet _ _ => true
  | .ctlAdd _ _ => true
  | .ctlSub _ _ => true
  | .ctlMul _ _ => true
  | .ctlShl _ _ => true
  | .ctlShr _ _ => true
  | .ctlAnd _ _ => true
  | .ctlOr _ _ => true
  | .ctlXor _ _ => true
  | .ctlSra _ _ => true
  | .ctlCmp _ _ => true
  | .ctlPset _ _ => true
  | .ctlGets _ _ => true
  | .movCopy _ _ => true
  | .movPut _ _ => true
  | .movGet _ _ => true
  | .movHwr _ _ => true
  | .movHrd _ _ => true
  | .movGather _ _ => true
  | .movScatadd _ _ => true
  | .movLd _ _ => true
  | .movSt _ _ => true
  | .movAmo _ _ => true
  | .movDwr _ _ => true
  | .movDld _ _ => true
  | .movKld _ _ => true
  | .mmaMm _ _ => true
  | .vecUn _ _ => true
  | .vecBin _ _ => true
  | .vecFma _ _ => true
  | .vecCmp _ _ => true
  | .vecSel _ _ => true
  | .vecRed _ _ => true
  | .nrmStat _ _ => true
  | .nrmNorm _ _ => true
  | .nrmNormb _ _ => true
  | .nrmAttf _ _ => true
  | .nrmAttb _ _ => true
  | .nrmSmxb _ _ => true
  | .cnvCvt _ _ => true
  | .cnvMask _ _ => true
  | .cnvMapply _ _ => true
  | .rngUnif _ _ => true
  | .rngNormal _ _ => true
  | .rngBits _ _ => true
  | .rngDrop _ _ => true
  | .colRs _ _ => true
  | .colAg _ _ => true
  | .colAr _ _ => true
  | .colA2a _ _ => true
  | .colBc _ _ => true
  | .colSqn _ _ => true
  | .colGnew _ _ => true
  | .colGfree _ _ => true
  | .groupFreed grp => decide (grp < 4096)
  | .cpxComp _ _ => true
  | .cpxExpand _ _ => true
  | .updGsq _ _ => true
  | .updApply _ _ => true
  | .updOrtho _ _ => true
  | .updPrecond _ _ => true
  | .updRows _ _ => true
  | .teamBarrier _ => true
  | .staShares _ _ => true
  | .staRatio _ _ => true
  | .staSzw _ _ => true
  | .synFence _ _ => true
  | .synWait _ _ => true
  | .synSignal _ _ => true
  | .signalDelivery _ => true
  | .synWatch _ _ => true
  | .watchTimeout _ => true
  | .sysLaunch _ _ => true
  | .sysRestart _ _ => true
  | .sysTokclr _ _ => true
  | .sysBlkst _ _ => true
  | .sysRegrd _ _ => true
  | .sysRegwr _ _ => true
  | .sysHalt _ _ => true
  | .pgSetup _ _ => true
  | .pgRelease _ _ => true
  | .pgWaitEnd => true
  | .segmentStoreCoded _ seg => seg.wf
  | .fmcCzEnable _ _ => true
  | .fmcXtsEnable _ _ => true
  | .linkEnable _ => true
  | .linkTrained _ _ => true
  | .linkUp _ _ => true
  | .linkDisable _ => true
  | .idleFrame _ => true
  | .flitReceive _ flit => flit.wf
  | .flitNakReceive _ ackseq => decide (ackseq < 2 ^ 24)
  | .ackTimer _ => true
  | .keyGenerationSwitch _ => true
  | .lossFlit _ dev => decide (dev < 16384)
  | .linkLockLoss _ => true
  | .lnkRetrain _ => true
  | .linkRetrainDone _ => true
  | .retrainTimeout _ => true
  | .lnkUnfence _ => true
  | .linkLoss _ => true
  | .linkWr _ => true
  | .linkRdreq _ => true
  | .linkCdata _ => true
  | .linkWcmp _ => true
  | .linkRdata _ => true
  | .linkNak _ => true
  | .linkReady _ => true
  | .linkCabort _ => true
  | .transactionForward _ => true
  | .transactionTimeout _ tag => decide (tag < 4096)
  | .tagRelease _ tag => decide (tag < 4096)
  | .collectiveStart _ grp => decide (grp < 4096)
  | .epochAdvance _ => true
  | .collectiveComplete _ grp => decide (grp < 4096)
  | .collectiveTimeout _ grp => decide (grp < 4096)
  | .sampleRequest _ => true
  | .sampleDispatch _ => true
  | .laneRatePeriod => true
  | .sampleDecodeComplete _ _ => true
  | .slowLaneAbandon _ => true
  | .decodeSizeLimit _ => true
  | .laneReturn _ => true
  | .samplePack slot => decide (slot < 256)
  | .microbatchFlush _ => true
  | .replayRecord => true
  | .streamLoad _ _ => true
  | .streamUnload _ _ => true
  | .hostPostedWrite _ addr data _ => decide (addr < 2 ^ 46) && decide (0 < data.length) && decide (data.length ≤ 512)
  | .hostRead _ addr len => decide (addr < 2 ^ 46) && decide (0 < len) && decide (len ≤ 4096)
  | .hostAtomicop _ _ _ size addr _ _ => (size == 4 || size == 8 || size == 16) && decide (addr < 2 ^ 46)
  | .hostRegisterAccess _ off size _ _ => decide (off < 2 ^ 26) && decide (0 < size) && decide (size ≤ 512)
  | .configRequest _ req => req.wf
  | .hrdCompletion _ _ outcome => outcome.wf
  | .hrdCompletionTimeout _ _ => true
  | .journalFlushRead _ => true
  | .flushReadCompletion _ _ => true
  | .flushReadTimeout _ _ => true
  | .perstAssert _ => true
  | .perstDeassert _ => true
  | .functionLevelReset _ => true
  | .hptAdv _ => true
  | .hostLinkDown _ => true
  | .hostLinkDownAdvance _ => true
  | .hptGateOpen _ _ => true
  | .obdataWrite _ _ => true
  | .msigen _ _ => true
  | .handlerTake _ => true
  | .handlerTimeout _ => true
  | .rslPopResolved _ q => decide (2 ≤ q.level)
  | .rslPopEscalate _ q => decide (2 ≤ q.level)
  | .rslPopFault _ q => decide (2 ≤ q.level)
  | .rslFence _ => true
  | .rslReport _ _ => true
  | .beatSend => true
  | .fifeBeat _ => true
  | .fifeProbe _ => true
  | .partnerSuspect _ => true
  | .partnerLossConfirm _ => true
  | .fifePartnerArm _ _ _ => true
  | .adopt _ _ => true
  | .adoptDone _ => true
  | .standbyPowerUp _ => true
  | .bootSlotChoice _ _ => true
  | .bootPersonality _ => true
  | .bootPowerOn => true
  | .bootInitStacks dimms => dimms.length == 12 && dimms.all DimmReport.wf
  | .bootSeqFirmware _ => true
  | .bootHostFirmware _ => true
  | .bootRunning => true
  | .sealTimeout => true
  | .getInfo src => src.wf
  | .getTelemetry src => src.wf
  | .getRetired src => src.wf
  | .setPowerCap src => src.wf
  | .setHclk src => src.wf
  | .linkSecret src => src.wf
  | .linkRekey src => src.wf
  | .flashErase src _ => src.wf
  | .flashWrite src _ => src.wf
  | .setPending src sigs => src.wf && sigs.length == 4
  | .commit src => src.wf
  | .advanceSvn src => src.wf
  | .seal src => src.wf
  | .resetDevice src => src.wf
  | .resetKettle src => src.wf
  | .spdmGetVersion _ => true
  | .spdmGetCapabilities _ => true
  | .spdmNegotiateAlgorithms _ => true
  | .spdmGetDigests _ => true
  | .spdmGetCertificate _ slot offset length => decide (slot < 256) && decide (offset < 65536) && decide (length < 65536)
  | .spdmChallenge _ nonce => nonce.length == 32
  | .spdmGetMeasurements _ index nonce => decide (index < 256) && nonce.length == 32
  | .spdmKeyExchange _ nonce => nonce.length == 32
  | .spdmFinish _ _ => true
  | .spdmEndSession _ => true
  | .spdmMlDsaSignature _ => true
  | .spdmMlDsaChain _ part => decide (part < 65536)
  | .powerTick meas => meas.temps.length == 14
  | .fastLimit power => decide (power < 65536)
  | .thermalTrip tmax => decide (-128 ≤ tmax) && decide (tmax ≤ 127)
  | .sidebandLevelChange _ _ => true
  | .chatterHoldEnd _ => true
  | .sidebandStuck _ => true
  | .telemetryTick meas => meas.temps.length == 14
  | .pwrOkLoss => true
  | .pwrOkRestore => true
  | .vin48Fault => true
  | .standbyLoss => true
  | .aonClockLoss => true
  | .sysRefclkLoss => true
  | .linkRefclkLoss => true
  | .pcieRefclkLoss => true
  | .hostLinkUp _ _ _ => true
  | .farChannelFailure _ => true
  | .serverCoreError _ => true
  | .fabricError => true
  | .sysRefclkReturn => true
  | .vin48Restore => true

end Sys2Proof
end

