-- ==== Sys2Proof/Certificates/Slice0/Obligations.lean ====
section
/-! DEFINITION. The statements for the provers. -/

open Sys2Proof Sys2Proof.Machine

/-- A step runs the command in front of the queue on the state with the rest of the queue (00_scope.md,
95_what_each_step_holds.md). For every command c and state s, step of s with c in front of its queue is exec c
of s with the queue's rest. The command table gives no row any bits, so no word spells a command and
withFetchWord leaves the state as it is. -/
def Obligations.StepTakesFrontCommand : Prop :=
  (∀ (c : Instr) (rest : List Instr) (s : State), s.pending = c :: rest →
    step s = exec c { s with pending := rest }) ∧
  (∀ (nbits w : Nat), decodeTableWord nbits w = none) ∧
  (∀ (s : State) (nbits w : Nat), s.withFetchWord nbits w = s)

/-- On an empty queue one cycle of AONCLK passes (the model's choice, log entry 2) (01_organisation.md, R24). With
no command waiting, step answers a next state in which AONCLK has counted one more cycle, the FCLK of each of
the twelve regions has counted 80 more unless it is stopped, and nothing else has changed. That a step with
nothing to do is one cycle of AONCLK is the model's own choice (log entry 2); the ratio 80 is that of the
frequencies in R24. -/
def Obligations.EmptyQueueTicks : Prop :=
  ∀ s : State, s.pending = [] → ∃ t : State, step s = .next t ∧
    t = { s with clk := { s.clk with aon := s.clk.aon + 1, fclk := t.clk.fclk } } ∧
    (∀ r : Region, t.fclk r.val = s.fclk r.val + if Tbl.get s.clk.fclkStopped false r.val then 0 else 80)

/-- No command ends in a fault or a refusal, in any state (opcode_table.json, 95_what_each_step_holds.md). The spec
gives every row of the command table an effect, so exec answers a next state for every command in every state,
and so does step. -/
def Obligations.MachineNeverStops : Prop :=
  (∀ (c : Instr) (s : State), Safe (exec c s)) ∧ (∀ s : State, Safe (step s))

/-- After reset every scalar register, predicate bit, token counter and descriptor entry reads 0; S0 ignores writes
(R203). In State.reset every scalar register of every executor reads 0, as do its predicate bits, token counters
and descriptor table entries. In every state S0 reads 0 and a write of S0 changes nothing of the executor. -/
def Obligations.ResetLeavesExecutorsZero : Prop :=
  (∀ (x : Executor) (i : Nat), State.reset.sreg x i = 0) ∧
  (∀ (x : Executor) (i : Nat), (State.reset.exe x).predBit i = false) ∧
  (∀ (x : Executor) (t : Nat), (State.reset.exe x).token t = 0) ∧
  (∀ (x : Executor) (i : Nat), (State.reset.exe x).descLine i = 0) ∧
  (∀ (s : State) (x : Executor), s.sreg x 0 = 0) ∧
  (∀ (s : State) (x : Executor) (v : Nat), (s.setSreg x 0 v).exe x = s.exe x)

/-- State.reset holds every register field at the reset value of its register map, and empty memory and queues (R9,
R44, R65). In State.reset each register field of each instance reads the reset value its register map gives
(fields shown as "see text" read 0, log entry 6), so every select register reads 0 and budgets are off. Memory
lists nothing and is in canonical form; no command waits, no message is in flight, no error is queued and no
link holds anything. -/
def Obligations.ResetLeavesRegistersAtTheirResetValues : Prop :=
  (∀ (f : Fld) (i j : Nat), State.reset.fld f i j = f.rst) ∧
  (∀ who : Bank, State.reset.fld .REG_SEL_INDEX who.code = 0 ∧ State.reset.fld .BLK_SEL_INDEX who.code = 0 ∧
    State.reset.fld .CEL_SEL_INDEX who.code = 0 ∧ State.reset.fld .CEL_SEL_PHYS who.code = 0 ∧
    State.reset.fld .LNK_SEL_INDEX who.code = 0 ∧ State.reset.fld .FMC_SEL_INDEX who.code = 0 ∧
    State.reset.fld .HPT_SEL_INDEX who.code = 0 ∧ State.reset.fld .BDG_SEL_KIND who.code = 0 ∧
    State.reset.fld .BDG_SEL_INDEX who.code = 0) ∧
  (∀ b : BudgetRes, State.reset.budgetOn b = false) ∧
  State.reset.mem.wf = true ∧ (∀ a : Nat, State.reset.mem.byte a = unlistedByte) ∧
  State.reset.pending = [] ∧ State.reset.coh.net = [] ∧ (∀ q : LevelInst, (State.reset.errq q).recs = []) ∧
  (∀ l : Nat, State.reset.link l = {})

/-- Decoding an encoded Twiex instruction gives the instruction back, with every operand at every value (R205, R257,
R268). For every well-formed Twiex instruction (its layout is the one the opcode map gives its class and
opcode), with every header field and every operand at any value the encoding admits, the decoder reads from the
encoder's word exactly that instruction. -/
def Obligations.TwiexWordsRoundTrip : Prop :=
  ∀ i : TwWord, i.wf = true → decodeWord (encodeWord i) = some i

/-- A Twiex word that decodes is encoded again to the same word, and only assigned opcodes decode (R205, R257,
R268). Whenever the decoder reads an instruction from a word, the instruction is well formed and the encoder
makes the same word of it; a word whose class and opcode the opcode map does not assign decodes to nothing. -/
def Obligations.TwiexDecodingLosesNoBit : Prop :=
  (∀ (w : W128) (i : TwWord), decodeWord w = some i → i.wf = true ∧ encodeWord i = w) ∧
  (∀ w : W128, opRow (w.extractLsb' 114 4).toNat (w.extractLsb' 118 10).toNat = none → decodeWord w = none)

/-- Block power requests, the commit to NAP or OFF, the self-wake, the arrival in a state and automatic gating (R28,
R29, R31, R32, R33, R34, R201). BLK_PWR_REQ from the region's sequencer or the Kettle writes BLK_PWR.REQ, leaves
every other register and block alone, and makes the block wait for the conditions of NAP or OFF or move at once
to RUN or GATED when it is in another state; from any other requester it is discarded. BLOCK_SLEEP_COMMIT with
nothing in flight, an empty inbound queue and a cleanable cache cleans the cache and goes on to the commit
point, or stops before it. At the commit point the block moves to the state asked; if something was dispatched,
queued or cached meanwhile it abandons the request, stays in its state and sets ABANDONED. BLOCK_GATED_WAKE puts
a waking GATED block into RUN. BLOCK_STATE_REACHED shows the state reached, wipes the stores and cells when OFF
is left for RUN or entered, leaves every cell to be loaded again after OFF, and clears WAKE_REQ in RUN (no far
slot being coded where a stream load waits for a block). BLOCK_AUTOGATE gates an idle block in RUN whose
AUTOGATE is 1 and changes nothing else. What a command of another requester's held register half leaves is the
state otherAccess gives (R67). That a request takes the place of one pending is the model's choice (log entry
83). -/
def Obligations.BlockPowerRequestsAndWakes : Prop :=
  (∀ (who : Bank) (b : Block) (req : BlkState) (s : State), mayControl who b.region = false →
    exec (.blkPwrReq who b req) s = .next (s.otherAccess who)) ∧
  (∀ (who : Bank) (b : Block) (req : BlkState) (s : State), mayControl who b.region = true →
    ∃ t : State, exec (.blkPwrReq who b req) s = .next t ∧ t.fld .BLK_PWR_REQ b = req.code ∧
      RegsBut (s.otherAccess who) t [Fld.BLK_PWR_REQ.key b 0] ∧
      t = { (s.otherAccess who).trafficOf t with regs := t.regs, blks := t.blks } ∧ t.budgets = s.budgets ∧
      (∀ c : Nat, c ≠ b.val → t.blk c = s.blk c) ∧
      (let here := s.fld .BLK_PWR_STATE b = req.code ∧ (s.blk b).moving = none
       (here → t.blk b = { s.blk b with pend := none, cleaned := false }) ∧
       (¬ here → (req = .nap ∨ req = .off) → t.blk b = { s.blk b with pend := some req.code, cleaned := false }) ∧
       (¬ here → (req = .run ∨ req = .gated) →
         t.blk b = { s.blk b with pend := none, cleaned := false, moving := some req.code }))) ∧
  (∀ (b : Block) (s : State) (p : Nat), (s.blk b).pend = some p →
    ((s.blk b).cleaned = false → s.blkBusy b = false → (s.blk b).inq = [] → s.cleanable b = true →
      exec (.blockSleepCommit b false) s = .next ((s.cleanCache b).commitSleep b p) ∧
      exec (.blockSleepCommit b true) s = .next ((s.cleanCache b).setBlk b { (s.cleanCache b).blk b with cleaned := true })) ∧
    ((s.blk b).cleaned = true → ∀ pause : Bool, exec (.blockSleepCommit b pause) s = .next (s.commitSleep b p)) ∧
    (let still := (s.blk b).inq = [] ∧ s.blkBusy b = false ∧ s.linesOf b.val = [] ∧ s.missCount b.val = 0
     let k := { s.blk b with pend := none, cleaned := false }
     (still → s.commitSleep b p = s.setBlk b { k with moving := some p }) ∧
     (¬ still → (s.commitSleep b p).blk b = k ∧ (s.commitSleep b p).fld .BLK_PWR_ABANDONED b = 1 ∧
       RegsBut s (s.commitSleep b p) [Fld.BLK_PWR_ABANDONED.key b 0] ∧
       s.commitSleep b p = { s with regs := (s.commitSleep b p).regs, blks := (s.commitSleep b p).blks, jobs := (s.commitSleep b p).jobs }))) ∧
  (∀ (b : Block) (s : State), (s.blk b).waking = true → s.blkState b = .gated →
    ∃ t : State, exec (.blockGatedWake b) s = .next t ∧ t.blkState b = .run ∧ (t.blk b).waking = false ∧
      RegsBut s t [Fld.BLK_PWR_STATE.key b 0] ∧ t = { s.trafficOf t with regs := t.regs, blks := t.blks } ∧
      t.budgets = s.budgets ∧ Tbl.get t.clk.fclkStopped false b.region.val = false) ∧
  (∀ (b : Block) (s : State) (p : BlkState), (s.blk b).moving = some p.code → s.mem.coded = [] ∨ s.pipe.strWait = none →
    (let off := BlkState.ofCode (s.fld .BLK_PWR_STATE b) = .off
     ∃ t : State, exec (.blockStateReached b) s = .next t ∧ t.blkState b = p ∧ t.fld .BLK_PWR_STATE b = p.code ∧
      (t.blk b).moving = none ∧ (t.blk b).waking = false ∧
      ((off ∧ p = .run) ∨ p = .off → ∀ c ∈ Block.cells b, t.exe (.cell c) = {}) ∧
      (off → p = .run → (t.blk b).unloaded = List.range 16 ∧
        ∀ (a : Nat) (sl : Option Nat), scratchHome a = some (b.val, sl) → t.mem.byte a = 0) ∧
      (p = .run → t.fld .BLK_PWR_WAKE_REQ b = 0) ∧
      (¬ off → p ≠ .off → t.mem = s.mem ∧ t.execs = s.execs))) ∧
  (∀ (b : Block) (s : State), s.blkState b = .run → s.flag .BLK_PWR_AUTOGATE b = true → (s.blk b).inq = [] →
    s.blkBusy b = false → (∀ c ∈ Block.cells b, (s.exe (.cell c)).running = false) → (s.blk b).moving = none →
    ∃ t : State, exec (.blockAutogate b) s = .next t ∧ t.blkState b = .gated ∧ OnlyRegs s t [Fld.BLK_PWR_STATE.key b 0])

/-- Accesses to the stores and the inbound queue: performed in RUN, held and woken for otherwise (R29, R30, R57,
R58, R59, R60, R51). A scratch access to a store of block b in RUN whose slot is not being retired is performed
at once: a write is stored by its mask (where no instruction in flight of another executor is adding to those
bytes), a read answers the line and changes no memory and no register. In GATED it is queued and the block
starts its own clock; in NAP or OFF it is queued and the block raises WAKE_REQ. An address outside the stores is
a decode error of the requester. BLOCK_INBOUND_DISPATCH in a block that is not in RUN with something queued
keeps the queue and wakes the block the same way; in RUN it takes a queued access out of the queue and performs
it. -/
def Obligations.DispatchAtASleepingBlockWakesIt : Prop :=
  (∀ (x : ScratchReq) (b : Block) (slot : Option Nat) (s : State), scratchHome x.addr = some (b.val, slot) →
    s.blkState b = .run → (s.blk b).slotStopped slot = false →
    exec (.scratchAccess x) s = .next (s.performScratch b slot x) ∧
    (∀ w, x.wr = some w → (∀ n, slot = some n → (s.blk b).gone.contains n = false) →
      s.updating ⟨x.req.val, none⟩ (writeRanges w (x.addr / 64)) = [] →
      (s.performScratch b slot x).mem = (s.memWrite (x.addr / 64) w).mem) ∧
    (x.wr = none → (s.performScratch b slot x).mem = s.mem ∧ (s.performScratch b slot x).regs = s.regs ∧
      ((∀ n, slot = some n → (s.blk b).gone.contains n = false) → (x, s.mem.line (x.addr / 64),
        anyPoison (s.mem.wordPoison (x.addr / 64))) ∈ ((s.performScratch b slot x).blk b).scratchDone))) ∧
  (∀ (x : ScratchReq) (b : Block) (slot : Option Nat) (s : State), scratchHome x.addr = some (b.val, slot) →
    s.blkState b ≠ .run → ∃ t : State, exec (.scratchAccess x) s = .next t ∧ (t.blk b).inq = (s.blk b).inq ++ [.scratch x] ∧
      t.mem = s.mem ∧ (s.blkState b = .gated → (t.blk b).waking = true ∧ t.regs = s.regs) ∧
      (s.blkState b = .nap ∨ s.blkState b = .off → t.fld .BLK_PWR_WAKE_REQ b = 1 ∧
        RegsBut s t [Fld.BLK_PWR_WAKE_REQ.key b 0]) ∧
      t = { s.trafficOf t with regs := t.regs, blks := t.blks } ∧ t.budgets = s.budgets) ∧
  (∀ (x : ScratchReq) (s : State), scratchHome x.addr = none →
    exec (.scratchAccess x) s = .next (s.refuse x.req x.addr x.wr.isSome)) ∧
  (∀ (b : Block) (s : State), (s.blk b).inq ≠ [] → s.blkState b ≠ .run →
    ∃ t : State, exec (.blockInboundDispatch b) s = .next t ∧ (t.blk b).inq = (s.blk b).inq ∧ t.mem = s.mem ∧
      (s.blkState b = .gated → (t.blk b).waking = true) ∧
      (s.blkState b = .nap ∨ s.blkState b = .off → t.fld .BLK_PWR_WAKE_REQ b = 1)) ∧
  (∀ (b : Block) (x : ScratchReq) (slot : Option Nat) (s : State), (s.blk b).inq = [.scratch x] → s.blkState b = .run →
    scratchHome x.addr = some (b.val, slot) → (s.blk b).slotStopped slot = false →
    exec (.blockInboundDispatch b) s =
      .next ((s.setBlk b { s.blk b with inq := [] }).performScratch b slot x))

/-- FCLK, HCLK and self-refresh: when each clock stops and runs (R24). FCLK_IDLE_STOP stops a region's FCLK when
every block of the region is in GATED, NAP or OFF, the sequencer waits on a watch or for work, and nothing is
under way there; it stops the FCLK of a host-complex die's fabric interface (12, 13) when nothing is under way
there. CLUSTER_CLOCK_STOP stops a cluster's HCLK exactly when all four cores wait. A populated far channel at
which nothing waits enters self-refresh and leaves it. Each changes that one clock and nothing else. -/
def Obligations.ClocksStopAndRun : Prop :=
  (∀ (d : Fin 14) (s : State),
    (∀ r : Region, r.val = d.val → (∀ k, k < 8 → s.fld .BLK_PWR_STATE (r.val * 8 + k) ≠ 0) ∧
      ((s.exe (.seq r)).watch.isSome = true ∨ s.fld .SEQ_STAT_STATE r = 0) ∧ s.reqsAt r = [] ∧
      (s.exe (.seq r)).flights = [] ∧ ∀ p ∈ s.coh.txns, homeOf p.1 ≠ r.val) →
    s.noAsks d.val = true → (∀ m ∈ s.coh.net, siteOf m.src ≠ d.val ∧ siteOf m.dst ≠ d.val) →
    ∃ t : State, exec (.fclkIdleStop d) s = .next t ∧ Tbl.get t.clk.fclkStopped false d.val = true ∧
      (∀ q : Nat, q ≠ d.val → Tbl.get t.clk.fclkStopped false q = Tbl.get s.clk.fclkStopped false q) ∧
      t = { s with clk := { s.clk with fclkStopped := t.clk.fclkStopped } }) ∧
  (∀ (q : Cluster) (w : BitVec 4) (s : State), ∃ t : State, exec (.clusterClockStop q w) s = .next t ∧
    (Tbl.get t.clk.hclkStopped false q.val = true ↔ w = 0b1111#4) ∧
    (∀ n : Nat, n ≠ q.val → Tbl.get t.clk.hclkStopped false n = Tbl.get s.clk.hclkStopped false n) ∧
    t = { s with clk := { s.clk with hclkStopped := t.clk.hclkStopped } }) ∧
  (∀ (f : Region) (s : State), s.flag .FMC_STAT_POP f = true → (s.budget (.far f)).asks = [] →
    ∃ t : State, exec (.farSelfRefreshEntry f) s = .next t ∧
    Tbl.get t.clk.selfRefresh false f.val = true ∧ t = { s with clk := { s.clk with selfRefresh := t.clk.selfRefresh } }) ∧
  (∀ (f : Region) (s : State), ∃ t : State, exec (.farSelfRefreshExit f) s = .next t ∧
    Tbl.get t.clk.selfRefresh false f.val = false ∧ t = { s with clk := { s.clk with selfRefresh := t.clk.selfRefresh } })

/-- Budgets: the period start, a grant, a starved class and a quota write (R35, R39, R40, R41, R43, R44, R45, R46,
R47). With the resource's clock running and budgets on, BUDGET_PERIOD_START sets each balance to the quota (at
least 64 for MGMT) plus any debt and the pool to the capacity left by the quotas; with budgets off balances
stay; the periods a class has waited without a grant are counted. BUDGET_GRANT with budgets on and one request
waiting, of a class with a positive balance, charges that class one unit for each 64 bytes of its next 4 KiB and
no other class, and takes them off what waits; with budgets off it grants without charging. BUDGET_STARVED sets
the class's bit once its run of periods without a grant has reached STARVE_LIM, which is not 0, and raises the
record of R45. BDG_QUOTA_WRITE writes the quota of the selected resource, shows OVERSUB at once and leaves the
balances of the current period alone; a select value that names no resource makes it have no effect. -/
def Obligations.BudgetsRefillGrantAndReportStarvation : Prop :=
  (∀ (res : BudgetRes) (s : State), s.budgetClock res = true →
    (s.budgetOn res = true → ∃ t : State, exec (.budgetPeriodStart res.kind res.index) s = .next t ∧
      (∀ n, n < 8 → (t.budget res).balOf n =
        ((if n = 7 then max (s.quota res 7) 64 else s.quota res n : Nat) : Int) + min ((s.budget res).balOf n) 0) ∧
      (t.budget res).pool = ((s.budgetCap res - s.quotaSum res : Nat) : Int) ∧
      t = { s with regs := t.regs, budgets := t.budgets }) ∧
    (s.budgetOn res = false → ∃ t : State, exec (.budgetPeriodStart res.kind res.index) s = .next t ∧ (t.budget res).bal = (s.budget res).bal ∧
      (t.budget res).pool = (s.budget res).pool) ∧
    ∃ t : State, exec (.budgetPeriodStart res.kind res.index) s = .next t ∧ (t.budget res).granted = [] ∧ (t.budget res).asks = (s.budget res).asks ∧
      ∀ n, n < 8 → (t.budget res).starve.getD n 0 =
        if (s.budget res).waiting n = true ∧ (s.budget res).granted.contains n = false then (s.budget res).starve.getD n 0 + 1 else 0) ∧
  (∀ (res : BudgetRes) (a : Ask) (c : ActClass) (s : State), a.cls = c.val → s.budgetClock res = true → (s.budget res).bal.length = 8 →
    (s.budget res).asks = [a] →
    (let left : List Ask := if a.bytes ≤ 4096 then [] else [{ a with bytes := a.bytes - 4096 }]
     (s.budgetOn res = true → 0 < (s.budget res).balOf a.cls → ∃ t : State, exec (.budgetGrant res.kind res.index c) s = .next t ∧
       (t.budget res).balOf a.cls = (s.budget res).balOf a.cls - (min ((a.bytes + 63) / 64) 64 : Nat) ∧
       (∀ m, m < 8 → m ≠ a.cls → (t.budget res).balOf m = (s.budget res).balOf m) ∧ (t.budget res).asks = left ∧
       (t.budget res).pool = (s.budget res).pool ∧ a.cls ∈ (t.budget res).granted ∧
       t = { s with budgets := t.budgets, blks := t.blks } ∧ (a.cell = none → t.blks = s.blks)) ∧
     (s.budgetOn res = false → ∃ t : State, exec (.budgetGrant res.kind res.index c) s = .next t ∧ (t.budget res).bal = (s.budget res).bal ∧
       (t.budget res).asks = left ∧ t = { s with budgets := t.budgets, blks := t.blks }))) ∧
  (∀ (res : BudgetRes) (c : ActClass) (s : State), s.fld .BDG_CTRL_STARVE_LIM res.code ≠ 0 →
    s.fld .BDG_CTRL_STARVE_LIM res.code ≤ (s.budget res).starve.getD c.val 0 →
    (s.fld .BDG_STAT_STARVED res.code).testBit c.val = false →
    exec (.budgetStarved res c) s =
      .next ((s.setFld .BDG_STAT_STARVED res.code (s.fld .BDG_STAT_STARVED res.code + 2 ^ c.val)).raise (starvedAt res)
        (if starvedAt res = .chip then 0x30 else 0x24) 0x44 0 0 (info := res.kind + 256 * res.index + 65536 * c.val))) ∧
  (∀ (who : Bank) (c : ActClass) (v : W32) (s : State) (res : BudgetRes), (s.otherAccess who).selRes who = some res →
    ∃ t : State, exec (.bdgQuotaWrite who c v) s = .next t ∧ t.quota res c.val = v.toNat % 2 ^ Fld.BDG_QUOTA_QUOTA.width ∧
      t.budgets = s.budgets ∧
      t.fld .BDG_STAT_OVERSUB res.code = (if s.budgetCap res < t.quotaSum res then 1 else 0)) ∧
  (∀ (who : Bank) (c : ActClass) (v : W32) (s : State), (s.otherAccess who).selRes who = none →
    exec (.bdgQuotaWrite who c v) s = .next (s.otherAccess who))

/-- Select writes, whole register writes, and the access table write take effect through the writer's own bank (R62,
R63, R64, R66, R67). For a bank with no held low half: SELECT_REGISTER_WRITE puts the value into the select
register of that window in the writer's own bank, for every window and every requester, and changes no other
register and nothing but registers and banks. A 32-bit REGISTER_WRITE at an offset of a 32-bit register is one
write of that register by that bank, a 64-bit REGISTER_WRITE at an offset of a 64-bit register one whole write
of it. HPT_ACC_WRITE writes entry register n below 4096 of the configured port that the writer's HPT_SEL names,
for a requester that is no host port. -/
def Obligations.RegisterWritesReachTheirRegister : Prop :=
  (∀ (who : Bank) (win : Window) (v : W32) (s : State), (s.bank who).heldLow = none →
    ∃ t : State, exec (.selectRegisterWrite who win v) s = .next t ∧ t = { s with regs := t.regs, banks := t.banks } ∧
      (match win with
        | .region => t.fld .REG_SEL_INDEX who.code = v.toNat % 2 ^ 11 ∧ RegsBut s t [Fld.REG_SEL_INDEX.key who.code 0]
        | .block => t.fld .BLK_SEL_INDEX who.code = v.toNat % 2 ^ 11 ∧ RegsBut s t [Fld.BLK_SEL_INDEX.key who.code 0]
        | .cell => t.fld .CEL_SEL_INDEX who.code = v.toNat % 2 ^ 11 ∧ t.fld .CEL_SEL_PHYS who.code = v.toNat / 2 ^ 31 ∧
            RegsBut s t [Fld.CEL_SEL_INDEX.key who.code 0, Fld.CEL_SEL_PHYS.key who.code 0]
        | .link => t.fld .LNK_SEL_INDEX who.code = v.toNat % 2 ^ 11 ∧ RegsBut s t [Fld.LNK_SEL_INDEX.key who.code 0]
        | .farChannel => t.fld .FMC_SEL_INDEX who.code = v.toNat % 2 ^ 11 ∧ RegsBut s t [Fld.FMC_SEL_INDEX.key who.code 0]
        | .hostPort => t.fld .HPT_SEL_INDEX who.code = v.toNat % 2 ^ 11 ∧ RegsBut s t [Fld.HPT_SEL_INDEX.key who.code 0]
        | .budgets => t.fld .BDG_SEL_INDEX who.code = v.toNat % 2 ^ 8 ∧ t.fld .BDG_SEL_KIND who.code = v.toNat / 2 ^ 8 % 2 ^ 8 ∧
            RegsBut s t [Fld.BDG_SEL_INDEX.key who.code 0, Fld.BDG_SEL_KIND.key who.code 0])) ∧
  (∀ (who : Bank) (off : Nat) (a : RegAt) (v : W64) (s : State), (s.bank who).heldLow = none → off % 4 = 0 →
    regAt off = some a → a.reg.place.wide = false → a.high = false →
    exec (.registerWrite who off false v) s =
      .next ((s.setBank who { s.bank who with latched := none, heldLow := none }).regWrite who a.reg a.idx (v.toNat % 2 ^ 32))) ∧
  (∀ (who : Bank) (off : Nat) (a : RegAt) (v : W64) (s : State), (s.bank who).heldLow = none → off % 8 = 0 →
    regAt off = some a → a.reg.place.wide = true → a.high = false →
    exec (.registerWrite who off true v) s =
      .next ((s.setBank who { s.bank who with latched := none }).regWrite who a.reg a.idx v.toNat)) ∧
  (∀ (who : Bank) (n : Nat) (v : W32) (p : Port) (s : State), who.isHost = false → n < 4096 →
    (s.otherAccess who).selPort who = some p → (s.otherAccess who).portOn p = true →
    ∃ t : State, exec (.hptAccWrite who n v) s = .next t ∧ t.fld .HPT_ACC_ENT p n = v.toNat ∧
      OnlyRegs (s.otherAccess who) t [Fld.HPT_ACC_ENT.key p n])

/-- Low and high halves of a 64-bit register: the latched read and the held write (R67, R51). For a bank with no
held low half and a 64-bit register: a low-half read answers the low 32 bits and latches the high 32 in the
bank; a high-half read right after the low-half read of that register answers the latched half, and otherwise
the current one; a low-half write only holds the value in the bank; a high-half write right after that
register's low-half write writes both halves together. A high-half write without it is discarded: it counts as a
refused access and the register keeps its value. Reads and held writes change nothing but the bank. -/
def Obligations.HalfAccessesOfWideRegisters : Prop :=
  (∀ (who : Bank) (off : Nat) (a : RegAt) (s : State), (s.bank who).heldLow = none → off % 8 = 0 → regAt off = some a →
    a.reg.place.wide = true → a.high = false → ∃ t : State, exec (.lowHalfRead who off) s = .next t ∧
      t = s.setBank who { s.bank who with
        latched := some (off, BitVec.ofNat 32 (s.regRead who a.reg a.idx / 2 ^ 32))
        data := BitVec.ofNat 64 (s.regRead who a.reg a.idx % 2 ^ 32) }) ∧
  (∀ (who : Bank) (off : Nat) (a : RegAt) (h : W32) (s : State), (s.bank who).heldLow = none → off % 4 = 0 →
    regAt (off + 4) = some a → a.reg.place.wide = true → a.high = true → (s.bank who).latched = some (off, h) →
    exec (.highHalfRead who (off + 4)) s =
      .next (s.setBank who { s.bank who with latched := none, data := BitVec.ofNat 64 h.toNat })) ∧
  (∀ (who : Bank) (off : Nat) (a : RegAt) (s : State), (s.bank who).heldLow = none → off % 4 = 0 →
    regAt off = some a → a.reg.place.wide = true → a.high = true → (s.bank who).latched = none →
    exec (.highHalfRead who off) s =
      .next (s.setBank who { s.bank who with data := BitVec.ofNat 64 (s.regRead who a.reg a.idx / 2 ^ 32) })) ∧
  (∀ (who : Bank) (off : Nat) (a : RegAt) (v : W32) (s : State), (s.bank who).heldLow = none → off % 4 = 0 →
    regAt off = some a → a.reg.place.wide = true → a.high = false →
    exec (.lowHalfWrite who off v) s =
      .next (s.setBank who { s.bank who with latched := none, heldLow := some (off, v) })) ∧
  (∀ (who : Bank) (off : Nat) (a : RegAt) (l v : W32) (s : State), (s.bank who).heldLow = some (off, l) → off % 4 = 0 →
    regAt (off + 4) = some a → a.reg.place.wide = true → a.high = true →
    exec (.highHalfWrite who (off + 4) v) s =
      .next ((s.setBank who { s.bank who with latched := none, heldLow := none }).regWrite who a.reg a.idx
        (l.toNat + v.toNat * 2 ^ 32))) ∧
  (∀ (who : Bank) (off : Nat) (a : RegAt) (v : W32) (s : State), (s.bank who).heldLow = none → off % 4 = 0 →
    regAt off = some a → a.reg.place.wide = true → a.high = true → ∃ t : State, exec (.highHalfWrite who off v) s = .next t ∧
      (t.bank who).faults = (s.bank who).faults + 1 ∧
      t.regs = (s.regError who off true).regs ∧ t.hosts = (s.regError who off true).hosts ∧
      t = { s with regs := t.regs, banks := t.banks, hosts := t.hosts })

/-- A select value out of range, a host port's write and a write of a block's controls by the wrong requester have
no effect (R64, R201, R479, R563, R603). Where a bank's select value of a window is outside the window's range,
every other register of that window reads 0 for it and its writes change nothing, while the select register
reads back the value written. A write from a host port to any LNK_ register other than LNK_SEL, to any RSL_
register other than RSL_REPORT and to any KTL_ register other than KTL_MB_DB changes nothing. A write of
BLK_PWR, BLK_RETIRE, BLK_RTHR or CEL_CTRL by any requester other than the sequencer of the block's region and
the Kettle changes nothing. -/
def Obligations.WritesWithoutTheRightAreDiscarded : Prop :=
  (∀ (who : Bank) (r : Reg) (idx v : Nat) (s : State), s.selected who r.place.win = false → selectReg r = false →
    s.regRead who r idx = 0 ∧ s.regWrite who r idx v = s) ∧
  (∀ (who : Bank) (v : Nat) (s : State), v < 2 ^ 11 → (s.regWrite who .REG_SEL 0 v).regRead who .REG_SEL 0 = v ∧
    (s.regWrite who .BLK_SEL 0 v).regRead who .BLK_SEL 0 = v ∧ (s.regWrite who .CEL_SEL 0 v).regRead who .CEL_SEL 0 = v ∧
    (s.regWrite who .LNK_SEL 0 v).regRead who .LNK_SEL 0 = v ∧ (s.regWrite who .FMC_SEL 0 v).regRead who .FMC_SEL 0 = v ∧
    (s.regWrite who .HPT_SEL 0 v).regRead who .HPT_SEL 0 = v ∧ (s.regWrite who .BDG_SEL 0 v).regRead who .BDG_SEL 0 = v) ∧
  (∀ (p : Port) (r : Reg) (idx v : Nat) (s : State),
    (r.place.win = .link ∧ r ≠ .LNK_SEL) ∨ (r.place.win = .resilience ∧ r ≠ .RSL_REPORT) ∨
      (r.place.win = .kettle ∧ r ≠ .KTL_MB_DB) → s.regWrite (.host p) r idx v = s) ∧
  (∀ (who : Bank) (b : Block) (r : Reg) (idx v : Nat) (s : State), r = .BLK_PWR ∨ r = .BLK_RETIRE ∨ r = .BLK_RTHR →
    s.selBlk who = some b → who ≠ .seq b.region → who ≠ .kettle → s.regWrite who r idx v = s) ∧
  (∀ (who : Bank) (b : Block) (n idx v : Nat) (s : State), s.selPhys who = some n → n / 17 = b.val →
    who ≠ .seq b.region → who ≠ .kettle → s.regWrite who .CEL_CTRL idx v = s)

/-- A request that can occur is accepted into its home's buffer and its sender remembers it (R15, R25, R51, R85,
R86, R90, R92, R94, R102). HOME_REQUEST_ARRIVAL with one request that has a coherent line of that home, that its
agent's copy does not satisfy, whose sender may send it and has nothing else on the way there, and for which the
4,096-entry buffer has room, appends it as sent to the home's buffer, opens the sender's miss for a Get (IS for
GetS and GetSW, IM or SM for GetM), starts a stopped FCLK, and leaves memory, caches and directory alone. One
whose line its agent already holds as needed sends nothing. One without a home, or a misaligned atomic, is a
decode error. With two requests the one nearer to the rotating pointer comes first and the pointer moves past
it. -/
def Obligations.RequestsReachTheirHome : Prop :=
  (∀ (r : Region) (m : ReqMsg) (s : State), s.reqRefused m = false → homeOf (reqLine m) = r.val → s.hits m = false →
    s.reqLegal m = true → s.wayClear r m.src = true → (s.reqsAt r).length < 4096 →
    ∃ t : State, exec (.homeRequestArrival r [m]) s = .next t ∧
      t.reqsAt r = s.reqsAt r ++ [s.asSent m] ∧ t.mem = s.mem ∧ t.coh.cache = s.coh.cache ∧ t.coh.dir = s.coh.dir ∧
      t.coh.net = s.coh.net ∧ Tbl.get t.clk.fclkStopped false r.val = false ∧
      (m.ty = .getS ∨ m.ty = .getSW → (t.missOf m.src.val (reqLine m)).map (·.st) = some .is) ∧
      (m.ty = .getM → (t.missOf m.src.val (reqLine m)).map (·.st) = some (if (s.cached m.src.val (reqLine m)).isSome then .sm else .im))) ∧
  (∀ (r : Region) (m : ReqMsg) (s : State), s.reqRefused m = false → homeOf (reqLine m) = r.val → s.hits m = true →
    ∃ t : State, exec (.homeRequestArrival r [m]) s = .next t ∧ t.coh.reqs = s.coh.reqs ∧ t.coh.net = s.coh.net ∧
      t.coh.dir = s.coh.dir ∧ t.mem = s.mem) ∧
  (∀ (r : Region) (m : ReqMsg) (s : State), s.reqRefused m = true →
    exec (.homeRequestArrival r [m]) s = .next ((s.startFclk r).reqError m)) ∧
  (∀ (r : Region) (m n : ReqMsg) (s : State), m.ty = .rdNC → n.ty = .rdNC → s.reqRefused m = false → s.reqRefused n = false →
    homeOf (reqLine m) = r.val → homeOf (reqLine n) = r.val → s.reqLegal m = true → s.reqLegal n = true →
    s.wayClear r m.src = true → s.wayClear r n.src = true →
    (s.reqsAt r).length + 2 ≤ 4096 → prioDist (s.fld .DIR_PRIO_P r) m.src.val < prioDist (s.fld .DIR_PRIO_P r) n.src.val →
    ∃ t : State, exec (.homeRequestArrival r [n, m]) s = .next t ∧ t.reqsAt r = s.reqsAt r ++ [m, n] ∧
      t.fld .DIR_PRIO_P r = (m.src.val + 1) % 256)

/-- What a home does with each request for a line that no agent holds (R37, R83, R85, R87, R93, R97, R99, R102,
R104, R626). Let the request be the first of its kind that the home may act on (accepted, first for its line,
the line not Busy, a table entry free), the line uncached with a free way and not in a coded slot. GetS sends
DataE, GetSW DataS and GetM GntE with the memory copy, and open a transaction that awaits CompAck and ends with
the requester as the only holder (exclusive for GetS and GetM); until then the directory entry names no holder.
RdNC sends the memory copy, WrNC writes it by mask and answers NcDone, AtomNC performs the atomic and answers
the old value, or with poison in its target leaves memory alone and answers UNCORRECTABLE; these open nothing
(WrNC and AtomNC: where no instruction in flight of another executor is adding to the bytes they write). Each
takes the request out of the buffer; only WrNC and AtomNC change memory. -/
def Obligations.HomeServesAnUncachedLine : Prop :=
  ∀ (r : Region) (src : ReqCode) (txn : Nat) (m : ReqMsg) (s : State), s.dirOf (reqLine m) = none →
    (s.dirWays (reqLine m)).length < 16 → s.mem.codedAt (reqLine m / 64) = none →
    (let msg (ty : MsgTy) (flag : Bool) : Msg := { homeMsg r m ty m.src.val with
        flag := flag, data := s.mem.line (reqLine m), poison := anyPoison (s.mem.poison (reqLine m)) }
     let opens (t : State) (excl : Bool) : Prop :=
       (t.txnOf (reqLine m)).map (fun x => (x.req, x.needComp, x.waits, x.final.map (fun e => (e.excl, e.sharers)))) =
         some (m, true, [], some (excl, oneHot m.src.val)) ∧
       (t.dirOf (reqLine m)).map (·.sharers) = some 0 ∧ t.reqsAt r = (s.reqsAt r).erase m ∧ t.mem = s.mem ∧ t.regs = s.regs
     let calm (w : LineWrite) : Prop := s.updating ⟨m.src.val, none⟩ (writeRanges w (reqLine m)) = []
     (s.actable r .getS src txn = some m → ∃ t : State, exec (.gets r src txn) s = .next t ∧
       t.coh.net = s.coh.net ++ [msg .dataE false] ∧ opens t true) ∧
     (s.actable r .getSW src txn = some m → ∃ t : State, exec (.getsw r src txn) s = .next t ∧
       t.coh.net = s.coh.net ++ [msg .dataS false] ∧ opens t false) ∧
     (s.actable r .getM src txn = some m → ∃ t : State, exec (.getm r src txn) s = .next t ∧
       t.coh.net = s.coh.net ++ [msg .gntE true] ∧ opens t true) ∧
     (s.actable r .rdNC src txn = some m → ∃ t : State, exec (.rdnc r src txn) s = .next t ∧
       t.coh.net = s.coh.net ++ [msg .rdData false] ∧ t.reqsAt r = (s.reqsAt r).erase m ∧ t.coh.txns = s.coh.txns ∧
       t.coh.dir = s.coh.dir ∧ t.mem = s.mem ∧ t.regs = s.regs) ∧
     (∀ w : LineWrite, s.actable r .wrNC src txn = some m → m.act = .store w → calm w →
       ∃ t : State, exec (.wrnc r src txn) s = .next t ∧ t.mem = s.mem.writeLine (reqLine m) w ∧ t.coh.dir = s.coh.dir ∧
         t.coh.net = s.coh.net ++ [homeMsg r m .ncDone m.src.val] ∧ t.reqsAt r = (s.reqsAt r).erase m) ∧
     (∀ x : Atom, s.actable r .atomNC src txn = some m → m.act = .atomic x → calm (atomWrite fadd32 x (s.mem.line (reqLine m))) →
       ∃ t : State, exec (.atomnc r src txn) s = .next t ∧ t.reqsAt r = (s.reqsAt r).erase m ∧ t.coh.dir = s.coh.dir ∧
         (if atomPoison x (s.mem.poison (reqLine m)) then
            t.mem = s.mem ∧ t.coh.net = s.coh.net ++ [{ homeMsg r m .ncDone m.src.val with status := 0xC0 }]
          else t.mem = s.mem.writeLine (reqLine m) (atomWrite fadd32 x (s.mem.line (reqLine m))) ∧
            t.coh.net = s.coh.net ++ [{ homeMsg r m .ncDone m.src.val with
              flag := true, old := BitVec.ofNat 64 (atomOld x (s.mem.line (reqLine m))) }])))

/-- A Put is retired when its sender is a current holder and discarded as stale otherwise (R37, R93, R94, R97, R98,
R112). When the home acts on a PutS, PutE or PutM, whatever the directory holds of its line, it takes the
request out of its buffer and its sender out of the sharer vector, and frees the entry when no holder is left. A
PutS of a sharer of a shared entry, and a PutE or PutM of the owner, is answered PutAck, PutM after the data it
carries has been written to memory whole; any other Put is answered PutAckStale, counted, and changes no memory.
PutS and PutE never change memory. -/
def Obligations.HomeJudgesPuts : Prop :=
  ∀ (r : Region) (src : ReqCode) (txn : Nat) (m : ReqMsg) (s : State),
    (let holds (excl : Bool) : Bool := (s.dirOf (reqLine m)).any (fun e => e.excl == excl && e.sharers.getLsbD m.src.val)
     let retired (t : State) : Prop := t.reqsAt r = (s.reqsAt r).erase m ∧
       t.dirOf (reqLine m) = (s.dirOf (reqLine m)).bind (fun e =>
         if e.sharers &&& ~~~ (oneHot m.src.val) = 0 then none else some { e with sharers := e.sharers &&& ~~~ (oneHot m.src.val) })
     let answers (t : State) (ok : Bool) : Prop :=
       t.coh.net = s.coh.net ++ [homeMsg r m (if ok then .putAck else .putAckStale) m.src.val] ∧
       t.fld .DIR_STALE_CNT_COUNT r = if ok then s.fld .DIR_STALE_CNT_COUNT r
         else (s.fld .DIR_STALE_CNT_COUNT r + 1) % 2 ^ Fld.DIR_STALE_CNT_COUNT.width
     (s.actable r .putS src txn = some m → ∃ t : State, exec (.puts r src txn) s = .next t ∧ t.mem = s.mem ∧ retired t ∧
       answers t (holds false)) ∧
     (s.actable r .putE src txn = some m → ∃ t : State, exec (.pute r src txn) s = .next t ∧ t.mem = s.mem ∧ retired t ∧
       answers t (holds true)) ∧
     (∀ w : LineWrite, m.act = .store w → s.actable r .putM src txn = some m →
       ∃ t : State, exec (.putm r src txn) s = .next t ∧ retired t ∧ answers t (holds true) ∧
         t.mem = if holds true then s.mem.writeLine (reqLine m) ⟨fullMask, w.data, w.poison⟩ else s.mem))

/-- What a holder of a line does with each snoop (R15, R29, R93, R94, R107). Let the snoop come to its agent, whose
block, if it has one, is in RUN. With the line in the cache: SnpFwdS: DataS goes to the requester, a modified
copy goes home as SnpData with W, a clean one is answered SnpAck, and the copy stays in S. SnpFwdM: DataM with
DIRTY for a modified copy goes to the requester, SnpAck home, and the copy is gone. SnpFwdRd: SnpData goes home
and the copy stays as it is. SnpInv: a modified copy goes home as SnpData with W, else SnpAck, and the copy is
gone. After SnpFwdM and SnpInv an upgrade in progress is a fill, and a watched copy that goes wakes its agent.
With the line only in the writeback buffer: SnpFwdS and SnpFwdM forward the entry's data, SnpFwdRd sends it
home, and an entry snooped otherwise is clean afterwards. With neither, each is answered SnpAck. A block in
GATED keeps the snoop and starts its clock. No memory changes. -/
def Obligations.HoldersAnswerSnoops : Prop :=
  ∀ (a : Agent) (line : Nat) (m : Msg) (s : State),
    (let net := s.coh.net.erase m
     let fell (t : State) : Prop := (t.missOf a line).map (·.st) = (s.missOf a line).map (fun q => if q.st = .sm then .im else q.st)
     (∀ c : CLine, s.snoopable a = true → s.cached a line = some c →
       (let home : Msg := if c.st = .m then { answer m .snpData with flag := true, data := c.data, poison := anyPoison c.poison }
          else answer m .snpAck
        let gone (t : State) : Prop := t.cached a line = none ∧ t.mem = s.mem ∧ fell t ∧
          t.coh.wakes = s.coh.wakes ++ (if c.watched then [(a.val, line)] else [])
        (ComesTo s .snpFwdS a line m → ∃ t : State, exec (.snpfwds a line) s = .next t ∧
          t.cached a line = some { c with st := .s, agent := a, line := line } ∧ t.mem = s.mem ∧
          t.coh.net = net ++ [forward m .dataS c.data c.poison false] ++ [home]) ∧
        (ComesTo s .snpFwdM a line m → NoFillWaits s a → ∃ t : State, exec (.snpfwdm a line) s = .next t ∧ gone t ∧
          t.coh.net = net ++ [forward m .dataM c.data c.poison (decide (c.st = .m))] ++ [answer m .snpAck]) ∧
        (ComesTo s .snpFwdRd a line m → ∃ t : State, exec (.snpfwdrd a line) s = .next t ∧ t.coh.cache = s.coh.cache ∧
          t.mem = s.mem ∧ t.coh.net = net ++ [{ answer m .snpData with data := c.data, poison := anyPoison c.poison }]) ∧
        (ComesTo s .snpInv a line m → s.wbOf a line = none → NoFillWaits s a → ∃ t : State, exec (.snpinv a line) s = .next t ∧
          gone t ∧ t.coh.net = net ++ [home]))) ∧
     (∀ w : WbEntry, s.snoopable a = true → s.cached a line = none → s.wbOf a line = some w →
       (let home : Msg := if w.dirty then { answer m .snpData with flag := true, data := w.data, poison := anyPoison w.poison }
          else answer m .snpAck
        let clean (t : State) : Prop := t.wbOf a line = some { w with dirty := false } ∧ t.mem = s.mem
        (ComesTo s .snpFwdS a line m → ∃ t : State, exec (.snpfwds a line) s = .next t ∧ clean t ∧
          t.coh.net = net ++ [forward m .dataS w.data w.poison false] ++ [home]) ∧
        (ComesTo s .snpFwdM a line m → NoFillWaits s a → ∃ t : State, exec (.snpfwdm a line) s = .next t ∧ clean t ∧
          t.coh.net = net ++ [forward m .dataM w.data w.poison w.dirty] ++ [answer m .snpAck]) ∧
        (ComesTo s .snpFwdRd a line m → ∃ t : State, exec (.snpfwdrd a line) s = .next t ∧ t.coh.wb = s.coh.wb ∧ t.mem = s.mem ∧
          t.coh.net = net ++ [{ answer m .snpData with data := w.data, poison := anyPoison w.poison }]) ∧
        (ComesTo s .snpInv a line m → NoFillWaits s a → ∃ t : State, exec (.snpinv a line) s = .next t ∧ clean t ∧ fell t ∧
          t.coh.net = net ++ [home]))) ∧
     (s.snoopable a = true → s.cached a line = none → s.wbOf a line = none →
       (let acks (c : Instr) : Prop := ∃ t : State, exec c s = .next t ∧ t.coh.net = net ++ [answer m .snpAck] ∧ t.mem = s.mem ∧
          t.coh.cache = s.coh.cache
        (ComesTo s .snpFwdS a line m → acks (.snpfwds a line)) ∧ (ComesTo s .snpFwdM a line m → NoFillWaits s a → acks (.snpfwdm a line)) ∧
        (ComesTo s .snpFwdRd a line m → acks (.snpfwdrd a line)) ∧ (ComesTo s .snpInv a line m → NoFillWaits s a → acks (.snpinv a line)))) ∧
     (∀ b : Block, a.val = b.val → s.blkState b = .gated →
       (let stirs (c : Instr) : Prop := ∃ t : State, exec c s = .next t ∧ (t.blk b).waking = true ∧ t.coh = s.coh ∧ t.mem = s.mem
        (ComesTo s .snpFwdS a line m → stirs (.snpfwds a line)) ∧ (ComesTo s .snpFwdM a line m → stirs (.snpfwdm a line)) ∧
        (ComesTo s .snpFwdRd a line m → stirs (.snpfwdrd a line)) ∧ (ComesTo s .snpInv a line m → stirs (.snpinv a line)))))

/-- Snoop responses and CompAck at a home: what ends a transaction (R15, R85, R88, R97, R99, R113). Let a
transaction for a line, itself no victim's, await the snoop response of an agent whose answer is not one the
home has given up. A SnpAck that comes from it leaves flight and is taken off what is awaited; when it was the
only response awaited of a non-caching read without data kept, the transaction ends, the entry becomes the final
one and the memory copy is sent as RdData. SnpData with W for a read is written to memory whole and its data is
what RdData carries. A CompAck of the requester, no snoop response being awaited, ends a transaction that needed
it: the table entry is free and the directory entry is the final one; one that comes earlier is kept. An answer
the home has given up is discarded. None of SnpAck and CompAck changes memory. -/
def Obligations.HomesTakeResponses : Prop :=
  ∀ (r : Region) (a : Agent) (line : Nat) (m : Msg) (x : HomeTxn) (s : State), s.txnOf line = some x → x.victim = none →
    (let net := s.coh.net.erase m
     let ends (t : State) : Prop := t.txnOf line = none ∧ ∀ e : DirEntry, x.final = some e → e.sharers ≠ 0 → t.dirOf line = some e
     let onlyRead : Prop := x.waits = [a.val] ∧ x.grantAfter = false ∧ x.needComp = false ∧ x.req.ty = .rdNC ∧ reqLine x.req = line ∧
       homeOf line = r.val
     (ComesFrom s .snpAck a (homeCode r) line m → s.isLate a line = false → x.waits.contains a.val = true →
       (x.waits.filter (· ≠ a.val) ≠ [] →
         exec (.snpack r a line) s = .next ((s.without m).setTxn line { x with waits := x.waits.filter (· ≠ a.val) })) ∧
       (onlyRead → x.hasData = false → ∃ t : State, exec (.snpack r a line) s = .next t ∧ ends t ∧ t.mem = s.mem ∧
         t.coh.net = net ++ [{ homeMsg r x.req .rdData x.req.src.val with
           data := s.mem.line line, poison := anyPoison (s.mem.poison line) }])) ∧
     (ComesFrom s .snpData a (homeCode r) line m → s.isLate a line = false → m.flag = true → onlyRead →
       ∃ t : State, exec (.snpdata r a line) s = .next t ∧ ends t ∧ t.mem = s.mem.writeLine line ⟨fullMask, m.data, m.poison⟩ ∧
         t.coh.net = net ++ [{ homeMsg r x.req .rdData x.req.src.val with data := m.data, poison := m.poison }]) ∧
     (ComesFrom s .compAck a (homeCode r) line m → x.req.src.val = a.val → x.grantAfter = false → x.needComp = true →
       (x.waits = [] → ∃ t : State, exec (.compack r a line) s = .next t ∧ ends t ∧ t.mem = s.mem ∧ t.regs = s.regs ∧ t.coh.net = net) ∧
       (x.waits ≠ [] → exec (.compack r a line) s = .next ((s.without m).setTxn line { x with comp := true }))) ∧
     (s.isLate a line = true →
       (ComesFrom s .snpAck a (homeCode r) line m → exec (.snpack r a line) s = .next ((s.without m).dropLate a line)) ∧
       (ComesFrom s .snpData a (homeCode r) line m → exec (.snpdata r a line) s = .next ((s.without m).dropLate a line))))

/-- Data, grants and Put acknowledgements at an agent, and results at a non-caching requester (R15, R78, R88, R92,
R93, R94, R95, R96, R112). PutAck and PutAckStale free the agent's writeback-buffer entry (no line waiting for a
way). For an agent that has a miss open for a load of the line under the message's transaction number and a free
way: DataS installs the line in S and DataE in E, with the data of the message and poison of every word if the
message carries any; GntE with data installs it in M; DataM installs it in M when the grant has come and is kept
with the miss when it has not; GntE without data is kept with the miss when no data has come, and makes a line
held in S for an upgrade M. Whatever installs a line closes the miss and sends CompAck to the home. RdData and
NcDone hand data, status, poison and old value to their requester, whose request is then no longer open. None of
them changes memory or a register. -/
def Obligations.AgentsTakeResponses : Prop :=
  (∀ (a : Agent) (line : Nat) (m : Msg) (s : State), NoFillWaits s a →
    (ComesTo s .putAck a line m → exec (.putack a line) s = .next ((s.without m).dropWb a line)) ∧
    (ComesTo s .putAckStale a line m → exec (.putackstale a line) s = .next ((s.without m).dropWb a line)) ∧
    ((s.without m).dropWb a line).wbOf a line = none) ∧
  (∀ (a : Agent) (line : Nat) (m : Msg) (q : Miss) (s : State), s.missOf a line = some q → q.op = .load → q.fill = none → q.txn = m.txn →
    (let back : Msg := { ty := .compAck, src := a, dst := homeCode (homeOf line), line := line, txn := q.txn, cls := q.cls }
     let has (t : State) (st : CState) (d : Line) (p : BitVec 16) (w : Bool) : Prop :=
       t.missOf a line = none ∧ t.mem = s.mem ∧ t.regs = s.regs ∧ t.coh.net = s.coh.net.erase m ++ [back] ∧
       (t.cached a line).map (fun c => (c.st, c.data, c.poison, c.watched)) = some (st, d, p, w)
     let got (t : State) (st : CState) : Prop := has t st m.data (msgPoison m.poison) false
     let keeps (c : Instr) (q2 : Miss) : Prop := exec c s = .next ((s.without m).setMiss a line q2)
     (s.cached a line = none → s.victimFor a line = none →
       (ComesTo s .dataS a line m → ∃ t : State, exec (.datas a line) s = .next t ∧ got t .s) ∧
       (ComesTo s .dataE a line m → ∃ t : State, exec (.datae a line) s = .next t ∧ got t .e) ∧
       (ComesTo s .gntE a line m → m.flag = true → ∃ t : State, exec (.gnte a line) s = .next t ∧ got t .m) ∧
       (ComesTo s .gntE a line m → m.flag = false → q.data = none → keeps (.gnte a line) { q with granted := true }) ∧
       (ComesTo s .dataM a line m → q.granted = true → ∃ t : State, exec (.datam a line) s = .next t ∧ got t .m) ∧
       (ComesTo s .dataM a line m → q.granted = false →
         keeps (.datam a line) { q with data := some (m.data, msgPoison m.poison, m.flag) })) ∧
     (∀ c : CLine, s.cached a line = some c → q.st = .sm → m.flag = false → ComesTo s .gntE a line m →
       ∃ t : State, exec (.gnte a line) s = .next t ∧ has t .m c.data c.poison c.watched))) ∧
  (∀ (req : ReqCode) (txn : Nat) (m : Msg) (s : State),
    (let want : State := (s.without m).setCoh { (s.without m).coh with
       ncOpen := s.coh.ncOpen.filter (fun o => !(o.req == req.val && o.txn == txn))
       nc := s.coh.nc ++ [{ req := req, txn := txn, status := m.status, poison := m.poison, data := m.data, old := m.old }] }
     (Comes s (fun o => decide (o.ty = .rdData) && o.dst == req.val && o.txn == txn) m → exec (.rddata req txn) s = .next want) ∧
     (Comes s (fun o => decide (o.ty = .ncDone) && o.dst == req.val && o.txn == txn) m → exec (.ncdone req txn) s = .next want)))

/-- A cache eviction, a snoop timeout, a watch set again and a directory peek (R37, R64, R94, R95, R107, R109, R113,
R114, R185, R631). CACHE_EVICT of a line that its agent may choose as victim, without an open request or
writeback and with a buffer entry free (no line waiting for a way), moves it to the writeback buffer with the
Put of its state, dirty exactly when it was modified, drops it from the cache and wakes a watch on it.
SNOOP_TIMEOUT, once SNP_TO times 4,096 FCLK cycles have passed (0 acts as 1, the model's choice), of an agent
whose response a non-caching read awaits makes an owner's line poison in memory, takes the agent out of the
sharer vector, raises the region's record of cause 0x20 with the line's address and takes the response as in;
the answer still to come will be discarded. WATCH_LIMIT_POLL of a line that a ring of the agent waits for, that
is ready, coherent and cached without a watch, sets its watch when the agent is below its limit. DIR_PEEK with
GO shows whether the line has an entry at the selected region's home, its state and sharers, and changes
registers only; without GO it writes only the address. -/
def Obligations.EvictionsTimeoutsAndPeeks : Prop :=
  (∀ (a : Agent) (line : Nat) (c : CLine) (s : State), s.cached a line = some c → s.mayEvict a line c = true →
    s.missOf a line = none → s.wbOf a line = none → s.wbCount a < wbEntries a → NoFillWaits s a →
    ∃ t : State, exec (.cacheEvict a line) s = .next t ∧ t.cached a line = none ∧ t.mem = s.mem ∧ t.regs = s.regs ∧
      t.coh.net = s.coh.net ∧ t.coh.wakes = s.coh.wakes ++ (if c.watched then [(a.val, line)] else []) ∧
      (let w : WbEntry := ⟨a.val, (match c.st with | .s => .putS | .e => .putE | .m => .putM), false, decide (c.st = .m), c.data, c.poison,
         s.evictClass a line, 0⟩
       t.wbOf a line = some w)) ∧
  (∀ (r : Region) (a : Agent) (line : Nat) (e : DirEntry) (x : HomeTxn) (s : State), s.txnOf line = some x → x.victim = none →
    x.waits.contains a.val = true → homeOf line = r.val → x.began + max (s.fld .DIR_CTRL_SNP_TO r) 1 * 4096 ≤ s.fclk r →
    s.dirOf line = some e → x.req.ty = .rdNC → x.needComp = false →
    (let u := if e.excl && e.sharers.getLsbD a.val then s.writeLost x.req.cls.val line else s
     let v := (u.setDir line (some { e with sharers := e.sharers &&& ~~~ (oneHot a.val) })).setTxn line { x with
       final := x.final.map (fun (d : DirEntry) => { d with sharers := d.sharers &&& ~~~ (oneHot a.val) }) }
     let w := v.raise (.region r) 0x20 0xC0 0x07 2 (addr := line * 64) (req := a.val) (info := a.val)
     exec (.snoopTimeout r a line) s =
       .next ((w.setCoh { w.coh with late := w.coh.late ++ [(a.val, line)] }).snoopIn a line id))) ∧
  (∀ (a : Agent) (line : Nat) (c : CLine) (id : RingId) (s : State), id ∈ allRings → (ringMover id).code = a.val →
    s.ringOn id = true → canonical (s.ringLine id * 64) / 64 = line → s.lineReady a line = true →
    (s.place (line * 64)).coherent = true → s.cached a line = some c → c.watched = false → s.watchCount a < watchLimit a →
    ∃ t : State, exec (.watchLimitPoll a line) s = .next t ∧
      (t.cached a line).map (fun d => (d.watched, d.data, d.st)) = some (true, c.data, c.st) ∧ t.mem = s.mem ∧ t.regs = s.regs) ∧
  (∀ (who : Bank) (v : W64) (r : Region) (e : DirEntry) (s : State),
    (s.otherAccess who).fld .REG_SEL_INDEX who.code = r.val → v.getLsbD 63 = true → s.dirOf (bitsOf v.toNat 6 42) = some e →
    homeOf (bitsOf v.toNat 6 42) = r.val → s.busy (bitsOf v.toNat 6 42) = false →
    ∃ t : State, exec (.dirPeek who v) s = .next t ∧ t.fld .DIR_PEEK_RES_DONE r = 1 ∧ t.fld .DIR_PEEK_RES_HIT r = 1 ∧
      t.fld .DIR_PEEK_RES_STATE r = (if e.excl then 2 else 1) ∧ t.fld .DIR_PEEK_RES_SET r = dirSet (bitsOf v.toNat 6 42) % 2 ^ Fld.DIR_PEEK_RES_SET.width ∧
      t.fld .DIR_PEEK_VEC_SHARERS r 0 = e.sharers.toNat % 2 ^ 64 ∧ t.fld .DIR_PEEK_VEC_SHARERS r 1 = e.sharers.toNat / 2 ^ 64 ∧
      t.coh = s.coh ∧ t.mem = s.mem) ∧
  (∀ (who : Bank) (v : W64) (r : Region) (s : State), (s.otherAccess who).fld .REG_SEL_INDEX who.code = r.val →
    v.getLsbD 63 = false → ∃ t : State, exec (.dirPeek who v) s = .next t ∧
      OnlyRegs (s.otherAccess who) t [Fld.DIR_PEEK_ADDR_LINE.key r 0] ∧ t.fld .DIR_PEEK_ADDR_LINE r = bitsOf v.toNat 6 42)

/-- A failed check, a parity error, the corrected-error limit and BLK_RETIRE begin the retirement of a cell (R21,
R193, R194, R195, R199, R201, R536). A failed check whose retry succeeds changes nothing. Where the cell's slot
is neither retired nor waiting to be, its block retires nothing, the position is one of the 17, the error queues
of cell and block are empty and the block has a spare: a failed check whose retry fails, a parity error and
corrected errors that bring those of the window to a CE_LIM other than 0 each count at the cell's position and
leave the block retiring that slot with cause 1, 2 or 3, its spare in self-test, its position marked in
BLK_SPARE.RETIRED and kept for later boots. Fewer corrected errors are counted, in CEL_ECC.CE and in the window
of 2^31 FCLK cycles, and nothing else happens; CE_LIM 0 disables the limit. Windows follow one another from
reset: the model's choice (log entry 85). BLK_RETIRE with GO from the region's sequencer or the Kettle does the
same with cause 0; without GO it writes only the slot; from any other requester it is discarded. A slot retired
without replacement has no cell that fails. -/
def Obligations.CellFaultsRetireTheirCell : Prop :=
  (∀ (c : Cell) (src : CheckSrc) (a : Nat) (s : State), exec (.cellCheckFailure c src a false) s = .next s) ∧
  (∀ (c : Cell) (src : CheckSrc) (a : Nat) (s : State), (s.blk c.block).gone.contains c.slot = true →
    exec (.cellCheckFailure c src a true) s = .next s ∧ exec (.cellParityError c) s = .next s ∧
    ∀ errs : Nat, exec (.ceLimitReached ⟨c, errs⟩) s = .next s) ∧
  (∀ (c : Cell) (errs : Nat) (s : State), (s.blk c.block).gone.contains c.slot = false →
    (let n := physCell c.block (s.posOf c.block c.slot)
     let now := s.fclk c.region / 2 ^ 31
     let w := Tbl.get s.repair.window (0, 0) n
     let count := (if w.1 = now then w.2 else 0) + errs
     (s.fld .BLK_RTHR_CE_LIM c.block = 0 ∨ count < s.fld .BLK_RTHR_CE_LIM c.block) →
       ∃ t : State, exec (.ceLimitReached ⟨c, errs⟩) s = .next t ∧ Tbl.get t.repair.window (0, 0) n = (now, count) ∧
         t.fld .CEL_ECC_CE n = (s.fld .CEL_ECC_CE n + errs) % 2 ^ Fld.CEL_ECC_CE.width ∧ RegsBut s t [Fld.CEL_ECC_CE.key n 0] ∧
         t = { s with regs := t.regs, repair := { s.repair with window := t.repair.window } })) ∧
  (∀ (c : Cell) (src : CheckSrc) (a : Nat) (s : State), (s.blk c.block).gone.contains c.slot = false →
    (s.blk c.block).slotStopped (some c.slot) = false → (s.blk c.block).retiring = none → QuietAt s (.cell c) → QuietAt s (.block c.block) →
    s.posOf c.block c.slot < 17 → s.fld .BLK_SPARE_SPARE c.block ≠ 0x1F →
    (let pos := s.posOf c.block c.slot
     let n := physCell c.block pos
     let begins (t : State) (cause : Nat) : Prop :=
       (t.blk c.block).retiring = some ⟨c.slot, pos, cause, .selfTest⟩ ∧ (t.blk c.block).gone = (s.blk c.block).gone ∧
       (t.fld .BLK_SPARE_RETIRED c.block).testBit pos = true ∧
       t.repair.retired = s.repair.retired ++ [(c.block.val, pos)] ∧
       (t.exe (.cell c)).flights = []
     (∃ t : State, exec (.cellCheckFailure c src a true) s = .next t ∧ begins t 1 ∧
       t.fld .CEL_ECC_UE n = min (s.fld .CEL_ECC_UE n + 1) (2 ^ Fld.CEL_ECC_UE.width - 1)) ∧
     (∃ t : State, exec (.cellParityError c) s = .next t ∧ begins t 2 ∧
       t.fld .CEL_ECC_PARITY n = min (s.fld .CEL_ECC_PARITY n + 1) (2 ^ Fld.CEL_ECC_PARITY.width - 1)) ∧
     (∀ errs : Nat, s.fld .BLK_RTHR_CE_LIM c.block ≠ 0 →
       s.fld .BLK_RTHR_CE_LIM c.block ≤ (if (Tbl.get s.repair.window (0, 0) n).1 = s.fclk c.region / 2 ^ 31 then
         (Tbl.get s.repair.window (0, 0) n).2 else 0) + errs →
       ∃ t : State, exec (.ceLimitReached ⟨c, errs⟩) s = .next t ∧ begins t 3 ∧
         t.fld .CEL_ECC_CE n = (s.fld .CEL_ECC_CE n + errs) % 2 ^ Fld.CEL_ECC_CE.width))) ∧
  (∀ (who : Bank) (v : W32) (b : Block) (s : State), (s.otherAccess who).selBlk who = some b →
    (mayControl who b.region = false → exec (.blkRetire who v) s = .next (s.otherAccess who)) ∧
    (mayControl who b.region = true → v.getLsbD 31 = false → ∃ t : State, exec (.blkRetire who v) s = .next t ∧
      t.fld .BLK_RETIRE_SLOT b = v.toNat % 16 ∧ OnlyRegs (s.otherAccess who) t [Fld.BLK_RETIRE_SLOT.key b 0]) ∧
    (mayControl who b.region = true → v.getLsbD 31 = true → (s.blk b).gone.contains (v.toNat % 16) = false →
      (s.blk b).slotStopped (some (v.toNat % 16)) = false →
      (s.blk b).retiring = none → QuietAt s (.block b) → (s.otherAccess who).posOf b (v.toNat % 16) < 17 →
      (s.otherAccess who).fld .BLK_SPARE_SPARE b ≠ 0x1F →
      ∃ t : State, exec (.blkRetire who v) s = .next t ∧ t.fld .BLK_RETIRE_SLOT b = v.toNat % 16 ∧
        (t.blk b).retiring = some ⟨v.toNat % 16, (s.otherAccess who).posOf b (v.toNat % 16), 0, .selfTest⟩))

/-- The spare's self-test, the adoption of the slot, its release, and a cell's test and counter controls (R33, R64,
R195, R197, R199, R201). While a retirement waits for the self-test, SPARE_SELF_TEST_COMPLETE that passes moves
it on to copying and changes nothing else, and one that fails, with nothing else to retire, leaves no spare and
the slot retired without replacement, its map entry 0x1F. While it copies, SLOT_ADOPTION with nothing else to
retire maps the slot to the spare, leaves no spare, holds the slot, keeps the cell's instruction buffer and
descriptor table and nothing else of it, and makes its local store read zero. CEL_RELEASE of a held slot that
runs no kernel frees it; where it runs one the kernel restarts at its start index with S1 its argument.
CEL_SELFTEST keeps the result for an unused spare only. CEL_CLR_ECC clears the three counters of the position
and nothing else. The last three are discarded from requesters without the right. -/
def Obligations.SparesReplaceRetiredCells : Prop :=
  (∀ (b : Block) (s : State) (q : Retiring), (s.blk b).retiring = some q → q.phase = .selfTest →
    exec (.spareSelfTestComplete b true) s =
      .next (s.setBlk b { s.blk b with retiring := some { q with phase := .copying } }) ∧
    ((s.blk b).retireNext = [] → q.slot < 16 → ∃ t : State, exec (.spareSelfTestComplete b false) s = .next t ∧
      t.fld .BLK_SPARE_SPARE b = 0x1F ∧ t.posOf b q.slot = 0x1F ∧ (t.blk b).retiring = none ∧
      (t.blk b).gone = (s.blk b).gone ++ [q.slot])) ∧
  (∀ (b : Block) (s : State) (q : Retiring), (s.blk b).retiring = some q → q.phase = .copying → (s.blk b).retireNext = [] →
    q.slot < 16 → (let c := Block.cell b (Fin.ofNat 16 q.slot)
      ∃ t : State, exec (.slotAdoption b) s = .next t ∧ t.posOf b q.slot = s.fld .BLK_SPARE_SPARE b % 32 ∧
        t.fld .BLK_SPARE_SPARE b = 0x1F ∧ (t.blk b).retiring = none ∧ (t.blk b).held = (s.blk b).held ++ [q.slot] ∧
        (t.exe (.cell c)).ibuf = (s.exe (.cell c)).ibuf ∧ (t.exe (.cell c)).desc = (s.exe (.cell c)).desc ∧
        (∀ i, t.sreg (.cell c) i = 0) ∧ (t.exe (.cell c)).pred = 0 ∧ (t.exe (.cell c)).tok = [] ∧
        (t.exe (.cell c)).flights = [] ∧
        ∀ i : Nat, i < 65536 → (s.mem.clearLines (cellLine c) 65536).byte (cellLine c * 64 + i) = 0)) ∧
  (∀ (who : Bank) (c : Cell) (s : State), (s.otherAccess who).selCell who = some c →
    (mayControl who c.region = false → exec (.celRelease who) s = .next (s.otherAccess who)) ∧
    (mayControl who c.region = true → (s.blk c.block).held.contains c.slot = true →
      ∃ t : State, exec (.celRelease who) s = .next t ∧ t = { s.otherAccess who with blks := t.blks, execs := t.execs } ∧
        t.blk c.block = { s.blk c.block with held := (s.blk c.block).held.filter (fun k => decide (k ≠ c.slot)) } ∧
        ((s.exe (.cell c)).running = false → t.execs = s.execs) ∧
        ((s.exe (.cell c)).running = true → t.exe (.cell c) = ({ s.exe (.cell c) with
          pc := (s.exe (.cell c)).start, stop := .no, rerun := true, promote := false, endStatus := 0, endDetail := 0 } : Exec).setReg 1
            (s.exe (.cell c)).arg))) ∧
  (∀ (who : Bank) (pass : Bool) (n : Nat) (b : Block) (s : State), (s.otherAccess who).selPhys who = some n → n / 17 = b.val →
    (mayControl who b.region = true → (s.otherAccess who).fld .BLK_SPARE_SPARE b = n % 17 → (s.blk b).retiring = none →
      exec (.celSelftest who pass) s =
        .next ((s.otherAccess who).setBlk b { s.blk b with selfTest := some pass })) ∧
    (mayControl who b.region = false ∨ (s.otherAccess who).fld .BLK_SPARE_SPARE b ≠ n % 17 →
      exec (.celSelftest who pass) s = .next (s.otherAccess who)) ∧
    (mayControl who b.region = true → ∃ t : State, exec (.celClrEcc who) s = .next t ∧ t.fld .CEL_ECC_UE n = 0 ∧
      t.fld .CEL_ECC_PARITY n = 0 ∧ t.fld .CEL_ECC_CE n = 0 ∧ OnlyRegs (s.otherAccess who) t
        [Fld.CEL_ECC_UE.key n 0, Fld.CEL_ECC_PARITY.key n 0, Fld.CEL_ECC_CE.key n 0]) ∧
    (mayControl who b.region = false → exec (.celClrEcc who) s = .next (s.otherAccess who)))

/-- The near-memory scrub, row sparing, an abandoned compressed block and a cleared chunk (R182, R190, R191, R192,
R193). NEAR_SCRUB with SCRUB_HRS not 0 counts the corrected words of its region in NMS_ECC.CE and at their rows;
where it found no uncorrectable word it changes only those counts, and with SCRUB_HRS 0 it does nothing; an
uncorrectable word of the region is counted, becomes poison and is reported with cause 0x21. ROW_SPARE of a row
not yet redirected whose count has reached ROW_THR takes a spare row of a column that has one, counts it, lowers
FREE_MIN and starts the row's count again; a column without one is reported once with cause 0x22; below the
threshold it does nothing. EXPANDER_ABANDON marks the block for the instruction of the cell that reads it next
(log entry 87). BSU_CHUNK_CLEAR of the next chunk of a pass, none of whose lines is Busy, invalidates its lines
and holds it; with its last chunk the pass ends and holds none of them any more. A row of 4 KiB and ROW_THR 0
acting as 1 are the model's choices (log entry 86). -/
def Obligations.NearMemoryIsScrubbedAndSpared : Prop :=
  (∀ (r : Region) (fixed bad : List Nat) (s : State), s.fld .NMS_CTRL_SCRUB_HRS r = 0 →
    exec (.nearScrub r fixed bad) s = .next s) ∧
  (∀ (r : Region) (fixed : List Nat) (s : State), s.fld .NMS_CTRL_SCRUB_HRS r ≠ 0 →
    (∀ w ∈ fixed, w * 4 / 0x1000000000 = r.val) → ∃ t : State, exec (.nearScrub r fixed []) s = .next t ∧
      t.fld .NMS_ECC_CE r = (s.fld .NMS_ECC_CE r + fixed.length) % 2 ^ Fld.NMS_ECC_CE.width ∧
      (∀ k : Nat, Tbl.get t.repair.rowErrs 0 k = Tbl.get s.repair.rowErrs 0 k + (fixed.filter (fun w => rowKey (nearRow w) == k)).length) ∧
      RegsBut s t [Fld.NMS_ECC_CE.key r 0] ∧ t = { s with regs := t.regs, repair := { s.repair with rowErrs := t.repair.rowErrs } }) ∧
  (∀ (r : Region) (w : Nat) (s : State), s.fld .NMS_CTRL_SCRUB_HRS r ≠ 0 → w * 4 / 0x1000000000 = r.val →
    (let u := s.bump .NMS_ECC_CE r 0
     let v := u.setMem { u.mem with poisonW := Tbl.set u.mem.poisonW false w true }
     exec (.nearScrub r [] [w]) s =
       .next ((v.bumpSat .NMS_ECC_UE r).raise (.region r) 0x21 0xC0 0x01 1 (addr := w * 4)) ∧
     Tbl.get v.mem.poisonW false w = true)) ∧
  (∀ (r : Region) (col : Fin 128) (row used errs : Nat) (s : State),
    used = (s.repair.spared.filter (fun p => p.1 == r.val && p.2.1 == col.val)).length →
    errs = Tbl.get s.repair.rowErrs 0 (rowKey (r.val, col.val, row)) →
    s.repair.spared.contains (r.val, col.val, row) = false →
    (errs < max 1 (s.fld .NMS_CTRL_ROW_THR r) → exec (.rowSpare r col row) s = .next s) ∧
    (max 1 (s.fld .NMS_CTRL_ROW_THR r) ≤ errs → used < 256 → ∃ t : State, exec (.rowSpare r col row) s = .next t ∧
      t.repair.spared = s.repair.spared ++ [(r.val, col.val, row)] ∧
      Tbl.get t.repair.rowErrs 0 (rowKey (r.val, col.val, row)) = 0 ∧
      t.fld .NMS_SPARE_USED r = (s.fld .NMS_SPARE_USED r + 1) % 2 ^ Fld.NMS_SPARE_USED.width ∧
      t.fld .NMS_SPARE_FREE_MIN r = min (s.fld .NMS_SPARE_FREE_MIN r) (255 - used) % 2 ^ Fld.NMS_SPARE_FREE_MIN.width ∧
      RegsBut s t [Fld.NMS_SPARE_USED.key r 0, Fld.NMS_SPARE_FREE_MIN.key r 0] ∧
      t = { s with regs := t.regs, repair := t.repair }) ∧
    (max 1 (s.fld .NMS_CTRL_ROW_THR r) ≤ errs → 256 ≤ used → s.repair.exhausted.contains (r.val, col.val) = false →
      exec (.rowSpare r col row) s = .next ({ s with repair := { s.repair with
        exhausted := s.repair.exhausted ++ [(r.val, col.val)] } }.raise (.region r) 0x22 0 0 0 (info := col.val))) ∧
    (256 ≤ used → s.repair.exhausted.contains (r.val, col.val) = true → exec (.rowSpare r col row) s = .next s)) ∧
  (∀ (c : Cell) (a : Nat) (s : State),
    (s.repair.abandon.contains (c.val, a) = false → exec (.expanderAbandon c a) s =
      .next { s with repair := { s.repair with abandon := s.repair.abandon ++ [(c.val, a)] } }) ∧
    (s.repair.abandon.contains (c.val, a) = true → exec (.expanderAbandon c a) s = .next s)) ∧
  (∀ (r : Region) (chunk : Nat) (c : Cell) (f : Flight) (p : Pass) (rest : List Nat) (s : State), s.passAt r chunk = some (c, f, p) →
    p.todo = chunk :: rest → chunk * 4096 / 0x1000000000 = r.val →
    (s.coh.chunks.filter (fun k => k.region == r.val)).length + 1 < 64 → s.txnCount r < 512 →
    (∀ i : Nat, i < 64 → s.busy (chunk * 64 + i) = false) →
    (rest ≠ [] → ∃ t : State, exec (.bsuChunkClear r chunk) s = .next t ∧
      t.coh.chunks = s.coh.chunks ++ [⟨r.val, chunk⟩] ∧ t.busy (chunk * 64) = true ∧ t.busy (chunk * 64 + 63) = true ∧
      (∀ i : Nat, i < 64 → t.dirOf (chunk * 64 + i) = none) ∧
      ∃ g ∈ (t.exe (.cell c)).flights, g.uid = f.uid ∧ g.pass = some { p with todo := rest, held := p.held ++ [chunk] }) ∧
    (rest = [] → ∃ t : State, exec (.bsuChunkClear r chunk) s = .next t ∧ ∀ k ∈ p.held ++ [chunk], ⟨c.region.val, k⟩ ∉ t.coh.chunks))

/-- Completion, fetch faults, launches taken and ended, kernel loads and signals delivered (R158, R209, R211, R212,
R216, R225, R226, R227, R279, R310, R354, R633). INSTRUCTION_COMPLETE of the oldest instruction of a queue with
no item, no job and no pass outstanding, whose record its ring takes, takes it out of flight; its token, if it
names one below 0xFFFF, goes up by one, and with CR and an empty open completion ring TAIL advances by one. One
that wrote a NaN, no earlier one in flight being able to trap, stops its cell if it runs, and leaves flight once
the numeric ring takes its record. With a record the ring cannot take nothing happens. SEQ_FETCH_FAULT stops a
running context with STATE 4 and the DETAIL of the read, or 0x01 where it fails its check. CELL_LAUNCH_ACCEPT of
a free loaded cell starts the kernel at its start index with S1 its argument and the launch's context, or stops
the cell with 0x19 where no load has written that entry. KLD_DELIVERY of a readable load to a free cell writes
exactly its entries, from its block's one fetch. LAUNCH_COMPLETE once no cell is waited for ends the job and
takes the launch out of flight; with a PROMOTE bit it stops the context with DETAIL 0x30. SIGNAL_DELIVERY raises
the token of the executor the oldest signal of the region names. -/
def Obligations.InstructionsAndLaunchesComplete : Prop :=
  (∀ (x : Executor) (q : QueueId) (f : Flight) (s : State), s.queueHead x q = some f → f.both = false → f.items = 0 →
    f.job = none → s.fenced = false →
    (s.canComplete x f = false → exec (.instructionComplete x q) s = .next s) ∧
    (s.canComplete x f = true → (s.exe x).trapDue = none →
      (f.trap = none → exec (.instructionComplete x q) s = .next
        ((((s.dropFlight x f.uid).undef f.raced).complete x f).iff f.bsu (fun s => s.bump .NMS_BSU_PASSES x.region))) ∧
      (f.trap = none → f.raced = [] → f.bsu = false → f.noToken = false → f.tokOut ≠ 0 → (s.exe x).token f.tokOut < 0xFFFF →
        ∃ t : State, exec (.instructionComplete x q) s = .next t ∧
        (t.exe x).token f.tokOut = (s.exe x).token f.tokOut + 1 ∧ (∀ k, k ≠ f.tokOut → (t.exe x).token k = (s.exe x).token k) ∧
        (t.exe x).flights = (s.exe x).flights.filter (fun g => g.uid ≠ f.uid) ∧
        (f.cr = true → s.ringOpen (.completion x.region) = true → (s.ring (.completion x.region)).buf = [] →
          (t.ring (.completion x.region)).tail = (s.ring (.completion x.region)).tail + 1) ∧
        (f.cr = false → f.forced = false → t.rings = s.rings ∧ t.mem = s.mem ∧ t.regs = s.regs)) ∧
      (∀ (c : Cell) (p : TrapAt), x = .cell c → f.trap = some p → f.quiet = false → (s.exe x).running = true → (s.exe x).stop = .no →
        (∀ h ∈ (s.exe x).flights, classTraps h.cls = true → f.uid ≤ h.uid) → (s.ring (.numeric c.region)).held = [] →
        s.ringAccepts (.numeric c.region) = true → ∃ t : State, exec (.instructionComplete x q) s = .next t ∧
          (t.exe x).stop = .nanTrap ∧ ∀ g ∈ (t.exe x).flights, g.uid ≠ f.uid))) ∧
  (∀ (r : Region) (check : Bool) (s : State), s.seqRuns r = true →
    (let got := (s.readBytes (s.fld .SEQ_PC_PC r * 16) 16).detail
     let detail := if check = true ∧ got ≠ 3 then 1 else got
     (detail = 0 → exec (.seqFetchFault ⟨r, check⟩) s = .next s) ∧
     (detail ≠ 0 → ∃ t : State, exec (.seqFetchFault ⟨r, check⟩) s = .next t ∧
      t.fld .SEQ_STAT_STATE r = 4 ∧ t.fld .SEQ_STAT_DETAIL r = detail % 256 ∧
      t.fld .SEQ_PC_PC r = s.fld .SEQ_PC_PC r ∧ (t.exe (.seq r)).stop = .illegal detail))) ∧
  (∀ (c : Cell) (id : Nat) (d : Cell) (start : Nat) (arg : W64) (ctx : LaunchCtx) (s : State), s.cellFree c = true →
    (s.blk c.block).unloaded.contains c.slot = false → (s.blk c.block).itemFor c = some (.launch id d start arg ctx) →
    ∃ t : State, exec (.cellLaunchAccept c) s = .next t ∧
      (t.blk c.block).inq = (s.blk c.block).inq.erase (.launch id d start arg ctx) ∧ (t.exe (.cell c)).pc = start ∧
      (t.exe (.cell c)).reg 1 = arg ∧ (∀ i, i ≠ 1 → (t.exe (.cell c)).reg i = (s.exe (.cell c)).reg i) ∧
      (t.exe (.cell c)).ctx = ctx ∧ (t.exe (.cell c)).job = id ∧
      (((s.exe (.cell c)).entry start).isSome = true → (t.exe (.cell c)).running = true ∧ (t.exe (.cell c)).stop = .no ∧
        t = { s with blks := t.blks, execs := t.execs }) ∧
      ((s.exe (.cell c)).entry start = none → (t.exe (.cell c)).stop = .illegal 0x19)) ∧
  (∀ (c : Cell) (id : Nat) (d : Cell) (start n src : Nat) (s : State), s.cellFree c = true →
    (s.blk c.block).itemFor c = some (.load id d start n src) →
    (let fetched := (s.job id).bind (fun j => j.fetched.find? (fun p => p.1 == c.block.val))
     let fills (l : List Byte) : Prop := ∃ t : State, exec (.kldDelivery c) s = .next t ∧
       (∀ j, j < n → (t.exe (.cell c)).entry (start + j) = some ⟨BitVec.ofNat 128 (fieldAt l (16 * j) 16), start, src⟩) ∧
       (∀ k, k < start ∨ start + n ≤ k → (t.exe (.cell c)).entry k = (s.exe (.cell c)).entry k) ∧
       (t.blk c.block).inq = (s.blk c.block).inq.erase (.load id d start n src) ∧ (t.blk c.block).unloaded.contains c.slot = false ∧
       (fetched.isSome = true → t = { s with blks := t.blks, execs := t.execs, jobs := t.jobs })
     (fetched = none → s.rangeFree src (16 * n) = true → (s.readBytes src (16 * n)).detail = 0 → fills (s.readBytes src (16 * n)).bytes) ∧
     (∀ (b : Nat) (l : List Byte), fetched = some (b, l, 0) → fills l))) ∧
  (∀ (r : Region) (id : Nat) (j : Job) (f : Flight) (s : State), s.job id = some j → s.queueHead (.seq r) (.launch id) = some f →
    j.kind = .launch → j.waits = [] → s.fenced = false →
    s.canComplete (.seq r) { f with forced := f.forced || j.promote } = true →
    ∃ t : State, exec (.launchComplete r id) s = .next t ∧ t.job id = none ∧
      (∀ g ∈ (t.exe (.seq r)).flights, g.uid ≠ f.uid) ∧
      (j.promote = true → s.seqStopped r = false → (s.exe (.seq r)).watch = none → t.fld .SEQ_STAT_STATE r = 4 ∧
        t.fld .SEQ_STAT_DETAIL r = 0x30 ∧ t.fld .NUM_STAT_PROMOTE r = 1 ∧
        (t.exe (.seq r)).tok = (s.exe (.seq r)).tok) ∧
      (j.promote = false → t = ((s.endJob id).dropFlight (.seq r) f.uid).complete (.seq r)
        { f with status := j.status, detail := j.detail, count := j.count })) ∧
  (∀ (r : Region) (x : Executor) (g : Signal) (s : State), s.signals.find? (fun k => k.region == r.val) = some g → g.tok ≠ 0 →
    (x = .seq r ∧ g.target = 0xFF ∨ ∃ c : Cell, x = .cell c ∧ c.val = r.val * 128 + g.target ∧ g.target < 128 ∧
      (s.blk c.block).gone.contains c.slot = false) → (s.exe x).token g.tok < 0xFFFF →
    ∃ t : State, exec (.signalDelivery r) s = .next t ∧ t.signals = s.signals.erase g ∧
      (t.exe x).token g.tok = (s.exe x).token g.tok + 1 ∧ t = { s with signals := t.signals, execs := t.execs }) ∧
  (∀ (r : Region) (c : Cell) (g : Signal) (s : State), s.signals.find? (fun k => k.region == r.val) = some g →
    c.val = r.val * 128 + g.target → g.target < 128 → (s.blk c.block).gone.contains c.slot = true →
    exec (.signalDelivery r) s = .next { s with signals := s.signals.erase g })

/-- Enabling and disabling a ring, and the ring writer draining its overflow buffer (R228, R229, R231, R232, R256,
R479, R630). From a requester that may write the ring's registers: RING_ENABLE of a ring already enabled writes
EN alone; of a disabled ring it writes the BASE fields, and sets EN and takes the counters of the control block
exactly when storage and control block lie in near or populated far memory and the block is not poison, for a
ring software produces or one whose buffer is empty without touching memory; else EN stays 0. RING_DISABLE of an
enabled ring clears EN and changes nothing else; of a disabled one it writes the BASE fields. A requester
without the right changes nothing. DEVICE_RING_DRAIN takes HEAD from the control block; with an empty buffer
nothing else changes, and one waiting record for which there is then room goes to storage (for the job report
ring: no resolved record awaiting its report). -/
def Obligations.RingsTurnOnAndOff : Prop :=
  (∀ (who : Bank) (ring : RingId) (v : W64) (s : State), mayRing who ring = false →
    exec (.ringEnable who ring v) s = .next (s.otherAccess who) ∧ exec (.ringDisable who ring v) s = .next (s.otherAccess who)) ∧
  (∀ (who : Bank) (ring : RingId) (v : W64) (s : State), mayRing who ring = true → (s.otherAccess who).ringOn ring = true →
    (∃ t : State, exec (.ringEnable who ring v) s = .next t ∧ t.ringOn ring = true ∧
      OnlyRegs (s.otherAccess who) t [(ringCfg ring).en.key (ringCfg ring).inst (ringCfg ring).idx]) ∧
    (∃ t : State, exec (.ringDisable who ring v) s = .next t ∧ t.ringOn ring = false ∧
      OnlyRegs (s.otherAccess who) t [(ringCfg ring).en.key (ringCfg ring).inst (ringCfg ring).idx])) ∧
  (∀ (who : Bank) (ring : RingId) (v : W64) (s : State), mayRing who ring = true → (s.otherAccess who).ringOn ring = false →
    exec (.ringDisable who ring v) s =
      .next ((s.otherAccess who).setRingFields ring (v &&& 0x7FFFFFFFFFFFFFFF#64).toNat) ∧
    (let u := (s.otherAccess who).setRingFields ring (v ||| 0x8000000000000000#64).toNat
     let ok := u.inCoherent (u.ringBase ring) (u.ringSize ring * (ringCfg ring).entry) = true ∧
       u.inCoherent (u.ringCb ring) 128 = true ∧ (u.readBytes (u.ringCb ring) 128).detail = 0
     (¬ ok → exec (.ringEnable who ring v) s = .next u) ∧
     (ok → ((ringCfg ring).device = false ∨ (s.ring ring).buf = [] ∧ (s.ring ring).held = []) →
       (ring = .jobReport → (s.errq .chip).await = []) → ∃ t : State, exec (.ringEnable who ring v) s = .next t ∧ t.ringOn ring = true ∧
         (t.ring ring).tail = leNat (u.readBytes (u.ringCb ring) 8).bytes ∧
         (t.ring ring).head = leNat (u.readBytes (u.ringCb ring + 64) 8).bytes ∧
         ((ringCfg ring).device = false → RegsBut u t [(ringCfg ring).en.key (ringCfg ring).inst (ringCfg ring).idx] ∧
           t = { u.trafficOf t with regs := t.regs, rings := t.rings, works := t.works })))) ∧
  (∀ (ring : RingId) (s : State), (ringCfg ring).device = true → s.ringOn ring = true →
    s.rangeFree (s.ringCb ring + 64) 8 = true → (ring = .jobReport → (s.errq .chip).await = []) →
    (let h := leNat (s.readBytes (s.ringCb ring + 64) 8).bytes
     ((s.ring ring).buf = [] → (s.ring ring).held = [] → ∃ t : State, exec (.deviceRingDrain ring) s = .next t ∧
       t.ring ring = { s.ring ring with head := h } ∧ t.errs = s.errs ∧ t.works = s.works) ∧
     (∀ e, (s.ring ring).buf = [e] → (s.ring ring).held = [] →
       (s.ringOver ring = true ∨ (s.ring ring).tail - h < s.ringSize ring) → ∃ t : State, exec (.deviceRingDrain ring) s = .next t ∧
         t.ring ring = ⟨(s.ring ring).tail + 1, h, [], []⟩))) ∧
  (∀ (ring : RingId) (s : State), (ringCfg ring).device = false ∨ s.ringOn ring = false →
    exec (.deviceRingDrain ring) s = .next s)

/-- Consuming a work record, NOP, CALL and STEP, and a slot that overruns (R236, R238, R239, R240, R241, R243, R244,
R330, R632). WORK_RING_CONSUME of the ring whose turn it is, by a sequencer waiting for work, advances HEAD by
one and the turn past it; the record is then taken, or where R240 refuses it done with. A poison entry at HEAD
is watched, reported once, and HEAD stays; an entry without its tag is watched. WORK_NOP without CR only ends
the record. WORK_CALL of an aligned TARGET sets SEQ_STEP, S1, S2, S3 and SEQ_PC and runs; WORK_STEP (no slot of
far memory being coded) whose first entry is readable, of an assigned KIND and with an aligned ENTRY sets them
too, reads the ledger, records slot 0 in SEQ_SLOT, sets S4 to S7, jumps to ENTRY and runs. SLOT_OVERRUN of a
slot that has run for LIMIT aon cycles marks it once, with status SLOT_OVERRUN unless a worse one is held, and
the slot runs on. -/
def Obligations.WorkRecordsRun : Prop :=
  (∀ (r : Region) (n : Fin 4) (s : State), s.fenced = false → s.fld .SEQ_STAT_STATE r = 0 → (s.work r).taken = none →
    (s.work r).cur = none → s.seqStalled r = false →
    (s.workPoison r n = false → s.workTurn r = some n → ∃ t : State, exec (.workRingConsume r n) s = .next t ∧
      (t.ring (.work r n)).head = (s.ring (.work r n)).head + 1 ∧ (t.work r).nextRing = (n.val + 1) % 4 ∧
      (t.work r).taken = (if workRefused (s.workEntry r n).bytes = true then none
        else some (workOf n.val (s.ringEntry (.work r n) (s.ring (.work r n)).head) (s.workEntry r n).bytes)) ∧
      (t.work r).cur = none) ∧
    (s.workPoison r n = false → s.workTurn r ≠ some n → exec (.workRingConsume r n) s =
      .next (if s.ringOn (.work r n) = true ∧ s.workReady r n = false then s.watchRing (.work r n) else s)) ∧
    (s.workPoison r n = true → (s.work r).poisonSeen.contains (n.val, (s.ring (.work r n)).head) = true →
      exec (.workRingConsume r n) s = .next (s.watchRing (.work r n))) ∧
    (s.workPoison r n = true → (s.work r).poisonSeen.contains (n.val, (s.ring (.work r n)).head) = false →
      ∃ t : State, exec (.workRingConsume r n) s = .next t ∧ (t.ring (.work r n)).head = (s.ring (.work r n)).head ∧
        (t.work r).taken = none ∧
        (t.work r).poisonSeen = (s.work r).poisonSeen ++ [(n.val, (s.ring (.work r n)).head)])) ∧
  (∀ (r : Region) (w : WorkRec) (s : State), (s.work r).taken = some w → s.fld .SEQ_STAT_STATE r = 0 →
    (w.op = 0 → exec (.workNop r) s = .next ((s.setWork r { s.work r with taken := none }).reportWork r w 0 0 0)) ∧
    (w.op = 0 → w.flags % 2 = 0 → exec (.workNop r) s = .next (s.setWork r { s.work r with taken := none })) ∧
    (let setUp (t : State) : Prop := (t.work r).cur = some w ∧ (t.work r).taken = none ∧
       t.fld .SEQ_STEP_STEP r = w.step % 2 ^ 48 ∧ t.fld .SEQ_STEP_EPOCH r = w.epoch % 2 ^ 16 ∧ t.fld .SEQ_STAT_STATE r = 1 ∧
       t.sreg (.seq r) 1 = w.arg.toNat ∧ t.sreg (.seq r) 2 = w.step % 2 ^ 64 ∧ t.sreg (.seq r) 3 = w.epoch % 2 ^ 64 ∧
       (t.exe (.seq r)).running = true ∧ (t.exe (.seq r)).stop = .no
     (w.op = 1 → s.fenced = false → w.target % 16 = 0 → ∃ t : State, exec (.workCall r) s = .next t ∧ setUp t ∧
       t.fld .SEQ_PC_PC r = w.target / 16 % 2 ^ 44 ∧ t = { s with regs := t.regs, execs := t.execs, works := t.works } ∧
       RegsBut s t [Fld.SEQ_STEP_STEP.key r 0, Fld.SEQ_STEP_EPOCH.key r 0, Fld.SEQ_PC_PC.key r 0, Fld.SEQ_STAT_STATE.key r 0]) ∧
     (w.op = 2 → s.fenced = false → s.mem.coded = [] → (s.readBytes w.target 32).detail = 0 →
       (let b := (s.readBytes w.target 32).bytes
        fieldAt b 0 1 ≤ 5 → fieldAt b 8 6 % 16 = 0 → ∃ t : State, exec (.workStep r) s = .next t ∧ setUp t ∧
          t.fld .SEQ_SLOT_INDEX r = 0 ∧ t.fld .SEQ_SLOT_KIND r = fieldAt b 0 1 % 2 ^ Fld.SEQ_SLOT_KIND.width ∧
          t.fld .SEQ_SLOT_MICRO r = fieldAt b 2 2 % 2 ^ Fld.SEQ_SLOT_MICRO.width ∧
          t.fld .SEQ_SLOT_VSTAGE r = fieldAt b 1 1 % 8 ∧ t.fld .SEQ_PC_PC r = fieldAt b 8 6 / 16 % 2 ^ 44 ∧
          t.sreg (.seq r) 4 = 0 ∧ t.sreg (.seq r) 5 = fieldAt b 2 2 % 2 ^ 64 ∧ t.sreg (.seq r) 6 = fieldAt b 1 1 % 8 ∧
          t.sreg (.seq r) 7 = fieldAt b 16 8 % 2 ^ 64 ∧ (t.work r).walking = true ∧ (t.work r).slotK = 0 ∧
          (t.work r).slotLimit = fieldAt b 4 4 ∧ (t.work r).slotBegan = s.clk.aon ∧
          (t.work r).ledger = s.readLedger (w.target + 32 * w.slots))))) ∧
  (∀ (r : Region) (s : State), s.fenced = false → (s.work r).cur.isSome = true → (s.work r).walking = true →
    (s.work r).paused = none → (s.work r).entryFault = false → (s.work r).slotLimit ≠ 0 →
    ((s.work r).overran = true ∨ s.clk.aon < (s.work r).slotBegan + (s.work r).slotLimit →
      exec (.slotOverrun r) s = .next s) ∧
    ((s.work r).overran = false → (s.work r).slotBegan + (s.work r).slotLimit ≤ s.clk.aon →
      ∃ t : State, exec (.slotOverrun r) s = .next t ∧ (t.work r).overran = true ∧
        (t.work r).status = (worst ((s.work r).status, (s.work r).detail) (0x43, 0)).1 ∧
        (t.work r).cur = (s.work r).cur ∧ t.fld .SEQ_STAT_STATE r = s.fld .SEQ_STAT_STATE r ∧
        t.fld .SEQ_PC_PC r = s.fld .SEQ_PC_PC r))

/-- CLRTOK, HALT, ABORT and RESUME of the selected sequencer (R64, R67, R218, R245, R254, R330, R336). SEQ_CLRTOK
empties the token counters of the sequencer the writer's REG_SEL names and changes nothing else. On a device
that is not fenced: SEQ_HALT stops a context that is not stopped at once when it sleeps in no WATCH, and
otherwise waits for the boundary after it, after those that wait already; a stopped context stays as it is.
SEQ_ABORT of a stopped context returns it to the work rings with no record in progress and SEQ_SLOT.INDEX
0xFFFF, its tokens left alone; of one not stopped it does nothing. SEQ_RESUME of a stopped context without a
record shows STATE 0; with one it goes on at SEQ_PC and changes nothing else but STATE; after a pause it reads
the ledger's quota again and begins the next slot at SEQ_PC. A select value that names no region makes all four
have no effect. -/
def Obligations.SequencerControlsAct : Prop :=
  (∀ (who : Bank) (s : State), (s.otherAccess who).selRegion who = none →
    exec (.seqClrtok who) s = .next (s.otherAccess who) ∧ exec (.seqHalt who) s = .next (s.otherAccess who) ∧
    exec (.seqAbort who) s = .next (s.otherAccess who) ∧ exec (.seqResume who) s = .next (s.otherAccess who)) ∧
  (∀ (who : Bank) (r : Region) (s : State), (s.otherAccess who).selRegion who = some r →
    ∃ t : State, exec (.seqClrtok who) s = .next t ∧ (∀ k, (t.exe (.seq r)).token k = 0) ∧ t = { s.otherAccess who with execs := t.execs } ∧
      (∀ y : Executor, y ≠ .seq r → t.exe y = s.exe y) ∧ t.exe (.seq r) = { s.exe (.seq r) with tok := [] }) ∧
  (∀ (who : Bank) (r : Region) (s u : State), u = s.otherAccess who → u.selRegion who = some r → u.fenced = false →
    (u.seqStopped r = true → exec (.seqHalt who) s = .next u) ∧
    (u.seqStopped r = false → (s.exe (.seq r)).watch = none → (s.work r).stopDue = false → (s.work r).halts = [] →
      ∃ t : State, exec (.seqHalt who) s = .next t ∧ t.fld .SEQ_STAT_STATE r = 3 ∧
        RegsBut u t [Fld.SEQ_STAT_STATE.key r 0, Fld.SEQ_STAT_DETAIL.key r 0] ∧ t = { u with regs := t.regs, works := t.works } ∧
        (t.work r).halts = []) ∧
    (u.seqStopped r = false → (s.exe (.seq r)).watch.isSome = true → ∃ t : State, exec (.seqHalt who) s = .next t ∧
      (t.work r).halts = (s.work r).halts ++ [(false, false)] ∧ t = { u with works := t.works }) ∧
    (u.seqStopped r = false → exec (.seqAbort who) s = .next u ∧ exec (.seqResume who) s = .next u) ∧
    (u.seqStopped r = true → ∃ t : State, exec (.seqAbort who) s = .next t ∧ t.fld .SEQ_STAT_STATE r = 0 ∧
      t.fld .SEQ_SLOT_INDEX r = 0xFFFF ∧ (t.work r).cur = none ∧ (t.work r).taken = none ∧ (t.work r).walking = false ∧
      (t.exe (.seq r)).running = false ∧ (t.exe (.seq r)).tok = (s.exe (.seq r)).tok) ∧
    (u.seqStopped r = true → (s.work r).cur = none → ∃ t : State, exec (.seqResume who) s = .next t ∧
      t.fld .SEQ_STAT_STATE r = 0 ∧ OnlyRegs u t [Fld.SEQ_STAT_STATE.key r 0]) ∧
    (u.seqStopped r = true → (s.work r).cur.isSome = true → (s.work r).entryFault = false → (s.work r).paused = none →
      ∃ t : State, exec (.seqResume who) s = .next t ∧ t.fld .SEQ_STAT_STATE r = 1 ∧ RegsBut u t [Fld.SEQ_STAT_STATE.key r 0] ∧
        t.exe (.seq r) = { s.exe (.seq r) with running := true, stop := .no } ∧ t = { u with regs := t.regs, execs := t.execs }) ∧
    (u.seqStopped r = true → (s.work r).cur.isSome = true → (s.work r).entryFault = false →
      (s.work r).paused.isSome = true → u.fld .SEQ_SLOT_INDEX r ≠ 0xFFFF →
      ∃ t : State, exec (.seqResume who) s = .next t ∧ t.fld .SEQ_STAT_STATE r = 1 ∧ (t.work r).paused = none ∧
        (t.work r).ledger.quota = fieldAt (u.readBytes (s.work r).ledger.addr 64).bytes 0 8 ∧
        (t.work r).slotBegan = s.clk.aon ∧ (t.exe (.seq r)).running = true))

/-- SET and the ten scalar operations write RD with the result on RA and RB + IMM, and nothing else of the executor
(R202, R203, R206, R215, R216, R258, R259, R270). Let a CTL word be at the head of an executor's dispatch, free
to go, with RC and SUB 0 and only registers the executor may name, its completion record accepted and no HALT
waiting. Then each of ADD, SUB, MUL, SHL, SHR, AND, OR, XOR and SRA answers a next state in which RD holds the
result of R270 on RA and b = RB + IMM modulo 2^64, S0 staying 0; SET, RA and RB being 0 too, writes IMM. Every
other scalar register, the predicate bits, the descriptor table and the instruction buffer are unchanged and the
program counter names the next instruction. Without CR and TOK_OUT nothing but the executor, for a sequencer
SEQ_PC and SEQ_STAT.STATE, and what the fetch of its word costs (traffic, clocks, the far controllers' buffers,
a block woken to give the line) has changed; memory has not. -/
def Obligations.ScalarArithmeticWritesItsRegister : Prop :=
  ∀ (x : Executor) (w : W128) (s : State), Going s x w → RingTakes s x w → NoStopDue s x → fCls w = 0 → fRC w = 0 →
    fSUB w = 0 → regsBad x [fRD w, fRA w, fRB w] = false →
    (let a : W64 := (s.exe x).reg (fRA w)
     let b : W64 := (s.exe x).reg (fRB w) + BitVec.ofNat 64 (fIMM w)
     let gives (o : Answer) (v : W64) : Prop := ∃ t : State, o = .next t ∧
       (t.exe x).reg (fRD w) = (if fRD w = 0 then 0 else v) ∧ (∀ i, i ≠ fRD w → (t.exe x).reg i = (s.exe x).reg i) ∧
       (t.exe x).pred = (s.exe x).pred ∧ (t.exe x).desc = (s.exe x).desc ∧ (t.exe x).ibuf = (s.exe x).ibuf ∧
       t.pcOf x = (if x.isCell then s.pcOf x + 1 else (s.pcOf x + 1) % 2 ^ 44) ∧
       (wf w 97 1 = 0 → wf w 98 6 = 0 → ExecOnly s t x)
     (fOp w = 0x010 → fRA w = 0 → fRB w = 0 → gives (exec (.ctlSet x w) s) (BitVec.ofNat 64 (fIMM w))) ∧
     (fOp w = 0x011 → gives (exec (.ctlAdd x w) s) (a + b)) ∧
     (fOp w = 0x012 → gives (exec (.ctlSub x w) s) (a - b)) ∧
     (fOp w = 0x013 → gives (exec (.ctlMul x w) s) (a * b)) ∧
     (fOp w = 0x014 → gives (exec (.ctlShl x w) s) (a <<< (b.toNat % 64))) ∧
     (fOp w = 0x015 → gives (exec (.ctlShr x w) s) (a >>> (b.toNat % 64))) ∧
     (fOp w = 0x016 → gives (exec (.ctlAnd x w) s) (a &&& b)) ∧
     (fOp w = 0x017 → gives (exec (.ctlOr x w) s) (a ||| b)) ∧
     (fOp w = 0x018 → gives (exec (.ctlXor x w) s) (a ^^^ b)) ∧
     (fOp w = 0x019 → gives (exec (.ctlSra x w) s) (a.sshiftRight (b.toNat % 64))))

/-- What dispatch does with any instruction: illegal encodings, tokens awaited, false predicates (R25, R202, R204,
R206, R208, R209, R215, R216, R219, R231). Dispatch is one operation that all Twiex instructions share; this
holds for every class and opcode, whatever the instruction needs and does. Away from the head of dispatch, or
for a command whose word is not the one at the program counter, nothing happens. Else the word is fetched: the
region's FCLK runs, and a sequencer's line that its instruction cache does not hold costs traffic, a line that
it holds nothing. An illegal encoding stops the executor with its DETAIL and consumes no token. A legal
instruction whose token counter is 0 waits, its token untouched. One whose predicate is false, its record
accepted and no HALT waiting, consumes its token, moves on to the next instruction and performs nothing: its
registers and predicates stand, and with neither CR nor TOK_OUT memory stands. -/
def Obligations.DispatchChecksTokensAndPredicates : Prop :=
  ∀ (cls op : Nat) (x : Executor) (w : W128) (need : State → Need) (act : State → Act) (s : State),
    (s.atHead x = false → issue cls op x w s need act = .next s) ∧
    (∀ v, s.fetch x = some v → v ≠ w → issue cls op x w s need act = .next s) ∧
    (s.atHead x = true → s.fetch x = some w → fCls w = cls → fOp w = op →
      ExecOnly s (s.fetched x) x ∧ (∀ c, x = .cell c → s.fetched x = s.startFclk c.region) ∧
      (∀ r : Region, x = .seq r → (s.exe x).icache.contains (canonical (s.pcOf x * 16 / 64 * 64) / 64,
          lineOf (s.readBytes (s.pcOf x * 16 / 64 * 64) 64).bytes) = true →
        s.fetched x = { s.startFclk r with execs := (s.fetched x).execs }) ∧
      (∀ d, d = illegalDetail (s.exe x) x w (need (s.fetched x)) → d ≠ 0 → ∃ t : State, issue cls op x w s need act = .next t ∧
        (t.exe x).stop = .illegal d ∧ (t.exe x).tok = (s.exe x).tok ∧ t.pcOf x = s.pcOf x ∧
        (∀ i, (t.exe x).reg i = (s.exe x).reg i)) ∧
      (illegalDetail (s.exe x) x w (need (s.fetched x)) = 0 → wf w 104 6 ≠ 0 → (s.exe x).token (wf w 104 6) = 0 →
        issue cls op x w s need act = .next ((s.fetched x).shows x 2)) ∧
      (illegalDetail (s.exe x) x w (need (s.fetched x)) = 0 → (s.exe x).predOk (wf w 110 4) = false → RingTakes s x w → NoStopDue s x →
        (wf w 104 6 = 0 ∨ (s.exe x).token (wf w 104 6) ≠ 0) → ∃ t : State, issue cls op x w s need act = .next t ∧
          (∀ i, (t.exe x).reg i = (s.exe x).reg i) ∧ (t.exe x).pred = (s.exe x).pred ∧
          t.pcOf x = (if x.isCell then s.pcOf x + 1 else (s.pcOf x + 1) % 2 ^ 44) ∧
          (wf w 104 6 ≠ 0 → wf w 98 6 = 0 → (t.exe x).token (wf w 104 6) = (s.exe x).token (wf w 104 6) - 1) ∧
          (∀ k, k ≠ wf w 104 6 → k ≠ wf w 98 6 → (t.exe x).token k = (s.exe x).token k) ∧
          (wf w 97 1 = 0 → wf w 98 6 = 0 → t.mem = s.mem ∧ t.rings = s.rings)))

/-- Compares, predicate writes, GETS, branches, END and ENDSLOT (R206, R226, R241, R243, R271, R272, R273). Let a
CTL word be at the head of dispatch, free to go, its record accepted and no HALT waiting. CMP and PSET write one
predicate bit with the condition or IMM and no other bit or register; GETS writes RD with its item. A taken BR
to an instruction that exists moves the program counter by IMM instructions; LOOP takes one from RA and branches
while it is not 0; JR goes to an aligned address or a loaded index. With every earlier instruction complete, END
and ENDSLOT of a cell end its kernel, of a sequencer outside a walk its record; in a walk with no pause due END,
and ENDSLOT at the last slot, end the walk, and ENDSLOT before it goes to the next slot. -/
def Obligations.ControlInstructionsMoveOn : Prop :=
  ∀ (x : Executor) (w : W128) (s : State), Going s x w → RingTakes s x w → NoStopDue s x → fCls w = 0 → fRC w = 0 →
    regsBad x [fRD w, fRA w, fRB w] = false →
    (let a : W64 := (s.exe x).reg (fRA w)
     let b : W64 := (s.exe x).reg (fRB w) + BitVec.ofNat 64 (fIMM w)
     let imm : Int := (BitVec.ofNat 64 (fIMM w)).toInt
     let on : Nat := if x.isCell then s.pcOf x + 1 else (s.pcOf x + 1) % 2 ^ 44
     let lands (n : Nat) : Prop := (∀ c, x = .cell c → (n : Int) = s.pcOf x + imm ∧ n < 1024 ∧ ((s.exe x).entry n).isSome = true) ∧
       (∀ r, x = .seq r → (n : Int) = (s.pcOf x + imm) % 2 ^ 44)
     let predIs (o : Answer) (v : Bool) : Prop := ∃ t : State, o = .next t ∧ (t.exe x).predBit (fSUB w % 8) = v ∧
       (∀ i : Nat, i < 8 → i ≠ fSUB w % 8 → (t.exe x).predBit i = (s.exe x).predBit i) ∧
       (∀ i, (t.exe x).reg i = (s.exe x).reg i) ∧ t.pcOf x = on
     (fOp w = 0x020 → fRD w = 0 → fSUB w % 8 ≠ 0 → fSUB w / 8 < 6 → predIs (exec (.ctlCmp x w) s)
       (match fSUB w / 8 with
        | 0 => decide (a = b) | 1 => decide (a ≠ b) | 2 => a.ult b | 3 => b.ule a | 4 => a.slt b | _ => b.sle a)) ∧
     (fOp w = 0x021 → fRD w = 0 → fRA w = 0 → fRB w = 0 → 0 < fSUB w → fSUB w < 8 → fIMM w < 2 →
       predIs (exec (.ctlPset x w) s) (decide (fIMM w = 1))) ∧
     (fOp w = 0x030 → fRA w = 0 → fRB w = 0 → fIMM w = 0 → fSUB w < 7 → ∃ t : State, exec (.ctlGets x w) s = .next t ∧
       SregsBut s t x (fRD w) ∧ t.pcOf x = on ∧ (fRD w ≠ 0 → t.sreg x (fRD w) = (match x with
         | .seq r => [s.fld .SEQ_STEP_STEP r, s.fld .SEQ_STEP_EPOCH r, s.fld .SEQ_SLOT_INDEX r, s.fld .SEQ_SLOT_MICRO r,
             s.fld .SEQ_SLOT_VSTAGE r, r.val, s.fclk r].getD (fSUB w) 0
         | .cell c => [(s.exe x).ctx.step, (s.exe x).ctx.epoch, (s.exe x).ctx.slot, (s.exe x).ctx.micro, (s.exe x).ctx.vstage,
             c.val, s.fclk c.region].getD (fSUB w) 0) % 2 ^ 64)) ∧
     (fOp w = 0x002 → fRD w = 0 → fRA w = 0 → fRB w = 0 → fSUB w = 0 → ∀ n, lands n →
       ∃ t : State, exec (.ctlBr x w) s = .next t ∧ t.pcOf x = n ∧ (∀ i, (t.exe x).reg i = (s.exe x).reg i)) ∧
     (fOp w = 0x003 → fRD w = 0 → fRB w = 0 → fSUB w = 0 → fRA w ≠ 0 →
       (a - 1 ≠ 0 → ∀ n, lands n → ∃ t : State, exec (.ctlLoop x w) s = .next t ∧ t.pcOf x = n ∧ (t.exe x).reg (fRA w) = a - 1 ∧
         SregsBut s t x (fRA w)) ∧
       (a - 1 = 0 → ∃ t : State, exec (.ctlLoop x w) s = .next t ∧ t.pcOf x = on ∧ (t.exe x).reg (fRA w) = 0 ∧ SregsBut s t x (fRA w))) ∧
     (fOp w = 0x004 → fRD w = 0 → fRB w = 0 → fSUB w = 0 → fIMM w = 0 →
       (if x.isCell then a.toNat < 1024 ∧ ((s.exe x).entry a.toNat).isSome = true else a.toNat % 16 = 0) →
       ∃ t : State, exec (.ctlJr x w) s = .next t ∧ t.pcOf x = (if x.isCell then a.toNat else a.toNat / 16 % 2 ^ 44) ∧
         (∀ i, (t.exe x).reg i = (s.exe x).reg i)) ∧
     ((s.exe x).flights = [] → fRD w = 0 → fRA w = 0 → fRB w = 0 → fSUB w = 0 → fIMM w = 0 → wf w 98 6 = 0 →
       (fOp w = 0x000 → ∀ c, x = .cell c → ∃ t : State, exec (.ctlEnd x w) s = .next t ∧ (t.exe x).running = false ∧
         (∀ j, s.job (s.exe x).job = some j → wf w 97 1 = 0 → (t.job j.id).map (fun (k : Job) => (k.waits, k.count)) =
           some (j.waits.filter (fun n => decide (n ≠ c.val)), j.count + 1))) ∧
       (∀ r, x = .seq r → (s.work r).pauseDue = false →
         (fOp w = 0x000 ∨ fOp w = 0x001 ∧ ((s.work r).walking = false ∨ s.slotCount r ≤ (s.work r).slotK + 1) →
           ∃ t : State, (if fOp w = 0x000 then exec (.ctlEnd x w) s else exec (.ctlEndslot x w) s) = .next t ∧
             t.fld .SEQ_STAT_STATE r = 0 ∧ (t.work r).cur = none ∧ t.fld .SEQ_SLOT_INDEX r = 0xFFFF) ∧
         (fOp w = 0x001 → (s.work r).walking = true → (s.work r).cur.isSome = true → (s.work r).slotK + 1 < s.slotCount r →
           ∃ t : State, exec (.ctlEndslot x w) s = .next t ∧ (t.work r).slotK = (s.work r).slotK + 1 ∧
             (t.work r).cur = (s.work r).cur ∧ t.fld .SEQ_SLOT_INDEX r = ((s.work r).slotK + 1) % 2 ^ 16))))

/-- LD, ST and AMO on a cached line, a line no one holds, a store, and a refused address (R50, R51, R55, R94, R102,
R210, R266, R278). Let a MOV word be at the head of dispatch, free to go, legal, with no HALT waiting, nothing
of its own in flight and, for ST and AMO, no instruction that adds to memory in flight. LD of a readable line
writes RD with its bytes at RA + IMM, zero- or sign-extended: from the executor's copy, from memory when no one
holds the line and its set has room, or from a store of a running block; no byte of memory changes. ST to a line
it owns changes just its bytes of that copy and makes it modified; to a store, just its bytes of memory. AMO on
an owned line with a target that is not poison writes RD with the old value and the copy with the atomic's
result. At a refused or unaligned address LD and AMO write RD := 0, ST writes nothing, a decode error is
recorded for a cell, and the instruction carries UNCORRECTABLE 0x03. Each joins its move queue with the program
counter at the next instruction; other scalar registers stand. -/
def Obligations.ScalarLoadsStoresAndAtomicsReachMemory : Prop :=
  ∀ (x : Executor) (w : W128) (s : State) (a n l off : Nat), Going s x w → NoStopDue s x → fCls w = 1 →
    regsBad x [fRD w, fRA w, fRB w, fRC w] = false → (s.exe x).flights = [] → a = addrRA x w s → l = canonical a / 64 →
    off = canonical a % 64 →
    (let goes (t : State) (st : Nat × Nat) : Prop := (t.exe x).flights.map (fun f => (f.q, f.status, f.detail, f.cls, f.op)) =
         [(moveQueue x, st.1, st.2, 1, fOp w)] ∧ t.pcOf x = (if x.isCell then s.pcOf x + 1 else (s.pcOf x + 1) % 2 ^ 44)
     let storeOk : Prop := s.asleep [(a, n)] = [] ∧ s.rangeFree a n = true ∧ s.storeGone a = false ∧ s.mem.codedAt (l / 64) = none
     (fOp w = 0x010 → fRB w = 0 → fRC w = 0 → fSUB w < 8 → n = 2 ^ (fSUB w % 4) →
       (let loads (v : Nat) : Prop := ∃ t : State, exec (.movLd x w) s = .next t ∧ goes t (0, 0) ∧ t.mem = s.mem ∧ SregsBut s t x (fRD w) ∧
          (fRD w ≠ 0 → t.sreg x (fRD w) = extendLd n ((fSUB w).testBit 2) v)
        (∀ c, s.spot x a n = .line l off → s.cached x.agent l = some c → poisonAt c.poison off n = false →
          (s.dirOf l).isSome = true ∨ s.mem.codedAt (l / 64) = none → loads (c.data.extractLsb' (8 * off) (8 * n)).toNat) ∧
        (s.spot x a n = .line l off → s.cached x.agent l = none → s.dirOf l = none → (s.dirWays l).length < 16 →
          s.victimFor x.agent l = none → s.mem.poison l = 0 → loads ((s.mem.line l).extractLsb' (8 * off) (8 * n)).toNat) ∧
        (s.spot x a n = .store l off → storeOk → poisonAt (s.mem.wordPoison l) off n = false →
          loads ((s.mem.line l).extractLsb' (8 * off) (8 * n)).toNat) ∧
        (s.spot x a n = .refused → x.isCell = true → ∃ t : State, exec (.movLd x w) s = .next t ∧ goes t (0xC0, 3) ∧ t.mem = s.mem ∧
          t.sreg x (fRD w) = 0 ∧ SregsBut s t x (fRD w) ∧ t.regs = (s.refuse (moverOf x).code a false).regs))) ∧
     (fOp w = 0x011 → fRD w = 0 → fRC w = 0 → fSUB w < 4 → n = 2 ^ fSUB w → NoUpdates s →
       (∀ c, s.spot x a n = .line l off → s.cached x.agent l = some c → c.st ≠ .s →
          (s.dirOf l).isSome = true ∨ s.mem.codedAt (l / 64) = none → ∃ t : State, exec (.movSt x w) s = .next t ∧
          goes t (0, 0) ∧ t.mem = s.mem ∧ (∀ i, t.sreg x i = s.sreg x i) ∧ ∃ d, t.cached x.agent l = some d ∧ d.st = .m ∧
          ∀ i : Nat, i < 64 → lineByte d.data i = (if off ≤ i ∧ i < off + n then BitVec.ofNat 8 (s.sreg x (fRB w) / 2 ^ (8 * (i - off)))
            else lineByte c.data i)) ∧
       (s.spot x a n = .store l off → storeOk → ∃ t : State, exec (.movSt x w) s = .next t ∧ goes t (0, 0) ∧
          BytesBut s t (canonical a) n ∧ (∀ i, t.sreg x i = s.sreg x i) ∧
          ∀ i : Nat, i < n → t.mem.byte (canonical a + i) = BitVec.ofNat 8 (s.sreg x (fRB w) / 2 ^ (8 * i))) ∧
       (s.spot x a n = .refused → x.isCell = true → ∃ t : State, exec (.movSt x w) s = .next t ∧ goes t (0xC0, 3) ∧ t.mem = s.mem ∧
          (∀ i, t.sreg x i = s.sreg x i) ∧ t.regs = (s.refuse (moverOf x).code a true).regs)) ∧
     (fOp w = 0x012 → fSUB w < 32 → fSUB w % 16 < 8 → (fSUB w % 16 = 7 → fSUB w < 16) →
       n = (if 16 ≤ fSUB w then 8 else 4) → NoUpdates s →
       (let at' : Atom := ⟨atomOp (fSUB w % 16), decide (16 ≤ fSUB w), Fin.ofNat 64 off, (s.exe x).reg (fRB w), (s.exe x).reg (fRC w)⟩
        (∀ c, s.spot x a n = .line l off → s.cached x.agent l = some c → c.st ≠ .s → atomPoison at' c.poison = false →
          (s.dirOf l).isSome = true ∨ s.mem.codedAt (l / 64) = none → ∃ t : State, exec (.movAmo x w) s = .next t ∧ goes t (0, 0) ∧ t.mem = s.mem ∧
          SregsBut s t x (fRD w) ∧ (fRD w ≠ 0 → t.sreg x (fRD w) = atomOld at' c.data) ∧ ∃ d, t.cached x.agent l = some d ∧ d.st = .m ∧
          atomOld at' d.data = atomValue fadd32 (8 * n) at'.op (atomOld at' c.data) (at'.a.toNat % 2 ^ (8 * n))
            (at'.b.toNat % 2 ^ (8 * n)) % 2 ^ (8 * n) ∧
          ∀ i : Nat, i < 64 → i < off ∨ off + n ≤ i → lineByte d.data i = lineByte c.data i) ∧
        (s.spot x a n = .refused ∨ s.spot x a n = .store l off → ∃ t : State, exec (.movAmo x w) s = .next t ∧ goes t (0xC0, 3) ∧
          t.mem = s.mem ∧ t.sreg x (fRD w) = 0 ∧ SregsBut s t x (fRD w)))))

/-- DWR, DLD and KLD: the executor's own tables, and loads for a sequencer's cells (R207, R210, R213, R214, R224,
R225, R227, R278, R279). Let a MOV word be at the head of dispatch, free to go, legal, its record accepted, no
HALT waiting and nothing in its move queue and none of its instructions in flight writing what is read. DWR
writes doubleword j of a descriptor table entry with RB and leaves the entry's other bytes and all other
entries. DLD at a 64-byte aligned RA + IMM whose records are all readable loads just the n entries it names with
those records. KLD in a cell of a source readable as a whole writes just its entries of the instruction buffer,
each remembering where it came from. These change neither memory nor scalar registers. KLD in a sequencer with
nothing in flight places one load in the inbound queue of each cell its mask names and joins the DMA queue as a
job that waits for those cells. -/
def Obligations.TableMovesLoadDescriptorsAndKernels : Prop :=
  ∀ (x : Executor) (w : W128) (s : State), Going s x w → RingTakes s x w → NoStopDue s x → fCls w = 1 →
    regsBad x [fRD w, fRA w, fRB w, fRC w] = false → fRD w = 0 →
    (let on : Nat := if x.isCell then s.pcOf x + 1 else (s.pcOf x + 1) % 2 ^ 44
     let still (t : State) : Prop := (∀ i, (t.exe x).reg i = (s.exe x).reg i) ∧ (t.exe x).pred = (s.exe x).pred ∧ t.pcOf x = on ∧
       (wf w 97 1 = 0 → wf w 98 6 = 0 → t.mem = s.mem ∧ t.rings = s.rings ∧ t.coh = s.coh)
     (fOp w = 0x018 → fRA w = 0 → fRC w = 0 → fIMM w = 0 → fSUB w < 2048 → s.movesDone x = true →
       ∃ t : State, exec (.movDwr x w) s = .next t ∧ still t ∧
         (∀ i, i ≠ fSUB w % 256 → (t.exe x).descLine i = (s.exe x).descLine i) ∧
         ∀ i : Nat, i < 64 → lineByte ((t.exe x).descLine (fSUB w % 256)) i =
           (if i / 8 = fSUB w / 256 then lineByte (((s.exe x).reg (fRB w)).zeroExtend 512) (i % 8)
            else lineByte ((s.exe x).descLine (fSUB w % 256)) i)) ∧
     (let first := fSUB w % 256
      let n := fSUB w / 256 + 1
      let a := addrRA x w s
      fOp w = 0x019 → fRB w = 0 → fRC w = 0 → first + n ≤ 256 → s.movesDone x = true → a % 64 = 0 → s.rangeFree a (64 * n) = true →
      s.asleep [(a, 64 * n)] = [] → (∀ f ∈ (s.exe x).flights, overlaps f.writes [(a, 64 * n)] = []) →
      (∀ k, k < n → (s.readBytes (a + 64 * k) 64).detail = 0) → ∃ t : State, exec (.movDld x w) s = .next t ∧ still t ∧
        (∀ k, k < n → (t.exe x).descLine (first + k) = lineOf (s.readBytes (a + 64 * k) 64).bytes) ∧
        (∀ i : Nat, i < first ∨ first + n ≤ i → (t.exe x).descLine i = (s.exe x).descLine i)) ∧
     (let n := fIMM w
      let src := s.sreg x (fRC w)
      fOp w = 0x01A → 0 < n → fSUB w + n ≤ 1024 →
      (x.isCell = true → fRA w = 0 → fRB w = 0 → s.movesDone x = true → s.rangeFree src (16 * n) = true →
        s.asleep [(src, 16 * n)] = [] → (∀ f ∈ (s.exe x).flights, overlaps f.writes [(src, 16 * n)] = []) →
        (s.readBytes src (16 * n)).detail = 0 → ∃ t : State, exec (.movKld x w) s = .next t ∧ still t ∧
          (∀ j, j < n → (t.exe x).entry (fSUB w + j) =
            some ⟨BitVec.ofNat 128 (fieldAt (s.readBytes src (16 * n)).bytes (16 * j) 16), fSUB w, src⟩) ∧
          (∀ k, k < fSUB w ∨ fSUB w + n ≤ k → (t.exe x).entry k = (s.exe x).entry k)) ∧
      (∀ r, x = .seq r → (s.exe x).flights = [] → (let cells := maskCells r (s.sreg x (fRA w)) (s.sreg x (fRB w))
        ∃ t : State, exec (.movKld x w) s = .next t ∧ t.pcOf x = on ∧ t.mem = s.mem ∧
          t.jobs = s.jobs ++ [{
            id := s.nextJob, region := r.val, kind := .load, waits := cells.map (·.val), cells := cells.map (·.val) }] ∧
          (∀ c ∈ cells, .load s.nextJob c (fSUB w) n src ∈ (t.blk c.block).inq) ∧
          (t.exe x).flights.map (fun f => (f.q, f.job)) = [(.dma, some s.nextJob)]))))

/-- VEC, CNV and RNG on operands in reach: their results, their COUNT, and nothing else written (R133, R136, R149,
R174, R176, R210, R260, R262, R286, R287, R296, R298). Let a VEC, CNV or RNG word be legal and free to run in a
cell with nothing in flight, its operands in its stores. It joins the vector queue with COUNT the elements of D.
With all rings off and plain memory (no coded slot, no failed expander block, nothing in flight that adds to
memory), no byte outside D (and the residual a VEC names) changes. For a one-dimensional FP32 D computed in FP32
without residual, element i of D holds UN of A's element, BIN or CMP of A's and B's (or the immediate), FMA of
the three, SEL of A or B by the mask bit, for CVT A's element, for MAPPLY it or zero by the mask; UNIF is 24
random bits scaled by 2^-24, NORMAL R636's value, DROP A scaled where kept, BITS (INT32) the first word; RED
reduces A's dimension 0 in ascending order. A BIT1 D of MASK, CMP and DROP holds the bit. -/
def Obligations.ElementwiseInstructionsWriteTheirDestination : Prop :=
  ∀ (c : Cell) (w : W128) (s : State), PlainMemory s → RingsOff s →
    (let x : Executor := .cell c
     let sn := s.subn x
     let d := (s.descr x (fD w)).plain
     let da := s.descr x (fA w)
     let db := s.descr x (fB w)
     let dc := s.descr x (fC w)
     let legal (n : Need) : Prop := illegalDetail (s.exe x) x w n = 0
     let a (i : Nat) : El := (s.load sn da).at [i, 0, 0, 0, 0]
     let b (i : Nat) : El := (if vImmB w then immTens sn w else s.load sn db).at [i, 0, 0, 0, 0]
     let b' (i : Nat) : El := (s.load sn db).at [i, 0, 0, 0, 0]
     let m (i : Nat) : El := (s.load sn dc).at [i, 0, 0, 0, 0]
     let st (n : Machine.Num) : Machine.Num := f32.step (fRm w) (fSAT w) n
     let res : List Desc := if vRes w then [dc.plain] else []
     let done (o : Answer) (dests : List Desc) (g : Nat → Out) : Prop := ∃ t : State, o = .next t ∧ Joined s t x w .vector d.count ∧
       TensorsBut s t dests ∧ (d.fmt = 0 → d.ndim = 1 → ∀ i : Nat, i < d.extent 0 →
         leNat (t.mem.raw (d.base + 4 * i) 4) = (putPlain 0 (fRm w) (fSAT w) sn (g i)).bits) ∧
       (d.fmt = 0x1C → d.ndim = 1 → ∀ i : Nat, i < d.extent 0 →
         (t.mem.byte (d.base + i / 8)).getLsbD (i % 8) = decide ((putPlain 0x1C (fRm w) (fSAT w) sn (g i)).bits = 1))
     let vec (op : Nat) (n : Need) (named useC : Bool) (o : Answer) (g : Nat → Out) : Prop :=
       fCls w = 3 → fOp w = op → legal n → vBsu w = false → vRes w = false →
         (let ds := d :: da :: ((if named then [db] else []) ++ (if useC then [dc] else []))
          EngineGoing s c w false ds → widest ((ds.map (·.fmt)).filter fmtArith) = f32 → done o [d] g)
     vec 0 (vecNeed x w s 15 false false true false false false) false false (exec (.vecUn x w) s)
       (fun i => mkOut (unFn f32 (fRm w) (fSAT w) (vFn w) (st (a i).num)) [a i]) ∧
     vec 1 (vecNeed x w s 6 true false true false false false) (!vImmB w) false (exec (.vecBin x w) s)
       (fun i => mkOut (binFn f32 (fRm w) (fSAT w) (vFn w) (st (a i).num) (st (b i).num)) [a i, b i]) ∧
     vec 2 (vecNeed x w s 1 true true false false false false) (!vImmB w) true (exec (.vecFma x w) s)
       (fun i => mkOut (st (((st (a i).num).mul (st (b i).num)).add (st (m i).num))) [a i, b i, m i]) ∧
     vec 3 (vecNeed x w s 6 true false false true false false) (!vImmB w) false (exec (.vecCmp x w) s)
       (fun i => mkOut (cmpFn (vFn w) (st (a i).num) (st (b i).num)) [a i, b i]) ∧
     vec 4 (vecNeed x w s 1 true true false false true false) (!vImmB w) true (exec (.vecSel x w) s)
       (fun i => { mkOut (st (if (m i).num.isZero then (b i).num else (a i).num)) [a i, b i, m i] with
         nanIn := (if (m i).num.isZero then (b i).num else (a i).num).isNan }) ∧
     vec 5 (vecNeed x w s 4 false false true false false (decide ((s.descr x (fD w)).extent 0 ≠ 1))) false false (exec (.vecRed x w) s)
       (fun _ => (let els := (List.range (da.extent 0)).map (fun j => a j)
         { mkOut (redFn f32 (fRm w) (fSAT w) (vFn w) (els.map (fun e => st e.num))) els with a := 0, b := 0 })) ∧
     (fCls w = 3 → fOp w = 0 ∨ fOp w = 1 ∨ fOp w = 5 → vBsu w = false → vRes w = true → vImmB w = false →
       (let n := if fOp w = 0 then vecNeed x w s 15 false false true false false false
          else if fOp w = 1 then vecNeed x w s 6 true false true false false false
          else vecNeed x w s 4 false false true false false (decide ((s.descr x (fD w)).extent 0 ≠ 1))
        legal n → EngineGoing s c w false ([d, da, dc.plain] ++ (if fOp w = 1 then [db] else [])) →
        ∃ t : State, (if fOp w = 0 then exec (.vecUn x w) s else if fOp w = 1 then exec (.vecBin x w) s else exec (.vecRed x w) s) = .next t ∧
          Joined s t x w .vector d.count ∧ TensorsBut s t (d :: res))) ∧
     (fCls w = 5 → fC w = 0 → DescOk s x (fD w) → DescOk s x (fA w) → fmtArith da.fmt = true → rmBad w = false →
       (fOp w = 0 → wf w 0 62 = 0 → fB w = 0 → fmtArith d.fmt = true → EngineGoing s c w false [d, da] →
         done (exec (.cnvCvt x w) s) [d] (fun i => mkOut (a i).num [a i])) ∧
       (fOp w = 1 → wf w 0 56 = 0 → vFn w ≤ 1 → fB w = 0 → d.fmt = 0x1C → EngineGoing s c w false [d, da] →
         done (exec (.cnvMask x w) s) [d] (fun i => mkOut (cmpFn (if vFn w = 0 then 1 else 4) (a i).num (.fin false 0 0)) [a i])) ∧
       (fOp w = 2 → wf w 0 62 = 0 → DescOk s x (fB w) → db.fmt = 0x1C → fmtArith d.fmt = true → EngineGoing s c w false [d, da, db] →
         done (exec (.cnvMapply x w) s) [d] (fun i => (let v : Machine.Num := if (b' i).num.isZero then .fin false 0 0 else (a i).num
           { mkOut v [a i, b' i] with nanIn := v.isNan })))) ∧
     (fCls w = 6 → fB w = 0 → fC w = 0 → DescOk s x (fD w) → rmBad w = false →
       (fOp w = 0 → fA w = 0 → wf w 0 54 = 0 → fmtArith d.fmt = true → EngineGoing s c w false [d] →
         done (exec (.rngUnif x w) s) [d] (fun i => mkOut (.fin false ((s.rngWords x w i).1 / 256) (-24)) [])) ∧
       (fOp w = 1 → fA w = 0 → wf w 0 54 = 0 → fmtArith d.fmt = true → EngineGoing s c w false [d] →
         done (exec (.rngNormal x w) s) [d] (fun i => mkOut (normalOf (fRm w) (s.rngWords x w i).1 (s.rngWords x w i).2.1) [])) ∧
       (fOp w = 2 → fA w = 0 → wf w 0 54 = 0 → d.fmt = 0x0B → EngineGoing s c w false [d] →
         ∃ t : State, exec (.rngBits x w) s = .next t ∧ Joined s t x w .vector d.count ∧ TensorsBut s t [d] ∧
           (d.ndim = 1 → ∀ i : Nat, i < d.extent 0 → leNat (t.mem.raw (d.base + 4 * i) 4) = (s.rngWords x w i).1 % 2 ^ 32)) ∧
       (fOp w = 3 → d.fmt = 0x1C → fA w = 0 → wf w 0 30 = 0 → EngineGoing s c w false [d] →
         done (exec (.rngDrop x w) s) [d] (fun i =>
           mkOut (if wf w 30 24 ≤ (s.rngWords x w i).1 / 256 then Machine.Num.one else .fin false 0 0) [])) ∧
       (fOp w = 3 → fmtArith d.fmt = true → fmtArith da.fmt = true → wf w 0 30 = 0 → DescOk s x (fA w) → EngineGoing s c w false [d, da] →
         done (exec (.rngDrop x w) s) [d] (fun i => (let r := (widest [d.fmt, da.fmt]).step (fRm w) (fSAT w)
           let k := f32.step (fRm w) false ((Machine.Num.fin false 1 24).div (.fin false (2 ^ 24 - wf w 30 24) 0))
           let keep := decide (wf w 30 24 ≤ (s.rngWords x w i).1 / 256)
           { mkOut (if keep then r ((r (a i).num).mul k) else .fin false 0 0) [a i] with nanIn := keep && (a i).num.isNan })))))

/-- MM and the six NRM instructions: results, COUNT, both queues, and nothing else written (R144, R146, R178, R211,
R260, R281, R282, R284, R290, R291, R292, R294). Let an MMA or NRM word be legal and free to run in a cell with
nothing in flight, its operands in its stores, all rings off and memory plain (no coded slot, no failed expander
block, nothing in flight that adds to it). It joins the matrix queue, an NRM the vector queue with it, with
COUNT the tiles of D (for a residual of C, or of C and its narrow copy together) for MM and the rows for NRM,
and no byte outside its destinations changes: D, or C and the narrow copy of a residual MM; D with its
statistics records; the gradients NORMB and ATTB add to. For a one-element FP32 D with RSC 0 that does not
overflow, MM in MODE 0 writes the accumulated products of its k elements, scaled by OSCALE and rounded once to
D. STAT of one row writes that row's record of its KIND. RMSNORM of one row into FP32 writes x times rho times
the gain. -/
def Obligations.MatrixAndNormalisingInstructionsComplete : Prop :=
  ∀ (c : Cell) (w : W128) (s : State), PlainMemory s → RingsOff s →
    (let x : Executor := .cell c
     let sn := s.subn x
     let rm := fRm w
     let dd := (s.descr x (fD w)).plain
     let da := s.descr x (fA w)
     let db := s.descr x (fB w)
     let c0 := s.descr x (fC w)
     let tiles (d : Desc) : Nat := ceilDiv (d.extent 0) 64 * ceilDiv (d.extent 1) 64 * (d.extent 2 * d.extent 3 * d.extent 4)
     let legal (n : Need) : Prop := illegalDetail (s.exe x) x w n = 0
     let runs (o : Answer) (dests srcs : List Desc) (count : Nat) (more : State → Prop) : Prop :=
       EngineGoing s c w false (dests ++ srcs) → ∃ t : State, o = .next t ∧ Joined s t x w .matrix count ∧ TensorsBut s t dests ∧
         (∀ g ∈ (t.exe x).flights, g.both = decide (fCls w = 4)) ∧ more t
     (fCls w = 2 → fOp w = 0 → legal (mmNeed x w s) →
       (wf w 60 2 = 0 → runs (exec (.mmaMm x w) s) [dd] [da, db] (tiles dd) (fun t =>
         (let i : MmIn := ⟨s.load sn da, s.load sn db, da.orient, db.orient, da.fmt, db.fmt, (s.load sn da).kExtent da.orient, rm⟩
          let v := i.acc (.fin false 0 0) 0 0 0 (signedOf 8 (wf w 51 8))
          dd.fmt = 0 → dd.ndim = 1 → dd.extent 0 = 1 → s.fld .NUM_CTRL_RSC c.region = 0 → v.isInf = false →
            valueOverflows 0 rm v = false → i.bad 0 0 0 = 0 → sn = false →
            leNat (t.mem.raw dd.base 4) = (f32.encode rm (fSAT w) v).bits))) ∧
       (wf w 60 2 = 1 → runs (exec (.mmaMm x w) s) [dd] [da, db, c0] (tiles dd) (fun _ => True)) ∧
       (wf w 60 2 = 2 → runs (exec (.mmaMm x w) s) (c0.plain :: (if wf w 59 1 = 1 then [dd] else [])) [da, db]
         (tilesOf (if wf w 59 1 = 1 then (List.range 5).map (fun k => max (c0.extent k) (dd.extent k)) else c0.plain.extents)).length
         (fun _ => True))) ∧
     (fCls w = 4 →
       (let at' (k : Nat) : Desc := s.descr x (fA w + k)
        let ln := nKind w == 1
        let recs (d : Desc) (rows : Nat) : Desc := (statDesc d rows).plain
        (fOp w = 0 → legal (nrmNeed x w s true false false [0] [0] []) →
          runs (exec (.nrmStat x w) s) [recs (s.descr x (fD w)) (at' 0).rows] [at' 0] (at' 0).rows (fun t =>
            (let els := (s.load sn (at' 0)).els
             let r := rowRec rm (nKind w) (nImm s x w) (nums rm els)
             let out (v : Machine.Num) : Nat := (putPlain 0 rm false sn ⟨v, badOf els, false, 0, 0⟩).bits
             (at' 0).rows = 1 → els.length = (at' 0).extent 0 →
               leNat (t.mem.raw (s.descr x (fD w)).base 4) = out r.1 ∧ leNat (t.mem.raw ((s.descr x (fD w)).base + 4) 4) = out r.2))) ∧
        (fOp w = 1 → legal (nrmNeed x w s true false false ([0, 1] ++ (if ln then [2] else []) ++ [3])
            ([0, 1] ++ (if ln then [2] else []) ++ [3]) []) →
          runs (exec (.nrmNorm x w) s) [dd, recs (at' 3) dd.rows] ([at' 0, at' 1] ++ (if ln then [at' 2] else [])) dd.rows (fun t =>
            (let row := (s.load sn (at' 0)).row (dd.extent 0) [0, 0, 0, 0]
             let r := rowRec rm 2 (nImm s x w) (nums rm row)
             let g (i : Nat) : El := (s.load sn (at' 1)).at [i, 0, 0, 0, 0]
             let a (i : Nat) : El := (s.load sn (at' 0)).at [i, 0, 0, 0, 0]
             nKind w = 2 → dd.fmt = 0 → dd.ndim = 1 → (at' 3).base + 8 ≤ dd.base → ∀ i : Nat, i < dd.extent 0 →
               leNat (t.mem.raw (dd.base + 4 * i) 4) = (putPlain 0 rm (fSAT w) sn
                 (mkOut (st32 rm ((st32 rm ((st32 rm (a i).num).mul r.1)).mul (st32 rm (g i).num))) (row ++ [g i, zeroEl]))).bits))) ∧
        (fOp w = 2 → legal (let reads := (if nFuse w then [] else [0]) ++ [1, 2] ++ (if nFuse w then [6, 7] else [])
            let n := nrmNeed x w s true false true (reads ++ [3, 4] ++ (if ln then [5] else [])) (3 :: reads) ([4] ++ (if ln then [5] else []))
            { n with bad := n.bad || (nFuse w && (!fmtMatrix (at' 6).fmt || !fmtMatrix (at' 7).fmt)) }) →
          runs (exec (.nrmNormb x w) s) (dd :: (at' 4).plain :: (if ln then [(at' 5).plain] else []))
            ((if nFuse w then [at' 6, at' 7] else [at' 0]) ++ [at' 1, at' 2, statDesc (at' 3) dd.rows]) dd.rows (fun _ => True)) ∧
        (fOp w = 3 → legal (let n := nrmNeed x w s false true false [0, 1, 2, 3] [0, 1, 2, 3] []
            { n with bad := n.bad || [0, 1, 2].any (fun k => !fmtMatrix (at' k).fmt) }) →
          runs (exec (.nrmAttf x w) s) [dd, recs (at' 3) dd.rows] [at' 0, at' 1, at' 2] dd.rows (fun _ => True)) ∧
        (fOp w = 4 → legal (let n := nrmNeed x w s false true false [0, 1, 2, 3, 4, 5, 6, 7] [0, 1, 2, 3, 4, 5] [6, 7]
            { n with bad := n.bad || [0, 1, 2, 4].any (fun k => !fmtMatrix (at' k).fmt) }) →
          runs (exec (.nrmAttb x w) s) [dd, (at' 6).plain, (at' 7).plain]
            [at' 0, at' 1, at' 2, at' 3, at' 4, statDesc (at' 5) dd.rows] dd.rows (fun _ => True)) ∧
        (fOp w = 5 → legal (nrmNeed x w s false false false [0, 1, 2] [0, 1, 2] []) →
          runs (exec (.nrmSmxb x w) s) [dd] [at' 0, at' 1, statDesc (at' 2) dd.rows] dd.rows (fun _ => True)))))

/-- COPY, GATHER, SCATADD, PUT, GET, HWR and HRD: what they write, send and report (R60, R210, R262, R264, R274,
R275, R277, R445, R516, R517, R524, R634). Let a tensor MOV be legal and free to run with nothing of its
executor in flight, its lines free and its stores awake. With no line in a cache, plain memory (no coded slot,
no failed expander block, nothing in flight that adds to memory) and, for COPY, no slot walk, COPY, GATHER and
SCATADD join the move queue and change no byte outside D; COPY reports the bytes it writes and copies a one-row
plain tensor byte by byte, GATHER reports the rows of D that are written and fetches the row of A that its index
names, SCATADD adds a one-element row of A to the row its index names by one FP32 addition. PUT and GET join it
and, while the device has no ID, leave waiting one WR or RDREQ item for each part, to the device ID in RX under
the layout epoch of the remote tensor, touching no memory. HWR and HRD to a port that is off or has no HOST_RW
gate open end at once with LINK_LOST or HOST_EPOCH, else they join it too. -/
def Obligations.TensorMovesGoOnTheirWay : Prop :=
  ∀ (x : Executor) (w : W128) (s : State), fCls w = 1 →
    (let q := moveQueue x
     let d := s.descr x (fD w)
     let a := s.descr x (fA w)
     let b := s.descr x (fB w)
     let legal (n : Need) : Prop := illegalDetail (s.exe x) x w n = 0
     let still : Prop := PlainMemory s ∧ s.coh.dir = []
     (fOp w = 0 → legal (moveNeed w [fD w, fA w] (fB w != 0 || fC w != 0) (d.fmt != a.fmt || (d.compressed && !a.compressed))) →
       MoveGoing s x w [d, a] → still → (∀ r, x = .seq r → (s.work r).walking = false) → a.compressed = false →
       ∃ t : State, exec (.movCopy x w) s = .next t ∧ Joined s t x w q (s.landedAll d) ∧ TensorsBut s t [d] ∧
         (d.ndim = 1 → a.ndim = 1 → d.extent 0 = a.extent 0 → fmtMx d.fmt = false → fmtBits d.fmt % 8 = 0 →
           overlaps d.spans a.spans = [] → (∀ y ∈ s.byteList a.base a.rowBytes, y.2 = 0) →
           ∀ i : Nat, i < d.rowBytes → (s.place (canonical (d.base + i))).memory = true → s.storeGone (d.base + i) = false →
             t.mem.byte (canonical (d.base + i)) = s.mem.byte (canonical (a.base + i)))) ∧
     (fOp w = 5 → legal (moveNeed w [fD w, fA w, fB w] (fC w != 0) (d.fmt != a.fmt || b.fmt != 0x0B)) →
       MoveGoing s x w [d.plain, a, b] → still →
       ∃ t : State, exec (.movGather x w) s = .next t ∧
         Joined s t x w q (s.landedRows d.plain ((List.range d.rows).map (unrank (d.extents.drop 1)))) ∧ TensorsBut s t [d.plain] ∧
         (∀ e, (s.loadRaw b)[0]? = some e → e.bad = 0 → 0 ≤ e.int32 → e.int32 < (a.extent 1 : Int) → a.compressed = false → d.fmt = 0 →
           d.ndim = 1 → a.ndim = 2 → d.extent 0 = a.extent 0 → overlaps d.plain.spans (a.spans ++ b.spans) = [] →
           (∀ y ∈ s.byteList (a.base + e.int32.toNat * a.stride 1) a.rowBytes, y.2 = 0) →
           ∀ i : Nat, i < d.rowBytes → (s.place (canonical (d.base + i))).memory = true → s.storeGone (d.base + i) = false → t.mem.byte (canonical (d.base + i)) =
             s.mem.byte (canonical (a.base + e.int32.toNat * a.stride 1 + i)))) ∧
     (fOp w = 6 → legal (moveNeed w [fD w, fA w, fB w] (fC w != 0) (d.fmt != 0 || a.fmt != 0 || b.fmt != 0x0B)) →
       MoveGoing s x w [d.plain, a, b] → still →
       ∃ (t : State) (n : Nat), exec (.movScatadd x w) s = .next t ∧ n ≤ a.rows ∧ Joined s t x w q n ∧ TensorsBut s t [d.plain] ∧
         (∀ e v, (s.loadRaw b)[0]? = some e → s.loadRaw a = [v] → e.bad = 0 → v.bad = 0 → 0 ≤ e.int32 → e.int32 < (d.extent 1 : Int) →
           d.ndim = 2 → d.extent 0 = 1 → overlaps d.plain.spans (a.spans ++ b.spans) = [] →
           (let at' := d.base + e.int32.toNat * d.stride 1
            (∀ y ∈ s.byteList at' 4, y.2 = 0) → n = 1 ∧ leNat (t.readBytes at' 4).bytes =
              fadd32 (leNat (s.readBytes at' 4).bytes) v.bits % 2 ^ 32))) ∧
     (fOp w = 1 → legal (peerNeed x w s) → MoveGoing s x w [a] → s.mem.coded = [] → s.net.items = [] →
       ∃ (t : State) (n : Nat), exec (.movPut x w) s = .next t ∧ Joined s t x w q n ∧ (s.devValid = false → t.mem = s.mem ∧
         (∀ g ∈ (t.exe x).flights, g.items = t.net.items.length) ∧ ∀ it ∈ t.net.items, it.st = .waiting ∧ it.x.ttype = 1 ∧
           it.x.dst = s.sreg x (wf w 53 5) % 16384 ∧ it.x.epoch = d.epoch ∧ it.exec = x.code)) ∧
     (fOp w = 2 → legal (peerNeed x w s) → MoveGoing s x w [d.plain] → s.net.items = [] →
       ∃ (t : State) (n : Nat), exec (.movGet x w) s = .next t ∧ Joined s t x w q n ∧ (s.devValid = false → t.mem = s.mem ∧
         (∀ g ∈ (t.exe x).flights, g.items = t.net.items.length) ∧ ∀ it ∈ t.net.items, it.st = .waiting ∧ it.x.ttype = 2 ∧
           it.x.dst = s.sreg x (wf w 53 5) % 16384 ∧ it.x.epoch = a.epoch ∧ it.exec = x.code)) ∧
     (let p := (hostTarget x w s).2
      let shut (t : State) : Prop := t.hosts = s.hosts ∧ ∀ g ∈ (t.exe x).flights, g.items = 0 ∧ g.forced = true ∧
        some (g.status, g.detail) = (if s.portOn p then some (0xC3, 0x04) else some (0xC2, 0x10))
      (fOp w = 3 → legal { rsvd := wf w 0 51 != 0 || fD w != 0 || fB w != 0 || fC w != 0 || regsBad x [wf w 53 5], descs := [fA w] } →
        MoveGoing s x w [a] → s.mem.coded = [] → ∃ (t : State) (n : Nat), exec (.movHwr x w) s = .next t ∧ Joined s t x w q n ∧
          (s.portOn p = false ∨ s.gateOpen p = false → shut t)) ∧
      (fOp w = 4 → legal { rsvd := wf w 0 51 != 0 || fA w != 0 || fB w != 0 || fC w != 0 || regsBad x [wf w 53 5], descs := [fD w] } →
        MoveGoing s x w [d.plain] → ∃ (t : State) (n : Nat), exec (.movHrd x w) s = .next t ∧ Joined s t x w q n ∧
          (s.portOn p = false ∨ s.gateOpen p = false → shut t))))

/-- UPD_GSQ, APPLY and ROWS: the sum of squares, the check of the shard record, the update and the record's last
write (R188, R303, R304, R376, R377, R381, R382, R383, R386, R388, R390, R402). Let a UPD word be legal and free
to run in a cell with nothing in flight, its operands in reach and their lines free, its group set up and S
readable, with plain memory, no line in a cache and all rings off. Each joins the vector queue. A record that is
TORN, or for APPLY one whose COUNT does not precede the step, ends the instruction with 0xC0 detail 0x0B, or
0x81 and the record's COUNT, and no byte changes. With BSU, operands column by column and BSU_EN set, it is a
bank-side pass: the record is begun (TORN, PEND the step) and no other byte changes yet. Else GSQ, COUNT 1,
changes no byte outside D and writes to D the sum of the squares of A; APPLY and ROWS change no byte outside D,
their state tensors, the copy, the shard record and, for ROWS, the counters of the group's rows, and the record
ends with COUNT the step, TORN clear and PEND 0. APPLY's COUNT is D's elements; under SIGN it writes the FP32
momentum of each element of a one-dimensional shard as R388 gives it. -/
def Obligations.UpdatesFollowTheirShardRecord : Prop :=
  ∀ (c : Cell) (w : W128) (s : State) (e : List Byte), fCls w = 9 → PlainMemory s → s.coh.dir = [] → RingsOff s →
    (let x : Executor := .cell c
     let sn := s.subn x
     let d := (s.descr x (fD w)).plain
     let dr := s.descr x (fD w + 1)
     let da := s.descr x (fA w)
     let dc := (s.descr x (fC w)).plain
     let db := s.descr x (fB w)
     let g := Group0.ofBytes e
     let copy : List Desc := if uCopy w then [dc] else []
     let got := s.readBytes dr.base 64
     let step := (s.exe x).ctx.step
     let legal (n : Need) : Prop := illegalDetail (s.exe x) x w n = 0
     let free (a n : Nat) : Prop := s.rangeFree a n = true ∧ s.asleep [(a, n)] = []
     let word (t : State) (a n : Nat) : Nat := leNat (t.readBytes a n).bytes
     let same (t : State) : Prop := ∀ p, t.mem.byte p = s.mem.byte p
     let ended (t : State) (o : Nat × Nat) : Prop := ∀ f ∈ (t.exe x).flights, f.status = o.1 ∧ f.detail = o.2
     let pass (fits : Bool) : Bool := uBsu w && fits && s.flag .NMS_CTRL_BSU_EN c.region
     let record (t : State) (n : Nat) (rows fits : Bool) : Prop :=
       (got.detail ≠ 0 → same t ∧ ended t (0xC0, got.detail)) ∧
       (got.detail = 0 → (∀ o k, shardCheck got.bytes step rows = some (o, k) → same t ∧ ended t o ∧ n = k) ∧
         (shardCheck got.bytes step rows = none →
           (pass fits = true → n = 0 ∧ TensorsBut s t [dr] ∧ word t (dr.base + 24) 6 = step % 2 ^ 48 ∧ word t (dr.base + 6) 1 % 2 = 1 ∧
             ∀ f ∈ (t.exe x).flights, ∃ p, f.pass = some p ∧ p.word = w) ∧
           (pass fits = false → word t dr.base 6 = step % 2 ^ 48 ∧ word t (dr.base + 6) 1 % 2 = 0 ∧ word t (dr.base + 24) 6 = 0)))
     (fOp w = 0 → legal { rsvd := wf w 0 53 != 0 || uPgrp w != 0 || fB w != 0 || fC w != 0, descs := [fD w, fA w], dest := some (fD w)
                          bad := (s.descr x (fD w)).fmt != 0 || (s.descr x (fD w)).count != 1 || !fmtGrad (s.descr x (fA w)).fmt } →
       EngineGoing s c w (uBsu w) [d, da] →
       ∃ (t : State) (n : _), exec (.updGsq x w) s = .next t ∧ Joined s t x w .vector n ∧
         (pass da.inColumns = true → n = 0 ∧ same t ∧ ∀ f ∈ (t.exe x).flights, ∃ p, f.pass = some p ∧ p.word = w) ∧
         (pass da.inColumns = false → n = 1 ∧ TensorsBut s t [d] ∧
           (d.ndim = 1 → (let els := (s.load sn da).els
             word t d.base 4 = (putPlain 0 (fRm w) (fSAT w) sn
               { mkOut (redFn f32 (fRm w) (fSAT w) 1 (nums (fRm w) els)) els with b := 0 }).bits)))) ∧
     (s.group? (uPgrp w) = some e → free g.normPtr 4 →
       (fOp w = 1 → legal (updNeed x w s (fun g => (g.rule == 0 || g.rule == 2) && !g.rowlazy) (fun g => stateEntries g (fB w))
           (fun g => stateOk s x (s.descr x (fD w)) g (fB w) && sameShape da (s.descr x (fD w)))) →
         (let sts := (stateEntries g (fB w)).map (fun i => (s.descr x i).plain)
          let fits := !da.compressed && sameColumn d (d :: sts ++ copy) [da] 0
          EngineGoing s c w (uBsu w) (d :: sts ++ copy ++ [dr, da]) →
          ∃ (t : State) (n : _), exec (.updApply x w) s = .next t ∧ Joined s t x w .vector n ∧ TensorsBut s t (dr :: d :: sts ++ copy) ∧
            record t n false fits ∧
            (got.detail = 0 → shardCheck got.bytes step false = none → pass fits = false → n = d.count ∧
              (∀ dm, sts = [dm] → copy = [] → dm.fmt = 0 → d.ndim = 1 → dm.ndim = 1 → (s.readBytes g.normPtr 4).detail = 0 →
                overlaps dr.spans (d.spans ++ da.spans ++ dm.spans) = [] → overlaps d.spans dm.spans = [] → ∀ i : Nat, i < d.extent 0 →
                (let idx := [i, 0, 0, 0, 0]
                 let a := (s.load sn da).same idx
                 let m := (s.load sn dm).same idx
                 let wt := (s.load sn d).same idx
                 let u := updConst sn g (word s g.normPtr 4)
                 word t (dm.base + 4 * i) 4 = (putPlain 0 (momentRm w) (fSAT w) sn
                   (mkOut (signRule u wt.num m.num a.num).m [a, m, zeroEl, wt])).bits))))) ∧
       (fOp w = 4 → legal (updNeed x w s (fun g => g.rowlazy) (fun g => fB w :: stateEntries g (fD w + 2))
           (fun g => stateOk s x (s.descr x (fD w)) g (fD w + 2) && db.fmt == 0x0B && da.extent 0 == d.extent 0 && da.extent 1 == db.count &&
             (List.range 3).all (fun k => da.extent (k + 2) == d.extent (k + 2)))) →
         (let sts := (stateEntries g (fD w + 2)).map (fun i => (s.descr x i).plain)
          let first := ((s.upd.held (uPgrp w)).map (·.first)).getD 0
          let fits := rowsFits d da (d :: sts ++ copy) (s.loadRaw db)
          (∀ h, s.upd.held (uPgrp w) = some h → free (s.rcBase + 8 * h.first) (8 * h.count)) →
          EngineGoing s c w (uBsu w) (d :: sts ++ copy ++ [dr, da, db]) →
          ∃ (t : State) (n : _), exec (.updRows x w) s = .next t ∧ Joined s t x w .vector n ∧ record t n true fits ∧
            (∀ p, (∀ d' ∈ dr :: d :: sts ++ copy, ∀ r ∈ d'.spans, ∀ i : Nat, i < r.2 → canonical (r.1 + i) ≠ p) →
              (∀ j, j < 8 * g.rcRows → canonical (s.rcBase + 8 * first + j) ≠ p) → t.mem.byte p = s.mem.byte p)))))

/-- UPD_ORTHO, UPD_PRECOND and TEAM_BARRIER: waiting in the vector queue, the phases, the record, and a lost cell
(R188, R304, R383, R391, R393, R394, R395). Let a legal UPD_ORTHO or UPD_PRECOND word be free to run in a cell
with nothing in flight, its operands in reach and its group set up: outside a rerun it joins the vector queue
with COUNT 0, one item outstanding and its team operation at phase 0; in a rerun it is done with 0xC0 and the
read's detail, 0x81 and the record's COUNT when that is the step, 0x0B when the record is TORN, else 0x0C.
Neither changes a byte. TEAM_BARRIER changes nothing while no cell of the region waits, or while not every cell
of the team waits with the same instruction at the same phase. When the team lost a cell, each of its waiting
cells is done with 0xC0 detail 0x0C and memory stands. At phase 0 a record that passes its check is begun and
every cell of the team goes to phase 1; an elementwise phase of ORTHO that the bank-side units can run becomes a
pass of the cell of rank 0; at the last phase, run without them on plain operands, the record ends with COUNT
the step, and every cell of the team is done with COUNT D's elements. -/
def Obligations.TeamsStepAtTheirBarrier : Prop :=
  (∀ (c : Cell) (w : W128) (s : State) (e : List Byte), fCls w = 9 → RingsOff s → s.group? (uPgrp w) = some e →
    (let x : Executor := .cell c
     let d := s.descr x (fD w)
     let da := s.descr x (fA w)
     let dr := s.descr x (fD w + 1)
     let b (i : Nat) : Desc := s.descr x (fB w + i)
     let rows := d.extent 1
     let cols := d.extent 0
     let m := min rows cols
     let n := max rows cols
     let got := s.readBytes dr.base 64
     let step := (s.exe x).ctx.step
     let copy : List Desc := if uCopy w then [(s.descr x (fC w)).plain] else []
     let joins (o : Answer) (works : List Desc) : Prop := s.rangeFree (Group0.ofBytes e).normPtr 4 = true →
       s.asleep [((Group0.ofBytes e).normPtr, 4)] = [] →
       EngineGoing s c w (uBsu w) (d.plain :: works ++ copy ++ [dr, da]) →
       ∃ t k, o = .next t ∧ Joined s t x w .vector k ∧ (∀ p, t.mem.byte p = s.mem.byte p) ∧
         ((s.exe x).rerun = false → k = 0 ∧ ∀ f ∈ (t.exe x).flights, f.items = 1 ∧ f.status = 0 ∧ ∃ q, f.team = some q ∧ q.word = w ∧
           q.entry = e ∧ q.phase = 0) ∧
         ((s.exe x).rerun = true → ∀ f ∈ (t.exe x).flights, f.items = 0 ∧ f.team = none ∧
           (f.status, f.detail, k) = (if got.detail ≠ 0 then (0xC0, got.detail, 0)
             else if fieldAt got.bytes 0 6 = step then (0x81, 0, step)
             else if (fieldAt got.bytes 6 1).testBit 0 then (0xC0, 0x0B, 0) else (0xC0, 0x0C, 0)))
     (fOp w = 2 → illegalDetail (s.exe x) x w (updNeed x w s (fun g => g.rule == 1) (fun _ => (List.range 5).map (fB w + ·)) (fun _ =>
         d.ndim == 2 && sameShape da d && matOk (b 0) rows cols && tileOk (b 1) rows cols && tileOk (b 2) rows cols &&
         tileOk (b 3) m m && tileOk (b 4) m m)) = 0 →
       joins (exec (.updOrtho x w) s) ((List.range 5).map (fun i => (b i).plain))) ∧
     (fOp w = 3 → illegalDetail (s.exe x) x w (updNeed x w s (fun g => g.rule == 3) (fun _ => (List.range 11).map (fB w + ·)) (fun _ =>
         d.ndim == 2 && da.fmt == 0 && sameShape da d && matOk (b 0) rows rows && matOk (b 1) cols cols && matOk (b 2) rows rows &&
         matOk (b 3) cols cols && matOk (b 4) rows cols && (natRange 5 6).all (fun i => matOk (b i) n n))) = 0 →
       joins (exec (.updPrecond x w) s) ((List.range 11).map (fun i => (b i).plain))))) ∧
  ∀ (r : Region) (s : State),
    (s.teamOf r = none → exec (.teamBarrier r) s = .next s) ∧
    ∀ k j, s.teamOf r = some (k, j) →
      (j.lost = true → ∃ t : State, exec (.teamBarrier r) s = .next t ∧ t.mem = s.mem ∧ ∀ c ∈ j.cells, (s.waitingCells r).contains c = true →
        ∃ x f, execOf (12 + c) = some x ∧ t.queueHead x .vector = some f ∧ f.items = 0 ∧ f.status = 0xC0 ∧ f.detail = 0x0C) ∧
      (j.lost = false → ∀ (lead : Cell) (rest : List Nat) (f : Flight) (o : TeamOp), j.cells = lead.val :: rest →
        s.teamHead lead.val = some (f, o) →
        (let x : Executor := .cell lead
         let dr := o.descr x (fD o.word + 1)
         let got := s.readBytes dr.base 64
         let all := ∀ c ∈ j.cells, (s.waitingCells r).contains c = true ∧ ∃ p, s.teamHead c = some p ∧ p.2.word = o.word ∧ p.2.phase = o.phase
         let stored := PlainMemory s ∧ s.coh.dir = [] ∧ RingsOff s ∧ dr.base % 64 = 0 ∧ (s.place (canonical dr.base)).memory = true ∧
           s.storeGone (canonical dr.base) = false
         (¬ all → exec (.teamBarrier r) s = .next s) ∧
         (all → f.pass = none → o.phase = 0 → got.detail = 0 → shardCheck got.bytes f.step false = none →
           ∃ t : State, exec (.teamBarrier r) s = .next t ∧
             t.mem = (s.writeBytes dr.who dr.cls dr.base (recordBegin got.bytes f.step)).1.mem ∧
             (stored → (t.mem.byte (canonical dr.base + 6)).getLsbD 0 = true ∧
               leNat (t.mem.raw (canonical dr.base + 24) 6) = f.step % 2 ^ 48) ∧
             ∀ c ∈ j.cells, ∃ p, t.teamHead c = some p ∧ p.2.phase = 1) ∧
         (all → f.pass = none → o.phase ≠ 0 → uBsu o.word = true → fOp o.word = 2 → elementPhase o.phase = true →
           s.flag .NMS_CTRL_BSU_EN r = true → o.fits x o.phase = true → ∃ t : State, exec (.teamBarrier r) s = .next t ∧ t.mem = s.mem ∧
             ∃ p q, t.teamHead lead.val = some p ∧ p.1.pass = some q ∧ q.word = o.word ∧ p.2 = o) ∧
         (all → f.pass = none → o.phase ≠ 0 → o.phase = o.phases → uBsu o.word = false → s.mem.coded = [] →
           (∀ d ∈ (o.operands x o.phase).1, d.compressed = false) →
           ∃ t : State, exec (.teamBarrier r) s = .next t ∧ (stored → leNat (t.mem.raw (canonical dr.base) 6) = f.step % 2 ^ 48) ∧
             ∀ c ∈ j.cells, ∃ y g, execOf (12 + c) = some y ∧ t.queueHead y .vector = some g ∧ g.items = 0 ∧
               g.count = (o.descr x (fD o.word)).count)))

/-- STA_SHARES, STA_RATIO and STA_SZW: the record each writes, its COUNT, and a monitor not selected (R188, R306,
R360, R361, R362, R363, R365, R366, R367, R368). Let an STA word be legal and free to run in a cell with nothing
in flight, with plain memory, no line in a cache and all rings off. SHARES while NUM_MON_SEL leaves bit 0 clear,
and RATIO while it is below 2, join the vector queue with COUNT 0 and change no byte. Otherwise, their operands
in reach, each joins it; with BSU, operands column by column and BSU_EN set it is a bank-side pass that has
changed no byte yet, else, its record written by no other cell and by no STA in flight, it changes no byte
outside its record, whose bytes 0 to 5 become the step. SHARES, COUNT the elements of A, adds the elements,
zeros, elements at the end of their range and NaNs or infinities to the fields at 8, 16, 24 and 32, taken as 0
when the record is of another step. RATIO, COUNT the elements of A, writes at 8 and 12 the two sums of squares
and at 16 the root of their quotient, 0 for 0 by 0 and infinity for another value by 0. SZW, COUNT the elements
of A, writes the record that the watch rule makes of the old one. -/
def Obligations.MonitorsWriteTheirRecord : Prop :=
  ∀ (c : Cell) (w : W128) (s : State), fCls w = 0xA → PlainMemory s → s.coh.dir = [] → RingsOff s →
    (let x : Executor := .cell c
     let sn := s.subn x
     let d := (s.descr x (fD w)).plain
     let da := s.descr x (fA w)
     let db := s.descr x (fB w)
     let sel := s.fld .NUM_MON_SEL_SEL x.region
     let old := (s.readBytes d.base (4 * d.extent 0)).bytes
     let step := (s.exe x).ctx.step
     let was (i k : Nat) : Nat := if fieldAt old 0 6 = step then fieldAt old i k else 0
     let field (t : State) (i k : Nat) : Nat := leNat (t.readBytes (d.base + i) k).bytes
     let owner := Tbl.get s.mem.owner 0 (canonical d.base / 64)
     let legal (n : Need) : Prop := illegalDetail (s.exe x) x w n = 0
     let passes (o : Answer) : Prop := Going s x w → (s.exe x).flights = [] →
       ∃ t : State, o = .next t ∧ Joined s t x w .vector 0 ∧ ∀ p, t.mem.byte p = s.mem.byte p
     let writes (o : Answer) (ops : List Desc) (n : Nat) (more : State → Prop) : Prop := EngineGoing s c w (aBsu w) (d :: ops) →
       owner = 0 ∨ owner = c.val + 1 → (∀ p ∈ s.execs, ∀ f ∈ p.2.flights, f.cls = 0xA → overlaps f.writes d.spans = []) →
       ∃ (t : State) (k : _), o = .next t ∧ Joined s t x w .vector k ∧
         (if aBsu w && staFits ops && s.flag .NMS_CTRL_BSU_EN c.region then k = 0 ∧ (∀ p, t.mem.byte p = s.mem.byte p) ∧
             ∀ f ∈ (t.exe x).flights, ∃ p, f.pass = some p ∧ p.word = w
          else k = n ∧ TensorsBut s t [d] ∧ field t 0 6 = step % 2 ^ 48 ∧ more t)
     (fOp w = 0 → legal (staNeed x w s 32 false false) →
       (sel % 2 = 0 → passes (exec (.staShares x w) s)) ∧
       (sel % 2 = 1 → (let els := s.loadRaw da
         let h := els.foldl (fun (h : Shares) e =>
           h.add sn da.fmt (signedOf 8 (s.fld .NUM_HIST_HBASE x.region)) (s.fld .NUM_HIST_HSTEP x.region) e) {}
         writes (exec (.staShares x w) s) [da] els.length (fun t => field t 8 8 = satAdd 64 (was 8 8) els.length ∧
           field t 16 8 = satAdd 64 (was 16 8) h.zeros ∧ field t 24 8 = satAdd 64 (was 24 8) h.sats ∧
           field t 32 8 = satAdd 64 (was 32 8) h.nonfinite ∧
           ∀ i : Nat, i < 16 → field t (48 + 4 * i) 4 = satAdd 32 (was (48 + 4 * i) 4) (h.hist.getD i 0))))) ∧
     (fOp w = 1 → legal (staNeed x w s 16 true true) →
       (sel < 2 → passes (exec (.staRatio x w) s)) ∧
       (2 ≤ sel → (let sq (t : Tens) (k : Nat) : Machine.Num := sum32 .nearest k ((nums .nearest t.els).map (fun v => st32 .nearest (v.mul v)))
         let u := st32 .nearest ((f32.decode (was 8 4)).add (sq (s.load sn da) 12))
         let v := st32 .nearest ((f32.decode (was 12 4)).add (sq (s.load sn db) 13))
         writes (exec (.staRatio x w) s) [da, db] da.count (fun t => field t 8 4 = u.f32bits ∧ field t 12 4 = v.f32bits ∧
           field t 20 8 = satAdd 64 (was 20 8) da.count ∧
           field t 16 4 = (if v.isZero then (if u.isZero then Machine.Num.zero else .inf false)
             else st32 .nearest (st32 .nearest (u.div v)).sqrt).f32bits)))) ∧
     (fOp w = 2 → legal (staNeed x w s 16 (fB w != 0) false) →
       (let els := (s.load sn da).els
        let bg := s.readBytes db.base 64
        let b := if fB w ≠ 0 then some (fieldAt bg.bytes 0 6, fieldAt bg.bytes 16 4) else none
        let r := (szw (Watch.ofBytes old) step (aMon w) (s.fld .NUM_SZ_LIMIT x.region) (s.fld .NUM_SZ_FLOOR x.region)
          (els.any (fun e => e.bad == 0 && !e.num.isZero)) b).1
        writes (exec (.staSzw x w) s) (da :: (if fB w ≠ 0 then [db] else [])) els.length (fun t => (t.readBytes d.base 64).bytes = r.bytes))))

/-- COL_RS to COL_SQN, COL_GNEW, COL_GFREE and GROUP_FREED: the group's numbers, what is refused, and memory left
alone (R210, R299, R301, R462, R463, R464, R466, R476). Let a legal COL word be free to run in an executor with
nothing in flight. A collective on a live group joins the collective queue with one item outstanding: it is the
last collective of the device, takes the group's next number, and waits to start. GFREE of a live group joins it
with one item outstanding and the group is ending. Either on a group that is not live or is ending is done with
0xC0 detail 3, groups and collectives as they were. None of them changes memory. GNEW waits at dispatch while
its group is ending; its operands in reach, it joins with 0x83 and the reason when the group is live, its list
or shape is no group of this device, or there is no group area, and no group changes; otherwise the group is
live with the list and shape read, or the list alone as one ring, and no byte outside the group's area changes.
GROUP_FREED does nothing while the group is not ending or a collective of it is left; else the group and its
held READYs are gone and the GFREE has no item left. -/
def Obligations.CollectivesEnterTheirEngine : Prop :=
  (∀ (x : Executor) (w : W128) (s : State), fCls w = 7 → Going s x w → NoStopDue s x → (s.exe x).flights = [] →
    (let legal (n : Need) : Prop := illegalDetail (s.exe x) x w n = 0
     let refused (o : Answer) : Prop := ∃ t : State, o = .next t ∧ Joined s t x w .coll 0 ∧ t.mem = s.mem ∧ t.net = s.net ∧
       ∀ f ∈ (t.exe x).flights, f.items = 0 ∧ f.status = 0xC0 ∧ f.detail = 3
     (∀ p ∈ [(0, Instr.colRs x w), (1, .colAg x w), (2, .colAr x w), (3, .colA2a x w), (4, .colBc x w), (5, .colSqn x w)],
       fOp w = p.1 → legal (collNeed p.1 x w s) →
       ((∀ g, s.group (cGrp w) = some g → g.freeing = true) → refused (exec p.2 s)) ∧
       (∀ g, s.group (cGrp w) = some g → g.freeing = false → ∃ (t : State) (c : _), exec p.2 s = .next t ∧ Joined s t x w .coll 0 ∧ t.mem = s.mem ∧
         t.net.colls = s.net.colls ++ [c] ∧ c.grp = cGrp w ∧ c.seq = g.nextSeq ∧ c.op = p.1 ∧ c.rop = cRop w ∧ c.root = cRoot w ∧
         c.parts = g.parts ∧ c.shape = g.shape ∧ c.epoch = (s.descr x (fD w)).epoch ∧ c.lineD = (s.exe x).descLine (fD w) ∧
         c.lineA = (s.exe x).descLine (fA w) ∧ c.started = false ∧ (∀ f ∈ (t.exe x).flights, f.items = 1 ∧ f.uid = c.uid) ∧
         t.group (cGrp w) = some { g with nextSeq := (g.nextSeq + 1) % 65536 })) ∧
     (fOp w = 0x11 → legal { rsvd := wf w 0 50 != 0 || fD w != 0 || fA w != 0 || fB w != 0 || fC w != 0 } →
       ((∀ g, s.group (cGrp w) = some g → g.freeing = true) → refused (exec (.colGfree x w) s)) ∧
       (∀ g, s.group (cGrp w) = some g → g.freeing = false → ∃ (t : State) (f : _), exec (.colGfree x w) s = .next t ∧ Joined s t x w .coll 0 ∧
         t.mem = s.mem ∧ (t.exe x).flights = [f] ∧ f.items = 1 ∧
         t.group (cGrp w) = some { g with freeing := true, freeUid := f.uid, freeRegion := x.region.val })) ∧
     (let a := s.descr x (fA w)
      let b := s.descr x (fB w)
      let named := fB w != 0
      let ids := s.loadRaw a
      let dims := if named then s.loadRaw b else []
      let bad := (ids ++ dims).foldl (fun (m : Nat) e => worseDetail m e.bad) 0
      let shape := if named then dims.map RawEl.cnt else [ids.length]
      let why := s.groupBad (cGrp w) (ids.map (·.bits)) shape
      let area := s.fld .LNK_GRPBASE_BASE 0 * 2 ^ 27 + cGrp w * 32768
      fOp w = 0x10 → legal { rsvd := wf w 0 50 != 0 || fD w != 0 || fC w != 0, descs := [fA w] ++ (if named then [fB w] else [])
                             bad := a.fmt != 0x0B || (named && (b.fmt != 0x0B || b.ndim != 1 || decide (4 < b.extent 0))) } →
      (s.groupEnding (cGrp w) = true →
        exec (.colGnew x w) s = .next ((s.fetched x).shows x 1)) ∧
      (s.groupEnding (cGrp w) = false → MoveGoing s x w ([a] ++ (if named then [b] else [])) → PlainMemory s → s.coh.dir = [] →
        ∃ t : State, exec (.colGnew x w) s = .next t ∧ Joined s t x w .coll 0 ∧
          (∀ p, (∀ i : Nat, i < 32768 → canonical (area + i) ≠ p) → t.mem.byte p = s.mem.byte p) ∧
          (bad ≠ 0 → t.net.groups = s.net.groups ∧ ∀ f ∈ (t.exe x).flights, f.status = 0xC0 ∧ f.detail = bad) ∧
          (bad = 0 → why ≠ 0 → t.net.groups = s.net.groups ∧ ∀ f ∈ (t.exe x).flights, f.status = 0x83 ∧ f.detail = why) ∧
          (bad = 0 → why = 0 → (∀ f ∈ (t.exe x).flights, f.status = 0) ∧
            t.net.groups = s.net.groups ++ [{ grp := cGrp w, parts := ids.map (·.bits), shape := shape }]))))) ∧
  ∀ (n : Nat) (s : State),
    (s.groupEnding n = false ∨ s.groupBusy n = true → exec (.groupFreed n) s = .next s) ∧
    (∀ g, s.group n = some g → g.freeing = true → s.groupBusy n = false → ∃ t : State, exec (.groupFreed n) s = .next t ∧
      t.group n = none ∧ t.net.colls = s.net.colls ∧ t.mem = s.mem ∧ t.regs = s.regs ∧ (∀ h ∈ t.net.readies, h.grp ≠ n) ∧
      (∀ k, k ≠ n → t.group k = s.group k) ∧
      ∀ r : Region, r.val = g.freeRegion → ∀ f ∈ (t.exe (.seq r)).flights, f.uid = g.freeUid → f.items = 0)

/-- COLLECTIVE_START, EPOCH_ADVANCE, COLLECTIVE_COMPLETE and COLLECTIVE_TIMEOUT (R464, R465, R466, R468, R470, R471,
R474). COLLECTIVE_START of a group acts on the head of a region's collective queue when that head is of the
group and the device is not fenced: an older or distant epoch ends it with 0x82; it waits while its epoch is not
the device's or its engine cannot start it; otherwise, with nothing held or outstanding on the links and what it
reads plain, free and awake, it has started at the present time, its parts formed. EPOCH_ADVANCE starts a head
of a newer epoch that nothing older is before, and the device epoch is its own. COLLECTIVE_COMPLETE does nothing
while data is expected or left; else the collective is gone, the group's numbers have ended up to its oldest one
left, its instruction has no item left, no byte outside D has changed, and each element of a one-dimensional
FP32 D is the collective's result. COLLECTIVE_TIMEOUT does nothing before the limit; after it the collective is
gone, its instruction ends with 0xC1 detail 3, and of memory D alone may have changed. -/
def Obligations.CollectivesStartAndEnd : Prop :=
  ∀ (r : Region) (n : Nat) (s : State),
    (let starts (t : State) (c : Coll) : Prop := ∃ c', t.coll c.grp c.seq = some c' ∧ c'.started = true ∧ c'.lastAt = s.clk.aon ∧
       t.mem = s.mem ∧ (c.op = 0 ∨ c.op = 2 → c.ragged = false →
         (let a := (Desc.ofLine c.lineA).count
          c'.sizes = (List.range c.size).map (fun q => a / c.size + bit1 (decide (q < a % c.size)))))
     let reads (c : Coll) : Prop := s.mem.coded = [] ∧ (∀ p ∈ (s.collReads c).flatMap (·.2), s.rangeFree p.1 p.2 = true) ∧
       s.asleep ((s.collReads c).flatMap (·.2)) = []
     let flights (t : State) (c : Coll) (p : Flight → Prop) : Prop := ∀ f ∈ (t.exe (.seq r)).flights, f.uid = c.uid → f.items = 0 ∧ p f
     let gone (c : Coll) : List Coll := s.net.colls.filter (fun d => !(d.grp == c.grp && d.seq == c.seq))
     ((∀ c, s.collHead r = some c → c.grp ≠ n ∨ s.fenced = true) → exec (.collectiveStart r n) s = .next s) ∧
     (∀ c, s.collHead r = some c → c.grp = n → s.fenced = false →
       (s.collStale c ≠ 0 → ∃ t : State, exec (.collectiveStart r n) s = .next t ∧ t.net.colls = gone c ∧ t.mem = s.mem ∧
         flights t c (fun f => f.status = 0x82 ∧ f.detail = s.collStale c ∧ f.forced = true)) ∧
       (s.collStale c = 0 → c.epoch ≠ s.epoch ∨ s.collCan c = false → exec (.collectiveStart r n) s = .next s) ∧
       (s.collStale c = 0 → c.epoch = s.epoch → s.collCan c = true → reads c → s.net.readies = [] → s.net.items = [] →
         ∃ t : State, exec (.collectiveStart r n) s = .next t ∧ starts t c)) ∧
     (s.collHead r = none → exec (.epochAdvance r) s = .next s) ∧
     (∀ c, s.collHead r = some c →
       (let before := s.net.colls.takeWhile (fun e => !(e.grp == c.grp && e.seq == c.seq))
        let clear := c.epoch ≠ s.epoch ∧ s.collStale c = 0 ∧ s.collCan c = true ∧ ∀ e ∈ before, epochDetail e.epoch c.epoch = 0
        (¬ clear → exec (.epochAdvance r) s = .next s) ∧
        (clear → reads c → s.net.readies = [] → s.net.items = [] → ∃ t : State, exec (.epochAdvance r) s = .next t ∧ t.epoch = c.epoch % 65536 ∧ starts t c))) ∧
     (let running := s.net.colls.find? (fun c => c.region == r.val && c.grp == n && c.started)
      (running = none → exec (.collectiveComplete r n) s = .next s ∧ exec (.collectiveTimeout r n) s = .next s) ∧
      ∀ c, running = some c →
        (let d := Desc.ofLine c.lineD
         let waits := c.expects ≠ [] ∨ c.outs ≠ [] ∨ (∃ i ∈ s.net.items, i.coll = some (c.grp, c.seq)) ∨ s.fenced = true
         let free := (∀ p ∈ d.plain.spans, s.rangeFree p.1 p.2 = true) ∧ s.asleep d.plain.spans = []
         (waits → exec (.collectiveComplete r n) s = .next s) ∧
         (¬ waits → free → ∃ (t : State) (k : _), exec (.collectiveComplete r n) s = .next t ∧ t.net.colls = gone c ∧
           (∀ g, s.group c.grp = some g → t.group c.grp = some { g with ended := (((gone c).find? (fun e => e.grp == c.grp)).map (·.seq)).getD g.nextSeq }) ∧
           flights t c (fun f => f.count = k) ∧
           (PlainMemory s → s.coh.dir = [] → TensorsBut s t [d.plain] ∧
             (d.fmt = 0 → d.ndim = 1 → (∀ i : Nat, i < d.extent 0 → (∃ v, c.result (c.meIn s.devId) i = some (some v)) ∧
                 (s.place (canonical (d.base + 4 * i))).memory = true ∧ (s.place (canonical (d.base + 4 * i + 3))).memory = true ∧
                 s.storeGone (canonical (d.base + 4 * i)) = false ∧ s.storeGone (canonical (d.base + 4 * i + 3)) = false) →
               k = 4 * d.extent 0 ∧ (c.bad = 0 → flights t c (fun f => f.status = 0)) ∧
               ∀ i v, i < d.extent 0 → c.result (c.meIn s.devId) i = some (some v) → ∀ j, j < 4 →
                 t.mem.byte (canonical (d.base + 4 * i + j)) = BitVec.ofNat 8 (v / 2 ^ (8 * j))))) ∧
         (s.clk.aon < c.lastAt + s.collTimeout → exec (.collectiveTimeout r n) s = .next s) ∧
         (c.lastAt + s.collTimeout ≤ s.clk.aon → ∃ t : State, exec (.collectiveTimeout r n) s = .next t ∧ t.net.colls = gone c ∧
           (s.mem.coded = [] → s.coh.dir = [] → TensorsBut s t [d]) ∧ flights t c (fun f => f.status = 0xC1 ∧ f.detail = 3 ∧ f.forced = true)))))

/-- CPX_COMP and CPX_EXPAND: the stream written block by block, the elements a stream expands to, COUNT, and nothing
else (R302, R406, R407, R408, R409, R414, R418). Let a CPX word be legal and free to run with nothing of its
executor in flight, its lines free and its stores awake, with plain memory and no line in a cache. It joins the
move queue of a cell or the codec queue of a sequencer and changes no byte outside D. CPX_COMP of a readable
source that D does not overlap, in a format without a side plane, writes at D's base the 512-byte table header,
then the block map, then each block at its place, coded where its code is shorter and raw elsewhere; COUNT is
the bytes written. CPX_EXPAND of a stream reports the bytes of D it writes, plain whatever its COMPRESSED bit,
and into a one-dimensional FP32 D of the stream's extent that does not overlap it, writes each element the
stream decodes to. -/
def Obligations.CompressionInstructionsComplete : Prop :=
  ∀ (x : Executor) (w : W128) (s : State), fCls w = 8 → PlainMemory s → s.coh.dir = [] →
    (let d := s.descr x (fD w)
     let a := s.descr x (fA w)
     let q := cpxQueue x
     let legal (b : Bool) : Prop := illegalDetail (s.exe x) x w
       { rsvd := wf w 0 62 != 0 || fB w != 0 || fC w != 0, descs := [fD w, fA w], dest := some (fD w), bad := b || d.fmt != a.fmt } = 0
     let e := d.plain
     let kept (p : Nat) : Prop := (s.place (canonical p)).memory = true ∧ s.storeGone (canonical p) = false
     (fOp w = 0 → legal (!d.compressed) → MoveGoing s x w [d, a] →
       ∃ (t : State) (n : _), exec (.cpxComp x w) s = .next t ∧ Joined s t x w q n ∧ TensorsBut s t [d] ∧
         (let img := s.imageBytes d a
          let c := compressBuf d.fmt (img.map (·.1))
          let k := c.2.2.length
          let parts := [(d.base, c.1), (d.base + 512, mapOf (c.2.2.map (·.isSome)))] ++ (List.range k).map (fun j =>
            (d.base + 512 + mapBytes k + 4096 * j, (c.2.2.getD j none).getD (blockOf (img.map (·.1)) j)))
          (∀ y ∈ img, y.2 = 0) → overlaps d.spans a.spans = [] → d.sideBytes = 0 → n = s.landedIn (parts.map (fun p => (p.1, p.2.length))) ∧
            ∀ p ∈ parts, ∀ i : Nat, i < p.2.length → kept (p.1 + i) → t.mem.byte (canonical (p.1 + i)) = p.2.getD i 0)) ∧
     (fOp w = 1 → legal (!a.compressed) → MoveGoing s x w [e, a] →
       ∃ t : State, exec (.cpxExpand x w) s = .next t ∧ Joined s t x w q (s.landedAll e) ∧ TensorsBut s t [e] ∧
         (overlaps e.spans a.spans = [] → d.fmt = 0 → d.ndim = 1 → a.ndim = 1 → a.extent 0 = d.extent 0 → ∀ i v, i < d.extent 0 → (s.loadRaw a)[i]? = some v →
           v.bad = 0 → ∀ j, j < 4 → kept (d.base + 4 * i + j) →
             t.mem.byte (canonical (d.base + 4 * i + j)) = BitVec.ofNat 8 (v.bits / 2 ^ (8 * j)))))

/-- SEGMENT_STORE_CODED, FMC_CZ_ENABLE and FMC_XTS_ENABLE: coded slots, the compression window, and encryption of a
far channel (R9, R422, R423, R424, R429, R430). SEGMENT_STORE_CODED at an address that is not segment-aligned,
not in the channel's populated range, or in use does nothing. With plain memory and no line in a cache, a
well-formed segment within the channel's window while EN is 1 is stored as it came: its table header at its
place in the table, each coded block's bytes in its slot, which is then coded with that table, each raw block
plain; any other segment is stored plain, its coded blocks expanded. No byte outside the segment and its table
header changes. FMC_CZ_ENABLE through the writer's FMC_SEL writes TBASE only while EN is 0, clears EN for bit 63
clear, sets it for a sound window and table, and is else ignored but for CFGERR. FMC_XTS_ENABLE does nothing
once sealed; clears EN for bit 0 clear; sets it only while KEYED is 1 and EN is 0. Neither changes a byte
outside the channel, and where EN stays 0 none at all. -/
def Obligations.FarChannelsStoreSegmentsAndEncrypt : Prop :=
  (∀ (f : Chan) (g : CodedSegment) (s : State),
    (let ok := g.dpa % 65536 = 0 ∧ s.place g.dpa = .far f.val ∧ s.rangeFree g.dpa 65536 = true
     let lo := (s.czWindow f).1
     let hi := (s.czWindow f).2
     let table := s.fld .FMC_CZ_CTRL_TBASE f * 65536 + (g.dpa - lo) / 65536 * 512
     let inside := s.flag .FMC_CZ_CTRL_EN f = true ∧ lo ≤ g.dpa ∧ g.dpa < hi
     (¬ ok → exec (.segmentStoreCoded f g) s = .next s) ∧
     (ok → g.wf = true → PlainMemory s → s.coh.dir = [] → s.place (g.dpa + 65535) = .far f.val →
       (inside → s.place table = .far f.val → table + 512 ≤ g.dpa ∨ g.dpa + 65536 ≤ table →
         ∃ t : State, exec (.segmentStoreCoded f g) s = .next t ∧ (∀ i : Nat, i < 512 → t.mem.byte (table + i) = g.header.getD i 0) ∧
           (∀ j, j < 16 → (let b := g.blocks.getD j (false, [])
             t.mem.codedAt (g.dpa / 4096 + j) = (if b.1 then some table else none) ∧
             ∀ i : Nat, i < b.2.length → t.mem.byte (g.dpa + 4096 * j + i) = b.2.getD i 0)) ∧
           (∀ p, p < g.dpa ∨ g.dpa + 65536 ≤ p → p < table ∨ table + 512 ≤ p → t.mem.byte p = s.mem.byte p)) ∧
       (¬ inside → ∃ t : State, exec (.segmentStoreCoded f g) s = .next t ∧ t.mem.coded = [] ∧ BytesBut s t g.dpa 65536 ∧
         ∀ j l, j < 16 → (expandSegment g).getD j none = some l → l.length = 4096 → ∀ i : Nat, i < 4096 →
           t.mem.byte (g.dpa + 4096 * j + i) = l.getD i 0)))) ∧
  ∀ (who : Bank) (s : State),
    (let u := s.otherAccess who
     (u.selChan who = none → (∀ v, exec (.fmcCzEnable who v) s = .next u) ∧ ∀ v, exec (.fmcXtsEnable who v) s = .next u) ∧
     ∀ f : Chan, u.selChan who = some f →
       (∀ v : W64, (let t0 := bitsOf v.toNat 16 32
         let on := u.flag .FMC_CZ_CTRL_EN f
         let lo := (u.czWindow f).1
         let hi := (u.czWindow f).2
         let table := t0 * 65536
         let last := table + (hi - lo) / 65536 * 512
         let first := 0x100000000000 + f.val * 0x8000000000
         let top := first + u.farBytes f
         let sound := lo < hi ∧ first ≤ lo ∧ hi ≤ top ∧ first ≤ table ∧ last ≤ top ∧ (hi ≤ table ∨ last ≤ lo)
         ∃ t : State, exec (.fmcCzEnable who v) s = .next t ∧
           OnlyRegs u t [Fld.FMC_CZ_CTRL_TBASE.key f 0, Fld.FMC_CZ_CTRL_EN.key f 0, Fld.FMC_CZ_STAT_CFGERR.key f 0] ∧
           (on = true ∨ (bitOf v.toNat 63 = true ∧ ¬ sound) → t.fld .FMC_CZ_CTRL_TBASE f = u.fld .FMC_CZ_CTRL_TBASE f) ∧
           (on = false → bitOf v.toNat 63 = false ∨ sound → t.fld .FMC_CZ_CTRL_TBASE f = t0) ∧
           (bitOf v.toNat 63 = false → t.fld .FMC_CZ_CTRL_EN f = 0) ∧
           (bitOf v.toNat 63 = true → (on = true → t = u) ∧
             (on = false → (sound → t.fld .FMC_CZ_CTRL_EN f = 1) ∧
               (¬ sound → t.fld .FMC_CZ_CTRL_EN f = u.fld .FMC_CZ_CTRL_EN f ∧ t.fld .FMC_CZ_STAT_CFGERR f = 1))))) ∧
       (∀ v : W32, (u.flag .KTL_BOOT_SEALED 0 = true → exec (.fmcXtsEnable who v) s = .next u) ∧
         (u.flag .KTL_BOOT_SEALED 0 = false → (bitOf v.toNat 0 = false → ∃ t : State, exec (.fmcXtsEnable who v) s = .next t ∧
             t.fld .FMC_XTS_EN f = 0 ∧ RegsBut u t [Fld.FMC_XTS_EN.key f 0] ∧
             BytesBut u t (0x100000000000 + f.val * 0x8000000000) 0x8000000000 ∧
             (u.flag .FMC_XTS_EN f = false → OnlyRegs u t [Fld.FMC_XTS_EN.key f 0])) ∧
           (bitOf v.toNat 0 = true → u.flag .FMC_XTS_KEYED f = false ∨ u.flag .FMC_XTS_EN f = true → exec (.fmcXtsEnable who v) s = .next u) ∧
           (bitOf v.toNat 0 = true → u.flag .FMC_XTS_KEYED f = true → u.flag .FMC_XTS_EN f = false → ∃ t : State, exec (.fmcXtsEnable who v) s = .next t ∧
             t.flag .FMC_XTS_EN f = true ∧ RegsBut u t [Fld.FMC_XTS_EN.key f 0] ∧
             BytesBut u t (0x100000000000 + f.val * 0x8000000000) 0x8000000000))))

/-- FENCE, WAIT, SIGNAL, WATCH and its timeout; LAUNCH, RESTART, TOKCLR, BLKST, REGRD, REGWR and HALT (R106, R109,
R226, R308, R309, R310, R311, R312, R313, R314, R315, R316). Let a SYN or SYS word be at the head of dispatch,
free to go, legal, its record accepted and no HALT waiting. FENCE waits while what it names is in flight; else
it, WAIT and SIGNAL move on, SIGNAL with one increment on its way. WATCH of a readable word that none of its
instructions in flight writes, cached or held by no one, that differs from RB writes RD with it and sets the
predicate; of one that equals RB it sleeps, watched until RC aon cycles have passed, or moves on with a clear
predicate where the agent watches its limit; of a store or, in a sequencer, a register it reads once; of an
unaligned or refused address RD is 0. WATCH_TIMEOUT at the deadline ends it with the old word. LAUNCH and BLKST
put a job in flight that waits for the cells or blocks named: the launch is in their inbound queues, or the
state is requested. RESTART leaves no named cell stopped, its kernel ended or resumed. TOKCLR clears the tokens
IMM names. REGRD and REGWR perform one access of the sequencer's bank. HALT stops the sequencer after it. -/
def Obligations.SynAndSysInstructionsComplete : Prop :=
  (∀ (x : Executor) (w : W128) (s : State), Going s x w → RingTakes s x w → NoStopDue s x →
    (let on : Nat := if x.isCell then s.pcOf x + 1 else (s.pcOf x + 1) % 2 ^ 44
     let quiet := wf w 97 1 = 0 ∧ wf w 98 6 = 0
     let moved (t : State) : Prop := t.pcOf x = on ∧ (quiet → t.mem = s.mem ∧ (t.exe x).flights = (s.exe x).flights)
     let still (t : State) : Prop := moved t ∧ (∀ i, (t.exe x).reg i = (s.exe x).reg i) ∧ (t.exe x).pred = (s.exe x).pred
     let none4 := fRD w = 0 ∧ fRA w = 0 ∧ fRB w = 0 ∧ fRC w = 0
     (fCls w = 0xB →
       (let waits := ∃ f ∈ (s.exe x).flights, f.scalarMove = true ∨ (∃ q ∈ fenceQueues x (fSUB w), f.inQueue q = true)
        fOp w = 0 → none4 → fSUB w < 8 → fIMM w = 0 → (waits → exec (.synFence x w) s = .next ((s.fetched x).shows x 1)) ∧
          (¬ waits → ∃ t : State, exec (.synFence x w) s = .next t ∧ still t)) ∧
       (fOp w = 1 → none4 → fSUB w = 0 → fIMM w = 0 → ∃ t : State, exec (.synWait x w) s = .next t ∧ still t) ∧
       (fOp w = 2 → none4 → fSUB w ≤ 127 ∨ fSUB w = 0xFF → 0 < fIMM w → fIMM w < 64 → ∃ t : State, exec (.synSignal x w) s = .next t ∧ still t ∧
         t.signals = s.signals ++ [⟨x.region.val, fSUB w, fIMM w⟩]) ∧
       (fOp w = 3 → 0 < fSUB w → fSUB w < 8 → regsBad x [fRD w, fRA w, fRB w, fRC w] = false →
         (let a := addrRA x w s
          let old := s.sreg x (fRB w)
          let pl := s.place (canonical a)
          let l := canonical a / 64
          let off := canonical a % 64
          let held (c : CLine) : Prop := s.cached x.agent l = some c ∨
            (s.cached x.agent l = none ∧ s.dirOf l = none ∧ (s.dirWays l).length < 16 ∧ s.victimFor x.agent l = none ∧
              s.mem.poison l = 0 ∧ c.data = s.mem.line l ∧ c.poison = 0 ∧ c.watched = false)
          let ends (v : Nat) (p : Bool) : Prop := ∃ t : State, exec (.synWatch x w) s = .next t ∧ moved t ∧ SregsBut s t x (fRD w) ∧
            (fRD w ≠ 0 → t.sreg x (fRD w) = v) ∧ (t.exe x).predBit (fSUB w) = p ∧ (t.exe x).watch = none
          let spare := (pl.store.isSome = true → s.asleep [(a, 8)] = [] ∧ s.rangeFree a 8 = true) ∧
            ∀ f ∈ (s.exe x).flights, overlaps f.writes [(a, 8)] = []
          (spare → a % 8 ≠ 0 ∨ (pl.memory = false ∧ regSpot x s a = none) → ends 0 false) ∧
          (a % 8 = 0 → (regSpot x s a).isSome = true → ∃ t : State, exec (.synWatch x w) s = .next t ∧ t.pcOf x = on ∧ (t.exe x).watch = none) ∧
          (spare → a % 8 = 0 → pl.memory = true → pl.coherent = false → (s.readBytes a 8).detail = 0 →
            ends (leNat (s.readBytes a 8).bytes) (decide (leNat (s.readBytes a 8).bytes ≠ old))) ∧
          (spare → a % 8 = 0 → pl.coherent = true → pl.memory = true → s.lineReady x.agent l = true → s.mem.codedAt (l / 64) = none →
            ∀ c v, held c → c.poison.getLsbD (off / 4) = false → c.poison.getLsbD (off / 4 + 1) = false →
            v = (c.data.extractLsb' (8 * off) 64).toNat →
            (let room := c.watched = true ∨ s.watchCount x.agent < watchLimit x.agent
             (v ≠ old → ends v true) ∧ (v = old → ¬ room → ends v false) ∧
             (v = old → room → ∃ t : State, exec (.synWatch x w) s = .next t ∧ t.pcOf x = s.pcOf x ∧ t.mem = s.mem ∧
               (t.exe x).watch = some ⟨a, BitVec.ofNat 64 v, fRD w,
                 if s.sreg x (fRC w) = 0 then none else some (s.clk.aon + s.sreg x (fRC w)), false⟩ ∧
               ∃ d, t.cached x.agent l = some d ∧ d.watched = true)))))) ∧
     (∀ r, x = .seq r → fCls w = 0xC →
       (let cells := maskCells r (s.sreg x (fRA w)) (s.sreg x (fRB w))
        let job (k : JobKind) (l : List Nat) (n : Nat) : Job :=
          { id := s.nextJob, region := r.val, kind := k, waits := l, cells := l, target := n }
        let goes (t : State) : Prop := t.pcOf x = on ∧ t.mem = s.mem ∧ (∀ i, (t.exe x).reg i = (s.exe x).reg i) ∧
          (t.exe x).flights.map (·.q) = (s.exe x).flights.map (·.q) ++ [.launch s.nextJob]
        (fOp w = 0 → fRD w = 0 → fIMM w = 0 → fSUB w < 1024 → ∃ t : State, exec (.sysLaunch x w) s = .next t ∧ goes t ∧
          t.jobs = s.jobs ++ [job .launch (cells.map (·.val)) 0] ∧ ∀ b : Block, (t.blk b).inq = (s.blk b).inq ++
            (cells.filter (fun c => c.block == b)).map (fun c => .launch s.nextJob c (fSUB w) (BitVec.ofNat 64 (s.sreg x (fRC w))) (s.launchCtx r))) ∧
        (fOp w = 1 → fRD w = 0 → fRC w = 0 → fIMM w = 0 → fSUB w < 2 → ∃ t : State, exec (.sysRestart x w) s = .next t ∧ still t ∧
          ∀ c : Cell, (quiet → c ∉ cells ∨ (s.exe (.cell c)).stop = .no → t.exe (.cell c) = s.exe (.cell c)) ∧
            (wf w 98 6 = 0 ∨ (s.exe x).token (wf w 98 6) < 0xFFFF → c ∈ cells → (s.exe (.cell c)).stop ≠ .no → (t.exe (.cell c)).stop = .no ∧
              (fSUB w = 0 → (t.exe (.cell c)).running = false ∧ (t.exe (.cell c)).pc = (s.exe (.cell c)).pc) ∧
              (fSUB w = 1 → (t.exe (.cell c)).running = (s.exe (.cell c)).running ∧ (t.exe (.cell c)).pc =
                (s.exe (.cell c)).pc + (if (s.exe (.cell c)).stop = .nanTrap then 0 else 1)))) ∧
        (fOp w = 2 → none4 → fSUB w = 0 → fIMM w % 2 = 0 → ∃ t : State, exec (.sysTokclr x w) s = .next t ∧ still t ∧
          ∀ k, 0 < k → k < 64 → k ≠ wf w 98 6 → (t.exe x).token k = (if (fIMM w).testBit k then 0
            else if k = wf w 104 6 then (s.exe x).token k - 1 else (s.exe x).token k)) ∧
        (fOp w = 3 → none4 → fSUB w < 4 → fIMM w < 256 → (∀ j ∈ s.jobs, j.id ≠ s.nextJob) → (∀ b : Block, s.fld .BLK_PWR_STATE b < 4) →
          (let named (b : Block) : Prop := b.region = r ∧ (fIMM w).testBit (b.val % 8) = true
           let there (b : Block) : Prop := (s.fetched x).fld .BLK_PWR_STATE b = fSUB w ∧ ((s.fetched x).blk b).moving = none
           ∃ (t : State) (j : _), exec (.sysBlkst x w) s = .next t ∧ goes t ∧ t.job s.nextJob = some j ∧ j.kind = .blkst ∧ j.target = fSUB w ∧
             (∀ b : Block, b.val ∈ j.waits ↔ named b ∧ ¬ there b) ∧ (∀ b : Block, named b → t.fld .BLK_PWR_REQ b = fSUB w) ∧
             ∀ b : Block, ¬ named b → t.blk b = (s.fetched x).blk b)) ∧
        (fRC w = 0 → fSUB w < 2 →
          (let u := (s.fetched x).begun x w
           let off := addrRA x w s
           let a := u.regAccess (.seq r) off (regSize w) none
           let b := u.regAccess (.seq r) off (regSize w) (some (s.sreg x (fRB w)))
           (fOp w = 4 → fRB w = 0 → ∃ t : State, exec (.sysRegrd x w) s = .next t ∧ moved t ∧ SregsBut s t x (fRD w) ∧
             (fRD w ≠ 0 → t.sreg x (fRD w) = a.2.getD 0 % 2 ^ 64) ∧
             (∀ g, regSize w = 4 → off % 4 = 0 → regAt off = some g → g.reg.place.wide = false → (s.bank (.seq r)).heldLow = none →
               a.2 = some (u.regRead (.seq r) g.reg g.idx))) ∧
           (fOp w = 5 → fRD w = 0 → quiet → exec (.sysRegwr x w) s = .next ((b.1.setPc x (s.pcOf x + 1)).boundary x) ∧
             (∀ g, regSize w = 4 → off % 4 = 0 → regAt off = some g → g.reg.place.wide = false → (s.bank (.seq r)).heldLow = none →
               b.1 = (u.setBank (.seq r) { s.bank (.seq r) with latched := none, heldLow := none }).regWrite (.seq r) g.reg g.idx
                 (s.sreg x (fRB w) % 2 ^ 32))))) ∧
        (fOp w = 6 → none4 → fSUB w = 0 → fIMM w = 0 → ∃ t : State, exec (.sysHalt x w) s = .next t ∧ still t ∧ t.fld .SEQ_STAT_STATE r = 3))))) ∧
  ∀ (x : Executor) (s : State),
    (∀ w, (s.exe x).watch ≠ none → (∀ k, (s.exe x).watch = some k → k.woken = false) → exec (.synWatch x w) s = .next s) ∧
    ((∀ k n, (s.exe x).watch = some k → k.deadline = some n → s.clk.aon < n) → exec (.watchTimeout x) s = .next s) ∧
    (∀ k n w, (s.exe x).watch = some k → k.deadline = some n → n ≤ s.clk.aon → s.fetch x = some w → s.fenced = false →
      RingTakes s x w → NoStopDue s x → ∃ t : State, exec (.watchTimeout x) s = .next t ∧ (t.exe x).watch = none ∧
        t.pcOf x = (if x.isCell then s.pcOf x + 1 else (s.pcOf x + 1) % 2 ^ 44) ∧ (fRD w ≠ 0 → (t.exe x).reg (fRD w) = k.old) ∧
        SregsBut s t x (fRD w) ∧ (fSUB w % 8 ≠ 0 → (t.exe x).predBit (fSUB w % 8) = false))

/-- PG_SETUP, PG_RELEASE and PG_WAIT_END: the entry read, its checks, the row counters, and the wait for updates in
flight (R64, R378, R379, R380, R400, R401, R403). A write of UPD_PGCMD whose OP is not the command's, or through
a REG_SEL that names no region, does nothing. Without GO, or while BUSY is 1, it writes OP and GROUP alone.
PG_SETUP with GO waits with BUSY 1 while the entry at UPD_PGSRC lies in a store that sleeps or in lines in use;
else it reads the entry (no far slot coded): RESULT is 4 when it cannot be read, 1 when it is not valid, 3 when
it asks for row counters and they are off, and then DONE is 1, no group changes and memory stands. A setup that
would change the group's counters, and a release, wait with BUSY 1 while an update of the group is in flight.
Else a sound entry is the group's entry, shown valid, RESULT 0: with KEEPRC and as many rows as the group holds
its counters are kept; without row counters the group's are freed; otherwise the group takes the lowest run that
fits, whose bytes are zeroed and no other, or RESULT is 2 and nothing changes. PG_RELEASE of a group not set up
ends with RESULT 5; of another it frees its entry and counters. PG_WAIT_END does nothing while none waits; while
an update of the group is in flight BUSY stays 1; else the waiting command acts. -/
def Obligations.ParameterGroupsAreSetUpAndReleased : Prop :=
  (let frees (t s : State) (n : Nat) : Prop := t.group? n = none ∧ (∀ k, k ≠ n → t.group? k = s.group? k) ∧
     t.upd.counters = s.upd.counters.filter (fun h => h.group ≠ n) ∧ t.mem = s.mem
   let holds (t s : State) (n : Nat) (e : List Byte) : Prop := t.group? n = some e ∧ (∀ k, k ≠ n → t.group? k = s.group? k) ∧
     t.upd.counters = s.upd.counters.filter (fun h => h.group ≠ n) ∧ t.mem = s.mem
   let ended (t : State) (r : Nat) : Prop := t.fld .UPD_PGSTAT_DONE 0 = 1 ∧ t.fld .UPD_PGSTAT_BUSY 0 = 0 ∧ t.fld .UPD_PGSTAT_RESULT 0 = r ∧
     t.upd.pend = none
   let refused (t s : State) (r : Nat) : Prop := ended t r ∧ t.upd.groups = s.upd.groups ∧ t.upd.counters = s.upd.counters ∧ t.mem = s.mem
   let waits (t s : State) (p : PgPend) : Prop := t.fld .UPD_PGSTAT_BUSY 0 = 1 ∧ t.upd = { s.upd with pend := some p } ∧ t.mem = s.mem
   (∀ (who : Bank) (v : W32) (s : State),
    (let u := s.otherAccess who
     let n := bitsOf v.toNat 0 8
     let op := bitsOf v.toNat 8 2
     let go := bitOf v.toNat 31 = true ∧ u.flag .UPD_PGSTAT_BUSY 0 = false
     let idle (t : State) : Prop := OnlyRegs u t [Fld.UPD_PGCMD_OP.key 0 0, Fld.UPD_PGCMD_GROUP.key 0 0] ∧ t.fld .UPD_PGCMD_OP 0 = op ∧
       t.fld .UPD_PGCMD_GROUP 0 = n
     let src := u.fld .UPD_PGSRC_ADDR 0 * 128
     let got := u.readBytes src 128
     let g := Group0.ofBytes got.bytes
     let ready := u.waitFor [(src, 128)] = none ∧ s.mem.coded = []
     let sound := ready ∧ got.detail = 0 ∧ entryValid got.bytes = true ∧ (g.rowlazy = true → u.flag .UPD_RCBASE_EN 0 = true)
     let kept := u.keepsCounters n g
     let acts := sound ∧ (u.touchesCounters n got.bytes = true → u.updInFlight n = false)
     let valid (t : State) : Bool := (t.fld .UPD_PGV_VALID 0 (n / 32)).testBit (n % 32)
     (u.selRegion who = none ∨ op ≠ 0 → exec (.pgSetup who v) s = .next u) ∧
     (u.selRegion who = none ∨ op ≠ 1 → exec (.pgRelease who v) s = .next u) ∧
     (∀ r : Region, u.selRegion who = some r → op = 0 → (¬ go → ∃ t : State, exec (.pgSetup who v) s = .next t ∧ idle t) ∧
       (go → ∃ t : State, exec (.pgSetup who v) s = .next t ∧
         ((u.waitFor [(src, 128)]).isSome = true → waits t s ⟨false, n, r, src, []⟩) ∧
         (ready → got.detail ≠ 0 → refused t s 4) ∧ (ready → got.detail = 0 → entryValid got.bytes = false → refused t s 1) ∧
         (ready → got.detail = 0 → entryValid got.bytes = true → g.rowlazy = true → u.flag .UPD_RCBASE_EN 0 = false → refused t s 3) ∧
         (sound → u.touchesCounters n got.bytes = true → u.updInFlight n = true → waits t s ⟨false, n, r, src, got.bytes⟩) ∧
         (sound → kept = true → ended t 0 ∧ t.group? n = some got.bytes ∧ (∀ k, k ≠ n → t.group? k = s.group? k) ∧
           t.upd.counters = s.upd.counters ∧ t.mem = s.mem ∧ valid t = true) ∧
         (acts → kept = false → g.rowlazy = false → ended t 0 ∧ holds t s n got.bytes ∧ valid t = true) ∧
         (acts → kept = false → g.rowlazy = true →
           (let rest := s.upd.counters.filter (fun h => h.group ≠ n)
            (placeRun rest g.rcRows = none → refused t s 2) ∧
            (∀ k, placeRun rest g.rcRows = some k →
              (let first := u.rcBase + 8 * k
               u.waitFor [(first, 8 * g.rcRows)] = none →
               ended t 0 ∧ t.fld .UPD_PGSTAT_RC_FIRST 0 = k % 2 ^ 25 ∧ t.group? n = some got.bytes ∧ valid t = true ∧
               t.upd.held n = some ⟨n, k, g.rcRows⟩ ∧ (∀ m, m ≠ n → t.upd.held m = s.upd.held m) ∧
               (PlainMemory s → s.coh.dir = [] → (∀ p, (∀ i : Nat, i < 8 * g.rcRows → canonical (first + i) ≠ p) → t.mem.byte p = s.mem.byte p) ∧
                 ∀ i : Nat, i < 8 * g.rcRows → (s.place (canonical (first + i))).coherent = true → t.mem.byte (canonical (first + i)) = 0))))))) ∧
     (∀ r : Region, u.selRegion who = some r → op = 1 → (¬ go → ∃ t : State, exec (.pgRelease who v) s = .next t ∧ idle t) ∧
       (go → ∃ t : State, exec (.pgRelease who v) s = .next t ∧ (s.group? n = none → refused t s 5) ∧
         (s.group? n ≠ none → u.updInFlight n = true → waits t s ⟨true, n, r, 0, []⟩) ∧
         (s.group? n ≠ none → u.updInFlight n = false → ended t 0 ∧ frees t s n ∧ valid t = false))))) ∧
   ∀ s : State, (s.upd.pend = none → exec .pgWaitEnd s = .next s) ∧
     ∀ p, s.upd.pend = some p → ∃ t : State, exec .pgWaitEnd s = .next t ∧
       (let g := Group0.ofBytes p.entry
        let got := s.readBytes p.src 128
        (p.release = true → s.updInFlight p.group = true → waits t s p) ∧
        (p.release = true → s.updInFlight p.group = false → ended t 0 ∧ frees t s p.group) ∧
        (p.release = false → p.entry = [] → s.waitFor [(p.src, 128)] = none → s.mem.coded = [] → got.detail ≠ 0 → refused t s 4) ∧
        (p.release = false → p.entry ≠ [] → s.touchesCounters p.group p.entry = true → s.updInFlight p.group = true → waits t s p) ∧
        (p.release = false → p.entry ≠ [] → (s.touchesCounters p.group p.entry = true → s.updInFlight p.group = false) →
          s.keepsCounters p.group g = false → g.rowlazy = false → ended t 0 ∧ holds t s p.group p.entry)))

/-- Enabling, training, keys, retraining, fencing and losing a link (R432, R434, R440, R457, R458, R459, R479, R585,
R587, R611). Through the writer's LNK_SEL, from no host port: LINK_ENABLE of a disabled link starts full
training, unless the lane map leaves it DOWN; LINK_DISABLE leaves it DOWN, lost with detail 4 when it was up or
retraining; a fenced link stays fenced at both; LNK_RETRAIN of an enabled link in UP starts a retrain, the
eighth start within one second fences it with detail 1; LNK_UNFENCE of a fenced link forgets its starts and
trains it, or leaves it DOWN where it is disabled. LINK_TRAINED ends training with the peer shown and the link
waiting for keys. LINK_UP with a master secret and matching keys puts it in UP with fresh counters and credits,
what arrived before it standing apart; a mismatch raises the alert alone. Loss of lock, or of the reference
clock for all links, starts a retrain of a link in UP; LINK_RETRAIN_DONE returns it to UP and sends again what
is unacknowledged. RETRAIN_TIMEOUT after 50 ms trains it in full and it is lost with detail 2, as is a link that
left UP 50 ms ago, whose retrain, if it is in one, is abandoned so. A lost link holds nothing to replay. In any
other state these do nothing. -/
def Obligations.LinksTrainRetrainAndAreLost : Prop :=
  (let old (q : List (Nat × Xact)) : List (Nat × Xact) := q.map (fun p => (p.1 % 4 + 4, p.2))
   let down (s : State) (l : Nat) : Nat := if s.ktl.persona.badLinks.contains l then 0 else 1
   let lost (t : State) (l st det : Nat) : Prop := t.fld .LNK_STAT_STATE l = st ∧ t.fld .LNK_STAT_LOSS_DETAIL l = det ∧
     (t.link l).replay = [] ∧ (t.link l).arriving = [] ∧ (t.link l).leftUpAt = none
   let many (s : State) (l : Nat) : Prop := ∃ n, (s.link l).starts[6]? = some n ∧ s.clk.aon - n ≤ 25000000
   let retrains (o : Answer) (s : State) (l : Nat) : Prop :=
     (s.linkUp l = true → (many s l → ∃ t : State, o = .next t ∧ lost t l 5 1) ∧
       (¬ many s l → ∃ t : State, o = .next t ∧ t.fld .LNK_STAT_STATE l = 4 ∧
         t.link l = { s.link l with starts := (s.clk.aon :: (s.link l).starts).take 15, leftUpAt := some s.clk.aon, retrainAt := s.clk.aon }))
   (∀ (who : Bank) (s : State),
    (let u := s.otherAccess who
     (u.selLink who = none ∨ who.isHost = true → exec (.linkEnable who) s = .next u ∧ exec (.linkDisable who) s = .next u ∧
       exec (.lnkRetrain who) s = .next u ∧ exec (.lnkUnfence who) s = .next u) ∧
     ∀ l : Link, u.selLink who = some l → who.isHost = false →
       (let on := u.flag .LNK_CTRL_ENABLE l
        let fenced := u.fld .LNK_STAT_STATE l == 5
        let ks := [Fld.LNK_CTRL_ENABLE.key l 0, Fld.LNK_CTRL_TXN_TO.key l 0, Fld.LNK_CTRL_DATELINE.key l 0]
        let kept (t : State) : Prop := OnlyRegs u t ks ∧ (u.fld .LNK_CTRL_TXN_TO l < 16 → u.fld .LNK_CTRL_DATELINE l < 2 →
          t.fld .LNK_CTRL_TXN_TO l = u.fld .LNK_CTRL_TXN_TO l ∧ t.fld .LNK_CTRL_DATELINE l = u.fld .LNK_CTRL_DATELINE l)
        (∃ t : State, exec (.linkEnable who) s = .next t ∧ t.fld .LNK_CTRL_ENABLE l = 1 ∧ (on = true → kept t) ∧
          (fenced = true → kept t) ∧
          (on = false → fenced = false → OnlyRegs u t (Fld.LNK_STAT_STATE.key l 0 :: ks) ∧ t.fld .LNK_STAT_STATE l = down u l)) ∧
        (∃ t : State, exec (.linkDisable who) s = .next t ∧ t.fld .LNK_CTRL_ENABLE l = 0 ∧ (on = false ∨ fenced = true → kept t) ∧
          (on = true → fenced = false → t.fld .LNK_STAT_STATE l = 0 ∧
            (u.linkUp l = true ∨ (s.link l).leftUpAt ≠ none → lost t l 0 4) ∧
            (u.linkUp l = false → (s.link l).leftUpAt = none → OnlyRegs u t (Fld.LNK_STAT_STATE.key l 0 :: ks)))) ∧
        (on = true → retrains (exec (.lnkRetrain who) s) u l) ∧
        (on = false ∨ u.linkUp l = false → ∃ t : State, exec (.lnkRetrain who) s = .next t ∧ kept t) ∧
        (fenced = true → ∃ t : State, exec (.lnkUnfence who) s = .next t ∧ t.fld .LNK_STAT_STATE l = (if on then down u l else 0) ∧
          t.link l = { s.link l with starts := [] }) ∧
        (fenced = false → ∃ t : State, exec (.lnkUnfence who) s = .next t ∧ kept t)))) ∧
   ∀ (l : Link) (s : State),
    (s.fld .LNK_STAT_STATE l ≠ 1 → ∀ p, exec (.linkTrained l p) s = .next s) ∧ exec (.linkTrained l none) s = .next s ∧
    (s.fld .LNK_STAT_STATE l = 1 → ∀ p, ∃ t : State, exec (.linkTrained l (some p)) s = .next t ∧ t.fld .LNK_STAT_STATE l = 2 ∧
      t.fld .LNK_PEER_VALID l = 1 ∧ t.fld .LNK_PEER_PLINK l = p.link ∧ t.fld .LNK_PEER_PDEV l = p.dev ∧
      OnlyRegs s t [Fld.LNK_STAT_STATE.key l 0, Fld.LNK_PEER_VALID.key l 0, Fld.LNK_PEER_PLINK.key l 0, Fld.LNK_PEER_PDEV.key l 0]) ∧
    (s.fld .LNK_STAT_STATE l ≠ 2 ∨ s.ktl.lms = none → ∀ b, exec (.linkUp l b) s = .next s) ∧
    (s.fld .LNK_STAT_STATE l = 2 → s.ktl.lms ≠ none → (∃ t : State, exec (.linkUp l false) s = .next t ∧ t.fld .KTL_ALERT_KEYMIS 0 = 1 ∧
        OnlyRegs s t [Fld.KTL_ALERT_KEYMIS.key 0 0]) ∧
      (s.net.items = [] → ∃ t : State, exec (.linkUp l true) s = .next t ∧ t.linkUp l = true ∧ t.fld .LNK_STAT_KEYPHASE l = 0 ∧
        t.link l = { starts := (s.link l).starts, inbox := old (s.link l).inbox, forwards := old (s.link l).forwards, wire := (s.link l).wire })) ∧
    (s.linkUp l = false → exec (.linkLockLoss l) s = .next s) ∧ retrains (exec (.linkLockLoss l) s) s l ∧
    ((∀ k : Link, s.linkUp k = true → ¬ many s k) → ∃ t : State, exec .linkRefclkLoss s = .next t ∧
      t.fld .LNK_STAT_STATE l = (if s.linkUp l then 4 else s.fld .LNK_STAT_STATE l)) ∧
    (s.fld .LNK_STAT_STATE l ≠ 4 → exec (.linkRetrainDone l) s = .next s ∧ exec (.retrainTimeout l) s = .next s) ∧
    (s.fld .LNK_STAT_STATE l = 4 →
      ((s.link l).waiting = [] → s.net.items = [] → ∃ t : State, exec (.linkRetrainDone l) s = .next t ∧ t.linkUp l = true ∧
        t.link l = { s.link l with leftUpAt := none, resends := 0, wire := (s.link l).wire ++ (s.link l).replay.map (·.sent) }) ∧
      (s.clk.aon < (s.link l).retrainAt + 1250000 → exec (.retrainTimeout l) s = .next s) ∧
      ((s.link l).retrainAt + 1250000 ≤ s.clk.aon → (many s l → ∃ t : State, exec (.retrainTimeout l) s = .next t ∧ lost t l 5 1) ∧
        (¬ many s l → ∃ t : State, exec (.retrainTimeout l) s = .next t ∧ lost t l (down s l) 2))) ∧
    ((∀ n, (s.link l).leftUpAt = some n → s.linkUp l = true ∨ s.clk.aon < n + 1250000) → exec (.linkLoss l) s = .next s) ∧
    (∀ n, (s.link l).leftUpAt = some n → s.linkUp l = false → n + 1250000 ≤ s.clk.aon →
      (s.fld .LNK_STAT_STATE l ≠ 4 → ∃ t : State, exec (.linkLoss l) s = .next t ∧ lost t l (s.fld .LNK_STAT_STATE l) 2) ∧
      (s.fld .LNK_STAT_STATE l = 4 → ∃ t : State, exec (.linkLoss l) s = .next t ∧
          (many s l → lost t l 5 1) ∧ (¬ many s l → lost t l (down s l) 2))))

/-- What a link does with idle frames, flits, NAKs, LOSS flits, the acknowledgement timer and a key generation
(R435, R437, R438, R439, R440, R444, R457, R461, R586). IDLE_FRAME is ignored, and a flit by a link not in UP or
a fenced device. A flit that fails FEC, CRC (as a reserved FTYPE does) or SEQ is discarded: its counter counts,
and the first discard sends a CTRL flit with NAK for the flit expected. One whose tag fails is counted and asked
for again, or, asked for before, fences the link with detail 3 and alerts the Kettle. An accepted CTRL flit
moves the expected SEQ on, frees what it acknowledges and adds its credits; an accepted DATA flit that holds a
whole transaction for this device puts it in the link's inbox. A NAK for a held flit sends it and all later ones
again unchanged. The acknowledgement timer sends one CTRL flit where one is owed. A key generation switch, due,
100 ms after the last and with nothing older unacknowledged, restarts the counter under the next generation. A
LOSS flit clears the route and is recorded by the link's region. -/
def Obligations.FlitsCrossALink : Prop :=
  ∀ (l : Link) (s : State),
    (let k := s.link l
     let canSend := s.linkUp l = true ∧ s.fenced = false ∧ k.replay.length < 1024 ∧ k.ctr < 2 ^ 32 ∧ k.waiting = []
     let reg (t : State) (f : Fld) : Prop := t.fld f l = (s.fld f l + 1) % 2 ^ 16
     let naks (t : State) : Prop := reg t .LNK_ERR_REPLAY ∧ (t.link l).nakSent = true ∧ (t.link l).expect = k.expect ∧
       ∃ w : Flit, (t.link l).wire = k.wire ++ [w] ∧ w.ftype = 2 ∧ w.nak = true ∧ w.ackseq.val = k.expect % 2 ^ 24 ∧ w.seq.val = k.ctr % 2 ^ 24
     exec (.idleFrame l) s = .next s ∧
     (∀ f : Flit,
       (s.linkUp l = false ∨ s.fenced = true ∨ f.ftype = 0 → exec (.flitReceive l f) s = .next s) ∧
       (s.linkUp l = true → s.fenced = false → f.ftype ≠ 0 →
         (let ok := f.fec = true ∧ f.crc = true ∧ f.ftype.val ≤ 3
          let here := f.seq.val = k.expect ∨ (f.phase ≠ k.recvPhase ∧ f.seq.val = 0)
          (f.fec = false → ∃ t : State, exec (.flitReceive l f) s = .next t ∧ reg t .LNK_ERR_FECUNC ∧ t.fld .LNK_ERR_CRC l = s.fld .LNK_ERR_CRC l ∧
            (k.nakSent = false → canSend → naks t)) ∧
          (f.fec = true → f.crc = false ∨ 3 < f.ftype.val → ∃ t : State, exec (.flitReceive l f) s = .next t ∧ reg t .LNK_ERR_CRC ∧
            (k.nakSent = false → canSend → naks t)) ∧
          (ok → ¬ here → (k.nakSent = false → canSend → ∃ t : State, exec (.flitReceive l f) s = .next t ∧ naks t ∧ t.mem = s.mem) ∧
            (k.nakSent = true → exec (.flitReceive l f) s = .next (s.startFclk (l.val / 2)))) ∧
          (ok → here → f.tagOk = false → (k.badTagSeq ≠ some f.seq.val → canSend → ∃ t : State, exec (.flitReceive l f) s = .next t ∧
              reg t .LNK_ERR_AUTH ∧ naks t ∧ (t.link l).badTagSeq = some f.seq.val) ∧
            (k.badTagSeq = some f.seq.val → ∃ t : State, exec (.flitReceive l f) s = .next t ∧ t.fld .LNK_STAT_STATE l = 5 ∧
              t.fld .LNK_STAT_LOSS_DETAIL l = 3 ∧ t.fld .KTL_ALERT_LINKAUTH 0 = 1 ∧ (t.link l).replay = [])) ∧
          (ok → here → f.tagOk = true → k.waiting = [] → k.badTagSeq = none → k.sinceAck < 63 → f.nak = false →
            (let taken (t : State) : Prop := (t.link l).expect = (f.seq.val + 1) % 2 ^ 24 ∧ (t.link l).recvPhase = f.phase ∧
               (t.link l).nakSent = false ∧ (t.link l).ackOwed = true ∧ (t.link l).sinceAck = k.sinceAck + 1 ∧
               (t.link l).replay = (k.acked f.ackseq.val).replay ∧ (t.link l).wire = k.wire ∧ ∀ v : Nat, v < 4 → (t.link l).credits.getD v 0 =
                 k.credits.getD v 0 + (f.cred.getD v 0 % 1024 + 1024 - k.credSeen.getD v 0 % 1024) % 1024
             (f.ftype = 2 → ∃ t : State, exec (.flitReceive l f) s = .next t ∧ taken t ∧ (t.link l).inbox = k.inbox ∧ t.mem = s.mem ∧ t.regs = s.regs) ∧
             (f.ftype = 1 → f.abort = false → (∀ p ∈ k.arriving, p.1 ≠ f.vc.val) →
               (let x := Xact.ofHeader (f.body.take 32)
                ttypeData x.ttype = true → x.dataLen ≤ 192 → s.devValid = false ∨ x.dst = s.devId →
                ∃ t : State, exec (.flitReceive l f) s = .next t ∧ taken t ∧ t.mem = s.mem ∧ t.regs = s.regs ∧
                  (t.link l).inbox = k.inbox ++ [(f.vc.val, { x with data := (f.body.drop 32).take x.dataLen })]))))))) ∧
     (∀ n : Nat, (s.linkUp l = false ∨ (∀ e ∈ k.replay, e.sent.seq.val ≠ n) → exec (.flitNakReceive l n) s = .next s) ∧
       (∀ i : Nat, s.linkUp l = true → k.replay.findIdx? (fun e => e.sent.seq.val == n) = some i →
         (let rest := k.replay.drop i
          let first := (rest.head?.map (·.ctr)).getD 0
          let m := if k.resendSeq = first then k.resends else 0
          (m < 8 → ∃ t : State, exec (.flitNakReceive l n) s = .next t ∧ t = s.setLink l { k with
            replay := rest, resendSeq := first, resends := m + 1, wire := k.wire ++ rest.map (·.sent) }) ∧
          (8 ≤ m → k.starts[6]? = none → ∃ t : State, exec (.flitNakReceive l n) s = .next t ∧ t.fld .LNK_STAT_STATE l = 4 ∧ (t.link l).replay = rest)))) ∧
     (s.linkUp l = false ∨ k.ackOwed = false → exec (.ackTimer l) s = .next s) ∧
     (canSend → k.ackOwed = true → ∃ (t : State) (w : Flit), exec (.ackTimer l) s = .next t ∧ (t.link l).wire = k.wire ++ [w] ∧ w.ftype = 2 ∧ w.nak = false ∧
       w.ackseq.val = (k.expect + 16777215) % 2 ^ 24 ∧ (t.link l).ackOwed = false ∧ t.regs = s.regs ∧ t.mem = s.mem) ∧
     (let due := (2 ^ 32 ≤ k.ctr ∨ k.rekey = true) ∧ (∀ n : Nat, k.switchedAt = some n → n + 2500000 ≤ s.clk.aon) ∧
        (∀ e ∈ k.replay, e.sent.phase = phaseOf k.keyGen) ∧ s.linkUp l = true
      (¬ due → exec (.keyGenerationSwitch l) s = .next s) ∧
      (due → k.waiting = [] → ∃ t : State, exec (.keyGenerationSwitch l) s = .next t ∧ t.fld .LNK_STAT_KEYPHASE l = (k.keyGen + 1) % 2 ∧
        OnlyRegs (s.setLink l { k with keyGen := k.keyGen + 1, ctr := 0, rekey := false, switchedAt := some s.clk.aon }) t
          [Fld.LNK_STAT_KEYPHASE.key l 0])) ∧
     (s.linkUp l = false → ∀ d : Nat, exec (.lossFlit l d) s = .next s) ∧
     (s.linkUp l = true → s.net.items = [] → ∀ d : Nat, ∃ t : State, exec (.lossFlit l d) s = .next t ∧
       t.routeEntry (d % 16384) = s.routeEntry (d % 16384) % 128 ∧ (∀ e : Nat, e ≠ d % 16384 → t.routeEntry e = s.routeEntry e) ∧
       (∀ r : Region, r.val = l.val / 2 → (s.errq (.region r)).recs.length < 64 → ∃ e : ErrRec, (t.errq (.region r)).recs = (s.errq (.region r)).recs ++ [e] ∧
         e.cause = 0x28 ∧ e.status = 0xC1 ∧ e.detail = 2 ∧ e.info = d % 16384)))

/-- Transactions that arrive, responses that settle items, forwarding, timeouts and tags (R446, R447, R448, R449,
R451, R452, R453, R465, R471, R472, R475). A command about a type no transaction of which waits at its link does
nothing. WR and RDREQ whose memory sleeps or is in use wait. WR, RDREQ and CDATA to a device without an ID, from
an old epoch, to no memory or to no live group are refused. An acceptable WR writes its bytes, no others, and is
confirmed; of a compressed one the first part is kept. A good RDREQ is answered with one RDATA of the bytes
read. CDATA of a running collective is taken in and renews its time. READY is held for a collective not started,
ends one it contradicts, or lets data go; CABORT ends it with 0xC1 detail 5; one that ends leaves memory outside
its destination as it was. WCMP, RDATA and NAK settle the one item they name: it leaves, its instruction has one
item less, counts its bytes and takes the status; RDATA lands its bytes, and a part of them leaves the item
waiting. A transaction to forward leaves on its egress link, one still arriving as far as it has come, or is
refused. TRANSACTION_TIMEOUT ends the item with 0xC1 detail 3 and keeps its tag out of use; TAG_RELEASE frees it
as long after. -/
def Obligations.TransactionsAreServedAndForwarded : Prop :=
  ∀ (l : Link) (s : State),
    (let k := s.link l
     let absent (ty : Nat) : Prop := ∀ p ∈ k.inbox, p.2.ttype ≠ ty
     (absent 1 → exec (.linkWr l) s = .next s) ∧ (absent 2 → exec (.linkRdreq l) s = .next s) ∧ (absent 3 → exec (.linkCdata l) s = .next s) ∧
     (absent 0x10 → exec (.linkWcmp l) s = .next s) ∧ (absent 0x11 → exec (.linkRdata l) s = .next s) ∧
     (absent 0x12 → exec (.linkNak l) s = .next s) ∧ (absent 0x13 → exec (.linkReady l) s = .next s) ∧
     (absent 0x14 → exec (.linkCabort l) s = .next s) ∧
     (∀ vc x rest, k.inbox = (vc, x) :: rest →
       (let u := (s.setLink l { k with inbox := rest }).freeBuf l vc x.held
        let n := x.len + 1
        let clear := s.peerRange x.addr n = true ∧ s.waitFor [(x.addr, n)] = none
        let refused (o : Answer) : Prop := ∀ st d, s.inboundBad x = some (st, d) → o = .next (u.refuseXact l x st d (st == 0x82))
        let kept (p : Nat) : Prop := (s.place (canonical p)).memory = true ∧ s.storeGone (canonical p) = false
        let plain := PlainMemory s ∧ s.coh.dir = []
        (x.ttype = 1 → refused (exec (.linkWr l) s) ∧
          (s.inboundBad x = none → s.peerRange x.addr n = false → exec (.linkWr l) s = .next ((u.noteRange (164 + l) x.addr n true).refuseXact l x 0xC0 3 true)) ∧
          (s.inboundBad x = none → s.peerRange x.addr n = true → ∀ v, s.waitFor [(x.addr, n)] = some v →
            exec (.linkWr l) s = .next v) ∧
          (s.inboundBad x = none → clear → x.comp = false → x.data.length = n → ∃ t : State,
            exec (.linkWr l) s = .next (t.sendReply (x.reply 0x10 0 0)) ∧ t.link l = u.link l ∧ (plain →
              (∀ p, (∀ i : Nat, i < n → canonical (x.addr + i) ≠ p) → t.mem.byte p = s.mem.byte p) ∧
              ∀ i : Nat, i < n → kept (x.addr + i) → t.mem.byte (canonical (x.addr + i)) = x.data.getD i 0)) ∧
          (s.inboundBad x = none → clear → x.comp = true → s.rangeFree (x.addr / 65536 * 65536) 65536 = true → s.net.segs = [] →
            fieldAt x.data 0 4 ≠ 0x31584356 → exec (.linkWr l) s = .next { u with
              net := { u.net with segs := [{ src := x.src, dpa := x.addr / 65536 * 65536, xs := [(l.val, x)] }] } })) ∧
        (x.ttype = 2 → refused (exec (.linkRdreq l) s) ∧
          (s.inboundBad x = none → s.peerRange x.addr n = false → exec (.linkRdreq l) s = .next ((u.noteRange (164 + l) x.addr n false).refuseXact l x 0xC0 3 true)) ∧
          (s.inboundBad x = none → s.peerRange x.addr n = true → ∀ v, s.waitFor [(x.addr, n)] = some v →
            exec (.linkRdreq l) s = .next v) ∧
          (s.inboundBad x = none → clear → s.mem.coded = [] → (∀ y ∈ s.byteList x.addr n, y.2 = 0) → exec (.linkRdreq l) s = .next
            ((u.noteRead ⟨164 + l, none⟩ x.cls x.addr n).sendReply { x.reply 0x11 0 0 with len := x.len, data := (s.byteList x.addr n).map (·.1) }))) ∧
        (x.ttype = 3 → refused (exec (.linkCdata l) s) ∧ (s.inboundBad x = none →
          (s.group x.grp = none → exec (.linkCdata l) s = .next (u.refuseXact l x 0xC0 3 true)) ∧
          ∀ g, s.group x.grp = some g → (s.collEnded g x.colseq = true → exec (.linkCdata l) s = .next (u.refuseXact l x 0x82 3 true)) ∧
            ∀ c, s.collEnded g x.colseq = false → s.coll x.grp x.colseq = some c → c.started = true → c.ready = [] → s.net.items = [] →
              ∃ t c', exec (.linkCdata l) s = .next t ∧ t.coll x.grp x.colseq = some c' ∧ c'.lastAt = s.clk.aon ∧ c'.parts = c.parts ∧
                t.mem = s.mem ∧ (t.link l).inbox = rest)) ∧
        (x.ttype = 0x13 → (s.group x.grp = none → exec (.linkReady l) s = .next (u.refuseXact l x 0xC0 3 true)) ∧
          ∀ g, s.group x.grp = some g → (s.collEnded g x.colseq = true → exec (.linkReady l) s = .next u) ∧ (s.collEnded g x.colseq = false →
            ((∀ c, s.coll x.grp x.colseq = some c → c.started = false) → exec (.linkReady l) s = .next { u with
              net := { u.net with readies := s.net.readies ++ [⟨x.src, x.grp, x.colseq, x.op % 16, x.op / 16 % 8⟩] } }) ∧
            ∀ c, s.coll x.grp x.colseq = some c → c.started = true →
              (x.op % 16 ≠ c.op ∨ x.op / 16 % 8 ≠ c.rop → ∃ t : State, exec (.linkReady l) s = .next t ∧ t.coll x.grp x.colseq = none ∧
                (plain → TensorsBut s t [Desc.ofLine c.lineD])) ∧
              (x.op % 16 = c.op → x.op / 16 % 8 = c.rop → c.outs = [] → s.net.items = [] → ∃ t : State, exec (.linkReady l) s = .next t ∧
                t.coll x.grp x.colseq = some { c with ready := c.ready ++ [x.src], lastAt := s.clk.aon, flushed := false } ∧ t.mem = s.mem))) ∧
        (x.ttype = 0x14 → (s.group x.grp = none → exec (.linkCabort l) s = .next (u.refuseXact l x 0xC0 3 true)) ∧
          ∀ g, s.group x.grp = some g → (s.collEnded g x.colseq = true → exec (.linkCabort l) s = .next u) ∧
            ∀ c, s.collEnded g x.colseq = false → s.coll x.grp x.colseq = some c → ∃ t : State, exec (.linkCabort l) s = .next t ∧
              t.coll x.grp x.colseq = none ∧ (plain → TensorsBut s t [Desc.ofLine c.lineD]) ∧ ∀ r : Region, r.val = c.region → ∀ f ∈ (t.exe (.seq r)).flights,
                f.uid = c.uid → f.items = 0 ∧ f.status = 0xC1 ∧ f.detail = 5) ∧
        (∀ it y, s.net.items = [it] → it.st = .sent → it.link = x.slink → it.tag = x.tag → it.coll = none → it.buffered = false →
          execOf it.exec = some y →
          (let settled (t : State) (o : Nat × Nat) (bytes : Nat) : Prop := t.net.items = [] ∧ (t.exe y).flights = (s.exe y).flights.map (fun f =>
             if f.uid = it.uid then { f with items := f.items - 1, count := f.count + bytes, status := (worst (f.status, f.detail) o).1
                                             detail := (worst (f.status, f.detail) o).2, forced := f.forced } else f)
           let failedAs (t : State) (o : Nat × Nat) (bytes : Nat) : Prop := t.net.items = [] ∧ ∀ f ∈ (t.exe y).flights, f.uid = it.uid →
             f.forced = true ∧ ∃ g ∈ (s.exe y).flights, g.uid = it.uid ∧ f.items = g.items - 1 ∧ f.count = g.count + bytes ∧
               (f.status, f.detail) = worst (g.status, g.detail) o
           let m := x.data.length
           (x.ttype = 0x10 → it.x.ttype = 1 ∨ it.x.ttype = 3 → ∃ t : State, exec (.linkWcmp l) s = .next t ∧ settled t (0, 0) it.left ∧ t.mem = s.mem) ∧
           (x.ttype = 0x11 → it.x.ttype = 2 → s.waitFor [(it.dst + x.offset, m)] = none →
             x.poison = false → it.x.poison = false → (∀ i : Nat, i < m → kept (it.dst + x.offset + i)) → ∃ t : State, exec (.linkRdata l) s = .next t ∧
               (it.left ≤ m → settled t (0, 0) (it.got + m)) ∧ (m < it.left → t.net.items = [{ it with left := it.left - m, got := it.got + m }]) ∧
               (plain → (∀ p, (∀ i : Nat, i < m → canonical (it.dst + x.offset + i) ≠ p) → t.mem.byte p = s.mem.byte p) ∧
                 ∀ i : Nat, i < m → t.mem.byte (canonical (it.dst + x.offset + i)) = x.data.getD i 0)) ∧
           (x.ttype = 0x12 → it.x.ttype = 1 → x.status ≠ 0 → ∃ t : State, exec (.linkNak l) s = .next t ∧ failedAs t (x.status, x.detail) (if x.status = 0xC0 ∧ x.detail = 3 then 0 else it.got) ∧ t.mem = s.mem) ∧
           (x.ttype = 0x12 → it.x.ttype = 2 → x.status = 0xC0 → x.detail = 3 → s.waitFor [(it.dst, it.x.len + 1)] = none → ∃ t : State, exec (.linkNak l) s = .next t ∧ failedAs t (0xC0, 3) (s.landed it.dst (it.x.len + 1)) ∧ (plain →
               ∀ i : Nat, i < it.x.len + 1 → kept (it.dst + i) → t.mem.byte (canonical (it.dst + i)) = 0)))))) ∧
     (k.forwards = [] → k.arriving = [] → exec (.transactionForward l) s = .next s) ∧
     (∀ vc x rest, k.forwards = (vc, x) :: rest →
       (let u := (s.setLink l { k with forwards := rest }).freeBuf l vc x.held
        let way := s.way x.dst (ttypeResp x.ttype) (some (l.val, vc % 4)) false
        (way = .wait → exec (.transactionForward l) s = .next s) ∧
        (∀ e v, way = .out e v → exec (.transactionForward l) s = .next (u.linkPush e (x.flits v .forward))) ∧
        (way = .refused ∨ way = .noRoute → exec (.transactionForward l) s = .next (if ttypeResp x.ttype then u else
          u.sendReply (if way = .refused then x.reply 0x12 0xC0 3 else x.reply 0x12 0xC1 1))))) ∧
     (∀ vc a e v, k.forwards = [] → k.arriving = [(vc, a)] → a.forward = true → a.egress = none → a.dropped = false →
       s.way a.x.dst (ttypeResp a.x.ttype) (some (l.val, vc)) false = .out e v →
       exec (.transactionForward l) s = .next (((s.setArriving l vc (some { a with egress := some (e, v) })).freeBuf l vc
         (flitsOf a.x.data.length)).linkPush e (a.x.flits v .forward))) ∧
     ∀ tag, ((∀ i ∈ s.net.items, i.st = .sent → i.link = l.val → i.tag = tag → s.clk.aon < i.sentAt + s.txnTimeout l) →
         exec (.transactionTimeout l tag) s = .next s) ∧
       ((∀ i ∈ s.net.items, i.st = .quarantined → i.link = l.val → i.tag = tag → s.clk.aon < i.sentAt + s.txnTimeout l) →
         exec (.tagRelease l tag) s = .next s) ∧
       ∀ it, s.net.items = [it] → it.link = l.val → it.tag = tag → it.sentAt + s.txnTimeout l ≤ s.clk.aon →
         (it.st = .quarantined → exec (.tagRelease l tag) s = .next { s with net := { s.net with items := [], puts := [] } }) ∧
         (it.st = .sent → it.coll = none → it.buffered = false → ∀ y, execOf it.exec = some y → ∃ t : State, exec (.transactionTimeout l tag) s = .next t ∧
           t.net.items = [{ it with st := .quarantined, sentAt := s.clk.aon, uid := 0 }] ∧ t.mem = s.mem ∧
           ∀ f ∈ (t.exe y).flights, f.uid = it.uid → f.forced = true ∧ ∃ g ∈ (s.exe y).flights, g.uid = it.uid ∧ f.items = g.items - 1 ∧
             (f.status, f.detail) = worst (g.status, g.detail) (0xC1, 3)))

/-- Requests are taken or refused, samples go to lanes, and engines and lanes complete them (R487, R488, R489, R490,
R491, R492, R493, R499, R502, R503, R632). Nothing is taken while the device is fenced, the pipeline is off or
another ring has the turn; an entry without its tag is watched, a poisoned one reported once. A request taken
joins the samples with its cost, HEAD rises and the turn passes; a bad one leaves an input event of type 0x43
with its CAUSE and a manifest entry, both shown with their rings off. The oldest sample waiting stays while no
lane takes part or no staging slot is free; implausible, it is refused with 0x41; otherwise it goes to the least
loaded lane with a free slot and that lane's backlog grows by its cost; a core or host lane gets an assignment
record. A period makes every rate (7 rate + done) / 8. A sample an engine completes within its budget has its
output in its staging slot, the next number of completion, and its cost credited; without damage AVG follows it.
A budget spent sends the sample to the core lane with SLOW_LANE; output past the limit refuses it with 0x84. A
return record completes or refuses the sample it answers and is discarded when it answers none. SRC numbers and
the rounding of AVG are the model's (log). -/
def Obligations.SamplesAreTakenDividedAndDecoded : Prop :=
  ∀ (s : State),
    (let off := s.ringOn .inputEvent = false ∧ s.ringOn .manifest = false
     let plain := PlainMemory s ∧ s.coh.dir = []
     let kept (p : Nat) : Prop := (s.place (canonical p)).memory = true ∧ s.storeGone (canonical p) = false
     let event (t : State) (ty st cause : Nat) : Prop := ∃ r, (t.ring .inputEvent).buf = (s.ring .inputEvent).buf ++ [r] ∧
       fieldAt r 0 1 = ty ∧ fieldAt r 1 1 = st ∧ fieldAt r 6 1 = cause
     let refusal (t : State) (x : Sample) (st : Nat) : Prop := ∃ r, (t.ring .manifest).buf = (s.ring .manifest).buf ++ [r] ∧
       fieldAt r 0 5 = x.sampleId ∧ (x.lane < 6 → (fieldAt r 5 1).testBit 7 = true) ∧ fieldAt r 6 1 = st ∧ fieldAt r 14 2 = 0xFFFF
     let now (t : State) (x : Sample) (p : Sample → Prop) : Prop := (∃ y ∈ t.pipe.samples, y.uid = x.uid) ∧ ∀ y ∈ t.pipe.samples, y.uid = x.uid → p y
     let credited (t : State) (l cost : Nat) : Prop :=
       t.lane l = { s.lane l with backlog := (s.lane l).backlog - cost, done := (s.lane l).done + cost } ∧ ∀ k, k ≠ l → t.lane k = s.lane k
     (∀ n : Fin 4,
       (let ring := RingId.sampleReq n
        let b := (s.rqEntry ring).bytes
        (s.fenced = true ∨ s.flag .COL_CTRL_EN 0 = false → exec (.sampleRequest n) s = .next s) ∧
        (s.fenced = false → s.flag .COL_CTRL_EN 0 = true →
          ((s.rqEntry ring).detail ≠ 0 → ∃ t : State, exec (.sampleRequest n) s = .next t ∧ (t.ring ring).head = (s.ring ring).head ∧
            t.pipe.samples = s.pipe.samples ∧ (s.ringOn ring = true → plain → off → s.ringAccepts .inputEvent = true →
              s.pipe.poisonSeen.contains (ringKey ring, (s.ring ring).head) = false → event t 0x43 0xC0 2)) ∧
          ((s.rqEntry ring).detail = 0 → s.ringOn ring = true → s.entryReady ring = false → exec (.sampleRequest n) s = .next (s.watchRing ring)) ∧
          ((s.rqEntry ring).detail = 0 → s.ringOn ring = false ∨ s.entryReady ring = true → s.requestTurn ≠ some n ∨ s.reportsFit = false →
            exec (.sampleRequest n) s = .next s)) ∧
        (s.fenced = false → s.flag .COL_CTRL_EN 0 = true → (s.rqEntry ring).detail = 0 → s.requestTurn = some n → s.reportsFit = true →
          ∀ x : Sample, x.uid = s.nextUid → x.req = b → x.lane = 0 → x.entry = s.ringEntry ring (s.ring ring).head →
          s.waitFor ((s.xformAddr x, 64) :: (if s.requestBad x then [] else [(x.src, x.srcLen)])) = none →
          ∃ t : State, exec (.sampleRequest n) s = .next t ∧ (t.ring ring).head = (s.ring ring).head + 1 ∧ t.pipe.nextRing = (n.val + 1) % 4 ∧
            t.nextUid = s.nextUid + 1 ∧
            (s.requestCause x = 0 → (∃ y, t.pipe.samples = s.pipe.samples ++ [y] ∧ y.uid = x.uid ∧ y.req = b ∧ y.at_ = .wait ∧
                 y.cost = x.kib * s.fld (if x.content = 1 then .COL_CWT_JPEG else if x.content = 2 then .COL_CWT_PNG else .COL_CWT_TEXT) 0) ∧
               (plain → RegsBut s t accessRegs ∧ (∀ p, (∀ i : Nat, i < 8 → canonical (s.ringCb ring + 64 + i) ≠ p) → t.mem.byte p = s.mem.byte p) ∧
                 ∀ i : Nat, i < 8 → kept (s.ringCb ring + 64 + i) →
                   t.mem.byte (canonical (s.ringCb ring + 64 + i)) = (leBytes 8 ((s.ring ring).head + 1)).getD i 0)) ∧
            (s.requestCause x ≠ 0 → t.pipe.samples = s.pipe.samples.filter (fun y => y.uid ≠ x.uid) ∧
               (off → event t 0x43 0xC0 (s.requestCause x) ∧ refusal t x 0xC0))))) ∧
     (∀ hdr : SampleHeader, ((∀ x ∈ s.pipe.samples, x.at_ ≠ .wait) → exec (.sampleDispatch hdr) s = .next s) ∧
       ∀ x, s.pipe.samples.find? (fun x => x.at_ == .wait) = some x →
         (let cause := SampleHeader.cause hdr x
          let slow := SampleHeader.slow hdr x
          let lane := s.leastLane x.cost ((if slow then [1] else List.range 6).filter (fun l => s.laneOpen x l))
          (s.fenced = true ∨ s.reportsFit = false → exec (.sampleDispatch hdr) s = .next s) ∧
          (s.fenced = false → s.reportsFit = true → x.noHost = [] → cause ≠ 0 → ∃ t : State, exec (.sampleDispatch hdr) s = .next t ∧
            t.pipe.samples = s.pipe.samples.filter (fun y => y.uid ≠ x.uid) ∧ (off → t.mem = s.mem ∧ event t 0x41 0x84 cause ∧ refusal t x 0x84)) ∧
          (s.fenced = false → s.reportsFit = true → x.noHost ≠ [] ∨ cause = 0 →
            (lane = none ∨ s.freeSlots = [] → exec (.sampleDispatch hdr) s = .next s) ∧
            ∀ l, lane = some l → s.freeSlots ≠ [] → (l = 0 ∨ s.ringAccepts (laneRing l) = true) → ∃ t : State, exec (.sampleDispatch hdr) s = .next t ∧
              now t x (fun y => y.slot ∈ s.freeSlots ∧ y.lane = l ∧ y.req = x.req ∧ (y.budget = none ↔ s.fld .COL_CTRL_SLOWMUL 0 = 0) ∧
                (if l = 0 then y.at_ = .queued ∨ ∃ e, e < 32 ∧ y.at_ = .engine e
                 else y.at_ = (if l = 1 then .core else .host (l - 2) (s.fld .HPT_EPOCH_EPOCH (l - 2))) ∧
                   (s.ringOn (laneRing l) = false → s.ringOn .inputEvent = false →
                     (t.ring (laneRing l)).buf = (s.ring (laneRing l)).buf ++ [s.assignment x y.slot l]))) ∧
              t.lane l = { s.lane l with backlog := (s.lane l).backlog + x.cost } ∧ (∀ k, k ≠ l → t.lane k = s.lane k) ∧
              (l = 0 → plain → t = { s with
                pipe := t.pipe, free := s.free + 1, regs := t.regs, blks := t.blks, budgets := t.budgets
                clk := { s.clk with fclkStopped := t.clk.fclkStopped } }) ∧ (slow = true → off → event t 0x42 0x04 2)))) ∧
     (∃ t : State, exec .laneRatePeriod s = .next t ∧ t = { s with pipe := { s.pipe with lanes := t.pipe.lanes } } ∧
       ∀ l, t.lane l = if l < 6 then { s.lane l with rate := (7 * (s.lane l).rate + (s.lane l).done) / 8, done := 0 } else s.lane l) ∧
     (∀ (e : Engine) (cycles : Nat), (s.inEngine e = none →
         exec (.sampleDecodeComplete e cycles) s = .next s ∧ exec (.slowLaneAbandon e) s = .next s ∧ exec (.decodeSizeLimit e) s = .next s) ∧
       (s.fenced = true →
         exec (.sampleDecodeComplete e cycles) s = .next s ∧ exec (.slowLaneAbandon e) s = .next s ∧ exec (.decodeSizeLimit e) s = .next s) ∧
       ∀ x, s.inEngine e = some x → s.fenced = false →
         (let d := s.decodeSample x
          ((∃ n, x.budget = some n ∧ n < cycles) ∨ s.tooLong x = true → exec (.sampleDecodeComplete e cycles) s = .next s) ∧
          ((∀ n, x.budget = some n → cycles ≤ n) → s.tooLong x = false → s.ringAccepts .inputEvent = true →
            s.waitFor ((s.slotAddr x.slot, d.bytes.length) :: (x.src, x.srcLen) ::
              (if x.content = 3 then [(s.fld .COL_TOKBASE_BASE 0 * 4096, 8 * min (s.fld .COL_TOKN_NENT 0) 262144)] else [])) = none → ∃ t : State, exec (.sampleDecodeComplete e cycles) s = .next t ∧
              now t x (fun y => y.at_ = .done ∧ y.order = s.pipe.orders ∧ y.units = d.units ∧ y.cut = d.cut ∧ y.slot = x.slot) ∧
              t.pipe.orders = s.pipe.orders + 1 ∧ credited t 0 x.cost ∧ (d.cause = 0 → t.fld .COL_AVG_AVG 0 (x.content - 1) =
                newAverage (s.fld .COL_AVG_AVG 0 (x.content - 1)) cycles x.srcLen % 2 ^ Fld.COL_AVG_AVG.width) ∧
              (off → (d.cause ≠ 0 → event t 0x40 0x02 (d.cause % 256)) ∧ (plain → d.bytes.length ≤ 2 ^ 30 →
                (∀ p, (∀ i : Nat, i < d.bytes.length → canonical (s.slotAddr x.slot + i) ≠ p) → t.mem.byte p = s.mem.byte p) ∧
                ∀ i : Nat, i < d.bytes.length → kept (s.slotAddr x.slot + i) → t.mem.byte (canonical (s.slotAddr x.slot + i)) = d.bytes.getD i 0))) ∧
          (x.budget = none ∨ (∃ n, x.budget = some n ∧ (s.clk.aon - x.began) * 80 < n) → exec (.slowLaneAbandon e) s = .next s) ∧
          ((∃ n, x.budget = some n ∧ n ≤ (s.clk.aon - x.began) * 80) → s.ringAccepts .inputEvent = true → s.ringAccepts .coreLane = true →
            ∃ t : State, exec (.slowLaneAbandon e) s = .next t ∧
              now t x (fun y => y.at_ = .core ∧ y.lane = 1 ∧ y.slot = x.slot ∧ y.budget = none ∧ y.status = 0x04) ∧
              t.lane 0 = { s.lane 0 with backlog := (s.lane 0).backlog - x.cost } ∧
              t.lane 1 = { s.lane 1 with backlog := (s.lane 1).backlog + x.cost } ∧
              (off → s.ringOn .coreLane = false → t.mem = s.mem ∧ event t 0x42 0x04 1 ∧
                (t.ring .coreLane).buf = (s.ring .coreLane).buf ++ [s.assignment x x.slot 1])) ∧
          (s.tooLong x = false → exec (.decodeSizeLimit e) s = .next s) ∧
          (s.tooLong x = true → s.reportsFit = true → ∃ t : State, exec (.decodeSizeLimit e) s = .next t ∧ (∀ y ∈ t.pipe.samples, y.uid ≠ x.uid) ∧
            credited t 0 x.cost ∧ (off → t.mem = s.mem ∧ event t 0x41 0x84 3 ∧ refusal t x 0x84)))) ∧
     exec (.laneReturn .engine) s = .next s ∧
     ∀ (lane : Lane) (ring : RingId), Lane.returns lane = some ring →
       (let b := (s.rqEntry ring).bytes
        (s.fenced = true → exec (.laneReturn lane) s = .next s) ∧
        (s.fenced = false → (s.rqEntry ring).detail ≠ 0 → ∃ t : State, exec (.laneReturn lane) s = .next t ∧ (t.ring ring).head = (s.ring ring).head ∧
          t.pipe.samples = s.pipe.samples ∧ ∀ k, t.lane k = s.lane k) ∧
        (s.fenced = false → (s.rqEntry ring).detail = 0 → s.ringOn ring = true → s.entryReady ring = false →
          exec (.laneReturn lane) s = .next (s.watchRing ring)) ∧
        ((s.rqEntry ring).detail = 0 → s.ringOn ring = false ∨ s.entryReady ring = true → s.entryReady ring = false ∨ s.reportsFit = false →
          exec (.laneReturn lane) s = .next s) ∧
        (s.fenced = false → s.entryReady ring = true → s.reportsFit = true →
          (s.returned lane b = none → ∃ t : State, exec (.laneReturn lane) s = .next t ∧ t.pipe.samples = s.pipe.samples ∧
            (t.ring ring).head = (s.ring ring).head + 1 ∧ ∀ k, t.lane k = s.lane k) ∧
          ∀ x, s.returned lane b = some x → ∃ t : State, exec (.laneReturn lane) s = .next t ∧ (t.ring ring).head = (s.ring ring).head + 1 ∧
            credited t x.lane x.cost ∧
            (fieldAt b 1 1 < 0x80 → now t x (fun y => y.at_ = .done ∧ y.order = s.pipe.orders ∧ y.units = fieldAt b 16 4 ∧ y.slot = x.slot) ∧
              t.pipe.orders = s.pipe.orders + 1) ∧
            (0x80 ≤ fieldAt b 1 1 → (∀ y ∈ t.pipe.samples, y.uid ≠ x.uid) ∧
              (off → event t (if fieldAt b 1 1 = 0x84 then 0x41 else 0x43) (fieldAt b 1 1) (fieldAt b 20 1) ∧ refusal t x (fieldAt b 1 1))))))

/-- Completed samples are packed, micro-batches closed, replay records followed, and streams loaded and unloaded
(R490, R494, R495, R496, R497, R498, R499, R500). Nothing is packed while the device is fenced, in replay, for
another slot or a stream not loaded; without a free buffer the packer waits and watches the consumer's line, and
it waits for stores that sleep and lines in use. The first completed sample joins the open micro-batch at its
UNITS, or opens one with the STEP and MICRO of R497, its slot is freed, and the micro-batch closes at BUDGET or
MAXSAMP: TAIL and m rise. With the manifest ring off, no line cached and no slot coded, only the copied units,
the sample's table entry and what a close writes change; the table entry, the units and TAIL are read back. A
micro-batch that is full closes first. FLUSH aon cycles without a placement close one. A replay record of a
refusal consumes the same refusal, one of a placement places its sample where it says; a difference sets RPLERR
and a sample not there is waited for. A load takes a valid record and the counter of its control block, else
RESULT 1, or 2 while a micro-batch is open; a load from the store of a sleeping block wakes it and is made once
the block runs; an unload clears the stream; host ports' writes are discarded. That a load begins at m = 0 is
the model's reading. -/
def Obligations.SamplesArePackedIntoMicroBatches : Prop :=
  ∀ (s : State),
    (let plain := PlainMemory s ∧ s.coh.dir = [] ∧ s.ringOn .manifest = false
     let kept (p : Nat) : Prop := (s.place (canonical p)).memory = true ∧ s.storeGone (canonical p) = false
     let out (p a n : Nat) : Prop := ∀ i : Nat, i < n → canonical (a + i) ≠ p
     let holds (t : State) (a : Nat) (l : List Byte) (but : Nat → Prop) : Prop := ∀ i : Nat, i < l.length → kept (a + i) → but (canonical (a + i)) →
       t.mem.byte (canonical (a + i)) = l.getD i 0
     let closed (t : State) (n : Nat) : Prop := t.stream n = { s.stream n with mb := none, tail := (s.stream n).tail + 1, m := (s.stream n).m + 1 }
     let others (t : State) (n : Nat) : Prop := ∀ k, k ≠ n → t.stream k = s.stream k
     let entry (x : Sample) (off u : Nat) : List Byte := leBytes 5 x.sampleId ++ leBytes 3 x.status ++ leBytes 4 off ++ leBytes 4 u
     (∀ st : Fin 16,
       ((s.fenced = true ∨ s.flag .COL_CTRL_REPLAY 0 = true ∨ (s.stream st).mb = none → exec (.microbatchFlush st) s = .next s) ∧
        ∀ r o, (s.stream st).rcd = some r → (s.stream st).mb = some o →
          (let c := streamCfg r
           let rest := c.unit o.image * (c.budget - o.units)
           let reach := s.waitFor (c.ranges o.buf o.image o.units)
           (c.flush = 0 ∨ o.nsamp = 0 ∨ s.clk.aon < o.last + c.flush → exec (.microbatchFlush st) s = .next s) ∧
           (s.fenced = false → s.flag .COL_CTRL_REPLAY 0 = false → c.flush ≠ 0 → o.nsamp ≠ 0 → o.last + c.flush ≤ s.clk.aon →
             (∀ v, reach = some v → exec (.microbatchFlush st) s = .next v) ∧ (reach = none → ∃ t : State, exec (.microbatchFlush st) s = .next t ∧ closed t st ∧ others t st ∧ t.pipe.samples = s.pipe.samples ∧
               (plain → RegsBut s t accessRegs ∧ (∀ p, out p (c.buf o.buf + c.off + c.unit o.image * o.units) rest → out p (c.buf o.buf) 64 → out p c.cb 8 →
                   t.mem.byte p = s.mem.byte p) ∧
                 holds t c.cb (leBytes 8 ((s.stream st).tail + 1)) (fun _ => True) ∧
                 holds t (c.buf o.buf) (leBytes 6 o.step ++ leBytes 2 o.micro ++ leBytes 4 o.nsamp ++ leBytes 4 o.units) (fun p => out p c.cb 8))))))) ∧
     (∀ slot, (s.firstDone = none → exec (.samplePack slot) s = .next s) ∧
       ∀ x, s.firstDone = some x →
         ((s.fenced = true ∨ x.slot ≠ slot ∨ s.flag .COL_CTRL_REPLAY 0 = true ∨ (s.stream x.stream).rcd = none → exec (.samplePack slot) s = .next s) ∧
          ∀ r, (s.stream x.stream).rcd = some r → s.fenced = false → x.slot = slot → s.flag .COL_CTRL_REPLAY 0 = false → s.ringAccepts .manifest = true →
            (let n := x.stream
             let k := s.stream n
             let c := streamCfg r
             let u := c.keeps x
             let placed (t : State) (o : OpenMb) : Prop := t.pipe.samples = s.pipe.samples.filter (fun y => y.uid ≠ x.uid) ∧ others t n ∧
               (if c.budget ≤ o.units + u ∨ o.nsamp + 1 = c.maxSamp then closed t n
                else t.stream n = { k with mb := some { o with
                  nsamp := o.nsamp + 1, units := o.units + u, flags := o.flags ||| bit1 (x.status == 0x02) ||| (2 * bit1 (c.cuts x))
                  image := if c.text then 0 else (xformOf x.xf).imageBytes, last := s.clk.aon } } ∧
                  (let a := c.buf o.buf
                   let w := c.unit (if c.text then 0 else (xformOf x.xf).imageBytes)
                   let g := s.readBytes (s.slotAddr x.slot) (u * w)
                   plain → RegsBut s t accessRegs ∧
                     (∀ p, out p (a + c.off + w * o.units) (u * w) → out p (a + 64 + 16 * o.nsamp) 16 → t.mem.byte p = s.mem.byte p) ∧
                     holds t (a + 64 + 16 * o.nsamp) (entry x o.units u) (fun _ => True) ∧
                     (g.detail = 0 → u * w ≤ 2 ^ 30 → holds t (a + c.off + w * o.units) g.bytes (fun p => out p (a + 64 + 16 * o.nsamp) 16))))
             let reach (o : OpenMb) : Option State := s.waitFor (s.placeRanges n c x (decide (0 < o.nsamp) && decide (c.budget < o.units + u))
               (if o.nsamp ≠ 0 ∧ c.budget < o.units + u then 0 else o.units))
             let first := s.waitFor (s.placeRanges n c x false 0)
             (k.mb = none → ∀ v, first = some v → exec (.samplePack slot) s = .next v) ∧
             (k.mb = none → first = none → s.bufferFree n = false → exec (.samplePack slot) s = .next (s.watchBatch c)) ∧
             (k.mb = none → first = none → s.bufferFree n = true → ∃ t : State, exec (.samplePack slot) s = .next t ∧ placed t {
               buf := k.tail, step := c.start + k.m / max c.perStep 1, micro := k.m % max c.perStep 1, last := s.clk.aon }) ∧
             ∀ o, k.mb = some o → (∀ v, reach o = some v → exec (.samplePack slot) s = .next v) ∧ (reach o = none →
               (o.nsamp = 0 ∨ o.units + u ≤ c.budget → ∃ t : State, exec (.samplePack slot) s = .next t ∧ placed t o) ∧
               (o.nsamp ≠ 0 → c.budget < o.units + u → ((s.closeBatch n).bufferFree n = false →
                   exec (.samplePack slot) s = .next ((s.closeBatch n).watchBatch c)) ∧
                 ((s.closeBatch n).bufferFree n = true → ∃ t : State, exec (.samplePack slot) s = .next t ∧
                   t.pipe.samples = s.pipe.samples.filter (fun y => y.uid ≠ x.uid) ∧ others t n ∧
                   (u < c.budget → c.maxSamp ≠ 1 → ∃ o', (t.stream n).mb = some o' ∧ o'.buf = k.tail + 1 ∧ o'.nsamp = 1 ∧ o'.units = u ∧
                     o'.step = c.start + (k.m + 1) / max c.perStep 1 ∧ o'.micro = (k.m + 1) % max c.perStep 1))))))) ∧
     (s.fenced = true ∨ s.flag .COL_CTRL_REPLAY 0 = false ∨ s.flag .COL_STAT_RPLERR 0 = true → exec .replayRecord s = .next s) ∧
     (s.fenced = false → s.flag .COL_CTRL_REPLAY 0 = true → s.flag .COL_STAT_RPLERR 0 = false →
       ((s.rqEntry .replay).detail ≠ 0 → ∃ t : State, exec .replayRecord s = .next t ∧ (t.ring .replay).head = (s.ring .replay).head ∧
         t.pipe.samples = s.pipe.samples ∧ t.pipe.refused = s.pipe.refused) ∧
       ((s.rqEntry .replay).detail = 0 → s.ringOn .replay = true → s.entryReady .replay = false →
         exec .replayRecord s = .next (s.watchRing .replay)) ∧
       ((s.rqEntry .replay).detail = 0 → s.ringOn .replay = false ∨ (s.entryReady .replay = true ∧ s.ringAccepts .manifest = false) →
         exec .replayRecord s = .next s)) ∧
     (s.fenced = false → s.flag .COL_CTRL_REPLAY 0 = true → s.flag .COL_STAT_RPLERR 0 = false → s.entryReady .replay = true → s.ringAccepts .manifest = true →
       (let e := ((s.rqEntry .replay).bytes.drop 32)
        let id := fieldAt e 0 5
        let n := fieldAt e 7 1 % 16
        let refusal := (fieldAt e 5 1).testBit 7
        let was := s.pipe.refused.find? (fun f => f.sample == id && f.stream == n)
        let here := s.pipe.samples.find? (fun x => x.at_ == .done && x.sampleId == id && x.stream == n)
        (was = none → here = none → exec .replayRecord s = .next s) ∧
        (∀ f, was = some f →
          (refusal = true → f.status = fieldAt e 6 1 → ∃ t : State, exec .replayRecord s = .next t ∧ t.pipe.refused = s.pipe.refused.erase f ∧
            t.pipe.samples = s.pipe.samples ∧ (t.ring .replay).head = (s.ring .replay).head + 1 ∧ t.flag .COL_STAT_RPLERR 0 = false) ∧
          (refusal = false ∨ f.status ≠ fieldAt e 6 1 → exec .replayRecord s = .next (s.setFld .COL_STAT_RPLERR 0 1))) ∧
        ∀ x r, was = none → here = some x → (s.stream n).rcd = some r →
          (let c := streamCfg r
           let same := refusal = false ∧ outcomeOf x.status = outcomeOf (fieldAt e 6 1) ∧ c.keeps x = fieldAt e 20 4 ∧ c.cuts x = (fieldAt e 5 1).testBit 4
           (¬ same → exec .replayRecord s = .next (s.setFld .COL_STAT_RPLERR 0 1)) ∧
           let other := match (s.stream n).mb with
             | some o => o.step != fieldAt e 8 6 || o.micro != fieldAt e 14 2
             | none => false
           let reach := s.waitFor (s.placeRanges n c x other (fieldAt e 16 4))
           (same → ∀ v, reach = some v → exec .replayRecord s = .next v) ∧
           ((s.stream n).mb = none → same → reach = none → s.bufferFree n = false → exec .replayRecord s = .next (s.watchBatch c)) ∧
           ∀ o, same → reach = none → ((s.stream n).mb = some o ∧ o.step = fieldAt e 8 6 ∧ o.micro = fieldAt e 14 2) ∨ ((s.stream n).mb = none ∧ s.bufferFree n = true ∧
               o = { buf := (s.stream n).tail, step := fieldAt e 8 6, micro := fieldAt e 14 2, last := s.clk.aon }) →
             ∃ t : State, exec .replayRecord s = .next t ∧ t.pipe.samples = s.pipe.samples.filter (fun y => y.uid ≠ x.uid) ∧ others t n ∧
               (t.ring .replay).head = (s.ring .replay).head + 1 ∧ ∃ o', (t.stream n).mb = some o' ∧ o'.buf = o.buf ∧ o'.step = o.step ∧
                 o'.micro = o.micro ∧ o'.nsamp = o.nsamp + 1 ∧ o'.units = max o.units (fieldAt e 16 4 + c.keeps x)))) ∧
     ∀ (who : Bank) (v : W32),
       (let u := s.otherAccess who
        let n := v.toNat % 16
        let a := u.fld .COL_STRSRC_ADDR 0 * 64
        let ended (t : State) (res : Nat) (k : Strm) : Prop := t.fld .COL_STRCMD_DONE 0 = 1 ∧ t.fld .COL_STRCMD_RESULT 0 = res ∧ t.stream n = k ∧
          others t n ∧ (s.mem.coded = [] → t.mem = s.mem) ∧ t.pipe.samples = s.pipe.samples
        let keys := [Fld.COL_STRCMD_OP.key 0 0, Fld.COL_STRCMD_STREAM.key 0 0, Fld.COL_STRCMD_DONE.key 0 0, Fld.COL_STRCMD_RESULT.key 0 0]
        let frame (t : State) : Prop := RegsBut u t keys
        (who.isHost = true → exec (.streamLoad who v) s = .next u ∧ exec (.streamUnload who v) s = .next u) ∧
        (who.isHost = false → ∃ t t' : State, exec (.streamLoad who v) s = .next t ∧ exec (.streamUnload who v) s = .next t' ∧ frame t' ∧
          ((s.stream n).mb ≠ none → ended t 2 (s.stream n) ∧ ended t' 2 (s.stream n) ∧ frame t) ∧
          ((s.stream n).mb = none → ended t' 0 {} ∧
            (u.asleep [(a, 64)] ≠ [] → t.fld .COL_STRCMD_DONE 0 = 0 ∧ t.stream n = s.stream n ∧ others t n ∧ t.mem = s.mem ∧
              t.pipe.samples = s.pipe.samples ∧ t.pipe.strWait = some (n, a)) ∧
            (u.asleep [(a, 64)] = [] → (u.readBytes a 64).detail ≠ 0 ∨ streamInvalid (u.readBytes a 64).bytes = true →
              ended t 1 (s.stream n)) ∧
            (s.mem.coded = [] → u.asleep [(a, 64)] = [] → RegsBut u t (keys ++ accessRegs)) ∧
            (s.mem.coded = [] → u.asleep [(a, 64)] = [] → (u.readBytes a 64).detail = 0 → streamInvalid (u.readBytes a 64).bytes = false → ended t 0 {
              rcd := some (u.readBytes a 64).bytes, tail := leNat (u.readBytes (streamCfg (u.readBytes a 64).bytes).cb 8).bytes })))) ∧
     ∀ (b : Block) (n a : Nat), s.pipe.strWait = some (n, a) → (s.blk b).moving = some 0 → (s.stream n).mb = none → s.mem.coded = [] →
       ((s.place (canonical a)).store).map (·.1) = some b.val →
       (let u := s.reachState b
        let g := u.readBytes a 64
        ∃ t : State, exec (.blockStateReached b) s = .next t ∧ t.pipe.strWait = none ∧ t.fld .COL_STRCMD_DONE 0 = 1 ∧ others t n ∧ t.mem = u.mem ∧
          (g.detail ≠ 0 ∨ streamInvalid g.bytes = true → t.fld .COL_STRCMD_RESULT 0 = 1 ∧ t.stream n = s.stream n) ∧
          (g.detail = 0 → streamInvalid g.bytes = false → t.fld .COL_STRCMD_RESULT 0 = 0 ∧
            t.stream n = { rcd := some g.bytes, tail := leNat (u.readBytes (streamCfg g.bytes).cb 8).bytes })))

/-- Posted writes, reads, AtomicOps, BAR0 accesses and configuration requests of a host port (R2, R69, R70, R71,
R72, R104, R510, R511, R513, R528, R542, R570). A port that is not configured or whose link is down serves
nothing; reads and AtomicOps wait for its earlier posted writes. In the Kettle-only state, and in a fenced
device, requests are answered as R570 and R542 say. A posted write performs exactly the parts that pass R70:
with these in near or far memory, no line cached and no slot coded, their bytes are written and no other byte
changes; a refused part fills HPT_ACCERR at the lowest such address and an unmapped one counts in HPT_ERR.UR;
one part in a store becomes a request of agent 128 + p. A read whose parts all pass waits for stores that sleep
and lines in use, and is answered with their bytes; otherwise it gets the status of its lowest failing part. A
misaligned AtomicOp is a Malformed TLP, which gets no completion and changes nothing; one of another size or at
a store, and one at BAR0 the table lets in, is an Unsupported Request; one at good memory answers the old value
and stores the new. BAR0 accesses act with the port's bank where the table lets them; one refused drops a held
half like any other. Configuration requests are retried before stage 7; the identifiers of R2 read as they must. -/
def Obligations.HostRequestsAreCheckedAndServed : Prop :=
  ∀ (p : Port) (s : State),
    (let plain := PlainMemory s ∧ s.coh.dir = []
     let konly := s.flag .KTL_BOOT_KONLY 0
     let o := s.otherAccess (.host p)
     let ur := State.reply (s.bump .HPT_ERR_UR p) p .ur
     let ca := State.reply (s.bump .HPT_ERR_CA p) p .ca
     let parts (a n : Nat) (rd wr : Bool) := (splitAligned 64 a n).map (fun q => (q, s.checkPart p q.1 rd wr))
     let noted (t : State) (a : Nat) (wr bar0 : Bool) : Prop := t.flag .HPT_ACCERR_VALID p = true ∧ (s.fld .HPT_ACCERR_VALID p = 0 →
       t.fld .HPT_ACCERR_ADDR p = canonical a % 2 ^ 48 ∧ t.fld .HPT_ACCERR_WRITE p = bit1 wr ∧ t.fld .HPT_ACCERR_BAR0 p = bit1 bar0 ∧
       t.fld .HPT_ACCERR_COUNT p = 1)
     let fails (t : State) (l : List ((Nat × Nat) × Verdict)) (q : (Nat × Nat) × Verdict) (wr : Bool) : Prop :=
       (t.port p).replies = (s.port p).replies ++ [if q.2 = .unmapped then .ur else .ca] ∧ t.mem = s.mem ∧
       (∀ a : Nat, firstWith l .refused = some a → noted t a wr false) ∧
       (firstWith l .refused = none → ∀ k, k ≠ Fld.HPT_ERR_UR.key p 0 → Tbl.find? t.regs k = Tbl.find? s.regs k)
     (s.portServes p = false → (∀ a l ep, exec (.hostPostedWrite p a l ep) s = .next s) ∧ (∀ a n, exec (.hostRead p a n) s = .next s) ∧
       (∀ b op n a x y, exec (.hostAtomicop p b op n a x y) s = .next s) ∧ (∀ o n w ep, exec (.hostRegisterAccess p o n w ep) s = .next s) ∧
       ∀ r, exec (.configRequest p r) s = .next s) ∧
     (s.postedWaits p = true → (∀ a n, exec (.hostRead p a n) s = .next s) ∧ (∀ b op n a x y, exec (.hostAtomicop p b op n a x y) s = .next s) ∧
       ∀ o n ep, exec (.hostRegisterAccess p o n none ep) s = .next s) ∧
     (s.portServes p = true → ∀ (addr : Nat) (data : List Byte) (ep : Bool), s.rangeFree addr data.length = true →
       (let u := s.iff ep (fun s => s.bump .HPT_ERR_EP p)
        let l := parts addr data.length false true
        (konly = true → exec (.hostPostedWrite p addr data ep) s = .next (u.bump .HPT_ERR_UR p)) ∧
        (konly = false → s.fenced = true → exec (.hostPostedWrite p addr data ep) s = .next u) ∧
        (konly = false → s.fenced = false → ∃ t : State, exec (.hostPostedWrite p addr data ep) s = .next t ∧
          (∀ a : Nat, firstWith l .refused = some a → noted t a true false) ∧
          ((firstWith l .unmapped).isSome = true → t.fld .HPT_ERR_UR p = (s.fld .HPT_ERR_UR p + 1) % 2 ^ 16) ∧
          (plain → (∀ q ∈ l, q.2 = .pass → (s.place (canonical q.1.1)).coherent = true) →
            (∀ b : Nat, (∀ q ∈ l, q.2 = .pass → ∀ i : Nat, i < q.1.2 → canonical (q.1.1 + i) ≠ b) → t.mem.byte b = s.mem.byte b) ∧
            (data.length ≤ 2 ^ 30 → ∀ q ∈ l, q.2 = .pass → ∀ i : Nat, i < q.1.2 →
              t.mem.byte (canonical (q.1.1 + i)) = data.getD (q.1.1 + i - addr) 0))) ∧
        (konly = false → s.fenced = false → 0 < data.length → addr / 64 = (addr + data.length - 1) / 64 → s.checkPart p addr false true = .pass →
          (s.place (canonical addr)).coherent = false → exec (.hostPostedWrite p addr data ep) s = .next (u.scratchAccess ⟨Fin.ofNat 256 (128 + p.val),
            canonical addr, some ⟨byteMask (canonical addr % 64) data.length, BitVec.ofNat 512 (leNat data <<< (8 * (canonical addr % 64))), ep⟩⟩)))) ∧
     (s.portServes p = true → s.postedWaits p = false → ∀ (addr len : Nat),
       (let l := parts addr len true false
        (konly = true → exec (.hostRead p addr len) s = .next ur) ∧
        (konly = false → s.fenced = true → exec (.hostRead p addr len) s = .next ca) ∧
        (konly = false → s.fenced = false →
          (∀ q, l.find? (fun q => decide (q.2 ≠ .pass)) = some q →
            ∃ t : State, exec (.hostRead p addr len) s = .next t ∧ fails t l q false) ∧
          ((∀ q ∈ l, q.2 = .pass) → (∀ v, s.waitFor [(addr, len)] = some v → exec (.hostRead p addr len) s = .next v) ∧
            (s.waitFor [(addr, len)] = none → exec (.hostRead p addr len) s = .next ((s.noteRead ⟨128 + p.val, none⟩ 4 addr len).reply p (.data (s.readBytes addr len).bytes ((s.readBytes addr len).detail != 0)))))))) ∧
     (s.portServes p = true → s.postedWaits p = false → ∀ (bar0 : Bool) (op : HostAtomic) (size addr : Nat) (x y : W64),
       (let e := exec (.hostAtomicop p bar0 op size addr x y) s
        let v := s.checkPart p addr true true
        let c := canonical addr
        let w := 8 * size
        let old := leNat ((List.range size).map (fun i => s.mem.byte (c + i)))
        let new := atomValue fadd32 w (HostAtomic.op op) old ((if op = .cas then y else x).toNat % 2 ^ w) (x.toNat % 2 ^ w)
        (addr % max size 1 ≠ 0 → e = .next s) ∧
        (addr % max size 1 = 0 → konly = true ∨ (bar0 = false ∧ size ≠ 4 ∧ size ≠ 8) → e = .next ur) ∧
        (addr % max size 1 = 0 → konly = false → bar0 = true →
          (s.accBit p 0x300000000000 false = true → s.accBit p 0x300000000000 true = true → e = .next ((o.bump .HPT_ERR_UR p).reply p .ur)) ∧
          (s.accBit p 0x300000000000 false = false ∨ s.accBit p 0x300000000000 true = false → ∃ t : State, e = .next t ∧
            noted t (0x300000000000 + addr) true true ∧ (t.port p).replies = (s.port p).replies ++ [.ca] ∧ t.mem = s.mem)) ∧
        (konly = false → bar0 = false → size = 4 ∨ size = 8 → addr % size = 0 →
          (s.fenced = true → e = .next ca) ∧
          (s.fenced = false → (v ≠ .pass → ∃ t : State, e = .next t ∧ fails t [((addr, size), v)] ((addr, size), v) true) ∧
            (v = .pass → ((s.place c).coherent = false → e = .next ur) ∧
              ((s.place c).coherent = true → s.rangeFree addr size = true → plain → s.mem.poison (c / 64) = 0 → ∃ t : State, e = .next t ∧
                (t.port p).replies = (s.port p).replies ++ [.data (leBytes size old) false] ∧ BytesBut s t c size ∧
                ∀ i : Nat, i < size → t.mem.byte (c + i) = (leBytes size new).getD i 0)))))) ∧
     (s.portServes p = true → ∀ (off size : Nat) (wr : Option W64) (ep : Bool), (wr = none → s.postedWaits p = false) →
       (let e := exec (.hostRegisterAccess p off size wr ep) s
        let a := 0x300000000000 + off
        let may := s.accBit p a wr.isSome
        (wr ≠ none → ep = true → e = .next (o.bump .HPT_ERR_EP p)) ∧
        (wr = none ∨ ep = false →
          (∀ r, s.bar0Serves off = some r →
            (wr = none → e = .next ((o.bump (if r = .ur then .HPT_ERR_UR else .HPT_ERR_CA) p).reply p r)) ∧
            (wr ≠ none → r = .ur → e = .next (o.bump .HPT_ERR_UR p)) ∧
            (wr ≠ none → r ≠ .ur → ∃ t : State, e = .next t ∧ OnlyRegs o t [Fld.HPT_ERR_CA.key p 0])) ∧
          (s.bar0Serves off = none →
            (may = false → ∃ t : State, e = .next t ∧ noted t a wr.isSome true ∧
              (t.port p).replies = (s.port p).replies ++ (if wr = none then [.ca] else []) ∧ t.mem = s.mem) ∧
            (may = true → (∀ v, wr = some v → e = .next (s.regAccess (.host p) off size (some v.toNat)).1) ∧
              (wr = none → e = .next (State.reply (s.regAccess (.host p) off size none).1 p
                (match (s.regAccess (.host p) off size none).2 with | some v => .data (leBytes size v) false | none => .ur)))))))) ∧
     (s.portServes p = true → (s.fld .KTL_BOOT_STAGE 0 < 7 → konly = false → ∀ r, exec (.configRequest p r) s = .next (s.reply p .crs)) ∧
       (7 ≤ s.fld .KTL_BOOT_STAGE 0 ∨ konly = true →
         (∀ off : Nat, ∃ l : List Byte, exec (.configRequest p (.read off)) s = .next (s.reply p (.data l false)).tick ∧ l.length = 4 ∧
           (off = 0 → l = [0x5C, 0x1E, 0x36, 0x15]) ∧ (off = 8 → l = [0xA1, 0x00, 0x00, 0x12])) ∧
         (∀ en, ∃ t : State, exec (.configRequest p (.busMaster en)) s = .next t ∧ t.fld .HPT_LSTAT_BME p = bit1 en ∧
           (t.port p).replies = (s.port p).replies ++ [.data [] false] ∧ t.mem = s.mem) ∧
         ∀ m r, exec (.configRequest p (.sizes m r)) s = .next ((s.setPort p { s.port p with
           mps := min (128 * 2 ^ m.val) 512, mrrs := min (128 * 2 ^ r.val) 4096 }).reply p (.data [] false)))))

/-- Completions, flush reads, host epochs, gates, doorbells and interrupts of a host port (R517, R520, R521, R523,
R524, R525, R526, R527, R528, R529, R615). A completion no read waits for does nothing. Data waits for stores
that sleep and lines in use, lands among the destination's bytes alone and counts what landed; the last data, or
an error, ends the read and confirms its class; a timeout fails it with 0xC2 0x11 and counts. A flush read goes
out when the journal is full enough or old enough, to the newest entry of the oldest one's class; its completion
confirms the class, its timeout fails the entries sent before it. An honoured PERST_N, a Function Level Reset,
HPT_CTRL.ADV, or 50 aon cycles after the data link fell advance the host epoch once for each time the link comes
up: the epoch rises by 1, the gate closes, the CAUSE is kept, journal, reads and what waits are gone, the port's
bank resets, its samples wait for another lane, and a chip record of cause 0x31 follows. HPT_GATE opens the gate
for the current epoch with the link up. HPT_OBDATA sends 4 bytes and journals them; MSIGEN sends its vector,
after a flush read if asked. A trained link shows in HPT_LSTAT. PERST_N numbering of inputs is the model's
reading. -/
def Obligations.HostPortsJournalWritesAndAdvanceEpochs : Prop :=
  ∀ (p : Port) (s : State),
    (let k := s.port p
     let idle := k.waits = [] ∧ k.msiWait = []
     let plain := PlainMemory s ∧ s.coh.dir = []
     let kept (a : Nat) : Prop := (s.place (canonical a)).memory = true ∧ s.storeGone (canonical a) = false
     let adv (t : State) (cause : Nat) (o : Outc) : Prop :=
       t.fld .HPT_EPOCH_EPOCH p = (s.fld .HPT_EPOCH_EPOCH p + 1) % 2 ^ 16 ∧ t.fld .HPT_EPOCH_OPEN p = 0 ∧ t.fld .HPT_EPOCH_CAUSE p = cause ∧
       (t.port p).journal = [] ∧ (t.port p).reads = [] ∧ (t.port p).waits = [] ∧ (t.port p).flushes = [] ∧ (t.port p).msiWait = [] ∧
       (t.port p).downAt = none ∧ t.fld .HPT_JSTAT_FAILED p % 2 ^ 16 = (s.fld .HPT_JSTAT_FAILED p + k.journal.length) % 2 ^ 16 ∧
       t.bank (.host p) = {} ∧ t.fld .REG_SEL_INDEX (Bank.host p).code = 0 ∧ (∀ x ∈ t.pipe.samples, x.at_.lane ≠ some (2 + p.val)) ∧
       ((s.errq .chip).recs.length < 64 → ∃ e ∈ (t.errq .chip).recs, e.cause = 0x31 ∧ e.status = o.1 ∧ e.detail = o.2)
     let same (t : State) : Prop := t.fld .HPT_EPOCH_EPOCH p = s.fld .HPT_EPOCH_EPOCH p ∧ t.fld .HPT_EPOCH_OPEN p = s.fld .HPT_EPOCH_OPEN p ∧
       (t.port p).journal = k.journal ∧ (t.port p).reads = k.reads ∧ (t.port p).waits = k.waits ∧ t.errs = s.errs
     let funcReset (t : State) : Prop := t.fld .HPT_LSTAT_BME p = 0 ∧ (t.port p).mps = 128 ∧ (t.port p).mrrs = 512
     (∀ id : Nat, ((∀ r ∈ k.reads, r.sent = true → r.id ≠ id) →
         (∀ o, exec (.hrdCompletion p id o) s = .next s) ∧ exec (.hrdCompletionTimeout p id) s = .next s) ∧
       ∀ r : HostRd, k.reads.find? (fun r => r.sent && r.id == id) = some r →
         (let d := { (Desc.ofLine r.desc).plain with who := (execOf r.exec).elim ⟨128 + p.val, none⟩ moverOf, cls := r.act }
          let ended (t : State) (cls : Option Nat) : Prop := (∀ q ∈ (t.port p).reads, q.id ≠ r.id) ∧
            (idle → (t.port p).journal = k.journal.filter (fun e => cls ≠ some e.cls))
          let counted (t : State) (n bytes : Nat) (o : Outc) : Prop := idle → ∀ x, execOf r.exec = some x → ∀ f ∈ (t.exe x).flights, f.uid = r.uid →
            ∃ g ∈ (s.exe x).flights, g.uid = r.uid ∧ f.items = g.items - n ∧ f.count = g.count + bytes ∧ (f.status, f.detail) = worst (g.status, g.detail) o
          (∀ o : HrdOutcome, o = .unsupported ∨ o = .abort → ∃ t : State, exec (.hrdCompletion p id o) s = .next t ∧ ended t (some r.cls) ∧ counted t 1 0 (0xC0, 3) ∧ t.mem = s.mem) ∧
          (∃ t : State, exec (.hrdCompletionTimeout p id) s = .next t ∧ ended t none ∧ t.fld .HPT_ERR_CTO p = (s.fld .HPT_ERR_CTO p + 1) % 2 ^ 16 ∧
            t.mem = s.mem ∧ ((∀ q ∈ k.reads, q.sent = true) → counted t 1 0 (0xC2, 0x11))) ∧
          ∀ (l : List Byte) (ep : Bool), (l = [] ∨ r.len < r.got + l.length → exec (.hrdCompletion p id (.data l ep)) s = .next s) ∧
            (l ≠ [] → r.got + l.length ≤ r.len → ∀ v, s.waitFor d.spans = some v → exec (.hrdCompletion p id (.data l ep)) s = .next v) ∧
            (l ≠ [] → r.got + l.length ≤ r.len → s.waitFor d.spans = none → ∃ t : State, exec (.hrdCompletion p id (.data l ep)) s = .next t ∧
              (r.got + l.length = r.len → ended t (some r.cls)) ∧
              (r.got + l.length < r.len → (t.port p).journal = k.journal ∧
                (t.port p).reads = k.reads.map (fun q => if q.id = r.id then { q with got := q.got + l.length } else q)) ∧
              (ep = false → ∀ n, (s.writeLinear d (r.off + r.got) l false).2 = (0, n) →
                counted t (if r.got + l.length = r.len then 1 else 0) n (0, 0)) ∧
              (plain → (∀ b : Nat, (∀ q ∈ linearSpans d, ∀ i : Nat, i < q.2.2 → canonical (q.2.1 + i) ≠ b) → t.mem.byte b = s.mem.byte b) ∧
                ∀ b n : Nat, linearSpans d = [(0, b, n)] → r.off + r.got + l.length ≤ n → n ≤ 2 ^ 30 → ∀ i : Nat, i < l.length → kept (b + (r.off + r.got) + i) →
                  t.mem.byte (canonical (b + (r.off + r.got) + i)) = l.getD i 0)))) ∧
     (∀ e rest, k.journal = e :: rest →
       (let thr := s.fld .HPT_JCTRL_AUTO_THR p
        let age := s.fld .HPT_JCTRL_AUTO_AGE p
        let due := (thr ≠ 0 ∧ thr ≤ k.journal.length) ∨ (age ≠ 0 ∧ age * 1024 ≤ (s.clk.aon - e.sentAt) * 80)
        (s.flag .HPT_CTRL_JAUTO p = false ∨ ¬ due ∨ s.portSends p = false ∨ (∃ f ∈ k.flushes, f.cls = e.cls) → exec (.journalFlushRead p) s = .next s) ∧
        (s.flag .HPT_CTRL_JAUTO p = true → due → s.portSends p = true → (∀ f ∈ k.flushes, f.cls ≠ e.cls) →
          ∀ n : JEntry, k.journal.reverse.find? (fun x => x.cls == e.cls) = some n → exec (.journalFlushRead p) s = .next ((s.setPort p { k with
            flushes := k.flushes ++ [⟨e.cls, k.nextSeq, []⟩], out := k.out ++ [.flush n.addr e.cls] }).tick)))) ∧
     (k.journal = [] → exec (.journalFlushRead p) s = .next s) ∧
     (∀ cls : Fin 9, ((∀ f ∈ k.flushes, f.cls ≠ cls.val) → exec (.flushReadCompletion p cls) s = .next s ∧ exec (.flushReadTimeout p cls) s = .next s) ∧
       ∀ f, k.flushes.find? (fun f => f.cls == cls.val) = some f → idle →
         (∃ t : State, exec (.flushReadCompletion p cls) s = .next t ∧ (t.port p).journal = k.journal.filter (fun e => e.cls ≠ cls.val) ∧
           (t.port p).flushes = k.flushes.erase f ∧ t.mem = s.mem ∧ ((∀ r ∈ k.reads, r.sent = true) → s.dlUp p = true →
             s.flag .HPT_LSTAT_BME p = true → (t.port p).out = k.out ++ f.msis.map Tlp.msi)) ∧
         (∃ t : State, exec (.flushReadTimeout p cls) s = .next t ∧ t.fld .HPT_ERR_CTO p = (s.fld .HPT_ERR_CTO p + 1) % 2 ^ 16 ∧
           (t.port p).journal = k.journal.filter (fun e => !(e.cls == cls.val && decide (e.seq < f.before))) ∧
           (t.port p).flushes = k.flushes.erase f ∧ t.fld .HPT_JSTAT_FAILED p % 2 ^ 16 =
             (s.fld .HPT_JSTAT_FAILED p + (k.journal.filter (fun e => e.cls == cls.val && decide (e.seq < f.before))).length) % 2 ^ 16)) ∧
     (let i := s.input p
      let clear := bitOf (s.fld .KTL_SB_HELD 0) p = false ∧ chatters ((i.changes ++ [s.clk.aon]).filter (fun t => decide (s.clk.aon < t + 250000))) = false
      (i.level = true → exec (.perstAssert p) s = .next s) ∧ (i.level = false → exec (.perstDeassert p) s = .next s) ∧
      (i.level = false → clear → bitOf (s.fld .KTL_SB_LEVEL 0) p = false → ∃ t : State, exec (.perstAssert p) s = .next t ∧
        bitOf (t.fld .KTL_SB_LEVEL 0) p = true ∧ (s.portOn p = false → same t ∧ t.hosts = s.hosts ∧ t.mem = s.mem) ∧
        (s.portOn p = true → s.flag .HPT_LSTAT_PERST p = false → t.fld .HPT_LSTAT_PERST p = 1 ∧ (t.port p).armed = false ∧ funcReset t ∧
          (k.armed = true → s.dlUp p = true ∨ k.downAt ≠ none → adv t 1 (0xC3, 1)) ∧
          (k.armed = false ∨ (s.dlUp p = false ∧ k.downAt = none) → same t ∧ t.mem = s.mem))) ∧
      (i.level = true → clear → bitOf (s.fld .KTL_SB_LEVEL 0) p = true → ∃ t : State, exec (.perstDeassert p) s = .next t ∧
        bitOf (t.fld .KTL_SB_LEVEL 0) p = false ∧ same t ∧ t.hosts = s.hosts ∧ t.mem = s.mem ∧ (s.portOn p = true → t.fld .HPT_LSTAT_PERST p = 0))) ∧
     (s.portServes p = false → exec (.functionLevelReset p) s = .next s) ∧
     (s.portServes p = true → ∃ t : State, exec (.functionLevelReset p) s = .next t ∧ funcReset t ∧
       (s.mayAdvance p = true → adv t 2 (0xC3, 2)) ∧ (s.mayAdvance p = false → same t)) ∧
     (s.dlUp p = false → exec (.hostLinkDown p) s = .next s) ∧
     (s.dlUp p = true → ∃ t : State, exec (.hostLinkDown p) s = .next t ∧ t.fld .HPT_LSTAT_DLUP p = 0 ∧ t.fld .HPT_LSTAT_SPEED p = 0 ∧
       t.fld .HPT_LSTAT_NLW p = 0 ∧ t.fld .HPT_LSTAT_FLIT p = 0 ∧ t.port p = { k with downAt := if k.armed then some s.clk.aon else none } ∧
       t = { s with regs := t.regs, hosts := t.hosts } ∧ same t) ∧
     (k.downAt = none → exec (.hostLinkDownAdvance p) s = .next s) ∧
     (∀ at', k.downAt = some at' →
       (s.clk.aon < at' + 50 ∨ s.flag .HPT_LSTAT_PERST p = true ∨ k.armed = false → exec (.hostLinkDownAdvance p) s = .next s) ∧
       (at' + 50 ≤ s.clk.aon → s.flag .HPT_LSTAT_PERST p = false → k.armed = true → ∃ t : State, exec (.hostLinkDownAdvance p) s = .next t ∧ adv t 4 (0xC2, 0x10) ∧
         (t.port p).armed = s.dlUp p ∧ (s.dlUp p = false → funcReset t))) ∧
     (∀ (speed : Fin 8) (lanes : Fin 9),
       (s.portOn p = false ∨ s.ktl.dom.hostPort = false ∨ s.flag .HPT_LSTAT_PERST p = true ∨ s.dlUp p = true ∨ speed = 0 →
         exec (.hostLinkUp p speed lanes) s = .next s) ∧
       (s.portOn p = true → s.ktl.dom.hostPort = true → s.flag .HPT_LSTAT_PERST p = false → s.dlUp p = false → speed ≠ 0 →
         ∃ t : State, exec (.hostLinkUp p speed lanes) s = .next t ∧ t.fld .HPT_LSTAT_DLUP p = 1 ∧ t.fld .HPT_LSTAT_SPEED p = speed.val ∧
           t.fld .HPT_LSTAT_NLW p = lanes.val ∧ t.fld .HPT_LSTAT_FLIT p = bit1 (decide (6 ≤ speed.val)) ∧ (t.port p).armed = true ∧
           (idle → (t.port p).journal = k.journal) ∧ t.mem = s.mem)) ∧
     ∀ (who : Bank) (v : W32),
       (let u := s.otherAccess who
        let vec := v.toNat % 64
        ((s.selPort who = none ∨ who.isHost = true) → exec (.hptAdv who) s = .next u ∧ exec (.obdataWrite who v) s = .next u ∧ exec (.msigen who v) s = .next u) ∧
        (s.selPort who = none → exec (.hptGateOpen who v) s = .next u) ∧
        (s.selPort who = some p → s.portOn p = false → exec (.hptAdv who) s = .next u ∧ exec (.obdataWrite who v) s = .next u ∧
          exec (.msigen who v) s = .next u ∧ exec (.hptGateOpen who v) s = .next u) ∧
        (s.selPort who = some p → s.portOn p = true → exec (.hptGateOpen who v) s =
          .next (if v.getLsbD 31 = true ∧ v.toNat % 2 ^ 16 = s.fld .HPT_EPOCH_EPOCH p ∧ s.dlUp p = true then u.setFld .HPT_EPOCH_OPEN p 1 else u)) ∧
        (s.selPort who = some p → s.portOn p = true → who.isHost = false →
          (let w : HostPiece := { addr := s.fld .HPT_OBADDR_ADDR who.code * 4, bytes := leBytes 4 v.toNat }
           (s.mayAdvance p = false → exec (.hptAdv who) s = .next u) ∧
           (s.mayAdvance p = true → ∃ t : State, exec (.hptAdv who) s = .next t ∧ adv t 3 (0xC3, 3)) ∧
           (s.gateOpen p = false → exec (.obdataWrite who v) s = .next u ∧ exec (.msigen who v) s = .next u) ∧
           (vec = 0 → exec (.msigen who v) s = .next u) ∧
           (s.gateOpen p = true → s.dlUp p = false ∨ s.flag .HPT_LSTAT_BME p = false →
             exec (.obdataWrite who v) s = .next (u.setPort p { k with waits := k.waits ++ [.write w] }) ∧
             (vec ≠ 0 → exec (.msigen who v) s = .next (u.setPort p
               (if v.getLsbD 8 then { k with msiWait := k.msiWait ++ [vec] } else { k with waits := k.waits ++ [.msi vec] })))) ∧
           (s.portSends p = true → idle → (∀ r ∈ k.reads, r.sent = true) →
             (k.journal.length < 4096 → k.mps ≠ 0 → k.mps % 4 = 0 → ∃ (t : State) (e : JEntry), exec (.obdataWrite who v) s = .next t ∧
               (t.port p).out = k.out ++ [.write w.addr (leBytes 4 v.toNat) false] ∧ (t.port p).journal = k.journal ++ [e] ∧ e.addr = w.addr ∧ e.len = 4 ∧
               e.flight = none ∧ e.cls = s.hostClass p w.addr ∧ e.sentAt = s.clk.aon ∧ t.mem = s.mem ∧ t.execs = s.execs) ∧
             (vec ≠ 0 → v.getLsbD 8 = false → ∃ t : State, exec (.msigen who v) s = .next t ∧ (t.port p).out = k.out ++ [.msi vec] ∧
               (t.port p).journal = k.journal ∧ t.regs = u.regs) ∧
             (vec ≠ 0 → v.getLsbD 8 = true → (∀ f ∈ k.flushes, f.cls ≠ 0) → ∃ (t : State) (a : Nat), exec (.msigen who v) s = .next t ∧
               (t.port p).out = k.out ++ [.flush a 0] ∧ (t.port p).flushes = k.flushes ++ [⟨0, k.nextSeq, [vec]⟩] ∧ (t.port p).msiWait = []) ∧
             (vec ≠ 0 → v.getLsbD 8 = true → (∃ f ∈ k.flushes, f.cls = 0) →
               exec (.msigen who v) s = .next (u.setPort p { k with msiWait := [vec] })))))))

/-- Handlers take records, which end, escalate, are reported or fence the device (R534, R535, R536, R537, R539,
R540, R541, R542, R563). A handler takes the oldest record of the highest SEV when it is free, or when that SEV
exceeds the one in hand and fewer than four are nested; a cause resolved above leaves for the parent with ESC 1
and keeps its fields; a region and the chip hold the record in hand, a block retires the cell or ends the
record, and SEV 3 at the chip fences the device. A record in hand beyond its level's limit escalates with ESC 3,
at the chip it fences. POP with RESOLVED ends the record in hand; at the chip one of SEV 3 fences and one with a
job report keeps its slot until the ring has its copy; ESCALATE passes it up with ESC 1, FAULT with ESC 3. Host
ports' pops and RSL_FENCE do nothing. RSL_REPORT writes a chip record of cause 0x3F from its fields; failures of
a far channel, a server core and the fabric write theirs. A fence stops every executor, abandons what is in
flight, hands 64 LOSS flits to each link in UP, closes every gate and shows its cause. The limit of cells and
blocks is 0, a log entry. -/
def Obligations.HandlersTakeEndAndEscalateRecords : Prop :=
  ∀ (s : State),
    (let passed (u t : State) (q : LevelInst) (e : ErrRec) (slot esc : Nat) : Prop :=
       (t.errq q).recs = (s.errq q).recs.filter (fun r => r.qslot ≠ slot) ∧ (t.errq q).cur = (s.errq q).cur.filter (· ≠ slot) ∧
       (∀ par, q.parent = some par → (s.errq par).recs.length < 64 → ∃ r ∈ (t.errq par).recs, r.cause = e.cause ∧ r.status = e.status ∧
         r.detail = e.detail ∧ r.sev = e.sev ∧ r.origin = e.origin ∧ r.inst = e.inst ∧ r.info = e.info ∧ r.esc = esc ∧ r.level = par.level) ∧
       (q.parent = none → u.fenced = false → t.fld .RSL_STAT_STATE 0 = 2 ∧ t.fld .RSL_STAT_FCAUSE 0 = e.cause % 256)
     let written (t : State) (q : LevelInst) (cause status detail sev info : Nat) : Prop := (s.errq q).recs.length < 64 →
       ∃ r ∈ (t.errq q).recs, r.cause = cause ∧ r.status = status ∧ r.detail = detail ∧ r.sev = sev ∧ r.info = info ∧ r.origin = q.level ∧
         r.inst = q.inst ∧ r.level = q.level ∧ r.esc = 0
     (∀ q : LevelInst,
       (let g := s.errq q
        (g.best = none → exec (.handlerTake q) s = .next s) ∧
        (g.cur = [] → exec (.handlerTimeout q) s = .next s) ∧
        (∀ e, g.best = some e →
          (let higher := ∃ d, g.cur.head?.bind g.at = some d ∧ d.sev < e.sev ∧ g.cur.length ≤ 3
           let u := if g.cur = [] then s else s.bump .RSL_CNT_PREEMPT 0
           let held := u.setErrq q { g with cur := e.qslot :: g.cur
                                            recs := g.recs.map (fun (r : ErrRec) => if r.qslot = e.qslot then { r with began := s.clk.aon } else r) }
           (g.cur ≠ [] → ¬ higher → exec (.handlerTake q) s = .next s) ∧
           (g.cur = [] ∨ higher →
             (q.level < causeLevel e.cause → ∃ t f, g.at e.qslot = some f ∧ exec (.handlerTake q) s = .next t ∧ passed s t q f e.qslot 1) ∧
             (causeLevel e.cause ≤ q.level →
               (∀ r, q = .region r → exec (.handlerTake q) s = .next held) ∧
               (q = .chip → exec (.handlerTake q) s = .next (if e.sev = 3 then held.fence e.cause else held)) ∧
               (∀ b, q = .block b → 3 < e.cause → ∃ t : State, exec (.handlerTake q) s = .next t ∧ t.mem = s.mem ∧
                 (t.errq q).recs.all (fun r => r.qslot ≠ e.qslot) = true ∧ e.qslot ∉ (t.errq q).cur) ∧
               (∀ b, q = .block b → e.cause ≤ 3 → ∃ t : State, exec (.handlerTake q) s = .next t ∧
                 ((s.blk b).retiring = none → (s.blk b).gone.contains (e.inst % 16) = false →
                   (s.blk b).slotStopped (some (e.inst % 16)) = false → s.fld .BLK_SPARE_SPARE b ≠ 0x1F →
                   (t.blk b).retiring = some ⟨e.inst % 16, s.posOf b (e.inst % 16), e.cause, .selfTest⟩)))))) ∧
        (∀ i rest, g.cur = i :: rest → (g.at i = none → exec (.handlerTimeout q) s = .next s) ∧
          ∀ e, g.at i = some e → (s.clk.aon < e.began + s.handlerLimit q → exec (.handlerTimeout q) s = .next s) ∧
            (e.began + s.handlerLimit q ≤ s.clk.aon → (q = .chip → exec (.handlerTimeout q) s = .next (s.fence e.cause)) ∧
              (q ≠ .chip → ∃ t : State, exec (.handlerTimeout q) s = .next t ∧ passed s t q e i 3))) ∧
        ∀ who : Bank,
          (let u := s.otherAccess who
           let all (o : State) : Prop := exec (.rslPopResolved who q) s = .next o ∧ exec (.rslPopEscalate who q) s = .next o ∧
             exec (.rslPopFault who q) s = .next o
           (who.isHost = true ∨ popped q = false ∨ g.cur = [] → all u) ∧
           (who.isHost = false → popped q = true → ∀ i rest e, g.cur = i :: rest → g.at i = some e →
             (∃ t : State, exec (.rslPopEscalate who q) s = .next t ∧ passed s t q e i 1) ∧ (∃ t : State, exec (.rslPopFault who q) s = .next t ∧ passed s t q e i 3) ∧
             (q ≠ .chip → exec (.rslPopResolved who q) s = .next (u.dequeue q i)) ∧
             (q = .chip → (e.sev = 3 → exec (.rslPopResolved who q) s = .next (u.fence e.cause)) ∧
               (e.sev ≠ 3 → causeJobReport e.cause = false → exec (.rslPopResolved who q) s = .next (u.dequeue q i)) ∧
               (e.sev ≠ 3 → causeJobReport e.cause = true → ((s.ringOpen .jobReport && (s.ring .jobReport).buf.isEmpty) = false →
                   exec (.rslPopResolved who q) s = .next (u.setErrq .chip { g with cur := g.cur.filter (· ≠ i), await := g.await ++ [i] })) ∧
                 (g.await = [] → s.ringOpen .jobReport = true → (s.ring .jobReport).buf = [] → ∃ t : State, exec (.rslPopResolved who q) s = .next t ∧
                   (t.errq q).recs = g.recs.filter (fun r => r.qslot ≠ i) ∧ (t.ring .jobReport).tail = (s.ring .jobReport).tail + 1))))))) ∧
     (∀ who : Bank, (let u := s.otherAccess who
       (who.isHost = true ∨ s.fenced = true → exec (.rslFence who) s = .next u) ∧
       (who.isHost = false → s.fenced = false → ∃ t : State, exec (.rslFence who) s = .next t ∧ t.fld .RSL_STAT_STATE 0 = 2 ∧ t.fld .RSL_STAT_FCAUSE 0 = 0x3F ∧
         (∀ x, (t.exe x).flights = [] ∧ (t.exe x).running = false ∧ ∀ i, (t.exe x).reg i = (s.exe x).reg i) ∧ t.net.items = [] ∧ t.net.colls = [] ∧
         (∀ p : Port, t.fld .HPT_EPOCH_OPEN p = 0) ∧ t.mem = s.mem ∧ t.errs = s.errs ∧ ∀ l : Link, s.linkUp l = true →
           (t.link l).wire.length + (t.link l).waiting.length = (s.link l).wire.length + (s.link l).waiting.length + 64))) ∧
     (∀ (who : Bank) (v : W64), (let u := s.otherAccess who
       let n := v.toNat
       let keys := [Fld.RSL_REPORT_SEV.key 0 0, Fld.RSL_REPORT_STATUS.key 0 0, Fld.RSL_REPORT_DETAIL.key 0 0, Fld.RSL_REPORT_INFO.key 0 0]
       ∃ t : State, exec (.rslReport who v) s = .next t ∧ t.fld .RSL_REPORT_INFO 0 = n % 2 ^ 40 ∧ t.fld .RSL_REPORT_STATUS 0 = n / 2 ^ 48 % 256 ∧
         (v.getLsbD 63 = false → OnlyRegs u t keys) ∧
         (v.getLsbD 63 = true → written t .chip 0x3F (n / 2 ^ 48 % 256) (n / 2 ^ 40 % 256) (n / 2 ^ 56 % 4) (n % 2 ^ 40)))) ∧
     (∀ f : Chan, ∃ t : State, exec (.farChannelFailure f) s = .next t ∧ t.fld .FMC_STAT_FAILED f = 1 ∧ written t (.region f) 0x26 0xC0 1 2 0) ∧
     (∀ q : Cluster, ∃ t : State, exec (.serverCoreError q) s = .next t ∧ t.ktl.dom.offline = s.ktl.dom.offline ++ [q.val] ∧ written t .chip 0x35 0xC0 1 2 0) ∧
     ∃ t : State, exec .fabricError s = .next t ∧ written t .chip 0x36 0xC0 1 3 0 ∧
       (s.fenced = false → t.fld .RSL_STAT_STATE 0 = 2 ∧ t.fld .RSL_STAT_FCAUSE 0 = 0x36 ∧ ∀ p : Port, t.fld .HPT_EPOCH_OPEN p = 0))

/-- Beats sent and received, suspicion, confirmed loss, and the adoption of an ID (R545, R546, R547, R548, R549,
R556, R557, R563). Beats go out when Fife is on, the device has an ID, is in RUN or FILLING, and PERIOD (at
least 2,500) has passed: BEATSEQ of each enabled partner rises. A BEAT or probe sets LAST and MISSED of the
enabled partner it comes from unless that is LOST: SUSPECT becomes DETOUR with a record, DETOUR becomes OK on a
beat; one from another device, or from one in LOST, is discarded. A probe is answered on a link of ALTB. A
partner in OK or DETOUR silent for 3 1/4 periods becomes SUSPECT, with a record and a probe; PROBE_TO periods (a
value of 0 acting as 1, a log entry) without a BEAT make it LOST: its route and items go, a record follows, and
a device that has lost every partner fences itself with cause 0x34. Arming a partner starts it in OK. An ID
below SIZE is adopted by a quiet device in RUN without groups: it is FILLING, its partners are off; DONE makes
it RUN; anything else sets ADERR. Host ports' writes are discarded. -/
def Obligations.BeatPartnersAreWatchedAndAdopted : Prop :=
  ∀ (s : State),
    (let frame (t : State) : Prop := t.mem = s.mem ∧ t.execs = s.execs
     let record (t : State) (cause info : Nat) : Prop := (s.errq .chip).recs.length < 64 →
       ∃ r ∈ (t.errq .chip).recs, r.cause = cause ∧ r.info = info
     let due := ∀ at', s.net.beatAt = some at' → at' + s.beatPeriod ≤ s.clk.aon
     (s.beating = false ∨ ¬ due → exec .beatSend s = .next s) ∧
     (s.beating = true → due → ∃ t : State, exec .beatSend s = .next t ∧ frame t ∧ t.regs = s.regs ∧ t.net.beatAt = some s.clk.aon ∧
       (∀ n, t.fife n = if n ∈ s.partners then { s.fife n with seq := ((s.fife n).seq + 1) % 2 ^ 32 } else s.fife n) ∧
       (∀ n, s.partners = [n] → t.net.links = (s.sendReply (s.beatXact n 0)).net.links ∧ (s.beatXact n 0).ttype = 0x20 ∧
         (s.beatXact n 0).dst = s.fld .RSL_FIFEP_PDEV 0 n ∧ fieldAt (s.beatXact n 0).data 0 4 = (s.fife n).seq % 2 ^ 32 ∧
         fieldAt (s.beatXact n 0).data 4 1 = 0 ∧ fieldAt (s.beatXact n 0).data 16 8 = s.clk.aon % 2 ^ 64)) ∧
     (∀ l : Link,
       (let k := s.link l
        ((∀ q ∈ k.inbox, q.2.ttype = 0x20 → q.2.beatKind = 1) → exec (.fifeBeat l) s = .next s) ∧
        ((∀ q ∈ k.inbox, q.2.ttype = 0x20 → q.2.beatKind ≠ 1) → exec (.fifeProbe l) s = .next s) ∧
        ∀ vc x rest, k.inbox = (vc, x) :: rest → x.ttype = 0x20 →
          (let u := (s.setLink l { k with inbox := rest }).freeBuf l vc x.held
           let c (e : Instr) : Prop := (x.beatKind = 1 → e = .fifeProbe l) ∧ (x.beatKind ≠ 1 → e = .fifeBeat l)
           (s.partnerOf x.src = none → ∀ e, c e → exec e s = .next u) ∧
           ∀ n, s.partnerOf x.src = some n →
             (let st := s.fld .RSL_FIFES_STATE 0 n
              let seen (t : State) : Prop := t.fld .RSL_FIFES_LAST 0 n = s.clk.aon % 2 ^ 48 ∧ t.fld .RSL_FIFES_MISSED 0 n = 0 ∧
                t.fld .RSL_FIFES_STATE 0 n = (if st = 2 then 3 else if st = 3 ∧ x.beatKind = 0 then 1 else st) ∧ (st = 2 → record t 0x32 (n + 256))
              (x.beatKind ≠ 1 → (st = 4 → exec (.fifeBeat l) s = .next u) ∧ (st ≠ 4 → ∃ t : State, exec (.fifeBeat l) s = .next t ∧ seen t ∧
                (st ≠ 2 → OnlyRegs u t [Fld.RSL_FIFES_LAST.key 0 n, Fld.RSL_FIFES_MISSED.key 0 n, Fld.RSL_FIFES_STATE.key 0 n]))) ∧
              (x.beatKind = 1 → ∃ t : State, exec (.fifeProbe l) s = .next t ∧ (st ≠ 4 → seen t) ∧
                (st = 4 → t = u) ∧ (∀ y, s.bundleUp (s.fld .RSL_FIFEP_ALTB 0 n) = [y] → st ≠ 2 → st ≠ 4 → (s.link y).waiting.length + (s.link y).wire.length <
                    (t.link y).waiting.length + (t.link y).wire.length)))))) ∧
     (∀ n : Fin 4,
       (let st := s.fld .RSL_FIFES_STATE 0 n
        let p := s.beatPeriod
        let watch := s.beating = true ∧ s.flag .RSL_FIFEP_EN 0 n = true
        let till := (s.fife n).probeAt + max 1 (s.fld .RSL_FIFE_CTRL_PROBE_TO 0) * p
        let dev := s.fld .RSL_FIFEP_PDEV 0 n
        (¬ watch ∨ (st ≠ 1 ∧ st ≠ 3) ∨ s.clk.aon < s.fld .RSL_FIFES_LAST 0 n + 3 * p + p / 4 → exec (.partnerSuspect n) s = .next s) ∧
        (watch → st = 1 ∨ st = 3 → s.fld .RSL_FIFES_LAST 0 n + 3 * p + p / 4 ≤ s.clk.aon → ∃ t : State, exec (.partnerSuspect n) s = .next t ∧
          t.fld .RSL_FIFES_STATE 0 n = 2 ∧ (t.fife n).probeAt = s.clk.aon ∧ record t 0x32 n.val ∧
          t.fld .RSL_CNT_PROBES 0 = (s.fld .RSL_CNT_PROBES 0 + 1) % 2 ^ 16) ∧
        (¬ watch ∨ st ≠ 2 ∨ s.clk.aon < till → exec (.partnerLossConfirm n) s = .next s) ∧
        (watch → st = 2 → till ≤ s.clk.aon → ∃ t : State, exec (.partnerLossConfirm n) s = .next t ∧ t.fld .RSL_FIFES_STATE 0 n = 4 ∧
          t.fld .RSL_CNT_CONFIRMS 0 = (s.fld .RSL_CNT_CONFIRMS 0 + 1) % 2 ^ 16 ∧ (s.net.items = [] → record t 0x33 dev ∧
            (dev < 2 ^ 14 → t.routeEntry dev = s.routeEntry dev % 128) ∧
            ((∀ m ∈ s.partners, m ≠ n.val → s.fld .RSL_FIFES_STATE 0 m = 4) → (s.errq .chip).recs.length < 63 →
              t.fld .RSL_STAT_STATE 0 = 2 ∧ t.fld .RSL_STAT_FCAUSE 0 = 0x34) ∧
            ((∃ m ∈ s.partners, m ≠ n.val ∧ s.fld .RSL_FIFES_STATE 0 m ≠ 4) → (s.errq .chip).recs.length < 64 →
              t.fld .RSL_STAT_STATE 0 = s.fld .RSL_STAT_STATE 0))) ∧
        ∀ (who : Bank) (v : W32),
          (let u := s.otherAccess who
           (who.isHost = true → exec (.fifePartnerArm who n v) s = .next u) ∧
           (who.isHost = false → ∃ t : State, exec (.fifePartnerArm who n v) s = .next t ∧ t.fld .RSL_FIFEP_EN 0 n = 1 ∧
             t.fld .RSL_FIFEP_PDEV 0 n = v.toNat % 2 ^ 14 ∧ t.fld .RSL_FIFEP_ALTB 0 n = v.toNat / 2 ^ 24 % 16 ∧ t.fld .RSL_FIFES_STATE 0 n = 1 ∧
             t.fld .RSL_FIFES_LAST 0 n = s.clk.aon % 2 ^ 48 ∧ t.fld .RSL_FIFES_MISSED 0 n = 0 ∧ t.fife n = { s.fife n with seq := 0 } ∧
             frame t ∧ RegsBut u t [Fld.RSL_FIFEP_EN.key 0 n, Fld.RSL_FIFEP_PDEV.key 0 n, Fld.RSL_FIFEP_ALTB.key 0 n, Fld.RSL_FIFES_STATE.key 0 n,
               Fld.RSL_FIFES_LAST.key 0 n, Fld.RSL_FIFES_MISSED.key 0 n])))) ∧
     ∀ (who : Bank) (v : W32),
       (let u := s.otherAccess who
        let id := v.toNat % 2 ^ 14
        let may := s.fld .RSL_STAT_STATE 0 = 0 ∧ s.quiet = true ∧ s.net.groups = [] ∧ id < s.fld .LNK_RTCFG_SIZE 0
        (who.isHost = true → exec (.adopt who v) s = .next u ∧ exec (.adoptDone who) s = .next u) ∧
        (who.isHost = false →
          (v.getLsbD 30 = false →
            (¬ may → ∃ t : State, exec (.adopt who v) s = .next t ∧ t.fld .RSL_STAT_ADERR 0 = 1 ∧ t.fld .RSL_ADOPT_ID 0 = id ∧
              OnlyRegs u t [Fld.RSL_STAT_ADERR.key 0 0, Fld.RSL_ADOPT_ID.key 0 0]) ∧
            (may → ∃ t : State, exec (.adopt who v) s = .next t ∧ (s.net.items = [] → t.fld .LNK_DEVID_ID 0 = id ∧ t.fld .LNK_DEVID_VALID 0 = 1 ∧
              t.fld .RSL_STAT_STATE 0 = 1 ∧ (∀ n, n < 4 → t.fld .RSL_FIFEP_EN 0 n = 0 ∧ t.fld .RSL_FIFES_STATE 0 n = 0) ∧ frame t ∧
              t.net = s.net))) ∧
          (s.fld .RSL_ADOPT_ID 0 < 2 ^ 14 → s.fld .RSL_STAT_STATE 0 = 1 → ∃ t : State, exec (.adoptDone who) s = .next t ∧ t.fld .RSL_STAT_STATE 0 = 0 ∧
            OnlyRegs u t [Fld.RSL_STAT_STATE.key 0 0, Fld.RSL_ADOPT_ID.key 0 0]) ∧
          (s.fld .RSL_ADOPT_ID 0 < 2 ^ 14 → s.fld .RSL_STAT_STATE 0 ≠ 1 → ∃ t : State, exec (.adoptDone who) s = .next t ∧ t.fld .RSL_STAT_ADERR 0 = 1 ∧
            OnlyRegs u t [Fld.RSL_STAT_ADERR.key 0 0, Fld.RSL_ADOPT_ID.key 0 0]))))

/-- What each stage of boot does, and where a failure leaves the device (R101, R566, R567, R569, R571, R572, R575,
R588, R613, R614, R620, R621). A boot command acts at its own stage, unless Kettle-only or tripped, and
otherwise changes nothing. Stage 1 counts a boot; a failed self-test or PUF leaves the device Kettle-only with
FAIL 1 or 2. Stage 2 tries the pending slot at most three times, then the other slot, else FAIL 3. Stage 3
applies a record that passes R567 and R575: port mode, masks without the retired positions, PMAX as cap; else
FAIL 4. Stage 4 needs PWR_OK: all domains go on and populated channels get keys; a Kettle-only device turns on
its host-port domain. Stage 5 maps each block's slots to its enabled positions in ascending order, a 17th being
the spare, and trains far channels that match the record. Stage 6 writes every hop table and starts the
sequencers' firmware at ENTRY once it verifies, else FAIL 5; stage 7 does so for the server cores, else FAIL 6.
Stage 8 begins after it and the seal follows 60 s later. A block with another number of positions stays OFF and
is reported as unusable, in a list that is the model's (log 65). -/
def Obligations.BootGoesThroughItsStages : Prop :=
  ∀ (s : State),
    (let stopped (t : State) (fail : Nat) : Prop := t.fld .KTL_BOOT_KONLY 0 = 1 ∧ t.fld .KTL_BOOT_FAIL 0 = fail ∧ t.fld .KTL_ALERT_KONLY 0 = 1 ∧
       (∀ x, t.exe x = {}) ∧ t.net.items = [] ∧ (∀ l : Link, t.fld .LNK_STAT_STATE l = 0) ∧ t.ktl.dom.hostPort = s.ktl.dom.hostPort ∧
       t.ktl.dom.fabric = false ∧ t.ktl.resetting = false ∧ t.mem = s.mem ∧
       (fail ≤ 4 → ∀ p : Port, t.fld .HPT_CFG_MODE p = 0 ∧ t.fld .HPT_CFG_WIDTH p = if p = 0 then 8 else 0)
     let placed (t : State) (type : Nat) : Prop := PlainMemory s → s.coh.dir = [] →
       (let a := fieldAt (s.objHeader s.bootedSlot type) 16 6
        let l := s.objPayload s.bootedSlot type
        (∀ b : Nat, (∀ i : Nat, i < l.length → canonical (a + i) ≠ b) → t.mem.byte b = s.mem.byte b) ∧
        (l.length ≤ 2 ^ 30 → ∀ i : Nat, i < l.length → (s.place (canonical (a + i))).memory = true → s.storeGone (canonical (a + i)) = false →
          t.mem.byte (canonical (a + i)) = l.getD i 0))
     (∀ rep : StandbyReport, (s.ktl.stage1Due = false → exec (.standbyPowerUp rep) s = .next s) ∧
       (s.ktl.stage1Due = true → ∃ t : State, exec (.standbyPowerUp rep) s = .next t ∧ t.ktl.persist = { s.ktl.persist with boots := (s.ktl.persist.boots + 1) % 2 ^ 32 } ∧
         t.ktl.stage1Due = false ∧ t.ktl.maddr = rep.maddr.val ∧ (t.ktl.identity = (rep.selfTest && rep.pufOk)) ∧
         (rep.selfTest = false → stopped t 1) ∧ (rep.selfTest = true → rep.pufOk = false → stopped t 2) ∧
         (rep.selfTest = true → rep.pufOk = true → t.fld .KTL_BOOT_STAGE 0 = 2 ∧ t = { s with regs := t.regs, ktl := t.ktl } ∧
           RegsBut s t [Fld.KTL_BOOT_STAGE.key 0 0]))) ∧
     (∀ a b : Sigs, (s.atStage 2 = false → exec (.bootSlotChoice a b) s = .next s) ∧ (s.atStage 2 = true →
       (let p := s.ktl.persist
        let trial := p.pendingSlot && decide (p.tries < 3)
        let first := if trial then 1 - p.active else p.active
        let ok (slot : Nat) : Bool := s.objectOk slot 1 (if slot = 0 then a else b)
        let slot := if ok first then first else 1 - first
        ∃ t : State, exec (.bootSlotChoice a b) s = .next t ∧ t.ktl.persist = { p with pendingSlot := trial, tries := if trial then p.tries + 1 else p.tries } ∧
          (ok first = false → ok (1 - first) = false → stopped t 3) ∧
          (ok first = true ∨ ok (1 - first) = true → t.fld .KTL_BOOT_STAGE 0 = 3 ∧ (slot < 2 → t.fld .KTL_BOOT_SLOT 0 = slot) ∧
            Tbl.get t.ktl.measured [] 2 = Sys2Proof.Config.sha384 (s.objBytes slot 1) ∧ t = { s with regs := t.regs, ktl := t.ktl })))) ∧
     (∀ sigs : Sigs, (s.atStage 3 = false → exec (.bootPersonality sigs) s = .next s) ∧ (s.atStage 3 = true →
       (let r := s.objPayload s.bootedSlot 2
        let ok := s.objectOk s.bootedSlot 2 sigs = true ∧ recordOk r (fieldAt (s.objHeader s.bootedSlot 2) 8 4) = true
        let mode := fieldAt r 25 1 % 4
        (¬ ok → ∃ t : State, exec (.bootPersonality sigs) s = .next t ∧ stopped t 4) ∧
        (ok → ∃ t : State, exec (.bootPersonality sigs) s = .next t ∧ t.fld .KTL_BOOT_STAGE 0 = 4 ∧ t = { s with regs := t.regs, ktl := t.ktl } ∧
          (∀ b : Block, t.fld .BLK_SPARE_ENABLE b = s.appliedMask r b % 2 ^ 17 ∧ t.ktl.persona.spare.getD b 0 = s.appliedMask r b) ∧
          t.fld .KTL_PWR_PCAP 0 = fieldAt r 480 2 ∧ t.ktl.persona.pmax = fieldAt r 480 2 ∧ t.ktl.persona.pfast = fieldAt r 482 2 ∧
          t.fld .KTL_THERM_TJ_THR 0 = fieldAt r 484 1 ∧ (∀ p : Port, t.fld .HPT_CFG_MODE p = mode ∧ t.fld .HPT_CFG_WIDTH p =
            if mode = 0 then (if p = 0 then 8 else 0) else if mode = 1 then (if p < 2 then 4 else 0) else 2) ∧
          (∀ l, l ∈ t.ktl.persona.badLinks ↔ l < 24 ∧ recordLinkBad r l = true))))) ∧
     (s.powerGood = false ∨ s.ktl.losses ≠ [] ∨ s.ktl.dom.tripped = true ∨ (s.flag .KTL_BOOT_KONLY 0 = false ∧ s.atStage 4 = false) →
       exec .bootPowerOn s = .next s) ∧
     (s.powerGood = true → s.ktl.losses = [] → s.ktl.dom.tripped = false →
       (s.flag .KTL_BOOT_KONLY 0 = true → exec .bootPowerOn s = .next (s.setKtl { s.ktl with dom := { s.ktl.dom with hostPort := true } })) ∧
       (s.atStage 4 = true → ∃ t : State, exec .bootPowerOn s = .next t ∧ t.fld .KTL_BOOT_STAGE 0 = 5 ∧ t.ktl.power.energy = 0 ∧
         t.ktl.dom = { s.ktl.dom with hostPort := true, fabric := true, logic := true, cores := true, far := true } ∧
         t = { s with regs := t.regs, ktl := t.ktl } ∧ ∀ f : Chan, t.fld .FMC_XTS_KEYED f =
           if (s.ktl.persona.farPop.getD f (0, 0)).1 ≠ 0 then 1 else s.fld .FMC_XTS_KEYED f)) ∧
     (∀ dimms : List DimmReport, (s.atStage 5 = false → exec (.bootInitStacks dimms) s = .next s) ∧ (s.atStage 5 = true →
       ∃ t : State, exec (.bootInitStacks dimms) s = .next t ∧ t.fld .KTL_BOOT_STAGE 0 = 6 ∧
         (∀ b : Block, (let ps := setBits (s.ktl.persona.spare.getD b 0) 17
           (∀ k, k < 16 → t.posOf b k = ps.getD k 0x1F) ∧ t.blk b = {} ∧
           (ps.length = 16 ∨ ps.length = 17 → t.fld .BLK_SPARE_SPARE b = ps.getD 16 0x1F ∧ t.fld .BLK_PWR_STATE b = 0) ∧
           (ps.length ≠ 16 → ps.length ≠ 17 → t.fld .BLK_SPARE_SPARE b = 0x1F ∧ t.fld .BLK_PWR_STATE b = 3) ∧
           (b.val ∈ t.ktl.unusable ↔ ps.length ≠ 16 ∧ ps.length ≠ 17))) ∧
         ∀ f : Chan, (let p := s.ktl.persona.farPop.getD f (0, 0)
           let d := dimms.getD f ⟨[], false, []⟩
           (farMatches p d = true → d.trained = true → p.1 ≠ 0 → t.fld .FMC_STAT_POP f = 1 ∧ t.fld .FMC_STAT_CAP f = p.2 % 2 ^ 10 ∧
             t.fld .FMC_STAT_RATE f = if p.1 = 1 then 12800 else 8800) ∧
           (p = (0, 0) → d.dimms = [] → t.fld .FMC_STAT_POP f = s.fld .FMC_STAT_POP f ∧ t.fld .FMC_STAT_FAILED f = s.fld .FMC_STAT_FAILED f) ∧
           (¬ (p = (0, 0) ∧ d.dimms = []) → farMatches p d = false ∨ d.trained = false →
             t.fld .FMC_STAT_POP f = s.fld .FMC_STAT_POP f ∧ t.fld .FMC_STAT_FAILED f = 1)))) ∧
     (∀ sigs : Sigs, (s.atStage 6 = false → exec (.bootSeqFirmware sigs) s = .next s) ∧ (s.atStage 6 = true →
       ∃ t : State, exec (.bootSeqFirmware sigs) s = .next t ∧ (∀ r, r < 12 → ∀ n, n < 2048 → t.fld .DIR_HOP_HOPS r n = hopWord n) ∧
         (s.objectOk s.bootedSlot 3 sigs = false → stopped t 5) ∧
         (s.objectOk s.bootedSlot 3 sigs = true → t.fld .KTL_BOOT_STAGE 0 = 7 ∧ t.ktl.seqEntry = some (fieldAt (s.objHeader s.bootedSlot 3) 24 6) ∧
           placed t 3)) ∧
       (s.atStage 7 = false ∨ s.ktl.coreEntry ≠ none → exec (.bootHostFirmware sigs) s = .next s) ∧
       (s.atStage 7 = true → s.ktl.coreEntry = none → ∃ t : State, exec (.bootHostFirmware sigs) s = .next t ∧
         (s.objectOk s.bootedSlot 4 sigs = false → stopped t 6) ∧
         (s.objectOk s.bootedSlot 4 sigs = true → t.fld .KTL_BOOT_STAGE 0 = s.fld .KTL_BOOT_STAGE 0 ∧
           t.ktl.coreEntry = some (fieldAt (s.objHeader s.bootedSlot 4) 24 6) ∧ placed t 4))) ∧
     (s.atStage 7 = false ∨ s.ktl.coreEntry = none → exec .bootRunning s = .next s) ∧
     (s.atStage 7 = true → s.ktl.coreEntry ≠ none → ∃ t : State, exec .bootRunning s = .next t ∧ t.fld .KTL_BOOT_STAGE 0 = 8 ∧
       t.ktl = { s.ktl with runningAt := some s.clk.aon, resetting := false } ∧ t = { s with regs := t.regs, ktl := t.ktl } ∧
       RegsBut s t [Fld.KTL_BOOT_STAGE.key 0 0]) ∧
     (s.ktl.runningAt = none → exec .sealTimeout s = .next s) ∧
     ∀ at', s.ktl.runningAt = some at' → (s.clk.aon < at' + 60 * 25000000 → exec .sealTimeout s = .next s) ∧
       (at' + 60 * 25000000 ≤ s.clk.aon → exec .sealTimeout s = .next (s.setFld .KTL_BOOT_SEALED 0 1)))

/-- What each mailbox command does, for a bank's doorbell and for a secured session (R571, R572, R573, R579, R583,
R586, R590, R593, R599, R600, R601, R602). A command acts on the front doorbell when that is its bank's, or on
the message of an open secured session, and on nothing else. A malformed block or unknown code answers 1, a
source that may not send it 2, and neither changes anything more. Of a good block: GET_INFO, GET_TELEMETRY and
GET_RETIRED return what R601 lists; SET_POWER_CAP keeps the cap clamped to PMAX and CAPINT; SET_HCLK the rates
of the named clusters; LINK_SECRET the LMS; LINK_REKEY marks the named links; FLASH_ERASE and FLASH_WRITE act
within the writable slot, or answer 3, or 6 for a flash error; SET_PENDING needs all four objects to verify,
else 4; COMMIT makes the booted pending slot ACTIVE; ADVANCE_SVN raises the counters; SEAL seals; each that the
state forbids answers 5. RESET_DEVICE and RESET_KETTLE are answered and then take place. For a bank RESULT, LEN
and DATA are the only bytes written; a block in a store that sleeps or in lines in use is waited for. The layout
of GET_INFO's DATA, the range 1 to 100 of CAPINT, the ARGS offsets and an empty GET_TELEMETRY answering 5 are
the model's (log). -/
def Obligations.MailboxCommandsAreAnswered : Prop :=
  ∀ (s : State) (b : List Byte) (flashOk : Bool) (sigs : List Sigs),
    (let p := s.ktl.persist
     let w := s.ktl.power
     let arg (i n : Nat) := fieldAt b i n
     let good (u : State) : Nat × State × List Byte := (0, u, [])
     let keep (q : Persist) : Nat × State × List Byte := (0, s.setKtl { s.ktl with persist := q }, [])
     let data := (b.drop 64).take (mbLen b - 64)
     let acts : List ((MbSource → Instr) × Nat × MbFrom × (Nat × State × List Byte)) := [
       (Instr.getInfo, 0x01, .all, (0, s.tick, s.infoBytes)),
       (Instr.getTelemetry, 0x02, .all, match s.ktl.telemetry with | some r => (0, s, r) | none => (5, s, [])),
       (Instr.getRetired, 0x03, .all, (0, s, s.repair.retired.flatMap (fun q => leBytes 2 (physCell q.1 q.2)))),
       (Instr.setPowerCap, 0x10, .coresSession, if arg 10 1 = 0 ∨ 100 < arg 10 1 then (3, s, []) else
         good ((s.setFld .KTL_PWR_PCAP 0 (min (arg 8 2) s.ktl.persona.pmax)).setFld .KTL_PWR_CAPINT 0 (arg 10 1))),
       (Instr.setHclk, 0x11, .coresSession, if arg 10 2 < 800 ∨ 3200 < arg 10 2 ∨ arg 10 2 % 100 ≠ 0 then (3, s, []) else
         good (s.setKtl { s.ktl with power := (setBits (arg 8 2) 16).foldl (fun (w : PowerSt) q => { w with
           hclkSet := setAt w.hclkSet q (arg 10 2)
           hclk := setAt w.hclk q (if w.hclk.getD q 3200 < w.hclkSet.getD q 3200 then min (w.hclk.getD q 3200) (arg 10 2) else arg 10 2) }) w })),
       (Instr.linkSecret, 0x20, .session, good (s.setKtl { s.ktl with lms := some (part b 8 39) })),
       (Instr.linkRekey, 0x21, .coresSession, good ((setBits (arg 8 3) 24).foldl (fun (u : State) l => u.setLink l { u.link l with rekey := true }) s)),
       (fun src => Instr.flashErase src flashOk, 0x30, .coresSession,
         if arg 8 4 % 65536 ≠ 0 ∨ s.inWritable (arg 8 4) (arg 12 4 * 65536) = false then (3, s, []) else if flashOk = false then (6, s, []) else
           keep { p with flash := p.flash.filter (fun q => !(decide (arg 8 4 ≤ q.1) && decide (q.1 < arg 8 4 + arg 12 4 * 65536))) }),
       (fun src => Instr.flashWrite src flashOk, 0x31, .coresSession,
         if s.inWritable (arg 8 4) data.length = false then (3, s, []) else if flashOk = false then (6, s, []) else
           keep { p with flash := (data.zip (natRange (arg 8 4) data.length)).foldl (fun (f : Tbl Byte) q => Tbl.set f 0xFF#8 q.2 q.1) p.flash }),
       (fun src => Instr.setPending src sigs, 0x32, .coresSession, match s.writableSlot with
         | none => (5, s, [])
         | some k => if [1, 2, 3, 4].all (fun t => s.objectOk k t (sigs.getD (t - 1) ⟨false, false⟩)) then
             keep { p with pendingSlot := true, tries := 0 } else (4, s, [])),
       (Instr.commit, 0x33, .coresSession, if p.pendingSlot = true ∧ s.bootedSlot ≠ p.active then
         keep { p with active := s.bootedSlot, pendingSlot := false, tries := 0 } else (5, s, [])),
       (Instr.advanceSvn, 0x34, .session,
         keep { p with svn := [1, 2, 3, 4].map (fun t => max (p.svn.getD (t - 1) 0) (fieldAt (s.objHeader p.active t) 8 4)) }),
       (Instr.seal, 0x40, .coresSession, if s.flag .KTL_BOOT_SEALED 0 then (5, s, []) else good (s.setFld .KTL_BOOT_SEALED 0 1))]
     let sized := 64 ≤ mbLen b ∧ mbLen b ≤ 4096
     let known := mbCodes.contains (arg 0 2)
     let result (src : MbSource) (from_ : MbFrom) (r : Nat × State × List Byte) : Nat × State × List Byte :=
       if from_.takes src = false then (2, s, []) else r
     (∀ (t : Transport),
       (let src := MbSource.session t b
        let d := s.spdmOn t
        let answer (r : Nat × State × List Byte) : State := r.2.1.setSpdm t { r.2.1.spdmOn t with responses := (r.2.1.spdmOn t).responses ++ [.vendor
          (if r.2.2 = [] then b.take 2 ++ leBytes 1 r.1 ++ b.drop 3
           else b.take 2 ++ leBytes 1 r.1 ++ part b 3 3 ++ leBytes 4 (64 + r.2.2.length) ++ part b 8 63 ++ r.2.2)] }
        let resets := [(Instr.resetDevice, 0x41, MbFrom.coresSession, (5, s, ([] : List Byte))), (Instr.resetKettle, 0x42, MbFrom.session, (5, s, []))]
        (∀ e ∈ acts ++ resets, (d.session = false ∨ s.ktl.identity = false ∨ s.transportOn t = false → exec (e.1 src) s = .next s) ∧
          (d.session = true → s.ktl.identity = true → s.transportOn t = true →
            (¬ sized ∨ b.length ≠ mbLen b ∨ known = false → exec (e.1 src) s = .next (answer (1, s, []))) ∧
            (sized → b.length = mbLen b → known = true → arg 0 2 ≠ e.2.1 → exec (e.1 src) s = .next s) ∧
            (e ∈ acts → sized → b.length = mbLen b → arg 0 2 = e.2.1 → exec (e.1 src) s = .next (answer (result src e.2.2.1 e.2.2.2))))) ∧
        (d.session = true → s.ktl.identity = true → s.transportOn t = true → sized → b.length = mbLen b →
          (arg 0 2 = 0x41 → (s.ktl.resetting = true → exec (.resetDevice src) s = .next (answer (5, s, []))) ∧
            (s.ktl.resetting = false → ∃ t', exec (.resetDevice src) s = .next t' ∧ t'.ktl.persist = p ∧
              (s.ktl.dom.tripped = false ∨ s.tmax < 105 → s.flag .KTL_BOOT_KONLY 0 = false ∨ 3 < s.fld .KTL_BOOT_FAIL 0 →
                t'.fld .KTL_BOOT_STAGE 0 = 3 ∧ t'.fld .KTL_BOOT_SEALED 0 = 0 ∧ t'.fld .KTL_BOOT_KONLY 0 = 0 ∧ (∀ x, t'.exe x = {}) ∧
                t'.net.items = [] ∧ t'.coh = {} ∧ t'.jobs = [] ∧ t'.fld .LNK_DEVID_VALID 0 = 0 ∧ t'.ktl.resetting = true ∧
                t'.ktl.dom.fabric = false ∧ t'.ktl.dom.hostPort = s.ktl.dom.hostPort ∧ t'.pending = s.pending))) ∧
          (arg 0 2 = 0x42 → ∃ t', exec (.resetKettle src) s = .next t' ∧ t'.fld .KTL_BOOT_STAGE 0 = 1 ∧ t'.ktl.stage1Due = true ∧ t'.ktl.persist = p ∧
            t'.ktl.lms = s.ktl.lms ∧ t'.ktl.dom.hostPort = s.ktl.dom.hostPort ∧ (∀ x, t'.exe x = {}) ∧ t'.clk.aon = s.clk.aon)))) ∧
     ∀ k : Bank,
       (let src := MbSource.bank k
        (∀ e ∈ acts, (s.ktl.doorbells = [] → exec (e.1 src) s = .next s) ∧
          ∀ c a rest, s.ktl.doorbells = (c, a) :: rest → (c ≠ k.code → exec (e.1 src) s = .next s) ∧
            (c = k.code → s.readBytes a 64 = ⟨b.take 64, 0⟩ → s.readBytes a (mbLen b) = ⟨b, 0⟩ → sized →
              (known = true → arg 0 2 ≠ e.2.1 → exec (e.1 src) s = .next s) ∧
              (known = false ∨ arg 0 2 = e.2.1 →
                (let r := if known = false then (1, s, []) else result src e.2.2.1 e.2.2.2
                 let reach := s.waitFor [(a, max b.length (64 + r.2.2.length))]
                 (∀ v, reach = some v → exec (e.1 src) s = .next v) ∧ (reach = none →
                 ∃ t : State, exec (e.1 src) s = .next t ∧ t.fld .KTL_MB_STAT_RESULT c = r.1 ∧ t.fld .KTL_MB_STAT_BUSY c = 0 ∧ t.fld .KTL_MB_STAT_DONE c = 1 ∧
                   (s.mem.coded = [] → t.ktl = { r.2.1.ktl with doorbells := rest }) ∧ (PlainMemory s → s.coh.dir = [] →
                     RegsBut r.2.1 t ([Fld.KTL_MB_STAT_RESULT.key c 0, Fld.KTL_MB_STAT_BUSY.key c 0, Fld.KTL_MB_STAT_DONE.key c 0] ++ accessRegs) ∧
                     ((s.place (canonical (a + 2))).memory = true → s.storeGone (canonical (a + 2)) = false → r.2.2.length ≤ 4096 → a % 64 = 0 →
                       t.mem.byte (canonical (a + 2)) = BitVec.ofNat 8 r.1) ∧
                     ∀ q, (∀ i, i = 2 ∨ (r.2.2 ≠ [] ∧ (4 ≤ i ∧ i < 8 ∨ 64 ≤ i ∧ i < 64 + r.2.2.length)) → canonical (a + i) ≠ q) →
                       t.mem.byte q = s.mem.byte q))))))))

/-- What the Kettle answers to each SPDM request on a transport (R577, R580, R581, R582). A device without an
identity, or a DOE mailbox of a port that is not up, answers no SPDM request and changes nothing but the count
of free values. GET_VERSION starts negotiation anew; GET_CAPABILITIES and NEGOTIATE_ALGORITHMS follow in this
order; what needs a negotiated connection, or a session, is answered UnexpectedRequest without one. GET_DIGESTS
answers the digest of the Ed25519 chain of slot 0 and GET_CERTIFICATE a part of that chain, InvalidRequest for
another slot or beyond its end. CHALLENGE, GET_MEASUREMENTS and KEY_EXCHANGE are signed over the exchange, and
the message is kept for the ML-DSA-65 half, which command 0x01 returns, or UnexpectedRequest with nothing signed
before; command 0x02 returns parts of 1,024 bytes of the other chain. Measurement 6 covers the counters and the
slot, 7 the sealed registers, zeros before the seal. FINISH secures the session when its code verifies,
END_SESSION ends it. Nothing but the transport's record changes. The error codes and the contents of the signed
message are the model's (log). -/
def Obligations.AttestationRequestsAreAnswered : Prop :=
  ∀ (t : Transport) (s : State) (slot offset length index part' : Nat) (nonce : List Byte) (macOk : Bool),
    (let d := s.spdmOn t
     let ready := d.version && d.caps && d.algs
     let noted (d : Spdm) (code : Nat) (l : List Byte) : Spdm := { d with transcript := d.transcript ++ leBytes 1 code ++ l }
     let sha := Sys2Proof.Config.sha384
     let chain := Sys2Proof.Config.chain 0
     let signed (d : Spdm) (body : List Byte) : Spdm := { d with signed := some (Sys2Proof.Config.spdmMessage d.transcript body) }
     let sig (d : Spdm) (body : List Byte) : List Byte := Sys2Proof.Config.ed25519 (Sys2Proof.Config.spdmMessage d.transcript body)
     let no (code : Nat) : Spdm × SpdmResp := (d, .error code)
     let digestOf (i : Nat) : List Byte :=
       if i = 6 then sha ((s.ktl.persist.svn.flatMap (fun c => leBytes 4 c)) ++ leBytes 1 (s.fld .KTL_BOOT_SLOT 0))
       else if i = 7 then (if s.flag .KTL_BOOT_SEALED 0 then sha s.sealedBytes else List.replicate 48 0)
       else (Tbl.find? s.ktl.measured i).getD ((List.range 48).map (fun i => Sys2Proof.Config.undefByte s.free i))
     let items : Option (List (List Byte)) := if index = 0 then some [[7]] else if index = 0xFF then some ([1, 2, 3, 4, 5, 6, 7].map digestOf)
       else if index ≤ 7 then some [digestOf index] else none
     let chal := noted d 0x83 nonce
     let meas := noted d 0xE0 (leBytes 1 index ++ nonce)
     let kex := noted { d with handshake := true } 0xE4 nonce
     let acts : List (Instr × Spdm × SpdmResp) := [
       (.spdmGetVersion t, noted { version := true, signed := d.signed, responses := d.responses } 0x84 [], .version),
       (.spdmGetCapabilities t, if d.version then (noted { d with caps := true } 0xE1 [], .capabilities) else no 4),
       (.spdmNegotiateAlgorithms t, if d.version && d.caps then (noted { d with algs := true } 0xE3 [], .algorithms) else no 4),
       (.spdmGetDigests t, if ready then (noted d 0x81 [], .digests (sha chain)) else no 4),
       (.spdmGetCertificate t slot offset length, if ready = false then no 4 else if slot ≠ 0 ∨ chain.length < offset then no 1 else
         (noted d 0x82 (leBytes 2 offset ++ leBytes 2 length),
           .certificate ((chain.drop offset).take length) (chain.length - offset - min length (chain.length - offset)))),
       (.spdmChallenge t nonce, if ready then (signed chal (sha chain), .challengeAuth (sig chal (sha chain))) else no 4),
       (.spdmKeyExchange t nonce, if ready = true ∧ d.session = false then (signed kex nonce, .keyExchange (sig kex nonce)) else no 4),
       (.spdmFinish t macOk, if d.handshake = false then no 4 else if macOk then ({ d with handshake := false, session := true }, .finish) else
         ({ d with handshake := false }, .error 6)),
       (.spdmEndSession t, if d.session then ({ d with session := false }, .endSession) else no 4),
       (.spdmMlDsaSignature t, match d.signed with | some m => (d, .vendor (Sys2Proof.Config.mldsa m)) | none => no 4),
       (.spdmMlDsaChain t part', (let c := Sys2Proof.Config.chain 1
         if c.length ≤ 1024 * part' then no 1 else (d, .vendor ((c.drop (1024 * part')).take 1024))))]
     let measured : Spdm × SpdmResp := if ready = false then no 4 else match items with
       | none => no 1
       | some l => (signed meas l.flatten, .measurements l (sig meas l.flatten))
     let answered (r : Spdm × SpdmResp) : State := s.setSpdm t { r.1 with responses := r.1.responses ++ [r.2] }
     let silent := s.ktl.identity = false ∨ s.transportOn t = false
     (silent → (∀ e ∈ acts, exec e.1 s = .next s) ∧ exec (.spdmGetMeasurements t index nonce) s = .next s.tick) ∧
     (¬ silent → (∀ e ∈ acts, exec e.1 s = .next (answered e.2)) ∧ exec (.spdmGetMeasurements t index nonce) s = .next (answered measured).tick) ∧
     ∀ r, (answered r).spdmOn t = { r.1 with responses := r.1.responses ++ [r.2] } ∧ (∀ u, u ≠ t → (answered r).spdmOn u = s.spdmOn u) ∧
       answered r = { s with ktl := { s.ktl with spdm := (answered r).ktl.spdm } })

/-- The power loop, the fast limiter, the thermal trip and telemetry (R590, R591, R593, R594, R598, R599, R617,
R619). Before 500 aon cycles have passed a power tick does nothing. A tick moves ncap by R590 from the mean
power and PCAP, nthermal by R594 from TMAX and TJ_THR, and shows n, the least of them, of nthrottle and of 32,
with what limits it; after 10 ticks at CSTEP_MIN with power above PCAP every HCLK falls by 200 MHz, not below
1.0 GHz, and above CSTEP_MIN it rises again towards its set rate; the alerts follow; nothing else changes. Power
above PFAST sets ncap to CSTEP_MIN at once. TMAX of 115 degrees or more trips the device: it fences with a
record of cause 0x36, every domain but the Kettle's is off and a reset in progress stops. A telemetry tick,
every PERIOD ms and never with PERIOD 0, makes the record of R599, keeps it and gives it to its ring. A TSTEP
outside 16 to 32 acts as 16, the first tick is due at once, and HCLK set below 1.0 GHz is not raised by slowing:
the model's choices (log). -/
def Obligations.PowerAndTemperatureAreHeld : Prop :=
  ∀ (s : State),
    (let w := s.ktl.power
     let low := s.ktl.persona.cstepMin
     let step := s.fld .KTL_SBLIM_TSTEP 0
     let h := if bitOf (s.fld .KTL_SB_LEVEL 0) 4 then max (if 16 ≤ step ∧ step ≤ 32 then step else 16) low else 32
     let shows (t : State) (cap therm : Nat) (fast : Bool) : Prop :=
       (let n := min (min cap therm) (min h 32)
        let lim (v : Nat) : Nat := if v = n ∧ n < 32 then 1 else 0
        t.fld .KTL_PWR_NCUR 0 = n % 2 ^ 6 ∧ t.fld .KTL_PWR_THROT 0 = lim cap + 2 * lim therm + 4 * lim h + 8 * bit1 fast)
     let frame (t : State) : Prop := t = { s with regs := t.regs, ktl := { s.ktl with power := t.ktl.power } } ∧ RegsBut s t
       [Fld.KTL_PWR_NCUR.key 0 0, Fld.KTL_PWR_THROT.key 0 0, Fld.KTL_PWR_PIN.key 0 0, Fld.KTL_THERM_TMAX.key 0 0, Fld.KTL_THERM_TDIE.key 0 0,
        Fld.KTL_ALERT_THERMAL.key 0 0, Fld.KTL_ALERT_CAP.key 0 0, Fld.KTL_ALERT_FAST.key 0 0]
     (∀ m : PowerMeas,
       (let p := m.power.val
        let tmax := signedOf 8 m.tmax.toNat
        let cap := s.fld .KTL_PWR_PCAP 0
        let thr : Int := s.ktl.persona.tjThr
        let ncap := if cap < p then max low (w.ncap - 1) else if p < cap - cap / 32 then min 32 (w.ncap + 1) else w.ncap
        let therm := if thr ≤ tmax then max low (w.nthermal - 2) else if tmax ≤ thr - 5 then min 32 (w.nthermal + 1) else w.nthermal
        let ticks := if ncap = low then w.atMin + 1 else 0
        (∀ last, w.lastTick = some last → s.clk.aon < last + 500 → exec (.powerTick m) s = .next s) ∧
        ((∀ last, w.lastTick = some last → last + 500 ≤ s.clk.aon) → ∃ t : State, exec (.powerTick m) s = .next t ∧ frame t ∧
          t.ktl.power.ncap = ncap ∧ t.ktl.power.nthermal = therm ∧ t.ktl.power.atMin = ticks ∧ t.ktl.power.hclkSet = w.hclkSet ∧
          t.ktl.power.lastTick = some s.clk.aon ∧ t.ktl.power.energy = w.energy + (if s.ktl.dom.fabric then 20 * p else 0) ∧
          (∀ (q a b : Nat), w.hclk[q]? = some a → w.hclkSet[q]? = some b → t.ktl.power.hclk[q]? = some (
            if 10 ≤ ticks ∧ cap < p then (if 1000 < a then max 1000 (a - 200) else a) else if low < ncap then min b (a + 200) else a)) ∧
          shows t ncap therm (w.fast && decide (cap < p)) ∧ t.fld .KTL_PWR_PIN 0 = p ∧ t.fld .KTL_THERM_TMAX 0 = m.tmax.toNat ∧
          t.fld .KTL_ALERT_THERMAL 0 = (if thr ≤ tmax then 1 else s.fld .KTL_ALERT_THERMAL 0) ∧
          t.fld .KTL_ALERT_CAP 0 = (if ncap = low ∧ w.ncap ≠ low then 1 else s.fld .KTL_ALERT_CAP 0) ∧
          t.fld .KTL_ALERT_FAST 0 = s.fld .KTL_ALERT_FAST 0))) ∧
     (∀ power, (power ≤ s.ktl.persona.pfast → exec (.fastLimit power) s = .next s) ∧
       (s.ktl.persona.pfast < power → ∃ t : State, exec (.fastLimit power) s = .next t ∧ frame t ∧ t.ktl.power = { w with ncap := low, fast := true } ∧
         shows t low w.nthermal true ∧ t.fld .KTL_ALERT_FAST 0 = 1 ∧
         t.fld .KTL_ALERT_CAP 0 = if w.ncap ≠ low then 1 else s.fld .KTL_ALERT_CAP 0)) ∧
     (∀ tmax : Int, (tmax < 115 → exec (.thermalTrip tmax) s = .next s) ∧
       (115 ≤ tmax → ∃ t : State, exec (.thermalTrip tmax) s = .next t ∧ t.thermtripN = s.ktl.standby ∧ t.ktl.resetting = false ∧ t.ktl.dom.hostPort = false ∧
         t.ktl.dom.fabric = false ∧ t.ktl.dom.logic = false ∧ t.ktl.dom.cores = false ∧ t.ktl.dom.far = false ∧ (∀ x, t.exe x = {}) ∧
         t.net.items = [] ∧ (∀ l : Link, t.fld .LNK_STAT_STATE l = 0) ∧ (∀ p : Port, t.fld .HPT_LSTAT_DLUP p = 0) ∧
         t.ktl.persist = s.ktl.persist ∧ (s.fenced = false → t.fld .RSL_STAT_STATE 0 = 2 ∧ t.fld .RSL_STAT_FCAUSE 0 = 0x36) ∧
         ((s.errq .chip).recs.length < 64 → ∃ r ∈ (t.errq .chip).recs, r.cause = 0x36 ∧ r.sev = 3))) ∧
     ∀ m : PowerMeas,
       (let period := s.fld .KTL_TEL_CTRL_PERIOD 0
        (period = 0 ∨ (∃ last, s.ktl.lastTel = some last ∧ s.clk.aon < last + period * 25000) → exec (.telemetryTick m) s = .next s) ∧
        (period ≠ 0 → (∀ last, s.ktl.lastTel = some last → last + period * 25000 ≤ s.clk.aon) → ∃ (t : State) (r : _), exec (.telemetryTick m) s = .next t ∧
          t.ktl = { s.ktl with telemetry := some r, lastTel := some s.clk.aon } ∧ r.length = 64 ∧ fieldAt r 0 1 = 0x50 ∧ fieldAt r 1 1 = 0 ∧
          fieldAt r 2 2 = 0x800 ∧ fieldAt r 7 1 = 0x1F ∧ fieldAt r 22 2 = m.power.val ∧ fieldAt r 24 2 = m.vin.val ∧
          fieldAt r 26 2 = s.fld .KTL_PWR_PCAP 0 % 2 ^ 16 ∧ fieldAt r 28 1 = s.fld .KTL_PWR_NCUR 0 % 2 ^ 8 ∧ fieldAt r 29 1 = s.fld .KTL_PWR_THROT 0 % 2 ^ 8 ∧
          fieldAt r 30 1 = m.tmax.toNat ∧ fieldAt r 31 1 = m.hottest.val ∧ fieldAt r 32 8 = s.ktl.power.energy / 1000 % 2 ^ 64 ∧
          fieldAt r 40 8 = s.clk.aon % 2 ^ 64 ∧ (∀ i : Nat, i < 14 → r.getD (48 + i) 0 = m.temps.getD i 0) ∧
          (s.ringOn .telemetry = false → (s.ring .telemetry).buf.length < 64 → (t.ring .telemetry).buf = (s.ring .telemetry).buf ++ [r] ∧ t.mem = s.mem ∧
            t.regs = s.regs))))

/-- What sideband inputs, supplies and reference clocks do to the device (R595, R596, R597, R607, R608, R611, R614,
R616, R617, R618). A filtered level that changes is honoured unless the input is held; one that chatters is held
at its safe level, flagged and honoured so. Honouring PWR_OK as asserted ends a loss, or turns on the host ports
of a Kettle-only device; as deasserted it is a loss. A loss of PWR_OK, of VIN48 while PWR_OK is honoured or of
SYS_REFCLK fences the device with cause 0x36 and turns off all but the Kettle; in a device reset boot waits at
stage 4 with what it turned on off. When nothing keeps main power away a device reset follows: stage 3, host
epochs 0, gates open, links down, unless the device is tripped at 105 degrees or more or Kettle-only before
stage 4. A hold ends after 100 ms at one level. An input honoured as asserted beyond its limit is STUCK once.
Without standby power only MRAM, repairs and waiting commands are left, memory being undefined. Without AON_XI
the device fences and FAULT_N is asserted. Without PCIE_REFCLK every host link goes down. -/
def Obligations.SidebandsSuppliesAndClocksAct : Prop :=
  ∀ (s : State),
    (let dark (t : State) : Prop := t.ktl.dom.fabric = false ∧ t.ktl.dom.logic = false ∧ t.ktl.dom.cores = false ∧ t.ktl.dom.far = false ∧
       (∀ x, t.exe x = {}) ∧ t.net.items = [] ∧ (∀ l : Link, t.fld .LNK_STAT_STATE l = 0)
     let fences (v t : State) : Prop := (v.fenced = false → t.fld .RSL_STAT_STATE 0 = 2 ∧ t.fld .RSL_STAT_FCAUSE 0 = 0x36) ∧
       ((v.errq .chip).recs.length < 64 → ∃ r ∈ (t.errq .chip).recs, r.cause = 0x36 ∧ r.sev = 3)
     let loses (a : Answer) (v : State) (w : Loss) : Prop :=
       (w ∈ v.ktl.losses ∨ (v.ktl.resetting = false ∧ v.ktl.dom.hostPort = false ∧ v.ktl.dom.fabric = false) → a = .next v) ∧
       (w ∉ v.ktl.losses → v.ktl.resetting = true → ∃ t : State, a = .next t ∧ dark t ∧ t.ktl.losses = v.ktl.losses ++ [w] ∧
         t.fld .KTL_BOOT_STAGE 0 = (if 4 < v.stage then 4 else v.stage) ∧ t.ktl.resetting = true ∧ t.ktl.persist = v.ktl.persist ∧
         t.ktl.dom.hostPort = v.ktl.dom.hostPort ∧ t.ktl.seqEntry = none ∧ t.ktl.coreEntry = none ∧ t.mem = v.mem ∧ t.errs = v.errs) ∧
       (w ∉ v.ktl.losses → v.ktl.resetting = false → v.ktl.dom.hostPort = true ∨ v.ktl.dom.fabric = true → ∃ t : State, a = .next t ∧ dark t ∧
         t.ktl.dom.hostPort = false ∧ (∀ p : Port, t.fld .HPT_LSTAT_DLUP p = 0) ∧ t.ktl.losses = v.ktl.losses ++ [w] ∧ t.ktl.persist = v.ktl.persist ∧
         (v.ktl.dom.fabric = true → fences v t) ∧ (v.ktl.dom.fabric = false → t.errs = v.errs ∧ t.mem = v.mem))
     let regains (a : Answer) (v : State) (w : Loss) : Prop :=
       (let rest := v.ktl.losses.filter (fun x => decide (x ≠ w))
        let u := v.setKtl { v.ktl with losses := rest }
        let hot := v.ktl.dom.tripped = true ∧ 105 ≤ signedOf 8 (v.fld .KTL_THERM_TMAX 0)
        let early := v.flag .KTL_BOOT_KONLY 0 = true ∧ v.fld .KTL_BOOT_FAIL 0 ≤ 3
        (w ∉ v.ktl.losses → a = .next v) ∧
        (w ∈ v.ktl.losses → rest ≠ [] ∨ v.powerGood = false ∨ v.ktl.resetting = true ∨ hot → a = .next u) ∧
        (w ∈ v.ktl.losses → rest = [] → v.powerGood = true → v.ktl.resetting = false → ¬ hot →
          (early → a = .next (v.setKtl { v.ktl with losses := [], dom := { v.ktl.dom with hostPort := true, tripped := false } })) ∧
          (¬ early → ∃ t : State, a = .next t ∧ dark t ∧ t.fld .KTL_BOOT_STAGE 0 = 3 ∧ t.flag .KTL_BOOT_KONLY 0 = false ∧ t.ktl.resetting = true ∧
            t.ktl.losses = [] ∧ t.ktl.dom.tripped = false ∧ t.ktl.dom.hostPort = v.ktl.dom.hostPort ∧ t.ktl.persist = v.ktl.persist ∧ t.errs = [] ∧
            t.fenced = false ∧ t.pending = v.pending ∧ t.clk.aon = v.clk.aon ∧ (∀ n, n < 6 → bitOf (t.fld .KTL_SB_LEVEL 0) n = bitOf (v.fld .KTL_SB_LEVEL 0) n) ∧
            ∀ p : Port, t.fld .HPT_EPOCH_EPOCH p = 0 ∧ t.fld .HPT_EPOCH_OPEN p = 1 ∧ t.fld .HPT_LSTAT_DLUP p = 0)))
     let honours (a : Answer) (v : State) (n : Nat) (level : Bool) : Prop :=
       (let k := v.input n
        let h := (v.setSbBit .KTL_SB_LEVEL n level).setInput n (if level then { k with since := v.clk.aon } else { k with stuckArmed := true })
        (bitOf (v.fld .KTL_SB_LEVEL 0) n = level → a = .next v) ∧
        (bitOf (v.fld .KTL_SB_LEVEL 0) n ≠ level →
          (∀ p : Port, p.val = n → (v.portOn p = false → a = .next h) ∧ (v.portOn p = true → ∃ t : State, a = .next t ∧
            bitOf (t.fld .KTL_SB_LEVEL 0) n = level ∧ (t.flag .HPT_LSTAT_PERST p = level) ∧ t.ktl = h.ktl)) ∧
          (n = 4 → a = .next h) ∧
          (n = 5 → level = false → loses a h .pwrOk) ∧
          (n = 5 → level = true → .pwrOk ∈ v.ktl.losses → regains a h .pwrOk) ∧
          (n = 5 → level = true → .pwrOk ∉ v.ktl.losses → a = .next (
            if v.flag .KTL_BOOT_KONLY 0 = true ∧ v.ktl.dom.tripped = false then
              h.setKtl { h.ktl with dom := { h.ktl.dom with hostPort := true } } else h))))
     let sensed (a : Answer) (n : Nat) (level : Bool) : Prop :=
       (let k := s.input n
        let ch := (k.changes ++ [s.clk.aon]).filter (fun t => decide (s.clk.aon < t + 250000))
        let u := s.setInput n { k with level := level, changes := ch, changedAt := s.clk.aon }
        let chat : Prop := 20 ≤ ch.length ∧ ∀ q ∈ ch.zip ch.tail, q.2 < q.1 + 12500
        (k.level = level → a = .next s) ∧
        (k.level ≠ level → (bitOf (s.fld .KTL_SB_HELD 0) n = true → a = .next u) ∧
          (bitOf (s.fld .KTL_SB_HELD 0) n = false → (¬ chat → honours a u n level) ∧
            (chat → honours a (((u.setSbBit .KTL_SB_HELD n true).setSbBit .KTL_SB_CHATTER n true).setFld .KTL_ALERT_CHATTER 0 1) n (decide (n < 5))))))
     (∀ (n : Fin 6) (level : Bool), sensed (exec (.sidebandLevelChange n level) s) n level) ∧
     sensed (exec .pwrOkLoss s) 5 false ∧ sensed (exec .pwrOkRestore s) 5 true ∧
     (∀ n : Fin 6,
       (let k := s.input n
        let lim := if n.val < 4 then s.fld .KTL_SBLIM_PERST_LIM 0 else if n.val = 4 then s.fld .KTL_SBLIM_THR_LIM 0 else 0
        let stuck := lim ≠ 0 ∧ bitOf (s.fld .KTL_SB_LEVEL 0) n = true ∧ k.stuckArmed = true ∧ k.since + lim * 25000000 < s.clk.aon
        let steady := bitOf (s.fld .KTL_SB_HELD 0) n = true ∧ k.changedAt + 2500000 ≤ s.clk.aon
        (¬ steady → exec (.chatterHoldEnd n) s = .next s) ∧
        (steady → honours (exec (.chatterHoldEnd n) s) (s.setSbBit .KTL_SB_HELD n false) n k.level) ∧
        (¬ stuck → exec (.sidebandStuck n) s = .next s) ∧
        (stuck → ∃ t : State, exec (.sidebandStuck n) s = .next t ∧ (∀ m, m < 6 → bitOf (t.fld .KTL_SB_STUCK 0) m = if m = n.val then true else bitOf (s.fld .KTL_SB_STUCK 0) m) ∧
          t.fld .KTL_ALERT_STUCK 0 = 1 ∧ t.input n = { k with stuckArmed := false } ∧
          t = { s with regs := t.regs, ktl := { s.ktl with inputs := t.ktl.inputs } } ∧ RegsBut s t [Fld.KTL_SB_STUCK.key 0 0, Fld.KTL_ALERT_STUCK.key 0 0]))) ∧
     (s.powerGood = false → exec .vin48Fault s = .next s) ∧ (s.powerGood = true → loses (exec .vin48Fault s) s .vin48) ∧
     regains (exec .vin48Restore s) s .vin48 ∧ loses (exec .sysRefclkLoss s) s .sysRefclk ∧ regains (exec .sysRefclkReturn s) s .sysRefclk ∧
     (∃ t : State, exec .standbyLoss s = .next t ∧ t.regs = State.reset.regs ∧ dark t ∧ t.ktl = { persist := s.ktl.persist } ∧ t.clk = {} ∧
       t = { State.reset with
         pending := s.pending, mem := t.mem, repair := { retired := s.repair.retired }, net := { links := t.net.links }, hosts := t.hosts
         ktl := t.ktl, nextUid := t.nextUid, free := t.free }) ∧
     (∃ t : State, exec .aonClockLoss s = .next t ∧ t.ktl = { s.ktl with aonLost := true } ∧ t.faultN = s.ktl.standby ∧ fences s t ∧
       (s.fenced = false → ∀ x, (t.exe x).flights = []) ∧ t.fld .KTL_ALERT_THERMAL 0 = s.fld .KTL_ALERT_THERMAL 0) ∧
     ∃ t : State, exec .pcieRefclkLoss s = .next t ∧ t = { s with regs := t.regs, hosts := t.hosts } ∧ ∀ p : Port,
       t.dlUp p = false ∧ t.fld .HPT_EPOCH_EPOCH p = s.fld .HPT_EPOCH_EPOCH p ∧ t.fld .HPT_EPOCH_OPEN p = s.fld .HPT_EPOCH_OPEN p ∧
       (s.dlUp p = false → t.port p = s.port p) ∧
       (s.dlUp p = true → t.fld .HPT_LSTAT_SPEED p = 0 ∧ t.fld .HPT_LSTAT_NLW p = 0 ∧ t.fld .HPT_LSTAT_FLIT p = 0 ∧
         t.port p = { s.port p with downAt := if (s.port p).armed then some s.clk.aon else none }))

/-- Every step that takes a command of the coherence protocol keeps memory in canonical form (R83, R97, R98, R99,
R104, R112, R113, R190, R425, R426). For every state whose memory is in canonical form (addresses strictly
rising and no entry equal to what an unlisted address reads as, in the bytes, in both poison tables and in the
table of coded slots), when the command at the front of the queue is one of the coherence protocol (arrival at a
home, the home's action on each request, snoops, responses, evictions, a snoop timeout, a watch retried,
DIR_PEEK, a chunk cleared for a bank-side pass), the step answers a next state, its memory is again in canonical
form, and the queue holds the rest of the commands. That State.reset's memory is in that form is said by
ResetLeavesRegistersAtTheirResetValues. The canonical form is the model's own. -/
def Obligations.CoherenceStepsKeepMemoryCanonical : Prop :=
  ∀ (s : State) (c : Instr) (rest : List Instr), s.mem.wf = true → s.pending = c :: rest → cohCommand c = true →
    ∃ t : State, step s = .next t ∧ t.mem.wf = true ∧ t.pending = rest
end

