-- ==== Sys2Proof/Laws/Tbl.lean ====
section
/-! SUPPORT. The laws of sparse tables: reading after writing, and the canonical form every write keeps. -/

namespace Sys2Proof

variable {α : Type}

theorem Tbl.find?_insert_same (t : Tbl α) (k : Nat) (v : α) : Tbl.find? (Tbl.insert t k v) k = some v := by
  induction t with
  | nil => simp [Tbl.insert, Tbl.find?]
  | cons p t ih =>
    obtain ⟨a, x⟩ := p
    unfold Tbl.insert
    split
    · simp [Tbl.find?]
    · split
      · simp [Tbl.find?]
      · have : a ≠ k := by omega
        simp [Tbl.find?, this, ih]

theorem Tbl.find?_insert_other (t : Tbl α) {k j : Nat} (v : α) (h : j ≠ k) :
    Tbl.find? (Tbl.insert t k v) j = Tbl.find? t j := by
  induction t with
  | nil => simp [Tbl.insert, Tbl.find?, Ne.symm h]
  | cons p t ih =>
    obtain ⟨a, x⟩ := p
    unfold Tbl.insert
    split
    · simp [Tbl.find?, Ne.symm h]
    · split
      · rename_i h1; subst h1; simp [Tbl.find?, Ne.symm h]
      · simp [Tbl.find?, ih]

theorem Tbl.find?_erase_same (t : Tbl α) (k : Nat) : Tbl.find? (Tbl.erase t k) k = none := by
  induction t with
  | nil => rfl
  | cons p t ih =>
    obtain ⟨a, x⟩ := p
    unfold Tbl.erase
    split
    · exact ih
    · rename_i h; simp [Tbl.find?, h, ih]

theorem Tbl.find?_erase_other (t : Tbl α) {k j : Nat} (h : j ≠ k) : Tbl.find? (Tbl.erase t k) j = Tbl.find? t j := by
  induction t with
  | nil => rfl
  | cons p t ih =>
    obtain ⟨a, x⟩ := p
    unfold Tbl.erase
    split
    · rename_i h1; subst h1; simp [Tbl.find?, Ne.symm h, ih]
    · simp [Tbl.find?, ih]

/-- A key reads as it was written. -/
@[simp] theorem Tbl.get_set_same [DecidableEq α] (t : Tbl α) (d : α) (k : Nat) (v : α) :
    Tbl.get (Tbl.set t d k v) d k = v := by
  unfold Tbl.get Tbl.set
  split
  · simp [Tbl.find?_erase_same, *]
  · simp [Tbl.find?_insert_same]

/-- Another key's entry stands as it was. -/
theorem Tbl.find?_set_other [DecidableEq α] (t : Tbl α) (d : α) {k j : Nat} (v : α) (h : j ≠ k) :
    Tbl.find? (Tbl.set t d k v) j = Tbl.find? t j := by
  unfold Tbl.set
  split
  · exact Tbl.find?_erase_other t h
  · exact Tbl.find?_insert_other t v h

/-- Another key reads as before. -/
theorem Tbl.get_set_other [DecidableEq α] (t : Tbl α) (d e : α) {k j : Nat} (v : α) (h : j ≠ k) :
    Tbl.get (Tbl.set t d k v) e j = Tbl.get t e j := by
  unfold Tbl.get; rw [Tbl.find?_set_other t d v h]

/-- What a key reads as after a write. -/
theorem Tbl.get_set [DecidableEq α] (t : Tbl α) (d : α) (k j : Nat) (v : α) :
    Tbl.get (Tbl.set t d k v) d j = if j = k then v else Tbl.get t d j := by
  split
  · subst_vars; simp
  · rename_i h; exact Tbl.get_set_other t d d v h

theorem Tbl.risingFrom_mono {t : Tbl α} {m n : Nat} (h : m ≤ n) (w : Tbl.risingFrom n t = true) :
    Tbl.risingFrom m t = true := by
  cases t with
  | nil => rfl
  | cons p t =>
    obtain ⟨a, x⟩ := p
    simp only [Tbl.risingFrom, Bool.and_eq_true, decide_eq_true_eq] at w ⊢
    exact ⟨by omega, w.2⟩

theorem Tbl.risingFrom_insert {t : Tbl α} {n k : Nat} {v : α} (h : n ≤ k) (w : Tbl.risingFrom n t = true) :
    Tbl.risingFrom n (Tbl.insert t k v) = true := by
  induction t generalizing n with
  | nil => simp [Tbl.insert, Tbl.risingFrom, h]
  | cons p t ih =>
    obtain ⟨a, x⟩ := p
    simp only [Tbl.risingFrom, Bool.and_eq_true, decide_eq_true_eq] at w
    unfold Tbl.insert
    split
    · rename_i h1
      simp only [Tbl.risingFrom, Bool.and_eq_true, decide_eq_true_eq]
      exact ⟨h, by omega, w.2⟩
    · split
      · rename_i h1 h2; subst h2
        simp only [Tbl.risingFrom, Bool.and_eq_true, decide_eq_true_eq]
        exact ⟨h, w.2⟩
      · rename_i h1 h2
        simp only [Tbl.risingFrom, Bool.and_eq_true, decide_eq_true_eq]
        exact ⟨w.1, ih (by omega) w.2⟩

theorem Tbl.risingFrom_erase {t : Tbl α} {n k : Nat} (w : Tbl.risingFrom n t = true) :
    Tbl.risingFrom n (Tbl.erase t k) = true := by
  induction t generalizing n with
  | nil => rfl
  | cons p t ih =>
    obtain ⟨a, x⟩ := p
    simp only [Tbl.risingFrom, Bool.and_eq_true, decide_eq_true_eq] at w
    unfold Tbl.erase
    split
    · exact ih (Tbl.risingFrom_mono (by omega) w.2)
    · simp only [Tbl.risingFrom, Bool.and_eq_true, decide_eq_true_eq]
      exact ⟨w.1, ih w.2⟩

theorem Tbl.risingFrom_filter {t : Tbl α} {n : Nat} (p : Nat × α → Bool) (w : Tbl.risingFrom n t = true) :
    Tbl.risingFrom n (t.filter p) = true := by
  induction t generalizing n with
  | nil => rfl
  | cons q t ih =>
    obtain ⟨a, x⟩ := q
    simp only [Tbl.risingFrom, Bool.and_eq_true, decide_eq_true_eq] at w
    rw [List.filter_cons]
    split
    · simp only [Tbl.risingFrom, Bool.and_eq_true, decide_eq_true_eq]
      exact ⟨w.1, ih w.2⟩
    · exact ih (Tbl.risingFrom_mono (by omega) w.2)

theorem Tbl.all_insert {t : Tbl α} {k : Nat} {v : α} (p : Nat × α → Bool) (hp : p (k, v) = true) (w : t.all p = true) :
    (Tbl.insert t k v).all p = true := by
  induction t with
  | nil => simp [Tbl.insert, hp]
  | cons q t ih =>
    obtain ⟨a, x⟩ := q
    simp only [List.all_cons, Bool.and_eq_true] at w
    unfold Tbl.insert
    split
    · simp only [List.all_cons, Bool.and_eq_true]; exact ⟨hp, w.1, w.2⟩
    · split
      · simp only [List.all_cons, Bool.and_eq_true]; exact ⟨hp, w.2⟩
      · simp only [List.all_cons, Bool.and_eq_true]; exact ⟨w.1, ih w.2⟩

theorem Tbl.all_erase {t : Tbl α} {k : Nat} (p : Nat × α → Bool) (w : t.all p = true) : (Tbl.erase t k).all p = true := by
  induction t with
  | nil => rfl
  | cons q t ih =>
    obtain ⟨a, x⟩ := q
    simp only [List.all_cons, Bool.and_eq_true] at w
    unfold Tbl.erase
    split
    · exact ih w.2
    · simp only [List.all_cons, Bool.and_eq_true]; exact ⟨w.1, ih w.2⟩

theorem Tbl.all_filter {t : Tbl α} (p q : Nat × α → Bool) (w : t.all p = true) : (t.filter q).all p = true := by
  rw [List.all_eq_true] at w ⊢
  intro x hx
  exact w x (List.mem_of_mem_filter hx)

/-- Writing keeps the canonical form. -/
theorem Tbl.wf_set [DecidableEq α] {t : Tbl α} {d : α} (k : Nat) (v : α) (w : Tbl.wf d t = true) :
    Tbl.wf d (Tbl.set t d k v) = true := by
  unfold Tbl.wf at w ⊢
  rw [Bool.and_eq_true] at w ⊢
  unfold Tbl.set
  split
  · exact ⟨Tbl.risingFrom_erase w.1, Tbl.all_erase _ w.2⟩
  · rename_i h
    exact ⟨Tbl.risingFrom_insert (Nat.zero_le _) w.1, Tbl.all_insert _ (by simpa using h) w.2⟩

/-- Taking entries out keeps the canonical form. -/
theorem Tbl.wf_filter [DecidableEq α] {t : Tbl α} {d : α} (p : Nat × α → Bool) (w : Tbl.wf d t = true) :
    Tbl.wf d (t.filter p) = true := by
  unfold Tbl.wf at w ⊢
  rw [Bool.and_eq_true] at w ⊢
  exact ⟨Tbl.risingFrom_filter p w.1, Tbl.all_filter _ p w.2⟩

@[simp] theorem Tbl.wf_nil [DecidableEq α] (d : α) : Tbl.wf d ([] : Tbl α) = true := rfl

/-- Two keys made of two numbers are equal only when the numbers are. -/
theorem pk_inj {a b c d : Nat} (h : pk a b = pk c d) : a = c ∧ b = d := by
  unfold pk at h
  have hs : a + b = c + d := by
    rcases Nat.lt_trichotomy (a + b) (c + d) with hl | he | hl
    · have : (a + b + 1) * (a + b + 1) ≤ (c + d) * (c + d) := Nat.mul_le_mul hl hl
      nlinarith
    · exact he
    · have : (c + d + 1) * (c + d + 1) ≤ (a + b) * (a + b) := Nat.mul_le_mul hl hl
      nlinarith
  rw [hs] at h
  omega

@[simp] theorem pk_eq_iff {a b c d : Nat} : pk a b = pk c d ↔ a = c ∧ b = d :=
  ⟨pk_inj, fun ⟨h1, h2⟩ => by rw [h1, h2]⟩

end Sys2Proof
end

