-- ==== Sys2Proof/Laws/State.lean ====
section
/-! SUPPORT. What each update of State leaves alone, field by field and accessor by accessor, and what an accessor reads after
its own update. -/

namespace Sys2Proof.Machine

variable (s : State)

@[simp] theorem State.setFld_pending (f : Fld) (i v j : Nat) : (s.setFld f i v j).pending = s.pending := rfl
@[simp] theorem State.setFld_banks (f : Fld) (i v j : Nat) : (s.setFld f i v j).banks = s.banks := rfl
@[simp] theorem State.setFld_mem (f : Fld) (i v j : Nat) : (s.setFld f i v j).mem = s.mem := rfl
@[simp] theorem State.setFld_coh (f : Fld) (i v j : Nat) : (s.setFld f i v j).coh = s.coh := rfl
@[simp] theorem State.setFld_far (f : Fld) (i v j : Nat) : (s.setFld f i v j).far = s.far := rfl
@[simp] theorem State.setFld_blks (f : Fld) (i v j : Nat) : (s.setFld f i v j).blks = s.blks := rfl
@[simp] theorem State.setFld_execs (f : Fld) (i v j : Nat) : (s.setFld f i v j).execs = s.execs := rfl
@[simp] theorem State.setFld_jobs (f : Fld) (i v j : Nat) : (s.setFld f i v j).jobs = s.jobs := rfl
@[simp] theorem State.setFld_nextJob (f : Fld) (i v j : Nat) : (s.setFld f i v j).nextJob = s.nextJob := rfl
@[simp] theorem State.setFld_works (f : Fld) (i v j : Nat) : (s.setFld f i v j).works = s.works := rfl
@[simp] theorem State.setFld_rings (f : Fld) (i v j : Nat) : (s.setFld f i v j).rings = s.rings := rfl
@[simp] theorem State.setFld_errs (f : Fld) (i v j : Nat) : (s.setFld f i v j).errs = s.errs := rfl
@[simp] theorem State.setFld_signals (f : Fld) (i v j : Nat) : (s.setFld f i v j).signals = s.signals := rfl
@[simp] theorem State.setFld_budgets (f : Fld) (i v j : Nat) : (s.setFld f i v j).budgets = s.budgets := rfl
@[simp] theorem State.setFld_clk (f : Fld) (i v j : Nat) : (s.setFld f i v j).clk = s.clk := rfl
@[simp] theorem State.setFld_repair (f : Fld) (i v j : Nat) : (s.setFld f i v j).repair = s.repair := rfl
@[simp] theorem State.setFld_net (f : Fld) (i v j : Nat) : (s.setFld f i v j).net = s.net := rfl
@[simp] theorem State.setFld_upd (f : Fld) (i v j : Nat) : (s.setFld f i v j).upd = s.upd := rfl
@[simp] theorem State.setFld_ktl (f : Fld) (i v j : Nat) : (s.setFld f i v j).ktl = s.ktl := rfl
@[simp] theorem State.setFld_pipe (f : Fld) (i v j : Nat) : (s.setFld f i v j).pipe = s.pipe := rfl
@[simp] theorem State.setFld_hosts (f : Fld) (i v j : Nat) : (s.setFld f i v j).hosts = s.hosts := rfl
@[simp] theorem State.setFld_nextUid (f : Fld) (i v j : Nat) : (s.setFld f i v j).nextUid = s.nextUid := rfl
@[simp] theorem State.setFld_free (f : Fld) (i v j : Nat) : (s.setFld f i v j).free = s.free := rfl
@[simp] theorem State.setFld_get_bank (f : Fld) (i v j : Nat) (c : Bank) : (s.setFld f i v j).bank c = s.bank c := rfl
@[simp] theorem State.setFld_get_blk (f : Fld) (i v j : Nat) (c : Nat) : (s.setFld f i v j).blk c = s.blk c := rfl
@[simp] theorem State.setFld_get_exe (f : Fld) (i v j : Nat) (c : Executor) : (s.setFld f i v j).exe c = s.exe c := rfl
@[simp] theorem State.setFld_get_work (f : Fld) (i v j : Nat) (c : Nat) : (s.setFld f i v j).work c = s.work c := rfl
@[simp] theorem State.setFld_get_errq (f : Fld) (i v j : Nat) (c : LevelInst) : (s.setFld f i v j).errq c = s.errq c := rfl
@[simp] theorem State.setFld_get_budget (f : Fld) (i v j : Nat) (c : BudgetRes) : (s.setFld f i v j).budget c = s.budget c := rfl
@[simp] theorem State.setFld_get_fclk (f : Fld) (i v j : Nat) (c : Nat) : (s.setFld f i v j).fclk c = s.fclk c := rfl
@[simp] theorem State.setFld_get_job (f : Fld) (i v j : Nat) (c : Nat) : (s.setFld f i v j).job c = s.job c := rfl
@[simp] theorem State.setFld_get_link (f : Fld) (i v j : Nat) (c : Nat) : (s.setFld f i v j).link c = s.link c := rfl
@[simp] theorem State.setFld_get_ring (f : Fld) (i v j : Nat) (c : RingId) : (s.setFld f i v j).ring c = s.ring c := rfl
@[simp] theorem State.setFld_get_port (f : Fld) (i v j : Nat) (c : Nat) : (s.setFld f i v j).port c = s.port c := rfl
@[simp] theorem State.setFld_get_farBuf (f : Fld) (i v j : Nat) (c : Nat) : (s.setFld f i v j).farBuf c = s.farBuf c := rfl

@[simp] theorem State.setBank_pending (k : Bank) (v : BankSt) : (s.setBank k v).pending = s.pending := rfl
@[simp] theorem State.setBank_regs (k : Bank) (v : BankSt) : (s.setBank k v).regs = s.regs := rfl
@[simp] theorem State.setBank_mem (k : Bank) (v : BankSt) : (s.setBank k v).mem = s.mem := rfl
@[simp] theorem State.setBank_coh (k : Bank) (v : BankSt) : (s.setBank k v).coh = s.coh := rfl
@[simp] theorem State.setBank_far (k : Bank) (v : BankSt) : (s.setBank k v).far = s.far := rfl
@[simp] theorem State.setBank_blks (k : Bank) (v : BankSt) : (s.setBank k v).blks = s.blks := rfl
@[simp] theorem State.setBank_execs (k : Bank) (v : BankSt) : (s.setBank k v).execs = s.execs := rfl
@[simp] theorem State.setBank_jobs (k : Bank) (v : BankSt) : (s.setBank k v).jobs = s.jobs := rfl
@[simp] theorem State.setBank_nextJob (k : Bank) (v : BankSt) : (s.setBank k v).nextJob = s.nextJob := rfl
@[simp] theorem State.setBank_works (k : Bank) (v : BankSt) : (s.setBank k v).works = s.works := rfl
@[simp] theorem State.setBank_rings (k : Bank) (v : BankSt) : (s.setBank k v).rings = s.rings := rfl
@[simp] theorem State.setBank_errs (k : Bank) (v : BankSt) : (s.setBank k v).errs = s.errs := rfl
@[simp] theorem State.setBank_signals (k : Bank) (v : BankSt) : (s.setBank k v).signals = s.signals := rfl
@[simp] theorem State.setBank_budgets (k : Bank) (v : BankSt) : (s.setBank k v).budgets = s.budgets := rfl
@[simp] theorem State.setBank_clk (k : Bank) (v : BankSt) : (s.setBank k v).clk = s.clk := rfl
@[simp] theorem State.setBank_repair (k : Bank) (v : BankSt) : (s.setBank k v).repair = s.repair := rfl
@[simp] theorem State.setBank_net (k : Bank) (v : BankSt) : (s.setBank k v).net = s.net := rfl
@[simp] theorem State.setBank_upd (k : Bank) (v : BankSt) : (s.setBank k v).upd = s.upd := rfl
@[simp] theorem State.setBank_ktl (k : Bank) (v : BankSt) : (s.setBank k v).ktl = s.ktl := rfl
@[simp] theorem State.setBank_pipe (k : Bank) (v : BankSt) : (s.setBank k v).pipe = s.pipe := rfl
@[simp] theorem State.setBank_hosts (k : Bank) (v : BankSt) : (s.setBank k v).hosts = s.hosts := rfl
@[simp] theorem State.setBank_nextUid (k : Bank) (v : BankSt) : (s.setBank k v).nextUid = s.nextUid := rfl
@[simp] theorem State.setBank_free (k : Bank) (v : BankSt) : (s.setBank k v).free = s.free := rfl
@[simp] theorem State.setBank_get_fld (k : Bank) (v : BankSt) (g : Fld) (m n : Nat) : (s.setBank k v).fld g m n = s.fld g m n := rfl
@[simp] theorem State.setBank_get_blk (k : Bank) (v : BankSt) (c : Nat) : (s.setBank k v).blk c = s.blk c := rfl
@[simp] theorem State.setBank_get_exe (k : Bank) (v : BankSt) (c : Executor) : (s.setBank k v).exe c = s.exe c := rfl
@[simp] theorem State.setBank_get_work (k : Bank) (v : BankSt) (c : Nat) : (s.setBank k v).work c = s.work c := rfl
@[simp] theorem State.setBank_get_errq (k : Bank) (v : BankSt) (c : LevelInst) : (s.setBank k v).errq c = s.errq c := rfl
@[simp] theorem State.setBank_get_budget (k : Bank) (v : BankSt) (c : BudgetRes) : (s.setBank k v).budget c = s.budget c := rfl
@[simp] theorem State.setBank_get_fclk (k : Bank) (v : BankSt) (c : Nat) : (s.setBank k v).fclk c = s.fclk c := rfl
@[simp] theorem State.setBank_get_job (k : Bank) (v : BankSt) (c : Nat) : (s.setBank k v).job c = s.job c := rfl
@[simp] theorem State.setBank_get_link (k : Bank) (v : BankSt) (c : Nat) : (s.setBank k v).link c = s.link c := rfl
@[simp] theorem State.setBank_get_ring (k : Bank) (v : BankSt) (c : RingId) : (s.setBank k v).ring c = s.ring c := rfl
@[simp] theorem State.setBank_get_port (k : Bank) (v : BankSt) (c : Nat) : (s.setBank k v).port c = s.port c := rfl
@[simp] theorem State.setBank_get_farBuf (k : Bank) (v : BankSt) (c : Nat) : (s.setBank k v).farBuf c = s.farBuf c := rfl

@[simp] theorem State.setBlk_pending (b : Nat) (v : Blk) : (s.setBlk b v).pending = s.pending := rfl
@[simp] theorem State.setBlk_regs (b : Nat) (v : Blk) : (s.setBlk b v).regs = s.regs := rfl
@[simp] theorem State.setBlk_banks (b : Nat) (v : Blk) : (s.setBlk b v).banks = s.banks := rfl
@[simp] theorem State.setBlk_mem (b : Nat) (v : Blk) : (s.setBlk b v).mem = s.mem := rfl
@[simp] theorem State.setBlk_coh (b : Nat) (v : Blk) : (s.setBlk b v).coh = s.coh := rfl
@[simp] theorem State.setBlk_far (b : Nat) (v : Blk) : (s.setBlk b v).far = s.far := rfl
@[simp] theorem State.setBlk_execs (b : Nat) (v : Blk) : (s.setBlk b v).execs = s.execs := rfl
@[simp] theorem State.setBlk_jobs (b : Nat) (v : Blk) : (s.setBlk b v).jobs = s.jobs := rfl
@[simp] theorem State.setBlk_nextJob (b : Nat) (v : Blk) : (s.setBlk b v).nextJob = s.nextJob := rfl
@[simp] theorem State.setBlk_works (b : Nat) (v : Blk) : (s.setBlk b v).works = s.works := rfl
@[simp] theorem State.setBlk_rings (b : Nat) (v : Blk) : (s.setBlk b v).rings = s.rings := rfl
@[simp] theorem State.setBlk_errs (b : Nat) (v : Blk) : (s.setBlk b v).errs = s.errs := rfl
@[simp] theorem State.setBlk_signals (b : Nat) (v : Blk) : (s.setBlk b v).signals = s.signals := rfl
@[simp] theorem State.setBlk_budgets (b : Nat) (v : Blk) : (s.setBlk b v).budgets = s.budgets := rfl
@[simp] theorem State.setBlk_clk (b : Nat) (v : Blk) : (s.setBlk b v).clk = s.clk := rfl
@[simp] theorem State.setBlk_repair (b : Nat) (v : Blk) : (s.setBlk b v).repair = s.repair := rfl
@[simp] theorem State.setBlk_net (b : Nat) (v : Blk) : (s.setBlk b v).net = s.net := rfl
@[simp] theorem State.setBlk_upd (b : Nat) (v : Blk) : (s.setBlk b v).upd = s.upd := rfl
@[simp] theorem State.setBlk_ktl (b : Nat) (v : Blk) : (s.setBlk b v).ktl = s.ktl := rfl
@[simp] theorem State.setBlk_pipe (b : Nat) (v : Blk) : (s.setBlk b v).pipe = s.pipe := rfl
@[simp] theorem State.setBlk_hosts (b : Nat) (v : Blk) : (s.setBlk b v).hosts = s.hosts := rfl
@[simp] theorem State.setBlk_nextUid (b : Nat) (v : Blk) : (s.setBlk b v).nextUid = s.nextUid := rfl
@[simp] theorem State.setBlk_free (b : Nat) (v : Blk) : (s.setBlk b v).free = s.free := rfl
@[simp] theorem State.setBlk_get_fld (b : Nat) (v : Blk) (g : Fld) (m n : Nat) : (s.setBlk b v).fld g m n = s.fld g m n := rfl
@[simp] theorem State.setBlk_get_bank (b : Nat) (v : Blk) (c : Bank) : (s.setBlk b v).bank c = s.bank c := rfl
@[simp] theorem State.setBlk_get_exe (b : Nat) (v : Blk) (c : Executor) : (s.setBlk b v).exe c = s.exe c := rfl
@[simp] theorem State.setBlk_get_work (b : Nat) (v : Blk) (c : Nat) : (s.setBlk b v).work c = s.work c := rfl
@[simp] theorem State.setBlk_get_errq (b : Nat) (v : Blk) (c : LevelInst) : (s.setBlk b v).errq c = s.errq c := rfl
@[simp] theorem State.setBlk_get_budget (b : Nat) (v : Blk) (c : BudgetRes) : (s.setBlk b v).budget c = s.budget c := rfl
@[simp] theorem State.setBlk_get_fclk (b : Nat) (v : Blk) (c : Nat) : (s.setBlk b v).fclk c = s.fclk c := rfl
@[simp] theorem State.setBlk_get_job (b : Nat) (v : Blk) (c : Nat) : (s.setBlk b v).job c = s.job c := rfl
@[simp] theorem State.setBlk_get_link (b : Nat) (v : Blk) (c : Nat) : (s.setBlk b v).link c = s.link c := rfl
@[simp] theorem State.setBlk_get_ring (b : Nat) (v : Blk) (c : RingId) : (s.setBlk b v).ring c = s.ring c := rfl
@[simp] theorem State.setBlk_get_port (b : Nat) (v : Blk) (c : Nat) : (s.setBlk b v).port c = s.port c := rfl
@[simp] theorem State.setBlk_get_farBuf (b : Nat) (v : Blk) (c : Nat) : (s.setBlk b v).farBuf c = s.farBuf c := rfl

@[simp] theorem State.setExe_pending (x : Executor) (v : Exec) : (s.setExe x v).pending = s.pending := rfl
@[simp] theorem State.setExe_regs (x : Executor) (v : Exec) : (s.setExe x v).regs = s.regs := rfl
@[simp] theorem State.setExe_banks (x : Executor) (v : Exec) : (s.setExe x v).banks = s.banks := rfl
@[simp] theorem State.setExe_mem (x : Executor) (v : Exec) : (s.setExe x v).mem = s.mem := rfl
@[simp] theorem State.setExe_coh (x : Executor) (v : Exec) : (s.setExe x v).coh = s.coh := rfl
@[simp] theorem State.setExe_far (x : Executor) (v : Exec) : (s.setExe x v).far = s.far := rfl
@[simp] theorem State.setExe_blks (x : Executor) (v : Exec) : (s.setExe x v).blks = s.blks := rfl
@[simp] theorem State.setExe_jobs (x : Executor) (v : Exec) : (s.setExe x v).jobs = s.jobs := rfl
@[simp] theorem State.setExe_nextJob (x : Executor) (v : Exec) : (s.setExe x v).nextJob = s.nextJob := rfl
@[simp] theorem State.setExe_works (x : Executor) (v : Exec) : (s.setExe x v).works = s.works := rfl
@[simp] theorem State.setExe_rings (x : Executor) (v : Exec) : (s.setExe x v).rings = s.rings := rfl
@[simp] theorem State.setExe_errs (x : Executor) (v : Exec) : (s.setExe x v).errs = s.errs := rfl
@[simp] theorem State.setExe_signals (x : Executor) (v : Exec) : (s.setExe x v).signals = s.signals := rfl
@[simp] theorem State.setExe_budgets (x : Executor) (v : Exec) : (s.setExe x v).budgets = s.budgets := rfl
@[simp] theorem State.setExe_clk (x : Executor) (v : Exec) : (s.setExe x v).clk = s.clk := rfl
@[simp] theorem State.setExe_repair (x : Executor) (v : Exec) : (s.setExe x v).repair = s.repair := rfl
@[simp] theorem State.setExe_net (x : Executor) (v : Exec) : (s.setExe x v).net = s.net := rfl
@[simp] theorem State.setExe_upd (x : Executor) (v : Exec) : (s.setExe x v).upd = s.upd := rfl
@[simp] theorem State.setExe_ktl (x : Executor) (v : Exec) : (s.setExe x v).ktl = s.ktl := rfl
@[simp] theorem State.setExe_pipe (x : Executor) (v : Exec) : (s.setExe x v).pipe = s.pipe := rfl
@[simp] theorem State.setExe_hosts (x : Executor) (v : Exec) : (s.setExe x v).hosts = s.hosts := rfl
@[simp] theorem State.setExe_nextUid (x : Executor) (v : Exec) : (s.setExe x v).nextUid = s.nextUid := rfl
@[simp] theorem State.setExe_free (x : Executor) (v : Exec) : (s.setExe x v).free = s.free := rfl
@[simp] theorem State.setExe_get_fld (x : Executor) (v : Exec) (g : Fld) (m n : Nat) : (s.setExe x v).fld g m n = s.fld g m n := rfl
@[simp] theorem State.setExe_get_bank (x : Executor) (v : Exec) (c : Bank) : (s.setExe x v).bank c = s.bank c := rfl
@[simp] theorem State.setExe_get_blk (x : Executor) (v : Exec) (c : Nat) : (s.setExe x v).blk c = s.blk c := rfl
@[simp] theorem State.setExe_get_work (x : Executor) (v : Exec) (c : Nat) : (s.setExe x v).work c = s.work c := rfl
@[simp] theorem State.setExe_get_errq (x : Executor) (v : Exec) (c : LevelInst) : (s.setExe x v).errq c = s.errq c := rfl
@[simp] theorem State.setExe_get_budget (x : Executor) (v : Exec) (c : BudgetRes) : (s.setExe x v).budget c = s.budget c := rfl
@[simp] theorem State.setExe_get_fclk (x : Executor) (v : Exec) (c : Nat) : (s.setExe x v).fclk c = s.fclk c := rfl
@[simp] theorem State.setExe_get_job (x : Executor) (v : Exec) (c : Nat) : (s.setExe x v).job c = s.job c := rfl
@[simp] theorem State.setExe_get_link (x : Executor) (v : Exec) (c : Nat) : (s.setExe x v).link c = s.link c := rfl
@[simp] theorem State.setExe_get_ring (x : Executor) (v : Exec) (c : RingId) : (s.setExe x v).ring c = s.ring c := rfl
@[simp] theorem State.setExe_get_port (x : Executor) (v : Exec) (c : Nat) : (s.setExe x v).port c = s.port c := rfl
@[simp] theorem State.setExe_get_farBuf (x : Executor) (v : Exec) (c : Nat) : (s.setExe x v).farBuf c = s.farBuf c := rfl

@[simp] theorem State.setWork_pending (r : Nat) (v : Work) : (s.setWork r v).pending = s.pending := rfl
@[simp] theorem State.setWork_regs (r : Nat) (v : Work) : (s.setWork r v).regs = s.regs := rfl
@[simp] theorem State.setWork_banks (r : Nat) (v : Work) : (s.setWork r v).banks = s.banks := rfl
@[simp] theorem State.setWork_mem (r : Nat) (v : Work) : (s.setWork r v).mem = s.mem := rfl
@[simp] theorem State.setWork_coh (r : Nat) (v : Work) : (s.setWork r v).coh = s.coh := rfl
@[simp] theorem State.setWork_far (r : Nat) (v : Work) : (s.setWork r v).far = s.far := rfl
@[simp] theorem State.setWork_blks (r : Nat) (v : Work) : (s.setWork r v).blks = s.blks := rfl
@[simp] theorem State.setWork_execs (r : Nat) (v : Work) : (s.setWork r v).execs = s.execs := rfl
@[simp] theorem State.setWork_jobs (r : Nat) (v : Work) : (s.setWork r v).jobs = s.jobs := rfl
@[simp] theorem State.setWork_nextJob (r : Nat) (v : Work) : (s.setWork r v).nextJob = s.nextJob := rfl
@[simp] theorem State.setWork_rings (r : Nat) (v : Work) : (s.setWork r v).rings = s.rings := rfl
@[simp] theorem State.setWork_errs (r : Nat) (v : Work) : (s.setWork r v).errs = s.errs := rfl
@[simp] theorem State.setWork_signals (r : Nat) (v : Work) : (s.setWork r v).signals = s.signals := rfl
@[simp] theorem State.setWork_budgets (r : Nat) (v : Work) : (s.setWork r v).budgets = s.budgets := rfl
@[simp] theorem State.setWork_clk (r : Nat) (v : Work) : (s.setWork r v).clk = s.clk := rfl
@[simp] theorem State.setWork_repair (r : Nat) (v : Work) : (s.setWork r v).repair = s.repair := rfl
@[simp] theorem State.setWork_net (r : Nat) (v : Work) : (s.setWork r v).net = s.net := rfl
@[simp] theorem State.setWork_upd (r : Nat) (v : Work) : (s.setWork r v).upd = s.upd := rfl
@[simp] theorem State.setWork_ktl (r : Nat) (v : Work) : (s.setWork r v).ktl = s.ktl := rfl
@[simp] theorem State.setWork_pipe (r : Nat) (v : Work) : (s.setWork r v).pipe = s.pipe := rfl
@[simp] theorem State.setWork_hosts (r : Nat) (v : Work) : (s.setWork r v).hosts = s.hosts := rfl
@[simp] theorem State.setWork_nextUid (r : Nat) (v : Work) : (s.setWork r v).nextUid = s.nextUid := rfl
@[simp] theorem State.setWork_free (r : Nat) (v : Work) : (s.setWork r v).free = s.free := rfl
@[simp] theorem State.setWork_get_fld (r : Nat) (v : Work) (g : Fld) (m n : Nat) : (s.setWork r v).fld g m n = s.fld g m n := rfl
@[simp] theorem State.setWork_get_bank (r : Nat) (v : Work) (c : Bank) : (s.setWork r v).bank c = s.bank c := rfl
@[simp] theorem State.setWork_get_blk (r : Nat) (v : Work) (c : Nat) : (s.setWork r v).blk c = s.blk c := rfl
@[simp] theorem State.setWork_get_exe (r : Nat) (v : Work) (c : Executor) : (s.setWork r v).exe c = s.exe c := rfl
@[simp] theorem State.setWork_get_errq (r : Nat) (v : Work) (c : LevelInst) : (s.setWork r v).errq c = s.errq c := rfl
@[simp] theorem State.setWork_get_budget (r : Nat) (v : Work) (c : BudgetRes) : (s.setWork r v).budget c = s.budget c := rfl
@[simp] theorem State.setWork_get_fclk (r : Nat) (v : Work) (c : Nat) : (s.setWork r v).fclk c = s.fclk c := rfl
@[simp] theorem State.setWork_get_job (r : Nat) (v : Work) (c : Nat) : (s.setWork r v).job c = s.job c := rfl
@[simp] theorem State.setWork_get_link (r : Nat) (v : Work) (c : Nat) : (s.setWork r v).link c = s.link c := rfl
@[simp] theorem State.setWork_get_ring (r : Nat) (v : Work) (c : RingId) : (s.setWork r v).ring c = s.ring c := rfl
@[simp] theorem State.setWork_get_port (r : Nat) (v : Work) (c : Nat) : (s.setWork r v).port c = s.port c := rfl
@[simp] theorem State.setWork_get_farBuf (r : Nat) (v : Work) (c : Nat) : (s.setWork r v).farBuf c = s.farBuf c := rfl

@[simp] theorem State.setErrq_pending (q : LevelInst) (v : ErrQ) : (s.setErrq q v).pending = s.pending := rfl
@[simp] theorem State.setErrq_regs (q : LevelInst) (v : ErrQ) : (s.setErrq q v).regs = s.regs := rfl
@[simp] theorem State.setErrq_banks (q : LevelInst) (v : ErrQ) : (s.setErrq q v).banks = s.banks := rfl
@[simp] theorem State.setErrq_mem (q : LevelInst) (v : ErrQ) : (s.setErrq q v).mem = s.mem := rfl
@[simp] theorem State.setErrq_coh (q : LevelInst) (v : ErrQ) : (s.setErrq q v).coh = s.coh := rfl
@[simp] theorem State.setErrq_far (q : LevelInst) (v : ErrQ) : (s.setErrq q v).far = s.far := rfl
@[simp] theorem State.setErrq_blks (q : LevelInst) (v : ErrQ) : (s.setErrq q v).blks = s.blks := rfl
@[simp] theorem State.setErrq_execs (q : LevelInst) (v : ErrQ) : (s.setErrq q v).execs = s.execs := rfl
@[simp] theorem State.setErrq_jobs (q : LevelInst) (v : ErrQ) : (s.setErrq q v).jobs = s.jobs := rfl
@[simp] theorem State.setErrq_nextJob (q : LevelInst) (v : ErrQ) : (s.setErrq q v).nextJob = s.nextJob := rfl
@[simp] theorem State.setErrq_works (q : LevelInst) (v : ErrQ) : (s.setErrq q v).works = s.works := rfl
@[simp] theorem State.setErrq_rings (q : LevelInst) (v : ErrQ) : (s.setErrq q v).rings = s.rings := rfl
@[simp] theorem State.setErrq_signals (q : LevelInst) (v : ErrQ) : (s.setErrq q v).signals = s.signals := rfl
@[simp] theorem State.setErrq_budgets (q : LevelInst) (v : ErrQ) : (s.setErrq q v).budgets = s.budgets := rfl
@[simp] theorem State.setErrq_clk (q : LevelInst) (v : ErrQ) : (s.setErrq q v).clk = s.clk := rfl
@[simp] theorem State.setErrq_repair (q : LevelInst) (v : ErrQ) : (s.setErrq q v).repair = s.repair := rfl
@[simp] theorem State.setErrq_net (q : LevelInst) (v : ErrQ) : (s.setErrq q v).net = s.net := rfl
@[simp] theorem State.setErrq_upd (q : LevelInst) (v : ErrQ) : (s.setErrq q v).upd = s.upd := rfl
@[simp] theorem State.setErrq_ktl (q : LevelInst) (v : ErrQ) : (s.setErrq q v).ktl = s.ktl := rfl
@[simp] theorem State.setErrq_pipe (q : LevelInst) (v : ErrQ) : (s.setErrq q v).pipe = s.pipe := rfl
@[simp] theorem State.setErrq_hosts (q : LevelInst) (v : ErrQ) : (s.setErrq q v).hosts = s.hosts := rfl
@[simp] theorem State.setErrq_nextUid (q : LevelInst) (v : ErrQ) : (s.setErrq q v).nextUid = s.nextUid := rfl
@[simp] theorem State.setErrq_free (q : LevelInst) (v : ErrQ) : (s.setErrq q v).free = s.free := rfl
@[simp] theorem State.setErrq_get_fld (q : LevelInst) (v : ErrQ) (g : Fld) (m n : Nat) : (s.setErrq q v).fld g m n = s.fld g m n := rfl
@[simp] theorem State.setErrq_get_bank (q : LevelInst) (v : ErrQ) (c : Bank) : (s.setErrq q v).bank c = s.bank c := rfl
@[simp] theorem State.setErrq_get_blk (q : LevelInst) (v : ErrQ) (c : Nat) : (s.setErrq q v).blk c = s.blk c := rfl
@[simp] theorem State.setErrq_get_exe (q : LevelInst) (v : ErrQ) (c : Executor) : (s.setErrq q v).exe c = s.exe c := rfl
@[simp] theorem State.setErrq_get_work (q : LevelInst) (v : ErrQ) (c : Nat) : (s.setErrq q v).work c = s.work c := rfl
@[simp] theorem State.setErrq_get_budget (q : LevelInst) (v : ErrQ) (c : BudgetRes) : (s.setErrq q v).budget c = s.budget c := rfl
@[simp] theorem State.setErrq_get_fclk (q : LevelInst) (v : ErrQ) (c : Nat) : (s.setErrq q v).fclk c = s.fclk c := rfl
@[simp] theorem State.setErrq_get_job (q : LevelInst) (v : ErrQ) (c : Nat) : (s.setErrq q v).job c = s.job c := rfl
@[simp] theorem State.setErrq_get_link (q : LevelInst) (v : ErrQ) (c : Nat) : (s.setErrq q v).link c = s.link c := rfl
@[simp] theorem State.setErrq_get_ring (q : LevelInst) (v : ErrQ) (c : RingId) : (s.setErrq q v).ring c = s.ring c := rfl
@[simp] theorem State.setErrq_get_port (q : LevelInst) (v : ErrQ) (c : Nat) : (s.setErrq q v).port c = s.port c := rfl
@[simp] theorem State.setErrq_get_farBuf (q : LevelInst) (v : ErrQ) (c : Nat) : (s.setErrq q v).farBuf c = s.farBuf c := rfl

@[simp] theorem State.setBudget_pending (b : BudgetRes) (v : Budget) : (s.setBudget b v).pending = s.pending := rfl
@[simp] theorem State.setBudget_regs (b : BudgetRes) (v : Budget) : (s.setBudget b v).regs = s.regs := rfl
@[simp] theorem State.setBudget_banks (b : BudgetRes) (v : Budget) : (s.setBudget b v).banks = s.banks := rfl
@[simp] theorem State.setBudget_mem (b : BudgetRes) (v : Budget) : (s.setBudget b v).mem = s.mem := rfl
@[simp] theorem State.setBudget_coh (b : BudgetRes) (v : Budget) : (s.setBudget b v).coh = s.coh := rfl
@[simp] theorem State.setBudget_far (b : BudgetRes) (v : Budget) : (s.setBudget b v).far = s.far := rfl
@[simp] theorem State.setBudget_blks (b : BudgetRes) (v : Budget) : (s.setBudget b v).blks = s.blks := rfl
@[simp] theorem State.setBudget_execs (b : BudgetRes) (v : Budget) : (s.setBudget b v).execs = s.execs := rfl
@[simp] theorem State.setBudget_jobs (b : BudgetRes) (v : Budget) : (s.setBudget b v).jobs = s.jobs := rfl
@[simp] theorem State.setBudget_nextJob (b : BudgetRes) (v : Budget) : (s.setBudget b v).nextJob = s.nextJob := rfl
@[simp] theorem State.setBudget_works (b : BudgetRes) (v : Budget) : (s.setBudget b v).works = s.works := rfl
@[simp] theorem State.setBudget_rings (b : BudgetRes) (v : Budget) : (s.setBudget b v).rings = s.rings := rfl
@[simp] theorem State.setBudget_errs (b : BudgetRes) (v : Budget) : (s.setBudget b v).errs = s.errs := rfl
@[simp] theorem State.setBudget_signals (b : BudgetRes) (v : Budget) : (s.setBudget b v).signals = s.signals := rfl
@[simp] theorem State.setBudget_clk (b : BudgetRes) (v : Budget) : (s.setBudget b v).clk = s.clk := rfl
@[simp] theorem State.setBudget_repair (b : BudgetRes) (v : Budget) : (s.setBudget b v).repair = s.repair := rfl
@[simp] theorem State.setBudget_net (b : BudgetRes) (v : Budget) : (s.setBudget b v).net = s.net := rfl
@[simp] theorem State.setBudget_upd (b : BudgetRes) (v : Budget) : (s.setBudget b v).upd = s.upd := rfl
@[simp] theorem State.setBudget_ktl (b : BudgetRes) (v : Budget) : (s.setBudget b v).ktl = s.ktl := rfl
@[simp] theorem State.setBudget_pipe (b : BudgetRes) (v : Budget) : (s.setBudget b v).pipe = s.pipe := rfl
@[simp] theorem State.setBudget_hosts (b : BudgetRes) (v : Budget) : (s.setBudget b v).hosts = s.hosts := rfl
@[simp] theorem State.setBudget_nextUid (b : BudgetRes) (v : Budget) : (s.setBudget b v).nextUid = s.nextUid := rfl
@[simp] theorem State.setBudget_free (b : BudgetRes) (v : Budget) : (s.setBudget b v).free = s.free := rfl
@[simp] theorem State.setBudget_get_fld (b : BudgetRes) (v : Budget) (g : Fld) (m n : Nat) : (s.setBudget b v).fld g m n = s.fld g m n := rfl
@[simp] theorem State.setBudget_get_bank (b : BudgetRes) (v : Budget) (c : Bank) : (s.setBudget b v).bank c = s.bank c := rfl
@[simp] theorem State.setBudget_get_blk (b : BudgetRes) (v : Budget) (c : Nat) : (s.setBudget b v).blk c = s.blk c := rfl
@[simp] theorem State.setBudget_get_exe (b : BudgetRes) (v : Budget) (c : Executor) : (s.setBudget b v).exe c = s.exe c := rfl
@[simp] theorem State.setBudget_get_work (b : BudgetRes) (v : Budget) (c : Nat) : (s.setBudget b v).work c = s.work c := rfl
@[simp] theorem State.setBudget_get_errq (b : BudgetRes) (v : Budget) (c : LevelInst) : (s.setBudget b v).errq c = s.errq c := rfl
@[simp] theorem State.setBudget_get_fclk (b : BudgetRes) (v : Budget) (c : Nat) : (s.setBudget b v).fclk c = s.fclk c := rfl
@[simp] theorem State.setBudget_get_job (b : BudgetRes) (v : Budget) (c : Nat) : (s.setBudget b v).job c = s.job c := rfl
@[simp] theorem State.setBudget_get_link (b : BudgetRes) (v : Budget) (c : Nat) : (s.setBudget b v).link c = s.link c := rfl
@[simp] theorem State.setBudget_get_ring (b : BudgetRes) (v : Budget) (c : RingId) : (s.setBudget b v).ring c = s.ring c := rfl
@[simp] theorem State.setBudget_get_port (b : BudgetRes) (v : Budget) (c : Nat) : (s.setBudget b v).port c = s.port c := rfl
@[simp] theorem State.setBudget_get_farBuf (b : BudgetRes) (v : Budget) (c : Nat) : (s.setBudget b v).farBuf c = s.farBuf c := rfl

@[simp] theorem State.setCoh_pending (v : Coh) : (s.setCoh v).pending = s.pending := rfl
@[simp] theorem State.setCoh_regs (v : Coh) : (s.setCoh v).regs = s.regs := rfl
@[simp] theorem State.setCoh_banks (v : Coh) : (s.setCoh v).banks = s.banks := rfl
@[simp] theorem State.setCoh_mem (v : Coh) : (s.setCoh v).mem = s.mem := rfl
@[simp] theorem State.setCoh_far (v : Coh) : (s.setCoh v).far = s.far := rfl
@[simp] theorem State.setCoh_blks (v : Coh) : (s.setCoh v).blks = s.blks := rfl
@[simp] theorem State.setCoh_execs (v : Coh) : (s.setCoh v).execs = s.execs := rfl
@[simp] theorem State.setCoh_jobs (v : Coh) : (s.setCoh v).jobs = s.jobs := rfl
@[simp] theorem State.setCoh_nextJob (v : Coh) : (s.setCoh v).nextJob = s.nextJob := rfl
@[simp] theorem State.setCoh_works (v : Coh) : (s.setCoh v).works = s.works := rfl
@[simp] theorem State.setCoh_rings (v : Coh) : (s.setCoh v).rings = s.rings := rfl
@[simp] theorem State.setCoh_errs (v : Coh) : (s.setCoh v).errs = s.errs := rfl
@[simp] theorem State.setCoh_signals (v : Coh) : (s.setCoh v).signals = s.signals := rfl
@[simp] theorem State.setCoh_budgets (v : Coh) : (s.setCoh v).budgets = s.budgets := rfl
@[simp] theorem State.setCoh_clk (v : Coh) : (s.setCoh v).clk = s.clk := rfl
@[simp] theorem State.setCoh_repair (v : Coh) : (s.setCoh v).repair = s.repair := rfl
@[simp] theorem State.setCoh_net (v : Coh) : (s.setCoh v).net = s.net := rfl
@[simp] theorem State.setCoh_upd (v : Coh) : (s.setCoh v).upd = s.upd := rfl
@[simp] theorem State.setCoh_ktl (v : Coh) : (s.setCoh v).ktl = s.ktl := rfl
@[simp] theorem State.setCoh_pipe (v : Coh) : (s.setCoh v).pipe = s.pipe := rfl
@[simp] theorem State.setCoh_hosts (v : Coh) : (s.setCoh v).hosts = s.hosts := rfl
@[simp] theorem State.setCoh_nextUid (v : Coh) : (s.setCoh v).nextUid = s.nextUid := rfl
@[simp] theorem State.setCoh_free (v : Coh) : (s.setCoh v).free = s.free := rfl
@[simp] theorem State.setCoh_get_fld (v : Coh) (g : Fld) (m n : Nat) : (s.setCoh v).fld g m n = s.fld g m n := rfl
@[simp] theorem State.setCoh_get_bank (v : Coh) (c : Bank) : (s.setCoh v).bank c = s.bank c := rfl
@[simp] theorem State.setCoh_get_blk (v : Coh) (c : Nat) : (s.setCoh v).blk c = s.blk c := rfl
@[simp] theorem State.setCoh_get_exe (v : Coh) (c : Executor) : (s.setCoh v).exe c = s.exe c := rfl
@[simp] theorem State.setCoh_get_work (v : Coh) (c : Nat) : (s.setCoh v).work c = s.work c := rfl
@[simp] theorem State.setCoh_get_errq (v : Coh) (c : LevelInst) : (s.setCoh v).errq c = s.errq c := rfl
@[simp] theorem State.setCoh_get_budget (v : Coh) (c : BudgetRes) : (s.setCoh v).budget c = s.budget c := rfl
@[simp] theorem State.setCoh_get_fclk (v : Coh) (c : Nat) : (s.setCoh v).fclk c = s.fclk c := rfl
@[simp] theorem State.setCoh_get_job (v : Coh) (c : Nat) : (s.setCoh v).job c = s.job c := rfl
@[simp] theorem State.setCoh_get_link (v : Coh) (c : Nat) : (s.setCoh v).link c = s.link c := rfl
@[simp] theorem State.setCoh_get_ring (v : Coh) (c : RingId) : (s.setCoh v).ring c = s.ring c := rfl
@[simp] theorem State.setCoh_get_port (v : Coh) (c : Nat) : (s.setCoh v).port c = s.port c := rfl
@[simp] theorem State.setCoh_get_farBuf (v : Coh) (c : Nat) : (s.setCoh v).farBuf c = s.farBuf c := rfl

@[simp] theorem State.setMem_pending (v : Mem) : (s.setMem v).pending = s.pending := rfl
@[simp] theorem State.setMem_regs (v : Mem) : (s.setMem v).regs = s.regs := rfl
@[simp] theorem State.setMem_banks (v : Mem) : (s.setMem v).banks = s.banks := rfl
@[simp] theorem State.setMem_coh (v : Mem) : (s.setMem v).coh = s.coh := rfl
@[simp] theorem State.setMem_far (v : Mem) : (s.setMem v).far = s.far := rfl
@[simp] theorem State.setMem_blks (v : Mem) : (s.setMem v).blks = s.blks := rfl
@[simp] theorem State.setMem_execs (v : Mem) : (s.setMem v).execs = s.execs := rfl
@[simp] theorem State.setMem_jobs (v : Mem) : (s.setMem v).jobs = s.jobs := rfl
@[simp] theorem State.setMem_nextJob (v : Mem) : (s.setMem v).nextJob = s.nextJob := rfl
@[simp] theorem State.setMem_works (v : Mem) : (s.setMem v).works = s.works := rfl
@[simp] theorem State.setMem_rings (v : Mem) : (s.setMem v).rings = s.rings := rfl
@[simp] theorem State.setMem_errs (v : Mem) : (s.setMem v).errs = s.errs := rfl
@[simp] theorem State.setMem_signals (v : Mem) : (s.setMem v).signals = s.signals := rfl
@[simp] theorem State.setMem_budgets (v : Mem) : (s.setMem v).budgets = s.budgets := rfl
@[simp] theorem State.setMem_clk (v : Mem) : (s.setMem v).clk = s.clk := rfl
@[simp] theorem State.setMem_repair (v : Mem) : (s.setMem v).repair = s.repair := rfl
@[simp] theorem State.setMem_net (v : Mem) : (s.setMem v).net = s.net := rfl
@[simp] theorem State.setMem_upd (v : Mem) : (s.setMem v).upd = s.upd := rfl
@[simp] theorem State.setMem_ktl (v : Mem) : (s.setMem v).ktl = s.ktl := rfl
@[simp] theorem State.setMem_pipe (v : Mem) : (s.setMem v).pipe = s.pipe := rfl
@[simp] theorem State.setMem_hosts (v : Mem) : (s.setMem v).hosts = s.hosts := rfl
@[simp] theorem State.setMem_nextUid (v : Mem) : (s.setMem v).nextUid = s.nextUid := rfl
@[simp] theorem State.setMem_free (v : Mem) : (s.setMem v).free = s.free := rfl
@[simp] theorem State.setMem_get_fld (v : Mem) (g : Fld) (m n : Nat) : (s.setMem v).fld g m n = s.fld g m n := rfl
@[simp] theorem State.setMem_get_bank (v : Mem) (c : Bank) : (s.setMem v).bank c = s.bank c := rfl
@[simp] theorem State.setMem_get_blk (v : Mem) (c : Nat) : (s.setMem v).blk c = s.blk c := rfl
@[simp] theorem State.setMem_get_exe (v : Mem) (c : Executor) : (s.setMem v).exe c = s.exe c := rfl
@[simp] theorem State.setMem_get_work (v : Mem) (c : Nat) : (s.setMem v).work c = s.work c := rfl
@[simp] theorem State.setMem_get_errq (v : Mem) (c : LevelInst) : (s.setMem v).errq c = s.errq c := rfl
@[simp] theorem State.setMem_get_budget (v : Mem) (c : BudgetRes) : (s.setMem v).budget c = s.budget c := rfl
@[simp] theorem State.setMem_get_fclk (v : Mem) (c : Nat) : (s.setMem v).fclk c = s.fclk c := rfl
@[simp] theorem State.setMem_get_job (v : Mem) (c : Nat) : (s.setMem v).job c = s.job c := rfl
@[simp] theorem State.setMem_get_link (v : Mem) (c : Nat) : (s.setMem v).link c = s.link c := rfl
@[simp] theorem State.setMem_get_ring (v : Mem) (c : RingId) : (s.setMem v).ring c = s.ring c := rfl
@[simp] theorem State.setMem_get_port (v : Mem) (c : Nat) : (s.setMem v).port c = s.port c := rfl
@[simp] theorem State.setMem_get_farBuf (v : Mem) (c : Nat) : (s.setMem v).farBuf c = s.farBuf c := rfl

@[simp] theorem State.setJob_pending (v : Job) : (s.setJob v).pending = s.pending := rfl
@[simp] theorem State.setJob_regs (v : Job) : (s.setJob v).regs = s.regs := rfl
@[simp] theorem State.setJob_banks (v : Job) : (s.setJob v).banks = s.banks := rfl
@[simp] theorem State.setJob_mem (v : Job) : (s.setJob v).mem = s.mem := rfl
@[simp] theorem State.setJob_coh (v : Job) : (s.setJob v).coh = s.coh := rfl
@[simp] theorem State.setJob_far (v : Job) : (s.setJob v).far = s.far := rfl
@[simp] theorem State.setJob_blks (v : Job) : (s.setJob v).blks = s.blks := rfl
@[simp] theorem State.setJob_execs (v : Job) : (s.setJob v).execs = s.execs := rfl
@[simp] theorem State.setJob_nextJob (v : Job) : (s.setJob v).nextJob = s.nextJob := rfl
@[simp] theorem State.setJob_works (v : Job) : (s.setJob v).works = s.works := rfl
@[simp] theorem State.setJob_rings (v : Job) : (s.setJob v).rings = s.rings := rfl
@[simp] theorem State.setJob_errs (v : Job) : (s.setJob v).errs = s.errs := rfl
@[simp] theorem State.setJob_signals (v : Job) : (s.setJob v).signals = s.signals := rfl
@[simp] theorem State.setJob_budgets (v : Job) : (s.setJob v).budgets = s.budgets := rfl
@[simp] theorem State.setJob_clk (v : Job) : (s.setJob v).clk = s.clk := rfl
@[simp] theorem State.setJob_repair (v : Job) : (s.setJob v).repair = s.repair := rfl
@[simp] theorem State.setJob_net (v : Job) : (s.setJob v).net = s.net := rfl
@[simp] theorem State.setJob_upd (v : Job) : (s.setJob v).upd = s.upd := rfl
@[simp] theorem State.setJob_ktl (v : Job) : (s.setJob v).ktl = s.ktl := rfl
@[simp] theorem State.setJob_pipe (v : Job) : (s.setJob v).pipe = s.pipe := rfl
@[simp] theorem State.setJob_hosts (v : Job) : (s.setJob v).hosts = s.hosts := rfl
@[simp] theorem State.setJob_nextUid (v : Job) : (s.setJob v).nextUid = s.nextUid := rfl
@[simp] theorem State.setJob_free (v : Job) : (s.setJob v).free = s.free := rfl
@[simp] theorem State.setJob_get_fld (v : Job) (g : Fld) (m n : Nat) : (s.setJob v).fld g m n = s.fld g m n := rfl
@[simp] theorem State.setJob_get_bank (v : Job) (c : Bank) : (s.setJob v).bank c = s.bank c := rfl
@[simp] theorem State.setJob_get_blk (v : Job) (c : Nat) : (s.setJob v).blk c = s.blk c := rfl
@[simp] theorem State.setJob_get_exe (v : Job) (c : Executor) : (s.setJob v).exe c = s.exe c := rfl
@[simp] theorem State.setJob_get_work (v : Job) (c : Nat) : (s.setJob v).work c = s.work c := rfl
@[simp] theorem State.setJob_get_errq (v : Job) (c : LevelInst) : (s.setJob v).errq c = s.errq c := rfl
@[simp] theorem State.setJob_get_budget (v : Job) (c : BudgetRes) : (s.setJob v).budget c = s.budget c := rfl
@[simp] theorem State.setJob_get_fclk (v : Job) (c : Nat) : (s.setJob v).fclk c = s.fclk c := rfl
@[simp] theorem State.setJob_get_link (v : Job) (c : Nat) : (s.setJob v).link c = s.link c := rfl
@[simp] theorem State.setJob_get_ring (v : Job) (c : RingId) : (s.setJob v).ring c = s.ring c := rfl
@[simp] theorem State.setJob_get_port (v : Job) (c : Nat) : (s.setJob v).port c = s.port c := rfl
@[simp] theorem State.setJob_get_farBuf (v : Job) (c : Nat) : (s.setJob v).farBuf c = s.farBuf c := rfl

@[simp] theorem State.endJob_pending (i : Nat) : (s.endJob i).pending = s.pending := rfl
@[simp] theorem State.endJob_regs (i : Nat) : (s.endJob i).regs = s.regs := rfl
@[simp] theorem State.endJob_banks (i : Nat) : (s.endJob i).banks = s.banks := rfl
@[simp] theorem State.endJob_mem (i : Nat) : (s.endJob i).mem = s.mem := rfl
@[simp] theorem State.endJob_coh (i : Nat) : (s.endJob i).coh = s.coh := rfl
@[simp] theorem State.endJob_far (i : Nat) : (s.endJob i).far = s.far := rfl
@[simp] theorem State.endJob_blks (i : Nat) : (s.endJob i).blks = s.blks := rfl
@[simp] theorem State.endJob_execs (i : Nat) : (s.endJob i).execs = s.execs := rfl
@[simp] theorem State.endJob_nextJob (i : Nat) : (s.endJob i).nextJob = s.nextJob := rfl
@[simp] theorem State.endJob_works (i : Nat) : (s.endJob i).works = s.works := rfl
@[simp] theorem State.endJob_rings (i : Nat) : (s.endJob i).rings = s.rings := rfl
@[simp] theorem State.endJob_errs (i : Nat) : (s.endJob i).errs = s.errs := rfl
@[simp] theorem State.endJob_signals (i : Nat) : (s.endJob i).signals = s.signals := rfl
@[simp] theorem State.endJob_budgets (i : Nat) : (s.endJob i).budgets = s.budgets := rfl
@[simp] theorem State.endJob_clk (i : Nat) : (s.endJob i).clk = s.clk := rfl
@[simp] theorem State.endJob_repair (i : Nat) : (s.endJob i).repair = s.repair := rfl
@[simp] theorem State.endJob_net (i : Nat) : (s.endJob i).net = s.net := rfl
@[simp] theorem State.endJob_upd (i : Nat) : (s.endJob i).upd = s.upd := rfl
@[simp] theorem State.endJob_ktl (i : Nat) : (s.endJob i).ktl = s.ktl := rfl
@[simp] theorem State.endJob_pipe (i : Nat) : (s.endJob i).pipe = s.pipe := rfl
@[simp] theorem State.endJob_hosts (i : Nat) : (s.endJob i).hosts = s.hosts := rfl
@[simp] theorem State.endJob_nextUid (i : Nat) : (s.endJob i).nextUid = s.nextUid := rfl
@[simp] theorem State.endJob_free (i : Nat) : (s.endJob i).free = s.free := rfl
@[simp] theorem State.endJob_get_fld (i : Nat) (g : Fld) (m n : Nat) : (s.endJob i).fld g m n = s.fld g m n := rfl
@[simp] theorem State.endJob_get_bank (i : Nat) (c : Bank) : (s.endJob i).bank c = s.bank c := rfl
@[simp] theorem State.endJob_get_blk (i : Nat) (c : Nat) : (s.endJob i).blk c = s.blk c := rfl
@[simp] theorem State.endJob_get_exe (i : Nat) (c : Executor) : (s.endJob i).exe c = s.exe c := rfl
@[simp] theorem State.endJob_get_work (i : Nat) (c : Nat) : (s.endJob i).work c = s.work c := rfl
@[simp] theorem State.endJob_get_errq (i : Nat) (c : LevelInst) : (s.endJob i).errq c = s.errq c := rfl
@[simp] theorem State.endJob_get_budget (i : Nat) (c : BudgetRes) : (s.endJob i).budget c = s.budget c := rfl
@[simp] theorem State.endJob_get_fclk (i : Nat) (c : Nat) : (s.endJob i).fclk c = s.fclk c := rfl
@[simp] theorem State.endJob_get_link (i : Nat) (c : Nat) : (s.endJob i).link c = s.link c := rfl
@[simp] theorem State.endJob_get_ring (i : Nat) (c : RingId) : (s.endJob i).ring c = s.ring c := rfl
@[simp] theorem State.endJob_get_port (i : Nat) (c : Nat) : (s.endJob i).port c = s.port c := rfl
@[simp] theorem State.endJob_get_farBuf (i : Nat) (c : Nat) : (s.endJob i).farBuf c = s.farBuf c := rfl

@[simp] theorem State.tick_pending : (s.tick).pending = s.pending := rfl
@[simp] theorem State.tick_regs : (s.tick).regs = s.regs := rfl
@[simp] theorem State.tick_banks : (s.tick).banks = s.banks := rfl
@[simp] theorem State.tick_mem : (s.tick).mem = s.mem := rfl
@[simp] theorem State.tick_coh : (s.tick).coh = s.coh := rfl
@[simp] theorem State.tick_far : (s.tick).far = s.far := rfl
@[simp] theorem State.tick_blks : (s.tick).blks = s.blks := rfl
@[simp] theorem State.tick_execs : (s.tick).execs = s.execs := rfl
@[simp] theorem State.tick_jobs : (s.tick).jobs = s.jobs := rfl
@[simp] theorem State.tick_nextJob : (s.tick).nextJob = s.nextJob := rfl
@[simp] theorem State.tick_works : (s.tick).works = s.works := rfl
@[simp] theorem State.tick_rings : (s.tick).rings = s.rings := rfl
@[simp] theorem State.tick_errs : (s.tick).errs = s.errs := rfl
@[simp] theorem State.tick_signals : (s.tick).signals = s.signals := rfl
@[simp] theorem State.tick_budgets : (s.tick).budgets = s.budgets := rfl
@[simp] theorem State.tick_clk : (s.tick).clk = s.clk := rfl
@[simp] theorem State.tick_repair : (s.tick).repair = s.repair := rfl
@[simp] theorem State.tick_net : (s.tick).net = s.net := rfl
@[simp] theorem State.tick_upd : (s.tick).upd = s.upd := rfl
@[simp] theorem State.tick_ktl : (s.tick).ktl = s.ktl := rfl
@[simp] theorem State.tick_pipe : (s.tick).pipe = s.pipe := rfl
@[simp] theorem State.tick_hosts : (s.tick).hosts = s.hosts := rfl
@[simp] theorem State.tick_nextUid : (s.tick).nextUid = s.nextUid := rfl
@[simp] theorem State.tick_get_fld (g : Fld) (m n : Nat) : (s.tick).fld g m n = s.fld g m n := rfl
@[simp] theorem State.tick_get_bank (c : Bank) : (s.tick).bank c = s.bank c := rfl
@[simp] theorem State.tick_get_blk (c : Nat) : (s.tick).blk c = s.blk c := rfl
@[simp] theorem State.tick_get_exe (c : Executor) : (s.tick).exe c = s.exe c := rfl
@[simp] theorem State.tick_get_work (c : Nat) : (s.tick).work c = s.work c := rfl
@[simp] theorem State.tick_get_errq (c : LevelInst) : (s.tick).errq c = s.errq c := rfl
@[simp] theorem State.tick_get_budget (c : BudgetRes) : (s.tick).budget c = s.budget c := rfl
@[simp] theorem State.tick_get_fclk (c : Nat) : (s.tick).fclk c = s.fclk c := rfl
@[simp] theorem State.tick_get_job (c : Nat) : (s.tick).job c = s.job c := rfl
@[simp] theorem State.tick_get_link (c : Nat) : (s.tick).link c = s.link c := rfl
@[simp] theorem State.tick_get_ring (c : RingId) : (s.tick).ring c = s.ring c := rfl
@[simp] theorem State.tick_get_port (c : Nat) : (s.tick).port c = s.port c := rfl
@[simp] theorem State.tick_get_farBuf (c : Nat) : (s.tick).farBuf c = s.farBuf c := rfl

@[simp] theorem State.setKtl_pending (v : Ktl) : (s.setKtl v).pending = s.pending := rfl
@[simp] theorem State.setKtl_regs (v : Ktl) : (s.setKtl v).regs = s.regs := rfl
@[simp] theorem State.setKtl_banks (v : Ktl) : (s.setKtl v).banks = s.banks := rfl
@[simp] theorem State.setKtl_mem (v : Ktl) : (s.setKtl v).mem = s.mem := rfl
@[simp] theorem State.setKtl_coh (v : Ktl) : (s.setKtl v).coh = s.coh := rfl
@[simp] theorem State.setKtl_far (v : Ktl) : (s.setKtl v).far = s.far := rfl
@[simp] theorem State.setKtl_blks (v : Ktl) : (s.setKtl v).blks = s.blks := rfl
@[simp] theorem State.setKtl_execs (v : Ktl) : (s.setKtl v).execs = s.execs := rfl
@[simp] theorem State.setKtl_jobs (v : Ktl) : (s.setKtl v).jobs = s.jobs := rfl
@[simp] theorem State.setKtl_nextJob (v : Ktl) : (s.setKtl v).nextJob = s.nextJob := rfl
@[simp] theorem State.setKtl_works (v : Ktl) : (s.setKtl v).works = s.works := rfl
@[simp] theorem State.setKtl_rings (v : Ktl) : (s.setKtl v).rings = s.rings := rfl
@[simp] theorem State.setKtl_errs (v : Ktl) : (s.setKtl v).errs = s.errs := rfl
@[simp] theorem State.setKtl_signals (v : Ktl) : (s.setKtl v).signals = s.signals := rfl
@[simp] theorem State.setKtl_budgets (v : Ktl) : (s.setKtl v).budgets = s.budgets := rfl
@[simp] theorem State.setKtl_clk (v : Ktl) : (s.setKtl v).clk = s.clk := rfl
@[simp] theorem State.setKtl_repair (v : Ktl) : (s.setKtl v).repair = s.repair := rfl
@[simp] theorem State.setKtl_net (v : Ktl) : (s.setKtl v).net = s.net := rfl
@[simp] theorem State.setKtl_upd (v : Ktl) : (s.setKtl v).upd = s.upd := rfl
@[simp] theorem State.setKtl_pipe (v : Ktl) : (s.setKtl v).pipe = s.pipe := rfl
@[simp] theorem State.setKtl_hosts (v : Ktl) : (s.setKtl v).hosts = s.hosts := rfl
@[simp] theorem State.setKtl_nextUid (v : Ktl) : (s.setKtl v).nextUid = s.nextUid := rfl
@[simp] theorem State.setKtl_free (v : Ktl) : (s.setKtl v).free = s.free := rfl
@[simp] theorem State.setKtl_get_fld (v : Ktl) (g : Fld) (m n : Nat) : (s.setKtl v).fld g m n = s.fld g m n := rfl
@[simp] theorem State.setKtl_get_bank (v : Ktl) (c : Bank) : (s.setKtl v).bank c = s.bank c := rfl
@[simp] theorem State.setKtl_get_blk (v : Ktl) (c : Nat) : (s.setKtl v).blk c = s.blk c := rfl
@[simp] theorem State.setKtl_get_exe (v : Ktl) (c : Executor) : (s.setKtl v).exe c = s.exe c := rfl
@[simp] theorem State.setKtl_get_work (v : Ktl) (c : Nat) : (s.setKtl v).work c = s.work c := rfl
@[simp] theorem State.setKtl_get_errq (v : Ktl) (c : LevelInst) : (s.setKtl v).errq c = s.errq c := rfl
@[simp] theorem State.setKtl_get_budget (v : Ktl) (c : BudgetRes) : (s.setKtl v).budget c = s.budget c := rfl
@[simp] theorem State.setKtl_get_fclk (v : Ktl) (c : Nat) : (s.setKtl v).fclk c = s.fclk c := rfl
@[simp] theorem State.setKtl_get_job (v : Ktl) (c : Nat) : (s.setKtl v).job c = s.job c := rfl
@[simp] theorem State.setKtl_get_link (v : Ktl) (c : Nat) : (s.setKtl v).link c = s.link c := rfl
@[simp] theorem State.setKtl_get_ring (v : Ktl) (c : RingId) : (s.setKtl v).ring c = s.ring c := rfl
@[simp] theorem State.setKtl_get_port (v : Ktl) (c : Nat) : (s.setKtl v).port c = s.port c := rfl
@[simp] theorem State.setKtl_get_farBuf (v : Ktl) (c : Nat) : (s.setKtl v).farBuf c = s.farBuf c := rfl

@[simp] theorem State.setPipe_pending (v : Pipe) : (s.setPipe v).pending = s.pending := rfl
@[simp] theorem State.setPipe_regs (v : Pipe) : (s.setPipe v).regs = s.regs := rfl
@[simp] theorem State.setPipe_banks (v : Pipe) : (s.setPipe v).banks = s.banks := rfl
@[simp] theorem State.setPipe_mem (v : Pipe) : (s.setPipe v).mem = s.mem := rfl
@[simp] theorem State.setPipe_coh (v : Pipe) : (s.setPipe v).coh = s.coh := rfl
@[simp] theorem State.setPipe_far (v : Pipe) : (s.setPipe v).far = s.far := rfl
@[simp] theorem State.setPipe_blks (v : Pipe) : (s.setPipe v).blks = s.blks := rfl
@[simp] theorem State.setPipe_execs (v : Pipe) : (s.setPipe v).execs = s.execs := rfl
@[simp] theorem State.setPipe_jobs (v : Pipe) : (s.setPipe v).jobs = s.jobs := rfl
@[simp] theorem State.setPipe_nextJob (v : Pipe) : (s.setPipe v).nextJob = s.nextJob := rfl
@[simp] theorem State.setPipe_works (v : Pipe) : (s.setPipe v).works = s.works := rfl
@[simp] theorem State.setPipe_rings (v : Pipe) : (s.setPipe v).rings = s.rings := rfl
@[simp] theorem State.setPipe_errs (v : Pipe) : (s.setPipe v).errs = s.errs := rfl
@[simp] theorem State.setPipe_signals (v : Pipe) : (s.setPipe v).signals = s.signals := rfl
@[simp] theorem State.setPipe_budgets (v : Pipe) : (s.setPipe v).budgets = s.budgets := rfl
@[simp] theorem State.setPipe_clk (v : Pipe) : (s.setPipe v).clk = s.clk := rfl
@[simp] theorem State.setPipe_repair (v : Pipe) : (s.setPipe v).repair = s.repair := rfl
@[simp] theorem State.setPipe_net (v : Pipe) : (s.setPipe v).net = s.net := rfl
@[simp] theorem State.setPipe_upd (v : Pipe) : (s.setPipe v).upd = s.upd := rfl
@[simp] theorem State.setPipe_ktl (v : Pipe) : (s.setPipe v).ktl = s.ktl := rfl
@[simp] theorem State.setPipe_hosts (v : Pipe) : (s.setPipe v).hosts = s.hosts := rfl
@[simp] theorem State.setPipe_nextUid (v : Pipe) : (s.setPipe v).nextUid = s.nextUid := rfl
@[simp] theorem State.setPipe_free (v : Pipe) : (s.setPipe v).free = s.free := rfl
@[simp] theorem State.setPipe_get_fld (v : Pipe) (g : Fld) (m n : Nat) : (s.setPipe v).fld g m n = s.fld g m n := rfl
@[simp] theorem State.setPipe_get_bank (v : Pipe) (c : Bank) : (s.setPipe v).bank c = s.bank c := rfl
@[simp] theorem State.setPipe_get_blk (v : Pipe) (c : Nat) : (s.setPipe v).blk c = s.blk c := rfl
@[simp] theorem State.setPipe_get_exe (v : Pipe) (c : Executor) : (s.setPipe v).exe c = s.exe c := rfl
@[simp] theorem State.setPipe_get_work (v : Pipe) (c : Nat) : (s.setPipe v).work c = s.work c := rfl
@[simp] theorem State.setPipe_get_errq (v : Pipe) (c : LevelInst) : (s.setPipe v).errq c = s.errq c := rfl
@[simp] theorem State.setPipe_get_budget (v : Pipe) (c : BudgetRes) : (s.setPipe v).budget c = s.budget c := rfl
@[simp] theorem State.setPipe_get_fclk (v : Pipe) (c : Nat) : (s.setPipe v).fclk c = s.fclk c := rfl
@[simp] theorem State.setPipe_get_job (v : Pipe) (c : Nat) : (s.setPipe v).job c = s.job c := rfl
@[simp] theorem State.setPipe_get_link (v : Pipe) (c : Nat) : (s.setPipe v).link c = s.link c := rfl
@[simp] theorem State.setPipe_get_ring (v : Pipe) (c : RingId) : (s.setPipe v).ring c = s.ring c := rfl
@[simp] theorem State.setPipe_get_port (v : Pipe) (c : Nat) : (s.setPipe v).port c = s.port c := rfl
@[simp] theorem State.setPipe_get_farBuf (v : Pipe) (c : Nat) : (s.setPipe v).farBuf c = s.farBuf c := rfl

@[simp] theorem State.setPort_pending (p : Nat) (v : HostPort) : (s.setPort p v).pending = s.pending := rfl
@[simp] theorem State.setPort_regs (p : Nat) (v : HostPort) : (s.setPort p v).regs = s.regs := rfl
@[simp] theorem State.setPort_banks (p : Nat) (v : HostPort) : (s.setPort p v).banks = s.banks := rfl
@[simp] theorem State.setPort_mem (p : Nat) (v : HostPort) : (s.setPort p v).mem = s.mem := rfl
@[simp] theorem State.setPort_coh (p : Nat) (v : HostPort) : (s.setPort p v).coh = s.coh := rfl
@[simp] theorem State.setPort_far (p : Nat) (v : HostPort) : (s.setPort p v).far = s.far := rfl
@[simp] theorem State.setPort_blks (p : Nat) (v : HostPort) : (s.setPort p v).blks = s.blks := rfl
@[simp] theorem State.setPort_execs (p : Nat) (v : HostPort) : (s.setPort p v).execs = s.execs := rfl
@[simp] theorem State.setPort_jobs (p : Nat) (v : HostPort) : (s.setPort p v).jobs = s.jobs := rfl
@[simp] theorem State.setPort_nextJob (p : Nat) (v : HostPort) : (s.setPort p v).nextJob = s.nextJob := rfl
@[simp] theorem State.setPort_works (p : Nat) (v : HostPort) : (s.setPort p v).works = s.works := rfl
@[simp] theorem State.setPort_rings (p : Nat) (v : HostPort) : (s.setPort p v).rings = s.rings := rfl
@[simp] theorem State.setPort_errs (p : Nat) (v : HostPort) : (s.setPort p v).errs = s.errs := rfl
@[simp] theorem State.setPort_signals (p : Nat) (v : HostPort) : (s.setPort p v).signals = s.signals := rfl
@[simp] theorem State.setPort_budgets (p : Nat) (v : HostPort) : (s.setPort p v).budgets = s.budgets := rfl
@[simp] theorem State.setPort_clk (p : Nat) (v : HostPort) : (s.setPort p v).clk = s.clk := rfl
@[simp] theorem State.setPort_repair (p : Nat) (v : HostPort) : (s.setPort p v).repair = s.repair := rfl
@[simp] theorem State.setPort_net (p : Nat) (v : HostPort) : (s.setPort p v).net = s.net := rfl
@[simp] theorem State.setPort_upd (p : Nat) (v : HostPort) : (s.setPort p v).upd = s.upd := rfl
@[simp] theorem State.setPort_ktl (p : Nat) (v : HostPort) : (s.setPort p v).ktl = s.ktl := rfl
@[simp] theorem State.setPort_pipe (p : Nat) (v : HostPort) : (s.setPort p v).pipe = s.pipe := rfl
@[simp] theorem State.setPort_nextUid (p : Nat) (v : HostPort) : (s.setPort p v).nextUid = s.nextUid := rfl
@[simp] theorem State.setPort_free (p : Nat) (v : HostPort) : (s.setPort p v).free = s.free := rfl
@[simp] theorem State.setPort_get_fld (p : Nat) (v : HostPort) (g : Fld) (m n : Nat) : (s.setPort p v).fld g m n = s.fld g m n := rfl
@[simp] theorem State.setPort_get_bank (p : Nat) (v : HostPort) (c : Bank) : (s.setPort p v).bank c = s.bank c := rfl
@[simp] theorem State.setPort_get_blk (p : Nat) (v : HostPort) (c : Nat) : (s.setPort p v).blk c = s.blk c := rfl
@[simp] theorem State.setPort_get_exe (p : Nat) (v : HostPort) (c : Executor) : (s.setPort p v).exe c = s.exe c := rfl
@[simp] theorem State.setPort_get_work (p : Nat) (v : HostPort) (c : Nat) : (s.setPort p v).work c = s.work c := rfl
@[simp] theorem State.setPort_get_errq (p : Nat) (v : HostPort) (c : LevelInst) : (s.setPort p v).errq c = s.errq c := rfl
@[simp] theorem State.setPort_get_budget (p : Nat) (v : HostPort) (c : BudgetRes) : (s.setPort p v).budget c = s.budget c := rfl
@[simp] theorem State.setPort_get_fclk (p : Nat) (v : HostPort) (c : Nat) : (s.setPort p v).fclk c = s.fclk c := rfl
@[simp] theorem State.setPort_get_job (p : Nat) (v : HostPort) (c : Nat) : (s.setPort p v).job c = s.job c := rfl
@[simp] theorem State.setPort_get_link (p : Nat) (v : HostPort) (c : Nat) : (s.setPort p v).link c = s.link c := rfl
@[simp] theorem State.setPort_get_ring (p : Nat) (v : HostPort) (c : RingId) : (s.setPort p v).ring c = s.ring c := rfl
@[simp] theorem State.setPort_get_farBuf (p : Nat) (v : HostPort) (c : Nat) : (s.setPort p v).farBuf c = s.farBuf c := rfl

@[simp] theorem State.setFarBuf_pending (f : Nat) (v : FarBuf) : (s.setFarBuf f v).pending = s.pending := rfl
@[simp] theorem State.setFarBuf_regs (f : Nat) (v : FarBuf) : (s.setFarBuf f v).regs = s.regs := rfl
@[simp] theorem State.setFarBuf_banks (f : Nat) (v : FarBuf) : (s.setFarBuf f v).banks = s.banks := rfl
@[simp] theorem State.setFarBuf_mem (f : Nat) (v : FarBuf) : (s.setFarBuf f v).mem = s.mem := rfl
@[simp] theorem State.setFarBuf_coh (f : Nat) (v : FarBuf) : (s.setFarBuf f v).coh = s.coh := rfl
@[simp] theorem State.setFarBuf_blks (f : Nat) (v : FarBuf) : (s.setFarBuf f v).blks = s.blks := rfl
@[simp] theorem State.setFarBuf_execs (f : Nat) (v : FarBuf) : (s.setFarBuf f v).execs = s.execs := rfl
@[simp] theorem State.setFarBuf_jobs (f : Nat) (v : FarBuf) : (s.setFarBuf f v).jobs = s.jobs := rfl
@[simp] theorem State.setFarBuf_nextJob (f : Nat) (v : FarBuf) : (s.setFarBuf f v).nextJob = s.nextJob := rfl
@[simp] theorem State.setFarBuf_works (f : Nat) (v : FarBuf) : (s.setFarBuf f v).works = s.works := rfl
@[simp] theorem State.setFarBuf_rings (f : Nat) (v : FarBuf) : (s.setFarBuf f v).rings = s.rings := rfl
@[simp] theorem State.setFarBuf_errs (f : Nat) (v : FarBuf) : (s.setFarBuf f v).errs = s.errs := rfl
@[simp] theorem State.setFarBuf_signals (f : Nat) (v : FarBuf) : (s.setFarBuf f v).signals = s.signals := rfl
@[simp] theorem State.setFarBuf_budgets (f : Nat) (v : FarBuf) : (s.setFarBuf f v).budgets = s.budgets := rfl
@[simp] theorem State.setFarBuf_clk (f : Nat) (v : FarBuf) : (s.setFarBuf f v).clk = s.clk := rfl
@[simp] theorem State.setFarBuf_repair (f : Nat) (v : FarBuf) : (s.setFarBuf f v).repair = s.repair := rfl
@[simp] theorem State.setFarBuf_net (f : Nat) (v : FarBuf) : (s.setFarBuf f v).net = s.net := rfl
@[simp] theorem State.setFarBuf_upd (f : Nat) (v : FarBuf) : (s.setFarBuf f v).upd = s.upd := rfl
@[simp] theorem State.setFarBuf_ktl (f : Nat) (v : FarBuf) : (s.setFarBuf f v).ktl = s.ktl := rfl
@[simp] theorem State.setFarBuf_pipe (f : Nat) (v : FarBuf) : (s.setFarBuf f v).pipe = s.pipe := rfl
@[simp] theorem State.setFarBuf_hosts (f : Nat) (v : FarBuf) : (s.setFarBuf f v).hosts = s.hosts := rfl
@[simp] theorem State.setFarBuf_nextUid (f : Nat) (v : FarBuf) : (s.setFarBuf f v).nextUid = s.nextUid := rfl
@[simp] theorem State.setFarBuf_free (f : Nat) (v : FarBuf) : (s.setFarBuf f v).free = s.free := rfl
@[simp] theorem State.setFarBuf_get_fld (f : Nat) (v : FarBuf) (g : Fld) (m n : Nat) : (s.setFarBuf f v).fld g m n = s.fld g m n := rfl
@[simp] theorem State.setFarBuf_get_bank (f : Nat) (v : FarBuf) (c : Bank) : (s.setFarBuf f v).bank c = s.bank c := rfl
@[simp] theorem State.setFarBuf_get_blk (f : Nat) (v : FarBuf) (c : Nat) : (s.setFarBuf f v).blk c = s.blk c := rfl
@[simp] theorem State.setFarBuf_get_exe (f : Nat) (v : FarBuf) (c : Executor) : (s.setFarBuf f v).exe c = s.exe c := rfl
@[simp] theorem State.setFarBuf_get_work (f : Nat) (v : FarBuf) (c : Nat) : (s.setFarBuf f v).work c = s.work c := rfl
@[simp] theorem State.setFarBuf_get_errq (f : Nat) (v : FarBuf) (c : LevelInst) : (s.setFarBuf f v).errq c = s.errq c := rfl
@[simp] theorem State.setFarBuf_get_budget (f : Nat) (v : FarBuf) (c : BudgetRes) : (s.setFarBuf f v).budget c = s.budget c := rfl
@[simp] theorem State.setFarBuf_get_fclk (f : Nat) (v : FarBuf) (c : Nat) : (s.setFarBuf f v).fclk c = s.fclk c := rfl
@[simp] theorem State.setFarBuf_get_job (f : Nat) (v : FarBuf) (c : Nat) : (s.setFarBuf f v).job c = s.job c := rfl
@[simp] theorem State.setFarBuf_get_link (f : Nat) (v : FarBuf) (c : Nat) : (s.setFarBuf f v).link c = s.link c := rfl
@[simp] theorem State.setFarBuf_get_ring (f : Nat) (v : FarBuf) (c : RingId) : (s.setFarBuf f v).ring c = s.ring c := rfl
@[simp] theorem State.setFarBuf_get_port (f : Nat) (v : FarBuf) (c : Nat) : (s.setFarBuf f v).port c = s.port c := rfl

@[simp] theorem State.setLink_pending (l : Nat) (v : LinkSt) : (s.setLink l v).pending = s.pending := rfl
@[simp] theorem State.setLink_regs (l : Nat) (v : LinkSt) : (s.setLink l v).regs = s.regs := rfl
@[simp] theorem State.setLink_banks (l : Nat) (v : LinkSt) : (s.setLink l v).banks = s.banks := rfl
@[simp] theorem State.setLink_mem (l : Nat) (v : LinkSt) : (s.setLink l v).mem = s.mem := rfl
@[simp] theorem State.setLink_coh (l : Nat) (v : LinkSt) : (s.setLink l v).coh = s.coh := rfl
@[simp] theorem State.setLink_far (l : Nat) (v : LinkSt) : (s.setLink l v).far = s.far := rfl
@[simp] theorem State.setLink_blks (l : Nat) (v : LinkSt) : (s.setLink l v).blks = s.blks := rfl
@[simp] theorem State.setLink_execs (l : Nat) (v : LinkSt) : (s.setLink l v).execs = s.execs := rfl
@[simp] theorem State.setLink_jobs (l : Nat) (v : LinkSt) : (s.setLink l v).jobs = s.jobs := rfl
@[simp] theorem State.setLink_nextJob (l : Nat) (v : LinkSt) : (s.setLink l v).nextJob = s.nextJob := rfl
@[simp] theorem State.setLink_works (l : Nat) (v : LinkSt) : (s.setLink l v).works = s.works := rfl
@[simp] theorem State.setLink_rings (l : Nat) (v : LinkSt) : (s.setLink l v).rings = s.rings := rfl
@[simp] theorem State.setLink_errs (l : Nat) (v : LinkSt) : (s.setLink l v).errs = s.errs := rfl
@[simp] theorem State.setLink_signals (l : Nat) (v : LinkSt) : (s.setLink l v).signals = s.signals := rfl
@[simp] theorem State.setLink_budgets (l : Nat) (v : LinkSt) : (s.setLink l v).budgets = s.budgets := rfl
@[simp] theorem State.setLink_clk (l : Nat) (v : LinkSt) : (s.setLink l v).clk = s.clk := rfl
@[simp] theorem State.setLink_repair (l : Nat) (v : LinkSt) : (s.setLink l v).repair = s.repair := rfl
@[simp] theorem State.setLink_upd (l : Nat) (v : LinkSt) : (s.setLink l v).upd = s.upd := rfl
@[simp] theorem State.setLink_ktl (l : Nat) (v : LinkSt) : (s.setLink l v).ktl = s.ktl := rfl
@[simp] theorem State.setLink_pipe (l : Nat) (v : LinkSt) : (s.setLink l v).pipe = s.pipe := rfl
@[simp] theorem State.setLink_hosts (l : Nat) (v : LinkSt) : (s.setLink l v).hosts = s.hosts := rfl
@[simp] theorem State.setLink_nextUid (l : Nat) (v : LinkSt) : (s.setLink l v).nextUid = s.nextUid := rfl
@[simp] theorem State.setLink_free (l : Nat) (v : LinkSt) : (s.setLink l v).free = s.free := rfl
@[simp] theorem State.setLink_get_fld (l : Nat) (v : LinkSt) (g : Fld) (m n : Nat) : (s.setLink l v).fld g m n = s.fld g m n := rfl
@[simp] theorem State.setLink_get_bank (l : Nat) (v : LinkSt) (c : Bank) : (s.setLink l v).bank c = s.bank c := rfl
@[simp] theorem State.setLink_get_blk (l : Nat) (v : LinkSt) (c : Nat) : (s.setLink l v).blk c = s.blk c := rfl
@[simp] theorem State.setLink_get_exe (l : Nat) (v : LinkSt) (c : Executor) : (s.setLink l v).exe c = s.exe c := rfl
@[simp] theorem State.setLink_get_work (l : Nat) (v : LinkSt) (c : Nat) : (s.setLink l v).work c = s.work c := rfl
@[simp] theorem State.setLink_get_errq (l : Nat) (v : LinkSt) (c : LevelInst) : (s.setLink l v).errq c = s.errq c := rfl
@[simp] theorem State.setLink_get_budget (l : Nat) (v : LinkSt) (c : BudgetRes) : (s.setLink l v).budget c = s.budget c := rfl
@[simp] theorem State.setLink_get_fclk (l : Nat) (v : LinkSt) (c : Nat) : (s.setLink l v).fclk c = s.fclk c := rfl
@[simp] theorem State.setLink_get_job (l : Nat) (v : LinkSt) (c : Nat) : (s.setLink l v).job c = s.job c := rfl
@[simp] theorem State.setLink_get_ring (l : Nat) (v : LinkSt) (c : RingId) : (s.setLink l v).ring c = s.ring c := rfl
@[simp] theorem State.setLink_get_port (l : Nat) (v : LinkSt) (c : Nat) : (s.setLink l v).port c = s.port c := rfl
@[simp] theorem State.setLink_get_farBuf (l : Nat) (v : LinkSt) (c : Nat) : (s.setLink l v).farBuf c = s.farBuf c := rfl

@[simp] theorem State.setRing_pending (r : RingId) (v : Ring) : (s.setRing r v).pending = s.pending := rfl
@[simp] theorem State.setRing_regs (r : RingId) (v : Ring) : (s.setRing r v).regs = s.regs := rfl
@[simp] theorem State.setRing_banks (r : RingId) (v : Ring) : (s.setRing r v).banks = s.banks := rfl
@[simp] theorem State.setRing_mem (r : RingId) (v : Ring) : (s.setRing r v).mem = s.mem := rfl
@[simp] theorem State.setRing_coh (r : RingId) (v : Ring) : (s.setRing r v).coh = s.coh := rfl
@[simp] theorem State.setRing_far (r : RingId) (v : Ring) : (s.setRing r v).far = s.far := rfl
@[simp] theorem State.setRing_blks (r : RingId) (v : Ring) : (s.setRing r v).blks = s.blks := rfl
@[simp] theorem State.setRing_execs (r : RingId) (v : Ring) : (s.setRing r v).execs = s.execs := rfl
@[simp] theorem State.setRing_jobs (r : RingId) (v : Ring) : (s.setRing r v).jobs = s.jobs := rfl
@[simp] theorem State.setRing_nextJob (r : RingId) (v : Ring) : (s.setRing r v).nextJob = s.nextJob := rfl
@[simp] theorem State.setRing_works (r : RingId) (v : Ring) : (s.setRing r v).works = s.works := rfl
@[simp] theorem State.setRing_errs (r : RingId) (v : Ring) : (s.setRing r v).errs = s.errs := rfl
@[simp] theorem State.setRing_signals (r : RingId) (v : Ring) : (s.setRing r v).signals = s.signals := rfl
@[simp] theorem State.setRing_budgets (r : RingId) (v : Ring) : (s.setRing r v).budgets = s.budgets := rfl
@[simp] theorem State.setRing_clk (r : RingId) (v : Ring) : (s.setRing r v).clk = s.clk := rfl
@[simp] theorem State.setRing_repair (r : RingId) (v : Ring) : (s.setRing r v).repair = s.repair := rfl
@[simp] theorem State.setRing_net (r : RingId) (v : Ring) : (s.setRing r v).net = s.net := rfl
@[simp] theorem State.setRing_upd (r : RingId) (v : Ring) : (s.setRing r v).upd = s.upd := rfl
@[simp] theorem State.setRing_ktl (r : RingId) (v : Ring) : (s.setRing r v).ktl = s.ktl := rfl
@[simp] theorem State.setRing_pipe (r : RingId) (v : Ring) : (s.setRing r v).pipe = s.pipe := rfl
@[simp] theorem State.setRing_hosts (r : RingId) (v : Ring) : (s.setRing r v).hosts = s.hosts := rfl
@[simp] theorem State.setRing_nextUid (r : RingId) (v : Ring) : (s.setRing r v).nextUid = s.nextUid := rfl
@[simp] theorem State.setRing_free (r : RingId) (v : Ring) : (s.setRing r v).free = s.free := rfl
@[simp] theorem State.setRing_get_fld (r : RingId) (v : Ring) (g : Fld) (m n : Nat) : (s.setRing r v).fld g m n = s.fld g m n := rfl
@[simp] theorem State.setRing_get_bank (r : RingId) (v : Ring) (c : Bank) : (s.setRing r v).bank c = s.bank c := rfl
@[simp] theorem State.setRing_get_blk (r : RingId) (v : Ring) (c : Nat) : (s.setRing r v).blk c = s.blk c := rfl
@[simp] theorem State.setRing_get_exe (r : RingId) (v : Ring) (c : Executor) : (s.setRing r v).exe c = s.exe c := rfl
@[simp] theorem State.setRing_get_work (r : RingId) (v : Ring) (c : Nat) : (s.setRing r v).work c = s.work c := rfl
@[simp] theorem State.setRing_get_errq (r : RingId) (v : Ring) (c : LevelInst) : (s.setRing r v).errq c = s.errq c := rfl
@[simp] theorem State.setRing_get_budget (r : RingId) (v : Ring) (c : BudgetRes) : (s.setRing r v).budget c = s.budget c := rfl
@[simp] theorem State.setRing_get_fclk (r : RingId) (v : Ring) (c : Nat) : (s.setRing r v).fclk c = s.fclk c := rfl
@[simp] theorem State.setRing_get_job (r : RingId) (v : Ring) (c : Nat) : (s.setRing r v).job c = s.job c := rfl
@[simp] theorem State.setRing_get_link (r : RingId) (v : Ring) (c : Nat) : (s.setRing r v).link c = s.link c := rfl
@[simp] theorem State.setRing_get_port (r : RingId) (v : Ring) (c : Nat) : (s.setRing r v).port c = s.port c := rfl
@[simp] theorem State.setRing_get_farBuf (r : RingId) (v : Ring) (c : Nat) : (s.setRing r v).farBuf c = s.farBuf c := rfl

/-- A register field reads as it was written, cut to its width. -/
@[simp] theorem State.fld_setFld_same (f : Fld) (i v j : Nat) : (s.setFld f i v j).fld f i j = v % 2 ^ f.width := by
  simp [State.fld, State.setFld]

/-- Another field, or another instance or index of it, reads as before. -/
theorem State.fld_setFld_other {f g : Fld} {i j m n : Nat} (v : Nat) (h : g.key m n ≠ f.key i j) :
    (s.setFld f i v j).fld g m n = s.fld g m n := by
  simp only [State.fld, State.setFld]
  exact Tbl.get_set_other _ _ _ _ h

/-- Two fields have one key only when they are the same bits of the same register, instance and index. -/
theorem Fld.key_eq_iff {f g : Fld} {i j m n : Nat} : g.key m n = f.key i j ↔ g.code = f.code ∧ m = i ∧ n = j := by
  simp [Fld.key]

/-- A field of another register, or other bits, reads as before. -/
theorem State.fld_setFld_code {f g : Fld} {i j m n : Nat} (v : Nat) (h : g.code ≠ f.code) :
    (s.setFld f i v j).fld g m n = s.fld g m n :=
  s.fld_setFld_other v (fun e => h (Fld.key_eq_iff.mp e).1)

/-- A field of another instance reads as before. -/
theorem State.fld_setFld_inst {f g : Fld} {i j m n : Nat} (v : Nat) (h : m ≠ i) :
    (s.setFld f i v j).fld g m n = s.fld g m n :=
  s.fld_setFld_other v (fun e => h (Fld.key_eq_iff.mp e).2.1)

/-- Writing a field touches one entry of the register table. -/
theorem State.regs_setFld_other {f : Fld} {i j k : Nat} (v : Nat) (h : k ≠ f.key i j) :
    Tbl.find? (s.setFld f i v j).regs k = Tbl.find? s.regs k :=
  Tbl.find?_set_other _ _ _ h

@[simp] theorem State.blk_setBlk_same (b : Nat) (v : Blk) : (s.setBlk b v).blk b = v := by
  simp [State.blk, State.setBlk]
theorem State.blk_setBlk_other {b c : Nat} (v : Blk) (h : c ≠ b) : (s.setBlk b v).blk c = s.blk c :=
  Tbl.get_set_other _ _ _ _ h
@[simp] theorem State.work_setWork_same (r : Nat) (v : Work) : (s.setWork r v).work r = v := by
  simp [State.work, State.setWork]
theorem State.work_setWork_other {r c : Nat} (v : Work) (h : c ≠ r) : (s.setWork r v).work c = s.work c :=
  Tbl.get_set_other _ _ _ _ h
@[simp] theorem State.port_setPort_same (p : Nat) (v : HostPort) : (s.setPort p v).port p = v := by
  simp [State.port, State.setPort]
theorem State.port_setPort_other {p c : Nat} (v : HostPort) (h : c ≠ p) : (s.setPort p v).port c = s.port c :=
  Tbl.get_set_other _ _ _ _ h
@[simp] theorem State.link_setLink_same (l : Nat) (v : LinkSt) : (s.setLink l v).link l = v := by
  simp [State.link, State.setLink]
theorem State.link_setLink_other {l c : Nat} (v : LinkSt) (h : c ≠ l) : (s.setLink l v).link c = s.link c :=
  Tbl.get_set_other _ _ _ _ h

/-- An executor has a number of its own. -/
theorem executor_code_inj {x y : Executor} (h : x.code = y.code) : x = y := by
  cases x with
  | seq a => cases y with
    | seq b => simp only [Executor.code] at h; rw [Fin.ext h]
    | cell c => simp only [Executor.code] at h; have := a.isLt; omega
  | cell a => cases y with
    | seq b => simp only [Executor.code] at h; have := b.isLt; omega
    | cell c =>
      simp only [Executor.code] at h
      have e : a = c := Fin.ext (by omega)
      rw [e]

@[simp] theorem State.exe_setExe_same (x : Executor) (v : Exec) : (s.setExe x v).exe x = v := by
  simp [State.exe, State.setExe]
theorem State.exe_setExe_other {x y : Executor} (v : Exec) (h : y ≠ x) : (s.setExe x v).exe y = s.exe y :=
  Tbl.get_set_other _ _ _ _ (fun e => h (executor_code_inj e))
@[simp] theorem State.bank_setBank_same (k : Bank) (v : BankSt) : (s.setBank k v).bank k = v := by
  simp [State.bank, State.setBank]
@[simp] theorem State.errq_setErrq_same (q : LevelInst) (v : ErrQ) : (s.setErrq q v).errq q = v := by
  simp [State.errq, State.setErrq]
@[simp] theorem State.budget_setBudget_same (b : BudgetRes) (v : Budget) : (s.setBudget b v).budget b = v := by
  simp [State.budget, State.setBudget]
@[simp] theorem State.farBuf_setFarBuf_same (f : Nat) (v : FarBuf) : (s.setFarBuf f v).farBuf f = v := by
  simp [State.farBuf, State.setFarBuf]
@[simp] theorem State.ring_setRing_same (r : RingId) (v : Ring) : (s.setRing r v).ring r = v := by
  simp [State.ring, State.setRing]

end Sys2Proof.Machine
end

