-- ==== Sys2Proof/Laws/Mem.lean ====
section
/-! SUPPORT. Memory: reading after writing a byte, and the canonical form that every operation over memory keeps. -/

namespace Sys2Proof.Machine

/-- The five tables of memory in canonical form. -/
theorem Mem.wf_iff (m : Mem) : m.wf = true ↔
    Tbl.wf unlistedByte m.bytes = true ∧ Tbl.wf false m.poisonW = true ∧ Tbl.wf false m.poisonF = true ∧
      Tbl.wf 0 m.coded = true ∧ Tbl.wf 0 m.owner = true := by
  simp only [Mem.wf, Bool.and_eq_true, and_assoc]

theorem reset_mem_wf : State.reset.mem.wf = true := by decide

@[simp] theorem Mem.byte_setByte_same (m : Mem) (a : Nat) (v : Byte) : (m.setByte a v).byte a = v := by
  simp [Mem.byte, Mem.setByte]

theorem Mem.byte_setByte_other (m : Mem) {a b : Nat} (v : Byte) (h : b ≠ a) : (m.setByte a v).byte b = m.byte b :=
  Tbl.get_set_other _ _ _ _ h

theorem Mem.wf_setByte {m : Mem} (a : Nat) (v : Byte) (w : m.wf = true) : (m.setByte a v).wf = true := by
  rw [Mem.wf_iff] at w ⊢
  exact ⟨Tbl.wf_set a v w.1, w.2⟩

theorem Mem.wf_setBytes {m : Mem} (a : Nat) (l : List Byte) (w : m.wf = true) : (m.setBytes a l).wf = true := by
  induction l generalizing m a with
  | nil => exact w
  | cons b t ih => exact ih (a + 1) (Mem.wf_setByte a b w)

/-- Bytes outside the written range read as before. -/
theorem Mem.byte_setBytes_other (m : Mem) (a : Nat) (l : List Byte) {b : Nat} (h : b < a ∨ a + l.length ≤ b) :
    (m.setBytes a l).byte b = m.byte b := by
  induction l generalizing m a with
  | nil => rfl
  | cons x t ih =>
    simp only [List.length_cons] at h
    rw [Mem.setBytes, ih _ _ (by omega), Mem.byte_setByte_other _ _ (by omega)]

theorem Mem.wf_setPoisonW {m : Mem} (k : Nat) (v : Bool) (w : m.wf = true) :
    Mem.wf { m with poisonW := Tbl.set m.poisonW false k v } = true := by
  rw [Mem.wf_iff] at w ⊢
  exact ⟨w.1, Tbl.wf_set k v w.2.1, w.2.2⟩

theorem Mem.wf_setPoisonF {m : Mem} (k : Nat) (v : Bool) (w : m.wf = true) :
    Mem.wf { m with poisonF := Tbl.set m.poisonF false k v } = true := by
  rw [Mem.wf_iff] at w ⊢
  exact ⟨w.1, w.2.1, Tbl.wf_set k v w.2.2.1, w.2.2.2⟩

theorem Mem.wf_setCoded {m : Mem} (k v : Nat) (w : m.wf = true) :
    Mem.wf { m with coded := Tbl.set m.coded 0 k v } = true := by
  rw [Mem.wf_iff] at w ⊢
  exact ⟨w.1, w.2.1, w.2.2.1, Tbl.wf_set k v w.2.2.2.1, w.2.2.2.2⟩

theorem Mem.wf_setOwner {m : Mem} (k v : Nat) (w : m.wf = true) :
    Mem.wf { m with owner := Tbl.set m.owner 0 k v } = true := by
  rw [Mem.wf_iff] at w ⊢
  exact ⟨w.1, w.2.1, w.2.2.1, w.2.2.2.1, Tbl.wf_set k v w.2.2.2.2⟩

/-- What holds of memory and is kept by each step of a loop holds after the loop. -/
theorem foldl_keeps {α β : Type} (P : β → Prop) (f : β → α → β) (h : ∀ b a, P b → P (f b a)) (l : List α) {b : β} (hb : P b) :
    P (l.foldl f b) := by
  induction l generalizing b with
  | nil => exact hb
  | cons a t ih => exact ih (h b a hb)

theorem Mem.wf_setWordPoison {m : Mem} (line : Nat) (p : BitVec 16) (w : m.wf = true) :
    (m.setWordPoison line p).wf = true :=
  foldl_keeps (fun m : Mem => m.wf = true) _ (fun _ _ h => Mem.wf_setPoisonW _ _ h) _ w

theorem Mem.wf_plain {m : Mem} (slot : Nat) (w : m.wf = true) : (m.plain slot).wf = true := by
  unfold Mem.plain
  split
  · exact w
  · dsimp only
    split
    · exact Mem.wf_setBytes _ _ (Mem.wf_setCoded _ _ w)
    · exact foldl_keeps (fun m : Mem => m.wf = true) _ (fun _ _ h => Mem.wf_setPoisonF _ _ h) _ (Mem.wf_setCoded _ _ w)

theorem Mem.wf_writeLine {m : Mem} (line : Nat) (x : LineWrite) (w : m.wf = true) : (m.writeLine line x).wf = true := by
  unfold Mem.writeLine
  have h : (List.foldl (fun (m : Mem) i => m.setByte (line * 64 + i) (lineByte x.data i))
      { m.plain (line / 64) with owner := Tbl.set (m.plain (line / 64)).owner 0 line 0 } (setBits x.mask.toNat 64)).wf = true :=
    foldl_keeps (fun m : Mem => m.wf = true) _ (fun _ _ h => Mem.wf_setByte _ _ h) _ (Mem.wf_setOwner _ _ (Mem.wf_plain _ w))
  dsimp only
  split
  · exact Mem.wf_setPoisonF _ _ h
  · exact Mem.wf_setWordPoison _ _ h

theorem Mem.wf_clearLines {m : Mem} (first n : Nat) (w : m.wf = true) : (m.clearLines first n).wf = true := by
  rw [Mem.wf_iff] at w ⊢
  exact ⟨Tbl.wf_filter _ w.1, Tbl.wf_filter _ w.2.1, w.2.2.1, w.2.2.2.1, Tbl.wf_filter _ w.2.2.2.2⟩

/-- A forgotten line of a far controller's buffers is no change of memory. -/
@[simp] theorem State.farForget_mem (s : State) (line : Nat) : (s.farForget line).mem = s.mem := by
  unfold State.farForget
  dsimp only
  split <;> rfl

/-- A write to memory keeps the canonical form. -/
theorem State.wf_memWrite {s : State} (line : Nat) (x : LineWrite) (w : s.mem.wf = true) :
    (s.memWrite line x).mem.wf = true := by
  unfold State.memWrite
  dsimp only
  split
  · rw [State.bump, State.setFld_mem, State.farForget_mem]
    exact Mem.wf_writeLine line x w
  · rw [State.farForget_mem]
    exact Mem.wf_writeLine line x w

end Sys2Proof.Machine
end

