-- ==== Sys2Proof/Tests/Slice0.lean ====
section
/-! SUPPORT. Tests on fixed values, each decided by the kernel, and a witness for each statement that has hypotheses. -/

namespace Sys2Proof.Tests

set_option Elab.async false

open Sys2Proof.Machine

/-- A state with some commands waiting. -/
def put (l : List Instr) (s : State) : State := { s with pending := l }

/-- A state with some bytes in memory. -/
def placed (a : Nat) (l : List Byte) (s : State) : State := s.setMem (s.mem.setBytes a l)

/-- The next state of an answer. -/
def nextOf : Answer → Option State
  | .next s => some s
  | _ => none

/-- What an answer shows through a function of its next state. -/
def sees {α : Type} (a : Answer) (f : State → α) : Option α := (nextOf a).map f

/-- A Twiex word of the scalar layout, from its fields. -/
def sWord (op : BitVec 10) (cls pred : BitVec 4) (tin tout : BitVec 6) (cr : BitVec 1) (rd ra rb rc : BitVec 5)
    (sub : BitVec 13) (imm : BitVec 64) : W128 :=
  encodeWord (.s ⟨op, cls, pred, tin, tout, cr⟩ ⟨rd, ra, rb, rc, sub, imm⟩)

/-- A cell at index 5 of its buffer with a word there and one before it, S15 being 2, P3 set and token 63 there. -/
def cellAt (w : W128) : State :=
  State.reset.setExe (.cell 1535) {
    pc := 5, running := true, ibuf := [(4, ⟨0, 4, 0⟩), (5, ⟨w, 4, 0⟩)], sreg := [(15, 2)], pred := 8, tok := [(63, 1)] }

/-- A sequencer at a word in near memory. -/
def seqAt (w : W128) : State :=
  let s := placed 0xB000000000 (leBytes 16 w.toNat) State.reset
  ((s.setFld .SEQ_STAT_STATE 11 1).setFld .SEQ_PC_PC 11 0xB00000000).setExe (.seq 11) { running := true }

/-- Whether a word is at the head of an executor's dispatch and free to go, to be decided. -/
def goingB (s : State) (x : Executor) (w : W128) : Bool :=
  s.atHead x && s.fetch x == some w && wf w 110 4 != 8 && (s.exe x).predOk (wf w 110 4) &&
  (wf w 104 6 == 0 || (s.exe x).token (wf w 104 6) != 0)

/-- What goingB decides is what the statements ask. -/
theorem going_of_goingB (s : State) (x : Executor) (w : W128) (h : goingB s x w = true) : Going s x w := by
  simp only [goingB, Bool.and_eq_true, Bool.or_eq_true, bne_iff_ne, beq_iff_eq, ne_eq] at h
  exact ⟨h.1.1.1.1, h.1.1.1.2, h.1.1.2, h.1.2, h.2⟩

/-- A Twiex word of the tensor layout, from its fields. -/
def tWord (op : BitVec 10) (cls : BitVec 4) (d a b c : BitVec 8) (rm : BitVec 2) (sat : BitVec 1) (cf : BitVec 62) : W128 :=
  encodeWord (.t ⟨op, cls, 0, 0, 0, 0⟩ ⟨d, a, b, c, rm, sat, cf⟩)

/-- A one-dimensional descriptor. -/
def descLine1 (base fmt n : Nat) : Line := BitVec.ofNat 512 (base + fmt * 2 ^ 48 + 2 ^ 56 + 2 ^ 63 + n * 2 ^ 128)

/-- A cell at a word, with three tensors in its local store: two of FP32 and a mask. -/
def tensorCell (w : W128) : State :=
  State.reset.setExe (.cell 1535) {
    pc := 5, running := true, ibuf := [(5, ⟨w, 5, 0⟩)],
    desc := [(1, descLine1 0x20017FC00000 0 1), (2, descLine1 0x20017FC00040 0 2), (3, descLine1 0x20017FC00080 0x1C 1)] }

/-- A cell at a word, with nine one-element FP32 tensors in its local store from table entry 10 on. -/
def matrixCell (w : W128) : State :=
  State.reset.setExe (.cell 1535) {
    pc := 5, running := true, ibuf := [(5, ⟨w, 5, 0⟩)],
    desc := (List.range 9).map (fun k => (10 + k, descLine1 (0x20017FC00000 + 64 * k) 0 1)) }

/-- A descriptor of any dimensions. -/
def descLine (base fmt orient scale : Nat) (ext str : List Nat) : Line :=
  BitVec.ofNat 512 (base + fmt * 2 ^ 48 + orient * 2 ^ 54 + ext.length * 2 ^ 56 + 2 ^ 63 + leNat (ext.flatMap (leBytes 3)) * 2 ^ 128 +
    leNat (str.flatMap (leBytes 3)) * 2 ^ 256 + 7 * 2 ^ 83 + scale * 2 ^ 352)

/-- A group's entry with a first byte; its norm lies in near memory. -/
def groupEntry (first : Nat) : List Byte := leBytes 128 (first + 0x3F000000 * 2 ^ 192 + 0xB000000000 * 2 ^ 320)

/-- A cell at a word, with a shard of one weight at entry 10, its record at 11, a gradient at 12, a momentum at 13, an index at 14
and a record of 32 words at 15, groups 7 (SIGN) and 8 (SIGN by rows), and step 1. -/
def updCell (w : W128) : State :=
  let b := 0x20017FC00000
  let s := State.reset.setExe (.cell 1535) {
    pc := 5, running := true, ibuf := [(5, ⟨w, 5, 0⟩)], ctx := { ({} : Exec).ctx with step := 1 }
    desc := [(10, descLine b 1 0 (b + 0x200) [1] []), (11, descLine (b + 0x40) 0x0B 0 0 [16] []), (12, descLine (b + 0x80) 0 0 0 [1] []),
      (13, descLine (b + 0xC0) 0 0 0 [1] []), (14, descLine (b + 0x100) 0x0B 0 0 [1] []), (15, descLine (b + 0x140) 0x0B 0 0 [32] [])] }
  { s with upd := { s.upd with groups := [(7, groupEntry 0), (8, groupEntry 16), (9, groupEntry 1), (10, groupEntry 3)] } }

/-- A cell at a word, with a matrix of one weight at entry 30, its record at 31, a gradient at 32, the work tensors of ORTHO from 40
on and those of PRECOND from 50 on. -/
def teamCell (w : W128) : State :=
  let b := 0x20017FC10000
  let s := updCell w
  s.setExe (.cell 1535) { s.exe (.cell 1535) with
    desc := [(30, descLine b 1 0 (b + 0x200) [1, 1] [64]), (31, descLine (b + 0x40) 0x0B 0 0 [16] []),
       (32, descLine (b + 0x80) 0 0 0 [1, 1] [64]), (40, descLine (b + 0xC0) 0 0 0 [1, 1] [64])] ++
      (List.range 4).map (fun k => (41 + k, descLine (b + 0x2000 + 0x1000 * k) 2 1 0 [32, 64, 1, 1, 1] [64, 4096, 4096, 4096])) ++
      (List.range 11).map (fun k => (50 + k, descLine (b + 0x1000 + 64 * k) 0 0 0 [1, 1] [64])) }

/-- A sequencer at a word, with two FP32 tensors and a list of device IDs in near memory, group 0 of this device alone and group 1
ending. -/
def groupSeq (w : W128) : State :=
  let s := ((seqAt w).setFld .LNK_RTCFG_SIZE 0 1).setFld .LNK_GRPBASE_EN 0 1
  let s := s.setExe (.seq 11) { s.exe (.seq 11) with
    desc := [(1, descLine 0xB000001000 0 0 0 [1] []), (2, descLine 0xB000001040 0x0B 0 0 [1] [])] }
  { s with net := { s.net with groups := [{ grp := 0, parts := [0], shape := [1] }, { grp := 1, parts := [0], shape := [1], freeing := true }] } }

/-- A state with link 23 in a state of LNK_STAT, enabled, and selected by the Kettle. -/
def linkIn (st : Nat) (k : LinkSt) : State :=
  ((((State.reset.setFld .LNK_STAT_STATE 23 st).setFld .LNK_CTRL_ENABLE 23 1).setFld .LNK_SEL_INDEX Bank.kettle.code 23).setLink 23 k)

/-- What link 23 shows. -/
def linkShown (t : State) : List Nat := [t.fld .LNK_STAT_STATE 23, t.fld .LNK_STAT_LOSS_DETAIL 23, (t.link 23).starts.length]

/-- A pipeline that is on, with stream 15 of images loaded, a request ring 3 and a core return ring in near memory. -/
def pipeOn (l : List Sample) (e : List Byte) : State :=
  let s := placed 0xB000001000 e State.reset
  let ring (s : State) (en : Fld) (base cb : Fld) (i : Nat) : State := ((s.setFld en 0 1 i).setFld base 0 (0xB000001000 / 64) i).setFld cb 0 (0xB000004000 / 128) i
  let s := ring (ring s .COL_RQ_BASE_EN .COL_RQ_BASE_BASE .COL_RQ_CB_CB 3) .COL_CR_BASE_EN .COL_CR_BASE_BASE .COL_CR_CB_CB 0
  let s := ((s.setFld .COL_CTRL_EN 0 1).setFld .COL_XFBASE_BASE 0 (0xB000005000 / 4096)).setFld .COL_STAGE_BASE 0 (0xB000006000 / 4096)
  (s.setPipe { s.pipe with samples := l }).setStream 15 { rcd := some (List.replicate 64 0) }

/-- A text sample of two bytes in engine 31, with a container code. -/
def textAt (container : Nat) : Sample := { uid := 9, req := leBytes 64 (container + 3 * 2 ^ 8 + 15 * 2 ^ 24 + 0xB000001000 * 2 ^ 128 + 2 * 2 ^ 192)
                                           entry := 0xB000001000, cost := 3, at_ := .engine 31, slot := 255, lane := 0, xf := leBytes 64 (0xFFFFFFFF * 2 ^ 32 + 7 * 2 ^ 64) }

/-- A state in which host port 3 serves requests, at a stage of boot. -/
def portUp (stage : Nat) : State := ((State.reset.setFld .HPT_CFG_WIDTH 3 1).setFld .HPT_LSTAT_DLUP 3 1).setFld .KTL_BOOT_STAGE 0 stage

/-! ## Ill-formed operands are refused -/

/-- A flit whose counts and body have the sizes of R436, to be spoilt. -/
def flit0 : Flit := ⟨1, 0, false, 0, false, false, 0, [0, 0, 0, 1023], List.replicate 224 0, true, true, true⟩

theorem test_wf_scratch : ScratchReq.wf ⟨0, 2 ^ 48, none⟩ = false ∧ ScratchReq.wf ⟨0, 2 ^ 48 - 1, none⟩ = true := by decide
theorem test_wf_request : ReqMsg.wf ⟨.rdNC, 128, 0, 0, 2 ^ 48, .load⟩ = false := by decide
theorem test_wf_flit : flit0.wf = true ∧ Flit.wf { flit0 with cred := [0, 0, 0, 1024] } = false ∧
    Flit.wf { flit0 with cred := [0, 0, 0] } = false ∧ Flit.wf { flit0 with body := [] } = false := by decide +kernel
theorem test_wf_segment : CodedSegment.wf ⟨65536 + 64, List.replicate 512 0, List.replicate 16 (true, [])⟩ = false ∧
    CodedSegment.wf ⟨65536, List.replicate 512 0, List.replicate 15 (true, [])⟩ = false ∧
    CodedSegment.wf ⟨65536, List.replicate 511 0, List.replicate 16 (true, [])⟩ = false ∧
    CodedSegment.wf ⟨65536, List.replicate 512 0, List.replicate 16 (false, [])⟩ = false := by decide +kernel
theorem test_wf_completion : HrdOutcome.wf (.data [] false) = false := by decide
theorem test_wf_config : ConfigReq.wf (.read 4096) = false := by decide
theorem test_wf_dimms : DimmReport.wf ⟨[(64, true), (64, true), (64, true)], true, []⟩ = false := by decide
theorem test_wf_source : MbSource.wf (.session .i3c (List.replicate 63 0)) = false := by decide +kernel
theorem test_wf_resource : resWf 4 52 = false ∧ resWf 0 0 = false ∧ resWf 6 0 = false ∧ resWf 5 3 = true ∧
    Instr.wf (.budgetGrant 1 12 0) = false ∧ Instr.wf (.budgetPeriodStart 2 12) = false := by decide
theorem test_wf_command : Instr.wf (.gets 0 0 512) = false ∧ Instr.wf (.snpinv 0 (2 ^ 42)) = false ∧ Instr.wf (.fastLimit 65536) = false ∧
    Instr.wf (.thermalTrip 128) = false ∧ Instr.wf (.hostRead 0 0 0) = false ∧ Instr.wf (.flitNakReceive 0 (2 ^ 24)) = false ∧
    Instr.wf (.lossFlit 0 16384) = false ∧ Instr.wf (.bootInitStacks []) = false ∧ Instr.wf .pwrOkLoss = true := by decide +kernel

/-! ## What the manual works out -/

/-- R285's worked MM instruction, its bytes as memory holds them. -/
theorem test_decode_mm_example :
    decodeWord (BitVec.ofNat 128 (leNat [0, 0, 0, 0, 0, 0, 0, 0x40, 0, 0x16, 0x14, 0x18, 0x0C, 0x01, 0x08, 0])) =
      some (.t ⟨0, 2, 0, 1, 3, 0⟩ ⟨12, 10, 11, 0, 0, 1, 0⟩) := by decide +kernel

/-- CTL.END is class 0, opcode 0 in the scalar layout: bits [127:114] are 0. TOK_IN 63 stands at [109:104] (R204, R257). -/
theorem test_decode_end : decodeWord (BitVec.ofNat 128 (63 * 2 ^ 104)) = some (.s ⟨0, 0, 0, 63, 0, 0⟩ ⟨0, 0, 0, 0, 0, 0⟩) := by decide +kernel

/-- The example of R143: 0x3F805000 to BF16 with N = 16 and random bits 0x9C40, then 0xC350. -/
theorem test_stochastic_example :
    (bf16.encode (.stoch 16 0x9C40) false (f32.decode 0x3F805000)).bits = 0x3F80 ∧
    (bf16.encode (.stoch 16 0xC350) false (f32.decode 0x3F805000)).bits = 0x3F81 := by decide +kernel

/-- One coded block of 3,520 bytes takes 16 flits, a header with its map of 576 bytes 3, a raw block 19 (R421, R444). -/
theorem test_flits_of_a_block :
    (Xact.bodies { data := List.replicate 3520 0 }).length = 16 ∧ (Xact.bodies { data := List.replicate 576 0 }).length = 3 ∧
    (Xact.bodies { data := List.replicate 4096 0 }).length = 19 := by decide +kernel

/-- Region 7, block index 62, slot 8 is cell 1,000 (02's example of R15). -/
theorem test_cell_numbers : ((1000 : Cell).region.val, (1000 : Cell).block.val, (1000 : Cell).slot) = (7, 62, 8) := by decide

/-- The interleave view: page 13 of the view is page 1 of region 1 (R53). -/
theorem test_interleave : canonical (0x0C0000000000 + 13 * 4096 + 5) = 0x1000000000 + 4096 + 5 := by decide

/-! ## Witnesses: each statement with hypotheses has states and operands that meet them -/

-- StepTakesFrontCommand
set_option maxRecDepth 40000 in
theorem witness_StepTakesFrontCommand :
    (put [.laneRatePeriod, .sealTimeout] State.reset).pending = .laneRatePeriod :: [.sealTimeout] := by decide +kernel

-- EmptyQueueTicks
set_option maxRecDepth 40000 in
theorem witness_EmptyQueueTicks : State.reset.pending = [] := by decide +kernel

-- TwiexWordsRoundTrip
set_option maxRecDepth 40000 in
theorem witness_TwiexWordsRoundTrip :
    TwWord.wf (.t ⟨0, 2, 0, 63, 63, 1⟩ ⟨255, 255, 255, 255, 3, 1, 0⟩) = true ∧
    TwWord.wf (.s ⟨0x3, 0xB, 15, 0, 63, 0⟩ ⟨31, 31, 31, 31, 0, 0⟩) = true := by decide +kernel

-- TwiexDecodingLosesNoBit
set_option maxRecDepth 40000 in
theorem witness_TwiexDecodingLosesNoBit :
    (decodeWord 0).isSome = true ∧
    opRow ((0xF#128 <<< 114).extractLsb' 114 4).toNat ((0xF#128 <<< 114).extractLsb' 118 10).toNat = none := by decide +kernel

-- BlockPowerRequestsAndWakes
set_option maxRecDepth 40000 in
theorem witness_BlockPowerRequestsAndWakes :
    (mayControl (.host 3) (Block.region 95) = false ∧ mayControl (.seq 11) (Block.region 95) = true ∧
      mayControl .kettle (Block.region 0) = true ∧ ¬ (State.reset.fld .BLK_PWR_STATE 0 = BlkState.off.code ∧ (State.reset.blk 0).moving = none)) ∧
    (let s := State.reset.setBlk 95 { pend := some 3 }
     (s.blk 95).pend = some 3 ∧ (s.blk 95).cleaned = false ∧ s.blkBusy 95 = false ∧ s.cleanable 95 = true ∧ s.linesOf 95 = [] ∧
      s.missCount 95 = 0) ∧
    ((State.reset.setBlk 95 { pend := some 2, cleaned := true }).blk 95).cleaned = true ∧
    ((State.reset.setBlk 95 { pend := some 2, cleaned := true, inq := [.scratch ⟨0, 0x2100BE000000, none⟩] }).blk 95).inq ≠ [] ∧
    (let s := (State.reset.setFld .BLK_PWR_STATE 95 1).setBlk 95 { waking := true }
     (s.blk 95).waking = true ∧ s.blkState 95 = .gated) ∧
    (let s := (State.reset.setFld .BLK_PWR_STATE 95 3).setBlk 95 { moving := some 0 }
     (s.blk 95).moving = some BlkState.run.code ∧ s.mem.coded = [] ∧ BlkState.ofCode (s.fld .BLK_PWR_STATE 95) = .off) ∧
    (let s := State.reset.setFld .BLK_PWR_STATE 95 0
     s.blkState 95 = .run ∧ s.flag .BLK_PWR_AUTOGATE 95 = true ∧ s.blkBusy 95 = false ∧ (s.blk 95).moving = none ∧
      ∀ c ∈ Block.cells 95, (s.exe (.cell c)).running = false) := by decide +kernel

-- DispatchAtASleepingBlockWakesIt
set_option maxRecDepth 40000 in
theorem witness_DispatchAtASleepingBlockWakesIt :
    scratchHome 0x2100BE000000 = some ((95 : Block).val, none) ∧ scratchHome 0x20017FC00000 = some ((95 : Block).val, some 15) ∧
    State.reset.updating ⟨0, none⟩ (writeRanges ⟨1, 0, false⟩ (0x2100BE000000 / 64)) = [] ∧
    (State.reset.setFld .BLK_PWR_STATE 95 0).blkState 95 = .run ∧ (State.reset.blk 95).slotStopped (some 15) = false ∧
    (State.reset.setFld .BLK_PWR_STATE 95 2).blkState 95 = .nap ∧ (State.reset.setFld .BLK_PWR_STATE 95 1).blkState 95 = .gated ∧
    scratchHome 0x200180000000 = none ∧
    ((State.reset.setBlk 95 { inq := [.scratch ⟨0, 0x2100BE000000, none⟩] }).blk 95).inq = [.scratch ⟨0, 0x2100BE000000, none⟩] := by
  decide +kernel

-- ClocksStopAndRun
set_option maxRecDepth 40000 in
theorem witness_ClocksStopAndRun :
    (let s := (List.range 8).foldl (fun (s : State) k => s.setFld .BLK_PWR_STATE (88 + k) 1) State.reset
     (∀ k, k < 8 → s.fld .BLK_PWR_STATE ((11 : Region).val * 8 + k) ≠ 0) ∧ s.fld .SEQ_STAT_STATE 11 = 0 ∧
      s.reqsAt 11 = [] ∧ (s.exe (.seq 11)).flights = [] ∧ s.coh.txns = [] ∧ s.noAsks 11 = true ∧ s.noAsks 13 = true ∧ s.coh.net = []) ∧
    (State.reset.setFld .FMC_STAT_POP 11 1).flag .FMC_STAT_POP 11 = true ∧ (State.reset.budget (.far 11)).asks = [] := by decide +kernel

-- BudgetsRefillGrantAndReportStarvation
set_option maxRecDepth 40000 in
theorem witness_BudgetsRefillGrantAndReportStarvation :
    (State.reset.setFld .BDG_CTRL_ENABLE (BudgetRes.via 11).code 1).budgetOn (.via 11) = true ∧
    State.reset.budgetClock (.via 11) = true ∧ State.reset.budgetOn (.fabric 51) = false ∧
    (let s := State.reset.setBudget (.via 11) { bal := [0, 0, 0, 0, 0, 0, 0, 1] }
     (s.budget (.via 11)).bal.length = 8 ∧ 0 < (s.budget (.via 11)).balOf 7) ∧
    (State.reset.setBudget (.via 11) { asks := [⟨95, some 15, 7, 4097⟩] }).budget (.via 11) = { asks := [⟨95, some 15, 7, 4097⟩] } ∧
    (let s := State.reset.setBudget (.link 23) { starve := [4, 0, 0, 0, 0, 0, 0, 0] }
     s.fld .BDG_CTRL_STARVE_LIM (BudgetRes.link 23).code = 4 ∧ (s.budget (.link 23)).starve.getD 0 0 = 4 ∧
     (s.fld .BDG_STAT_STARVED (BudgetRes.link 23).code).testBit 0 = false) ∧
    (let s := (State.reset.setFld .BDG_SEL_KIND 32 5).setFld .BDG_SEL_INDEX 32 3
     (s.otherAccess .kettle).selRes .kettle = some (.pcie 3)) ∧
    (State.reset.otherAccess .kettle).selRes .kettle = none := by decide +kernel

-- RegisterWritesReachTheirRegister
theorem witness_RegisterWritesReachTheirRegister :
    (State.reset.bank (.host 3)).heldLow = none ∧
    (regAt 0xA00010).map (fun a => (a.reg, a.high, a.reg.place.wide)) = some (.BDG_CTRL, false, false) ∧
    (regAt 0x201108).isNone = true ∧
    (regAt 0x200108).map (fun a => (a.reg, a.high, a.reg.place.wide)) = some (.BLK_SPARE, false, true) ∧
    (State.reset.otherAccess .kettle).selPort .kettle = some 0 ∧
    ((State.reset.setFld .HPT_CFG_WIDTH 0 8).otherAccess .kettle).portOn 0 = true := by decide +kernel

-- HalfAccessesOfWideRegisters
theorem witness_HalfAccessesOfWideRegisters :
    (State.reset.bank .kettle).heldLow = none ∧ (State.reset.bank .kettle).latched = none ∧
    (regAt 0x200108).map (fun a => (a.reg, a.high, a.reg.place.wide)) = some (.BLK_SPARE, false, true) ∧
    (regAt (0x200108 + 4)).map (fun a => (a.reg, a.high, a.reg.place.wide)) = some (.BLK_SPARE, true, true) ∧
    ((State.reset.setBank .kettle { latched := some (0x200108, 7) }).bank .kettle).latched = some (0x200108, 7) ∧
    ((State.reset.setBank .kettle { heldLow := some (0x200108, 7) }).bank .kettle).heldLow = some (0x200108, 7) := by decide +kernel

-- WritesWithoutTheRightAreDiscarded
theorem witness_WritesWithoutTheRightAreDiscarded :
    (State.reset.setFld .BLK_SEL_INDEX Bank.kettle.code 96).selected .kettle Reg.BLK_PWR.place.win = false ∧
    selectReg .BLK_PWR = false ∧ Reg.LNK_CTRL.place.win = .link ∧ Reg.RSL_CTRL.place.win = .resilience ∧
    Reg.KTL_BOOT.place.win = .kettle ∧
    (State.reset.setFld .BLK_SEL_INDEX (Bank.host 3).code 95).selBlk (.host 3) = some 95 ∧
    (State.reset.setFld .CEL_SEL_INDEX (Bank.seq 0).code 1535).selPhys (.seq 0) = some 1615 ∧
    (Bank.seq 0 : Bank) ≠ .seq (Block.region 95) ∧ 1615 / 17 = (95 : Block).val := by decide +kernel

-- RequestsReachTheirHome
set_option maxRecDepth 40000 in
theorem witness_RequestsReachTheirHome :
    (let m : ReqMsg := ⟨.getM, 125, 511, 0, 0xBFFFFFFFFF, .store ⟨1, 7, false⟩⟩
     State.reset.reqRefused m = false ∧ homeOf (reqLine m) = (11 : Region).val ∧ State.reset.hits m = false ∧ State.reset.reqLegal m = true ∧
     State.reset.wayClear 11 125 = true ∧ (State.reset.reqsAt 11).length < 4096 ∧
     (State.reset.setCached 125 (reqLine m) { st := .e }).hits m = true ∧ State.reset.reqRefused { m with addr := 0x300000000000 } = true) ∧
    (let m : ReqMsg := ⟨.rdNC, 128, 0, 0, 0, .load⟩
     let n : ReqMsg := ⟨.rdNC, 211, 0, 0, 64, .load⟩
     State.reset.reqRefused m = false ∧ State.reset.reqLegal m = true ∧ State.reset.reqLegal n = true ∧
     State.reset.reqRefused n = false ∧ homeOf (reqLine m) = (0 : Region).val ∧ homeOf (reqLine n) = (0 : Region).val ∧
     State.reset.wayClear 0 128 = true ∧ State.reset.wayClear 0 211 = true ∧
     prioDist (State.reset.fld .DIR_PRIO_P 0) m.src.val < prioDist (State.reset.fld .DIR_PRIO_P 0) n.src.val) := by decide +kernel

-- HomeServesAnUncachedLine
set_option maxRecDepth 40000 in
theorem witness_HomeServesAnUncachedLine :
    (∀ ty ∈ [ReqTy.getS, .getSW, .getM, .rdNC],
      let m : ReqMsg := ⟨ty, 125, 511, 0, 0xBFFFFFFFFF, .load⟩
      (State.reset.setReqs 11 [m]).actable (11 : Region) ty 125 511 = some m) ∧
    (let m : ReqMsg := ⟨.wrNC, 211, 0, 0, 0, .store ⟨1, 7, false⟩⟩
     (State.reset.setReqs 0 [m]).actable (0 : Region) .wrNC 211 0 = some m) ∧
    State.reset.updating ⟨211, none⟩ (writeRanges ⟨1, 7, false⟩ 0) = [] ∧
    (let m : ReqMsg := ⟨.atomNC, 128, 0, 0, 0, .atomic ⟨.add, true, 56, 1, 0⟩⟩
     (State.reset.setReqs 0 [m]).actable (0 : Region) .atomNC 128 0 = some m) ∧
    State.reset.dirOf 0 = none ∧ (State.reset.dirWays 0).length < 16 ∧ State.reset.mem.codedAt 0 = none := by decide +kernel

-- HomeJudgesPuts
set_option maxRecDepth 40000 in
theorem witness_HomeJudgesPuts :
    (∀ ty ∈ [ReqTy.putS, .putE, .putM],
      let m : ReqMsg := ⟨ty, 125, 511, 0, 5 * 64, .store ⟨fullMask, 7, false⟩⟩
      let s := (State.reset.setReqs 0 [m]).setDir 5 (some ⟨ty ≠ .putS, oneHot 125, 0⟩)
      s.actable (0 : Region) ty 125 511 = some m ∧ (s.dirOf (reqLine m)).any (fun e => e.sharers.getLsbD 125) = true) := by decide +kernel

-- HoldersAnswerSnoops
set_option maxRecDepth 40000 in
theorem witness_HoldersAnswerSnoops :
    (∀ ty ∈ [MsgTy.snpFwdS, .snpFwdM, .snpFwdRd, .snpInv],
      let m : Msg := { ty := ty, src := 240, dst := 95, line := 7 }
      let s := (State.reset.setCached 95 7 { st := .m, watched := true }).send m
      s.coh.net.find? (fun o => decide (o.ty = ty) && o.dst == 95 && o.line == 7) = some m ∧
      s.coh.net.find? (fun o => o.src == m.src && o.dst == m.dst) = some m ∧ s.snoopable 95 = true ∧
      (s.cached 95 7).isSome = true ∧ s.coh.miss = [] ∧ s.wbOf 95 7 = none) ∧
    (let s := State.reset.setWb 95 7 { agent := 95, dirty := true }
     s.cached 95 7 = none ∧ s.wbOf 95 7 = some { agent := 95, dirty := true } ∧ s.snoopable 95 = true) ∧
    State.reset.cached 95 7 = none ∧ State.reset.wbOf 95 7 = none ∧
    (State.reset.setFld .BLK_PWR_STATE (95 : Block) 1).blkState 95 = .gated := by decide +kernel

-- HomesTakeResponses
/-- A state with a transaction for line 7 and a message in flight. -/
def answering (x : HomeTxn) (m : Msg) : State := (State.reset.setTxn 7 x).send m
set_option maxRecDepth 40000 in
theorem witness_HomesTakeResponses :
    (let x : HomeTxn := { req := ⟨.rdNC, 211, 3, 0, 7 * 64, .load⟩, waits := [125], final := some ⟨true, oneHot 125, 0⟩ }
     (∀ ty ∈ [MsgTy.snpAck, .snpData],
       let m : Msg := { ty := ty, src := 125, dst := homeCode (0 : Region), line := 7, flag := true }
       let s := answering x m
       s.coh.net = [m] ∧ s.txnOf 7 = some x ∧ homeOf 7 = (0 : Region).val ∧ s.isLate 125 7 = false) ∧
     reqLine x.req = 7 ∧ x.victim = none ∧ x.grantAfter = false ∧ x.needComp = false ∧ x.hasData = false ∧
     ({ x with waits := [125, 0] }.waits.filter (· ≠ 125) ≠ [])) ∧
    (let x : HomeTxn := { req := ⟨.getS, 0, 3, 0, 7 * 64, .load⟩, needComp := true, final := some ⟨true, oneHot 0, 0⟩ }
     let m : Msg := { ty := .compAck, src := 0, dst := homeCode (0 : Region), line := 7 }
     (answering x m).coh.net = [m] ∧ x.req.src.val = 0 ∧ x.grantAfter = false) := by decide +kernel

-- AgentsTakeResponses
set_option maxRecDepth 40000 in
theorem witness_AgentsTakeResponses :
    (∀ ty ∈ [MsgTy.putAck, .putAckStale, .dataS, .dataE, .gntE, .dataM],
      let m : Msg := { ty := ty, src := 240, dst := 125, line := 7, flag := true }
      (State.reset.send m).coh.net = [m] ∧ (State.reset.send m).coh.miss = []) ∧
    (∀ g ∈ [true, false], let s := State.reset.setMiss 125 7 { granted := g }
      s.missOf 125 7 = some { agent := 125, granted := g } ∧ s.cached 125 7 = none ∧ s.victimFor 125 7 = none) ∧
    (let s := (State.reset.setMiss 125 7 { st := .sm }).setCached 125 7 { data := 5 }
     (s.missOf 125 7).map (·.st) = some .sm ∧ (s.cached 125 7).isSome = true) ∧
    (let m : Msg := { ty := .ncDone, src := 240, dst := 211, line := 7, txn := 511 }
     (State.reset.send m).coh.net = [m]) := by decide +kernel

-- EvictionsTimeoutsAndPeeks
set_option maxRecDepth 40000 in
theorem witness_EvictionsTimeoutsAndPeeks :
    (let c : CLine := { st := .m, agent := 125, line := 7 }
     let s := State.reset.setCached 125 7 c
     s.cached 125 7 = some c ∧ s.mayEvict 125 7 c = true ∧ s.missOf 125 7 = none ∧ s.wbOf 125 7 = none ∧ s.wbCount 125 < wbEntries 125 ∧
     s.coh.miss = []) ∧
    (let x : HomeTxn := { req := ⟨.rdNC, 211, 0, 0, 7 * 64, .load⟩, waits := [125] }
     let s := (State.reset.setTxn 7 x).setDir 7 (some ⟨true, oneHot 125, 0⟩)
     let s : State := { s with clk := { s.clk with fclk := [(0, 10000000)] } }
     s.txnOf 7 = some x ∧ x.waits.contains 125 = true ∧ homeOf 7 = (0 : Region).val ∧ (s.dirOf 7).isSome = true ∧
     x.began + max (s.fld .DIR_CTRL_SNP_TO 0) 1 * 4096 ≤ s.fclk 0) ∧
    (let s := (State.reset.setFld .SEQ_CR_BASE_EN 11 1).setFld .SEQ_CR_CB_CB 11 (0xB000000000 / 128)
     let line := canonical (s.ringLine (.completion 11) * 64) / 64
     let s := (s.setCached 123 line { st := .e }).setDir line (some ⟨true, oneHot 123, 0⟩)
     .completion 11 ∈ allRings ∧ (ringMover (.completion 11)).code = 123 ∧ s.ringOn (.completion 11) = true ∧ s.lineReady 123 line = true ∧
     (s.place (line * 64)).coherent = true ∧ (s.cached 123 line).map (·.watched) = some false ∧ s.watchCount 123 < watchLimit 123 ∧
     s.busy line = false) ∧
    (State.reset.otherAccess (.seq 11)).fld .REG_SEL_INDEX (Bank.seq 11).code = (0 : Region).val ∧
    (0x80000000000001C0#64).getLsbD 63 = true ∧ bitsOf (0x80000000000001C0#64).toNat 6 42 = 7 := by decide +kernel

-- CellFaultsRetireTheirCell
set_option maxRecDepth 40000 in
theorem witness_CellFaultsRetireTheirCell :
    (let s := State.reset.setFld .BLK_SPARE_SPARE 95 16
     (s.blk 95).gone.contains 15 = false ∧ (s.blk 95).slotStopped (some 15) = false ∧ (s.blk 95).retiring = none ∧
     (s.errq (.cell 1535)).await = [] ∧ (s.errq (.block 95)).await = [] ∧ (s.errq (.cell 1535)).recs = [] ∧
     (s.errq (.cell 1535)).cur = [] ∧ (s.errq (.block 95)).recs = [] ∧ (s.errq (.block 95)).cur = [] ∧
     s.posOf (Cell.block 1535) (Cell.slot 1535) < 17 ∧ s.fld .BLK_SPARE_SPARE (Cell.block 1535) = 16 ∧
     s.fld .BLK_RTHR_CE_LIM 95 ≠ 0) ∧
    (State.reset.setFld .BLK_RTHR_CE_LIM 95 0).fld .BLK_RTHR_CE_LIM (Cell.block 1535) = 0 ∧
    (State.reset.setFld .BLK_RTHR_CE_LIM 95 5).fld .BLK_RTHR_CE_LIM (Cell.block 1535) ≤
      (if (Tbl.get State.reset.repair.window (0, 0) 1615).1 = State.reset.fclk 11 / 2 ^ 31 then 0 else 0) + 5 ∧
    ((State.reset.setBlk 95 { gone := [15] }).blk (Cell.block 1535)).gone.contains (Cell.slot 1535) = true ∧
    (let s := (State.reset.setFld .BLK_SPARE_SPARE 95 16).setFld .BLK_SEL_INDEX Bank.kettle.code 95
     (s.otherAccess .kettle).selBlk .kettle = some 95 ∧ mayControl .kettle (Block.region 95) = true ∧
     (0x8000000F#32).getLsbD 31 = true ∧ (s.otherAccess .kettle).posOf 95 ((0x8000000F#32).toNat % 16) < 17) ∧
    mayControl (.host 3) (Block.region 95) = false := by decide +kernel

-- SparesReplaceRetiredCells
set_option maxRecDepth 40000 in
theorem witness_SparesReplaceRetiredCells :
    (∀ ph ∈ [RetirePhase.selfTest, .copying],
      ((State.reset.setBlk 95 { retiring := some ⟨15, 3, 1, ph⟩ }).blk 95).retiring = some ⟨15, 3, 1, ph⟩) ∧
    (State.reset.blk 95).retireNext = [] ∧
    (let s := ((State.reset.setFld .CEL_SEL_INDEX (Bank.seq 11).code 1535).setBlk 95 { held := [15] }).setExe (.cell 1535) { running := true }
     (s.otherAccess (.seq 11)).selCell (.seq 11) = some 1535 ∧ mayControl (.seq 11) (Cell.region 1535) = true ∧
     (s.blk (Cell.block 1535)).held.contains (Cell.slot 1535) = true ∧ (s.exe (.cell 1535)).running = true ∧
     mayControl (.seq 10) (Cell.region 1535) = false) ∧
    (let s := ((State.reset.setFld .CEL_SEL_INDEX (Bank.seq 11).code 1631).setFld .CEL_SEL_PHYS (Bank.seq 11).code 1).setFld .BLK_SPARE_SPARE 95 16
     (s.otherAccess (.seq 11)).selPhys (.seq 11) = some 1631 ∧ 1631 / 17 = (95 : Block).val ∧
     (s.otherAccess (.seq 11)).fld .BLK_SPARE_SPARE (95 : Block) = 1631 % 17 ∧ (s.blk 95).retiring = none) := by decide +kernel

-- NearMemoryIsScrubbedAndSpared
/-- A cell with a pass under way, and its chunks still to come. -/
def passing (todo : List Nat) : State :=
  State.reset.setExe (.cell 1535) { flights := [{ q := .vector, bsu := true, uid := 5, pass := some { word := 0, todo := todo } }] }
set_option maxRecDepth 40000 in
theorem witness_NearMemoryIsScrubbedAndSpared :
    State.reset.fld .NMS_CTRL_SCRUB_HRS (11 : Region) ≠ 0 ∧ 0x2FFFFFFFFF * 4 / 0x1000000000 = (11 : Region).val ∧
    (State.reset.setFld .NMS_CTRL_SCRUB_HRS 11 0).fld .NMS_CTRL_SCRUB_HRS (11 : Region) = 0 ∧
    State.reset.repair.spared.contains (11, 127, 9) = false ∧
    (let s : State := { State.reset with repair := { State.reset.repair with
        rowErrs := [(rowKey (11, 127, 9), 300)], spared := (List.range 256).map (fun i => (11, 127, i + 100)) } }
     (s.repair.spared.filter (fun p => p.1 == (11 : Region).val && p.2.1 == (127 : Fin 128).val)).length = 256 ∧
     max 1 (s.fld .NMS_CTRL_ROW_THR (11 : Region)) ≤ Tbl.get s.repair.rowErrs 0 (rowKey (11, 127, 9)) ∧
     s.repair.spared.contains (11, 127, 9) = false ∧ s.repair.exhausted.contains (11, 127) = false) ∧
    State.reset.repair.abandon.contains (1535, 7) = false ∧
    (∀ l ∈ [[0xB000000], [0xB000000, 0xB000001]],
      ((passing l).passAt 11 0xB000000).map (fun q => (q.1, q.2.2.todo)) = some ((1535 : Cell), l)) ∧
    (let s := passing [0xB000000]
     s.txnCount 11 < 512 ∧ 0xB000000 * 4096 / 0x1000000000 = (11 : Region).val ∧ s.coh.chunks = [] ∧ s.coh.txns = []) := by decide +kernel

-- InstructionsAndLaunchesComplete
set_option maxRecDepth 40000 in
theorem witness_InstructionsAndLaunchesComplete :
    (let f : Flight := { q := .vector, uid := 5, tokOut := 63 }
     let s := State.reset.setExe (.cell 1535) { flights := [f], tok := [(63, 0xFFFE)] }
     s.queueHead (.cell 1535) .vector = some f ∧ s.fenced = false ∧ s.canComplete (.cell 1535) f = true ∧
     (s.exe (.cell 1535)).token 63 < 0xFFFF) ∧
    (let f : Flight := { q := .vector, uid := 5, trap := some {} }
     let s := State.reset.setExe (.cell 1535) { flights := [f], running := true }
     s.queueHead (.cell 1535) .vector = some f ∧ s.canComplete (.cell 1535) f = true ∧ (s.exe (.cell 1535)).trapDue = none ∧
     (∀ h ∈ (s.exe (.cell 1535)).flights, classTraps h.cls = true → f.uid ≤ h.uid) ∧ s.ringAccepts (.numeric 11) = true ∧
     (s.ring (.numeric 11)).held = [] ∧
     sees (exec (.instructionComplete (.cell 1535) .vector) s)
       (fun t => [bit1 (decide ((t.exe (.cell 1535)).stop = .nanTrap)), (t.exe (.cell 1535)).flights.length]) = some [1, 0]) ∧
    (let s := State.reset.setRing (.completion 11) { buf := List.replicate 64 [] }
     s.canComplete (.cell 1535) { q := .vector, cr := true } = false) ∧
    (let s := ((State.reset.setFld .SEQ_STAT_STATE 11 1).setFld .SEQ_PC_PC 11 0x30000000000).setExe (.seq 11) { running := true }
     s.seqRuns 11 = true ∧ (s.readBytes (s.fld .SEQ_PC_PC (11 : Region) * 16) 16).detail = 3) ∧
    (let e : IbEntry := ⟨0, 1023, 0⟩
     let s := (State.reset.setBlk 95 { inq := [.launch 4 1535 1023 7 {}] }).setExe (.cell 1535) { ibuf := [(1023, e)] }
     s.cellFree 1535 = true ∧ (s.blk (Cell.block 1535)).itemFor 1535 = some (.launch 4 1535 1023 7 {}) ∧
     ((s.exe (.cell 1535)).entry 1023).isSome = true ∧ (s.blk (Cell.block 1535)).unloaded.contains (Cell.slot 1535) = false) ∧
    (let s := State.reset.setBlk 95 { inq := [.load 4 1535 1022 2 0xB000000000] }
     s.cellFree 1535 = true ∧ (s.blk (Cell.block 1535)).itemFor 1535 = some (.load 4 1535 1022 2 0xB000000000) ∧
     (s.job 4).bind (fun j => j.fetched.find? (fun p => p.1 == 95)) = none ∧ s.rangeFree 0xB000000000 32 = true ∧ (s.readBytes 0xB000000000 32).detail = 0) ∧
    (∀ p ∈ [true, false],
      let s := { State.reset.setExe (.seq 11) { flights := [{ q := .launch 4 }] } with
        jobs := [{ id := 4, region := 11, kind := .launch, waits := [], promote := p }] }
      (s.job 4).map (fun j => (j.waits, j.promote)) = some ([], p) ∧ (s.queueHead (.seq 11) (.launch 4)).isSome = true ∧
      s.canComplete (.seq 11) { q := .launch 4, forced := p } = true ∧ s.seqStopped 11 = false) ∧
    (let s := { State.reset with signals := [⟨11, 127, 63⟩] }
     s.signals.find? (fun k => k.region == (11 : Region).val) = some ⟨11, 127, 63⟩ ∧
     (1535 : Cell).val = (11 : Region).val * 128 + 127 ∧ (s.blk (Cell.block 1535)).gone.contains (Cell.slot 1535) = false ∧
     (s.exe (.cell 1535)).token 63 < 0xFFFF) := by decide +kernel

-- RingsTurnOnAndOff
set_option maxRecDepth 40000 in
theorem witness_RingsTurnOnAndOff :
    mayRing (.host 3) .chipLog = false ∧ mayRing (.host 3) (.work 11 3) = true ∧
    (State.reset.otherAccess (.host 3)).ringOn (.work 11 3) = false ∧
    ((State.reset.setFld .SEQ_WR_BASE_EN 11 1 3).otherAccess (.host 3)).ringOn (.work 11 3) = true ∧
    (let u := ((State.reset.setFld .SEQ_WR_CB_CB 11 0x16000000 3).otherAccess (.host 3)).setRingFields (.work 11 3)
      (0x0#64 ||| 0x8000000000000000#64).toNat
     u.inCoherent (u.ringBase (.work 11 3)) (u.ringSize (.work 11 3) * (ringCfg (.work 11 3)).entry) = true ∧
       u.inCoherent (u.ringCb (.work 11 3)) 128 = true ∧ (u.readBytes (u.ringCb (.work 11 3)) 128).detail = 0) ∧
    (let u := (State.reset.otherAccess (.host 3)).setRingFields (.work 11 3) (0xC00000000000#64 ||| 0x8000000000000000#64).toNat
     u.inCoherent (u.ringBase (.work 11 3)) (u.ringSize (.work 11 3) * (ringCfg (.work 11 3)).entry) = false) ∧
    (let s := (State.reset.setFld .SEQ_CR_BASE_EN 11 1).setRing (.completion 11) { buf := [[1]] }
     s.ringOn (.completion 11) = true ∧ s.rangeFree (s.ringCb (.completion 11) + 64) 8 = true ∧
     (s.ring (.completion 11)).buf = [[1]] ∧ (s.ring (.completion 11)).tail - 0 < s.ringSize (.completion 11)) := by decide +kernel

-- WorkRecordsRun
set_option maxRecDepth 40000 in
theorem witness_WorkRecordsRun :
    (let b : List Byte := leBytes 4 1 ++ leBytes 4 1 ++ List.replicate 56 0
     let s := placed 0xB000000000 b ((State.reset.setFld .SEQ_WR_BASE_EN 11 1 3).setFld .SEQ_WR_BASE_BASE 11 0x2C0000000 3)
     s.fenced = false ∧ s.fld .SEQ_STAT_STATE (11 : Region) = 0 ∧ (s.work (11 : Region)).taken = none ∧
     (s.work (11 : Region)).cur = none ∧ s.seqStalled 11 = false ∧ s.workPoison 11 3 = false ∧ s.workTurn 11 = some 3 ∧
     s.workTurn 11 ≠ some 0 ∧ workRefused (s.workEntry 11 3).bytes = false) ∧
    (let b : List Byte := List.replicate 64 0
     let s := placed 0xB000000000 b ((State.reset.setFld .SEQ_WR_BASE_EN 11 1 3).setFld .SEQ_WR_BASE_BASE 11 0x2C0000000 3)
     let s := s.setMem (s.mem.setWordPoison (0xB000000000 / 64) 1)
     s.workPoison 11 3 = true ∧ (s.work (11 : Region)).poisonSeen = []) ∧
    (∀ op ∈ [0, 1, 2], let s := State.reset.setWork (11 : Region) { taken := some ⟨3, 0, op, 0, 1, 0xB000000000, 2, 9, 5⟩ }
     (s.work (11 : Region)).taken = some ⟨3, 0, op, 0, 1, 0xB000000000, 2, 9, 5⟩ ∧ s.fld .SEQ_STAT_STATE (11 : Region) = 0 ∧
     (s.readBytes 0xB000000000 32).detail = 0 ∧ fieldAt (s.readBytes 0xB000000000 32).bytes 0 1 ≤ 5 ∧
     fieldAt (s.readBytes 0xB000000000 32).bytes 8 6 % 16 = 0) ∧
    (let s := { State.reset.setWork (11 : Region) { cur := some ⟨3, 0, 2, 0, 1, 0, 0, 0, 0⟩, walking := true, slotLimit := 7 } with
       clk := { State.reset.clk with aon := 7 } }
     (s.work (11 : Region)).cur.isSome = true ∧ (s.work (11 : Region)).overran = false ∧
     (s.work (11 : Region)).slotBegan + (s.work (11 : Region)).slotLimit ≤ s.clk.aon) := by decide +kernel

-- SequencerControlsAct
set_option maxRecDepth 40000 in
theorem witness_SequencerControlsAct :
    (let s := State.reset.setFld .REG_SEL_INDEX Bank.kettle.code 12
     (s.otherAccess .kettle).selRegion .kettle = none) ∧
    (∀ st ∈ [1, 3], let s := (State.reset.setFld .REG_SEL_INDEX Bank.kettle.code 11).setFld .SEQ_STAT_STATE 11 st
     (s.otherAccess .kettle).selRegion .kettle = some 11 ∧ (s.otherAccess .kettle).fenced = false ∧
     (s.otherAccess .kettle).seqStopped 11 = decide (st = 3) ∧ (s.exe (.seq 11)).watch = none ∧
     (s.work (11 : Region)).stopDue = false ∧ (s.work (11 : Region)).halts = [] ∧ (s.work (11 : Region)).cur = none) ∧
    ((State.reset.setExe (.seq 11) { watch := some ⟨0, 0, 1, none, false⟩ }).exe (.seq 11)).watch.isSome = true ∧
    (let s := State.reset.setWork (11 : Region) { cur := some ⟨3, 0, 2, 0, 1, 0, 0, 0, 0⟩, paused := some 0 }
     (s.work (11 : Region)).cur.isSome = true ∧ (s.work (11 : Region)).entryFault = false ∧
     (s.work (11 : Region)).paused.isSome = true ∧
     ((s.setFld .SEQ_SLOT_INDEX 11 0).otherAccess .kettle).fld .SEQ_SLOT_INDEX (11 : Region) ≠ 0xFFFF) := by decide +kernel

-- ScalarArithmeticWritesItsRegister
set_option maxRecDepth 40000 in
theorem witness_ScalarArithmeticWritesItsRegister :
    (∀ op ∈ [(0x010 : BitVec 10), 0x011, 0x012, 0x013, 0x014, 0x015, 0x016, 0x017, 0x018, 0x019],
      let w := sWord op 0 3 63 63 1 15 0 0 0 0 0xFFFFFFFFFFFFFFFF
      let s := cellAt w
      goingB s (.cell 1535) w = true ∧ s.ringAccepts (.completion 11) = true ∧ fCls w = 0 ∧ fOp w = op.toNat ∧ fRC w = 0 ∧
      fSUB w = 0 ∧ regsBad (.cell 1535) [fRD w, fRA w, fRB w] = false) ∧
    (let w := sWord 0x019 0 0 0 0 0 31 31 30 0 0 1
     let s := seqAt w
     goingB s (.seq 11) w = true ∧ wf w 97 1 = 0 ∧ (s.work (11 : Region)).halts = [] ∧
     (s.work (11 : Region)).stopDue = false ∧ regsBad (.seq 11) [fRD w, fRA w, fRB w] = false) := by decide +kernel

-- DispatchChecksTokensAndPredicates
set_option maxRecDepth 40000 in
theorem witness_DispatchChecksTokensAndPredicates :
    (let w := sWord 0x011 0 9 62 63 1 15 0 0 0 0 1
     let s := cellAt w
     s.atHead (.cell 1535) = true ∧ s.fetch (.cell 1535) = some w ∧
     illegalDetail (s.exe (.cell 1535)) (.cell 1535) w {} = 0 ∧ (s.exe (.cell 1535)).token (wf w 104 6) = 0) ∧
    (let w := sWord 0x011 0 4 63 0 0 15 0 0 0 0 1
     let s := cellAt w
     s.fetch (.cell 1535) = some w ∧ (s.exe (.cell 1535)).predOk (wf w 110 4) = false ∧
     (s.exe (.cell 1535)).token (wf w 104 6) ≠ 0 ∧ wf w 97 1 = 0 ∧ wf w 98 6 = 0) ∧
    (let w := sWord 0x011 0xD 0 0 0 0 0 0 0 0 0 0
     let s := cellAt w
     s.atHead (.cell 1535) = true ∧ illegalDetail (s.exe (.cell 1535)) (.cell 1535) w {} = 0x10) ∧
    State.reset.atHead (.seq 0) = false ∧
    (let w := sWord 0x019 0 0 0 0 0 31 31 30 0 0 1
     let s := (seqAt w).setExe (.seq 11) { running := true, icache := [(0xB000000000 / 64, BitVec.ofNat 512 w.toNat)] }
     s.atHead (.seq 11) = true ∧ s.fetch (.seq 11) = some w ∧ (s.exe (.seq 11)).icache.contains
       (canonical (s.pcOf (.seq 11) * 16 / 64 * 64) / 64, lineOf (s.readBytes (s.pcOf (.seq 11) * 16 / 64 * 64) 64).bytes) = true) := by decide +kernel

-- ControlInstructionsMoveOn
set_option maxRecDepth 40000 in
theorem witness_ControlInstructionsMoveOn :
    (∀ p ∈ [(sWord 0x020 0 0 0 0 1 0 15 14 0 47 5, 0x020), (sWord 0x021 0 0 0 0 1 0 0 0 0 7 1, 0x021),
        (sWord 0x030 0 0 0 0 1 15 0 0 0 6 0, 0x030), (sWord 0x002 0 0 0 0 1 0 0 0 0 0 0xFFFFFFFFFFFFFFFF, 0x002),
        (sWord 0x003 0 0 0 0 1 0 15 0 0 0 0xFFFFFFFFFFFFFFFF, 0x003), (sWord 0x004 0 0 0 0 1 0 15 0 0 0 0, 0x004),
        (sWord 0x000 0 0 0 0 1 0 0 0 0 0 0, 0x000)],
      let w := p.1
      let s := cellAt w
      goingB s (.cell 1535) w = true ∧ s.ringAccepts (.completion 11) = true ∧ fCls w = 0 ∧ fOp w = p.2 ∧ fRC w = 0 ∧
      regsBad (.cell 1535) [fRD w, fRA w, fRB w] = false ∧ (s.exe (.cell 1535)).flights = [] ∧
      ((s.exe (.cell 1535)).entry 4).isSome = true ∧ s.pcOf (.cell 1535) = 5 ∧ (s.exe (.cell 1535)).reg 15 = 2) ∧
    (let w := sWord 0x001 0 0 0 0 0 0 0 0 0 0 0
     let s := (seqAt w).setWork (11 : Region) { cur := some ⟨3, 0, 2, 0, 2, 0xB000000000, 2, 9, 5⟩, walking := true }
     goingB s (.seq 11) w = true ∧ fOp w = 0x001 ∧ (s.exe (.seq 11)).flights = [] ∧ (s.work (11 : Region)).pauseDue = false ∧
     (s.work (11 : Region)).slotK + 1 < s.slotCount 11 ∧ (s.work (11 : Region)).halts = [] ∧
     (s.work (11 : Region)).stopDue = false) := by decide +kernel

-- ScalarLoadsStoresAndAtomicsReachMemory
set_option maxRecDepth 40000 in
theorem witness_ScalarLoadsStoresAndAtomicsReachMemory :
    (∀ p ∈ [(sWord 0x010 1 0 0 0 1 14 15 0 0 7 0xB00000003E, 8), (sWord 0x011 1 0 0 0 1 0 15 15 0 1 0xB00000003C, 2),
        (sWord 0x012 1 0 0 0 1 14 15 15 15 22 0xB000000036, 8)],
      let w := p.1
      let s := (cellAt w).setCached 95 0x2C0000000 { st := .m }
      let t := (cellAt w).setCached 95 0x2C0000001 { st := .m }
      goingB s (.cell 1535) w = true ∧ regsBad (.cell 1535) [fRD w, fRA w, fRB w, fRC w] = false ∧ (s.exe (.cell 1535)).flights = [] ∧
      (s.spot (.cell 1535) (addrRA (.cell 1535) w s) p.2 = .line 0x2C0000000 62 ∨
       s.spot (.cell 1535) (addrRA (.cell 1535) w s) p.2 = .line 0x2C0000000 56 ∨
       s.spot (.cell 1535) (addrRA (.cell 1535) w s) p.2 = .line 0x2C0000001 0) ∧
      ((s.cached 95 0x2C0000000).map (fun c => c.st ≠ .s && !poisonAt c.poison 56 8) = some true) ∧
      (t.cached 95 0x2C0000001).isSome = true ∧ s.dirOf 0x2C0000001 = none ∧ s.cached 95 0x2C0000001 = none ∧
      s.victimFor 95 0x2C0000001 = none ∧ (s.dirWays 0x2C0000001).length = 0 ∧ s.mem.poison 0x2C0000001 = 0) ∧
    (let w := sWord 0x011 1 0 0 0 1 0 15 15 0 1 0x20017FC0003C
     let s := cellAt w
     goingB s (.cell 1535) w = true ∧ s.spot (.cell 1535) (addrRA (.cell 1535) w s) 2 = .store 0x8005FF0000 62 ∧
     s.asleep [(0x20017FC0003E, 2)] = [] ∧ s.rangeFree 0x20017FC0003E 2 = true ∧
     (∀ p ∈ s.execs, ∀ f ∈ p.2.flights, f.resid = []) ∧ s.storeGone 0x20017FC0003E = false ∧ s.mem.codedAt (0x8005FF0000 / 64) = none) ∧
    (let w := sWord 0x012 1 0 0 0 1 14 15 15 15 0 1
     (cellAt w).spot (.cell 1535) (addrRA (.cell 1535) w (cellAt w)) 4 = .refused) := by decide +kernel

-- TableMovesLoadDescriptorsAndKernels
set_option maxRecDepth 40000 in
theorem witness_TableMovesLoadDescriptorsAndKernels :
    (∀ p ∈ [(sWord 0x018 1 0 0 0 1 0 0 15 0 0x7FF 0, 0x018), (sWord 0x019 1 0 0 0 1 0 0 0 0 0x1FE 0xB00000003E, 0x019),
        (sWord 0x01A 1 0 0 0 1 0 0 0 14 1023 1, 0x01A)],
      let w := p.1
      let s := cellAt w
      goingB s (.cell 1535) w = true ∧ s.ringAccepts (.completion 11) = true ∧ fCls w = 1 ∧ fOp w = p.2 ∧
      regsBad (.cell 1535) [fRD w, fRA w, fRB w, fRC w] = false ∧ s.movesDone (.cell 1535) = true) ∧
    (let w := sWord 0x019 1 0 0 0 1 0 0 0 0 0x1FE 0xB000000040
     let s := cellAt w
     addrRA (.cell 1535) w s % 64 = 0 ∧ s.rangeFree 0xB000000040 128 = true ∧ s.asleep [(0xB000000040, 128)] = [] ∧ (s.exe (.cell 1535)).flights = [] ∧ (s.readBytes 0xB000000040 64).detail = 0 ∧
     (s.readBytes 0xB000000080 64).detail = 0) := by decide +kernel

set_option maxRecDepth 40000 in
theorem witness_TableMovesLoadDescriptorsAndKernels_seq :
    (let w := sWord 0x01A 1 0 0 0 1 0 1 2 3 1023 1
     let s := (seqAt w).setSreg (.seq 11) 2 (2 ^ 63)
     goingB s (.seq 11) w = true ∧ (s.work (11 : Region)).halts = [] ∧ (s.exe (.seq 11)).flights = [] ∧ (s.work (11 : Region)).stopDue = false ∧
     maskCells 11 (s.sreg (.seq 11) (fRA w)) (s.sreg (.seq 11) (fRB w)) = [1535]) := by decide +kernel

-- ElementwiseInstructionsWriteTheirDestination
set_option maxRecDepth 40000 in
theorem witness_ElementwiseInstructionsWriteTheirDestination :
    (∀ p ∈ [(0x0, 3, 0), (1, 3, 2), (2, 3, 2), (3, 3, 2), (5, 3, 0), (0, 5, 0), (2, 5, 3), (0, 6, 0), (1, 6, 0)],
      (let c := if p.1 = 2 ∧ p.2.1 = 3 then 2 else 0
       let w := tWord (BitVec.ofNat 10 p.1) (BitVec.ofNat 4 p.2.1) 1 (if p.2.1 = 6 then 0 else 2) (BitVec.ofNat 8 p.2.2) c 0 0 0
       let s := tensorCell w
       let x : Executor := .cell 1535
       let ds := [s.descr x 1, s.descr x 2, s.descr x 3]
       s.mem.coded = [] ∧ s.repair.abandon = [] ∧ s.repair.reading = [] ∧
       (∀ p ∈ s.execs, ∀ f ∈ p.2.flights, f.resid = []) ∧ goingB s x w = true ∧ (s.exe x).flights = [] ∧
       (∀ d ∈ ds, d.inReach 1535 false = true ∧ ∀ p ∈ d.spans, s.rangeFree p.1 p.2 = true) ∧
       (∀ d ∈ ds, d.valid = true ∧ d.broken = false ∧ d.badTile = false) ∧ rmBad w = false ∧
       widest ((ds.map (·.fmt)).filter fmtArith) = f32 ∧ s.ringOn (.numeric 11) = false)) ∧
    (let w := tWord 0 3 1 2 0 0 0 0 0
     illegalDetail ((tensorCell w).exe (.cell 1535)) (.cell 1535) w
       (vecNeed (.cell 1535) w (tensorCell w) 15 false false true false false false) = 0) ∧
    (let w := tWord 1 3 1 2 0 2 0 0 0x20000000000000#62
     vRes w = true ∧ illegalDetail ((tensorCell w).exe (.cell 1535)) (.cell 1535) w
       (vecNeed (.cell 1535) w (tensorCell w) 6 true false true false false false) = 0x16) := by decide +kernel

-- MatrixAndNormalisingInstructionsComplete
set_option maxRecDepth 40000 in
theorem witness_MatrixAndNormalisingInstructionsComplete :
    (∀ p ∈ [(0, 2, 0), (0, 4, 0), (1, 4, 2), (2, 4, 2), (3, 4, 0), (4, 4, 0), (5, 4, 0)],
      (let w := tWord (BitVec.ofNat 10 p.1) (BitVec.ofNat 4 p.2.1) 10 11 (if p.2.1 = 2 then 12 else 0) 0 0 0
         (BitVec.ofNat 62 (p.2.2 * 2 ^ 60))
       let s := matrixCell w
       let x : Executor := .cell 1535
       s.mem.coded = [] ∧ s.repair.abandon = [] ∧ s.repair.reading = [] ∧
       (∀ p ∈ s.execs, ∀ f ∈ p.2.flights, f.resid = []) ∧ goingB s x w = true ∧ (s.exe x).flights = [] ∧ rmBad w = false ∧ fCls w = p.2.1 ∧ fOp w = p.1 ∧
       (∀ k, k < 9 → (let d := s.descr x (10 + k)
         d.inReach 1535 false = true ∧ d.valid = true ∧ d.broken = false ∧ d.badTile = false)) ∧
       s.ringOn (.numeric 11) = false)) ∧
    (let w := tWord 0 2 10 11 12 0 0 0 0
     illegalDetail ((matrixCell w).exe (.cell 1535)) (.cell 1535) w (mmNeed (.cell 1535) w (matrixCell w)) = 0) ∧
    (let w := tWord 4 4 10 11 0 0 0 0 0
     illegalDetail ((matrixCell w).exe (.cell 1535)) (.cell 1535) w
       (nrmNeed (.cell 1535) w (matrixCell w) false true false [0, 1, 2, 3, 4, 5, 6, 7] [0, 1, 2, 3, 4, 5] [6, 7]) = 0) := by
  decide +kernel

-- TensorMovesGoOnTheirWay
set_option maxRecDepth 40000 in
theorem witness_TensorMovesGoOnTheirWay :
    (∀ p ∈ [(0, 10, 11, 0), (1, 10, 11, 0), (2, 10, 11, 0), (3, 0, 11, 0), (4, 10, 0, 0), (6, 10, 11, 3)],
      (let w := tWord (BitVec.ofNat 10 p.1) 1 (BitVec.ofNat 8 p.2.1) (BitVec.ofNat 8 p.2.2.1) (BitVec.ofNat 8 p.2.2.2) 0 0 0 0
       let s := matrixCell w
       let x : Executor := .cell 1535
       let ds := [s.descr x 10, s.descr x 11]
       goingB s x w = true ∧ fCls w = 1 ∧ fOp w = p.1 ∧ (s.exe x).flights = [] ∧
       (∀ d ∈ ds, ∀ p ∈ d.spans, s.rangeFree p.1 p.2 = true) ∧ s.asleep (ds.flatMap (fun d => d.spans)) = [] ∧
       s.repair.abandon = [] ∧ s.repair.reading = [] ∧ (∀ p ∈ s.execs, ∀ f ∈ p.2.flights, f.resid = []) ∧
       s.mem.coded = [] ∧ s.coh.dir = [] ∧ s.net.items = [] ∧ s.devValid = false ∧ s.portOn 0 = false ∧
       overlaps (s.descr x 10).spans (s.descr x 11).spans = [] ∧ (s.byteList (s.descr x 11).base 4).all (fun y => y.2 == 0) = true)) ∧
    (let w := tWord 0 1 10 11 0 0 0 0 0
     let x : Executor := .cell 1535
     illegalDetail ((matrixCell w).exe x) x w (moveNeed w [10, 11] false false) = 0) ∧
    (let w := tWord 1 1 10 11 0 0 0 0 0
     let x : Executor := .cell 1535
     illegalDetail ((matrixCell w).exe x) x w (peerNeed x w (matrixCell w)) = 0) := by decide +kernel

-- UpdatesFollowTheirShardRecord
set_option maxRecDepth 40000 in
theorem witness_UpdatesFollowTheirShardRecord :
    ∀ p ∈ [(0, 0, 12, 0), (1, 7, 10, 13), (4, 8, 10, 14)],
      (let w := tWord (BitVec.ofNat 10 p.1) 9 (BitVec.ofNat 8 p.2.2.1) 12 (BitVec.ofNat 8 p.2.2.2) 0 0 0 (BitVec.ofNat 62 (p.2.1 * 2 ^ 54))
       let s := updCell w
       let x : Executor := .cell 1535
       let e := (s.group? p.2.1).getD []
       let g := Group0.ofBytes e
       s.mem.coded = [] ∧ s.repair.abandon = [] ∧ s.repair.reading = [] ∧ (∀ p ∈ s.execs, ∀ f ∈ p.2.flights, f.resid = []) ∧
       s.coh.dir = [] ∧ goingB s x w = true ∧ (s.exe x).flights = [] ∧ fCls w = 9 ∧ fOp w = p.1 ∧ s.upd.held p.2.1 = none ∧
       (∀ d ∈ [s.descr x 10, s.descr x 11, s.descr x 12, s.descr x 13, s.descr x 14],
         d.inReach 1535 false = true ∧ ∀ r ∈ d.spans, s.rangeFree r.1 r.2 = true) ∧
       (p.1 ≠ 0 → e ≠ [] ∧ s.rangeFree g.normPtr 4 = true ∧ s.asleep [(g.normPtr, 4)] = [] ∧
         shardCheck (s.readBytes (s.descr x 11).base 64).bytes (s.exe x).ctx.step (p.1 == 4) = none ∧ (s.readBytes (s.descr x 11).base 64).detail = 0 ∧
         illegalDetail (s.exe x) x w (if p.1 = 1 then
             updNeed x w s (fun g => (g.rule == 0 || g.rule == 2) && !g.rowlazy) (fun g => stateEntries g 13)
               (fun g => stateOk s x (s.descr x 10) g 13 && sameShape (s.descr x 12) (s.descr x 10))
           else updNeed x w s (fun g => g.rowlazy) (fun g => 14 :: stateEntries g 12)
               (fun g => stateOk s x (s.descr x 10) g 12 && (s.descr x 14).fmt == 0x0B && (s.descr x 12).extent 0 == (s.descr x 10).extent 0 &&
                 (s.descr x 12).extent 1 == (s.descr x 14).count &&
                 (List.range 3).all (fun k => (s.descr x 12).extent (k + 2) == (s.descr x 10).extent (k + 2)))) = 0)) := by
  decide +kernel

-- TeamsStepAtTheirBarrier
set_option maxRecDepth 40000 in
theorem witness_TeamsStepAtTheirBarrier :
    (let w := tWord 2 9 30 32 40 0 0 0 (BitVec.ofNat 62 (9 * 2 ^ 54))
     let v := tWord 3 9 30 32 50 0 0 0 (BitVec.ofNat 62 (10 * 2 ^ 54))
     let x : Executor := .cell 1535
     goingB (teamCell w) x w = true ∧ goingB (teamCell v) x v = true ∧ fOp v = 3 ∧
     illegalDetail ((teamCell w).exe x) x w (updNeed x w (teamCell w) (fun g => g.rule == 1) (fun _ => (List.range 5).map (fB w + ·)) (fun _ =>
       (let b (i : Nat) : Desc := (teamCell w).descr x (40 + i)
        matOk (b 0) 1 1 && tileOk (b 1) 1 1 && tileOk (b 2) 1 1 && tileOk (b 3) 1 1 && tileOk (b 4) 1 1))) = 0 ∧
     illegalDetail ((teamCell v).exe x) x v (updNeed x v (teamCell v) (fun g => g.rule == 3) (fun _ => (List.range 11).map (fB v + ·)) (fun _ =>
       (List.range 11).all (fun i => matOk ((teamCell v).descr x (50 + i)) 1 1))) = 0 ∧
     (∀ i ∈ [30, 31, 32, 40, 41, 42, 43, 44, 50, 51, 52, 53, 54, 55, 56, 57, 58, 59, 60],
       ((teamCell w).descr x i).inReach 1535 false = true) ∧
     ((teamCell w).exe x).flights = []) ∧
    (let w := tWord 2 9 30 32 40 0 0 0 (BitVec.ofNat 62 (9 * 2 ^ 54))
     let at' (k : Nat) (lost : Bool) (cells : List Nat) : State :=
       (let s := teamCell w
        let o : TeamOp := { word := w, entry := (s.group? 9).getD [], norm := 0, normBad := 0, desc := (s.exe (.cell 1535)).desc, phase := k }
        { s.setExe (.cell 1535) { s.exe (.cell 1535) with
            job := 5, flights := [{ q := .vector, items := 1, step := 1, team := some o }] } with
          jobs := [{ id := 5, region := 11, kind := .launch, waits := [], cells := cells, lost := lost }] })
     (at' 0 false [1535]).waitingCells 11 = [1535] ∧ ((at' 0 false [1535]).teamOf 11).isSome = true ∧
     ((at' 0 true [1535]).teamOf 11).isSome = true ∧ ((at' 18 false [1535]).teamOf 11).isSome = true ∧
     sees (exec (.teamBarrier 11) (at' 0 false [1535])) (fun t =>
       ((t.teamHead 1535).map (fun p => p.2.phase), leNat (t.mem.raw 0x20017FC10058 6))) = some (some 1, 1) ∧
     sees (exec (.teamBarrier 11) (at' 0 true [1535])) (fun t =>
       (t.exe (.cell 1535)).flights.map (fun f => (f.status, f.detail, f.items))) = some [(0xC0, 0x0C, 0)] ∧
     (State.reset.teamOf 11).isNone = true) := by decide +kernel

-- MonitorsWriteTheirRecord
set_option maxRecDepth 40000 in
theorem witness_MonitorsWriteTheirRecord :
    ∀ p ∈ [(0, 15, 0, 0), (0, 15, 0, 3), (1, 11, 13, 1), (1, 11, 13, 3), (2, 11, 0, 0), (2, 11, 11, 0)],
      (let w := tWord (BitVec.ofNat 10 p.1) 0xA (BitVec.ofNat 8 p.2.1) 12 (BitVec.ofNat 8 p.2.2.1) 0 0 0 0
       let s := (updCell w).setFld .NUM_MON_SEL_SEL 11 p.2.2.2
       let x : Executor := .cell 1535
       s.mem.coded = [] ∧ s.repair.abandon = [] ∧ s.repair.reading = [] ∧ (∀ p ∈ s.execs, ∀ f ∈ p.2.flights, f.resid = []) ∧
       Tbl.get s.mem.owner 0 (canonical (s.descr x p.2.1).base / 64) = 0 ∧ s.coh.dir = [] ∧ goingB s x w = true ∧ (s.exe x).flights = [] ∧ fCls w = 0xA ∧ fOp w = p.1 ∧
       s.fld .NUM_MON_SEL_SEL 11 = p.2.2.2 ∧ illegalDetail (s.exe x) x w
         (staNeed x w s (if p.1 = 0 then 32 else 16) (p.1 == 1 || p.2.2.1 != 0) (p.1 == 1)) = 0 ∧
       (∀ d ∈ [s.descr x p.2.1, s.descr x 12, s.descr x 13], d.inReach 1535 false = true ∧ ∀ r ∈ d.spans, s.rangeFree r.1 r.2 = true)) := by
  decide +kernel

-- CollectivesEnterTheirEngine
set_option maxRecDepth 40000 in
theorem witness_CollectivesEnterTheirEngine :
    (let x : Executor := .seq 11
     (∀ p ∈ [(0, 0), (1, 0), (2, 0), (3, 0), (4, 0), (5, 0), (2, 1), (0x11, 0), (0x11, 1), (0x10, 0), (0x10, 3)],
       (let w := tWord (BitVec.ofNat 10 p.1) 7 (if p.1 < 0x10 then 1 else 0) (if p.1 = 0x11 then 0 else if p.1 = 0x10 then 2 else 1) 0 0 0 0
          (BitVec.ofNat 62 (p.2 * 2 ^ 50))
        let s := groupSeq w
        goingB s x w = true ∧ (s.work 11).halts = [] ∧ (s.work 11).stopDue = false ∧ (s.exe x).flights = [] ∧
        s.mem.coded = [] ∧ s.repair.abandon = [] ∧ s.repair.reading = [] ∧ (∀ p ∈ s.execs, ∀ f ∈ p.2.flights, f.resid = []) ∧ s.coh.dir = [] ∧ fCls w = 7 ∧ fOp w = p.1 ∧ cGrp w = p.2 ∧
        (s.group 0).isSome = true ∧ (s.group 3).isNone = true ∧ (s.group 1).any (·.freeing) = true ∧
        illegalDetail (s.exe x) x w (if p.1 < 0x10 then collNeed p.1 x w s else if p.1 = 0x11 then {}
          else { descs := [2], bad := (s.descr x 2).fmt != 0x0B }) = 0 ∧
        (p = (0x10, 3) → s.groupBad 3 ((s.loadRaw (s.descr x 2)).map (·.bits)) [1] = 0 ∧ s.groupEnding 3 = false) ∧
        (p = (0x10, 0) → s.groupBad 0 ((s.loadRaw (s.descr x 2)).map (·.bits)) [1] = 1)))) ∧
    (groupSeq 0).groupEnding 1 = true ∧ (groupSeq 0).groupBusy 1 = false ∧ (groupSeq 0).groupEnding 0 = false := by decide +kernel

-- CollectivesStartAndEnd
set_option maxRecDepth 40000 in
theorem witness_CollectivesStartAndEnd :
    (let c (e : Nat) : Coll := { grp := 0, seq := 0, region := 11, uid := 7, op := 2, epoch := e, lineD := descLine 0xB000001000 0 0 0 [1] []
                                 lineA := descLine 0xB000001040 0 0 0 [1] [], parts := [0], shape := [1] }
     let at' (e : Nat) : State := (let s := groupSeq 0; { s with net := { s.net with colls := [c e] } })
     let f (s : State) : Nat × List Bool × Nat := (s.epoch, s.net.colls.map (·.started), s.net.colls.length)
     (at' 0).collHead 11 = some (c 0) ∧ (at' 0).collStale (c 0) = 0 ∧ (at' 0).collCan (c 0) = true ∧ (at' 0).net.items = [] ∧
     (at' 40000).collStale (c 40000) ≠ 0 ∧ (at' 1).collStale (c 1) = 0 ∧
     sees (exec (.collectiveStart 11 0) (at' 0)) f = some (0, [true], 1) ∧ sees (exec (.collectiveStart 11 0) (at' 1)) f = some (0, [false], 1) ∧
     sees (exec (.epochAdvance 11) (at' 1)) f = some (1, [true], 1) ∧
     ((nextOf (exec (.collectiveStart 11 0) (at' 0))).bind (fun t => nextOf (exec (.collectiveComplete 11 0) t))).map (fun t =>
       (t.net.colls.length, (t.group 0).map (·.ended))) = some (0, some 0) ∧
     ((nextOf (exec (.collectiveStart 11 0) (at' 0))).bind (fun t =>
       nextOf (exec (.collectiveTimeout 11 0) { t with clk := { t.clk with aon := t.collTimeout } }))).map (fun t => t.net.colls.length) = some 0) := by
  decide +kernel

-- CompressionInstructionsComplete
set_option maxRecDepth 40000 in
theorem witness_CompressionInstructionsComplete :
    ∀ p ∈ [(0, 3, 10), (1, 10, 3)],
      (let w := tWord (BitVec.ofNat 10 p.1) 8 (BitVec.ofNat 8 p.2.1) (BitVec.ofNat 8 p.2.2) 0 0 0 0 0
       let s0 := matrixCell w
       let x : Executor := .cell 1535
       let s := s0.setExe x { s0.exe x with desc := (3, descLine 0x20017FC08000 0 2 0 [1] []) :: (s0.exe x).desc }
       let d := s.descr x (fD w)
       let a := s.descr x (fA w)
       goingB s x w = true ∧ fCls w = 8 ∧ fOp w = p.1 ∧ (s.exe x).flights = [] ∧ s.mem.coded = [] ∧ s.coh.dir = [] ∧
       (∀ e ∈ [d, a], ∀ r ∈ e.spans, s.rangeFree r.1 r.2 = true) ∧ s.asleep ([d, a].flatMap (fun d => d.spans)) = [] ∧
       s.repair.abandon = [] ∧ s.repair.reading = [] ∧ (∀ p ∈ s.execs, ∀ f ∈ p.2.flights, f.resid = []) ∧
       overlaps d.spans a.spans = [] ∧ d.sideBytes = 0 ∧ d.compressed = decide (p.1 = 0) ∧ a.compressed = decide (p.1 = 1) ∧
       illegalDetail (s.exe x) x w { descs := [fD w, fA w], dest := some (fD w), bad := d.fmt != a.fmt } = 0 ∧
       (p.1 = 0 → (s.imageBytes d a).all (fun y => y.2 == 0) = true)) := by decide +kernel

-- FarChannelsStoreSegmentsAndEncrypt
set_option maxRecDepth 40000 in
theorem witness_FarChannelsStoreSegmentsAndEncrypt :
    (let g : CodedSegment := ⟨0x158000010000, List.replicate 512 1, List.replicate 16 (true, [7])⟩
     let s0 := ((State.reset.setFld .FMC_STAT_POP 11 1).setFld .FMC_STAT_CAP 11 1)
     let s1 := ((s0.setFld .FMC_CZ_WIN_BASE 11 0x15800001).setFld .FMC_CZ_WIN_END 11 0x15800002).setFld .FMC_CZ_CTRL_TBASE 11 0x15800000
     let s := s1.setFld .FMC_CZ_CTRL_EN 11 1
     g.wf = true ∧ s.place g.dpa = .far 11 ∧ s.rangeFree g.dpa 65536 = true ∧ s.place (g.dpa + 65535) = .far 11 ∧
     s.place (s.fld .FMC_CZ_CTRL_TBASE 11 * 65536) = .far 11 ∧ s.fld .FMC_CZ_CTRL_TBASE 11 * 65536 + 512 ≤ g.dpa ∧
     s.flag .FMC_CZ_CTRL_EN 11 = true ∧ s.czWindow 11 = (g.dpa, g.dpa + 65536) ∧ s1.flag .FMC_CZ_CTRL_EN 11 = false ∧
     s.mem.coded = [] ∧ s.coh.dir = [] ∧
     (let k (s : State) : State := s.setFld .FMC_SEL_INDEX Bank.kettle.code 11
      (s0.otherAccess .kettle).selChan .kettle = some 0 ∧ ((k s1).otherAccess .kettle).selChan .kettle = some 11 ∧
      sees (exec (.fmcCzEnable .kettle 0x8000158000000000#64) (k s1)) (fun t => t.fld .FMC_CZ_CTRL_EN 11) = some 1 ∧
      sees (exec (.fmcCzEnable .kettle 0x8000158000010000#64) (k s1)) (fun t => (t.fld .FMC_CZ_CTRL_EN 11, t.fld .FMC_CZ_STAT_CFGERR 11)) = some (0, 1) ∧
      sees (exec (.fmcCzEnable .kettle 0#64) (k s)) (fun t => t.fld .FMC_CZ_CTRL_EN 11) = some 0 ∧
      (((k s).setFld .FMC_SEL_INDEX Bank.kettle.code 12).otherAccess .kettle).selChan .kettle = none ∧
      sees (exec (.fmcXtsEnable .kettle 1#32) (k (s.setFld .FMC_XTS_KEYED 11 1))) (fun t => t.fld .FMC_XTS_EN 11) = some 1 ∧
      (k s).flag .KTL_BOOT_SEALED 0 = false)) := by decide +kernel

-- SynAndSysInstructionsComplete
set_option maxRecDepth 40000 in
theorem witness_SynAndSysInstructionsComplete :
    (∀ p ∈ [(0, 0, 0, 0, 0), (0, 0, 0, 7, 0), (1, 0, 0, 0, 0), (2, 0, 0, 127, 63), (2, 0, 0, 0xFF, 1), (3, 15, 14, 7, 0xB00000003E),
        (3, 15, 0, 1, 0x20017FC00000), (3, 15, 0, 1, 0xC00000000000)],
      (let w := sWord (BitVec.ofNat 10 p.1) 0xB 0 0 0 0 (BitVec.ofNat 5 p.2.1) (if p.2.2.1 = 14 then 15 else 0) 0 0 (BitVec.ofNat 13 p.2.2.2.1)
         (BitVec.ofNat 64 p.2.2.2.2)
       let x : Executor := .cell 1535
       let s := cellAt w
       goingB s x w = true ∧ wf w 97 1 = 0 ∧ fCls w = 0xB ∧ fOp w = p.1 ∧ regsBad x [fRD w, fRA w, fRB w, fRC w] = false ∧
       (p.1 = 3 → p.2.2.2.1 = 7 → addrRA x w s = 0xB000000040 ∧ s.lineReady x.agent 0x2C0000001 = true ∧ s.dirOf 0x2C0000001 = none ∧
         s.victimFor x.agent 0x2C0000001 = none ∧ (s.place 0xB000000040).coherent = true) ∧
       (sees (exec (if p.1 = 0 then .synFence x w else if p.1 = 1 then .synWait x w else if p.1 = 2 then .synSignal x w else .synWatch x w) s)
         (fun t => (t.pcOf x, (t.exe x).watch.isSome)) = some (if p.2.2.2.1 = 7 && p.1 == 3 then (5, true) else (6, false))))) := by decide +kernel
set_option maxRecDepth 40000 in
theorem witness_SynAndSysInstructionsComplete_sys :
    ∀ p ∈ [(0, 1023, 0), (1, 0, 0), (1, 1, 0), (2, 0, 2), (3, 3, 255), (4, 0, 0x100000), (5, 0, 0x100000), (6, 0, 0)],
      (let w := sWord (BitVec.ofNat 10 p.1) 0xC 0 0 0 0 0 0 0 0 (BitVec.ofNat 13 p.2.1) (BitVec.ofNat 64 p.2.2)
       let x : Executor := .seq 11
       let s := seqAt w
       goingB s x w = true ∧ wf w 97 1 = 0 ∧ wf w 98 6 = 0 ∧ fCls w = 0xC ∧ fOp w = p.1 ∧ (s.work 11).halts = [] ∧
       (s.work 11).stopDue = false ∧ (s.bank (.seq 11)).heldLow = none ∧ s.jobs = [] ∧
       (4 ≤ p.1 → p.1 < 6 → (regAt (addrRA x w s)).map (fun g => (g.reg, g.reg.place.wide)) = some (.REG_SEL, false))) := by decide +kernel
set_option maxRecDepth 40000 in
theorem witness_SynAndSysInstructionsComplete_timeout :
    (let w := sWord 3 0xB 0 0 0 0 15 0 0 0 1 0
     let s0 := cellAt w
     let s := { s0.setExe (.cell 1535) { s0.exe (.cell 1535) with watch := some ⟨0xB000000000, 9, 15, some 7, false⟩ } with
       clk := { s0.clk with aon := 7 } }
     sees (exec (.watchTimeout (.cell 1535)) s) (fun t => (t.pcOf (.cell 1535), t.sreg (.cell 1535) 15)) = some (6, 9)) := by decide +kernel

-- ParameterGroupsAreSetUpAndReleased
/-- A state with a group entry in near memory, to be read by a setup of group 255. -/
def pgState (first extra : Nat) : State :=
  (placed 0xB000000080 (leBytes 128 (first + extra)) State.reset).setFld .UPD_PGSRC_ADDR 0 (0xB000000080 / 128)
/-- What a group command shows. -/
def pgShown (t : State) : List Nat :=
  [t.fld .UPD_PGSTAT_RESULT 0, t.fld .UPD_PGSTAT_DONE 0, t.fld .UPD_PGSTAT_BUSY 0, bit1 (t.group? 255).isSome, t.fld .UPD_PGSTAT_RC_FIRST 0]
/-- The same state with an update of the group in flight, or the group set up. -/
def pgBusy (up fly : Bool) (s : State) : State :=
  (s.iff up (fun s => { s with upd := { s.upd with groups := [(255, [1])] } })).iff fly (fun s =>
    s.setExe (.cell 1535) { flights := [{ q := .vector, pgrp := some 255 }] })
/-- The same state where the group holds three counters from the seventh on. -/
def pgKeeps (s : State) : State := { s with upd := { s.upd with groups := [(255, [1])], counters := [⟨255, 7, 3⟩] } }
/-- The same state with a release of the group waiting. -/
def pgWaiting (s : State) : State := { s with upd := { groups := [(255, [1])], pend := some ⟨true, 255, 0, 0, []⟩ } }
set_option maxRecDepth 40000 in
theorem witness_ParameterGroupsAreSetUpAndReleased :
    (let rows : Nat := 16 + 3 * 2 ^ 448
     let go : W32 := 0x800000FF#32
     ((pgState 0 0).selRegion .kettle).isSome = true ∧
     sees (exec (.pgSetup .kettle go) (pgState 0 0)) pgShown = some [0, 1, 0, 1, 0] ∧
     sees (exec (.pgSetup .kettle go) (pgState 0 (2 ^ 24))) pgShown = some [1, 1, 0, 0, 0] ∧
     sees (exec (.pgSetup .kettle go) (pgState rows 0)) pgShown = some [3, 1, 0, 0, 0] ∧
     sees (exec (.pgSetup .kettle go) ((pgState rows 0).setFld .UPD_RCBASE_EN 0 1)) pgShown = some [0, 1, 0, 1, 0] ∧
     sees (exec (.pgSetup .kettle go) (pgBusy false true ((pgState rows 0).setFld .UPD_RCBASE_EN 0 1))) pgShown = some [0, 0, 1, 0, 0] ∧
     sees (exec (.pgSetup .kettle go) (pgKeeps ((pgState (rows + 32) 0).setFld .UPD_RCBASE_EN 0 1))) pgShown = some [0, 1, 0, 1, 7] ∧
     sees (exec (.pgSetup .kettle 0x000000FF#32) (pgState 0 0)) pgShown = some [0, 0, 0, 0, 0]) := by decide +kernel
set_option maxRecDepth 40000 in
theorem witness_ParameterGroupsAreSetUpAndReleased_release :
    (let go : W32 := 0x800001FF#32
     let s := pgState 0 0
     sees (exec (.pgRelease .kettle go) s) pgShown = some [5, 1, 0, 0, 0] ∧
     sees (exec (.pgRelease .kettle go) (pgBusy true true s)) pgShown = some [0, 0, 1, 1, 0] ∧
     sees (exec (.pgRelease .kettle go) (pgBusy true false s)) pgShown = some [0, 1, 0, 0, 0] ∧
     sees (exec .pgWaitEnd (pgWaiting s)) pgShown = some [0, 1, 0, 0, 0] ∧
     (s.readBytes 0xC00000000000 128).detail = 3) := by decide +kernel

-- LinksTrainRetrainAndAreLost
set_option maxRecDepth 40000 in
theorem witness_LinksTrainRetrainAndAreLost :
    ((linkIn 0 {}).otherAccess .kettle).selLink .kettle = some 23 ∧ (State.reset.otherAccess .kettle).selLink .kettle = some 0 ∧
    sees (exec (.linkEnable .kettle) ((linkIn 0 {}).setFld .LNK_CTRL_ENABLE 23 0)) linkShown = some [1, 0, 0] ∧
    sees (exec (.linkDisable .kettle) (linkIn 3 {})) linkShown = some [0, 4, 0] ∧
    sees (exec (.linkDisable .kettle) (linkIn 1 {})) linkShown = some [0, 0, 0] ∧
    sees (exec (.lnkRetrain .kettle) (linkIn 3 {})) linkShown = some [4, 0, 1] ∧
    sees (exec (.lnkRetrain .kettle) (linkIn 3 { starts := [0, 0, 0, 0, 0, 0, 0] })) linkShown = some [5, 1, 8] ∧
    sees (exec (.lnkUnfence .kettle) (linkIn 5 { starts := [0] })) linkShown = some [1, 0, 0] ∧
    sees (exec (.linkTrained 23 (some ⟨16383, 23⟩)) (linkIn 1 {})) linkShown = some [2, 0, 0] := by decide +kernel
set_option maxRecDepth 40000 in
theorem witness_LinksTrainRetrainAndAreLost_up :
    (let keyed (s : State) : State := { s with ktl := { s.ktl with lms := some [1] } }
     let late (s : State) : State := { s with clk := { s.clk with aon := 1250000 } }
     (linkIn 2 {}).ktl.lms = none ∧ (keyed (linkIn 2 {})).net.items = [] ∧
     sees (exec (.linkUp 23 true) (keyed (linkIn 2 {}))) linkShown = some [3, 0, 0] ∧
     sees (exec (.linkUp 23 false) (keyed (linkIn 2 {}))) (fun t => t.fld .KTL_ALERT_KEYMIS 0) = some 1 ∧
     sees (exec (.linkLockLoss 23) (linkIn 3 {})) linkShown = some [4, 0, 1] ∧
     sees (exec .linkRefclkLoss (linkIn 3 {})) linkShown = some [4, 0, 1] ∧
     sees (exec (.linkRetrainDone 23) (linkIn 4 {})) linkShown = some [3, 0, 0] ∧
     sees (exec (.retrainTimeout 23) (linkIn 4 {})) linkShown = some [4, 0, 0] ∧
     sees (exec (.retrainTimeout 23) (late (linkIn 4 {}))) linkShown = some [1, 2, 1] ∧
     sees (exec (.linkLoss 23) (late (linkIn 4 { leftUpAt := some 0 }))) linkShown = some [1, 2, 1] ∧
     sees (exec (.linkLoss 23) (late (linkIn 2 { leftUpAt := some 0 }))) linkShown = some [2, 2, 0]) := by decide +kernel

-- FlitsCrossALink
/-- A flit with a frame type, SEQ, checks and a body. -/
def flitOf (ftype : Fin 16) (seq : Nat) (fec crc tag : Bool) (body : List Byte) : Flit :=
  ⟨ftype, 3, false, Fin.ofNat 16777216 seq, false, false, 5, [1, 0, 0, 1023], body, fec, crc, tag⟩
/-- What link 23 shows of flits. -/
def flitShown (t : State) : List Nat :=
  [(t.link 23).expect, (t.link 23).wire.length, bit1 (t.link 23).nakSent, (t.link 23).inbox.length, t.fld .LNK_ERR_CRC 23, t.fld .LNK_STAT_STATE 23]
/-- A held flit of link 23. -/
def heldFlit (seq : Nat) : ReplayFlit := ⟨seq, { ftype := 2, vc := 0, body := [] }, flitOf 2 seq true true true []⟩
set_option maxRecDepth 40000 in
theorem witness_FlitsCrossALink :
    (let wr : List Byte := padTo 224 ([1, 0, 0, 0, 0, 0, 0, 0, 0, 0, 0, 0, 63, 0] : List Byte)
     (linkIn 3 {}).linkUp 23 = true ∧ (linkIn 3 {}).fenced = false ∧ (linkIn 3 {}).devValid = false ∧
     (Xact.ofHeader (wr.take 32)).dataLen = 64 ∧
     sees (exec (.flitReceive 23 (flitOf 2 0 false true true [])) (linkIn 3 {})) flitShown = some [0, 1, 1, 0, 0, 3] ∧
     sees (exec (.flitReceive 23 (flitOf 15 0 true true true [])) (linkIn 3 {})) flitShown = some [0, 1, 1, 0, 1, 3] ∧
     sees (exec (.flitReceive 23 (flitOf 2 16777215 true true true [])) (linkIn 3 {})) flitShown = some [0, 1, 1, 0, 0, 3] ∧
     sees (exec (.flitReceive 23 (flitOf 2 0 true true false [])) (linkIn 3 {})) flitShown = some [0, 1, 1, 0, 0, 3] ∧
     sees (exec (.flitReceive 23 (flitOf 2 0 true true false [])) (linkIn 3 { badTagSeq := some 0 })) flitShown = some [0, 0, 0, 0, 0, 5] ∧
     sees (exec (.flitReceive 23 (flitOf 2 16777215 true true true [])) (linkIn 3 { expect := 16777215 })) flitShown = some [0, 0, 0, 0, 0, 3] ∧
     sees (exec (.flitReceive 23 (flitOf 1 0 true true true wr)) (linkIn 3 {})) flitShown = some [1, 0, 0, 1, 0, 3]) := by decide +kernel
set_option maxRecDepth 40000 in
theorem witness_FlitsCrossALink_replay :
    sees (exec (.flitNakReceive 23 8) (linkIn 3 { replay := [heldFlit 7, heldFlit 8, heldFlit 9] })) flitShown = some [0, 2, 0, 0, 0, 3] ∧
    sees (exec (.flitNakReceive 23 8) (linkIn 3 { replay := [heldFlit 8], resendSeq := 8, resends := 8 })) flitShown = some [0, 0, 0, 0, 0, 4] ∧
    sees (exec (.ackTimer 23) (linkIn 3 { ackOwed := true })) flitShown = some [0, 1, 0, 0, 0, 3] ∧
    sees (exec (.keyGenerationSwitch 23) (linkIn 3 { ctr := 2 ^ 32 })) (fun t => [(t.link 23).keyGen, (t.link 23).ctr, t.fld .LNK_STAT_KEYPHASE 23]) =
      some [1, 0, 1] ∧
    sees (exec (.lossFlit 23 16383) ((linkIn 3 {}).setFld .LNK_RT_E3 0 255 4095)) (fun t => [t.routeEntry 16383, (t.errq (.region 11)).recs.length]) =
      some [127, 1] := by decide +kernel

-- TransactionsAreServedAndForwarded
/-- A state with an ID, a transaction in the inbox of link 23, and items and flights of sequencer 11. -/
def inboxOf (x : Xact) (items : List Item) : State :=
  let s := ((linkIn 3 { inbox := [(3, x)] }).setFld .LNK_DEVID_VALID 0 1).setFld .LNK_RTCFG_SIZE 0 1
  let t := s.setExe (.seq 11) { flights := [{ q := .dma, uid := 9, items := 1 }] }
  { t with net := { t.net with items := items, groups := [{ grp := 4095, parts := [0], shape := [1] }]
                               colls := [{ grp := 4095, seq := 0, region := 11, uid := 9, op := 2, started := true }] } }
/-- An item of sequencer 11 under tag 4095 of link 23. -/
def itemOf23 (ty : Nat) : Item := { uid := 9, exec := 11, st := .sent, link := 23, tag := 4095, x := { ttype := ty }, dst := 0xB000000040, left := 1 }
/-- What link 23's traffic left: its inbox, items, flight items and status, collectives, and a byte. -/
def xactShown (t : State) : List Nat :=
  [(t.link 23).inbox.length, t.net.items.length, t.net.colls.length, (t.mem.byte 0xB000000040).toNat] ++
  (t.exe (.seq 11)).flights.flatMap (fun f => [f.items, f.status])
/-- What link 23's traffic left of a collective that has ended. -/
def collLeft (t : State) : List Nat :=
  [(t.link 23).inbox.length, t.net.colls.length] ++ (t.exe (.seq 11)).flights.flatMap (fun f => [f.items, f.status])
set_option maxRecDepth 40000 in
theorem witness_TransactionsAreServedAndForwarded :
    (inboxOf { ttype := 1 } []).inboundBad { ttype := 1 } = none ∧ (linkIn 3 {}).inboundBad { ttype := 1 } = some (0xC1, 4) ∧
    sees (exec (.linkWr 23) (inboxOf { ttype := 1, addr := 0xB000000040, data := [7] } [])) xactShown = some [0, 0, 1, 7, 1, 0] ∧
    sees (exec (.linkWr 23) (inboxOf { ttype := 1, addr := 0xC00000000000, data := [7] } [])) xactShown = some [0, 0, 1, 0, 1, 0] ∧
    sees (exec (.linkRdreq 23) (inboxOf { ttype := 2, addr := 0xB000000040 } [])) xactShown = some [0, 0, 1, 0, 1, 0] ∧
    sees (exec (.linkCdata 23) (inboxOf { ttype := 3, grp := 4095 } [])) xactShown = some [0, 0, 1, 0, 1, 0] ∧
    sees (exec (.linkReady 23) (inboxOf { ttype := 0x13, grp := 4095, op := 2 } [])) xactShown = some [0, 0, 1, 0, 1, 0] ∧
    sees (exec (.linkReady 23) (inboxOf { ttype := 0x13, grp := 4095, op := 3 } [])) collLeft = some [0, 0, 0, 0xC0] ∧
    sees (exec (.linkCabort 23) (inboxOf { ttype := 0x14, grp := 4095 } [])) collLeft = some [0, 0, 0, 0xC1] := by decide +kernel
set_option maxRecDepth 40000 in
theorem witness_TransactionsAreServedAndForwarded_items :
    (let x (ty : Nat) : Xact := { ttype := ty, slink := 23, tag := 4095, status := 0xC0, detail := 3, data := [8] }
     execOf 11 = some (.seq 11) ∧
     sees (exec (.linkWcmp 23) (inboxOf (x 0x10) [itemOf23 1])) xactShown = some [0, 0, 1, 0, 0, 0] ∧
     sees (exec (.linkRdata 23) (inboxOf (x 0x11) [itemOf23 2])) xactShown = some [0, 0, 1, 8, 0, 0] ∧
     sees (exec (.linkRdata 23) (inboxOf (x 0x11) [{ itemOf23 2 with left := 2 }])) xactShown = some [0, 1, 1, 8, 1, 0] ∧
     sees (exec (.linkNak 23) (inboxOf (x 0x12) [itemOf23 1])) xactShown = some [0, 0, 1, 0, 0, 0xC0] ∧
     sees (exec (.linkNak 23) (inboxOf (x 0x12) [itemOf23 2])) xactShown = some [0, 0, 1, 0, 0, 0xC0] ∧
     sees (exec (.transactionForward 23) (linkIn 3 { forwards := [(3, x 1)] })) (fun t => (t.link 23).forwards.length) = some 0 ∧
     (linkIn 3 {}).way 0 false (some (23, 3)) false = .refused) := by decide +kernel
set_option maxRecDepth 40000 in
theorem witness_TransactionsAreServedAndForwarded_tags :
    (let late (s : State) : State := { s with clk := { s.clk with aon := s.txnTimeout 23 } }
     sees (exec (.transactionTimeout 23 4095) (late (inboxOf {} [itemOf23 1]))) xactShown = some [1, 1, 1, 0, 0, 0xC1] ∧
     sees (exec (.transactionTimeout 23 4095) (inboxOf {} [itemOf23 1])) xactShown = some [1, 1, 1, 0, 1, 0] ∧
     sees (exec (.tagRelease 23 4095) (late (inboxOf {} [{ itemOf23 1 with st := .quarantined }]))) xactShown = some [1, 0, 1, 0, 1, 0]) := by
  decide +kernel

-- SamplesAreTakenDividedAndDecoded
/-- A sample of a JPEG of one KiB in stream 15. -/
def jpegAt (at' : SampleAt) : Sample :=
  { uid := 9, req := leBytes 64 (1 * 2 ^ 8 + 15 * 2 ^ 24 + 0xABCDE * 2 ^ 64 + 0xB000002000 * 2 ^ 128 + 1024 * 2 ^ 192)
    entry := 0xB000001000, cost := 3, at_ := at', slot := 255, lane := 1 }
/-- What the pipeline shows. -/
def pipeShown (t : State) : List Nat :=
  t.pipe.samples.map (·.uid) ++ [100, t.pipe.orders, (t.ring .inputEvent).buf.length, (t.ring .manifest).buf.length, (t.ring .coreLane).buf.length,
    (t.lane 0).backlog, (t.lane 1).backlog, (t.lane 0).done, (t.lane 1).done]
/-- A request for a sample of stream 15, with its tag. -/
def request3 : List Byte := leBytes 64 (1 * 2 ^ 8 + 15 * 2 ^ 24 + 1 * 2 ^ 32 + 0xB000002000 * 2 ^ 128 + 1024 * 2 ^ 192)
set_option maxRecDepth 40000 in
theorem witness_SamplesAreTakenDividedAndDecoded :
    sees (exec (.sampleRequest 3) (pipeOn [] request3)) pipeShown = some [1, 100, 0, 0, 0, 0, 0, 0, 0, 0] ∧
    (pipeOn [] request3).requestTurn = some 3 ∧ (pipeOn [] request3).reportsFit = true ∧
    sees (exec (.sampleRequest 3) (pipeOn [] (setAt request3 63 1))) pipeShown = some [100, 0, 1, 1, 0, 0, 0, 0, 0] := by
  decide +kernel
set_option maxRecDepth 40000 in
theorem witness_SamplesAreTakenDividedAndDecoded_dispatch :
    (let s := pipeOn [jpegAt .wait] []
     sees (exec (.sampleDispatch ⟨false, none, none, none⟩) ((s.setFld .COL_CTRL_ENG_EN 0 1))) pipeShown = some [9, 100, 0, 0, 0, 0, 3, 0, 0, 0] ∧
     sees (exec (.sampleDispatch ⟨true, none, none, none⟩) ((s.setFld .COL_CTRL_CORE_EN 0 1))) pipeShown = some [9, 100, 0, 1, 0, 1, 0, 3, 0, 0] ∧
     sees (exec (.sampleDispatch ⟨true, none, some (1024 * 1024 + 65537), none⟩) s) pipeShown = some [100, 0, 1, 1, 0, 0, 0, 0, 0] ∧
     s.freeSlots ≠ [] ∧ s.reportsFit = true) := by decide +kernel
set_option maxRecDepth 40000 in
theorem witness_SamplesAreTakenDividedAndDecoded_return :
    (let s := pipeOn [jpegAt .core] (leBytes 64 (1 * 2 ^ 32 + 0xABCDE * 2 ^ 64))
     s.returned .core (s.rqEntry .coreReturn).bytes = some (jpegAt .core) ∧ s.entryReady .coreReturn = true ∧
     sees (exec (.laneReturn .core) s) pipeShown = some [9, 100, 1, 0, 0, 0, 0, 0, 0, 3] ∧
     sees (exec (.laneReturn .core) (pipeOn [jpegAt .core] (leBytes 64 (0xC0 * 2 ^ 8 + 1 * 2 ^ 32 + 0xABCDE * 2 ^ 64)))) pipeShown =
       some [100, 0, 1, 1, 0, 0, 0, 0, 3] ∧
     sees (exec (.laneReturn .core) (pipeOn [] (leBytes 64 (1 * 2 ^ 32)))) pipeShown = some [100, 0, 0, 0, 0, 0, 0, 0, 0]) := by decide +kernel
set_option maxRecDepth 40000 in
theorem witness_SamplesAreTakenDividedAndDecoded_engine :
    (let s := pipeOn [{ jpegAt (.engine 31) with budget := some 80 }] []
     let late : State := { s with clk := { s.clk with aon := 1 } }
     s.inEngine 31 = some { jpegAt (.engine 31) with budget := some 80 } ∧ s.tooLong (jpegAt (.engine 31)) = false ∧
     sees (exec (.slowLaneAbandon 31) late) pipeShown = some [9, 100, 0, 1, 0, 1, 0, 3, 0, 0] ∧
     sees (exec .laneRatePeriod (s.setLane 5 ⟨8, 16, 1⟩)) (fun t => [(t.lane 5).rate, (t.lane 5).done, (t.lane 5).backlog]) = some [9, 0, 1]) := by
  decide +kernel
/-- A pipeline with that sample, its bytes and a text stream. -/
def textPipe (container : Nat) : State := (pipeOn [textAt container] [0x41, 0xFF]).setStream 15 { rcd := some (leBytes 64 (1 + 8 * 2 ^ 64)) }
set_option maxRecDepth 40000 in
theorem witness_SamplesAreTakenDividedAndDecoded_text :
    (textPipe 0).tooLong (textAt 0) = false ∧
    sees (exec (.sampleDecodeComplete 31 5) (textPipe 0)) (fun t => (pipeShown t, t.mem.byte (t.slotAddr 255), t.mem.byte (t.slotAddr 255 + 4))) =
      some ([9, 100, 1, 1, 0, 0, 0, 0, 3, 0], 0x41#8, 0#8) := by decide +kernel
theorem witness_SamplesAreTakenDividedAndDecoded_limit (h : 1024 * 2 + 65536 < (Sys2Proof.Config.unpack 1 [0x41, 0xFF]).bytes.length) :
    (textPipe 1).inEngine 31 = some (textAt 1) ∧ (textPipe 1).tooLong (textAt 1) = true ∧ (textPipe 1).reportsFit = true := by
  have hb : ((textPipe 1).readBytes (textAt 1).src 2).bytes = [0x41, 0xFF] := by decide +kernel
  have hc : (textAt 1).container = 1 := by decide +kernel
  have hn : (textAt 1).srcLen = 2 := by decide +kernel
  refine ⟨by decide +kernel, ?_, by decide +kernel⟩
  simp [State.tooLong, State.content, hb, hc, hn]
  exact ⟨rfl, by omega⟩

-- SamplesArePackedIntoMicroBatches
/-- A text stream's record: 2 tokens a micro-batch, 4 kept, 3 micro-batches a step from step 7, buffers at 0xB000020000. -/
def textStream (flush : Nat) : List Byte := leBytes 64 (1 + 1 * 2 ^ 8 + 4 * 2 ^ 16 + 2 * 2 ^ 32 + 4 * 2 ^ 64 + 3 * 2 ^ 96 + 7 * 2 ^ 128 +
  0xB000020000 * 2 ^ 192 + 4096 * 2 ^ 256 + 128 * 2 ^ 288 + 0xB000030000 * 2 ^ 320 + 0xEE * 2 ^ 384 + flush * 2 ^ 416)
/-- A decoded sample of some tokens in slot 255, with its number. -/
def doneText (uid units : Nat) : Sample := { textAt 0 with uid := uid, at_ := .done, units := units, order := uid }
/-- A pipeline with a loaded text stream 15, some samples and a micro-batch. -/
def packing (flush : Nat) (l : List Sample) (mb : Option OpenMb) : State :=
  (pipeOn l [0x41, 0xFF]).setStream 15 { rcd := some (textStream flush), mb := mb }
/-- What the packer shows. -/
def packShown (t : State) : List Nat :=
  t.pipe.samples.map (·.uid) ++ [100, (t.stream 15).tail, (t.stream 15).m] ++
    (match (t.stream 15).mb with | some o => [o.buf, o.step, o.micro, o.nsamp, o.units] | none => [])
/-- An open micro-batch of one sample and one unit. -/
def openOne : OpenMb := { buf := 1, step := 7, micro := 2, nsamp := 1, units := 1 }
set_option maxRecDepth 40000 in
theorem witness_SamplesArePackedIntoMicroBatches :
    sees (exec (.samplePack 255) (packing 0 [doneText 9 1] none)) packShown = some [100, 0, 0, 0, 7, 0, 1, 1] ∧
    sees (exec (.samplePack 255) (packing 0 [doneText 9 1] (some openOne))) packShown = some [100, 1, 1] ∧
    sees (exec (.samplePack 255) (packing 0 [doneText 9 2] (some openOne))) packShown = some [100, 2, 2] ∧
    sees (exec (.microbatchFlush 15) (packing 0 [] (some openOne))) packShown = some [100, 0, 0, 1, 7, 2, 1, 1] := by decide +kernel
set_option maxRecDepth 40000 in
theorem witness_SamplesArePackedIntoMicroBatches_flush :
    (let s := packing 5 [] (some openOne)
     let late : State := { s with clk := { s.clk with aon := 5 } }
     sees (exec (.microbatchFlush 15) late) (fun t => packShown t ++ [(t.mem.byte 0xB000021000).toNat, (t.mem.byte 0xB000021008).toNat,
       (t.mem.byte 0xB000030000).toNat, (t.mem.byte 0xB000021084).toNat]) = some [100, 1, 1, 7, 1, 1, 0xEE]) := by decide +kernel
set_option maxRecDepth 40000 in
theorem witness_SamplesArePackedIntoMicroBatches_load :
    (let s := placed 0xB000001000 (textStream 0) (State.reset.setFld .COL_STRSRC_ADDR 0 (0xB000001000 / 64))
     s.readBytes 0xB000001000 64 = ⟨textStream 0, 0⟩ ∧ streamInvalid (textStream 0) = false ∧
     sees (exec (.streamLoad .kettle 15) s) (fun t => ((t.stream 15).rcd, t.fld .COL_STRCMD_DONE 0)) = some (some (textStream 0), 1) ∧
     sees (exec (.streamLoad .kettle 15) State.reset) (fun t => (t.stream 15, t.fld .COL_STRCMD_RESULT 0)) = some ({}, 1) ∧
     sees (exec (.streamUnload .kettle 15) (s.setStream 15 { mb := some openOne })) (fun t => t.fld .COL_STRCMD_RESULT 0) = some 2 ∧
     sees (exec (.streamUnload .kettle 15) (s.setStream 15 { m := 3 })) (fun t => ((t.stream 15).m, t.fld .COL_STRCMD_RESULT 0)) = some (0, 0)) := by
  decide +kernel
set_option maxRecDepth 40000 in
theorem witness_SamplesArePackedIntoMicroBatches_wake :
    (let a := 0x2100BE000000
     let s := ((State.reset.setFld .COL_STRSRC_ADDR 0 (a / 64)).setFld .BLK_PWR_STATE 95 2).setBlk 95 { moving := some 0 }
     let w : State := s.setPipe { s.pipe with strWait := some (15, a) }
     (s.otherAccess .kettle).asleep [(a, 64)] = [95] ∧ ((w.place (canonical a)).store).map (·.1) = some (95 : Block).val ∧
     w.mem.coded = [] ∧ (w.blk 95).moving = some 0 ∧
     sees (exec (.streamLoad .kettle 15) s) (fun t => (t.pipe.strWait, t.fld .COL_STRCMD_DONE 0, t.fld .BLK_PWR_WAKE_REQ 95)) =
       some (some (15, a), 0, 1) ∧
     sees (exec (.blockStateReached 95) w) (fun t => (t.pipe.strWait, t.fld .COL_STRCMD_DONE 0, t.fld .COL_STRCMD_RESULT 0)) =
       some (none, 1, 1)) := by decide +kernel
/-- A replaying pipeline with a record for sample 0 of stream 15 at its ring's HEAD. -/
def replaying (entry : Nat) (l : List Sample) (f : List Refused) : State :=
  let s := (packing 0 l none).setFld .COL_CTRL_REPLAY 0 1
  let s := ((s.setFld .COL_RP_BASE_EN 0 1).setFld .COL_RP_BASE_BASE 0 (0xB000007000 / 64)).setFld .COL_RP_CB_CB 0 (0xB000008000 / 128)
  let s := placed 0xB000007000 (leBytes 64 (2 ^ 32 + (entry + 15 * 2 ^ 56) * 2 ^ 256)) s
  s.setPipe { s.pipe with refused := f }
set_option maxRecDepth 40000 in
theorem witness_SamplesArePackedIntoMicroBatches_replay :
    (let good := 9 * 2 ^ 64 + 4 * 2 ^ 112 + 3 * 2 ^ 128 + 1 * 2 ^ 160
     sees (exec .replayRecord (replaying good [doneText 9 1] [])) packShown = some [100, 0, 0, 0, 9, 4, 1, 4] ∧
     sees (exec .replayRecord (replaying (good + 2 ^ 160) [doneText 9 1] [])) (fun t => t.fld .COL_STAT_RPLERR 0) = some 1 ∧
     sees (exec .replayRecord (replaying (0xC080 * 2 ^ 40) [] [⟨0, 15, 0xC0⟩])) (fun t => (t.pipe.refused, (t.ring .replay).head)) = some ([], 1) ∧
     sees (exec .replayRecord (replaying good [] [])) (fun t => (t.ring .replay).head) = some 0) := by decide +kernel

-- HostRequestsAreCheckedAndServed
/-- What port 3 shows. -/
def portShown (t : State) : List Nat :=
  [(t.port 3).replies.length, t.fld .HPT_ERR_UR 3, t.fld .HPT_ERR_CA 3, t.fld .HPT_ACCERR_VALID 3, (t.mem.byte 0xBFFFFFFFFF).toNat]
/-- A port whose table refuses the entry of an address. -/
def shutAt (a : Nat) : State := (portUp 7).setFld .HPT_ACC_ENT 3 0 (a / 2 ^ 34)
set_option maxRecDepth 40000 in
theorem witness_HostRequestsAreCheckedAndServed :
    sees (exec (.hostPostedWrite 3 0xBFFFFFFFFF [7] false) (portUp 7)) portShown = some [0, 0, 0, 0, 7] ∧
    sees (exec (.hostPostedWrite 3 0xBFFFFFFFFF [7, 8] false) (portUp 7)) portShown = some [0, 1, 0, 0, 7] ∧
    sees (exec (.hostPostedWrite 3 0xBFFFFFFFFF [7] false) (shutAt 0xBFFFFFFFFF)) portShown = some [0, 0, 0, 1, 0] ∧
    sees (exec (.hostPostedWrite 3 0x2100BFFFFFFF [7] false) (portUp 7)) (fun t => t.mem.byte 0x2100BFFFFFFF) = some 7 ∧
    sees (exec (.hostRead 3 0xBFFFFFFFC0 64) (portUp 7)) portShown = some [1, 0, 0, 0, 0] ∧
    sees (exec (.hostRead 3 0xBFFFFFFFC0 65) (portUp 7)) portShown = some [1, 1, 0, 0, 0] ∧
    sees (exec (.hostRead 3 0xBFFFFFFFC0 64) (shutAt 0xBFFFFFFFFF)) portShown = some [1, 0, 1, 1, 0] := by decide +kernel
set_option maxRecDepth 40000 in
theorem witness_HostRequestsAreCheckedAndServed_atomic :
    sees (exec (.hostAtomicop 3 false .cas 8 0xBFFFFFFFF8 (9 * 2 ^ 56) 0) (portUp 7)) portShown = some [1, 0, 0, 0, 9] ∧
    sees (exec (.hostAtomicop 3 false .swap 16 0xBFFFFFFFF0 0 0) (portUp 7)) portShown = some [1, 1, 0, 0, 0] ∧
    sees (exec (.hostAtomicop 3 false .swap 8 0xBFFFFFFFF4 0 0) (portUp 7)) portShown = some [0, 0, 0, 0, 0] ∧
    sees (exec (.hostAtomicop 3 false .fetchAdd 4 0x2100BFFFFFFC 0 0) (portUp 7)) portShown = some [1, 1, 0, 0, 0] ∧
    (portUp 7).mem.poison (0xBFFFFFFFFF / 64) = 0 := by decide +kernel
set_option maxRecDepth 40000 in
theorem witness_HostRequestsAreCheckedAndServed_registers :
    sees (exec (.hostRegisterAccess 3 0x100000 4 (some 11) false) (portUp 7)) (fun t => t.fld .REG_SEL_INDEX (Bank.host 3).code) = some 11 ∧
    sees (exec (.hostRegisterAccess 3 0x100000 4 none false) (portUp 7)) portShown = some [1, 0, 0, 0, 0] ∧
    sees (exec (.hostRegisterAccess 3 0x100000 4 none false) (shutAt 0x300000000000)) portShown = some [1, 0, 1, 1, 0] ∧
    sees (exec (.hostRegisterAccess 3 0x100000 4 none false) ((portUp 7).setFld .KTL_BOOT_KONLY 0 1)) portShown = some [1, 1, 0, 0, 0] ∧
    sees (exec (.configRequest 3 (.busMaster true)) (portUp 7)) (fun t => t.fld .HPT_LSTAT_BME 3) = some 1 ∧
    sees (exec (.configRequest 3 (.read 0)) (portUp 6)) portShown = some [1, 0, 0, 0, 0] := by decide +kernel

-- HostPortsJournalWritesAndAdvanceEpochs
/-- Port 3 up, armed, its gate open and able to send, selected by the Kettle, with what it holds. -/
def portSending (k : HostPort) : State :=
  (((portUp 7).setFld .HPT_LSTAT_BME 3 1).setFld .HPT_SEL_INDEX Bank.kettle.code 3).setPort 3 { k with armed := true }
/-- A read of sequencer 11 into a tensor of one FP32 element in near memory. -/
def hostRd (sent : Bool) : HostRd := { id := 4, exec := 11, uid := 9, addr := 64, len := 4, off := 0, cls := 8, desc := descLine1 0xB000001000 0 1, sent := sent }
/-- A journal entry of class 8. -/
def entry8 : JEntry := { seq := 6, addr := 0x1000, len := 4, cls := 8, sentAt := 0 }
/-- What port 3 sends and holds. -/
def sendShown (t : State) : List Nat :=
  [(t.port 3).out.length, (t.port 3).journal.length, (t.port 3).reads.length, (t.port 3).flushes.length, (t.port 3).waits.length,
   (t.port 3).msiWait.length, t.fld .HPT_EPOCH_EPOCH 3, t.fld .HPT_EPOCH_OPEN 3, t.fld .HPT_EPOCH_CAUSE 3, (t.errq .chip).recs.length]
set_option maxRecDepth 40000 in
theorem witness_HostPortsJournalWritesAndAdvanceEpochs :
    (let s := portSending { reads := [hostRd true], journal := [entry8] }
     linearSpans (Desc.ofLine (hostRd true).desc).plain = [(0, 0xB000001000, 4)] ∧
     sees (exec (.hrdCompletion 3 4 (.data [1, 2, 3, 4] false)) s) sendShown = some [0, 0, 0, 0, 0, 0, 0, 1, 0, 0] ∧
     sees (exec (.hrdCompletion 3 4 (.data [1, 2] false)) s) (fun t => ((t.port 3).reads.map (·.got), t.mem.byte 0xB000001001)) = some ([2], 2) ∧
     sees (exec (.hrdCompletion 3 4 .abort) s) sendShown = some [0, 0, 0, 0, 0, 0, 0, 1, 0, 0] ∧
     sees (exec (.hrdCompletionTimeout 3 4) s) sendShown = some [0, 1, 0, 0, 0, 0, 0, 1, 0, 0] ∧
     sees (exec (.functionLevelReset 3) s) sendShown = some [0, 0, 0, 0, 0, 0, 1, 0, 2, 1] ∧
     sees (exec (.hptAdv .kettle) s) sendShown = some [0, 0, 0, 0, 0, 0, 1, 0, 3, 1] ∧
     sees (exec (.perstAssert 3) s) sendShown = some [0, 0, 0, 0, 0, 0, 1, 0, 1, 1]) := by decide +kernel
set_option maxRecDepth 40000 in
theorem witness_HostPortsJournalWritesAndAdvanceEpochs_journal :
    (let s := (portSending { journal := [entry8], nextSeq := 7 }).setFld .HPT_JCTRL_AUTO_THR 3 1
     let f := portSending { journal := [entry8], flushes := [⟨8, 7, [5]⟩] }
     s.portSends 3 = true ∧ sees (exec (.journalFlushRead 3) s) sendShown = some [1, 1, 0, 1, 0, 0, 0, 1, 0, 0] ∧
     sees (exec (.flushReadCompletion 3 8) f) sendShown = some [1, 0, 0, 0, 0, 0, 0, 1, 0, 0] ∧
     sees (exec (.flushReadTimeout 3 8) f) sendShown = some [0, 0, 0, 0, 0, 0, 0, 1, 0, 0] ∧
     sees (exec (.obdataWrite .kettle 7) s) sendShown = some [1, 2, 0, 0, 0, 0, 0, 1, 0, 0] ∧
     sees (exec (.msigen .kettle 63) s) sendShown = some [1, 1, 0, 0, 0, 0, 0, 1, 0, 0] ∧
     sees (exec (.msigen .kettle 0x13F) s) sendShown = some [1, 1, 0, 1, 0, 0, 0, 1, 0, 0] ∧
     s.selPort .kettle = some 3) := by decide +kernel
set_option maxRecDepth 40000 in
theorem witness_HostPortsJournalWritesAndAdvanceEpochs_link :
    (let s := portSending {}
     let down := (s.setFld .HPT_LSTAT_DLUP 3 0).setPort 3 { armed := true, downAt := some 0 }
     let late : State := { down with clk := { down.clk with aon := 50 } }
     let dark := s.setFld .HPT_LSTAT_DLUP 3 0
     let shut := s.setFld .HPT_EPOCH_OPEN 3 0
     let on : State := { dark with ktl := { dark.ktl with dom := { dark.ktl.dom with hostPort := true } } }
     sees (exec (.hostLinkDown 3) s) (fun t => ((t.port 3).downAt, t.dlUp 3)) = some (some 0, false) ∧
     sees (exec (.hostLinkDownAdvance 3) late) sendShown = some [0, 0, 0, 0, 0, 0, 1, 0, 4, 1] ∧
     sees (exec (.hostLinkUp 3 7 8) on) (fun t => (t.dlUp 3, t.fld .HPT_LSTAT_SPEED 3, t.fld .HPT_LSTAT_NLW 3)) = some (true, 7, 8) ∧
     sees (exec (.hptGateOpen .kettle 0x80000000) shut) (fun t => t.gateOpen 3) = some true ∧
     sees (exec (.hptGateOpen .kettle 0x80000001) shut) (fun t => t.gateOpen 3) = some false ∧
     sees (exec (.obdataWrite .kettle 7) dark) sendShown = some [0, 0, 0, 0, 1, 0, 0, 1, 0, 0] ∧
     sees (exec (.msigen .kettle 0x13F) dark) sendShown = some [0, 0, 0, 0, 0, 1, 0, 1, 0, 0]) := by decide +kernel
set_option maxRecDepth 40000 in
theorem witness_HostPortsJournalWritesAndAdvanceEpochs_perst :
    (let s := (portSending {}).setFld .KTL_SB_LEVEL 0 8
     sees (exec (.perstDeassert 3) (s.setInput 3 { level := true })) (fun t => t.fld .KTL_SB_LEVEL 0) = some 0) := by decide +kernel

-- HandlersTakeEndAndEscalateRecords
/-- Records in the queues of block 95, region 11 and the chip. -/
def errored : State :=
  let r (c sev slot : Nat) : ErrRec := { cause := c, sev := sev, qslot := slot, inst := 1535 }
  ((State.reset.setErrq (.block 95) { recs := [r 0x21 1 0, r 1 2 1] }).setErrq (.region 11) { recs := [r 0x26 1 0, r 0x21 2 63], cur := [] }).setErrq .chip
    { recs := [r 0x04 2 0, r 0x12 2 1, r 0x36 3 2], cur := [0] }
/-- What the queues of block 95, region 11 and the chip hold, and whether the device is fenced. -/
def errShown (t : State) : List Nat :=
  [(t.errq (.block 95)).recs.length, (t.errq (.region 11)).recs.length, (t.errq .chip).recs.length, (t.errq (.region 11)).cur.length, t.fld .RSL_STAT_STATE 0]
set_option maxRecDepth 40000 in
theorem witness_HandlersTakeEndAndEscalateRecords :
    sees (exec (.handlerTake (.region 11)) errored) errShown = some [2, 2, 3, 1, 0] ∧
    sees (exec (.handlerTake (.block 95)) errored) (fun t => (t.blk 95).retiring.map (·.slot)) = some (some 15) ∧
    sees (exec (.handlerTake .chip) errored) errShown = some [2, 2, 3, 0, 2] ∧
    sees (exec (.handlerTimeout .chip) { errored with clk := { errored.clk with aon := 2500000 } }) errShown = some [2, 2, 3, 0, 2] ∧
    sees (exec (.rslPopResolved .kettle .chip) errored) errShown = some [2, 2, 3, 0, 0] ∧
    sees (exec (.rslPopResolved .kettle (.region 11)) (errored.setErrq (.region 11) { recs := [{ qslot := 63 }], cur := [63] })) errShown =
      some [2, 0, 3, 0, 0] ∧
    sees (exec (.rslPopEscalate .kettle (.region 11)) (errored.setErrq (.region 11) { recs := [{ qslot := 63 }], cur := [63] })) errShown =
      some [2, 0, 4, 0, 0] ∧
    sees (exec (.rslPopFault .kettle .chip) errored) errShown = some [2, 2, 2, 0, 2] := by decide +kernel
set_option maxRecDepth 40000 in
theorem witness_HandlersTakeEndAndEscalateRecords_reports :
    sees (exec (.rslFence .kettle) (linkIn 3 {})) (fun t => ((t.link 23).wire.length + (t.link 23).waiting.length, t.fenced)) = some (64, true) ∧
    sees (exec (.rslReport (.host 3) (0x80C0010000000005)) State.reset) errShown = some [0, 0, 1, 0, 0] ∧
    sees (exec (.farChannelFailure 11) State.reset) errShown = some [0, 1, 0, 0, 0] ∧
    sees (exec (.serverCoreError 15) State.reset) (fun t => (errShown t, t.ktl.dom.offline)) = some ([0, 0, 1, 0, 0], [15]) ∧
    sees (exec .fabricError State.reset) errShown = some [0, 0, 1, 0, 2] := by decide +kernel

-- BeatPartnersAreWatchedAndAdopted
/-- A device that watches partner 3, device 16383, reached over link 23 alone, in some state. -/
def watching (st : Nat) (inbox : List Xact) : State :=
  let s := (linkIn 3 { inbox := inbox.map (fun x => (2, x)) }).setFld .RSL_FIFE_CTRL_EN 0 1
  let s := ((s.setFld .LNK_DEVID_VALID 0 1).setFld .LNK_BUNDLE_EN 0 1 15).setFld .LNK_BUNDLE_LINKS 0 (2 ^ 23) 15
  let s := ((s.setFld .RSL_FIFEP_EN 0 1 3).setFld .RSL_FIFEP_PDEV 0 16383 3).setFld .RSL_FIFEP_ALTB 0 15 3
  s.setFld .RSL_FIFES_STATE 0 st 3
/-- A BEAT of that partner. -/
def beatOf (kind : Nat) : Xact := { ttype := 0x20, src := 16383, data := leBytes 32 (kind * 2 ^ 32) }
/-- What partner 3 and the device show. -/
def fifeShown (t : State) : List Nat :=
  [t.fld .RSL_FIFES_STATE 0 3, t.fld .RSL_FIFES_LAST 0 3, (t.fife 3).seq, (t.link 23).inbox.length,
   (t.link 23).waiting.length + (t.link 23).wire.length, (t.errq .chip).recs.length, t.fld .RSL_STAT_STATE 0]
/-- The same state much later. -/
def muchLater (s : State) : State := { s with clk := { s.clk with aon := 100000 } }
set_option maxRecDepth 40000 in
theorem witness_BeatPartnersAreWatchedAndAdopted :
    (watching 1 []).beating = true ∧ (watching 1 []).partners = [3] ∧
    sees (exec .beatSend (muchLater (watching 1 []))) fifeShown = some [1, 0, 1, 0, 0, 0, 0] ∧
    sees (exec (.fifeBeat 23) (muchLater (watching 2 [beatOf 0]))) fifeShown = some [3, 100000, 0, 0, 0, 1, 0] ∧
    sees (exec (.fifeBeat 23) (muchLater (watching 4 [beatOf 2]))) fifeShown = some [4, 0, 0, 0, 0, 0, 0] ∧
    sees (exec (.fifeProbe 23) (muchLater (watching 1 [beatOf 1]))) fifeShown = some [1, 100000, 0, 0, 1, 0, 0] ∧
    sees (exec (.partnerSuspect 3) (muchLater (watching 3 []))) fifeShown = some [2, 0, 0, 0, 1, 1, 0] ∧
    sees (exec (.partnerLossConfirm 3) (muchLater (watching 2 []))) fifeShown = some [4, 0, 0, 0, 64, 2, 2] := by decide +kernel
set_option maxRecDepth 40000 in
theorem witness_BeatPartnersAreWatchedAndAdopted_adoption :
    (let s := State.reset.setFld .LNK_RTCFG_SIZE 0 16383
     s.quiet = true ∧ sees (exec (.fifePartnerArm .kettle 3 0x0F003FFF) s) (fun t => [t.fld .RSL_FIFEP_EN 0 3, t.fld .RSL_FIFEP_PDEV 0 3, t.fld .RSL_FIFEP_ALTB 0 3,
       t.fld .RSL_FIFES_STATE 0 3]) = some [1, 16383, 15, 1] ∧
     sees (exec (.adopt .kettle 16382) s) (fun t => [t.fld .LNK_DEVID_ID 0, t.fld .LNK_DEVID_VALID 0, t.fld .RSL_STAT_STATE 0]) = some [16382, 1, 1] ∧
     sees (exec (.adopt .kettle 16383) s) (fun t => [t.fld .LNK_DEVID_VALID 0, t.fld .RSL_STAT_ADERR 0]) = some [0, 1] ∧
     sees (exec (.adoptDone .kettle) (s.setFld .RSL_STAT_STATE 0 1)) (fun t => t.fld .RSL_STAT_STATE 0) = some 0 ∧
     sees (exec (.adoptDone .kettle) s) (fun t => t.fld .RSL_STAT_ADERR 0) = some 1) := by decide +kernel

-- BootGoesThroughItsStages
/-- A device at a stage of boot, PWR_OK good, with some bytes of flash and the population of channel 11 in its record. -/
def booting (stage : Nat) (flash : Tbl Byte) : State :=
  let s := (State.reset.setFld .KTL_BOOT_STAGE 0 stage).setFld .KTL_SB_LEVEL 0 32
  { s with ktl := { s.ktl with stage1Due := decide (stage = 1), persist := { s.ktl.persist with flash := flash }
                               persona := { s.ktl.persona with spare := List.replicate 96 0x1FFFF, farPop := List.replicate 11 (0, 0) ++ [(1, 64)] } } }
/-- The flash of slot 0 with a firmware object of a TYPE and 4 bytes of payload, for LOAD 0xB000000000. -/
def firmware (type : Nat) : Tbl Byte :=
  let a := (objectArea type).1
  (List.range 132).map (fun i => (a + i, (leBytes 132 (0x57465856 + type * 2 ^ 32 + 4 * 2 ^ 96 + 0xB000000000 * 2 ^ 128 + 0xB000000002 * 2 ^ 192 +
    0x01020304 * 2 ^ 1024)).getD i 0))
/-- What boot shows. -/
def bootShown (t : State) : List Nat :=
  [t.fld .KTL_BOOT_STAGE 0, t.fld .KTL_BOOT_KONLY 0, t.fld .KTL_BOOT_FAIL 0, t.fld .KTL_BOOT_SLOT 0, t.fld .KTL_BOOT_SEALED 0, t.ktl.persist.boots]
set_option maxRecDepth 40000 in
theorem witness_BootGoesThroughItsStages :
    sees (exec (.standbyPowerUp ⟨true, true, 7⟩) (booting 1 [])) bootShown = some [2, 0, 0, 0, 0, 1] ∧
    sees (exec (.standbyPowerUp ⟨true, false, 7⟩) (booting 1 [])) bootShown = some [1, 1, 2, 0, 0, 1] ∧
    sees (exec (.bootSlotChoice ⟨true, true⟩ ⟨true, true⟩) (booting 2 (firmware 1))) bootShown = some [3, 0, 0, 0, 0, 0] ∧
    sees (exec (.bootSlotChoice ⟨true, false⟩ ⟨true, true⟩) (booting 2 (firmware 1))) bootShown = some [2, 1, 3, 0, 0, 0] ∧
    sees (exec (.bootPersonality ⟨true, true⟩) (booting 3 [])) bootShown = some [3, 1, 4, 0, 0, 0] ∧
    sees (exec .bootPowerOn (booting 4 [])) (fun t => (bootShown t, t.fld .FMC_XTS_KEYED 11)) = some ([5, 0, 0, 0, 0, 0], 1) := by decide +kernel
set_option maxRecDepth 40000 in
theorem witness_BootGoesThroughItsStages_later :
    (let seven := booting 7 (firmware 4)
     let up : State := { seven with ktl := { seven.ktl with coreEntry := some 5 } }
     let eight : State := { up with ktl := { up.ktl with runningAt := some 0 }, clk := { up.clk with aon := 1500000000 } }
     (booting 6 (firmware 3)).atStage 6 = true ∧ (booting 6 (firmware 3)).objectOk 0 3 ⟨true, true⟩ = true ∧
     sees (exec (.bootHostFirmware ⟨true, true⟩) seven) (fun t => (t.ktl.coreEntry, t.mem.byte 0xB000000000)) = some (some 0xB000000002, 4) ∧
     sees (exec (.bootHostFirmware ⟨false, true⟩) seven) bootShown = some [7, 1, 6, 0, 0, 0] ∧
     sees (exec .bootRunning up) bootShown = some [8, 0, 0, 0, 0, 0] ∧
     sees (exec .sealTimeout eight) bootShown = some [7, 0, 0, 0, 1, 0]) := by decide +kernel
set_option maxRecDepth 40000 in
theorem witness_BootGoesThroughItsStages_stacks :
    (booting 5 []).atStage 5 = true ∧ farMatches ((booting 5 []).ktl.persona.farPop.getD 11 (0, 0)) ⟨[(64, true)], true, []⟩ = true ∧
    (setBits ((booting 5 []).ktl.persona.spare.getD 95 0) 17).length = 17 ∧
    ((booting 5 []).initBlock 95).fld .BLK_SPARE_SPARE 95 = 16 ∧
    ((booting 5 []).initFar 11 ⟨[(64, true)], true, []⟩).fld .FMC_STAT_CAP 11 = 64 := by decide +kernel
/-- The flash of slot 0 with the header of a personality record bound to this device. -/
def record0 : Tbl Byte :=
  let low := leBytes 32 (0x52505856 + 2 * 2 ^ 32 + 1024 * 2 ^ 96)
  let bind := (List.range 48).map (fun i => Sys2Proof.Config.identity.getD i 0)
  (List.range 128).zip (low ++ bind ++ List.replicate 48 0) |>.map (fun q => (0x400000 + q.1, q.2))
set_option maxRecDepth 40000 in
theorem witness_BootGoesThroughItsStages_record :
    recordOk (leBytes 1024 (0x52505856 + 2 ^ 32 + leNat partName * 2 ^ 64 + 0xA1 * 2 ^ 192 + 4000 * 2 ^ 3840 + 4000 * 2 ^ 3856 + 16 * 2 ^ 3880)) 0 = true ∧
    (booting 3 record0).atStage 3 = true := by decide +kernel
set_option maxRecDepth 40000 in
theorem witness_BootGoesThroughItsStages_bound (h : Sys2Proof.Config.identity.length = 48) :
    (booting 3 record0).objectOk 0 2 ⟨true, true⟩ = true := by
  have hl : ∀ l : List Byte, l.length = 48 → (List.range 48).map (fun i => l.getD i 0) = l := by
    intro l hl
    apply List.ext_getElem
    · simp [hl]
    · intro i h1 h2
      simp [h2]
  have hb : part ((booting 3 record0).objHeader 0 2) 32 79 = (List.range 48).map (fun i => Sys2Proof.Config.identity.getD i 0) := by rfl
  unfold State.objectOk
  simp only [hb, hl _ h, decide_true, Bool.or_true, Bool.and_true]
  decide +kernel

-- MailboxCommandsAreAnswered
/-- A command block of 64 bytes, or 65, with its ARGS from byte 8 on. -/
def mbBlock (cmd len args : Nat) : List Byte := leBytes len (cmd + len * 2 ^ 32 + args * 2 ^ 64)
/-- A device with an identity and a secured session on I3C. -/
def secured : State := { State.reset with ktl := { State.reset.ktl with identity := true, spdm := [(4, { session := true })], persona := { pmax := 5 } } }
/-- What a session's answer shows: RESULT, and the number of bytes. -/
def vendorShown (a : Answer) : Option (List Nat) := sees a (fun t => match (t.spdmOn .i3c).responses with
  | [.vendor l] => [fieldAt l 2 1, l.length]
  | _ => [])
set_option maxRecDepth 40000 in
theorem witness_MailboxCommandsAreAnswered :
    (let m (cmd args : Nat) := MbSource.session .i3c (mbBlock cmd 64 args)
     (vendorShown (exec (.getInfo (m 1 0)) secured)).map (·.take 1) = some [0] ∧
     vendorShown (exec (.getTelemetry (m 2 0)) secured) = some [5, 64] ∧
     vendorShown (exec (.getRetired (m 3 0)) { secured with repair := { retired := [(95, 16)] } }) = some [0, 66] ∧
     vendorShown (exec (.setPowerCap (m 0x10 (9 + 100 * 2 ^ 16))) secured) = some [0, 64] ∧
     vendorShown (exec (.setPowerCap (m 0x10 (9 + 101 * 2 ^ 16))) secured) = some [3, 64] ∧
     vendorShown (exec (.setHclk (m 0x11 (0x8000 + 800 * 2 ^ 16))) secured) = some [0, 64] ∧
     vendorShown (exec (.linkSecret (m 0x20 7)) secured) = some [0, 64] ∧
     vendorShown (exec (.linkRekey (m 0x21 0x800000)) secured) = some [0, 64] ∧
     vendorShown (exec (.getInfo (m 0x99 0)) secured) = some [1, 64]) := by decide +kernel
set_option maxRecDepth 40000 in
theorem witness_MailboxCommandsAreAnswered_flash :
    (let m (cmd len args : Nat) := MbSource.session .i3c (mbBlock cmd len args)
     vendorShown (exec (.flashErase (m 0x30 64 (0x2000000 + 512 * 2 ^ 32)) true) secured) = some [0, 64] ∧
     vendorShown (exec (.flashErase (m 0x30 64 (0x2000000 + 513 * 2 ^ 32)) true) secured) = some [3, 64] ∧
     vendorShown (exec (.flashWrite (m 0x31 65 0x3FFFFFF) true) secured) = some [0, 65] ∧
     vendorShown (exec (.flashWrite (m 0x31 65 0x3FFFFFF) false) secured) = some [6, 65] ∧
     vendorShown (exec (.setPending (m 0x32 64 0) []) secured) = some [4, 64] ∧
     vendorShown (exec (.commit (m 0x33 64 0)) secured) = some [5, 64] ∧
     vendorShown (exec (.advanceSvn (m 0x34 64 0)) secured) = some [0, 64] ∧
     vendorShown (exec (.seal (m 0x40 64 0)) secured) = some [0, 64]) := by decide +kernel
set_option maxRecDepth 40000 in
theorem witness_MailboxCommandsAreAnswered_resets :
    (let m (cmd : Nat) := MbSource.session .i3c (mbBlock cmd 64 0)
     sees (exec (.resetDevice (m 0x41)) secured) (fun t => (t.fld .KTL_BOOT_STAGE 0, t.ktl.resetting)) = some (3, true) ∧
     sees (exec (.resetKettle (m 0x42)) { secured with ktl := { secured.ktl with stage1Due := false } }) (fun t => t.ktl.stage1Due) = some true) := by
  decide +kernel
set_option maxRecDepth 40000 in
theorem witness_MailboxCommandsAreAnswered_bank :
    (let s := placed 0xBFFFFFFF00 (mbBlock 3 64 0) State.reset
     let s : State := { s with repair := { retired := [(95, 16)] }, ktl := { s.ktl with doorbells := [(Bank.kettle.code, 0xBFFFFFFF00)] } }
     s.readBytes 0xBFFFFFFF00 64 = ⟨mbBlock 3 64 0, 0⟩ ∧
     sees (exec (.getRetired (.bank .kettle)) s) (fun t => [t.fld .KTL_MB_STAT_DONE 32, (t.mem.byte 0xBFFFFFFF04).toNat, (t.mem.byte 0xBFFFFFFF40).toNat,
       t.ktl.doorbells.length]) = some [1, 66, 0x5F, 0] ∧
     sees (exec (.seal (.bank (.cluster 15))) { s with ktl := { s.ktl with doorbells := [(19, 0xBFFFFFFF00)] } }) (fun t => t.ktl.doorbells.length) = some 1) := by
  decide +kernel

-- AttestationRequestsAreAnswered
/-- A device with an identity whose I3C transport has some record. -/
def attested (d : Spdm) : State := { State.reset with ktl := { State.reset.ktl with identity := true, spdm := [(4, d)] } }
set_option maxRecDepth 40000 in
theorem witness_AttestationRequestsAreAnswered :
    (let d : Spdm := { version := true, caps := true, algs := true, handshake := true, signed := some [1] }
     (attested d).transportOn .i3c = true ∧ (attested d).ktl.identity = true ∧ State.reset.ktl.identity = false ∧
     sees (exec (.spdmGetVersion .i3c) (attested {})) (fun t => (t.spdmOn .i3c).responses) = some [.version] ∧
     sees (exec (.spdmGetCapabilities .i3c) (attested {})) (fun t => (t.spdmOn .i3c).responses) = some [.error 4] ∧
     sees (exec (.spdmNegotiateAlgorithms .i3c) (attested d)) (fun t => (t.spdmOn .i3c).responses) = some [.algorithms] ∧
     sees (exec (.spdmFinish .i3c true) (attested d)) (fun t => ((t.spdmOn .i3c).responses, (t.spdmOn .i3c).session)) = some ([.finish], true) ∧
     sees (exec (.spdmEndSession .i3c) (attested { d with session := true })) (fun t => (t.spdmOn .i3c).responses) = some [.endSession] ∧
     sees (exec (.spdmMlDsaSignature .i3c) (attested {})) (fun t => (t.spdmOn .i3c).responses) = some [.error 4]) := by decide +kernel

-- PowerAndTemperatureAreHeld
/-- A device whose record gives PMAX 4,000, PFAST 4,100, TJ_THR 100 and CSTEP_MIN 16, with a cap of 3,600 W, at some step. -/
def powered (ncap atMin : Nat) : State :=
  let s := State.reset.setFld .KTL_PWR_PCAP 0 3600
  { s with ktl := { s.ktl with standby := true, persona := { pmax := 4000, pfast := 4100, tjThr := 100 }, power := { s.ktl.power with ncap := ncap, atMin := atMin } } }
/-- What the power loop shows. -/
def powerShown (t : State) : List Nat :=
  [t.fld .KTL_PWR_NCUR 0, t.fld .KTL_PWR_THROT 0, t.ktl.power.ncap, t.ktl.power.nthermal, t.ktl.power.atMin, t.ktl.power.hclk.getD 15 0,
   t.fld .KTL_ALERT_CAP 0, t.fld .KTL_ALERT_FAST 0, t.fld .RSL_STAT_STATE 0]
set_option maxRecDepth 40000 in
theorem witness_PowerAndTemperatureAreHeld :
    sees (exec (.powerTick ⟨4020, 4800, 50, 0, []⟩) (powered 32 0)) powerShown = some [31, 1, 31, 32, 0, 3200, 0, 0, 0] ∧
    sees (exec (.powerTick ⟨3572, 4800, 50, 0, []⟩) (powered 27 0)) powerShown = some [27, 1, 27, 32, 0, 3200, 0, 0, 0] ∧
    sees (exec (.powerTick ⟨4020, 4800, 100, 0, []⟩) (powered 17 0)) powerShown = some [16, 1, 16, 30, 1, 3200, 1, 0, 0] ∧
    sees (exec (.powerTick ⟨4020, 4800, 50, 0, []⟩) (powered 16 9)) powerShown = some [16, 1, 16, 32, 10, 3000, 0, 0, 0] ∧
    sees (exec (.fastLimit 4101) (powered 32 0)) powerShown = some [16, 9, 16, 32, 0, 3200, 1, 1, 0] ∧
    sees (exec (.fastLimit 4100) (powered 32 0)) powerShown = some [32, 0, 32, 32, 0, 3200, 0, 0, 0] ∧
    sees (exec (.thermalTrip 115) (powered 32 0)) (fun t => (powerShown t, t.thermtripN)) = some ([32, 0, 32, 32, 0, 3200, 0, 0, 2], true) ∧
    sees (exec (.thermalTrip 114) (powered 32 0)) (fun t => t.thermtripN) = some false := by decide +kernel
set_option maxRecDepth 40000 in
theorem witness_PowerAndTemperatureAreHeld_telemetry :
    sees (exec (.telemetryTick ⟨4020, 4800, 50, 13, [1, 2]⟩) ((powered 32 0).setFld .KTL_TEL_CTRL_PERIOD 0 1))
      (fun t => ((t.ring .telemetry).buf.map (fun r => [fieldAt r 22 2, fieldAt r 24 2, fieldAt r 26 2, fieldAt r 49 1]), t.ktl.lastTel)) =
      some ([[4020, 4800, 3600, 2]], some 0) := by decide +kernel

-- SidebandsSuppliesAndClocksAct
/-- A device whose domains are all on, with PWR_OK honoured as a level. -/
def mainPower (good : Bool) : State :=
  let s := State.reset.setFld .KTL_SB_LEVEL 0 (if good then 32 else 0)
  { s with ktl := { s.ktl with standby := true, inputs := [(5, { level := good })], dom := { hostPort := true, fabric := true, logic := true, cores := true, far := true } } }
/-- What keeps main power away, with the boot stage, the honoured levels and the fence. -/
def supplyShown (t : State) : List Nat :=
  [t.ktl.losses.length, t.fld .KTL_BOOT_STAGE 0, t.fld .KTL_SB_LEVEL 0, t.fld .RSL_STAT_STATE 0, t.fld .RSL_STAT_FCAUSE 0, bit1 t.ktl.resetting,
   bit1 t.ktl.dom.hostPort, t.fld .KTL_SB_HELD 0, t.fld .KTL_SB_CHATTER 0, t.fld .KTL_SB_STUCK 0]
set_option maxRecDepth 40000 in
theorem witness_SidebandsSuppliesAndClocksAct :
    sees (exec .pwrOkLoss (mainPower true)) supplyShown = some [1, 1, 0, 2, 0x36, 0, 0, 0, 0, 0] ∧
    sees (exec .vin48Fault (mainPower true)) supplyShown = some [1, 1, 32, 2, 0x36, 0, 0, 0, 0, 0] ∧
    sees (exec .sysRefclkLoss (mainPower true)) supplyShown = some [1, 1, 32, 2, 0x36, 0, 0, 0, 0, 0] ∧
    sees (exec .aonClockLoss (mainPower true)) (fun t => (supplyShown t, t.faultN)) = some ([0, 1, 32, 2, 0x36, 0, 1, 0, 0, 0], true) ∧
    sees (exec .standbyLoss (mainPower true)) supplyShown = some [0, 1, 0, 0, 0, 0, 0, 0, 0, 0] ∧
    sees (exec .pcieRefclkLoss (portUp 7)) (fun t => (t.dlUp 3, t.fld .HPT_EPOCH_EPOCH 3)) = some (false, 0) := by decide +kernel
set_option maxRecDepth 40000 in
theorem witness_SidebandsSuppliesAndClocksAct_regained :
    (let away (w : Loss) (good : Bool) : State := { (mainPower good) with ktl := { (mainPower good).ktl with losses := [w], dom := {} } }
     sees (exec .pwrOkRestore (away .pwrOk false)) supplyShown = some [0, 3, 32, 0, 0, 1, 0, 0, 0, 0] ∧
     sees (exec .vin48Restore (away .vin48 true)) supplyShown = some [0, 3, 32, 0, 0, 1, 0, 0, 0, 0] ∧
     sees (exec .sysRefclkReturn (away .sysRefclk false)) supplyShown = some [0, 1, 0, 0, 0, 0, 0, 0, 0, 0]) := by decide +kernel
set_option maxRecDepth 40000 in
theorem witness_SidebandsSuppliesAndClocksAct_inputs :
    (let now (n : Nat) (s : State) : State := { s with clk := { s.clk with aon := n } }
     let chatty := { State.reset with ktl := { State.reset.ktl with inputs := [(4, { level := true, changes := (List.range 19).map (fun i => 1000 * i) })] } }
     let held := ((State.reset.setFld .KTL_SB_HELD 0 16).setFld .KTL_SB_LEVEL 0 16)
     let long := State.reset.setFld .KTL_SB_LEVEL 0 16
     sees (exec (.sidebandLevelChange 4 false) (now 19000 chatty)) supplyShown = some [0, 1, 16, 0, 0, 0, 0, 16, 16, 0] ∧
     sees (exec (.sidebandLevelChange 4 false) (now 31000 chatty)) supplyShown = some [0, 1, 0, 0, 0, 0, 0, 0, 0, 0] ∧
     sees (exec (.sidebandLevelChange 4 true) State.reset) supplyShown = some [0, 1, 16, 0, 0, 0, 0, 0, 0, 0] ∧
     sees (exec (.chatterHoldEnd 4) (now 2500000 held)) supplyShown = some [0, 1, 0, 0, 0, 0, 0, 0, 0, 0] ∧
     sees (exec (.chatterHoldEnd 4) (now 2499999 held)) supplyShown = some [0, 1, 16, 0, 0, 0, 0, 16, 0, 0] ∧
     sees (exec (.sidebandStuck 4) (now 250000001 long)) supplyShown = some [0, 1, 16, 0, 0, 0, 0, 0, 0, 16] ∧
     sees (exec (.sidebandStuck 4) (now 250000000 long)) supplyShown = some [0, 1, 16, 0, 0, 0, 0, 0, 0, 0]) := by decide +kernel

-- CoherenceStepsKeepMemoryCanonical
/-- A write of byte 0 of line 0 at home 0, ahead of another command, over a memory that lists two bytes. -/
def canonWrite : State :=
  { State.reset.setReqs 0 [⟨.wrNC, 211, 0, 0, 0, .store ⟨1, 0, false⟩⟩] with
    pending := [.wrnc 0 211 0, .pwrOkLoss], mem := { bytes := [(0, 7), (9, 1)] } }
set_option maxRecDepth 40000 in
theorem witness_CoherenceStepsKeepMemoryCanonical :
    canonWrite.mem.wf = true ∧ canonWrite.pending = [.wrnc 0 211 0, .pwrOkLoss] ∧ cohCommand (.wrnc 0 211 0) = true ∧
    sees (step canonWrite) (fun t => (t.mem.bytes, t.mem.wf, t.pending)) = some ([(9, 1)], true, [.pwrOkLoss]) := by decide +kernel

end Sys2Proof.Tests
end

section
/-! SUPPORT. The state right after reset. -/

namespace Sys2Proof

/-- A table with no entry reads the same everywhere. -/
theorem Tbl.get_nil {α : Type} (d : α) (k : Nat) : Tbl.get ([] : Tbl α) d k = d := rfl

end Sys2Proof

namespace Sys2Proof.Machine

/-- After reset every register field reads its reset value (R9). -/
theorem reset_fld (f : Fld) (i j : Nat) : State.reset.fld f i j = f.rst := Tbl.get_nil _ _

/-- Memory that lists nothing reads as unlisted bytes everywhere. -/
theorem reset_byte (a : Nat) : State.reset.mem.byte a = unlistedByte := Tbl.get_nil _ _

/-- After reset no budget is enforced (R44). -/
theorem reset_budgetOn (b : BudgetRes) : State.reset.budgetOn b = false := by
  rw [State.budgetOn, State.flag, reset_fld]
  rfl

/-- Settles O5: each register table, memory and queue of State.reset is empty, so each part reads as an unlisted entry does. -/
theorem resetLeavesRegistersAtTheirResetValues : Obligations.ResetLeavesRegistersAtTheirResetValues := by
  refine ⟨reset_fld, fun who => ?_, reset_budgetOn, reset_mem_wf, reset_byte, rfl, rfl, fun q => ?_, fun l => ?_⟩
  · exact ⟨reset_fld _ _ _, reset_fld _ _ _, reset_fld _ _ _, reset_fld _ _ _, reset_fld _ _ _, reset_fld _ _ _, reset_fld _ _ _,
      reset_fld _ _ _, reset_fld _ _ _⟩
  · exact congrArg ErrQ.recs (Tbl.get_nil ({} : ErrQ) q.code)
  · exact Tbl.get_nil ({} : LinkSt) l

end Sys2Proof.Machine
end

section
/-! SUPPORT. Register fields: which of them an operation may change, and which traffic leaves alone. -/

namespace Sys2Proof.Machine

/-- Every register field whose number is outside a list reads as before, wherever it is kept. -/
def FldsBut (cs : List Nat) (s t : State) : Prop := ∀ (f : Fld) (i j : Nat), f.code ∉ cs → t.fld f i j = s.fld f i j

theorem FldsBut.refl (cs : List Nat) (s : State) : FldsBut cs s s := fun _ _ _ _ => rfl

theorem FldsBut.trans {cs : List Nat} {s t u : State} (h : FldsBut cs s t) (k : FldsBut cs t u) : FldsBut cs s u :=
  fun f i j hf => (k f i j hf).trans (h f i j hf)

theorem FldsBut.mono {cs ds : List Nat} {s t : State} (h : FldsBut cs s t) (hs : cs ⊆ ds) : FldsBut ds s t :=
  fun f i j hf => h f i j (fun hc => hf (hs hc))

/-- An operation that leaves the register table alone changes no field. -/
theorem FldsBut.of_regs {cs : List Nat} {s t : State} (h : t.regs = s.regs) : FldsBut cs s t :=
  fun f i j _ => by rw [State.fld, State.fld, h]

theorem fldsBut_setFld {cs : List Nat} (s : State) (f : Fld) (i v j : Nat) (h : f.code ∈ cs) : FldsBut cs s (s.setFld f i v j) :=
  fun _ _ _ hg => s.fld_setFld_code v (fun e => hg (e ▸ h))

/-- What each step of a loop changes bounds what the loop changes. -/
theorem fldsBut_foldl {α : Type} {cs : List Nat} {g : State → α → State} (h : ∀ s a, FldsBut cs s (g s a)) (l : List α) (s : State) :
    FldsBut cs s (l.foldl g s) :=
  foldl_keeps (fun t => FldsBut cs s t) g (fun t a ht => ht.trans (h t a)) l (FldsBut.refl cs s)

theorem FldsBut.flag {cs : List Nat} {s t : State} (h : FldsBut cs s t) {f : Fld} (hf : f.code ∉ cs) (i j : Nat) :
    t.flag f i j = s.flag f i j := by rw [State.flag, State.flag, h f i j hf]

/-- The decode of the address map depends on FMC_STAT alone (R56). -/
theorem State.place_of_flds {s t : State} {cs : List Nat} (h : FldsBut cs s t)
    (hp : Fld.FMC_STAT_POP.code ∉ cs) (hc : Fld.FMC_STAT_CAP.code ∉ cs) (a : Nat) : t.place a = s.place a := by
  have hb : ∀ f, t.farBytes f = s.farBytes f := fun f => by
    rw [State.farBytes, State.farBytes, h.flag hp, h _ _ _ hc]
  simp only [State.place, hb]

/-! ## Traffic -/

/-- Nothing but traffic and the FCLKs that run differs between two states. -/
def TrafficOnly (s t : State) : Prop := t = s.trafficOf t

theorem TrafficOnly.refl (s : State) : TrafficOnly s s := rfl

theorem TrafficOnly.trans {s t u : State} (h : TrafficOnly s t) (k : TrafficOnly t u) : TrafficOnly s u := by
  unfold TrafficOnly at *
  rw [k, h]
  rfl

theorem trafficOnly_foldl {α : Type} {g : State → α → State} (h : ∀ s a, TrafficOnly s (g s a)) (l : List α) (s : State) :
    TrafficOnly s (l.foldl g s) :=
  foldl_keeps (fun t => TrafficOnly s t) g (fun t a ht => ht.trans (h t a)) l (TrafficOnly.refl s)

section
variable {s t : State} (h : TrafficOnly s t)
include h
theorem TrafficOnly.regs : t.regs = s.regs := by rw [h]; rfl
theorem TrafficOnly.mem : t.mem = s.mem := by rw [h]; rfl
theorem TrafficOnly.coh : t.coh = s.coh := by rw [h]; rfl
theorem TrafficOnly.execs : t.execs = s.execs := by rw [h]; rfl
theorem TrafficOnly.hosts : t.hosts = s.hosts := by rw [h]; rfl
theorem TrafficOnly.flds (cs : List Nat) : FldsBut cs s t := FldsBut.of_regs h.regs
end

theorem startFclk_traffic (s : State) (r : Nat) : TrafficOnly s (s.startFclk r) := rfl

theorem ask_traffic (s : State) (m : Mover) (cls n : Nat) (res : BudgetRes) : TrafficOnly s (s.ask m cls n res) := by
  unfold State.ask
  dsimp only
  split <;> rfl

theorem owe_traffic (s : State) (cls n : Nat) (res : BudgetRes) : TrafficOnly s (s.owe cls n res) := rfl

theorem oweRoute_traffic (s : State) (cls n p q : Nat) : TrafficOnly s (s.oweRoute cls n p q) :=
  trafficOnly_foldl (fun s res => owe_traffic s cls n res) _ s

theorem haul_traffic (s : State) (m : Mover) (cls a n : Nat) (write : Bool) : TrafficOnly s (s.haul m cls a n write) := by
  refine trafficOnly_foldl (fun s p => ?_) _ s
  dsimp only
  split
  · exact TrafficOnly.refl s
  · exact (startFclk_traffic s _).trans (trafficOnly_foldl (fun s res => ask_traffic s m cls p.2 res) _ _)

theorem askMem_traffic (s : State) (cls line : Nat) : TrafficOnly s (s.askMem cls line) :=
  trafficOnly_foldl (fun s res => ask_traffic s _ cls 64 res) _ s

theorem oweSnoop_traffic (s : State) (cls line a x y : Nat) : TrafficOnly s (s.oweSnoop cls line a x y) :=
  (oweRoute_traffic s cls x _ _).trans (oweRoute_traffic _ cls y _ _)

end Sys2Proof.Machine
end

section
/-! SUPPORT. The register fields a write to memory may change: the power states of blocks it wakes, and the count of coded slots it
makes plain. -/

namespace Sys2Proof.Machine

/-- The numbers of the register fields that a write to memory or to a store may change when its place is populated (R29, R30, R425). -/
def writeFlds : List Nat := [Fld.BLK_PWR_STATE.code, Fld.BLK_PWR_WAKE_REQ.code, Fld.FMC_CZ_STAT_UNCODED.code]

theorem State.farForget_regs (s : State) (line : Nat) : (s.farForget line).regs = s.regs := by
  unfold State.farForget
  dsimp only
  split <;> rfl

theorem memWrite_flds (s : State) (line : Nat) (w : LineWrite) : FldsBut writeFlds s (s.memWrite line w) := by
  have h : FldsBut writeFlds s ((s.setMem (s.mem.writeLine line w)).farForget line) :=
    FldsBut.of_regs (by rw [State.farForget_regs]; rfl)
  unfold State.memWrite
  dsimp only
  split
  · exact h.trans (fldsBut_setFld _ _ _ _ _ (by decide))
  · exact h

theorem wake_regs (s : State) (a line : Nat) : (s.wake a line).regs = s.regs := by
  unfold State.wake
  dsimp only
  split
  · refine foldl_keeps (fun t : State => t.regs = s.regs) _ (fun t k ht => ?_) _ rfl
    split
    · split
      · split
        · exact ht
        · exact ht
      · exact ht
    · exact ht
  · split
    · split
      · split <;> rfl
      · rfl
    · rfl

theorem loseLine_regs (s : State) (a line : Nat) : (s.loseLine a line).regs = s.regs := by
  unfold State.loseLine State.iff
  split
  · split
    · exact wake_regs _ a line
    · rfl
  · rfl

theorem rouse_flds (s : State) (a : Nat) : FldsBut writeFlds s (s.rouse a) := by
  unfold State.rouse
  split
  · split
    · exact fldsBut_setFld s Fld.BLK_PWR_STATE a 0 0 (by decide)
    · exact FldsBut.refl _ s
  · split <;> exact FldsBut.of_regs rfl

theorem writeBack_flds (s : State) (cls line : Nat) (d : Line) (poison : Bool) : FldsBut writeFlds s (s.writeBack cls line d poison) :=
  ((askMem_traffic s cls line).flds _).trans (memWrite_flds _ _ _)

theorem invalidateAt_flds (s : State) (cls line a : Nat) : FldsBut writeFlds s (s.invalidateAt cls line a) := by
  unfold State.invalidateAt
  extract_lets dirty s1 s2 s3 s4
  have h1 : FldsBut writeFlds s s1 := (rouse_flds s a).trans ((oweSnoop_traffic _ _ _ _ _ _).flds _)
  have h2 : FldsBut writeFlds s1 s2 := by
    unfold s2
    clear_value s1 dirty
    split
    · exact writeBack_flds _ _ _ _ _
    · exact FldsBut.refl _ _
  have h3 : FldsBut writeFlds s2 s3 := by
    unfold s3
    split <;> exact FldsBut.of_regs rfl
  have h4 : FldsBut writeFlds s3 s4 := by
    unfold s4
    split
    · split <;> exact FldsBut.of_regs rfl
    · exact FldsBut.refl _ _
  exact (((h1.trans h2).trans h3).trans h4).trans (FldsBut.of_regs (loseLine_regs s4 a line))

theorem setDir_regs (s : State) (line : Nat) (d : Option DirEntry) : (s.setDir line d).regs = s.regs := by
  unfold State.setDir
  split
  · split <;> rfl
  · rfl

theorem invalidateAll_flds (s : State) (cls line : Nat) : FldsBut writeFlds s (s.invalidateAll cls line) := by
  unfold State.invalidateAll
  split
  · exact FldsBut.refl _ s
  · exact (fldsBut_foldl (fun t a => invalidateAt_flds t cls line a) _ s).trans (FldsBut.of_regs (setDir_regs _ line none))

theorem storePart_flds (s : State) (cls a : Nat) (l : List Byte) (poison : Bool) :
    FldsBut writeFlds s (s.storePart cls a l poison).1 := by
  unfold State.storePart
  dsimp only
  split
  · exact (invalidateAll_flds s cls _).trans (memWrite_flds _ _ _)
  · exact (invalidateAll_flds s cls _).trans (memWrite_flds _ _ _)
  · dsimp only
    split
    · exact FldsBut.refl _ s
    · exact (rouse_flds s _).trans (memWrite_flds _ _ _)
  · exact (rouse_flds s _).trans (memWrite_flds _ _ _)
  · exact FldsBut.refl _ s

theorem undef_flds (s : State) (l : List (Nat × Nat)) : FldsBut writeFlds s (s.undef l) := by
  unfold State.undef
  split
  · exact FldsBut.refl _ s
  · refine FldsBut.trans (fldsBut_foldl (fun t p => ?_) l s) (FldsBut.of_regs rfl)
    exact fldsBut_foldl (fun u q => storePart_flds u 7 q.1 (u.freeBytes q.1 q.2) false) (splitRange p.1 p.2) t

theorem unsettle_flds (s : State) (m : Mover) (l : List (Nat × Nat)) : FldsBut writeFlds s (s.unsettle m l) := undef_flds s _

/-- A place that is memory refuses no write (R51). -/
theorem storePart_taken (s : State) (cls a : Nat) (l : List Byte) (poison : Bool) (h : (s.place (canonical a)).memory = true) :
    (s.storePart cls a l poison).2 = 0 := by
  unfold State.storePart
  dsimp only
  generalize hp : s.place (canonical a) = pl at h ⊢
  cases pl with
  | near r => rfl
  | far f => rfl
  | cellStore c => rfl
  | blockStore b => rfl
  | regs off => simp [Place.memory] at h
  | unmapped => simp [Place.memory] at h

theorem haul_place (s : State) (m : Mover) (cls a n : Nat) (w : Bool) (x : Nat) : (s.haul m cls a n w).place x = s.place x :=
  State.place_of_flds ((haul_traffic s m cls a n w).flds []) List.not_mem_nil List.not_mem_nil x

/-- A write to a place that is memory is refused nowhere, so it records no decode error. -/
theorem writePart_flds (s : State) (m : Mover) (cls a : Nat) (l : List Byte) (poison : Bool)
    (h : (s.place (canonical a)).memory = true) : FldsBut writeFlds s (s.writePart m cls a l poison).1 := by
  have hz : ((s.haul m cls a l.length true).storePart cls a l poison).2 = 0 :=
    storePart_taken _ _ _ _ _ (by rw [haul_place]; exact h)
  unfold State.writePart
  dsimp only
  rw [hz, if_neg (by decide)]
  exact (((haul_traffic s m cls a l.length true).flds _).trans (storePart_flds _ _ _ _ _)).trans (unsettle_flds _ _ _)

/-! ## Requests to the stores -/

theorem stirBlk_flds (s : State) (b : Block) : FldsBut writeFlds s (s.stirBlk b) := by
  unfold State.stirBlk
  dsimp only
  split
  · exact FldsBut.of_regs rfl
  · exact FldsBut.of_regs rfl
  all_goals exact (FldsBut.of_regs (t := s.startFclk b.region) rfl).trans (fldsBut_setFld _ _ _ _ _ (by decide))

theorem performScratch_flds (s : State) (b : Nat) (slot : Option Nat) (x : ScratchReq) :
    FldsBut writeFlds s (s.performScratch b slot x) := by
  unfold State.performScratch
  extract_lets s1 k gone line
  have h1 : FldsBut writeFlds s s1 := (haul_traffic s _ _ _ _ _).flds _
  split
  · refine FldsBut.trans (h1.trans ?_) (FldsBut.of_regs rfl)
    unfold State.iff
    split
    · exact (memWrite_flds _ _ _).trans (unsettle_flds _ _ _)
    · exact FldsBut.refl _ _
  · exact h1.trans (FldsBut.of_regs rfl)

/-- A store's place and the block its requests go to are decoded alike (R57, R58). -/
theorem scratchHome_of_place (s : State) (a : Nat) (h : (s.place a).memory = true) (hc : (s.place a).coherent = false) :
    (scratchHome a).isSome = true := by
  unfold State.place at h hc
  unfold scratchHome
  split at h
  · simp_all [Place.coherent]
  · split at h
    · dsimp only at h hc
      split at h <;> simp_all [Place.coherent, Place.memory]
    · split at h
      · simp [*]
      · split at h
        · simp only [*, if_false]; rfl
        · split at h <;> simp_all [Place.memory]

theorem scratchAccess_flds (s : State) (x : ScratchReq) (h : (s.place x.addr).memory = true) (hc : (s.place x.addr).coherent = false) :
    FldsBut writeFlds s (s.scratchAccess x) := by
  unfold State.scratchAccess
  have hs := scratchHome_of_place s x.addr h hc
  split
  · next e => simp [e] at hs
  · split
    · dsimp only
      split
      · exact performScratch_flds s _ _ x
      · exact (FldsBut.of_regs rfl).trans (stirBlk_flds _ _)
    · exact FldsBut.refl _ s

/-- A part of a posted write at a place that is memory (R511). -/
theorem postPart_flds (s : State) (p a : Nat) (l : List Byte) (ep : Bool) (h : (s.place (canonical a)).memory = true) :
    FldsBut writeFlds s (s.postPart p a l ep) := by
  unfold State.postPart
  dsimp only
  split
  · exact writePart_flds s _ _ _ _ _ h
  · next hc => exact scratchAccess_flds s _ h (by simpa using hc)

end Sys2Proof.Machine
end

section
/-! SUPPORT. Bytes of memory: little-endian numbers bit by bit, the bytes a line's write selects, the interleave view within a line,
and the parts of a range. -/

namespace Sys2Proof.Machine

/-! ## Little-endian numbers -/

/-- Bit j of byte k of the number some bytes stand for. -/
theorem testBit_leNat (l : List Byte) (k j : Nat) (hj : j < 8) : (leNat l).testBit (8 * k + j) = (l.getD k 0).getLsbD j := by
  induction l generalizing k with
  | nil => simp [leNat]
  | cons b t ih =>
    have hb : b.toNat < 2 ^ 8 := b.isLt
    rw [leNat, Nat.add_comm, show (256 : Nat) = 2 ^ 8 from rfl, Nat.testBit_two_pow_mul_add _ hb]
    cases k with
    | zero => simp [hj, BitVec.testBit_toNat]
    | succ k =>
      rw [if_neg (by omega), show 8 * (k + 1) + j - 8 = 8 * k + j by omega, ih, List.getD_cons_succ]

/-- Byte k of the bytes of a number. -/
theorem getD_leBytes (n x k : Nat) (hk : k < n) : (leBytes n x).getD k 0 = BitVec.ofNat 8 (x / 2 ^ (8 * k)) := by
  induction n generalizing x k with
  | zero => omega
  | succ n ih =>
    cases k with
    | zero => simp [leBytes]
    | succ k =>
      rw [leBytes, List.getD_cons_succ, ih _ _ (by omega), Nat.div_div_eq_div_mul, show 8 * (k + 1) = 8 + 8 * k by ring, Nat.pow_add]

theorem length_leBytes (n x : Nat) : (leBytes n x).length = n := by
  induction n generalizing x with
  | zero => rfl
  | succ n ih => rw [leBytes, List.length_cons, ih]

/-- Byte i of a line that holds a number from byte o on. -/
theorem lineByte_shifted (x o i : Nat) (hi : i < 64) (ho : o ≤ i) :
    lineByte (BitVec.ofNat 512 (x <<< (8 * o))) i = BitVec.ofNat 8 (x / 2 ^ (8 * (i - o))) := by
  apply BitVec.eq_of_getLsbD_eq
  intro j hj
  simp only [lineByte, BitVec.getLsbD_extractLsb', BitVec.getLsbD_ofNat, Nat.testBit_shiftLeft, Nat.testBit_div_two_pow]
  have h1 : 8 * i + j < 512 := by omega
  have h2 : 8 * o ≤ 8 * i + j := by omega
  simp only [hj, h1, h2, decide_true, Bool.true_and]
  congr 1
  omega

theorem ofNat_leNat_byte (l : List Byte) (k : Nat) : BitVec.ofNat 8 (leNat l / 2 ^ (8 * k)) = l.getD k 0 := by
  apply BitVec.eq_of_getLsbD_eq
  intro j hj
  rw [BitVec.getLsbD_ofNat, Nat.testBit_div_two_pow, Nat.add_comm, testBit_leNat l k j hj]
  simp [hj]

/-- The mask of n bytes from offset o selects exactly those. -/
theorem testBit_byteMask (o n i : Nat) : (byteMask o n).toNat.testBit i = (decide (i < 64) && decide (o ≤ i) && decide (i < o + n)) := by
  rw [byteMask, BitVec.toNat_ofNat, Nat.testBit_mod_two_pow, Nat.testBit_shiftLeft, Nat.testBit_two_pow_sub_one, Bool.and_assoc]
  congr 1
  by_cases h : o ≤ i
  · simp only [ge_iff_le, h, decide_true, Bool.true_and, decide_eq_decide]; omega
  · simp [h]

/-! ## Bytes of a written line -/

/-- A loop that sets bytes at offsets of a base. -/
theorem Mem.byte_foldl_setByte (base : Nat) (g : Nat → Byte) (l : List Nat) (m : Mem) (b : Nat) :
    (l.foldl (fun (m : Mem) i => m.setByte (base + i) (g i)) m).byte b =
      if base ≤ b ∧ b - base ∈ l then g (b - base) else m.byte b := by
  induction l generalizing m with
  | nil => simp
  | cons i t ih =>
    rw [List.foldl_cons, ih]
    by_cases ht : base ≤ b ∧ b - base ∈ t
    · rw [if_pos ht, if_pos ⟨ht.1, List.mem_cons_of_mem _ ht.2⟩]
    · rw [if_neg ht]
      by_cases hi : b = base + i
      · subst hi; simp
      · rw [Mem.byte_setByte_other _ _ hi, if_neg]
        rintro ⟨hb, hm⟩
        rcases List.mem_cons.mp hm with h | h
        · omega
        · exact ht ⟨hb, h⟩

theorem Mem.setWordPoison_tables (m : Mem) (line : Nat) (p : BitVec 16) :
    (m.setWordPoison line p).bytes = m.bytes ∧ (m.setWordPoison line p).coded = m.coded :=
  foldl_keeps (fun n : Mem => n.bytes = m.bytes ∧ n.coded = m.coded)
    (fun (n : Mem) i => { n with poisonW := Tbl.set n.poisonW false (line * 16 + i) (p.getLsbD i) }) (fun _ _ h => h) _ ⟨rfl, rfl⟩

theorem Mem.foldl_setByte_coded (base : Nat) (g : Nat → Byte) (l : List Nat) (m : Mem) :
    (l.foldl (fun (m : Mem) i => m.setByte (base + i) (g i)) m).coded = m.coded :=
  foldl_keeps (fun n : Mem => n.coded = m.coded) (fun (n : Mem) i => n.setByte (base + i) (g i)) (fun _ _ h => h) _ rfl

theorem Mem.codedAt_none {m : Mem} (h : m.coded = []) (slot : Nat) : m.codedAt slot = none := by
  simp [Mem.codedAt, h, Tbl.get, Tbl.find?]

theorem Mem.plain_id {m : Mem} (h : m.coded = []) (slot : Nat) : m.plain slot = m := by
  simp [Mem.plain, Mem.codedAt_none h]

/-- With no slot coded a write changes exactly the bytes its mask selects (R425, R627). -/
theorem Mem.byte_writeLine {m : Mem} (h : m.coded = []) (line : Nat) (w : LineWrite) (b : Nat) :
    (m.writeLine line w).byte b =
      if line * 64 ≤ b ∧ b < line * 64 + 64 ∧ w.mask.toNat.testBit (b - line * 64) = true then lineByte w.data (b - line * 64) else m.byte b := by
  unfold Mem.writeLine
  rw [Mem.plain_id h]
  have hb : ∀ n : Mem, n.bytes = ((setBits w.mask.toNat 64).foldl (fun (m : Mem) i => m.setByte (line * 64 + i) (lineByte w.data i))
      { m with owner := Tbl.set m.owner 0 line 0 }).bytes → n.byte b =
      if line * 64 ≤ b ∧ b < line * 64 + 64 ∧ w.mask.toNat.testBit (b - line * 64) = true then lineByte w.data (b - line * 64) else m.byte b := by
    intro n hn
    rw [Mem.byte, hn]
    refine (Mem.byte_foldl_setByte (line * 64) (lineByte w.data) _ _ b).trans (if_congr ?_ rfl rfl)
    rw [setBits, List.mem_filter, List.mem_range, and_congr_right_iff]
    exact fun hle => and_congr_left' (by omega)
  dsimp only
  split
  · exact hb _ rfl
  · exact hb _ (Mem.setWordPoison_tables _ _ _).1

theorem Mem.coded_writeLine {m : Mem} (h : m.coded = []) (line : Nat) (w : LineWrite) : (m.writeLine line w).coded = [] := by
  unfold Mem.writeLine
  rw [Mem.plain_id h]
  dsimp only
  split
  · exact (Mem.foldl_setByte_coded _ _ _ _).trans h
  · exact (Mem.setWordPoison_tables _ _ _).2.trans ((Mem.foldl_setByte_coded _ _ _ _).trans h)

/-- Bytes from an address on, all within its line, as one write to the line. -/
def runWrite (c : Nat) (l : List Byte) (poison : Bool) : LineWrite :=
  ⟨byteMask (c % 64) l.length, BitVec.ofNat 512 (leNat l <<< (8 * (c % 64))), poison⟩

/-- With no slot coded, a run of bytes within a line lands at its addresses, and nothing else changes. -/
theorem Mem.byte_writeRun {m : Mem} (h : m.coded = []) (c : Nat) (l : List Byte) (poison : Bool) (hl : c % 64 + l.length ≤ 64) (b : Nat) :
    (m.writeLine (c / 64) (runWrite c l poison)).byte b = if c ≤ b ∧ b < c + l.length then l.getD (b - c) 0 else m.byte b := by
  rw [Mem.byte_writeLine h]
  simp only [runWrite, testBit_byteMask, Bool.and_eq_true, decide_eq_true_eq]
  by_cases hb : c ≤ b ∧ b < c + l.length
  · rw [if_pos hb, if_pos (by omega), lineByte_shifted _ _ _ (by omega) (by omega), ofNat_leNat_byte]
    congr 1
    omega
  · rw [if_neg hb, if_neg (by omega)]

/-! ## The interleave view -/

/-- Within a page an address and its canonical form go together (R53). -/
theorem canonical_add {a i : Nat} (h : a % 4096 + i < 4096) : canonical (a + i) = canonical a + i := by
  unfold canonical
  dsimp only
  split <;> split <;> omega

theorem canonical_mod (a : Nat) : canonical a % 4096 = a % 4096 := by
  unfold canonical
  dsimp only
  split <;> omega

/-- Granules spread over twelve channels keep apart: channel, granule of the channel and offset give the offset in the view (R53). -/
theorem interleave_inj {x y : Nat} (hx : x < 0xC000000000) (hy : y < 0xC000000000)
    (h : x / 4096 % 12 * 0x1000000000 + x / 4096 / 12 * 4096 + x % 4096 = y / 4096 % 12 * 0x1000000000 + y / 4096 / 12 * 4096 + y % 4096) :
    x = y := by
  have hgx : x / 4096 / 12 < 0x1000000 := by omega
  have hgy : y / 4096 / 12 < 0x1000000 := by omega
  have hc : x / 4096 % 12 = y / 4096 % 12 := by
    generalize x / 4096 / 12 = u at *
    generalize y / 4096 / 12 = v at *
    omega
  rw [hc] at h
  have hg : x / 4096 / 12 = y / 4096 / 12 ∧ x % 4096 = y % 4096 := by
    generalize x / 4096 / 12 = u at *
    generalize y / 4096 / 12 = v at *
    omega
  omega

/-- Two addresses less than 1 GiB apart have different canonical forms: the interleave view is one to one, and lies that far from
near memory (R53). -/
theorem canonical_inj {a b : Nat} (h : canonical a = canonical b) (hab : a ≤ b) (hd : b < a + 2 ^ 30) : a = b := by
  unfold canonical at h
  dsimp only at h
  split at h <;> split at h
  · have hxy := interleave_inj (by omega) (by omega) h
    clear h
    omega
  all_goals omega

/-! ## Parts of a range -/

theorem splitAligned_line (a n : Nat) : splitAligned 64 a n = splitRange a n := by
  unfold splitAligned splitRange linesOfRange
  by_cases h : n = 0
  · simp [h]
  · simp [h, List.map_map, Function.comp_def]

/-- A part of a range lies in the range and within one line. -/
theorem mem_splitRange {a n : Nat} {p : Nat × Nat} (h : p ∈ splitRange a n) :
    a ≤ p.1 ∧ p.1 + p.2 ≤ a + n ∧ 0 < p.2 ∧ p.1 % 64 + p.2 ≤ 64 := by
  unfold splitRange linesOfRange at h
  split at h
  · simp at h
  · simp only [List.map_map, List.mem_map, List.mem_range, Function.comp_apply] at h
    obtain ⟨k, hk, rfl⟩ := h
    dsimp only
    omega

/-- The parts of a range follow one another. -/
theorem splitRange_pairwise (a n : Nat) : (splitRange a n).Pairwise (fun p q => p.1 + p.2 ≤ q.1) := by
  unfold splitRange linesOfRange
  split
  · exact List.Pairwise.nil
  · rw [List.map_map, List.pairwise_map]
    refine List.pairwise_lt_range.imp (fun {k l} hkl => ?_)
    dsimp only [Function.comp_apply]
    omega

/-- A range within one line is its own only part. -/
theorem splitRange_one {a n : Nat} (hn : 0 < n) (h : a / 64 = (a + n - 1) / 64) : splitRange a n = [(a, n)] := by
  unfold splitRange linesOfRange
  rw [if_neg (by omega), ← h, Nat.sub_self]
  simp only [Nat.zero_add, List.range_one, List.map_cons, List.map_nil, Nat.add_zero, List.cons.injEq, Prod.mk.injEq, and_true]
  omega

end Sys2Proof.Machine
end

section
/-! SUPPORT. Writes while no far slot is coded, no line is held by a cache and nothing in flight adds to memory: their bytes land, and
nothing but memory, the far controllers' buffers and traffic changes. -/

namespace Sys2Proof.Machine

/-- No far slot is coded, no line has a directory entry, and nothing in flight adds to memory (R177, R424). -/
def BareMem (s : State) : Prop := s.mem.coded = [] ∧ s.coh.dir = [] ∧ NoUpdates s

theorem BareMem.of_plain {s : State} (h : PlainMemory s ∧ s.coh.dir = []) : BareMem s := by
  obtain ⟨⟨hc, -, -, hu⟩, hd⟩ := h
  exact ⟨hc, hd, hu⟩

/-- Nothing but memory, the far controllers' buffers and traffic differs between two states. -/
def MemOnly (s t : State) : Prop := t = { s.trafficOf t with mem := t.mem, far := t.far }

theorem MemOnly.refl (s : State) : MemOnly s s := rfl

theorem MemOnly.trans {s t u : State} (h : MemOnly s t) (k : MemOnly t u) : MemOnly s u := by
  unfold MemOnly at *
  rw [k, h]
  rfl

theorem TrafficOnly.memOnly {s t : State} (h : TrafficOnly s t) : MemOnly s t := by
  unfold TrafficOnly at h
  unfold MemOnly
  rw [h]
  rfl

section
variable {s t : State} (h : MemOnly s t)
include h
theorem MemOnly.regs : t.regs = s.regs := by rw [h]; rfl
theorem MemOnly.coh : t.coh = s.coh := by rw [h]; rfl
theorem MemOnly.execs : t.execs = s.execs := by rw [h]; rfl
theorem MemOnly.hosts : t.hosts = s.hosts := by rw [h]; rfl
theorem MemOnly.rings : t.rings = s.rings := by rw [h]; rfl
theorem MemOnly.errs : t.errs = s.errs := by rw [h]; rfl
theorem MemOnly.place (a : Nat) : t.place a = s.place a :=
  State.place_of_flds (FldsBut.of_regs (cs := []) h.regs) List.not_mem_nil List.not_mem_nil a
theorem MemOnly.bareMem (hc : t.mem.coded = []) (hs : BareMem s) : BareMem t := by
  obtain ⟨-, hd, hu⟩ := hs
  exact ⟨hc, by rw [h.coh, hd], by rw [NoUpdates, h.execs]; exact hu⟩
end

theorem TrafficOnly.bareMem {s t : State} (h : TrafficOnly s t) (hs : BareMem s) : BareMem t :=
  h.memOnly.bareMem (by rw [h.mem]; exact hs.1) hs

theorem updating_none {s : State} (h : NoUpdates s) (m : Mover) (l : List (Nat × Nat)) : s.updating m l = [] := by
  unfold State.updating
  rw [List.flatMap_eq_nil_iff]
  intro p hp
  rw [List.flatMap_eq_nil_iff]
  intro f hf
  simp [h p hp f hf]

/-- Where nothing in flight adds to memory a write unsettles nothing (R177). -/
theorem unsettle_id {s : State} (h : NoUpdates s) (m : Mover) (l : List (Nat × Nat)) : s.unsettle m l = s := by
  simp [State.unsettle, State.undef, updating_none h]

/-- A line without a directory entry has no holder to invalidate. -/
theorem invalidateAll_id {s : State} (h : s.coh.dir = []) (cls line : Nat) : s.invalidateAll cls line = s := by
  simp [State.invalidateAll, State.dirOf, h, Tbl.find?]

theorem farForget_memOnly (s : State) (line : Nat) : MemOnly s (s.farForget line) := by
  unfold State.farForget
  dsimp only
  split <;> rfl

/-- A write to memory in which no slot is coded changes memory and forgets the controller's copies (R424). -/
theorem memWrite_bare {s : State} (h : s.mem.coded = []) (line : Nat) (w : LineWrite) :
    MemOnly s (s.memWrite line w) ∧ (s.memWrite line w).mem = s.mem.writeLine line w := by
  unfold State.memWrite
  simp only [Mem.codedAt_none h, Option.isSome_none, Bool.false_eq_true, if_false]
  exact ⟨MemOnly.trans (t := s.setMem (s.mem.writeLine line w)) rfl (farForget_memOnly _ line), State.farForget_mem _ _⟩

/-- A run of bytes within a line of near or far memory lands there whole. -/
theorem writePart_bare {s : State} (h : BareMem s) (m : Mover) (cls a : Nat) (l : List Byte) (poison : Bool)
    (hp : (s.place (canonical a)).coherent = true) :
    MemOnly s (s.writePart m cls a l poison).1 ∧
      (s.writePart m cls a l poison).1.mem = s.mem.writeLine (canonical a / 64) (runWrite (canonical a) l poison) := by
  have hh := haul_traffic s m cls a l.length true
  have hb : BareMem (s.haul m cls a l.length true) := hh.bareMem h
  have hw := memWrite_bare hb.1 (canonical a / 64) (runWrite (canonical a) l poison)
  rw [hh.mem] at hw
  have hst : (s.haul m cls a l.length true).storePart cls a l poison =
      ((s.haul m cls a l.length true).memWrite (canonical a / 64) (runWrite (canonical a) l poison), 0) := by
    unfold State.storePart State.ncWrite
    dsimp only
    rw [haul_place]
    generalize s.place (canonical a) = pl at hp ⊢
    cases pl with
    | near r => rw [invalidateAll_id hb.2.1]; rfl
    | far f => rw [invalidateAll_id hb.2.1]; rfl
    | cellStore c => simp [Place.coherent] at hp
    | blockStore b => simp [Place.coherent] at hp
    | regs off => simp [Place.coherent] at hp
    | unmapped => simp [Place.coherent] at hp
  have hm : MemOnly s ((s.haul m cls a l.length true).memWrite (canonical a / 64) (runWrite (canonical a) l poison)) :=
    hh.memOnly.trans hw.1
  have hu : NoUpdates ((s.haul m cls a l.length true).memWrite (canonical a / 64) (runWrite (canonical a) l poison)) := by
    rw [NoUpdates, hm.execs]
    exact h.2.2
  unfold State.writePart
  simp only [hst, show ¬ ((0 : Nat) = 3) by decide, if_false, unsettle_id hu]
  exact ⟨hm, hw.2⟩

/-- A part that lies within one line and leads to near or far memory. -/
def CoherentPart (s : State) (p : Nat × Nat) : Prop := p.1 % 64 + p.2 ≤ 64 ∧ (s.place (canonical p.1)).coherent = true

/-- Parts of a run of bytes from an address on, written one by one. -/
def State.writeParts (s : State) (m : Mover) (cls a : Nat) (l : List Byte) (poison : Bool) (parts : List (Nat × Nat)) : State :=
  parts.foldl (fun (s : State) p => (s.writePart m cls p.1 ((l.drop (p.1 - a)).take p.2) poison).1) s

/-- A write of a range writes its parts line by line (R55). -/
theorem writeBytes_parts (s : State) (m : Mover) (cls a : Nat) (l : List Byte) (poison : Bool) :
    (s.writeBytes m cls a l poison).1 = s.writeParts m cls a l poison (splitRange a l.length) := by
  unfold State.writeBytes State.writeParts
  generalize splitRange a l.length = parts
  suffices h : ∀ (acc : State × Nat), (parts.foldl (fun (acc : State × Nat) p =>
      let r := acc.1.writePart m cls p.1 ((l.drop (p.1 - a)).take p.2) poison
      (r.1, worseDetail acc.2 r.2)) acc).1 =
      parts.foldl (fun (s : State) p => (s.writePart m cls p.1 ((l.drop (p.1 - a)).take p.2) poison).1) acc.1 from h (s, 0)
  induction parts with
  | nil => exact fun _ => rfl
  | cons p t ih => exact fun acc => ih _

/-- What one part leaves: it stands where it was written, every other byte reads as before. -/
theorem writePart_byte {s : State} (h : BareMem s) (m : Mover) (cls a : Nat) (l : List Byte) (poison : Bool)
    (hp : CoherentPart s (a, l.length)) (b : Nat) :
    (s.writePart m cls a l poison).1.mem.byte b =
      if canonical a ≤ b ∧ b < canonical a + l.length then l.getD (b - canonical a) 0 else s.mem.byte b := by
  obtain ⟨hl, hc⟩ := hp
  rw [(writePart_bare h m cls a l poison hc).2]
  have := canonical_mod a
  exact Mem.byte_writeRun h.1 _ _ _ (by dsimp only at hl; omega) b

section
variable {m : Mover} {cls a : Nat} {l : List Byte} {poison : Bool}

theorem writePart_keeps_bare {s : State} (h : BareMem s) {p : Nat × Nat} (hp : CoherentPart s p) (m : Mover) (cls : Nat) (l : List Byte)
    (poison : Bool) : MemOnly s (s.writePart m cls p.1 l poison).1 ∧ BareMem (s.writePart m cls p.1 l poison).1 := by
  obtain ⟨hm, hw⟩ := writePart_bare h m cls p.1 l poison hp.2
  exact ⟨hm, hm.bareMem (by rw [hw]; exact Mem.coded_writeLine h.1 _ _) h⟩

/-- Parts of near and far memory change memory, and of it only what they cover. -/
theorem writeParts_frame (parts : List (Nat × Nat)) {s : State} (h : BareMem s) (hp : ∀ p ∈ parts, CoherentPart s p) :
    MemOnly s (s.writeParts m cls a l poison parts) ∧ BareMem (s.writeParts m cls a l poison parts) ∧
      ∀ b, (∀ p ∈ parts, ∀ i < p.2, canonical (p.1 + i) ≠ b) → (s.writeParts m cls a l poison parts).mem.byte b = s.mem.byte b := by
  induction parts generalizing s with
  | nil => exact ⟨MemOnly.refl s, h, fun _ _ => rfl⟩
  | cons p t ih =>
    have hps := hp p List.mem_cons_self
    have hlen : ((l.drop (p.1 - a)).take p.2).length ≤ p.2 := List.length_take_le _ _
    obtain ⟨hm, hb⟩ := writePart_keeps_bare h hps m cls ((l.drop (p.1 - a)).take p.2) poison
    obtain ⟨hm', hb', hf⟩ := ih hb (fun q hq => ⟨(hp q (List.mem_cons_of_mem _ hq)).1, by
      rw [hm.place]; exact (hp q (List.mem_cons_of_mem _ hq)).2⟩)
    refine ⟨hm.trans hm', hb', fun b hbn => ?_⟩
    refine (hf b (fun q hq => hbn q (List.mem_cons_of_mem _ hq))).trans ?_
    rw [writePart_byte h m cls p.1 _ poison ⟨by have := hps.1; dsimp only; omega, hps.2⟩, if_neg]
    rintro ⟨hlo, hhi⟩
    refine hbn p List.mem_cons_self (b - canonical p.1) (by omega) ?_
    rw [canonical_add (by have := hps.1; omega)]
    omega

/-- Parts that follow one another within 1 GiB keep apart in memory. -/
theorem canonical_ne_of_follow {p q : Nat × Nat} {lo n i k : Nat} (hpq : p.1 + p.2 ≤ q.1) (hi : i < p.2) (hp : lo ≤ p.1)
    (hq : q.1 + q.2 ≤ lo + n) (hk : k < q.2) (hn : n ≤ 2 ^ 30) : canonical (q.1 + k) ≠ canonical (p.1 + i) := by
  intro he
  have := canonical_inj he.symm (by omega) (by omega)
  omega

/-- Parts of near and far memory that follow one another within 1 GiB hold what was written. -/
theorem writeParts_bytes (parts : List (Nat × Nat)) {s : State} (h : BareMem s) (hp : ∀ p ∈ parts, CoherentPart s p)
    (hr : ∀ p ∈ parts, a ≤ p.1 ∧ p.1 + p.2 ≤ a + l.length) (hn : l.length ≤ 2 ^ 30) (hw : parts.Pairwise (fun p q => p.1 + p.2 ≤ q.1)) :
    ∀ p ∈ parts, ∀ i < p.2, (s.writeParts m cls a l poison parts).mem.byte (canonical (p.1 + i)) = l.getD (p.1 + i - a) 0 := by
  induction parts generalizing s with
  | nil => exact fun p hp => absurd hp List.not_mem_nil
  | cons q t ih =>
    obtain ⟨hqt, ht⟩ := List.pairwise_cons.mp hw
    have hqs := hp q List.mem_cons_self
    obtain ⟨hlo, hhi⟩ := hr q List.mem_cons_self
    obtain ⟨hm, hb⟩ := writePart_keeps_bare h hqs m cls ((l.drop (q.1 - a)).take q.2) poison
    have hpt : ∀ p ∈ t, CoherentPart (s.writePart m cls q.1 ((l.drop (q.1 - a)).take q.2) poison).1 p := fun p hpm =>
      ⟨(hp p (List.mem_cons_of_mem _ hpm)).1, by rw [hm.place]; exact (hp p (List.mem_cons_of_mem _ hpm)).2⟩
    intro p hpm i hi
    rcases List.mem_cons.mp hpm with rfl | hpm
    · have hlen : ((l.drop (p.1 - a)).take p.2).length = p.2 := by
        rw [List.length_take, List.length_drop]; omega
      refine ((writeParts_frame t hb hpt).2.2 _ (fun q hq k hk => canonical_ne_of_follow (hqt q hq) hi hlo
        (hr q (List.mem_cons_of_mem _ hq)).2 hk hn)).trans ?_
      have hc : canonical (p.1 + i) = canonical p.1 + i := canonical_add (by have := hqs.1; omega)
      rw [writePart_byte h m cls p.1 _ poison ⟨by rw [hlen]; exact hqs.1, hqs.2⟩, hlen, if_pos (by omega), hc, Nat.add_sub_cancel_left,
        List.getD_eq_getElem?_getD, List.getD_eq_getElem?_getD, List.getElem?_take_of_lt hi, List.getElem?_drop]
      congr 2
      omega
    · exact ih hb hpt (fun p hp => hr p (List.mem_cons_of_mem _ hp)) ht p hpm i hi

end

/-- The parts of a range all of which is near or far memory. -/
def CoherentRange (s : State) (a n : Nat) : Prop := ∀ p ∈ splitRange a n, (s.place (canonical p.1)).coherent = true

theorem CoherentRange.parts {s : State} {a n : Nat} (h : CoherentRange s a n) : ∀ p ∈ splitRange a n, CoherentPart s p :=
  fun p hp => ⟨(mem_splitRange hp).2.2.2, h p hp⟩

/-- A write of a range of near or far memory changes memory, and of it only what it covers. -/
theorem writeBytes_frame {s : State} (h : BareMem s) (m : Mover) (cls a : Nat) (l : List Byte) (poison : Bool)
    (hr : CoherentRange s a l.length) :
    MemOnly s (s.writeBytes m cls a l poison).1 ∧ BareMem (s.writeBytes m cls a l poison).1 ∧
      ∀ b, (∀ i < l.length, canonical (a + i) ≠ b) → (s.writeBytes m cls a l poison).1.mem.byte b = s.mem.byte b := by
  rw [writeBytes_parts]
  obtain ⟨hm, hb, hf⟩ := writeParts_frame (m := m) (cls := cls) (a := a) (l := l) (poison := poison) _ h hr.parts
  refine ⟨hm, hb, fun b hbn => hf b (fun p hp i hi => ?_)⟩
  obtain ⟨hlo, hhi, -, -⟩ := mem_splitRange hp
  have := hbn (p.1 + i - a) (by omega)
  rwa [show a + (p.1 + i - a) = p.1 + i by omega] at this

end Sys2Proof.Machine
end

section
/-! SUPPORT. Error records of a region reach its error log ring. -/

namespace Sys2Proof.Machine

/-- A record is 64 bytes long (R532). -/
theorem ErrRec.length_bytes (e : ErrRec) : e.bytes.length = 64 := by simp [ErrRec.bytes, length_leBytes]

/-- STATUS is a record's first byte (R532). -/
theorem ErrRec.bytes_status (e : ErrRec) : e.bytes.getD 0 0 = BitVec.ofNat 8 e.status := by
  simp only [ErrRec.bytes, List.append_assoc]
  rw [List.getD_append _ _ _ _ (by rw [length_leBytes]; decide), getD_leBytes _ _ _ (by decide)]
  simp

/-- A record of a region's own goes to the region's error log ring (R538). -/
theorem ErrRec.logRing_region (e : ErrRec) (r : Region) (h : e.origin ≠ 3) (hr : e.region = r.val) : e.logRing = .errorLog r := by
  unfold ErrRec.logRing
  rw [dif_pos ⟨h, hr ▸ r.isLt⟩]
  simp only [hr]

/-- A record that enters a region's queue is copied to the region's error log ring; nothing but the queues changes beside (R531, R538). -/
theorem enterQueue_region (s : State) (r : Region) (e : ErrRec) (h : e.origin ≠ 3) (hr : e.region = r.val) :
    ∃ (es : Tbl ErrQ) (k : ErrRec), k.status = e.status ∧
      s.enterQueue (.region r) e = State.ringPut { s with errs := es } (.errorLog r) k.bytes := by
  unfold State.enterQueue State.iff
  extract_lets g k u v busy
  refine ⟨u.errs, k, rfl, ?_⟩
  rw [if_neg (by simp)]
  exact congrArg (fun id => State.ringPut u id k.bytes) (k.logRing_region r h hr)

/-- A record raised at a region whose queue has room is queued, and its copy goes to the region's error log ring (R531, R538). -/
theorem raise_region (s : State) (r : Region) (cause status detail sev addr : Nat) (h : (s.errq (.region r)).recs.length < 64) :
    ∃ (es : Tbl ErrQ) (k : ErrRec), k.status = status ∧
      s.raise (.region r) cause status detail sev addr = State.ringPut { s with errs := es } (.errorLog r) k.bytes := by
  unfold State.raise State.enqueue
  extract_lets g o e
  rw [if_pos (by rw [State.errq_setErrq_same]; exact h)]
  obtain ⟨es, k, hk, hq⟩ := enterQueue_region _ r e (show (2 : Nat) ≠ 3 by decide) rfl
  exact ⟨es, k, hk, hq⟩

/-- A ring that takes entries and has nothing buffered stores a record whole, then its TAIL (R230, R231). -/
theorem ringPut_open {s : State} {id : RingId} (ho : s.ringOpen id = true) (hb : (s.ring id).buf = []) (rec : List Byte) :
    s.ringPut id rec = s.ringStore id rec := by
  simp [State.ringPut, ho, hb]

/-- A record stored in a ring whose entry and control block are near or far memory and apart: its bytes stand at the entry. -/
theorem ringStore_bytes {s : State} (h : BareMem s) (id : RingId) (rec : List Byte) (hn : rec.length ≤ 2 ^ 30)
    (he : CoherentRange s (s.ringEntry id (s.ring id).tail) rec.length) (hc : CoherentRange s (s.ringCb id) 8)
    {p : Nat × Nat} (hp : p ∈ splitRange (s.ringEntry id (s.ring id).tail) rec.length) {i : Nat} (hi : i < p.2)
    (hd : ∀ k < 8, canonical (s.ringCb id + k) ≠ canonical (p.1 + i)) :
    BareMem (s.ringStore id rec) ∧ (s.ringStore id rec).regs = s.regs ∧
      (s.ringStore id rec).mem.byte (canonical (p.1 + i)) = rec.getD (p.1 + i - s.ringEntry id (s.ring id).tail) 0 := by
  unfold State.ringStore
  extract_lets g s1 s2
  obtain ⟨hm1, hb1, -⟩ := writeBytes_frame h (ringMover id) (ringClass id) _ rec false he
  have hcb : s1.ringCb id = s.ringCb id := by unfold State.ringCb State.fld; rw [hm1.regs]
  have hc1 : CoherentRange s1 (s1.ringCb id) (leBytes 8 (g.tail + 1)).length := by
    rw [hcb, length_leBytes]
    exact fun p hp => by rw [hm1.place]; exact hc p hp
  obtain ⟨hm2, hb2, hf2⟩ := writeBytes_frame hb1 (ringMover id) (ringClass id) _ (leBytes 8 (g.tail + 1)) false hc1
  refine ⟨hb2, by rw [State.setRing_regs, hm2.regs, hm1.regs], ?_⟩
  have hk := hf2 (canonical (p.1 + i)) (by rw [hcb, length_leBytes]; exact hd)
  refine hk.trans ?_
  rw [writeBytes_parts]
  exact writeParts_bytes _ h he.parts (fun q hq => ⟨(mem_splitRange hq).1, (mem_splitRange hq).2.1⟩) hn (splitRange_pairwise _ _) p hp i hi

end Sys2Proof.Machine
end

section
/-! SUPPORT. The refutation of O43: a segment with a block that fails its check, stored plain while the region's error log ring is
enabled, writes an error record into that ring, which lies outside the segment. -/

namespace Sys2Proof.Machine

/-- Near memory is coherent in every state (R49, R56). -/
theorem coherentRange_near (s : State) {a n : Nat} (h : a + n ≤ 0xC000000000) : CoherentRange s a n := by
  intro p hp
  obtain ⟨-, hhi, hpos, -⟩ := mem_splitRange hp
  rw [canonical, if_neg (by omega), State.place, if_pos (by omega)]
  rfl

/-- The populated part of far channel 0 is coherent (R49, R56). -/
theorem coherentRange_far0 {s : State} {a n : Nat} (hlo : 0x100000000000 ≤ a) (hhi : a + n ≤ 0x100000000000 + s.farBytes 0)
    (hcap : s.farBytes 0 ≤ 0x8000000000) : CoherentRange s a n := by
  intro p hp
  obtain ⟨hplo, hphi, hpos, -⟩ := mem_splitRange hp
  have hz : (p.1 - 0x100000000000) / 0x8000000000 = 0 := by omega
  rw [canonical, if_neg (by omega), State.place, if_neg (by omega), if_pos (by omega)]
  dsimp only
  rw [hz, if_pos (by omega)]
  rfl

theorem length_padTo (n : Nat) (l : List Byte) : (padTo n l).length = n := by
  rw [padTo, List.length_take, List.length_append, List.length_replicate]
  omega

/-- A raw block of a segment stands as it came (R415). -/
theorem expandSegment_raw (g : CodedSegment) {i : Nat} {l : List Byte} (h : g.blocks[i]? = some (false, l)) :
    (expandSegment g).getD i none = some (padTo 4096 l) := by
  obtain ⟨hi, -⟩ := List.getElem?_eq_some_iff.mp h
  simp [expandSegment, List.getD_eq_getElem?_getD, List.zip, List.getElem?_zipWith, h, List.getElem?_range hi]

/-- A segment whose first block is said to be coded under a header that is none, the others raw zeros. -/
def unreadableSegment : CodedSegment :=
  ⟨0x100000000000, List.replicate 512 0, (true, []) :: List.replicate 15 (false, List.replicate 4096 0)⟩

/-- Channel 0 holds 1 GiB, coded storage is off, and the error log ring of region 0 lies at 0 with its control block at 1,024. -/
def loggingState : State :=
  (((State.reset.setFld .FMC_STAT_POP 0 1).setFld .FMC_STAT_CAP 0 1).setFld .RSL_EL_BASE_EN 0 1).setFld .RSL_EL_CB_CB 0 8

theorem loggingState_plain : PlainMemory loggingState ∧ loggingState.coh.dir = [] :=
  ⟨⟨rfl, rfl, rfl, fun _ hp => absurd hp List.not_mem_nil⟩, rfl⟩

theorem unreadableSegment_first : (expandSegment unreadableSegment).getD 0 none = none := by decide +kernel

theorem unreadableSegment_rest {i : Nat} (hi : i < 15) :
    (expandSegment unreadableSegment).getD (i + 1) none = some (padTo 4096 (List.replicate 4096 0)) :=
  expandSegment_raw _ (by rw [unreadableSegment, List.getElem?_cons_succ, List.getElem?_replicate, if_pos hi])

/-- Wherever the registers are those of the logging state, the blocks of the segment are far memory. -/
theorem loggingState_block {s : State} (h : s.regs = loggingState.regs) {i : Nat} (hi : i < 16) :
    CoherentRange s (0x100000000000 + 4096 * i) 4096 := by
  have hb : s.farBytes 0 = 0x40000000 := by
    rw [State.farBytes, State.flag, State.fld, State.fld, h]
    decide +kernel
  exact coherentRange_far0 (by omega) (by omega) (by omega)

/-- What holds while the rest of the segment is stored: the record's STATUS stands at the start of the ring. -/
def Logged (s : State) : Prop := BareMem s ∧ s.regs = loggingState.regs ∧ s.mem.byte 0 = 0xC0#8

/-- The error record of a failed block lands in the ring. -/
theorem raise_logged {s : State} (h : BareMem s) (hr : s.regs = loggingState.regs) (hg : s.rings = []) (he : s.errs = [])
    (cause detail sev addr : Nat) : Logged (s.raise (.region 0) cause 0xC0 detail sev addr) := by
  obtain ⟨es, k, hk, hq⟩ := raise_region s 0 cause 0xC0 detail sev addr (by simp [State.errq, he, Tbl.get, Tbl.find?])
  let u : State := { s with errs := es }
  have hu : BareMem u := h
  have hring : u.ring (.errorLog 0) = {} := by simp [State.ring, u, hg, Tbl.get, Tbl.find?]
  have hregs : ∀ f i j, u.fld f i j = loggingState.fld f i j := fun f i j => by rw [State.fld, State.fld, ← hr]
  have hentry : u.ringEntry (.errorLog 0) (u.ring (.errorLog 0)).tail = 0 := by
    simp only [hring, State.ringEntry, State.ringBase, State.ringSize, hregs]
    decide +kernel
  have hcb : u.ringCb (.errorLog 0) = 1024 := by
    rw [State.ringCb, hregs]
    decide +kernel
  have hopen : u.ringOpen (.errorLog 0) = true := by
    simp only [State.ringOpen, State.ringOn, State.flag, State.ringOver, State.ringSize, hring, hregs]
    decide +kernel
  obtain ⟨hb, hre, hby⟩ := ringStore_bytes hu (.errorLog 0) k.bytes (by rw [k.length_bytes]; decide)
    (coherentRange_near u (by rw [hentry, k.length_bytes]; decide)) (coherentRange_near u (by rw [hcb]; decide))
    (p := (0, 64)) (by rw [hentry, k.length_bytes]; decide) (i := 0) (by decide) (by rw [hcb]; decide)
  rw [hq, ringPut_open hopen (by rw [hring])]
  rw [hentry] at hby
  exact ⟨hb, hre.trans hr, hby.trans (k.bytes_status.trans (by rw [hk]))⟩

/-- A block of the segment stored plain leaves the record where it is. -/
theorem writeBytes_logged {s : State} (h : Logged s) (m : Mover) (cls : Nat) {i : Nat} (hi : i < 16) (l : List Byte) (poison : Bool)
    (hl : l.length = 4096) : Logged (s.writeBytes m cls (0x100000000000 + 4096 * i) l poison).1 := by
  obtain ⟨hb, hr, hy⟩ := h
  obtain ⟨hm, hb', hf⟩ := writeBytes_frame hb m cls _ l poison (by rw [hl]; exact loggingState_block hr hi)
  refine ⟨hb', hm.regs.trans hr, (hf 0 (fun j hj => ?_)).trans hy⟩
  rw [canonical, if_neg (by omega)]
  omega

/-- One block of a segment stored plain: its bytes, or, where it fails its check, poison and an error record of the region (R415,
R426). -/
def storePlainBlock (m : Mover) (cls f : Nat) (g : CodedSegment) (s : State) (i : Nat) : State :=
  match (expandSegment g).getD i none with
  | some l => (s.writeBytes m cls (g.dpa + 4096 * i) l).1
  | none => ((s.writeBytes m cls (g.dpa + 4096 * i) (List.replicate 4096 0) true).1).raise (.region (Fin.ofNat 12 f)) 0x23 0xC0 0x05 1
      (addr := g.dpa + 4096 * i)

/-- With coded storage off and no line in a cache a segment is stored block by block (R422). -/
theorem storeSegment_off {s : State} (hd : s.coh.dir = []) (m : Mover) (cls f : Nat) (g : CodedSegment)
    (hen : s.flag .FMC_CZ_CTRL_EN f = false) :
    s.storeSegment m cls f g = (List.range 16).foldl (storePlainBlock m cls f g) s := by
  have hinv : (List.range 1024).foldl (fun (s : State) i => s.invalidateAll cls (g.dpa / 64 + i)) s = s :=
    foldl_keeps (fun t : State => t = s) (fun (t : State) i => t.invalidateAll cls (g.dpa / 64 + i))
      (fun t i ht => by rw [ht]; exact invalidateAll_id hd _ _) _ rfl
  unfold State.storeSegment
  dsimp only
  rw [hinv, hen]
  exact if_neg Bool.false_ne_true

/-- The blocks after the first leave the record where it is. -/
theorem storePlainBlocks_logged (m : Mover) (cls : Nat) (l : List Nat) (hl : ∀ i ∈ l, i < 15) {s : State} (h : Logged s) :
    Logged ((l.map (· + 1)).foldl (storePlainBlock m cls 0 unreadableSegment) s) := by
  induction l generalizing s with
  | nil => exact h
  | cons i t ih =>
    refine ih (fun j hj => hl j (List.mem_cons_of_mem _ hj)) ?_
    have hi := hl i List.mem_cons_self
    unfold storePlainBlock
    rw [unreadableSegment_rest hi]
    exact writeBytes_logged h m cls (Nat.succ_lt_succ hi) _ false (length_padTo _ _)

/-- Storing the segment ends with its error record in the ring. -/
theorem storeSegment_logged (m : Mover) (cls : Nat) : Logged (loggingState.storeSegment m cls 0 unreadableSegment) := by
  have hbare := BareMem.of_plain loggingState_plain
  have hfirst : Logged (storePlainBlock m cls 0 unreadableSegment loggingState 0) := by
    unfold storePlainBlock
    rw [unreadableSegment_first]
    obtain ⟨hm, hb, -⟩ := writeBytes_frame hbare m cls (unreadableSegment.dpa + 4096 * 0) (List.replicate 4096 0) true
      (by rw [List.length_replicate]; exact loggingState_block rfl (by decide))
    exact raise_logged hb hm.regs hm.rings hm.errs _ _ _ _
  rw [storeSegment_off hbare.2.1 m cls 0 _ (by decide +kernel), show List.range 16 = 0 :: (List.range 15).map (· + 1) from rfl,
    List.foldl_cons]
  exact storePlainBlocks_logged m cls _ (fun i hi => List.mem_range.mp hi) hfirst

/-- Refutes O43: a segment stored plain whose first block fails its check raises an error record of its region, and with the region's
error log ring enabled that record is written outside the segment. -/
theorem not_farChannelsStoreSegmentsAndEncrypt : ¬ Obligations.FarChannelsStoreSegmentsAndEncrypt := by
  intro h
  obtain ⟨-, hin⟩ := h.1 0 unreadableSegment loggingState
  have hok : unreadableSegment.dpa % 65536 = 0 ∧ loggingState.place unreadableSegment.dpa = .far (0 : Chan).val ∧
      loggingState.rangeFree unreadableSegment.dpa 65536 = true := ⟨by decide, by decide +kernel, by decide +kernel⟩
  obtain ⟨-, hout⟩ := hin hok (by decide +kernel) loggingState_plain.1 loggingState_plain.2 (by decide +kernel)
  obtain ⟨t, ht, -, hbut, -⟩ := hout (fun hw => absurd hw.1 (by decide +kernel))
  have hexec : exec (.segmentStoreCoded 0 unreadableSegment) loggingState =
      .next (loggingState.storeSegment ⟨240 + (0 : Chan).val, none⟩ 3 (0 : Chan).val unreadableSegment) := by
    show execSegmentStoreCoded 0 unreadableSegment loggingState = _
    rw [execSegmentStoreCoded, if_pos hok]
  obtain rfl := Host.Outcome.next.inj (hexec.symm.trans ht)
  obtain ⟨-, -, hbyte⟩ := storeSegment_logged ⟨240 + (0 : Chan).val, none⟩ 3
  exact absurd (hbyte.symm.trans (hbut 0 (Or.inl (by decide)))) (by decide +kernel)

end Sys2Proof.Machine
end

section
/-! SUPPORT. What a host port sends leaves memory, the coherence state, its answers and all registers but the journal's peak alone;
the records of refusals, and the answers of a port. -/

namespace Sys2Proof


theorem Tbl.mem_of_find? {α : Type} {t : Tbl α} {k : Nat} {v : α} (h : Tbl.find? t k = some v) : (k, v) ∈ t := by
  induction t with
  | nil => simp [Tbl.find?] at h
  | cons p t ih =>
    obtain ⟨a, x⟩ := p
    unfold Tbl.find? at h
    split at h
    · next e => simp only [Option.some.injEq] at h; subst e h; exact List.mem_cons_self
    · exact List.mem_cons_of_mem _ (ih h)

theorem Tbl.mem_erase {α : Type} {t : Tbl α} {k : Nat} {p : Nat × α} (h : p ∈ Tbl.erase t k) : p ∈ t := by
  induction t with
  | nil => exact h
  | cons q t ih =>
    obtain ⟨a, x⟩ := q
    unfold Tbl.erase at h
    split at h
    · exact List.mem_cons_of_mem _ (ih h)
    · exact List.mem_cons.mpr ((List.mem_cons.mp h).imp id ih)

theorem Tbl.mem_insert {α : Type} {t : Tbl α} {k : Nat} {v : α} {p : Nat × α} (h : p ∈ Tbl.insert t k v) : p = (k, v) ∨ p ∈ t := by
  induction t with
  | nil => simpa [Tbl.insert] using h
  | cons q t ih =>
    obtain ⟨a, x⟩ := q
    unfold Tbl.insert at h
    split at h
    · exact List.mem_cons.mp h
    · split at h
      · exact (List.mem_cons.mp h).imp id (List.mem_cons_of_mem _)
      · rcases List.mem_cons.mp h with h | h
        · exact Or.inr (h ▸ List.mem_cons_self)
        · exact (ih h).imp id (List.mem_cons_of_mem _)

theorem Tbl.mem_set {α : Type} [DecidableEq α] {t : Tbl α} {d : α} {k : Nat} {v : α} {p : Nat × α} (h : p ∈ Tbl.set t d k v) :
    p = (k, v) ∨ p ∈ t := by
  unfold Tbl.set at h
  split at h
  · exact Or.inr (Tbl.mem_erase h)
  · exact Tbl.mem_insert h

end Sys2Proof

namespace Sys2Proof.Machine

/-- The instructions an executor has in flight add to memory no more than those of the whole device. -/
theorem NoUpdates.exe {s : State} (h : NoUpdates s) (x : Executor) : ∀ f ∈ (s.exe x).flights, f.resid = [] := by
  intro f hf
  unfold State.exe Tbl.get at hf
  cases hx : Tbl.find? s.execs x.code with
  | none => rw [hx] at hf; exact absurd hf List.not_mem_nil
  | some e => rw [hx] at hf; exact h _ (Tbl.mem_of_find? hx) f hf

theorem NoUpdates.setExe {s : State} (h : NoUpdates s) (x : Executor) {e : Exec} (he : ∀ f ∈ e.flights, f.resid = []) :
    NoUpdates (s.setExe x e) := by
  intro p hp f hf
  rcases Tbl.mem_set hp with rfl | hp
  · exact he f hf
  · exact h p hp f hf

/-- A port has sent what it could: memory, coherence and the port's answers are as before, of the registers only the journal's peak
may differ, and nothing new adds to memory. -/
structure Sent (p : Nat) (s t : State) : Prop where
  mem : t.mem = s.mem
  coh : t.coh = s.coh
  replies : (t.port p).replies = (s.port p).replies
  flds : FldsBut [Fld.HPT_JSTAT_PEAK.code] s t
  updates : NoUpdates s → NoUpdates t

theorem Sent.refl (p : Nat) (s : State) : Sent p s s := ⟨rfl, rfl, rfl, FldsBut.refl _ s, id⟩

theorem Sent.trans {p : Nat} {s t u : State} (h : Sent p s t) (k : Sent p t u) : Sent p s u :=
  ⟨k.mem.trans h.mem, k.coh.trans h.coh, k.replies.trans h.replies, h.flds.trans k.flds, k.updates ∘ h.updates⟩

theorem TrafficOnly.sent {s t : State} (h : TrafficOnly s t) (p : Nat) : Sent p s t :=
  ⟨h.mem, h.coh, by rw [State.port, State.port, h.hosts], h.flds _, fun hu => by rw [NoUpdates, h.execs]; exact hu⟩

theorem setPort_sent (s : State) (p : Nat) {v : HostPort} (h : v.replies = (s.port p).replies) : Sent p s (s.setPort p v) :=
  ⟨rfl, rfl, by rw [State.port_setPort_same, h], FldsBut.of_regs rfl, id⟩

theorem settleFlight_sent (s : State) (p exec uid bytes : Nat) (o : Outc) (n : Nat) : Sent p s (s.settleFlight exec uid bytes o n) := by
  unfold State.settleFlight
  split
  · exact Sent.refl p s
  · next x hx =>
    refine ⟨rfl, rfl, rfl, FldsBut.of_regs rfl, fun hu => NoUpdates.setExe hu _ (fun f hf => ?_)⟩
    obtain ⟨g, hg, rfl⟩ := List.mem_map.mp hf
    have hz := NoUpdates.exe hu x g hg
    split <;> exact hz

theorem addJournal_sent (s : State) (p : Nat) (w : HostPiece) : Sent p s (s.addJournal p w) := by
  unfold State.addJournal State.peak
  dsimp only
  refine (setPort_sent s p ?_).trans ⟨rfl, rfl, rfl, fldsBut_setFld _ _ _ _ _ (by decide), id⟩
  rfl

theorem sendTlps_sent (s : State) (p : Nat) (l : List Tlp) : Sent p s (s.sendTlps p l) := setPort_sent s p rfl

theorem sendPiece_sent (s : State) (p : Nat) (w : HostPiece) : Sent p s (s.sendPiece p w) := by
  unfold State.sendPiece
  extract_lets tlps u
  have hu : Sent p s u := (((ask_traffic s _ _ _ _).sent p).trans (sendTlps_sent _ p _)).trans (addJournal_sent _ p w)
  split
  · exact hu.trans (settleFlight_sent _ p _ _ _ _ _)
  · exact hu

theorem pumpWrites_sent (n : Nat) (s : State) (p : Nat) : Sent p s (State.pumpWrites n s p) := by
  induction n generalizing s with
  | zero => exact Sent.refl p s
  | succ n ih =>
    unfold State.pumpWrites
    split
    · exact Sent.refl p s
    · split
      · exact Sent.refl p s
      · next v t hw =>
        refine Sent.trans ?_ (ih _)
        refine ((ask_traffic s _ _ _ _).sent p).trans (Sent.trans (setPort_sent _ p ?_) (sendTlps_sent _ p _))
        exact (((ask_traffic s (hostMover p) 4 4 (.pcie (Fin.ofNat 4 p))).sent p).replies).symm
      · split
        · exact Sent.refl p s
        · refine Sent.trans (Sent.trans (setPort_sent s p ?_) (sendPiece_sent _ p _)) (ih _)
          rfl

theorem pumpReads_sent (s : State) (p : Nat) : Sent p s (s.pumpReads p) := by
  unfold State.pumpReads
  split
  · exact Sent.refl p s
  · refine Sent.trans (setPort_sent s p ?_) (sendTlps_sent _ p _)
    rfl

theorem pumpPort_sent (s : State) (p : Nat) : Sent p s (s.pumpPort p) := (pumpWrites_sent _ s p).trans (pumpReads_sent _ p)

/-! ## Refusals -/

/-- The numbers of the fields of HPT_ACCERR. -/
def accerrFlds : List Nat :=
  [Fld.HPT_ACCERR_VALID.code, Fld.HPT_ACCERR_WRITE.code, Fld.HPT_ACCERR_BAR0.code, Fld.HPT_ACCERR_COUNT.code, Fld.HPT_ACCERR_ADDR.code]

/-- HPT_ACCERR of a port records a refusal: VALID is set, and where it was clear the other fields are those of this one (R72). -/
def Noted (s t : State) (p : Port) (a : Nat) (wr bar0 : Bool) : Prop :=
  t.flag .HPT_ACCERR_VALID p = true ∧ (s.fld .HPT_ACCERR_VALID p = 0 →
    t.fld .HPT_ACCERR_ADDR p = canonical a % 2 ^ 48 ∧ t.fld .HPT_ACCERR_WRITE p = bit1 wr ∧ t.fld .HPT_ACCERR_BAR0 p = bit1 bar0 ∧
    t.fld .HPT_ACCERR_COUNT p = 1)

/-- What leaves HPT_ACCERR alone before and after leaves the record standing. -/
theorem Noted.frame {s s' t t' : State} {p : Port} {a : Nat} {wr bar0 : Bool} {cs ds : List Nat} (h : Noted s' t p a wr bar0)
    (hs : FldsBut cs s s') (ht : FldsBut ds t t') (hc : ∀ c ∈ accerrFlds, c ∉ cs ∧ c ∉ ds) : Noted s t' p a wr bar0 := by
  have hs0 := hs .HPT_ACCERR_VALID p 0 (hc _ (by decide)).1
  obtain ⟨hv, hf⟩ := h
  refine ⟨(ht.flag (hc _ (by decide)).2 p 0).trans hv, fun hz => ?_⟩
  obtain ⟨h1, h2, h3, h4⟩ := hf (hs0.trans hz)
  exact ⟨(ht _ _ _ (hc _ (by decide)).2).trans h1, (ht _ _ _ (hc _ (by decide)).2).trans h2, (ht _ _ _ (hc _ (by decide)).2).trans h3,
    (ht _ _ _ (hc _ (by decide)).2).trans h4⟩

/-- The fields a recorded refusal may change. -/
def refusalFlds : List Nat := Fld.HPT_JSTAT_PEAK.code :: accerrFlds

/-- What a refusal of the access table changes beside its record: memory, coherence and the port's answers stand. -/
structure AfterRefusal (p : Nat) (s t : State) : Prop where
  mem : t.mem = s.mem
  coh : t.coh = s.coh
  replies : (t.port p).replies = (s.port p).replies
  flds : FldsBut refusalFlds s t
  updates : NoUpdates s → NoUpdates t

theorem bit1_mod (b : Bool) : bit1 b % 2 ^ 1 = bit1 b := by cases b <;> rfl

/-- The first refusal since VALID was cleared, as it is written into HPT_ACCERR (R72). -/
theorem accerr_noted (s : State) (p : Port) (a : Nat) (wr bar0 : Bool) :
    Noted s (((((s.setFld .HPT_ACCERR_VALID p 1).setFld .HPT_ACCERR_WRITE p (bit1 wr)).setFld .HPT_ACCERR_BAR0 p (bit1 bar0)).setFld
      .HPT_ACCERR_COUNT p 1).setFld .HPT_ACCERR_ADDR p (canonical a)) p a wr bar0 := by
  have hd : ∀ {f g : Fld} (u : State) (v : Nat), f.code ≠ g.code → (u.setFld g p v).fld f p = u.fld f p :=
    fun u v hn => u.fld_setFld_code v hn
  refine ⟨?_, fun _ => ⟨State.fld_setFld_same _ _ _ _ _, ?_, ?_, ?_⟩⟩
  · rw [State.flag, hd _ _ (by decide), hd _ _ (by decide), hd _ _ (by decide), hd _ _ (by decide), State.fld_setFld_same]
    rfl
  · rw [hd _ _ (by decide), hd _ _ (by decide), hd _ _ (by decide), State.fld_setFld_same]
    exact bit1_mod wr
  · rw [hd _ _ (by decide), hd _ _ (by decide), State.fld_setFld_same]
    exact bit1_mod bar0
  · rw [hd _ _ (by decide), State.fld_setFld_same]
    rfl

theorem noteRefusal_noted (s : State) (p : Port) (a : Nat) (wr bar0 : Bool) : Noted s (s.noteRefusal p a wr bar0) p a wr bar0 := by
  unfold State.noteRefusal
  split
  · next hv =>
    refine ⟨?_, fun hz => ?_⟩
    · rw [State.flag, State.bumpSat, State.fld_setFld_code _ _ (by decide)]
      exact hv
    · rw [State.flag, hz] at hv
      exact absurd hv (by decide)
  · exact (accerr_noted s p a wr bar0).frame (FldsBut.refl [] s) ((FldsBut.of_regs rfl).trans (pumpPort_sent _ p).flds) (by decide)

theorem noteRefusal_after (s : State) (p : Port) (a : Nat) (wr bar0 : Bool) : AfterRefusal p s (s.noteRefusal p a wr bar0) := by
  unfold State.noteRefusal
  split
  · exact ⟨rfl, rfl, rfl, fldsBut_setFld _ _ _ _ _ (by decide), id⟩
  · extract_lets s1 s2 s3
    have h3 : FldsBut refusalFlds s s3 :=
      ((((fldsBut_setFld s .HPT_ACCERR_VALID p 1 0 (by decide)).trans (fldsBut_setFld _ .HPT_ACCERR_WRITE p _ 0 (by decide))).trans
        (fldsBut_setFld _ .HPT_ACCERR_BAR0 p _ 0 (by decide))).trans (fldsBut_setFld _ .HPT_ACCERR_COUNT p 1 0 (by decide))).trans
        (fldsBut_setFld _ .HPT_ACCERR_ADDR p _ 0 (by decide))
    have hs := (setPort_sent s3 p (v := { s3.port p with waits := (s3.port p).waits ++ [.msi 0] }) rfl).trans (pumpPort_sent _ p)
    exact ⟨hs.mem, hs.coh, hs.replies, h3.trans (hs.flds.mono (by decide)), hs.updates⟩

/-- A decode error of a port counts once, and leaves memory, coherence, answers and what is in flight alone (R51). -/
theorem hostError_frame (s : State) (p a : Nat) (wr : Bool) : (s.hostError p a wr).mem = s.mem ∧ (s.hostError p a wr).coh = s.coh ∧
    (s.hostError p a wr).execs = s.execs ∧ ((s.hostError p a wr).port p).replies = (s.port p).replies ∧
    (s.hostError p a wr).regs = (s.bump .HPT_ERR_UR p).regs := by
  unfold State.hostError State.iff
  dsimp only
  split
  · refine ⟨rfl, rfl, rfl, ?_, rfl⟩
    simp [State.port]
    rfl
  · exact ⟨rfl, rfl, rfl, rfl, rfl⟩

/-! ## Answers -/

theorem reply_replies (s : State) (p : Nat) (r : Reply) : ((s.reply p r).port p).replies = (s.port p).replies ++ [r] := by
  unfold State.reply
  extract_lets u
  have hu : u.port p = s.port p := by unfold u; split <;> rfl
  rw [State.port_setPort_same, hu]

theorem reply_frame (s : State) (p : Nat) (r : Reply) : (s.reply p r).mem = s.mem ∧ (s.reply p r).regs = s.regs := by
  unfold State.reply
  cases r <;> exact ⟨rfl, rfl⟩

end Sys2Proof.Machine
end

section
/-! SUPPORT. The checks of a host port's request part by part, and its posted writes (R69 to R72, R510, R511, R542, R570). -/

namespace Sys2Proof.Machine

/-! ## The checks -/

theorem accBit_of_flds {s t : State} {cs : List Nat} (h : FldsBut cs s t) (hc : Fld.HPT_ACC_ENT.code ∉ cs) (p a : Nat) (wr : Bool) :
    t.accBit p a wr = s.accBit p a wr := by
  unfold State.accBit
  dsimp only
  rw [h _ _ _ hc]

/-- The checks of R70 read HPT_ACC and FMC_STAT alone. -/
theorem checkPart_of_flds {s t : State} {cs : List Nat} (h : FldsBut cs s t)
    (hc : Fld.HPT_ACC_ENT.code ∉ cs ∧ Fld.FMC_STAT_POP.code ∉ cs ∧ Fld.FMC_STAT_CAP.code ∉ cs) (p a : Nat) (rd wr : Bool) :
    t.checkPart p a rd wr = s.checkPart p a rd wr := by
  unfold State.checkPart
  simp only [accBit_of_flds h hc.1, State.place_of_flds h hc.2.1 hc.2.2]

/-- A part that passes leads to memory (R70). -/
theorem place_of_pass {s : State} {p a : Nat} {rd wr : Bool} (h : s.checkPart p a rd wr = .pass) :
    (s.place (canonical a)).memory = true := by
  unfold State.checkPart at h
  dsimp only at h
  split at h
  · cases h
  · split at h
    · cases h
    · split at h
      · assumption
      · cases h

/-- The parts of a request between multiples of 64 bytes, each with what the checks of R70 say of it. -/
def State.checkedParts (s : State) (p : Port) (a n : Nat) (rd wr : Bool) : List ((Nat × Nat) × Verdict) :=
  (splitAligned 64 a n).map (fun q => (q, s.checkPart p q.1 rd wr))

theorem checkedParts_of_flds {s t : State} {cs : List Nat} (h : FldsBut cs s t)
    (hc : Fld.HPT_ACC_ENT.code ∉ cs ∧ Fld.FMC_STAT_POP.code ∉ cs ∧ Fld.FMC_STAT_CAP.code ∉ cs) (p : Port) (a n : Nat) (rd wr : Bool) :
    t.checkedParts p a n rd wr = s.checkedParts p a n rd wr := by
  unfold State.checkedParts
  simp only [checkPart_of_flds h hc]

/-- A part of a request is a part of its range, and its verdict is that of its first byte. -/
theorem mem_checkedParts {s : State} {p : Port} {a n : Nat} {rd wr : Bool} {q : (Nat × Nat) × Verdict}
    (h : q ∈ s.checkedParts p a n rd wr) : q.1 ∈ splitRange a n ∧ q.2 = s.checkPart p q.1.1 rd wr := by
  unfold State.checkedParts at h
  rw [splitAligned_line] at h
  obtain ⟨r, hr, rfl⟩ := List.mem_map.mp h
  exact ⟨hr, rfl⟩

/-- The parts of a request that pass. -/
def State.passedParts (s : State) (p : Port) (a n : Nat) (rd wr : Bool) : List (Nat × Nat) :=
  ((s.checkedParts p a n rd wr).filter (fun q => decide (q.2 = .pass))).map (·.1)

theorem mem_passedParts {s : State} {p : Port} {a n : Nat} {rd wr : Bool} {x : Nat × Nat} :
    x ∈ s.passedParts p a n rd wr ↔ ∃ q ∈ s.checkedParts p a n rd wr, q.2 = .pass ∧ q.1 = x := by
  simp only [State.passedParts, List.mem_map, List.mem_filter, decide_eq_true_eq, and_assoc]

/-- The parts of a request that pass lead to memory. -/
theorem passedParts_memory {s : State} {p : Port} {a n : Nat} {rd wr : Bool} {x : Nat × Nat} (hx : x ∈ s.passedParts p a n rd wr) :
    x ∈ splitRange a n ∧ (s.place (canonical x.1)).memory = true := by
  obtain ⟨q, hq, hpass, rfl⟩ := mem_passedParts.mp hx
  obtain ⟨hsp, hv⟩ := mem_checkedParts hq
  exact ⟨hsp, place_of_pass (hv.symm.trans hpass)⟩

/-- The parts that pass follow one another. -/
theorem passedParts_pairwise (s : State) (p : Port) (a n : Nat) (rd wr : Bool) :
    (s.passedParts p a n rd wr).Pairwise (fun x y => x.1 + x.2 ≤ y.1) := by
  have h : (s.checkedParts p a n rd wr).Pairwise (fun x y => x.1.1 + x.1.2 ≤ y.1.1) := by
    unfold State.checkedParts
    rw [List.pairwise_map, splitAligned_line]
    exact splitRange_pairwise a n
  exact List.pairwise_map.mpr (h.sublist List.filter_sublist)

/-! ## What is recorded of parts that do not pass -/

/-- A posted write's refused and unmapped parts are recorded (R72, R51). -/
def State.noteParts (s : State) (p : Port) (l : List ((Nat × Nat) × Verdict)) : State :=
  let s := match firstWith l .refused with
    | some a => s.noteRefusal p a true false
    | none => s
  match firstWith l .unmapped with
  | some a => s.hostError p a true
  | none => s

/-- The first of the two records leaves everything but HPT_ACCERR and the journal's peak alone; the second counts in HPT_ERR.UR. -/
theorem noteParts_split (s : State) (p : Port) (l : List ((Nat × Nat) × Verdict)) : ∃ r : State,
    AfterRefusal p s r ∧ (∀ a, firstWith l .refused = some a → Noted s r p a true false) ∧
    ((s.noteParts p l).mem = r.mem ∧ (s.noteParts p l).coh = r.coh ∧ (s.noteParts p l).execs = r.execs) ∧
    FldsBut [Fld.HPT_ERR_UR.code] r (s.noteParts p l) ∧
    ((firstWith l .unmapped).isSome = true → (s.noteParts p l).fld .HPT_ERR_UR p = (r.fld .HPT_ERR_UR p + 1) % 2 ^ 16) := by
  unfold State.noteParts
  extract_lets r
  have hr : AfterRefusal p s r ∧ (∀ a, firstWith l .refused = some a → Noted s r p a true false) := by
    unfold r
    cases hf : firstWith l .refused with
    | none => exact ⟨⟨rfl, rfl, rfl, FldsBut.refl _ s, id⟩, fun a ha => by cases ha⟩
    | some a => exact ⟨noteRefusal_after s p a true false, fun b hb => by cases hb; exact noteRefusal_noted s p a true false⟩
  refine ⟨r, hr.1, hr.2, ?_⟩
  clear_value r
  cases firstWith l .unmapped with
  | none => exact ⟨⟨rfl, rfl, rfl⟩, FldsBut.refl _ r, fun h => by cases h⟩
  | some a =>
    obtain ⟨hm, hc, he, -, hg⟩ := hostError_frame r p a true
    refine ⟨⟨hm, hc, he⟩, (fldsBut_setFld r .HPT_ERR_UR p _ 0 (by decide)).trans (FldsBut.of_regs hg), fun _ => ?_⟩
    rw [State.fld, hg]
    exact State.fld_setFld_same r _ _ _ _

/-! ## Parts that are posted -/

/-- Parts of a posted write take effect one by one (R511). -/
def State.postAll (s : State) (p a : Nat) (l : List Byte) (ep : Bool) (parts : List (Nat × Nat)) : State :=
  parts.foldl (fun (s : State) q => s.postPart p q.1 ((l.drop (q.1 - a)).take q.2) ep) s

theorem postAll_flds (p a : Nat) (l : List Byte) (ep : Bool) (parts : List (Nat × Nat)) {s : State}
    (h : ∀ q ∈ parts, (s.place (canonical q.1)).memory = true) : FldsBut writeFlds s (s.postAll p a l ep parts) := by
  induction parts generalizing s with
  | nil => exact FldsBut.refl _ s
  | cons q t ih =>
    have hq := postPart_flds s p q.1 ((l.drop (q.1 - a)).take q.2) ep (h q List.mem_cons_self)
    exact hq.trans (ih (fun r hr => by
      rw [State.place_of_flds hq (by decide) (by decide)]; exact h r (List.mem_cons_of_mem _ hr)))

/-- A part in near or far memory is one non-caching write of the port in class HOST (R511). -/
theorem postPart_coherent {s : State} {a : Nat} (h : (s.place (canonical a)).coherent = true) (p : Nat) (l : List Byte) (ep : Bool) :
    s.postPart p a l ep = (s.writePart (hostMover p) 4 a l ep).1 := by
  unfold State.postPart
  dsimp only
  rw [if_pos h]

theorem postAll_writeParts (p a : Nat) (l : List Byte) (ep : Bool) (parts : List (Nat × Nat)) {s : State} (h : BareMem s)
    (hp : ∀ q ∈ parts, CoherentPart s q) : s.postAll p a l ep parts = s.writeParts (hostMover p) 4 a l ep parts := by
  induction parts generalizing s with
  | nil => rfl
  | cons q t ih =>
    have hq := hp q List.mem_cons_self
    obtain ⟨hm, hb⟩ := writePart_keeps_bare h hq (hostMover p) 4 ((l.drop (q.1 - a)).take q.2) ep
    show (s.postPart p q.1 ((l.drop (q.1 - a)).take q.2) ep).postAll p a l ep t = _
    rw [postPart_coherent hq.2]
    exact ih hb (fun r hr => ⟨(hp r (List.mem_cons_of_mem _ hr)).1, by rw [hm.place]; exact (hp r (List.mem_cons_of_mem _ hr)).2⟩)

/-! ## Posted writes -/

/-- A TLP that carries poison is counted first (R511). -/
def State.countEp (s : State) (p : Port) (ep : Bool) : State := s.iff ep (fun s => s.bump .HPT_ERR_EP p)

theorem countEp_frame (s : State) (p : Port) (ep : Bool) : FldsBut [Fld.HPT_ERR_EP.code] s (s.countEp p ep) ∧
    (s.countEp p ep).mem = s.mem ∧ (s.countEp p ep).coh = s.coh ∧ (s.countEp p ep).execs = s.execs := by
  cases ep
  · exact ⟨FldsBut.refl _ s, rfl, rfl, rfl⟩
  · exact ⟨fldsBut_setFld s .HPT_ERR_EP p _ 0 (by decide), rfl, rfl, rfl⟩

theorem fenced_of_flds {s t : State} {cs : List Nat} (h : FldsBut cs s t) (hc : Fld.RSL_STAT_STATE.code ∉ cs) : t.fenced = s.fenced := by
  rw [State.fenced, State.fenced, h _ _ _ hc]

/-- A posted write that is neither refused whole nor dropped: what does not pass is recorded, what passes takes effect (R70, R72,
R511). -/
def State.posted (s : State) (p : Port) (addr : Nat) (data : List Byte) (ep : Bool) : State :=
  ((s.countEp p ep).noteParts p (s.checkedParts p addr data.length false true)).postAll p addr data ep
    (s.passedParts p addr data.length false true)

/-- What a port that serves does with a posted write (R510, R511, R542, R570). -/
theorem hostPostedWrite_next {p : Port} {s : State} (hs : s.portServes p = true) {addr : Nat} {data : List Byte}
    (hf : s.rangeFree addr data.length = true) (ep : Bool) :
    exec (.hostPostedWrite p addr data ep) s = .next (
      if s.flag .KTL_BOOT_KONLY 0 then (s.countEp p ep).bump .HPT_ERR_UR p
      else if s.fenced then s.countEp p ep
      else s.posted p addr data ep) := by
  have hu := (countEp_frame s p ep).1
  rw [State.posted, State.passedParts, ← hu.flag (by decide) 0 0, ← fenced_of_flds hu (by decide),
    ← checkedParts_of_flds hu (by decide) p addr data.length false true]
  show execHostPostedWrite p addr data ep s = _
  unfold execHostPostedWrite State.postAll
  rw [hs, hf, if_neg (by decide), List.foldl_map]
  rfl

/-- The state in which the parts of a posted write take effect: what does not pass has been recorded. -/
theorem posted_prelude (s : State) (p : Port) (addr : Nat) (data : List Byte) (ep : Bool) : ∃ r v : State,
    s.posted p addr data ep = v.postAll p addr data ep (s.passedParts p addr data.length false true) ∧
    (∀ a : Nat, firstWith (s.checkedParts p addr data.length false true) .refused = some a → Noted s r p a true false) ∧
    FldsBut [Fld.HPT_ERR_UR.code] r v ∧
    ((firstWith (s.checkedParts p addr data.length false true) .unmapped).isSome = true →
      v.fld .HPT_ERR_UR p = (s.fld .HPT_ERR_UR p + 1) % 2 ^ 16) ∧
    (∀ x, v.place x = s.place x) ∧ v.mem = s.mem ∧ (BareMem s → BareMem v) := by
  obtain ⟨hu, hum, huc, hue⟩ := countEp_frame s p ep
  obtain ⟨r, hr, hnoted, ⟨hvm, hvc, hve⟩, hv, hur⟩ :=
    noteParts_split (s.countEp p ep) p (s.checkedParts p addr data.length false true)
  refine ⟨r, _, rfl, fun a ha => (hnoted a ha).frame hu (FldsBut.refl [] r) (by decide), hv, fun ha => ?_, fun x => ?_, ?_, ?_⟩
  · rw [hur ha, hr.flds _ _ _ (by decide), hu _ _ _ (by decide)]
  · rw [State.place_of_flds hv (by decide) (by decide), State.place_of_flds hr.flds (by decide) (by decide),
      State.place_of_flds hu (by decide) (by decide)]
  · rw [hvm, hr.mem, hum]
  · rintro ⟨hc, hd, hn⟩
    refine ⟨by rw [hvm, hr.mem, hum, hc], by rw [hvc, hr.coh, huc, hd], ?_⟩
    rw [NoUpdates, hve]
    exact hr.updates (by rw [NoUpdates, hue]; exact hn)

/-- What a posted write records of the parts that do not pass (R51, R72). -/
theorem posted_records (s : State) (p : Port) (addr : Nat) (data : List Byte) (ep : Bool) :
    (∀ a : Nat, firstWith (s.checkedParts p addr data.length false true) .refused = some a →
      Noted s (s.posted p addr data ep) p a true false) ∧
    ((firstWith (s.checkedParts p addr data.length false true) .unmapped).isSome = true →
      (s.posted p addr data ep).fld .HPT_ERR_UR p = (s.fld .HPT_ERR_UR p + 1) % 2 ^ 16) := by
  obtain ⟨r, v, ht, hnoted, hv, hur, hplace, -, -⟩ := posted_prelude s p addr data ep
  have hpost : FldsBut writeFlds v (s.posted p addr data ep) := by
    rw [ht]
    exact postAll_flds p addr data ep _ (fun q hq => by rw [hplace]; exact (passedParts_memory hq).2)
  refine ⟨fun a ha => (hnoted a ha).frame (FldsBut.refl [] s)
    ((hv.mono (by decide)).trans (hpost.mono (List.subset_cons_self Fld.HPT_ERR_UR.code _))) (by decide), fun ha => ?_⟩
  rw [hpost _ _ _ (by decide), hur ha]

/-- A posted write whose passing parts lie in near and far memory writes their bytes and no other (R511). -/
theorem posted_bytes {p : Port} {s : State} {addr : Nat} {data : List Byte} (ep : Bool) (h : BareMem s)
    (hc : ∀ q ∈ s.checkedParts p addr data.length false true, q.2 = .pass → (s.place (canonical q.1.1)).coherent = true) :
    (∀ b : Nat, (∀ q ∈ s.checkedParts p addr data.length false true, q.2 = .pass → ∀ i : Nat, i < q.1.2 → canonical (q.1.1 + i) ≠ b) →
      (s.posted p addr data ep).mem.byte b = s.mem.byte b) ∧
    (data.length ≤ 2 ^ 30 → ∀ q ∈ s.checkedParts p addr data.length false true, q.2 = .pass → ∀ i : Nat, i < q.1.2 →
      (s.posted p addr data ep).mem.byte (canonical (q.1.1 + i)) = data.getD (q.1.1 + i - addr) 0) := by
  obtain ⟨r, v, ht, -, -, -, hplace, hmem, hbare⟩ := posted_prelude s p addr data ep
  have hparts : ∀ x ∈ s.passedParts p addr data.length false true, CoherentPart v x := by
    intro x hx
    refine ⟨(mem_splitRange (passedParts_memory hx).1).2.2.2, ?_⟩
    obtain ⟨q, hq, hpass, rfl⟩ := mem_passedParts.mp hx
    rw [hplace]
    exact hc q hq hpass
  rw [ht, postAll_writeParts p addr data ep _ (hbare h) hparts]
  refine ⟨fun b hb => ?_, fun hlen q hq hpass i hi => ?_⟩
  · rw [(writeParts_frame _ (hbare h) hparts).2.2 b ?_, hmem]
    intro x hx
    obtain ⟨q, hq, hpass, rfl⟩ := mem_passedParts.mp hx
    exact hb q hq hpass
  · exact writeParts_bytes _ (hbare h) hparts
      (fun x hx => ⟨(mem_splitRange (passedParts_memory hx).1).1, (mem_splitRange (passedParts_memory hx).1).2.1⟩)
      hlen (passedParts_pairwise s p addr data.length false true) q.1 (mem_passedParts.mpr ⟨q, hq, hpass, rfl⟩) i hi

/-- A posted write of one part in a store is one request of agent 128 + p (R511). -/
theorem posted_store {p : Port} {s : State} {addr : Nat} {data : List Byte} (ep : Bool) (hn : 0 < data.length)
    (hl : addr / 64 = (addr + data.length - 1) / 64) (hp : s.checkPart p addr false true = .pass)
    (hc : (s.place (canonical addr)).coherent = false) :
    s.posted p addr data ep = (s.countEp p ep).scratchAccess
      ⟨Fin.ofNat 256 (128 + p.val), canonical addr, some (runWrite (canonical addr) data ep)⟩ := by
  have hparts : s.checkedParts p addr data.length false true = [((addr, data.length), .pass)] := by
    unfold State.checkedParts
    rw [splitAligned_line, splitRange_one hn hl, List.map_cons, List.map_nil, hp]
  have hplace : ((s.countEp p ep).place (canonical addr)).coherent = false := by
    rw [State.place_of_flds (countEp_frame s p ep).1 (by decide) (by decide)]; exact hc
  rw [State.posted, State.passedParts, hparts]
  show (s.countEp p ep).postPart p addr ((data.drop (addr - addr)).take data.length) ep = _
  rw [Nat.sub_self, List.drop_zero, List.take_length]
  unfold State.postPart
  dsimp only
  rw [hplace]
  exact if_neg Bool.false_ne_true

end Sys2Proof.Machine
end

section
/-! SUPPORT. Reads, AtomicOps, register accesses and configuration requests of a host port (R2, R51, R67, R70 to R72, R104, R513, R542). -/

namespace Sys2Proof.Machine

/-! ## Requests that fail -/

/-- A request fails with the status of its lowest failing part; a refused part is recorded, and where none is refused only HPT_ERR.UR
counts (R72). -/
def FailedWith (s t : State) (p : Port) (l : List ((Nat × Nat) × Verdict)) (q : (Nat × Nat) × Verdict) (wr : Bool) : Prop :=
  (t.port p).replies = (s.port p).replies ++ [if q.2 = .unmapped then .ur else .ca] ∧ t.mem = s.mem ∧
  (∀ a : Nat, firstWith l .refused = some a → Noted s t p a wr false) ∧
  (firstWith l .refused = none → ∀ k, k ≠ Fld.HPT_ERR_UR.key p 0 → Tbl.find? t.regs k = Tbl.find? s.regs k)

theorem bump_reply (s : State) (p : Port) (f : Fld) (r : Reply) (hf : f.code = Fld.HPT_ERR_UR.code ∨ f.code = Fld.HPT_ERR_CA.code) :
    (((s.bump f p).reply p r).port p).replies = (s.port p).replies ++ [r] ∧ ((s.bump f p).reply p r).mem = s.mem ∧
      FldsBut [Fld.HPT_ERR_UR.code, Fld.HPT_ERR_CA.code] s ((s.bump f p).reply p r) := by
  obtain ⟨hm, hr⟩ := reply_frame (s.bump f p) p r
  exact ⟨reply_replies _ _ _, hm, (fldsBut_setFld s f p _ 0 (by simpa using hf)).trans (FldsBut.of_regs hr)⟩

theorem failRequest_some {s : State} {p : Port} {l : List ((Nat × Nat) × Verdict)} {q : (Nat × Nat) × Verdict} (wr : Bool)
    (h : l.find? (fun q => decide (q.2 ≠ .pass)) = some q) : ∃ t, s.failRequest p l wr = some t ∧ FailedWith s t p l q wr := by
  unfold State.failRequest
  rw [h]
  dsimp only
  refine ⟨_, rfl, ?_⟩
  cases hf : firstWith l .refused with
  | some a =>
    have hr := noteRefusal_after s p a wr false
    have hn := noteRefusal_noted s p a wr false
    dsimp only
    generalize s.noteRefusal p a wr false = r at hr hn
    have hend : ∀ (f : Fld) (rep : Reply), f.code = Fld.HPT_ERR_UR.code ∨ f.code = Fld.HPT_ERR_CA.code →
        (((r.bump f p).reply p rep).port p).replies = (s.port p).replies ++ [rep] ∧ ((r.bump f p).reply p rep).mem = s.mem ∧
          Noted s ((r.bump f p).reply p rep) p a wr false := by
      intro f rep hc
      obtain ⟨h1, h2, h3⟩ := bump_reply r p f rep hc
      exact ⟨by rw [h1, hr.replies], by rw [h2, hr.mem], hn.frame (FldsBut.refl [] s) h3 (by decide)⟩
    unfold FailedWith
    rw [hf]
    by_cases hq : q.2 = .unmapped
    · rw [if_pos hq, if_pos hq]
      obtain ⟨h1, h2, h3⟩ := hend .HPT_ERR_UR .ur (Or.inl rfl)
      exact ⟨h1, h2, fun b hb => by cases hb; exact h3, fun hb => by cases hb⟩
    · rw [if_neg hq, if_neg hq]
      obtain ⟨h1, h2, h3⟩ := hend .HPT_ERR_CA .ca (Or.inr rfl)
      exact ⟨h1, h2, fun b hb => by cases hb; exact h3, fun hb => by cases hb⟩
  | none =>
    have hq : q.2 = .unmapped := by
      have hnp : q.2 ≠ .pass := by simpa using List.find?_some h
      have hnr : q.2 ≠ .refused := by
        have := List.find?_eq_none.mp (Option.map_eq_none_iff.mp hf) q (List.mem_of_find?_eq_some h)
        simpa using this
      cases hv : q.2 with
      | pass => exact absurd hv hnp
      | unmapped => rfl
      | refused => exact absurd hv hnr
    unfold FailedWith
    rw [hf, if_pos hq, if_pos hq]
    obtain ⟨h1, h2, -⟩ := bump_reply s p .HPT_ERR_UR .ur (Or.inl rfl)
    refine ⟨h1, h2, (fun b hb => by cases hb), fun _ k hk => ?_⟩
    dsimp only
    rw [(reply_frame _ p .ur).2]
    exact s.regs_setFld_other _ hk

theorem failRequest_none (s : State) (p : Port) {l : List ((Nat × Nat) × Verdict)} (wr : Bool) (h : ∀ q ∈ l, q.2 = .pass) :
    s.failRequest p l wr = none := by
  have hn : l.find? (fun q => decide (q.2 ≠ .pass)) = none := by
    rw [List.find?_eq_none]
    intro q hq
    simpa using h q hq
  unfold State.failRequest
  rw [hn]

/-! ## Reads -/

/-- What a port that serves and has no posted write waiting does with a read (R513, R542, R570). -/
theorem hostRead_next {p : Port} {s : State} (hs : s.portServes p = true) (hw : s.postedWaits p = false) (addr len : Nat) :
    exec (.hostRead p addr len) s = .next (
      if s.flag .KTL_BOOT_KONLY 0 then (s.bump .HPT_ERR_UR p).reply p .ur
      else if s.fenced then (s.bump .HPT_ERR_CA p).reply p .ca
      else match s.failRequest p (s.checkedParts p addr len true false) false with
        | some t => t
        | none => match s.waitFor [(addr, len)] with
          | some u => u
          | none => (s.noteRead ⟨128 + p.val, none⟩ 4 addr len).reply p (.data (s.readBytes addr len).bytes ((s.readBytes addr len).detail != 0))) := by
  show execHostRead p addr len s = _
  unfold execHostRead
  rw [hs, hw]
  rfl

/-! ## AtomicOps -/

/-- With no slot coded, a number written within a line stands there byte by byte, and nothing else changes. -/
theorem Mem.byte_writeNumber {m : Mem} (h : m.coded = []) (c n x : Nat) (poison : Bool) (hl : c % 64 + n ≤ 64) (b : Nat) :
    (m.writeLine (c / 64) ⟨byteMask (c % 64) n, BitVec.ofNat 512 (x <<< (8 * (c % 64))), poison⟩).byte b =
      if c ≤ b ∧ b < c + n then (leBytes n x).getD (b - c) 0 else m.byte b := by
  rw [Mem.byte_writeLine h]
  simp only [testBit_byteMask, Bool.and_eq_true, decide_eq_true_eq]
  by_cases hb : c ≤ b ∧ b < c + n
  · rw [if_pos hb, if_pos (by omega), lineByte_shifted _ _ _ (by omega) (by omega), getD_leBytes _ _ _ (by omega)]
    congr 4
    omega
  · rw [if_neg hb, if_neg (by omega)]

/-- With no slot coded, the bytes of a plain line as a number, from an offset on (R7). -/
theorem Mem.line_extract {m : Mem} (h : m.coded = []) (c n : Nat) (hl : c % 64 + n ≤ 64) :
    ((m.line (c / 64)).extractLsb' (8 * (c % 64)) (8 * n)).toNat = leNat ((List.range n).map (fun i => m.byte (c + i))) := by
  have hline : m.line (c / 64) = BitVec.ofNat 512 (leNat (m.raw (c / 64 * 64) 64)) := by
    unfold Mem.line
    rw [Mem.codedAt_none h]
  apply Nat.eq_of_testBit_eq
  intro k
  obtain ⟨i, j, hj, rfl⟩ : ∃ i j, j < 8 ∧ k = 8 * i + j := ⟨k / 8, k % 8, by omega, by omega⟩
  rw [testBit_leNat _ _ _ hj, BitVec.testBit_toNat, BitVec.getLsbD_extractLsb', hline, BitVec.getLsbD_ofNat,
    show 8 * (c % 64) + (8 * i + j) = 8 * (c % 64 + i) + j by ring, testBit_leNat _ _ _ hj]
  by_cases hi : i < n
  · have h1 : 8 * i + j < 8 * n := by omega
    have h2 : 8 * (c % 64 + i) + j < 512 := by omega
    have h3 : c / 64 * 64 + (c % 64 + i) = c + i := by omega
    simp only [h1, h2, decide_true, Bool.true_and, Mem.raw, List.getD_eq_getElem?_getD, List.getElem?_map,
      List.getElem?_range hi, List.getElem?_range (show c % 64 + i < 64 by omega), Option.map_some, Option.getD_some, h3]
  · have h1 : ¬ 8 * i + j < 8 * n := by omega
    simp [h1, hi]

/-- A read of a line meets no coded slot where none is coded (R424). -/
theorem noteCoded_id {s : State} (h : s.mem.coded = []) (cls line : Nat) : s.noteCoded cls line = s := by
  unfold State.noteCoded
  dsimp only
  rw [Mem.codedAt_none h, ite_self]

/-- An atomic on a line no cache holds, free of poison, writes its word and answers the old one (R104). -/
theorem ncAtomic_bare {s : State} (h : BareMem s) (fadd : Fadd) (cls line : Nat) (x : Atom) (hp : s.mem.poison line = 0) :
    State.ncAtomic fadd s cls line x =
      ((s.startFclk (homeOf line)).memWrite line (atomWrite fadd x (s.mem.line line)), some (atomOld x (s.mem.line line))) := by
  have hz : atomPoison x 0 = false := by simp [atomPoison]
  unfold State.ncAtomic
  rw [invalidateAll_id h.2.1]
  dsimp only
  rw [show (s.startFclk (homeOf line)).mem = s.mem from rfl, hp, hz]
  exact if_neg Bool.false_ne_true

/-- An AtomicOp's operands in the order of R104: CAS carries its compare value first. -/
def hostAtom (op : HostAtomic) (size addr : Nat) (operand compare : W64) : Atom :=
  ⟨HostAtomic.op op, size == 8, Fin.ofNat 64 (canonical addr), if op = .cas then compare else operand, operand⟩

/-- What an AtomicOp through BAR2 that passes every check does at coherent memory (R104, R510). -/
theorem hostAtomicop_coherent {p : Port} {s : State} (hs : s.portServes p = true) (hw : s.postedWaits p = false)
    (hk : s.flag .KTL_BOOT_KONLY 0 = false) (hfe : s.fenced = false) (op : HostAtomic) {size addr : Nat} (x y : W64)
    (hz : size = 4 ∨ size = 8) (ha : addr % size = 0) (hv : s.checkPart p addr true true = .pass)
    (hc : (s.place (canonical addr)).coherent = true) (hr : s.rangeFree addr size = true) (h : BareMem s)
    (hp : s.mem.poison (canonical addr / 64) = 0) :
    ∃ r : State, MemOnly s r ∧
      r.mem = s.mem.writeLine (canonical addr / 64) (atomWrite fadd32 (hostAtom op size addr x y) (s.mem.line (canonical addr / 64))) ∧
      exec (.hostAtomicop p false op size addr x y) s =
        .next (r.reply p (.data (leBytes size (atomOld (hostAtom op size addr x y) (s.mem.line (canonical addr / 64)))) false)) := by
  have hh := haul_traffic s (hostMover p) 4 addr size true
  have hb := hh.bareMem h
  have hline : (s.haul (hostMover p) 4 addr size true).mem = s.mem := hh.mem
  have hat := ncAtomic_bare hb fadd32 4 (canonical addr / 64) (hostAtom op size addr x y) (by rw [hline]; exact hp)
  rw [hline] at hat
  have hst := startFclk_traffic (s.haul (hostMover p) 4 addr size true) (homeOf (canonical addr / 64))
  have hwr := memWrite_bare (hst.bareMem hb).1 (canonical addr / 64)
    (atomWrite fadd32 (hostAtom op size addr x y) (s.mem.line (canonical addr / 64)))
  have hm := (hh.trans hst).memOnly.trans hwr.1
  have hun := (hm.bareMem (by rw [hwr.2]; exact Mem.coded_writeLine (hst.bareMem hb).1 _ _) h).2.2
  refine ⟨_, hm, by rw [hwr.2, hst.mem, hline], ?_⟩
  have hsize : (size == 4 || size == 8) = true := by simpa using hz
  have hal : (addr % max size 1 != 0) = false := by
    rw [Nat.max_eq_left (by omega), ha]
    rfl
  show execHostAtomicop p false op size addr x y s = _
  unfold execHostAtomicop
  rw [hs, hal, hw, hk, hsize, hfe, failRequest_none s p true (by simpa using hv)]
  dsimp only
  rw [hc, hr, noteCoded_id hb.1]
  unfold hostAtom at hat hun
  simp only [Bool.not_true, Bool.or_self, Bool.false_eq_true, if_false]
  rw [hat]
  dsimp only
  rw [unsettle_id hun]
  rfl

/-- The word an AtomicOp finds, and the byte each address holds after it (R104). -/
theorem hostAtom_bytes {s : State} (hc : s.mem.coded = []) (op : HostAtomic) {size addr : Nat} (x y : W64) (hz : size = 4 ∨ size = 8)
    (ha : addr % size = 0) :
    let old := leNat ((List.range size).map (fun i => s.mem.byte (canonical addr + i)))
    let new := atomValue fadd32 (8 * size) (HostAtomic.op op) old ((if op = .cas then y else x).toNat % 2 ^ (8 * size))
      (x.toNat % 2 ^ (8 * size))
    atomOld (hostAtom op size addr x y) (s.mem.line (canonical addr / 64)) = old ∧
      ∀ b, (s.mem.writeLine (canonical addr / 64) (atomWrite fadd32 (hostAtom op size addr x y) (s.mem.line (canonical addr / 64)))).byte b =
        if canonical addr ≤ b ∧ b < canonical addr + size then (leBytes size new).getD (b - canonical addr) 0 else s.mem.byte b := by
  intro old new
  have hbits : atomBits (hostAtom op size addr x y) = 8 * size := by
    rcases hz with rfl | rfl <;> rfl
  have hfit : canonical addr % 64 + size ≤ 64 := by
    have := canonical_mod addr
    rcases hz with rfl | rfl <;> omega
  have hold : atomOld (hostAtom op size addr x y) (s.mem.line (canonical addr / 64)) = old := by
    unfold atomOld
    rw [hbits]
    exact Mem.line_extract hc (canonical addr) size hfit
  refine ⟨hold, fun b => ?_⟩
  have hw : atomWrite fadd32 (hostAtom op size addr x y) (s.mem.line (canonical addr / 64)) =
      ⟨byteMask (canonical addr % 64) size, BitVec.ofNat 512 (new <<< (8 * (canonical addr % 64))), false⟩ := by
    unfold atomWrite
    rw [hold, hbits, Nat.mul_div_cancel_left _ (by decide)]
    rfl
  rw [hw]
  exact Mem.byte_writeNumber hc _ _ _ _ hfit b

/-- An AtomicOp of a port that serves and has no posted write waiting, naturally aligned, up to the checks of R70 (R510, R542, R570). -/
theorem hostAtomicop_next {p : Port} {s : State} (hs : s.portServes p = true) (hw : s.postedWaits p = false) (bar0 : Bool) (op : HostAtomic)
    {size addr : Nat} (x y : W64) (ha : addr % max size 1 = 0) :
    (s.flag .KTL_BOOT_KONLY 0 = true → exec (.hostAtomicop p bar0 op size addr x y) s = .next ((s.bump .HPT_ERR_UR p).reply p .ur)) ∧
    (s.flag .KTL_BOOT_KONLY 0 = false → bar0 = true → exec (.hostAtomicop p bar0 op size addr x y) s = .next (s.atomicBar0 p addr)) ∧
    (s.flag .KTL_BOOT_KONLY 0 = false → bar0 = false → size ≠ 4 → size ≠ 8 →
      exec (.hostAtomicop p bar0 op size addr x y) s = .next ((s.bump .HPT_ERR_UR p).reply p .ur)) ∧
    (s.flag .KTL_BOOT_KONLY 0 = false → bar0 = false → size = 4 ∨ size = 8 →
      (s.fenced = true → exec (.hostAtomicop p bar0 op size addr x y) s = .next ((s.bump .HPT_ERR_CA p).reply p .ca)) ∧
      (s.fenced = false →
        (∀ t, s.failRequest p [((addr, size), s.checkPart p addr true true)] true = some t →
          exec (.hostAtomicop p bar0 op size addr x y) s = .next t) ∧
        (s.checkPart p addr true true = .pass → (s.place (canonical addr)).coherent = false →
          exec (.hostAtomicop p bar0 op size addr x y) s = .next ((s.bump .HPT_ERR_UR p).reply p .ur)))) := by
  have hal : (addr % max size 1 != 0) = false := by rw [ha]; rfl
  refine ⟨fun hk => ?_, fun hk hb => ?_, fun hk hb h4 h8 => ?_, fun hk hb hz => ⟨fun hf => ?_, fun hf => ⟨fun t ht => ?_, fun hv hc => ?_⟩⟩⟩
  all_goals
    show execHostAtomicop p bar0 op size addr x y s = _
    unfold execHostAtomicop
    rw [hs, hal, hw, hk]
  · rfl
  · rw [hb]; rfl
  · have hsize : (size == 4 || size == 8) = false := by simp [h4, h8]
    rw [hb, hsize]
    rfl
  all_goals
    have hsize : (size == 4 || size == 8) = true := by simpa using hz
    rw [hb, hsize, hf]
  · rfl
  · rw [ht]; rfl
  · rw [failRequest_none s p true (by simpa using hv)]
    dsimp only
    rw [hc]
    rfl

/-! ## Accesses through BAR0 -/

/-- A register access that drops a held half counts it as the port's decode error and leaves the rest alone (R51, R67). -/
theorem otherAccess_host (s : State) (p : Port) : FldsBut [Fld.HPT_ERR_UR.code] s (s.otherAccess (.host p)) ∧
    (s.otherAccess (.host p)).mem = s.mem ∧ ((s.otherAccess (.host p)).port p).replies = (s.port p).replies := by
  unfold State.otherAccess State.dropHeld State.forget
  cases (s.bank (.host p)).heldLow with
  | none => exact ⟨FldsBut.refl _ s, rfl, rfl⟩
  | some h =>
    dsimp only
    rw [if_neg (by simp)]
    obtain ⟨hm, -, -, hr, hg⟩ := hostError_frame (s.setBank (.host p) { s.bank (.host p) with heldLow := none }) p
      (0x300000000000 + h.1) true
    exact ⟨(fldsBut_setFld s .HPT_ERR_UR p _ 0 (by decide)).trans (FldsBut.of_regs hg), hm, hr⟩

/-- A refusal recorded after a register access, whatever follows in HPT_ERR and the port's answers (R72). -/
theorem otherAccess_refused {s t : State} {p : Port} {a : Nat} {wr : Bool} {cs : List Nat}
    (h : FldsBut cs ((s.otherAccess (.host p)).noteRefusal p a wr true) t) (hc : ∀ c ∈ accerrFlds, c ∉ cs) : Noted s t p a wr true :=
  (noteRefusal_noted _ p a wr true).frame (otherAccess_host s p).1 h
    (fun c hm => ⟨(show ∀ c ∈ accerrFlds, c ∉ [Fld.HPT_ERR_UR.code] by decide) c hm, hc c hm⟩)

/-- What is refused through BAR0 is recorded, a read or AtomicOp with Completer Abort as its answer (R72, R528). -/
theorem bar0_aborted (s : State) (p : Port) (a : Nat) (wr : Bool) :
    let t := (((s.otherAccess (.host p)).noteRefusal p a wr true).bump .HPT_ERR_CA p).reply p .ca
    Noted s t p a wr true ∧ (t.port p).replies = (s.port p).replies ++ [.ca] ∧ t.mem = s.mem := by
  intro t
  obtain ⟨-, hom, hor⟩ := otherAccess_host s p
  have hn := noteRefusal_after (s.otherAccess (.host p)) p a wr true
  obtain ⟨h1, h2, h3⟩ := bump_reply ((s.otherAccess (.host p)).noteRefusal p a wr true) p .HPT_ERR_CA .ca (Or.inr rfl)
  exact ⟨otherAccess_refused h3 (by decide), by rw [h1, hn.replies, hor], by rw [h2, hn.mem, hom]⟩

/-- An AtomicOp through BAR0 that the access table lets in is an Unsupported Request, one it refuses ends in Completer Abort (R72, R510). -/
theorem atomicBar0_cases (s : State) (p : Port) (addr : Nat) :
    (s.accBit p 0x300000000000 false = true → s.accBit p 0x300000000000 true = true →
      s.atomicBar0 p addr = ((s.otherAccess (.host p)).bump .HPT_ERR_UR p).reply p .ur) ∧
    (s.accBit p 0x300000000000 false = false ∨ s.accBit p 0x300000000000 true = false →
      Noted s (s.atomicBar0 p addr) p (0x300000000000 + addr) true true ∧
      ((s.atomicBar0 p addr).port p).replies = (s.port p).replies ++ [.ca] ∧ (s.atomicBar0 p addr).mem = s.mem) := by
  obtain ⟨ho, -, -⟩ := otherAccess_host s p
  unfold State.atomicBar0
  dsimp only
  rw [accBit_of_flds ho (by decide), accBit_of_flds ho (by decide)]
  refine ⟨fun hr hw => by rw [hr, hw]; exact if_pos rfl, fun h => ?_⟩
  rw [if_neg (by rcases h with h | h <;> simp [h])]
  exact bar0_aborted s p _ true

end Sys2Proof.Machine
end

section
/-! SUPPORT. Register accesses and configuration requests of a host port, and the proof of O51. -/

namespace Sys2Proof.Machine

/-- A register access of a port that serves, while a read has no posted write to wait for (R66, R70, R72, R510, R513, R542). -/
theorem hostRegisterAccess_next {p : Port} {s : State} (hs : s.portServes p = true) (off size : Nat) (wr : Option W64) (ep : Bool)
    (hw : wr = none → s.postedWaits p = false) :
    exec (.hostRegisterAccess p off size wr ep) s = .next (
      if wr.isSome && ep then (s.otherAccess (.host p)).bump .HPT_ERR_EP p
      else match s.bar0Serves off with
        | some r =>
          let u := (s.otherAccess (.host p)).bump (if r = .ur then .HPT_ERR_UR else .HPT_ERR_CA) p (if r = .ur || wr.isNone then 1 else 0)
          if wr.isNone then u.reply p r else u
        | none =>
          if !s.accBit p (0x300000000000 + off) wr.isSome then
            let u := (s.otherAccess (.host p)).noteRefusal p (0x300000000000 + off) wr.isSome true
            if wr.isNone then (u.bump .HPT_ERR_CA p).reply p .ca else u
          else
            let r := s.regAccess (.host p) off size (wr.map (·.toNat))
            if wr.isSome then r.1
            else match r.2 with
              | some v => r.1.reply p (.data (leBytes size v) false)
              | none => r.1.reply p .ur) := by
  show execHostRegisterAccess p off size wr ep s = _
  unfold execHostRegisterAccess
  have hgate : (!s.portServes p || (wr.isNone && s.postedWaits p)) = false := by
    rw [hs]
    cases wr with
    | none => rw [hw rfl]; rfl
    | some v => rfl
  rw [hgate]
  rfl

/-- A register access the device does not serve as it stands: what is counted and answered (R542, R570). -/
theorem hostRegisterAccess_unserved {p : Port} {s : State} (hs : s.portServes p = true) (off size : Nat) (wr : Option W64) (ep : Bool)
    (hw : wr = none → s.postedWaits p = false) (he : wr = none ∨ ep = false) {r : Reply} (hr : s.bar0Serves off = some r) :
    (wr = none → exec (.hostRegisterAccess p off size wr ep) s =
      .next (((s.otherAccess (.host p)).bump (if r = .ur then .HPT_ERR_UR else .HPT_ERR_CA) p).reply p r)) ∧
    (wr ≠ none → r = .ur → exec (.hostRegisterAccess p off size wr ep) s = .next ((s.otherAccess (.host p)).bump .HPT_ERR_UR p)) ∧
    (wr ≠ none → r ≠ .ur → ∃ t : State, exec (.hostRegisterAccess p off size wr ep) s = .next t ∧
      OnlyRegs (s.otherAccess (.host p)) t [Fld.HPT_ERR_CA.key p 0]) := by
  have hep : (wr.isSome && ep) = false := by rcases he with rfl | rfl <;> simp
  rw [hostRegisterAccess_next hs off size wr ep hw, hep, hr]
  cases wr with
  | none => exact ⟨fun _ => by simp, fun h => absurd rfl h, fun h => absurd rfl h⟩
  | some v =>
    refine ⟨(fun h => by cases h), (fun _ hu => by subst hu; rfl), fun _ hu => ⟨_, rfl, ?_⟩⟩
    dsimp only
    rw [if_neg hu]
    exact ⟨fun k hk => State.regs_setFld_other _ _ (fun e => hk (List.mem_singleton.mpr e)), rfl⟩

/-- A register access that is served: refused by the access table, or performed with the port's bank (R66, R70, R72). -/
theorem hostRegisterAccess_served {p : Port} {s : State} (hs : s.portServes p = true) (off size : Nat) (wr : Option W64) (ep : Bool)
    (hw : wr = none → s.postedWaits p = false) (he : wr = none ∨ ep = false) (hr : s.bar0Serves off = none) :
    (s.accBit p (0x300000000000 + off) wr.isSome = false → ∃ t : State, exec (.hostRegisterAccess p off size wr ep) s = .next t ∧
      Noted s t p (0x300000000000 + off) wr.isSome true ∧
      (t.port p).replies = (s.port p).replies ++ (if wr = none then [.ca] else []) ∧ t.mem = s.mem) ∧
    (s.accBit p (0x300000000000 + off) wr.isSome = true →
      (∀ v, wr = some v → exec (.hostRegisterAccess p off size wr ep) s = .next (s.regAccess (.host p) off size (some v.toNat)).1) ∧
      (wr = none → exec (.hostRegisterAccess p off size wr ep) s = .next (State.reply (s.regAccess (.host p) off size none).1 p
        (match (s.regAccess (.host p) off size none).2 with | some v => .data (leBytes size v) false | none => .ur)))) := by
  have hep : (wr.isSome && ep) = false := by rcases he with rfl | rfl <;> simp
  rw [hostRegisterAccess_next hs off size wr ep hw, hep, hr]
  dsimp only
  refine ⟨fun hacc => ?_, fun hacc => ?_⟩
  · rw [hacc]
    refine ⟨_, rfl, ?_⟩
    cases wr with
    | none => exact bar0_aborted s p _ false
    | some v =>
      obtain ⟨-, hom, hor⟩ := otherAccess_host s p
      have hn := noteRefusal_after (s.otherAccess (.host p)) p (0x300000000000 + off) true true
      refine ⟨otherAccess_refused (FldsBut.refl [] _) (by decide), ?_, hn.mem.trans hom⟩
      exact (hn.replies.trans hor).trans (List.append_nil _).symm
  · rw [hacc]
    refine ⟨fun v hv => by subst hv; rfl, fun hv => ?_⟩
    subst hv
    dsimp only [Option.map_none]
    cases (s.regAccess (.host p) off size none).2 <;> rfl

/-- Configuration requests of a port that serves (R2, R508, R570). -/
theorem configRequest_cases {p : Port} {s : State} (hs : s.portServes p = true) :
    (s.fld .KTL_BOOT_STAGE 0 < 7 → s.flag .KTL_BOOT_KONLY 0 = false → ∀ r, exec (.configRequest p r) s = .next (s.reply p .crs)) ∧
    (7 ≤ s.fld .KTL_BOOT_STAGE 0 ∨ s.flag .KTL_BOOT_KONLY 0 = true →
      (∀ off : Nat, exec (.configRequest p (.read off)) s = .next (s.reply p (.data (configWord s.free off) false)).tick) ∧
      (∀ en, exec (.configRequest p (.busMaster en)) s =
        .next (((s.setFld .HPT_LSTAT_BME p (bit1 en)).reply p (.data [] false)).pumpPort p)) ∧
      ∀ m r, exec (.configRequest p (.sizes m r)) s = .next ((s.setPort p { s.port p with
        mps := min (128 * 2 ^ m.val) 512, mrrs := min (128 * 2 ^ r.val) 4096 }).reply p (.data [] false))) := by
  have hnext : ∀ r, exec (.configRequest p r) s = execConfigRequest p r s := fun _ => rfl
  refine ⟨fun hst hk r => ?_, fun h => ?_⟩
  · rw [hnext]
    unfold execConfigRequest
    rw [hs, hk, decide_eq_true hst]
    rfl
  · have hg : (decide (s.fld .KTL_BOOT_STAGE 0 < 7) && !s.flag .KTL_BOOT_KONLY 0) = false := by
      rcases h with h | h
      · rw [decide_eq_false (by omega), Bool.false_and]
      · rw [h, Bool.not_true, Bool.and_false]
    refine ⟨fun off => ?_, fun en => ?_, fun m r => ?_⟩ <;>
    · rw [hnext]
      unfold execConfigRequest
      rw [hs, hg]
      rfl

/-- The identifiers of R2, and the length of every answer. -/
theorem configWord_ids (n off : Nat) : (configWord n off).length = 4 ∧ (off = 0 → configWord n off = [0x5C, 0x1E, 0x36, 0x15]) ∧
    (off = 8 → configWord n off = [0xA1, 0x00, 0x00, 0x12]) := by
  unfold configWord
  refine ⟨?_, fun h => ?_, fun h => ?_⟩
  · split
    · exact length_leBytes 4 _
    · split
      · exact length_leBytes 4 _
      · rw [List.length_map, List.length_range]
  · rw [if_pos h]; decide
  · rw [if_neg (by omega), if_pos h]; decide

/-- Bus Master Enable shows as it was written, whatever the port then sends (R508, R518). -/
theorem busMaster_shown (s : State) (p : Port) (en : Bool) :
    let t := ((s.setFld .HPT_LSTAT_BME p (bit1 en)).reply p (.data [] false)).pumpPort p
    t.fld .HPT_LSTAT_BME p = bit1 en ∧ (t.port p).replies = (s.port p).replies ++ [.data [] false] ∧ t.mem = s.mem := by
  intro t
  have hp := pumpPort_sent ((s.setFld .HPT_LSTAT_BME p (bit1 en)).reply p (.data [] false)) p
  obtain ⟨hm, hg⟩ := reply_frame (s.setFld .HPT_LSTAT_BME p (bit1 en)) p (.data [] false)
  refine ⟨?_, by rw [hp.replies, reply_replies]; rfl, by rw [hp.mem, hm]; rfl⟩
  rw [hp.flds _ _ _ (by decide), State.fld, hg]
  exact (State.fld_setFld_same s _ _ _ _).trans (bit1_mod en)

/-! ## The clauses of O51 -/

/-- A port that is not configured, or whose link is down, serves nothing. -/
theorem unserved_port {p : Port} {s : State} (h : s.portServes p = false) :
    (∀ a l ep, exec (.hostPostedWrite p a l ep) s = .next s) ∧ (∀ a n, exec (.hostRead p a n) s = .next s) ∧
    (∀ b op n a x y, exec (.hostAtomicop p b op n a x y) s = .next s) ∧ (∀ o n w ep, exec (.hostRegisterAccess p o n w ep) s = .next s) ∧
    ∀ r, exec (.configRequest p r) s = .next s := by
  refine ⟨fun a l ep => ?_, fun a n => ?_, fun b op n a x y => ?_, fun o n w ep => ?_, fun r => ?_⟩
  · show execHostPostedWrite p a l ep s = _
    rw [execHostPostedWrite, h]; rfl
  · show execHostRead p a n s = _
    rw [execHostRead, h]; rfl
  · show execHostAtomicop p b op n a x y s = _
    rw [execHostAtomicop, h]; rfl
  · show execHostRegisterAccess p o n w ep s = _
    rw [execHostRegisterAccess, h]; rfl
  · show execConfigRequest p r s = _
    unfold execConfigRequest
    rw [h]; rfl

/-- Reads and AtomicOps wait for the port's earlier posted writes (R513). -/
theorem waiting_port {p : Port} {s : State} (h : s.postedWaits p = true) :
    (∀ a n, exec (.hostRead p a n) s = .next s) ∧ (∀ b op n a x y, exec (.hostAtomicop p b op n a x y) s = .next s) ∧
    ∀ o n ep, exec (.hostRegisterAccess p o n none ep) s = .next s := by
  refine ⟨fun a n => ?_, fun b op n a x y => ?_, fun o n ep => ?_⟩
  · show execHostRead p a n s = _
    rw [execHostRead, h, Bool.or_true]; rfl
  · show execHostAtomicop p b op n a x y s = _
    rw [execHostAtomicop, h, Bool.or_true]; rfl
  · show execHostRegisterAccess p o n none ep s = _
    rw [execHostRegisterAccess, h, Option.isNone_none, Bool.true_and, Bool.or_true]; rfl

/-- A misaligned AtomicOp is a Malformed TLP, which changes nothing (R510). -/
theorem misaligned_atomic (s : State) (p : Port) (bar0 : Bool) (op : HostAtomic) {size addr : Nat} (x y : W64)
    (h : addr % max size 1 ≠ 0) : exec (.hostAtomicop p bar0 op size addr x y) s = .next s := by
  show execHostAtomicop p bar0 op size addr x y s = _
  rw [execHostAtomicop, bne_iff_ne.mpr h, Bool.or_true]
  rfl

/-- An AtomicOp at good memory answers the old word, stores the new one and changes no other byte (R104). -/
theorem atomic_done {p : Port} {s : State} (hs : s.portServes p = true) (hw : s.postedWaits p = false)
    (hk : s.flag .KTL_BOOT_KONLY 0 = false) (hfe : s.fenced = false) (op : HostAtomic) {size addr : Nat} (x y : W64)
    (hz : size = 4 ∨ size = 8) (ha : addr % size = 0) (hv : s.checkPart p addr true true = .pass)
    (hc : (s.place (canonical addr)).coherent = true) (hr : s.rangeFree addr size = true) (h : BareMem s)
    (hp : s.mem.poison (canonical addr / 64) = 0) :
    let old := leNat ((List.range size).map (fun i => s.mem.byte (canonical addr + i)))
    let new := atomValue fadd32 (8 * size) (HostAtomic.op op) old ((if op = .cas then y else x).toNat % 2 ^ (8 * size))
      (x.toNat % 2 ^ (8 * size))
    ∃ t : State, exec (.hostAtomicop p false op size addr x y) s = .next t ∧
      (t.port p).replies = (s.port p).replies ++ [.data (leBytes size old) false] ∧ BytesBut s t (canonical addr) size ∧
      ∀ i : Nat, i < size → t.mem.byte (canonical addr + i) = (leBytes size new).getD i 0 := by
  intro old new
  obtain ⟨r, hm, hmem, hexec⟩ := hostAtomicop_coherent hs hw hk hfe op x y hz ha hv hc hr h hp
  obtain ⟨hold, hbyte⟩ := hostAtom_bytes h.1 op x y hz ha
  rw [hold] at hexec
  have hport : (r.port p).replies = (s.port p).replies := by rw [State.port, State.port, hm.hosts]
  have hby : ∀ b, (r.reply p (.data (leBytes size old) false)).mem.byte b =
      if canonical addr ≤ b ∧ b < canonical addr + size then (leBytes size new).getD (b - canonical addr) 0 else s.mem.byte b := fun b => by
    rw [(reply_frame r p _).1, hmem]
    exact hbyte b
  refine ⟨_, hexec, by rw [reply_replies, hport], fun b hb => ?_, fun i hi => ?_⟩
  · rw [hby, if_neg (by omega)]
  · rw [hby, if_pos (by omega), Nat.add_sub_cancel_left]

/-- Settles O51: each request goes through the checks of R70 part by part; what passes acts as the memory laws say, what does not is
recorded and answered by the laws of refusals. -/
theorem hostRequestsAreCheckedAndServed : Obligations.HostRequestsAreCheckedAndServed := by
  intro p s
  refine ⟨unserved_port, waiting_port, fun hs addr data ep hf => ?_, fun hs hw addr len => ?_, fun hs hw bar0 op size addr x y => ?_,
    fun hs off size wr ep hw => ?_, fun hs => ?_⟩
  · have hx := hostPostedWrite_next hs hf ep
    refine ⟨fun hk => ?_, fun hk hfe => ?_, fun hk hfe => ⟨s.posted p addr data ep, ?_, ?_⟩, fun hk hfe hn hl hp hc => ?_⟩
    · rw [hx, if_pos hk]; rfl
    · rw [hx, hk, hfe]; rfl
    · rw [hx, hk, hfe]; rfl
    · obtain ⟨hnoted, hur⟩ := posted_records s p addr data ep
      exact ⟨hnoted, hur, fun hplain hc => posted_bytes ep (BareMem.of_plain hplain) hc⟩
    · rw [hx, hk, hfe]
      exact congrArg _ (posted_store ep hn hl hp hc)
  · have hx := hostRead_next hs hw addr len
    refine ⟨fun hk => ?_, fun hk hfe => ?_, fun hk hfe => ⟨fun q hq => ?_, fun hall => ?_⟩⟩
    · rw [hx, if_pos hk]
    · rw [hx, hk, hfe]; rfl
    · obtain ⟨t, ht, hfail⟩ := failRequest_some (s := s) (p := p) false hq
      have ht' : s.failRequest p (s.checkedParts p addr len true false) false = some t := ht
      exact ⟨t, by rw [hx, hk, hfe, ht']; rfl, hfail⟩
    · have hn : s.failRequest p (s.checkedParts p addr len true false) false = none := failRequest_none s p false hall
      exact ⟨fun v hv => by rw [hx, hk, hfe, hn, hv]; rfl, fun hv => by rw [hx, hk, hfe, hn, hv]; rfl⟩
  · have hother : (addr % max size 1 ≠ 0) → exec (.hostAtomicop p bar0 op size addr x y) s = .next s := misaligned_atomic s p bar0 op x y
    refine ⟨hother, fun ha hbad => ?_, fun ha hk hb => ?_, fun hk hb hz ha => ?_⟩
    · obtain ⟨hkonly, -, hsize, -⟩ := hostAtomicop_next hs hw bar0 op x y ha
      rcases hbad with hk | ⟨hb, h4, h8⟩
      · exact hkonly hk
      · cases hk : s.flag .KTL_BOOT_KONLY 0 with
        | true => exact hkonly hk
        | false => exact hsize hk hb h4 h8
    · obtain ⟨-, hbar, -, -⟩ := hostAtomicop_next hs hw bar0 op x y ha
      obtain ⟨hlet, hrefused⟩ := atomicBar0_cases s p addr
      exact ⟨fun hr hwr => (hbar hk hb).trans (congrArg _ (hlet hr hwr)), fun hr => ⟨_, hbar hk hb, hrefused hr⟩⟩
    · have ha1 : addr % max size 1 = 0 := by rw [Nat.max_eq_left (by omega)]; exact ha
      obtain ⟨-, -, -, hgood⟩ := hostAtomicop_next hs hw bar0 op x y ha1
      obtain ⟨hfenced, hopen⟩ := hgood hk hb hz
      refine ⟨hfenced, fun hfe => ⟨fun hv => ?_, fun hv => ⟨(hopen hfe).2 hv, fun hc hr hplain hp => ?_⟩⟩⟩
      · obtain ⟨t, ht, hfail⟩ := failRequest_some (s := s) (p := p) (l := [((addr, size), s.checkPart p addr true true)]) true
          (List.find?_cons_of_pos (by simpa using hv))
        exact ⟨t, (hopen hfe).1 t ht, hfail⟩
      · subst hb
        exact atomic_done hs hw hk hfe op x y hz ha hv hc hr (BareMem.of_plain hplain) hp
  · refine ⟨fun hwr he => ?_, fun he => ⟨fun r hr => hostRegisterAccess_unserved hs off size wr ep hw he hr,
      fun hr => hostRegisterAccess_served hs off size wr ep hw he hr⟩⟩
    rw [hostRegisterAccess_next hs off size wr ep hw, he, Option.isSome_iff_ne_none.mpr hwr]
    rfl
  · obtain ⟨hretry, hserved⟩ := configRequest_cases hs
    refine ⟨hretry, fun h => ?_⟩
    obtain ⟨hread, hbme, hsizes⟩ := hserved h
    exact ⟨fun off => ⟨_, hread off, configWord_ids s.free off⟩, fun en => ⟨_, hbme en, busMaster_shown s p en⟩, hsizes⟩

end Sys2Proof.Machine
end

section
/-! SUPPORT. The clocks (R24): a cycle of AONCLK, and which clocks stop and run. -/

namespace Sys2Proof

/-- Adding to each entry of a list of distinct keys that a test lets through adds to those entries and to no other. -/
theorem Tbl.get_foldl_add (p : Nat → Bool) (c : Nat) (l : List Nat) (hl : l.Nodup) (t : Tbl Nat) (k : Nat) :
    Tbl.get (l.foldl (fun (t : Tbl Nat) r => if p r then t else Tbl.set t 0 r (Tbl.get t 0 r + c)) t) 0 k =
      Tbl.get t 0 k + if k ∈ l ∧ p k = false then c else 0 := by
  induction l generalizing t with
  | nil => simp
  | cons r l ih =>
    obtain ⟨hr, hn⟩ := List.nodup_cons.mp hl
    rw [List.foldl_cons, ih hn]
    by_cases hk : k = r
    · subst hk
      cases hp : p k <;> simp [hr]
    · have hs : Tbl.get (if p r then t else Tbl.set t 0 r (Tbl.get t 0 r + c)) 0 k = Tbl.get t 0 k := by
        split
        · rfl
        · exact Tbl.get_set_other t 0 0 _ hk
      rw [hs]
      simp [hk]

end Sys2Proof

namespace Sys2Proof.Machine

/-- In a cycle of AONCLK the FCLK of each region that runs counts 80 cycles (R24). -/
theorem idle_fclk (s : State) (r : Region) :
    s.idle.fclk r.val = s.fclk r.val + if Tbl.get s.clk.fclkStopped false r.val then 0 else 80 := by
  refine (Tbl.get_foldl_add (Tbl.get s.clk.fclkStopped false) 80 (List.range 12) List.nodup_range s.clk.fclk r.val).trans ?_
  cases h : Tbl.get s.clk.fclkStopped false r.val <;> simp [State.fclk]

/-- Settles O2: a step on an empty queue is State.idle, which changes the two counts alone. -/
theorem emptyQueueTicks : Obligations.EmptyQueueTicks := by
  intro s hs
  have hstep : step s = .next s.idle := by rw [step, hs]
  exact ⟨s.idle, hstep, rfl, idle_fclk s⟩

/-- A region's FCLK stops while nothing uses it, a host-complex die's while nothing is under way there (R24). -/
theorem fclkIdleStop_next {d : Fin 14} {s : State}
    (hr : ∀ r : Region, r.val = d.val → (∀ k, k < 8 → s.fld .BLK_PWR_STATE (r.val * 8 + k) ≠ 0) ∧
      ((s.exe (.seq r)).watch.isSome = true ∨ s.fld .SEQ_STAT_STATE r = 0) ∧ s.reqsAt r = [] ∧
      (s.exe (.seq r)).flights = [] ∧ ∀ p ∈ s.coh.txns, homeOf p.1 ≠ r.val)
    (ha : s.noAsks d.val = true) (hn : ∀ m ∈ s.coh.net, siteOf m.src ≠ d.val ∧ siteOf m.dst ≠ d.val) :
    exec (.fclkIdleStop d) s = .next { s with clk := { s.clk with fclkStopped := Tbl.set s.clk.fclkStopped false d.val true } } := by
  show execFclkIdleStop d s = _
  have hstill : (s.noAsks d && s.coh.net.all (fun m => siteOf m.src != d.val && siteOf m.dst != d.val)) = true := by
    rw [ha, Bool.true_and, List.all_eq_true]
    exact fun m hm => by simp [hn m hm]
  unfold execFclkIdleStop
  dsimp only
  rw [hstill]
  split
  · next h =>
    obtain ⟨hblk, hseq, hreq, hfl, htx⟩ := hr ⟨d.val, h⟩ rfl
    have hidle : (List.range 8).all (fun k => decide (s.fld .BLK_PWR_STATE (d.val * 8 + k) ≠ 0)) = true := by
      simpa using hblk
    have hwaits : ((s.exe (.seq ⟨d.val, h⟩)).watch.isSome || s.fld .SEQ_STAT_STATE d == 0) = true := by
      simpa using hseq
    have hquiet : ((s.reqsAt d).isEmpty && (s.exe (.seq ⟨d.val, h⟩)).flights.isEmpty &&
        s.coh.txns.all (fun t => homeOf t.1 != d.val)) = true := by
      rw [hfl, show s.reqsAt d = [] from hreq]
      simpa using fun a b => htx (a, b)
    rw [hidle, hwaits, hquiet]
    rfl
  · rfl

/-- Settles O10: each of the four commands writes one entry of one clock's table. -/
theorem clocksStopAndRun : Obligations.ClocksStopAndRun := by
  refine ⟨fun d s hr ha hn => ?_, fun q w s => ?_, fun f s hp ha => ?_, fun f s => ?_⟩
  · exact ⟨_, fclkIdleStop_next hr ha hn, Tbl.get_set_same s.clk.fclkStopped false d.val true,
      fun q hq => Tbl.get_set_other s.clk.fclkStopped false false true hq, rfl⟩
  · refine ⟨_, rfl, ?_, fun n hn => Tbl.get_set_other s.clk.hclkStopped false false _ hn, rfl⟩
    rw [Tbl.get_set_same]
    exact beq_iff_eq
  · have hx : exec (.farSelfRefreshEntry f) s =
        .next { s with clk := { s.clk with selfRefresh := Tbl.set s.clk.selfRefresh false f true } } := by
      show execFarSelfRefreshEntry f s = _
      rw [execFarSelfRefreshEntry, hp, ha]
      rfl
    exact ⟨_, hx, Tbl.get_set_same s.clk.selfRefresh false f.val true, rfl⟩
  · exact ⟨_, rfl, Tbl.get_set_same s.clk.selfRefresh false f.val false, rfl⟩

end Sys2Proof.Machine
end

section
/-! SUPPORT. A clock that has been started runs (R25). -/

namespace Sys2Proof.Machine

section
variable (s : State) (r : Nat)
@[simp] theorem State.startFclk_get_blk (c : Nat) : (s.startFclk r).blk c = s.blk c := rfl
@[simp] theorem State.startFclk_get_fld (f : Fld) (m n : Nat) : (s.startFclk r).fld f m n = s.fld f m n := rfl
end

/-- A started FCLK runs. -/
theorem State.startFclk_runs (s : State) (r : Nat) : Tbl.get (s.startFclk r).clk.fclkStopped false r = false :=
  Tbl.get_set_same s.clk.fclkStopped false r false

end Sys2Proof.Machine
end

section
/-! SUPPORT. Decode errors and accesses of another kind: the registers and parts of the state they may change (R51, R67). -/

namespace Sys2Proof.Machine

/-- The numbers of the register fields a decode error may change (R51). -/
def errorFlds : List Nat :=
  [Fld.FAB_DECERR_VALID.code, Fld.FAB_DECERR_WRITE.code, Fld.FAB_DECERR_REQ.code, Fld.FAB_DECERR_COUNT.code, Fld.FAB_DECERR_ADDR.code,
    Fld.HPT_ERR_UR.code]

theorem FldsBut.setFld {cs : List Nat} {s t : State} (h : FldsBut cs s t) {f : Fld} (hf : f.code ∈ cs) (i v j : Nat) :
    FldsBut cs s (t.setFld f i v j) := h.trans (fldsBut_setFld t f i v j hf)

theorem decodeError_flds (s : State) (req addr : Nat) (wr : Bool) : FldsBut errorFlds s (s.decodeError req addr wr) := by
  unfold State.decodeError
  split
  · exact fldsBut_setFld _ _ _ _ _ (by decide)
  · exact (((((FldsBut.refl _ s).setFld (by decide) _ _ _).setFld (by decide) _ _ _).setFld (by decide) _ _ _).setFld
      (by decide) _ _ _).setFld (by decide) _ _ _

theorem hostError_flds (s : State) (p addr : Nat) (wr : Bool) : FldsBut errorFlds s (s.hostError p addr wr) := by
  refine FldsBut.trans (t := s.bump .HPT_ERR_UR p) (fldsBut_setFld s _ _ _ _ (by decide)) (FldsBut.of_regs ?_)
  cases wr <;> rfl

theorem refuse_flds (s : State) (code addr : Nat) (wr : Bool) : FldsBut errorFlds s (s.refuse code addr wr) := by
  unfold State.refuse
  split
  · exact hostError_flds _ _ _ _
  · exact decodeError_flds _ _ _ _

theorem regError_flds (s : State) (who : Bank) (off : Nat) (wr : Bool) : FldsBut errorFlds s (s.regError who off wr) := by
  cases who with
  | host p => exact hostError_flds _ _ _ _
  | cluster q => exact decodeError_flds _ _ _ _
  | seq r => exact decodeError_flds _ _ _ _
  | kettle => exact decodeError_flds _ _ _ _

theorem otherAccess_flds (s : State) (who : Bank) : FldsBut errorFlds s (s.otherAccess who) := by
  refine FldsBut.trans (t := s.dropHeld who none) ?_ (FldsBut.of_regs rfl)
  unfold State.dropHeld
  split
  · exact FldsBut.refl _ s
  · next o v hv =>
    rw [if_neg (by simp)]
    exact FldsBut.trans (t := s.setBank who { s.bank who with heldLow := none }) (FldsBut.of_regs rfl) (regError_flds _ _ _ _)

/-- Nothing differs between two states but registers, the banks and the host ports' logs. -/
def ErrorOnly (s t : State) : Prop := t = { s with regs := t.regs, banks := t.banks, hosts := t.hosts }

theorem ErrorOnly.trans {s t u : State} (h : ErrorOnly s t) (k : ErrorOnly t u) : ErrorOnly s u := by
  unfold ErrorOnly at *
  rw [k, h]

theorem decodeError_only (s : State) (req addr : Nat) (wr : Bool) : ErrorOnly s (s.decodeError req addr wr) := by
  unfold State.decodeError
  split <;> rfl

theorem hostError_only (s : State) (p addr : Nat) (wr : Bool) : ErrorOnly s (s.hostError p addr wr) := by
  cases wr <;> rfl

/-- A decode error changes registers and a host port's log alone (R51). -/
theorem refuse_only (s : State) (code addr : Nat) (wr : Bool) : ErrorOnly s (s.refuse code addr wr) := by
  unfold State.refuse
  split
  · exact hostError_only _ _ _ _
  · exact decodeError_only _ _ _ _

theorem regError_only (s : State) (who : Bank) (off : Nat) (wr : Bool) : ErrorOnly s (s.regError who off wr) := by
  cases who with
  | host p => exact hostError_only _ _ _ _
  | cluster q => exact decodeError_only _ _ _ _
  | seq r => exact decodeError_only _ _ _ _
  | kettle => exact decodeError_only _ _ _ _

/-- An access of another kind changes registers, the banks and a host port's log alone (R67). -/
theorem otherAccess_only (s : State) (who : Bank) : ErrorOnly s (s.otherAccess who) := by
  refine ErrorOnly.trans (t := s.dropHeld who none) ?_ rfl
  unfold State.dropHeld
  split
  · rfl
  · rw [if_neg (by simp)]
    exact ErrorOnly.trans (t := s.setBank who { s.bank who with heldLow := none }) rfl (regError_only _ _ _ _)

section
variable (s : State) (who : Bank)
@[simp] theorem otherAccess_mem : (s.otherAccess who).mem = s.mem := by rw [otherAccess_only s who]
@[simp] theorem otherAccess_coh : (s.otherAccess who).coh = s.coh := by rw [otherAccess_only s who]
@[simp] theorem otherAccess_blks : (s.otherAccess who).blks = s.blks := by rw [otherAccess_only s who]
@[simp] theorem otherAccess_budgets : (s.otherAccess who).budgets = s.budgets := by rw [otherAccess_only s who]
@[simp] theorem otherAccess_execs : (s.otherAccess who).execs = s.execs := by rw [otherAccess_only s who]
@[simp] theorem otherAccess_errs : (s.otherAccess who).errs = s.errs := by rw [otherAccess_only s who]
@[simp] theorem otherAccess_blk (b : Nat) : (s.otherAccess who).blk b = s.blk b := by simp [State.blk]
end

end Sys2Proof.Machine
end

section
/-! SUPPORT. Reads that wake a block or a cluster: what they change, and that they leave a running block as it is (R29, R36, R60). -/

namespace Sys2Proof.Machine

/-- Nothing differs between two states but registers, traffic, the far controllers' buffers, blocks and which clocks run. -/
def WakesOnly (s t : State) : Prop :=
  t = { s with
    regs := t.regs, budgets := t.budgets, far := t.far, blks := t.blks
    clk := { s.clk with fclkStopped := t.clk.fclkStopped, hclkStopped := t.clk.hclkStopped } }

theorem WakesOnly.refl (s : State) : WakesOnly s s := rfl

theorem WakesOnly.trans {s t u : State} (h : WakesOnly s t) (k : WakesOnly t u) : WakesOnly s u := by
  unfold WakesOnly at *
  rw [k, h]

theorem TrafficOnly.wakesOnly {s t : State} (h : TrafficOnly s t) : WakesOnly s t := by
  unfold TrafficOnly at h
  unfold WakesOnly
  rw [h]
  rfl

section
variable {s t : State} (h : WakesOnly s t)
include h
theorem WakesOnly.mem : t.mem = s.mem := by rw [h]
theorem WakesOnly.coh : t.coh = s.coh := by rw [h]
theorem WakesOnly.execs : t.execs = s.execs := by rw [h]
theorem WakesOnly.rings : t.rings = s.rings := by rw [h]
theorem WakesOnly.errs : t.errs = s.errs := by rw [h]
theorem WakesOnly.works : t.works = s.works := by rw [h]
end

theorem rouse_wakesOnly (s : State) (a : Nat) : WakesOnly s (s.rouse a) := by
  unfold State.rouse
  split
  · split <;> rfl
  · split <;> rfl

/-- A register field is the power state of some block. -/
def IsBlkState (k : Nat) : Prop := ∃ b : Block, k = Fld.BLK_PWR_STATE.key b 0

/-- Waking a snooped agent changes no register but the power state of its block (R29). -/
theorem rouse_regs (s : State) (a k : Nat) (h : ¬ IsBlkState k) : Tbl.find? (s.rouse a).regs k = Tbl.find? s.regs k := by
  unfold State.rouse
  split
  · next ha =>
    split
    · exact State.regs_setFld_other s (0 : Nat) (fun e => h ⟨⟨a, ha⟩, e⟩)
    · rfl
  · split <;> rfl

/-- Waking an agent leaves a block in RUN as it is. -/
theorem rouse_run (s : State) (a : Nat) {b : Nat} (h : s.blkState b = .run) :
    (s.rouse a).blk b = s.blk b ∧ ∀ f : Fld, (s.rouse a).fld f b = s.fld f b := by
  unfold State.rouse
  split
  · split
    · next hg =>
      have hb : b ≠ a := fun e => by rw [e, hg] at h; cases h
      exact ⟨State.blk_setBlk_other _ _ hb, fun f => State.fld_setFld_inst (f := .BLK_PWR_STATE) s (i := a) (j := 0) 0 hb⟩
    · exact ⟨rfl, fun _ => rfl⟩
  · split <;> exact ⟨rfl, fun _ => rfl⟩

/-- Memory, the executors, and a block with its power registers stand as before. -/
structure KeepsBlock (b : Nat) (s t : State) : Prop where
  mem : t.mem = s.mem
  execs : t.execs = s.execs
  blk : t.blk b = s.blk b
  state : t.fld .BLK_PWR_STATE b = s.fld .BLK_PWR_STATE b
  wake : t.fld .BLK_PWR_WAKE_REQ b = s.fld .BLK_PWR_WAKE_REQ b

theorem KeepsBlock.refl (b : Nat) (s : State) : KeepsBlock b s s := ⟨rfl, rfl, rfl, rfl, rfl⟩

theorem KeepsBlock.trans {b : Nat} {s t u : State} (h : KeepsBlock b s t) (k : KeepsBlock b t u) : KeepsBlock b s u :=
  ⟨k.mem.trans h.mem, k.execs.trans h.execs, k.blk.trans h.blk, k.state.trans h.state, k.wake.trans h.wake⟩

theorem KeepsBlock.blkState {b : Nat} {s t : State} (h : KeepsBlock b s t) : t.blkState b = s.blkState b := by
  rw [State.blkState, State.blkState, h.blk, h.state]

/-- Steps that each keep a block while it runs keep it together. -/
theorem keepsBlock_foldl {α : Type} {b : Nat} {g : State → α → State} (h : ∀ s a, s.blkState b = .run → KeepsBlock b s (g s a))
    (l : List α) {s : State} (hs : s.blkState b = .run) : KeepsBlock b s (l.foldl g s) := by
  induction l generalizing s with
  | nil => exact KeepsBlock.refl b s
  | cons a l ih =>
    have ha := h s a hs
    exact ha.trans (ih (ha.blkState.trans hs))

theorem TrafficOnly.keepsBlock {s t : State} (h : TrafficOnly s t) (b : Nat) : KeepsBlock b s t := by
  have hf := h.flds []
  exact ⟨h.mem, h.execs, by rw [h]; rfl, hf _ _ _ List.not_mem_nil, hf _ _ _ List.not_mem_nil⟩

theorem rouse_keepsBlock (s : State) (a : Nat) {b : Nat} (h : s.blkState b = .run) : KeepsBlock b s (s.rouse a) :=
  ⟨(rouse_wakesOnly s a).mem, (rouse_wakesOnly s a).execs, (rouse_run s a h).1, (rouse_run s a h).2 _, (rouse_run s a h).2 _⟩

theorem refuse_keepsBlock (s : State) (code addr : Nat) (wr : Bool) (b : Nat) : KeepsBlock b s (s.refuse code addr wr) := by
  have hf := refuse_flds s code addr wr
  have ho := refuse_only s code addr wr
  exact ⟨by rw [ho], by rw [ho], by rw [ho]; rfl, hf _ _ _ (by decide), hf _ _ _ (by decide)⟩

theorem snoopRead_wakesOnly (s : State) (cls line : Nat) : WakesOnly s (s.snoopRead cls line) := by
  unfold State.snoopRead
  split
  · exact WakesOnly.refl s
  · split
    · exact WakesOnly.refl s
    · exact (rouse_wakesOnly s _).trans (oweSnoop_traffic _ _ _ _ _ _).wakesOnly

theorem snoopRead_keepsBlock (s : State) (cls line : Nat) {b : Nat} (h : s.blkState b = .run) : KeepsBlock b s (s.snoopRead cls line) := by
  unfold State.snoopRead
  split
  · exact KeepsBlock.refl b s
  · split
    · exact KeepsBlock.refl b s
    · exact (rouse_keepsBlock s _ h).trans ((oweSnoop_traffic _ _ _ _ _ _).keepsBlock b)

/-- With no slot coded, what a read of a range does beside returning its bytes leaves a running block alone. -/
theorem noteRead_keepsBlock (s : State) (m : Mover) (cls a n : Nat) {b : Nat} (h : s.blkState b = .run) (hc : s.mem.coded = []) :
    KeepsBlock b s (s.noteRead m cls a n) := by
  have hh := haul_traffic s m cls a n false
  have hn : (s.haul m cls a n false).noteCodedRange cls a n = s.haul m cls a n false :=
    foldl_keeps (fun t : State => t = s.haul m cls a n false) _
      (fun t l ht => by rw [ht]; exact noteCoded_id (by rw [hh.mem]; exact hc) _ _) _ rfl
  unfold State.noteRead
  dsimp only
  rw [hn]
  refine (hh.keepsBlock b).trans (keepsBlock_foldl (fun t p ht => ?_) _ ((hh.keepsBlock b).blkState.trans h))
  split
  · exact snoopRead_keepsBlock t _ _ ht
  · exact snoopRead_keepsBlock t _ _ ht
  · exact rouse_keepsBlock t _ ht
  · exact rouse_keepsBlock t _ ht
  · exact refuse_keepsBlock t _ _ _ b

end Sys2Proof.Machine
end

section
/-! SUPPORT. Block power states: requests, the commit, the self-wake and the arrival in a state (R27 to R34), and the proof of O8. -/

namespace Sys2Proof

/-- An entry that a filter takes out reads as an unlisted one. -/
theorem Tbl.get_filter_out {α : Type} (t : Tbl α) (d : α) (q : Nat × α → Bool) {k : Nat} (h : ∀ v, q (k, v) = false) :
    Tbl.get (t.filter q) d k = d := by
  have hn : Tbl.find? (t.filter q) k = none := by
    induction t with
    | nil => rfl
    | cons p t ih =>
      obtain ⟨a, x⟩ := p
      rw [List.filter_cons]
      split
      · next hq =>
        have ha : a ≠ k := fun e => by rw [e, h x] at hq; cases hq
        simpa [Tbl.find?, ha] using ih
      · exact ih
  rw [Tbl.get, hn]
  rfl

/-- An entry that a filter lets through reads as before. -/
theorem Tbl.get_filter_in {α : Type} (t : Tbl α) (d : α) (q : Nat × α → Bool) {k : Nat} (h : ∀ v, q (k, v) = true) :
    Tbl.get (t.filter q) d k = Tbl.get t d k := by
  have hf : Tbl.find? (t.filter q) k = Tbl.find? t k := by
    induction t with
    | nil => rfl
    | cons p t ih =>
      obtain ⟨a, x⟩ := p
      rw [List.filter_cons]
      by_cases ha : a = k
      · subst ha
        simp [h x, Tbl.find?]
      · split <;> simp [Tbl.find?, ha, ih]
  rw [Tbl.get, Tbl.get, hf]

end Sys2Proof

namespace Sys2Proof.Machine

@[simp] theorem blkState_ofCode_code (p : BlkState) : BlkState.ofCode p.code = p := by cases p <;> rfl

theorem blkState_code_lt (p : BlkState) : p.code < 2 ^ 2 := by cases p <;> decide

/-- A block that is on its way nowhere acts in the state it shows (R27). -/
theorem State.blkState_settled {s : State} {b : Nat} (h : (s.blk b).moving = none) :
    s.blkState b = BlkState.ofCode (s.fld .BLK_PWR_STATE b) := by rw [State.blkState, h]

/-- A block that acts in GATED is on its way there, or to none of GATED, NAP and OFF. -/
theorem State.blkState_eq_gated {s : State} {b : Nat} (h : s.blkState b = .gated) :
    (s.blk b).moving = some 1 ∨ ∀ n, (s.blk b).moving = some n → n ≠ 1 ∧ n ≠ 2 ∧ n ≠ 3 := by
  unfold State.blkState at h
  split at h
  · exact Or.inl (by assumption)
  · cases h
  · cases h
  · next h1 h2 h3 => exact Or.inr (fun n hn => ⟨fun e => h1 (e ▸ hn), fun e => h2 (e ▸ hn), fun e => h3 (e ▸ hn)⟩)

/-! ## Requests -/

/-- What a request leaves of a block (R28, R32): in the state it asks for, on its way to RUN or GATED, or waiting for NAP or OFF. -/
def askedBlk (s : State) (b : Block) (t : BlkState) : Blk :=
  if s.fld .BLK_PWR_STATE b = t.code ∧ (s.blk b).moving = none then { s.blk b with pend := none, cleaned := false }
  else match t with
    | .run | .gated => { s.blk b with pend := none, cleaned := false, moving := some t.code }
    | .nap | .off => { s.blk b with pend := some t.code, cleaned := false }

theorem requestBlk_eq (s : State) (b : Block) (t : BlkState) :
    s.requestBlk b t = ((s.setFld .BLK_PWR_REQ b t.code).startFclk b.region).setBlk b (askedBlk s b t) := by
  have hst : (s.setFld .BLK_PWR_REQ b t.code).fld .BLK_PWR_STATE b = s.fld .BLK_PWR_STATE b := State.fld_setFld_code s _ (by decide)
  unfold State.requestBlk askedBlk
  extract_lets u k
  have hk : k = s.blk b := rfl
  have hu : u.fld .BLK_PWR_STATE b = s.fld .BLK_PWR_STATE b := hst
  rw [hu, hk]
  split
  · rfl
  · cases t <;> rfl

/-- A request by the region's sequencer or the Kettle (R28): BLK_PWR.REQ, the block, and traffic. -/
theorem requestBlk_frame (s : State) (b : Block) (t : BlkState) :
    (s.requestBlk b t).fld .BLK_PWR_REQ b = t.code ∧ RegsBut s (s.requestBlk b t) [Fld.BLK_PWR_REQ.key b 0] ∧
      s.requestBlk b t = { s.trafficOf (s.requestBlk b t) with regs := (s.requestBlk b t).regs, blks := (s.requestBlk b t).blks } ∧
      (s.requestBlk b t).budgets = s.budgets ∧ (s.requestBlk b t).blk b = askedBlk s b t ∧
      ∀ c : Nat, c ≠ b.val → (s.requestBlk b t).blk c = s.blk c := by
  rw [requestBlk_eq]
  refine ⟨?_, fun k hk => ?_, rfl, rfl, State.blk_setBlk_same _ _ _, fun c hc => State.blk_setBlk_other _ _ hc⟩
  · exact (State.fld_setFld_same s .BLK_PWR_REQ b t.code 0).trans (Nat.mod_eq_of_lt (blkState_code_lt t))
  · exact State.regs_setFld_other s _ (by simpa using hk)

/-! ## The commit to NAP or OFF -/

/-- Whether nothing has come meanwhile that keeps a block from NAP or OFF (R32). -/
theorem commitSleep_still {s : State} {b : Block} (t : Nat) (h : (s.blk b).inq = [] ∧ s.blkBusy b = false ∧ s.linesOf b.val = [] ∧
    s.missCount b.val = 0) : s.commitSleep b t = s.setBlk b { s.blk b with pend := none, cleaned := false, moving := some t } := by
  obtain ⟨hq, hb, hl, hm⟩ := h
  simp [State.commitSleep, hq, hb, hl, hm]

/-- A request abandoned (R32): the block stays, ABANDONED is set, and BLKST instructions that named the block wait for it no more. -/
theorem commitSleep_abandons {s : State} {b : Block} (t : Nat) (h : ¬ ((s.blk b).inq = [] ∧ s.blkBusy b = false ∧ s.linesOf b.val = [] ∧
    s.missCount b.val = 0)) : s.commitSleep b t =
      ((s.setBlk b { s.blk b with pend := none, cleaned := false }).setFld .BLK_PWR_ABANDONED b 1).settleBlkst b none := by
  unfold State.commitSleep
  rw [if_neg]
  simpa [and_assoc] using h

theorem commitSleep_abandons_frame {s : State} {b : Block} (t : Nat) (h : ¬ ((s.blk b).inq = [] ∧ s.blkBusy b = false ∧
    s.linesOf b.val = [] ∧ s.missCount b.val = 0)) :
    (s.commitSleep b t).blk b = { s.blk b with pend := none, cleaned := false } ∧ (s.commitSleep b t).fld .BLK_PWR_ABANDONED b = 1 ∧
      RegsBut s (s.commitSleep b t) [Fld.BLK_PWR_ABANDONED.key b 0] ∧
      s.commitSleep b t = { s with regs := (s.commitSleep b t).regs, blks := (s.commitSleep b t).blks, jobs := (s.commitSleep b t).jobs } := by
  rw [commitSleep_abandons t h]
  refine ⟨State.blk_setBlk_same s b _, State.fld_setFld_same _ .BLK_PWR_ABANDONED b 1 0, fun k hk => ?_, rfl⟩
  exact State.regs_setFld_other (s.setBlk b { s.blk b with pend := none, cleaned := false }) 1 (by simpa using hk)

/-- BLOCK_SLEEP_COMMIT of a block that can clean its cache (R31, R32). -/
theorem blockSleepCommit_cleans {b : Block} {s : State} {p : Nat} (hp : (s.blk b).pend = some p) (hc : (s.blk b).cleaned = false)
    (hb : s.blkBusy b = false) (hq : (s.blk b).inq = []) (hk : s.cleanable b = true) (pause : Bool) :
    exec (.blockSleepCommit b pause) s = .next (if pause then
      (s.cleanCache b).setBlk b { (s.cleanCache b).blk b with cleaned := true } else (s.cleanCache b).commitSleep b p) := by
  show execBlockSleepCommit b pause s = _
  unfold execBlockSleepCommit
  rw [hp]
  simp [hc, hb, hq, hk]

theorem blockSleepCommit_cleaned {b : Block} {s : State} {p : Nat} (hp : (s.blk b).pend = some p) (hc : (s.blk b).cleaned = true)
    (pause : Bool) : exec (.blockSleepCommit b pause) s = .next (s.commitSleep b p) := by
  show execBlockSleepCommit b pause s = _
  unfold execBlockSleepCommit
  rw [hp]
  simp [hc]

/-! ## The self-wake -/

/-- A waking block in GATED comes to RUN (R29). -/
theorem blockGatedWake_next {b : Block} {s : State} (hw : (s.blk b).waking = true) (hg : s.blkState b = .gated) :
    exec (.blockGatedWake b) s = .next (((s.setFld .BLK_PWR_STATE b 0).startFclk b.region).setBlk b
      { s.blk b with waking := false, moving := if (s.blk b).moving = some 1 then none else (s.blk b).moving }) := by
  show execBlockGatedWake b s = _
  simp [execBlockGatedWake, hw, hg]

/-- A block that was on its way to GATED or nowhere, shown in RUN, acts in RUN. -/
theorem blkState_woken {s t : State} {b : Nat} (hg : s.blkState b = .gated)
    (hm : (t.blk b).moving = if (s.blk b).moving = some 1 then none else (s.blk b).moving) (hf : t.fld .BLK_PWR_STATE b = 0) :
    t.blkState b = .run := by
  unfold State.blkState
  rw [hf, hm]
  rcases State.blkState_eq_gated hg with h | h
  · rw [if_pos h]
    rfl
  · split
    · next e =>
      split at e
      · cases e
      · exact absurd rfl (h 1 e).1
    · next e =>
      split at e
      · cases e
      · exact absurd rfl (h 2 e).2.1
    · next e =>
      split at e
      · cases e
      · exact absurd rfl (h 3 e).2.2
    · rfl

/-! ## The arrival in a state -/

/-- Cleared lines read zero (R33). -/
theorem Mem.byte_clearLines_in (m : Mem) {first n a : Nat} (h : first * 64 ≤ a ∧ a < (first + n) * 64) : (m.clearLines first n).byte a = 0 :=
  Tbl.get_filter_out m.bytes unlistedByte _ (fun v => by simp [h.1, h.2])

theorem Mem.byte_clearLines_zero (m : Mem) {first n a : Nat} (h : m.byte a = 0) : (m.clearLines first n).byte a = 0 := by
  by_cases hin : first * 64 ≤ a ∧ a < (first + n) * 64
  · exact Mem.byte_clearLines_in m hin
  · refine (Tbl.get_filter_in m.bytes unlistedByte _ (fun v => ?_)).trans h
    simpa [-not_and, Decidable.not_and_iff_or_not] using hin

/-- A wiped block's stores read zero (R33). -/
theorem wipeBlock_byte (s : State) (b : Block) {a : Nat} {sl : Option Nat} (h : scratchHome a = some (b.val, sl)) :
    (s.wipeBlock b).mem.byte a = 0 := by
  have hm : (s.wipeBlock b).mem = (s.mem.clearLines (cellLine (b.val * 16)) (16 * 65536)).clearLines (blockLine b) 524288 :=
    foldl_keeps (fun t : State => t.mem = _) (fun (t : State) c => t.setExe (.cell c) {}) (fun _ _ ht => ht) _ rfl
  rw [hm]
  unfold scratchHome at h
  dsimp only at h
  split at h
  · obtain ⟨hb, -⟩ := Prod.mk.injEq .. ▸ Option.some.inj h
    exact Mem.byte_clearLines_zero _ (Mem.byte_clearLines_in _ (by unfold cellLine; omega))
  · split at h
    · obtain ⟨hb, -⟩ := Prod.mk.injEq .. ▸ Option.some.inj h
      exact Mem.byte_clearLines_in _ (by unfold blockLine; omega)
    · cases h

/-- A wiped block's cells hold nothing (R33). -/
theorem wipeBlock_exe (s : State) (b : Block) {c : Cell} (h : c ∈ Block.cells b) : (s.wipeBlock b).exe (.cell c) = {} := by
  unfold State.wipeBlock
  dsimp only
  generalize s.setMem _ = u
  revert h u
  generalize Block.cells b = l
  induction l with
  | nil => exact fun h => absurd h List.not_mem_nil
  | cons d l ih =>
    intro h u
    rw [List.foldl_cons]
    rcases List.mem_cons.mp h with rfl | hl
    · refine foldl_keeps (fun t : State => t.exe (.cell c) = {}) _ (fun t e ht => ?_) l (State.exe_setExe_same u _ _)
      by_cases he : e = c
      · rw [he]
        exact State.exe_setExe_same t _ _
      · exact (State.exe_setExe_other t _ (fun h' => he (by cases h'; rfl))).trans ht
    · exact ih hl _

/-- Wiping changes stores and cells alone. -/
theorem wipeBlock_frame (s : State) (b : Block) : (s.wipeBlock b).regs = s.regs ∧ (s.wipeBlock b).blks = s.blks ∧
    (s.wipeBlock b).pipe = s.pipe ∧ (s.wipeBlock b).mem.coded = s.mem.coded :=
  foldl_keeps (fun t : State => t.regs = s.regs ∧ t.blks = s.blks ∧ t.pipe = s.pipe ∧ t.mem.coded = s.mem.coded)
    (fun (t : State) c => t.setExe (.cell c) {}) (fun _ _ ht => ht) _ ⟨rfl, rfl, rfl, rfl⟩

/-- A block shows the state it was going to and is on its way nowhere (R27, R32). -/
def State.showing (s : State) (b : Block) (p : BlkState) : State :=
  ((s.setFld .BLK_PWR_STATE b p.code).startFclk b.region).setBlk b { s.blk b with moving := none, waking := false }

/-- What an arrival does to stores, cells and WAKE_REQ (R30, R33). -/
def State.arrives (s : State) (b : Block) (p : BlkState) (wasOff : Prop) [Decidable wasOff] : State :=
  match p with
  | .run => (if wasOff then (s.wipeBlock b).setBlk b { s.blk b with unloaded := List.range 16 } else s).setFld .BLK_PWR_WAKE_REQ b 0
  | .gated | .nap => s
  | .off => s.wipeBlock b

theorem reachState_eq {s : State} {b : Block} {p : BlkState} (h : (s.blk b).moving = some p.code) :
    s.reachState b = ((s.showing b p).arrives b p (BlkState.ofCode (s.fld .BLK_PWR_STATE b) = .off)).settleBlkst b (some p.code) := by
  unfold State.reachState
  rw [h]
  cases p with
  | run =>
    by_cases hoff : BlkState.ofCode (s.fld .BLK_PWR_STATE b) = .off
    · simp [State.iff, hoff, State.arrives, State.showing, BlkState.code]
    · simp [State.iff, hoff, State.arrives, State.showing, BlkState.code]
  | gated => simp [State.iff, State.arrives, State.showing, BlkState.code]
  | nap => simp [State.iff, State.arrives, State.showing, BlkState.code]
  | off => simp [State.iff, State.arrives, State.showing, BlkState.code]

section
variable (s : State) (b : Block)
@[simp] theorem wipeBlock_blk (c : Nat) : (s.wipeBlock b).blk c = s.blk c := by rw [State.blk, State.blk, (wipeBlock_frame s b).2.1]
@[simp] theorem wipeBlock_fld (f : Fld) (i j : Nat) : (s.wipeBlock b).fld f i j = s.fld f i j := by
  rw [State.fld, State.fld, (wipeBlock_frame s b).1]
@[simp] theorem wipeBlock_pipe : (s.wipeBlock b).pipe = s.pipe := (wipeBlock_frame s b).2.2.1
@[simp] theorem wipeBlock_coded : (s.wipeBlock b).mem.coded = s.mem.coded := (wipeBlock_frame s b).2.2.2
@[simp] theorem showing_fld (p : BlkState) : (s.showing b p).fld .BLK_PWR_STATE b = p.code :=
  (State.fld_setFld_same s .BLK_PWR_STATE b p.code 0).trans (Nat.mod_eq_of_lt (blkState_code_lt p))
@[simp] theorem showing_blk (p : BlkState) : (s.showing b p).blk b = { s.blk b with moving := none, waking := false } :=
  State.blk_setBlk_same _ _ _
@[simp] theorem settleBlkst_fld (o : Option Nat) (f : Fld) (i j : Nat) : (s.settleBlkst b o).fld f i j = s.fld f i j := rfl
@[simp] theorem settleBlkst_blk (o : Option Nat) (c : Nat) : (s.settleBlkst b o).blk c = s.blk c := rfl
@[simp] theorem settleBlkst_mem (o : Option Nat) : (s.settleBlkst b o).mem = s.mem := rfl
@[simp] theorem settleBlkst_pipe (o : Option Nat) : (s.settleBlkst b o).pipe = s.pipe := rfl
@[simp] theorem settleBlkst_execs (o : Option Nat) : (s.settleBlkst b o).execs = s.execs := rfl
@[simp] theorem settleBlkst_exe (o : Option Nat) (x : Executor) : (s.settleBlkst b o).exe x = s.exe x := rfl
end

section
variable {s : State} {b : Block} {p : BlkState} (h : (s.blk b).moving = some p.code)
include h

/-- What an arrival leaves of the block that arrives (R27, R32). -/
theorem reachState_block : ((s.reachState b).blk b).moving = none ∧ ((s.reachState b).blk b).waking = false ∧
    (s.reachState b).fld .BLK_PWR_STATE b = p.code ∧ (p = .run → (s.reachState b).fld .BLK_PWR_WAKE_REQ b = 0) := by
  have hw : ∀ u : State, (u.setFld .BLK_PWR_WAKE_REQ b 0).fld .BLK_PWR_STATE b = u.fld .BLK_PWR_STATE b :=
    fun u => State.fld_setFld_code u _ (by decide)
  rw [reachState_eq h]
  cases p with
  | run => by_cases ho : BlkState.ofCode (s.fld .BLK_PWR_STATE b) = .off <;> simp [State.arrives, ho, hw]
  | gated => simp [State.arrives]
  | nap => simp [State.arrives]
  | off => simp [State.arrives]

/-- An arrival leaves the input pipeline and the coded slots alone. -/
theorem reachState_pipe : (s.reachState b).pipe = s.pipe ∧ (s.reachState b).mem.coded = s.mem.coded := by
  have hs : (s.showing b p).pipe = s.pipe ∧ (s.showing b p).mem = s.mem := ⟨rfl, rfl⟩
  rw [reachState_eq h]
  cases p with
  | run => by_cases ho : BlkState.ofCode (s.fld .BLK_PWR_STATE b) = .off <;> simp [State.arrives, ho, hs]
  | gated => simp [State.arrives, hs]
  | nap => simp [State.arrives, hs]
  | off => simp [State.arrives, hs]

/-- A block that leaves OFF for RUN, or comes to OFF, has cells that hold nothing (R33). -/
theorem reachState_cells (hoff : BlkState.ofCode (s.fld .BLK_PWR_STATE b) = .off ∧ p = .run ∨ p = .off) {c : Cell}
    (hc : c ∈ Block.cells b) : (s.reachState b).exe (.cell c) = {} := by
  rw [reachState_eq h]
  rcases hoff with ⟨ho, rfl⟩ | rfl
  · simp [State.arrives, ho, wipeBlock_exe _ b hc]
  · simp [State.arrives, wipeBlock_exe _ b hc]

/-- A block that leaves OFF for RUN has every cell to be loaded again, and stores that read zero (R30, R33). -/
theorem reachState_wiped (ho : BlkState.ofCode (s.fld .BLK_PWR_STATE b) = .off) (hp : p = .run) :
    ((s.reachState b).blk b).unloaded = List.range 16 ∧
      ∀ (a : Nat) (sl : Option Nat), scratchHome a = some (b.val, sl) → (s.reachState b).mem.byte a = 0 := by
  rw [reachState_eq h]
  subst hp
  refine ⟨by simp [State.arrives, ho], fun a sl ha => ?_⟩
  simp only [State.arrives, ho, if_true, settleBlkst_mem, State.setFld_mem, State.setBlk_mem]
  exact wipeBlock_byte _ b ha

/-- An arrival with no OFF on either side wipes nothing. -/
theorem reachState_keeps (ho : BlkState.ofCode (s.fld .BLK_PWR_STATE b) ≠ .off) (hp : p ≠ .off) :
    (s.reachState b).mem = s.mem ∧ (s.reachState b).execs = s.execs := by
  rw [reachState_eq h]
  cases p with
  | run => simp only [State.arrives, ho, if_false]; exact ⟨rfl, rfl⟩
  | gated => exact ⟨rfl, rfl⟩
  | nap => exact ⟨rfl, rfl⟩
  | off => exact absurd rfl hp

end

/-! ## A stream load that waited -/

theorem strEnd_keepsBlock (s : State) (res b : Nat) : KeepsBlock b s (s.strEnd res) := by
  have hf : FldsBut [Fld.COL_STRCMD_DONE.code, Fld.COL_STRCMD_RESULT.code] s (s.strEnd res) :=
    ((FldsBut.refl _ s).setFld (by decide) _ _ _).setFld (by decide) _ _ _
  exact ⟨rfl, rfl, rfl, hf _ _ _ (by decide), hf _ _ _ (by decide)⟩

theorem setPipe_keepsBlock (s : State) (v : Pipe) (b : Nat) : KeepsBlock b s (s.setPipe v) := ⟨rfl, rfl, rfl, rfl, rfl⟩

/-- With no slot coded a stream's load leaves a running block alone (R494). -/
theorem loadStream_keepsBlock (s : State) (n a : Nat) {b : Nat} (h : s.blkState b = .run) (hc : s.mem.coded = []) :
    KeepsBlock b s (s.loadStream n a) := by
  have hn := noteRead_keepsBlock s schedMover inputClass a 64 h hc
  unfold State.loadStream
  dsimp only
  split
  · exact hn.trans (strEnd_keepsBlock _ _ _)
  · split
    · exact hn.trans (strEnd_keepsBlock _ _ _)
    · exact (hn.trans (setPipe_keepsBlock _ _ _)).trans (strEnd_keepsBlock _ _ _)

/-- The load that waited for a block leaves that block alone. -/
theorem strAwake_keepsBlock (s : State) (b : Block) (h : s.mem.coded = [] ∨ s.pipe.strWait = none) : KeepsBlock b s (s.strAwake b) := by
  unfold State.strAwake
  split
  · exact KeepsBlock.refl _ s
  · next n a hw =>
    have hc : s.mem.coded = [] := h.resolve_right (by rw [hw]; exact Option.some_ne_none _)
    split
    · exact KeepsBlock.refl _ s
    · next hr =>
      have hrun : s.blkState b = .run := by
        by_contra hn
        exact hr (Or.inl hn)
      have hp := setPipe_keepsBlock s { s.pipe with strWait := none } b
      dsimp only
      split
      · exact hp.trans (strEnd_keepsBlock _ _ _)
      · exact hp.trans (loadStream_keepsBlock _ _ _ (hp.blkState.trans hrun) hc)

/-- BLOCK_STATE_REACHED leaves the block as its arrival does. -/
theorem blockStateReached_keeps {s : State} {b : Block} {p : BlkState} (h : (s.blk b).moving = some p.code)
    (hc : s.mem.coded = [] ∨ s.pipe.strWait = none) :
    exec (.blockStateReached b) s = .next ((s.reachState b).strAwake b) ∧ KeepsBlock b (s.reachState b) ((s.reachState b).strAwake b) := by
  obtain ⟨hpipe, hcoded⟩ := reachState_pipe h
  exact ⟨rfl, strAwake_keepsBlock _ b (by rw [hpipe, hcoded]; exact hc)⟩

/-! ## The clauses of O8 -/

/-- BLOCK_AUTOGATE of an idle block (R34). -/
theorem blockAutogate_next {b : Block} {s : State} (hr : s.blkState b = .run) (ha : s.flag .BLK_PWR_AUTOGATE b = true)
    (hq : (s.blk b).inq = []) (hb : s.blkBusy b = false) (hc : ∀ c ∈ Block.cells b, (s.exe (.cell c)).running = false)
    (hm : (s.blk b).moving = none) : exec (.blockAutogate b) s = .next (s.setFld .BLK_PWR_STATE b 1) := by
  have hcells : (Block.cells b).all (fun c => !(s.exe (.cell c)).running) = true := by
    rw [List.all_eq_true]
    exact fun c h => by rw [hc c h]; rfl
  show execBlockAutogate b s = _
  simp [execBlockAutogate, hr, ha, hq, hb, hcells, hm]

/-- BLK_PWR_REQ of a requester with the right (R28, R201). -/
theorem blkPwrReq_next {who : Bank} {b : Block} (req : BlkState) (s : State) (hm : mayControl who b.region = true) :
    exec (.blkPwrReq who b req) s = .next ((s.otherAccess who).requestBlk b req) := by
  show execBlkPwrReq who b req s = _
  simp [execBlkPwrReq, hm]

theorem askedBlk_otherAccess (s : State) (who : Bank) (b : Block) (req : BlkState) :
    askedBlk (s.otherAccess who) b req = askedBlk s b req := by
  unfold askedBlk
  rw [otherAccess_blk, otherAccess_flds s who .BLK_PWR_STATE b 0 (by decide)]

/-- Settles O8: a clause for each command, from the laws of requests, commits, wakes and arrivals. -/
theorem blockPowerRequestsAndWakes : Obligations.BlockPowerRequestsAndWakes := by
  refine ⟨fun who b req s hm => ?_, fun who b req s hm => ?_, fun b s p hp => ⟨fun hc hb hq hk => ?_, fun hc pause => ?_, ?_⟩,
    fun b s hw hg => ?_, fun b s p hm hc => ?_, fun b s hr ha hq hb hc hm => ?_⟩
  · show execBlkPwrReq who b req s = _
    simp [execBlkPwrReq, hm]
  · obtain ⟨hreq, hregs, hrest, hbud, hblk, hother⟩ := requestBlk_frame (s.otherAccess who) b req
    rw [askedBlk_otherAccess] at hblk
    refine ⟨_, blkPwrReq_next req s hm, hreq, hregs, hrest, hbud.trans (otherAccess_budgets s who),
      fun c hc => (hother c hc).trans (otherAccess_blk s who c), fun h => ?_, fun h hreq => ?_, fun h hreq => ?_⟩
    · rw [hblk]
      exact if_pos h
    · rw [hblk]
      refine (if_neg h).trans ?_
      rcases hreq with rfl | rfl <;> rfl
    · rw [hblk]
      refine (if_neg h).trans ?_
      rcases hreq with rfl | rfl <;> rfl
  · exact ⟨blockSleepCommit_cleans hp hc hb hq hk false, blockSleepCommit_cleans hp hc hb hq hk true⟩
  · exact blockSleepCommit_cleaned hp hc pause
  · exact ⟨commitSleep_still p, commitSleep_abandons_frame p⟩
  · refine ⟨_, blockGatedWake_next hw hg, blkState_woken hg ?_ ?_, ?_, fun k hk => ?_, rfl, rfl, ?_⟩
    · rw [State.blk_setBlk_same]
    · exact State.fld_setFld_same s .BLK_PWR_STATE b 0 0
    · rw [State.blk_setBlk_same]
    · exact State.regs_setFld_other s 0 (by simpa using hk)
    · exact State.startFclk_runs (s.setFld .BLK_PWR_STATE b 0) _
  · obtain ⟨hx, hk⟩ := blockStateReached_keeps hm hc
    obtain ⟨hmov, hwak, hst, hwr⟩ := reachState_block hm
    refine ⟨_, hx, ?_, hk.state.trans hst, by rw [hk.blk, hmov], by rw [hk.blk, hwak], fun ho c hcc => ?_, fun ho hp => ?_,
      fun hp => hk.wake.trans (hwr hp), fun ho hp => ?_⟩
    · rw [hk.blkState, State.blkState_settled hmov, hst, blkState_ofCode_code]
    · rw [State.exe, hk.execs]
      exact reachState_cells hm ho hcc
    · rw [hk.blk, hk.mem]
      exact reachState_wiped hm ho hp
    · rw [hk.mem, hk.execs]
      exact reachState_keeps hm ho hp
  · refine ⟨_, blockAutogate_next hr ha hq hb hc hm, ?_, fun k hk => State.regs_setFld_other s 1 (by simpa using hk), rfl⟩
    rw [State.blkState_settled (by exact hm)]
    exact congrArg BlkState.ofCode (State.fld_setFld_same s .BLK_PWR_STATE b 1 0)

end Sys2Proof.Machine
end

section
/-! SUPPORT. Accesses to the stores of a block that runs and of one that does not (R29, R30, R57 to R60), and the proof of O9. -/

namespace Sys2Proof.Machine

/-- What an instruction in flight adds to depends on the executors alone (R177). -/
theorem updating_of_execs {s t : State} (h : t.execs = s.execs) (m : Mover) (l : List (Nat × Nat)) : t.updating m l = s.updating m l := by
  rw [State.updating, State.updating, h]

/-- Where nothing in flight adds to the bytes written, the write unsettles nothing (R177). -/
theorem unsettle_calm {s : State} {m : Mover} {l : List (Nat × Nat)} (h : s.updating m l = []) : s.unsettle m l = s := by
  simp [State.unsettle, State.undef, h]

theorem memWrite_execs (s : State) (line : Nat) (w : LineWrite) : (s.memWrite line w).execs = s.execs := by
  unfold State.memWrite State.farForget
  dsimp only
  split <;> split <;> rfl

theorem memWrite_mem (s : State) (line : Nat) (w : LineWrite) : (s.memWrite line w).mem = s.mem.writeLine line w := by
  unfold State.memWrite
  dsimp only
  split
  · exact State.farForget_mem _ _
  · exact State.farForget_mem _ _

/-- A write to a store lands by its mask (R59). -/
theorem performScratch_write {s : State} {b : Nat} {slot : Option Nat} {x : ScratchReq} {w : LineWrite} (hw : x.wr = some w)
    (hg : ∀ n, slot = some n → (s.blk b).gone.contains n = false)
    (hu : s.updating ⟨x.req.val, none⟩ (writeRanges w (x.addr / 64)) = []) :
    (s.performScratch b slot x).mem = (s.memWrite (x.addr / 64) w).mem := by
  have hh := haul_traffic s ⟨x.req.val, none⟩ (defaultClass x.req) x.addr (ScratchReq.size x) x.wr.isSome
  unfold State.performScratch
  extract_lets u k gone line
  have hk : k = s.blk b := by unfold k u; rw [State.blk, State.blk, hh]; rfl
  have hgone : gone = false := by
    unfold gone
    rw [hk]
    cases slot with
    | none => rfl
    | some n => exact hg n rfl
  have hcalm : (u.memWrite line w).updating ⟨x.req.val, none⟩ (writeRanges w line) = [] := by
    rw [updating_of_execs ((memWrite_execs u line w).trans hh.execs)]
    exact hu
  rw [hw]
  simp only [hgone, Bool.not_false, State.iff, if_true, State.setBlk_mem]
  rw [unsettle_calm hcalm, memWrite_mem, memWrite_mem, show u.mem = s.mem from hh.mem]

/-- A read of a store answers the line and changes neither memory nor registers (R59). -/
theorem performScratch_read {s : State} {b : Nat} {slot : Option Nat} {x : ScratchReq} (hw : x.wr = none) :
    (s.performScratch b slot x).mem = s.mem ∧ (s.performScratch b slot x).regs = s.regs ∧
      ((∀ n, slot = some n → (s.blk b).gone.contains n = false) →
        (x, s.mem.line (x.addr / 64), anyPoison (s.mem.wordPoison (x.addr / 64))) ∈ ((s.performScratch b slot x).blk b).scratchDone) := by
  have hh := haul_traffic s ⟨x.req.val, none⟩ (defaultClass x.req) x.addr (ScratchReq.size x) x.wr.isSome
  unfold State.performScratch
  extract_lets u k gone line
  have hk : k = s.blk b := by unfold k u; rw [State.blk, State.blk, hh]; rfl
  rw [hw]
  refine ⟨hh.mem, hh.regs, fun hg => ?_⟩
  have hgone : gone = false := by
    unfold gone
    rw [hk]
    cases slot with
    | none => rfl
    | some n => exact hg n rfl
  have hm : u.mem = s.mem := hh.mem
  rw [State.blk_setBlk_same, hgone, hm]
  simp [line]

/-- A block in GATED that something reaches starts its own clock (R29). -/
theorem stirBlk_gated {s : State} {b : Block} (h : s.blkState b = .gated) :
    s.stirBlk b = (s.startFclk b.region).setBlk b { s.blk b with waking := true } := by
  unfold State.stirBlk
  dsimp only
  rw [show (s.startFclk b.region).blkState b = .gated from h]
  rfl

/-- A block in NAP or OFF that something reaches raises a wake request (R30). -/
theorem stirBlk_asleep {s : State} {b : Block} (h : s.blkState b = .nap ∨ s.blkState b = .off) :
    s.stirBlk b = (s.startFclk b.region).setFld .BLK_PWR_WAKE_REQ b 1 := by
  unfold State.stirBlk
  dsimp only
  rcases h with h | h
  · rw [show (s.startFclk b.region).blkState b = .nap from h]
  · rw [show (s.startFclk b.region).blkState b = .off from h]

theorem blkState_cases {p : BlkState} (h : p ≠ .run) : p = .gated ∨ (p = .nap ∨ p = .off) := by
  cases p with
  | run => exact absurd rfl h
  | gated => exact Or.inl rfl
  | nap => exact Or.inr (Or.inl rfl)
  | off => exact Or.inr (Or.inr rfl)

/-- A block in GATED, NAP or OFF that something reaches keeps its queue, starts its clock or asks to be woken, and nothing else
changes (R29, R30). -/
structure Stirred (b : Block) (s t : State) : Prop where
  inq : (t.blk b).inq = (s.blk b).inq
  gated : s.blkState b = .gated → (t.blk b).waking = true ∧ t.regs = s.regs
  asleep : s.blkState b = .nap ∨ s.blkState b = .off → t.fld .BLK_PWR_WAKE_REQ b = 1 ∧ RegsBut s t [Fld.BLK_PWR_WAKE_REQ.key b 0]
  rest : t = { s.trafficOf t with regs := t.regs, blks := t.blks }
  budgets : t.budgets = s.budgets

theorem stirBlk_stirred {s : State} {b : Block} (h : s.blkState b ≠ .run) : Stirred b s (s.stirBlk b) := by
  rcases blkState_cases h with hg | ha
  · rw [stirBlk_gated hg]
    refine ⟨?_, fun _ => ⟨?_, rfl⟩, fun ha => ?_, rfl, rfl⟩
    · rw [State.blk_setBlk_same]
    · rw [State.blk_setBlk_same]
    · rw [hg] at ha
      exact absurd ha (by decide)
  · rw [stirBlk_asleep ha]
    refine ⟨rfl, fun hg => ?_, fun _ => ⟨State.fld_setFld_same _ .BLK_PWR_WAKE_REQ b 1 0, fun k hk => ?_⟩, rfl, rfl⟩
    · rw [hg] at ha
      exact absurd ha (by decide)
    · exact State.regs_setFld_other (s.startFclk b.region) 1 (by simpa using hk)

theorem Stirred.mem {b : Block} {s t : State} (h : Stirred b s t) : t.mem = s.mem := by rw [h.rest]; rfl

/-- A request to a store of a running block is performed (R57, R58). -/
theorem scratchAccess_performed {x : ScratchReq} {b : Block} {slot : Option Nat} {s : State} (hh : scratchHome x.addr = some (b.val, slot))
    (hr : s.blkState b = .run) (hs : (s.blk b).slotStopped slot = false) :
    exec (.scratchAccess x) s = .next (s.performScratch b slot x) := by
  show execScratchAccess x s = _
  unfold execScratchAccess State.scratchAccess
  rw [hh]
  simp [hr, hs, b.isLt]

/-- A request to a store of a block that is not in RUN is queued, and the block is stirred (R29, R30). -/
theorem scratchAccess_queued {x : ScratchReq} {b : Block} {slot : Option Nat} {s : State} (hh : scratchHome x.addr = some (b.val, slot))
    (hr : s.blkState b ≠ .run) :
    exec (.scratchAccess x) s = .next ((s.setBlk b { s.blk b with inq := (s.blk b).inq ++ [.scratch x] }).stirBlk b) := by
  show execScratchAccess x s = _
  unfold execScratchAccess State.scratchAccess
  rw [hh]
  simp [hr, b.isLt]

/-- A longer queue leaves a block in its state. -/
theorem blkState_setBlk {s : State} {b : Nat} {v : Blk} (h : v.moving = (s.blk b).moving) : (s.setBlk b v).blkState b = s.blkState b := by
  unfold State.blkState
  rw [State.blk_setBlk_same, h]
  rfl

/-- BLOCK_INBOUND_DISPATCH of a block that is not in RUN stirs it (R29, R30). -/
theorem blockInboundDispatch_stirs {b : Block} {s : State} (hq : (s.blk b).inq ≠ []) (hr : s.blkState b ≠ .run) :
    exec (.blockInboundDispatch b) s = .next (s.stirBlk b) := by
  show execBlockInboundDispatch b s = _
  unfold execBlockInboundDispatch
  dsimp only
  rw [if_neg (by simpa using hq)]
  split
  · next h => exact absurd h hr
  · rfl

/-- BLOCK_INBOUND_DISPATCH of a running block takes a queued access out and performs it (R60). -/
theorem blockInboundDispatch_performs {b : Block} {x : ScratchReq} {slot : Option Nat} {s : State} (hq : (s.blk b).inq = [.scratch x])
    (hr : s.blkState b = .run) (hh : scratchHome x.addr = some (b.val, slot)) (hs : (s.blk b).slotStopped slot = false) :
    exec (.blockInboundDispatch b) s = .next ((s.setBlk b { s.blk b with inq := [] }).performScratch b slot x) := by
  show execBlockInboundDispatch b s = _
  unfold execBlockInboundDispatch
  simp [hq, hr, hh, hs]

/-- Settles O9: an access is performed where its block runs, and otherwise queued with the block stirred. -/
theorem dispatchAtASleepingBlockWakesIt : Obligations.DispatchAtASleepingBlockWakesIt := by
  refine ⟨fun x b slot s hh hr hs => ⟨scratchAccess_performed hh hr hs, fun w hw hg hu => performScratch_write hw hg hu,
    fun hw => performScratch_read hw⟩, fun x b slot s hh hr => ?_, fun x s hh => ?_, fun b s hq hr => ?_,
    fun b x slot s hq hr hh hs => blockInboundDispatch_performs hq hr hh hs⟩
  · have hb := blkState_setBlk (s := s) (b := b) (v := { s.blk b with inq := (s.blk b).inq ++ [.scratch x] }) rfl
    have ht := stirBlk_stirred (by rw [hb]; exact hr)
    refine ⟨_, scratchAccess_queued hh hr, ?_, ht.mem, fun hg => ht.gated (hb.trans hg), fun ha => ht.asleep (by rw [hb]; exact ha), ?_,
      ht.budgets⟩
    · rw [ht.inq, State.blk_setBlk_same]
    · rw [ht.rest]
      rfl
  · show execScratchAccess x s = _
    rw [execScratchAccess, State.scratchAccess, hh]
  · have ht := stirBlk_stirred hr
    exact ⟨_, blockInboundDispatch_stirs hq hr, ht.inq, ht.mem, fun hg => (ht.gated hg).1, fun ha => (ht.asleep ha).1⟩

end Sys2Proof.Machine
end

section
/-! SUPPORT. Budgets: a period's start, the grant of what alone waits, and quotas (R35 to R47), and the proof of O11. -/

namespace Sys2Proof.Machine

/-- The kind and index of a resource name it (R35). -/
@[simp] theorem resOf_kind_index (res : BudgetRes) : resOf res.kind res.index = some res := by
  cases res <;> simp [resOf, BudgetRes.kind, BudgetRes.index]

/-! ## A period's start -/

/-- The numbers of the register fields a period's start writes (R45, R46). -/
def periodFlds : List Nat := [Fld.BDG_USED_USED.code, Fld.BDG_STAT_WAITING.code, Fld.BDG_PCNT_PERIODS.code]

theorem quota_of_flds {s t : State} {cs : List Nat} (h : FldsBut cs s t) (hc : Fld.BDG_QUOTA_QUOTA.code ∉ cs) (res : BudgetRes) :
    t.quota res = s.quota res := funext fun n => h .BDG_QUOTA_QUOTA res.code n hc

theorem quotaSum_of_flds {s t : State} {cs : List Nat} (h : FldsBut cs s t) (hc : Fld.BDG_QUOTA_QUOTA.code ∉ cs) (res : BudgetRes) :
    t.quotaSum res = s.quotaSum res := by rw [State.quotaSum, State.quotaSum, quota_of_flds h hc]

theorem budgetCap_of_flds {s t : State} {cs : List Nat} (h : FldsBut cs s t) (hc : Fld.HPT_CFG_WIDTH.code ∉ cs) (res : BudgetRes) :
    t.budgetCap res = s.budgetCap res := by
  cases res with
  | pcie p => exact congrArg (fun w => if w = 8 then 7744 else if w = 4 then 3872 else if w = 2 then 1936 else 0) (h .HPT_CFG_WIDTH p 0 hc)
  | via r => rfl
  | far f => rfl
  | link l => rfl
  | fabric n => rfl

/-- The budget of a resource as a period begins (R39, R45). -/
def Budget.renewed (s : State) (res : BudgetRes) : Budget :=
  { s.budget res with
    bal := if s.budgetOn res then refill (s.quota res) (s.budget res).balOf else (s.budget res).bal
    pool := if s.budgetOn res then ((s.budgetCap res - s.quotaSum res : Nat) : Int) else (s.budget res).pool
    used := List.replicate 8 0
    starve := (List.range 8).map (fun n => if (s.budget res).waiting n ∧ (s.budget res).granted.contains n = false then
      (s.budget res).starve.getD n 0 + 1 else 0)
    granted := [] }

/-- While a resource's clock runs, a period's start renews its budget and shows what the last period used (R39, R46). -/
theorem beginPeriod_renews {s : State} {res : BudgetRes} (hc : s.budgetClock res = true) :
    ∃ v : State, v = { s with regs := v.regs } ∧ s.beginPeriod res = v.setBudget res (Budget.renewed s res) := by
  unfold State.beginPeriod
  rw [if_neg (by rw [hc]; decide)]
  extract_lets g on starve u mask v
  have hu : FldsBut periodFlds s u := fldsBut_foldl (fun t n => fldsBut_setFld t _ _ _ _ (by decide)) _ s
  have hv : FldsBut periodFlds s v := (hu.setFld (by decide) _ _ _).setFld (by decide) _ _ _
  have hur : u = { s with regs := u.regs } :=
    foldl_keeps (fun t : State => t = { s with regs := t.regs })
      (fun (t : State) n => t.setFld .BDG_USED_USED res.code (g.used.getD n 0) n) (fun t n ht => by rw [ht]; rfl) _ rfl
  have hvr : v = { s with regs := v.regs } := by
    show (u.setFld .BDG_STAT_WAITING res.code mask).bump .BDG_PCNT_PERIODS res.code = _
    rw [hur]
    rfl
  refine ⟨v, hvr, ?_⟩
  unfold Budget.renewed
  rw [← quota_of_flds hv (by decide) res, ← budgetCap_of_flds hv (by decide) res, ← quotaSum_of_flds hv (by decide) res]

theorem budgetPeriodStart_next {s : State} {res : BudgetRes} :
    exec (.budgetPeriodStart res.kind res.index) s = .next (s.beginPeriod res) := by
  show execBudgetPeriodStart res.kind res.index s = _
  rw [execBudgetPeriodStart, resOf_kind_index]

theorem getD_map_range {α : Type} (f : Nat → α) (d : α) {n k : Nat} (h : n < k) : ((List.range k).map f).getD n d = f n := by
  simp [List.getD_eq_getElem?_getD, h]

/-! ## Grants -/

/-- A list's only element that a test picks is the one it finds. -/
theorem find?_eq_some_of_unique {l : List Nat} {p : Nat → Bool} {c : Nat} (hm : c ∈ l) (hc : p c = true)
    (hu : ∀ n, p n = true → n = c) : l.find? p = some c := by
  cases h : l.find? p with
  | none => exact absurd hc (by simpa using List.find?_eq_none.mp h c hm)
  | some d => rw [hu d (List.find?_some h)]

/-- The round robin comes to every class (R39). -/
theorem mem_afterLast (last : Nat) {c : Nat} (h : c < 8) : c ∈ afterLast last := by
  unfold afterLast
  exact List.mem_map.mpr ⟨(c + 8 - (last + 1) % 8) % 8, List.mem_range.mpr (by omega), by omega⟩

theorem waiting_single {g : Budget} {a : Ask} (h : g.asks = [a]) (n : Nat) : g.waiting n = (a.cls == n) := by
  simp [Budget.waiting, h]

/-- With budgeting, a class that alone waits and has tokens is granted from its own balance; without, it is granted (R39, R44). -/
theorem grantChoice_single {g : Budget} {a : Ask} (h : g.asks = [a]) (hc : a.cls < 8) (borrow : Nat) :
    grantChoice false g borrow = some (a.cls, .free) ∧ (0 < g.balOf a.cls → grantChoice true g borrow = some (a.cls, .own)) := by
  refine ⟨?_, fun hb => ?_⟩
  · have hf : (afterLast g.last).find? g.waiting = some a.cls :=
      find?_eq_some_of_unique (mem_afterLast _ hc) (by simp [waiting_single h]) (fun n hn => by
        rw [waiting_single h, beq_iff_eq] at hn
        exact hn.symm)
    simp [grantChoice, hf]
  · have hf : (afterLast g.last).find? (fun n => g.waiting n && decide (0 < g.balOf n)) = some a.cls :=
      find?_eq_some_of_unique (mem_afterLast _ hc) (by simp [waiting_single h, hb]) (fun n hn => by
        rw [waiting_single h, Bool.and_eq_true, beq_iff_eq] at hn
        exact hn.1.symm)
    simp [grantChoice, hf]

/-- The request that alone waits is the next of its class, whichever cell the block's arbiter comes to (R23). -/
theorem nextAsk_single (s : State) {g : Budget} {a : Ask} (h : g.asks = [a]) : s.nextAsk g a.cls = some a := by
  unfold State.nextAsk
  rw [h, List.find?_cons_of_pos (by simp)]
  dsimp only
  cases hk : a.cell with
  | none => rfl
  | some k =>
    simp only [List.filter_cons, beq_self_eq_true, hk, Option.isSome_some, Bool.and_self, if_true, List.filter_nil]
    cases hf : (afterSlot (s.blk a.code).arb).findSome? (fun k => [a].find? (fun o => o.cell == some k)) with
    | none => rfl
    | some o =>
      obtain ⟨j, -, hj⟩ := List.exists_of_findSome?_eq_some hf
      have ho : o = a := by simpa using List.mem_of_find?_eq_some hj
      rw [ho]
      rfl

/-- What is left waiting when a request has been granted (R41). -/
def Ask.rest (a : Ask) : List Ask := if a.bytes ≤ 4096 then [] else [{ a with bytes := a.bytes - 4096 }]

/-- The granted request leaves the queue, or waits for the rest of its bytes; the arbiter of a cell's block moves on (R23, R41). -/
theorem takeAsk_single (s : State) (res : BudgetRes) {g : Budget} {a : Ask} (h : g.asks = [a]) :
    ((s.takeAsk res g a).budget res) = { g with asks := a.rest } ∧
      s.takeAsk res g a = { s with budgets := (s.takeAsk res g a).budgets, blks := (s.takeAsk res g a).blks } ∧
      (a.cell = none → (s.takeAsk res g a).blks = s.blks) := by
  have hasks : (if a.bytes - askBytes a = 0 then g.asks.erase a
      else g.asks.map (fun o => if o = a then { o with bytes := a.bytes - askBytes a } else o)) = a.rest := by
    rw [h, Ask.rest, askBytes]
    by_cases hb : a.bytes ≤ 4096
    · rw [if_pos (by omega), if_pos hb]
      simp
    · rw [if_neg (by omega), if_neg hb]
      simp [Nat.min_eq_right (by omega : 4096 ≤ a.bytes)]
  unfold State.takeAsk
  dsimp only
  rw [hasks]
  cases a.cell with
  | none => exact ⟨State.budget_setBudget_same s res _, rfl, fun _ => rfl⟩
  | some k => exact ⟨State.budget_setBudget_same s res _, rfl, fun hn => by cases hn⟩

/-- A grant's cost (R39, R41). -/
theorem unitCost_askBytes (a : Ask) : unitCost (askBytes a) = min ((a.bytes + 63) / 64) 64 := by
  unfold unitCost askBytes ceilDiv
  omega

theorem getD_setAt {α : Type} (l : List α) (n m : Nat) (v d : α) (h : n < l.length) :
    (setAt l n v).getD m d = if m = n then v else l.getD m d := by
  induction l generalizing n m with
  | nil => exact absurd h (Nat.not_lt_zero _)
  | cons x t ih => cases n with
    | zero => cases m <;> simp [setAt]
    | succ n => cases m with
      | zero => simp [setAt]
      | succ m => simpa [setAt] using ih n m (by simpa using h)

/-- The budget a grant's charge leaves before the request is taken off (R39, R44). -/
def Budget.charged (g : Budget) (a : Ask) (on : Bool) : Budget :=
  let c := unitCost (askBytes a)
  let u := { g.use a.cls c with granted := g.granted ++ [a.cls] }
  { (if on then u.spend a.cls c else u) with last := a.cls }

/-- BUDGET_GRANT of the request that alone waits (R39, R41, R44). -/
theorem budgetGrant_single {res : BudgetRes} {a : Ask} {c : ActClass} {s : State} (hc : a.cls = c.val) (hk : s.budgetClock res = true)
    (ha : (s.budget res).asks = [a]) (hb : s.budgetOn res = true → 0 < (s.budget res).balOf a.cls) :
    exec (.budgetGrant res.kind res.index c) s =
      .next (s.takeAsk res ((s.budget res).charged a (s.budgetOn res)) a) := by
  obtain ⟨hfree, hown⟩ := grantChoice_single ha (hc ▸ c.isLt) (s.fld .BDG_CTRL_BORROW res.code)
  show execBudgetGrant res.kind res.index c s = _
  rw [execBudgetGrant, resOf_kind_index]
  dsimp only
  unfold State.grantNext
  rw [if_neg (by rw [hk]; decide)]
  dsimp only
  cases hon : s.budgetOn res with
  | false =>
    rw [hfree]
    dsimp only
    rw [if_pos hc, nextAsk_single s ha]
    rfl
  | true =>
    rw [hown (hb hon)]
    dsimp only
    rw [if_pos hc, nextAsk_single s ha]
    rfl

/-- The quotas' sum is compared with the capacity as the quota is written (R43, R47). -/
theorem writeQuota_oversub (s : State) (res : BudgetRes) (n v : Nat) :
    (s.writeQuota res n v).fld .BDG_STAT_OVERSUB res.code =
      if s.budgetCap res < (s.writeQuota res n v).quotaSum res then 1 else 0 := by
  unfold State.writeQuota
  dsimp only
  rw [State.fld_setFld_same, quotaSum_of_flds (fldsBut_setFld (cs := [Fld.BDG_STAT_OVERSUB.code]) _ _ _ _ _ List.mem_cons_self) (by decide),
    budgetCap_of_flds (fldsBut_setFld (cs := [Fld.BDG_QUOTA_QUOTA.code]) s _ _ _ _ List.mem_cons_self) (by decide)]
  refine (bit1_mod _).trans ?_
  simp [bit1]

/-! ## The clauses of O11 -/

/-- Settles O11: the period's start renews the budget, the grant charges what it takes off, and the quota stands at once. -/
theorem budgetsRefillGrantAndReportStarvation : Obligations.BudgetsRefillGrantAndReportStarvation := by
  refine ⟨fun res s hk => ?_, fun res a c s hc hk hl ha => ?_, fun res c s h0 hl hb => ?_, fun who c v s res hr => ?_,
    fun who c v s hr => ?_⟩
  · obtain ⟨v, hv, hp⟩ := beginPeriod_renews hk
    have hx := (budgetPeriodStart_next (s := s) (res := res)).trans (congrArg _ hp)
    refine ⟨fun hon => ⟨_, hx, fun n hn => ?_, ?_, ?_⟩, fun hoff => ⟨_, hx, ?_, ?_⟩, ⟨_, hx, ?_, ?_, fun n hn => ?_⟩⟩
    · rw [State.budget_setBudget_same, Budget.balOf, Budget.renewed]
      simp only [hon, if_true]
      exact getD_map_range _ _ hn
    · rw [State.budget_setBudget_same, Budget.renewed]
      simp only [hon, if_true]
    · rw [hv]
      rfl
    · rw [State.budget_setBudget_same, Budget.renewed]
      simp only [hoff, Bool.false_eq_true, if_false]
    · rw [State.budget_setBudget_same, Budget.renewed]
      simp only [hoff, Bool.false_eq_true, if_false]
    · rw [State.budget_setBudget_same]
      rfl
    · rw [State.budget_setBudget_same]
      rfl
    · rw [State.budget_setBudget_same]
      exact getD_map_range _ _ hn
  · have hlt : a.cls < (s.budget res).bal.length := by rw [hl, hc]; exact c.isLt
    refine ⟨fun hon hb => ?_, fun hoff => ?_⟩
    · have hx := budgetGrant_single hc hk ha (fun _ => hb)
      obtain ⟨ht, hr, hblk⟩ := takeAsk_single s res (g := (s.budget res).charged a (s.budgetOn res)) (a := a)
        (by unfold Budget.charged; dsimp only; split <;> exact ha)
      rw [hon] at hx ht hr hblk
      refine ⟨_, hx, ?_, fun m hm hne => ?_, ?_, ?_, ?_, hr, hblk⟩
      · rw [ht, ← unitCost_askBytes]
        exact (getD_setAt _ _ _ _ _ hlt).trans (if_pos rfl)
      · rw [ht]
        exact (getD_setAt _ _ _ _ _ hlt).trans (if_neg hne)
      · rw [ht]
        rfl
      · rw [ht]
        rfl
      · rw [ht]
        exact List.mem_append_right _ List.mem_cons_self
    · have hx := budgetGrant_single hc hk ha (fun hon => by rw [hoff] at hon; cases hon)
      obtain ⟨ht, hr, -⟩ := takeAsk_single s res (g := (s.budget res).charged a (s.budgetOn res)) (a := a)
        (by unfold Budget.charged; dsimp only; split <;> exact ha)
      rw [hoff] at hx ht hr
      refine ⟨_, hx, ?_, ?_, hr⟩
      · rw [ht]
        rfl
      · rw [ht]
        rfl
  · show execBudgetStarved res c s = _
    unfold execBudgetStarved
    dsimp only
    rw [if_pos ⟨h0, hl, hb⟩]
  · have hx : exec (.bdgQuotaWrite who c v) s = .next ((s.otherAccess who).writeQuota res c.val v.toNat) := by
      show execBdgQuotaWrite who c v s = _
      rw [execBdgQuotaWrite]
      dsimp only
      rw [hr]
    refine ⟨_, hx, ?_, otherAccess_budgets s who, ?_⟩
    · refine (State.fld_setFld_code _ _ (by decide)).trans ?_
      exact State.fld_setFld_same _ .BDG_QUOTA_QUOTA res.code v.toNat c.val
    · rw [← budgetCap_of_flds (otherAccess_flds s who) (by decide) res]
      exact writeQuota_oversub _ _ _ _
  · show execBdgQuotaWrite who c v s = _
    rw [execBdgQuotaWrite]
    dsimp only
    rw [hr]

end Sys2Proof.Machine
end

section
/-! SUPPORT. O18 refuted: the claim's premise that no fill waits for a way looks at the agent a miss names, and an
upgrade that falls back names its agent anew (R94, R95). -/

namespace Sys2Proof.Machine

/-- Agent 124 holds line 7 modified; its miss for that line names agent 0, is an upgrade and keeps a fill, and a SnpFwdM
comes. -/
def straySnpFwdM : Msg := { ty := .snpFwdM, src := 240, dst := 124, line := 7 }
/-- The state of `straySnpFwdM`. -/
def strayFill : State :=
  State.reset.setCoh { State.reset.coh with
    cache := [(pk 124 7, { st := .m })], miss := [(pk 124 7, { agent := 0, st := .sm, fill := some { line := 7 } })],
    net := [straySnpFwdM] }

set_option maxRecDepth 40000 in
/-- The claim's premises hold in it. -/
theorem strayFill_premises : strayFill.snoopable (124 : Agent) = true ∧ strayFill.cached (124 : Agent) 7 = some { st := .m } ∧
    ComesTo strayFill .snpFwdM (124 : Agent) 7 straySnpFwdM ∧ NoFillWaits strayFill (124 : Agent) := by
  unfold ComesTo Comes NoFillWaits
  decide +kernel

set_option maxRecDepth 40000 in
/-- The miss the snoop turns into a fill names agent 124, so its kept fill is installed and a CompAck follows the two answers. -/
theorem strayFill_sends_three :
    (match exec (.snpfwdm (124 : Agent) 7) strayFill with | .next t => t.coh.net.length | _ => 0) = 3 := by
  decide +kernel

/-- Refutes O18: a miss filed under agent 124 that names another agent is not excluded by `NoFillWaits`, and SnpFwdM makes it
agent 124's. -/
theorem not_holdersAnswerSnoops : ¬ Obligations.HoldersAnswerSnoops := by
  intro h
  obtain ⟨hsn, hc, hcomes, hnf⟩ := strayFill_premises
  obtain ⟨hcached, -⟩ := h 124 7 straySnpFwdM strayFill
  obtain ⟨-, hM, -⟩ := hcached _ hsn hc
  obtain ⟨t, hx, -, hnet⟩ := hM hcomes hnf
  have h3 := strayFill_sends_three
  rw [hx] at h3
  have h2 : t.coh.net.length = 2 := by rw [hnet]; decide +kernel
  exact absurd (h2.symm.trans h3) (by decide)

end Sys2Proof.Machine
end

section
/-! SUPPORT. The coherence state's operations: what sending a message, waking an agent and performing an access in a cache
leave alone (R25, R37, R94). -/

namespace Sys2Proof.Machine

/-- Nothing differs between two states but traffic, the FCLKs that run, and the coherence state. -/
def CohOnly (s t : State) : Prop := t = { s.trafficOf t with coh := t.coh }

theorem CohOnly.refl (s : State) : CohOnly s s := rfl

theorem CohOnly.trans {s t u : State} (h : CohOnly s t) (k : CohOnly t u) : CohOnly s u := by
  unfold CohOnly at *
  rw [k, h]
  rfl

theorem TrafficOnly.cohOnly {s t : State} (h : TrafficOnly s t) : CohOnly s t := by
  unfold TrafficOnly at h
  unfold CohOnly
  rw [h]
  rfl

section
variable {s t : State} (h : CohOnly s t)
include h
theorem CohOnly.regs : t.regs = s.regs := by rw [h]; rfl
theorem CohOnly.mem : t.mem = s.mem := by rw [h]; rfl
theorem CohOnly.execs : t.execs = s.execs := by rw [h]; rfl
theorem CohOnly.fld (f : Fld) (i j : Nat) : t.fld f i j = s.fld f i j := by rw [h]; rfl
end

theorem setCoh_cohOnly (s : State) (c : Coh) : CohOnly s (s.setCoh c) := rfl

theorem askRoute_traffic (s : State) (m : Mover) (cls n p q : Nat) : TrafficOnly s (s.askRoute m cls n p q) :=
  trafficOnly_foldl (fun s res => ask_traffic s m cls n res) _ s

/-- The traffic of a message on its way (R25, R37). -/
theorem send_way (s : State) (m : Msg) : ∃ t : State, TrafficOnly s t ∧ s.send m = t.setCoh { s.coh with net := s.coh.net ++ [m] } := by
  have h := ((startFclk_traffic s (siteOf m.src)).trans (startFclk_traffic _ (siteOf m.dst))).trans
    (oweRoute_traffic _ m.cls (msgBytes m.ty m.flag) (siteOf m.src) (siteOf m.dst))
  refine ⟨_, h, ?_⟩
  unfold State.send
  dsimp only
  rw [h.coh]

theorem send_cohOnly (s : State) (m : Msg) : CohOnly s (s.send m) := by
  obtain ⟨t, ht, he⟩ := send_way s m
  rw [he]
  exact ht.cohOnly.trans (setCoh_cohOnly _ _)

section
variable (s : State) (m : Msg)
@[simp] theorem send_coh : (s.send m).coh = { s.coh with net := s.coh.net ++ [m] } := by
  obtain ⟨t, -, he⟩ := send_way s m
  rw [he]
  rfl
@[simp] theorem send_mem : (s.send m).mem = s.mem := (send_cohOnly s m).mem
@[simp] theorem send_regs : (s.send m).regs = s.regs := (send_cohOnly s m).regs
end

@[simp] theorem askMem_coh (s : State) (cls line : Nat) : (s.askMem cls line).coh = s.coh := (askMem_traffic s cls line).coh
@[simp] theorem askMem_mem (s : State) (cls line : Nat) : (s.askMem cls line).mem = s.mem := (askMem_traffic s cls line).mem

/-! ## Looking up what was written -/

section
variable (s : State) (a line : Nat)
@[simp] theorem cached_setCached (c : CLine) : (s.setCached a line c).cached a line = some { c with agent := a, line := line } :=
  Tbl.find?_insert_same _ _ _
@[simp] theorem missOf_setMiss (q : Miss) : (s.setMiss a line q).missOf a line = some { q with agent := a } :=
  Tbl.find?_insert_same _ _ _
@[simp] theorem wbOf_setWb (w : WbEntry) : (s.setWb a line w).wbOf a line = some w := Tbl.find?_insert_same _ _ _
@[simp] theorem txnOf_setTxn (x : HomeTxn) : (s.setTxn line x).txnOf line = some x := Tbl.find?_insert_same _ _ _
@[simp] theorem txnOf_dropTxn : (s.dropTxn line).txnOf line = none := Tbl.find?_erase_same _ _
@[simp] theorem missOf_dropMiss : (s.dropMiss a line).missOf a line = none := Tbl.find?_erase_same _ _
@[simp] theorem wbOf_dropWb : (s.dropWb a line).wbOf a line = none := Tbl.find?_erase_same _ _
@[simp] theorem reqsAt_setReqs (l : List ReqMsg) : (s.setReqs a l).reqsAt a = l := Tbl.get_set_same s.coh.reqs [] a l
end

/-- A line's directory entry is as it was written, or free when no holder is left (R83). -/
theorem dirOf_setDir (s : State) (line : Nat) (d : Option DirEntry) :
    (s.setDir line d).dirOf line = d.bind (fun e => if e.sharers = 0 then none else some e) := by
  unfold State.setDir
  split
  · split
    · next e h => rw [Option.bind_some, if_pos h]; exact Tbl.find?_erase_same _ _
    · next e h => rw [Option.bind_some, if_neg h]; exact Tbl.find?_insert_same _ _ _
  · exact Tbl.find?_erase_same _ _

theorem setDir_cohOnly (s : State) (line : Nat) (d : Option DirEntry) : CohOnly s (s.setDir line d) := by
  unfold State.setDir
  split
  · split <;> rfl
  · rfl

/-- Writing a directory entry leaves the rest of the coherence state alone. -/
theorem setDir_coh (s : State) (line : Nat) (d : Option DirEntry) :
    (s.setDir line d).coh = { s.coh with dir := (s.setDir line d).coh.dir } := by
  unfold State.setDir
  split
  · split <;> rfl
  · rfl

/-! ## A cache's own accesses -/

/-- Nothing differs between two coherence states but what caches hold, the results handed out and the moment of last use. -/
def CacheOnly (s t : State) : Prop :=
  t.mem = s.mem ∧ t.regs = s.regs ∧ t.coh = { s.coh with cache := t.coh.cache, nc := t.coh.nc, stamp := t.coh.stamp }

theorem CacheOnly.refl (s : State) : CacheOnly s s := ⟨rfl, rfl, rfl⟩

theorem CacheOnly.trans {s t u : State} (h : CacheOnly s t) (k : CacheOnly t u) : CacheOnly s u := by
  obtain ⟨hm, hr, hc⟩ := h
  obtain ⟨km, kr, kc⟩ := k
  refine ⟨km.trans hm, kr.trans hr, ?_⟩
  rw [kc, hc]

theorem storeCached_cacheOnly (s : State) (a line : Nat) (w : LineWrite) : CacheOnly s (s.storeCached a line w) := by
  unfold State.storeCached
  split
  · exact ⟨rfl, rfl, rfl⟩
  · exact CacheOnly.refl s

theorem unsettleCached_cacheOnly (s : State) (m : Mover) (line : Nat) (w : LineWrite) : CacheOnly s (s.unsettleCached m line w) := by
  unfold State.unsettleCached
  dsimp only
  split
  · exact CacheOnly.refl s
  · refine CacheOnly.trans (t := List.foldl _ s _) ?_ ⟨rfl, rfl, rfl⟩
    exact foldl_keeps (CacheOnly s) _ (fun t p ht => ht.trans (storeCached_cacheOnly t _ _ _)) _ (CacheOnly.refl s)

/-- What an agent does with a line it holds stays in its cache (R94, R102). -/
theorem performAgent_cacheOnly (s : State) (a line txn : Nat) (op : AgentOp) : CacheOnly s (s.performAgent a line txn op) := by
  unfold State.performAgent
  split
  · exact CacheOnly.refl s
  · cases op with
    | load => exact CacheOnly.refl s
    | watch => dsimp only; split <;> exact ⟨rfl, rfl, rfl⟩
    | store w => exact (storeCached_cacheOnly s _ _ _).trans (unsettleCached_cacheOnly _ _ _ _)
    | atomic x =>
      dsimp only
      split
      · exact ⟨rfl, rfl, rfl⟩
      · exact ((storeCached_cacheOnly s _ _ _).trans (unsettleCached_cacheOnly _ _ _ _)).trans ⟨rfl, rfl, rfl⟩

theorem touch_cacheOnly (s : State) (a line : Nat) : CacheOnly s (s.touch a line) := by
  unfold State.touch
  split <;> exact ⟨rfl, rfl, rfl⟩

end Sys2Proof.Machine
end

section
/-! SUPPORT. A request on its way into its home's buffer (R25, R36, R85, R86, R94), for O15. -/

namespace Sys2Proof.Machine

/-- Asking for bytes keeps a running FCLK running. -/
theorem ask_running (s : State) (m : Mover) (cls n : Nat) (res : BudgetRes) {r : Nat}
    (h : Tbl.get s.clk.fclkStopped false r = false) : Tbl.get (s.ask m cls n res).clk.fclkStopped false r = false := by
  have hc : (s.ask m cls n res).clk = (s.startFclk (clockOf res)).clk := by
    unfold State.ask
    dsimp only
    split <;> rfl
  rw [hc]
  by_cases hr : r = clockOf res
  · rw [hr]
    exact State.startFclk_runs s _
  · exact (Tbl.get_set_other s.clk.fclkStopped false false false hr).trans h

/-- What a sent request opens at its sender touches neither caches, directories, buffers nor messages (R94). -/
theorem noteSent_frame (s : State) (m : ReqMsg) :
    s.noteSent m = s.setCoh { s.coh with
      miss := (s.noteSent m).coh.miss, wb := (s.noteSent m).coh.wb, ncOpen := (s.noteSent m).coh.ncOpen } := by
  unfold State.noteSent
  cases hm : m.ty
  case putS | putE | putM => dsimp only; split <;> rfl
  all_goals rfl

/-- The state in which a request has left its sender: its bytes ask for their way there (R36). -/
def State.onItsWay (s : State) (r : Nat) (m : ReqMsg) : State :=
  s.askRoute ⟨(s.asSent m).src.val, none⟩ (s.asSent m).cls.val (reqBytes (s.asSent m).ty) (siteOf (s.asSent m).src.val) r

theorem onItsWay_traffic (s : State) (r : Nat) (m : ReqMsg) : TrafficOnly s (s.onItsWay r m) := askRoute_traffic s _ _ _ _ _

theorem onItsWay_running (s : State) (r : Nat) (m : ReqMsg) {q : Nat} (h : Tbl.get s.clk.fclkStopped false q = false) :
    Tbl.get (s.onItsWay r m).clk.fclkStopped false q = false :=
  foldl_keeps (fun t : State => Tbl.get t.clk.fclkStopped false q = false) _ (fun t _ ht => ask_running t _ _ _ _ ht) _ h

/-- What `State.accepts` asks for. -/
theorem accepts_iff {s : State} {r : Nat} {m : ReqMsg} : s.accepts r m = true ↔
    s.reqRefused m = false ∧ s.wayClear r m.src = true ∧ homeOf (reqLine m) = r ∧ s.hits m = false ∧ s.reqLegal m = true ∧
      (s.reqsAt r).length < 4096 := by
  simp only [State.accepts, Bool.and_eq_true, Bool.not_eq_true', beq_iff_eq, decide_eq_true_eq, and_assoc]

/-- A request its home takes in. -/
theorem acceptReq_of_accepts {s : State} {r : Nat} {m : ReqMsg} (h : s.accepts r m = true) :
    s.acceptReq r m =
      (((s.onItsWay r m).noteSent m).setReqs r (s.reqsAt r ++ [s.asSent m])).peak .DIR_TXN_REQ_MAX r (s.reqsAt r ++ [s.asSent m]).length := by
  obtain ⟨href, -, -, hhit, -, -⟩ := accepts_iff.mp h
  have hreqs : (s.onItsWay r m).reqsAt r = s.reqsAt r := congrArg (fun c : Coh => Tbl.get c.reqs [] r) (onItsWay_traffic s r m).coh
  have hlen : (((s.onItsWay r m).noteSent m).setReqs r (s.reqsAt r ++ [s.asSent m])).reqsAt r = s.reqsAt r ++ [s.asSent m] :=
    reqsAt_setReqs _ r _
  rw [State.acceptReq, if_neg (by rw [href]; decide), if_neg (fun k => by rw [hhit] at k; exact absurd k.2 (by decide)),
    if_neg (by rw [h]; decide)]
  dsimp only
  rw [← hreqs] at hlen ⊢
  unfold State.onItsWay at hlen ⊢
  rw [hlen]

/-- What a sent request opens depends on the coherence state alone. -/
theorem noteSent_congr {s t : State} (h : t.coh = s.coh) (m : ReqMsg) : (t.noteSent m).coh = (s.noteSent m).coh := by
  unfold State.noteSent State.setMiss State.cached State.wbOf State.setWb State.setCoh
  rw [h]
  cases m.ty
  case putS | putE | putM => dsimp only; split <;> [rfl; exact h]
  all_goals rfl

/-- What taking a request in does to the coherence state, and what it leaves alone. -/
structure TakesIn (r : Nat) (m : ReqMsg) (s t : State) : Prop where
  coh : t.coh = ((s.noteSent m).setReqs r (s.reqsAt r ++ [s.asSent m])).coh
  mem : t.mem = s.mem
  flds : FldsBut [Fld.DIR_TXN_REQ_MAX.code] s t
  running : ∀ q, Tbl.get s.clk.fclkStopped false q = false → Tbl.get t.clk.fclkStopped false q = false

theorem acceptReq_takesIn {s : State} {r : Nat} {m : ReqMsg} (h : s.accepts r m = true) : TakesIn r m s (s.acceptReq r m) := by
  have ht := onItsWay_traffic s r m
  have hn := noteSent_frame (s.onItsWay r m) m
  have hreqs : (s.noteSent m).coh.reqs = s.coh.reqs := by rw [noteSent_frame s m]; rfl
  rw [acceptReq_of_accepts h]
  refine ⟨?_, ?_, ?_, fun q hq => ?_⟩
  · unfold State.peak
    rw [State.setFld_coh, State.setReqs, State.setReqs, State.setCoh, State.setCoh]
    dsimp only
    rw [noteSent_congr ht.coh]
  · show ((s.onItsWay r m).noteSent m).mem = s.mem
    rw [hn]
    exact ht.mem
  · have hregs : ((s.onItsWay r m).noteSent m).regs = s.regs := by
      rw [hn]
      exact ht.regs
    exact FldsBut.trans (t := ((s.onItsWay r m).noteSent m).setReqs r (s.reqsAt r ++ [s.asSent m])) (FldsBut.of_regs hregs)
      (fldsBut_setFld _ _ _ _ _ List.mem_cons_self)
  · show Tbl.get ((s.onItsWay r m).noteSent m).clk.fclkStopped false q = false
    rw [hn]
    exact onItsWay_running s r m hq

section
variable {r : Nat} {m : ReqMsg} {s t : State} (h : TakesIn r m s t)
include h
theorem TakesIn.reqsAt : t.reqsAt r = s.reqsAt r ++ [s.asSent m] := by
  rw [State.reqsAt, h.coh]
  exact reqsAt_setReqs _ r _
theorem TakesIn.missOf (a line : Nat) : t.missOf a line = (s.noteSent m).missOf a line := by
  rw [State.missOf, h.coh]
  rfl
theorem TakesIn.rest : t.coh.cache = s.coh.cache ∧ t.coh.dir = s.coh.dir ∧ t.coh.net = s.coh.net := by
  rw [h.coh]
  show (s.noteSent m).coh.cache = _ ∧ (s.noteSent m).coh.dir = _ ∧ (s.noteSent m).coh.net = _
  rw [noteSent_frame s m]
  exact ⟨rfl, rfl, rfl⟩
end

/-- The miss a Get opens (R94). -/
theorem missOf_noteSent (s : State) (m : ReqMsg) :
    (m.ty = .getS ∨ m.ty = .getSW → ((s.noteSent m).missOf m.src.val (reqLine m)).map (·.st) = some .is) ∧
    (m.ty = .getM → ((s.noteSent m).missOf m.src.val (reqLine m)).map (·.st) =
      some (if (s.cached m.src.val (reqLine m)).isSome then .sm else .im)) := by
  unfold State.noteSent
  refine ⟨fun h => ?_, fun h => ?_⟩
  · rcases h with h | h <;> rw [h] <;> dsimp only <;> rw [missOf_setMiss] <;> rfl
  · rw [h]
    dsimp only
    rw [missOf_setMiss]
    rfl

/-! ## HOME_REQUEST_ARRIVAL -/

/-- One request that arrives alone (R25, R86). -/
theorem homeRequestArrival_one (r : Region) (m : ReqMsg) (s : State) :
    exec (.homeRequestArrival r [m]) s = .next ((s.startFclk r).acceptReq r m) := by
  show execHomeRequestArrival r [m] s = _
  unfold execHomeRequestArrival
  simp only [prioOrder, List.foldl_cons, List.foldl_nil, insertByPrio]
  split
  · next a b l he =>
    split at he <;> simp at he
  · rfl

/-- Two requests that arrive in one cycle, the second of the list nearer to the pointer (R86). -/
theorem homeRequestArrival_two {r : Region} {m n : ReqMsg} {s : State}
    (hp : prioDist (s.fld .DIR_PRIO_P r) m.src.val < prioDist (s.fld .DIR_PRIO_P r) n.src.val)
    (hm : (s.startFclk r).accepts r m = true) (hn : ((s.startFclk r).acceptReq r m).accepts r n = true) :
    exec (.homeRequestArrival r [n, m]) s =
      .next ((((s.startFclk r).acceptReq r m).acceptReq r n).setFld .DIR_PRIO_P r ((m.src.val + 1) % 256)) := by
  show execHomeRequestArrival r [n, m] s = _
  unfold execHomeRequestArrival
  have hord : prioOrder (s.fld .DIR_PRIO_P r) [n, m] = [m, n] := if_pos hp
  dsimp only
  rw [hord]
  simp only [List.foldl_cons, List.foldl_nil, if_pos hm, if_pos hn, List.nil_append, List.cons_append]

/-- A request that is refused is the same whatever registers but FMC_STAT hold (R51, R56). -/
theorem reqRefused_of_flds {s t : State} {cs : List Nat} (h : FldsBut cs s t) (hp : Fld.FMC_STAT_POP.code ∉ cs)
    (hc : Fld.FMC_STAT_CAP.code ∉ cs) (m : ReqMsg) : t.reqRefused m = s.reqRefused m := by
  unfold State.reqRefused
  rw [State.place_of_flds h hp hc]

/-- Another requester's open request changes neither a requester's free transaction numbers nor its open requests (R90, R92). -/
theorem txnFree_opened {s t : State} {o : NcOpen} {l : Tbl (List ReqMsg)}
    (h : t.coh = { s.coh with ncOpen := s.coh.ncOpen ++ [o], reqs := l }) {a : Nat} (ho : (o.req == a) = false) (txn line : Nat) :
    t.txnFree a txn = s.txnFree a txn ∧ t.ncOpenFor a line = s.ncOpenFor a line ∧ t.missCount a = s.missCount a := by
  refine ⟨?_, ?_, ?_⟩
  · simp [State.txnFree, h, bne, ho]
  · simp [State.ncOpenFor, h, ho]
  · simp [State.missCount, h, ho]

/-- A read that another requester's read came before is still accepted (R86, R90, R92). -/
theorem accepts_after_rdNC {r : Nat} {m n : ReqMsg} {s t : State} (h : TakesIn r m s t) (hm : m.ty = .rdNC) (hn : n.ty = .rdNC)
    (hne : m.src ≠ n.src) (hlen : (s.reqsAt r).length + 2 ≤ 4096) (ha : s.accepts r n = true) : t.accepts r n = true := by
  obtain ⟨href, hway, hhome, -, hlegal, -⟩ := accepts_iff.mp ha
  have hcoh : t.coh = { s.coh with
      ncOpen := s.coh.ncOpen ++ [⟨m.src.val, m.txn.val, reqLine m⟩], reqs := t.coh.reqs } := by
    rw [h.coh, State.noteSent, hm]
    rfl
  obtain ⟨hfree, hopen, hcount⟩ := txnFree_opened hcoh (a := n.src.val) (beq_false_of_ne (fun e => hne (Fin.ext e))) n.txn.val (reqLine n)
  refine accepts_iff.mpr ⟨(reqRefused_of_flds h.flds (by decide) (by decide) n).trans href, ?_, hhome, ?_, ?_, ?_⟩
  · rw [← hway, State.wayClear, State.wayClear, hcoh]
  · simp [State.hits, hn]
  · unfold State.reqLegal at hlegal ⊢
    dsimp only at hlegal ⊢
    rw [hfree, hopen, hcount, State.missOf, State.wbOf, hcoh, hn]
    rw [hn] at hlegal
    exact hlegal
  · rw [h.reqsAt, List.length_append, List.length_singleton]
    omega

/-- An access in a cache on the way of its request leaves messages, directories, buffers and memory alone (R94). -/
theorem acceptReq_hit {s : State} {r : Nat} {m : ReqMsg} (href : s.reqRefused m = false) (hhome : homeOf (reqLine m) = r)
    (hhit : s.hits m = true) :
    (s.acceptReq r m).coh.reqs = s.coh.reqs ∧ (s.acceptReq r m).coh.net = s.coh.net ∧ (s.acceptReq r m).coh.dir = s.coh.dir ∧
      (s.acceptReq r m).mem = s.mem := by
  rw [State.acceptReq, if_neg (by rw [href]; decide), if_pos ⟨hhome, hhit⟩]
  have hr := rouse_wakesOnly s m.src
  obtain ⟨hm, -, hc⟩ := (touch_cacheOnly (s.rouse m.src) m.src (reqLine m)).trans
    (performAgent_cacheOnly _ m.src (reqLine m) m.txn m.act)
  rw [hc, hr.coh, hm, hr.mem]
  exact ⟨rfl, rfl, rfl, rfl⟩

/-- A read goes to its home as it was sent. -/
theorem asSent_rdNC (s : State) {m : ReqMsg} (h : m.ty = .rdNC) : s.asSent m = m := by
  unfold State.asSent
  rw [h]

/-- Settles O15: one arriving request is one `State.acceptReq`, and a second one finds what the first left. -/
theorem requestsReachTheirHome : Obligations.RequestsReachTheirHome := by
  refine ⟨fun r m s href hhome hhit hlegal hway hlen => ?_, fun r m s href hhome hhit => ?_, fun r m s href => ?_,
    fun r m n s hm hn hrm hrn hhm hhn hlm hln hwm hwn hlen hp => ?_⟩
  · have ha : (s.startFclk r).accepts r m = true := accepts_iff.mpr ⟨href, hway, hhome, hhit, hlegal, hlen⟩
    have ht := acceptReq_takesIn ha
    obtain ⟨hcache, hdir, hnet⟩ := ht.rest
    obtain ⟨hgetS, hgetM⟩ := missOf_noteSent (s.startFclk r) m
    exact ⟨_, homeRequestArrival_one r m s, ht.reqsAt, ht.mem, hcache, hdir, hnet, ht.running r (State.startFclk_runs s r),
      fun h => by rw [ht.missOf]; exact hgetS h, fun h => by rw [ht.missOf]; exact hgetM h⟩
  · exact ⟨_, homeRequestArrival_one r m s, acceptReq_hit (s := s.startFclk r) href hhome hhit⟩
  · rw [homeRequestArrival_one, State.acceptReq, if_pos (show (s.startFclk r).reqRefused m = true from href)]
  · have hne : m.src ≠ n.src := fun e => by rw [e] at hp; exact Nat.lt_irrefl _ hp
    have hhit : ∀ x : ReqMsg, x.ty = .rdNC → s.hits x = false := fun x hx => by simp [State.hits, hx]
    have ham : (s.startFclk r).accepts r m = true :=
      accepts_iff.mpr ⟨hrm, hwm, hhm, hhit m hm, hlm, (by omega : (s.reqsAt r).length < 4096)⟩
    have htm := acceptReq_takesIn ham
    have han := accepts_after_rdNC htm hm hn hne hlen
      (accepts_iff.mpr ⟨hrn, hwn, hhn, hhit n hn, hln, (by omega : (s.reqsAt r).length < 4096)⟩)
    refine ⟨_, homeRequestArrival_two hp ham han, ?_, ?_⟩
    · show (State.acceptReq _ _ _).reqsAt r = _
      rw [(acceptReq_takesIn han).reqsAt, htm.reqsAt, asSent_rdNC _ hm, asSent_rdNC _ hn, List.append_assoc]
      rfl
    · exact (State.fld_setFld_same _ .DIR_PRIO_P r _ 0).trans (Nat.mod_eq_of_lt (Nat.mod_lt _ (by decide)))

end Sys2Proof.Machine
end

section
/-! SUPPORT. What a home does with a request for a line no agent holds (R85, R87, R93, R97, R99, R104), and the proof of O16. -/

namespace Sys2Proof.Machine

/-- The request a home acts on is of the type it was asked for, and waits there. -/
theorem actable_ty {s : State} {r : Nat} {ty : ReqTy} {src txn : Nat} {m : ReqMsg} (h : s.actable r ty src txn = some m) :
    m.ty = ty := by
  unfold State.actable at h
  split at h
  · cases h
  · next o hf =>
    have ho := List.find?_some hf
    simp only [Bool.and_eq_true, decide_eq_true_eq] at ho
    split at h
    · cases h
    · split at h
      · obtain rfl := Option.some.inj h
        exact ho.1.1
      · cases h

/-- The state in which a home has taken a request out of its buffer. -/
def State.taken (s : State) (r : Nat) (m : ReqMsg) : State := s.setReqs r ((s.reqsAt r).erase m)

theorem reqsAt_taken (s : State) (r : Nat) (m : ReqMsg) : (s.taken r m).reqsAt r = (s.reqsAt r).erase m := reqsAt_setReqs s r _

/-- A line stored plain is not decoded (R424). -/
theorem noteCoded_plain {s : State} {line : Nat} (h : s.mem.codedAt (line / 64) = none) (cls : Nat) : s.noteCoded cls line = s := by
  unfold State.noteCoded
  dsimp only
  rw [h, ite_self]

/-- A home acts at once on a request for a line without an entry, where its set has a free way (R84). -/
theorem homeAct_uncached {s : State} {r : Nat} {m : ReqMsg} (hw : (s.dirWays (reqLine m)).length < 16)
    (hc : s.mem.codedAt (reqLine m / 64) = none) : s.homeAct r m = (s.taken r m).actStart r m := by
  have hcode : (s.taken r m).noteCoded m.cls (reqLine m) = s.taken r m :=
    noteCoded_plain (s := s.taken r m) hc _
  unfold State.homeAct
  dsimp only
  rw [decide_eq_false (by omega : ¬ 16 ≤ (s.dirWays (reqLine m)).length), Bool.and_false]
  rw [if_neg Bool.false_ne_true]
  change (if m.ty = .wrNC then s.taken r m else (s.taken r m).noteCoded m.cls (reqLine m)).actStart r m = _
  rw [hcode, ite_self]

/-- The message that carries the memory copy of a request's line (R97, R112). -/
def memCopyMsg (s : State) (r : Nat) (m : ReqMsg) (ty : MsgTy) (flag : Bool) : Msg :=
  { homeMsg r m ty m.src.val with flag := flag, data := s.mem.line (reqLine m), poison := anyPoison (s.mem.poison (reqLine m)) }

/-- Sending the memory copy leaves all but traffic and flight alone. -/
theorem sendMem_cohOnly (s : State) (r : Nat) (m : ReqMsg) (ty : MsgTy) (flag : Bool) : CohOnly s (s.sendMem r m ty flag) :=
  (askMem_traffic s m.cls.val (reqLine m)).cohOnly.trans (send_cohOnly _ _)

@[simp] theorem sendMem_coh (s : State) (r : Nat) (m : ReqMsg) (ty : MsgTy) (flag : Bool) :
    (s.sendMem r m ty flag).coh = { s.coh with net := s.coh.net ++ [memCopyMsg s r m ty flag] } := by
  unfold State.sendMem
  rw [send_coh, askMem_coh]
  rfl

/-- The transaction that opens with the grant of an uncached line: it awaits CompAck and ends with the requester as the only
holder (R83, R97). -/
def State.granted (s : State) (r : Nat) (m : ReqMsg) (ty : MsgTy) (flag excl : Bool) : State :=
  let u := s.stampNext
  ((u.sendMem r m ty flag).allocDir (reqLine m) u.coh.stamp).setTxn (reqLine m)
    { req := m, start := none, began := s.fclk r, needComp := true, final := some ⟨excl, oneHot m.src.val, u.coh.stamp⟩ }

theorem granted_cohOnly (s : State) (r : Nat) (m : ReqMsg) (ty : MsgTy) (flag excl : Bool) : CohOnly s (s.granted r m ty flag excl) :=
  (CohOnly.trans (t := s.stampNext) rfl (sendMem_cohOnly s.stampNext r m ty flag)).trans rfl

/-- The grant of an uncached line: its message, its transaction and its directory entry. -/
theorem granted_facts (s : State) (r : Nat) (m : ReqMsg) (ty : MsgTy) (flag excl : Bool) :
    (s.granted r m ty flag excl).coh.net = s.coh.net ++ [memCopyMsg s r m ty flag] ∧
    (s.granted r m ty flag excl).reqsAt r = s.reqsAt r ∧
    ((s.granted r m ty flag excl).txnOf (reqLine m)).map (fun x => (x.req, x.needComp, x.waits, x.final.map (fun e => (e.excl, e.sharers)))) =
      some (m, true, [], some (excl, oneHot m.src.val)) ∧
    ((s.granted r m ty flag excl).dirOf (reqLine m)).map (·.sharers) = some 0 := by
  have hcoh := sendMem_coh s.stampNext r m ty flag
  refine ⟨?_, ?_, ?_, ?_⟩
  · show (s.stampNext.sendMem r m ty flag).coh.net = _
    rw [hcoh]
    rfl
  · show Tbl.get (s.stampNext.sendMem r m ty flag).coh.reqs [] r = _
    rw [hcoh]
    rfl
  · rw [State.granted, txnOf_setTxn]
    rfl
  · show (Tbl.find? (Tbl.insert _ _ _) _).map _ = _
    rw [Tbl.find?_insert_same]
    rfl

/-- What a home starts for a request to a line without an entry (R97). -/
theorem actStart_uncached {s : State} {r : Nat} {m : ReqMsg} (hd : s.dirOf (reqLine m) = none) :
    (m.ty = .getS → s.actStart r m = s.granted r m .dataE false true) ∧
    (m.ty = .getSW → s.actStart r m = s.granted r m .dataS false false) ∧
    (m.ty = .getM → s.actStart r m = s.granted r m .gntE true true) ∧
    (m.ty = .rdNC → s.actStart r m = s.stampNext.sendMem r m .rdData false) ∧
    (m.ty = .wrNC ∨ m.ty = .atomNC → s.actStart r m = s.stampNext.performNc r m) := by
  unfold State.actStart
  dsimp only
  rw [hd]
  refine ⟨fun h => ?_, fun h => ?_, fun h => ?_, fun h => ?_, fun h => ?_⟩
  · rw [h]; rfl
  · rw [h]; rfl
  · rw [h]; rfl
  · rw [h]
  · rcases h with h | h <;> rw [h]

theorem memWrite_coh (s : State) (line : Nat) (w : LineWrite) : (s.memWrite line w).coh = s.coh := by
  unfold State.memWrite State.farForget
  dsimp only
  split <;> split <;> rfl

/-- A write by mask to the memory copy, where nothing in flight adds to its bytes (R99, R177). -/
theorem memWrite_calm {s t : State} (ht : TrafficOnly s t) {m : Mover} {line : Nat} {w : LineWrite}
    (hu : s.updating m (writeRanges w line) = []) :
    ((t.memWrite line w).unsettle m (writeRanges w line)).mem = s.mem.writeLine line w ∧
      ((t.memWrite line w).unsettle m (writeRanges w line)).coh = s.coh := by
  have hcalm : (t.memWrite line w).updating m (writeRanges w line) = [] := by
    rw [updating_of_execs ((memWrite_execs t line w).trans ht.execs)]
    exact hu
  rw [unsettle_calm hcalm, memWrite_mem, memWrite_coh, ht.mem, ht.coh]
  exact ⟨rfl, rfl⟩

/-- A home performs a non-caching write (R97, R99). -/
theorem performNc_store {s : State} {r : Nat} {m : ReqMsg} {w : LineWrite} (ha : m.act = .store w)
    (hu : s.updating ⟨m.src.val, none⟩ (writeRanges w (reqLine m)) = []) :
    (s.performNc r m).mem = s.mem.writeLine (reqLine m) w ∧
      (s.performNc r m).coh = { s.coh with net := s.coh.net ++ [homeMsg r m .ncDone m.src.val] } := by
  obtain ⟨hm, hc⟩ := memWrite_calm (askMem_traffic s m.cls.val (reqLine m)) hu
  unfold State.performNc
  dsimp only
  rw [ha]
  dsimp only
  rw [send_mem, send_coh, hm, hc]
  exact ⟨rfl, rfl⟩

/-- A home performs a non-caching atomic, or answers UNCORRECTABLE for one that meets poison (R104, R626). -/
theorem performNc_atomic {s : State} {r : Nat} {m : ReqMsg} {x : Atom} (ha : m.act = .atomic x)
    (hu : s.updating ⟨m.src.val, none⟩ (writeRanges (atomWrite fadd32 x (s.mem.line (reqLine m))) (reqLine m)) = []) :
    (atomPoison x (s.mem.poison (reqLine m)) = true → (s.performNc r m).mem = s.mem ∧
      (s.performNc r m).coh = { s.coh with net := s.coh.net ++ [{ homeMsg r m .ncDone m.src.val with status := 0xC0 }] }) ∧
    (¬ atomPoison x (s.mem.poison (reqLine m)) = true →
      (s.performNc r m).mem = s.mem.writeLine (reqLine m) (atomWrite fadd32 x (s.mem.line (reqLine m))) ∧
      (s.performNc r m).coh = { s.coh with net := s.coh.net ++ [{ homeMsg r m .ncDone m.src.val with
        flag := true, old := BitVec.ofNat 64 (atomOld x (s.mem.line (reqLine m))) }] }) := by
  obtain ⟨hm, hc⟩ := memWrite_calm (askMem_traffic s m.cls.val (reqLine m)) hu
  unfold State.performNc
  dsimp only
  rw [ha]
  dsimp only
  rw [askMem_mem]
  refine ⟨fun hp => ?_, fun hp => ?_⟩
  · rw [if_pos hp, send_mem, send_coh, askMem_mem, askMem_coh]
    exact ⟨rfl, rfl⟩
  · rw [if_neg hp, send_mem, send_coh, hm, hc]
    exact ⟨rfl, rfl⟩

/-- A grant of an uncached line by its home, from the request's place in the buffer to the open transaction. -/
theorem granted_taken (s : State) (r : Nat) (m : ReqMsg) (ty : MsgTy) (flag excl : Bool) (t : State)
    (ht : t = (s.taken r m).granted r m ty flag excl) :
    t.coh.net = s.coh.net ++ [memCopyMsg s r m ty flag] ∧
      (t.txnOf (reqLine m)).map (fun x => (x.req, x.needComp, x.waits, x.final.map (fun e => (e.excl, e.sharers)))) =
        some (m, true, [], some (excl, oneHot m.src.val)) ∧
      (t.dirOf (reqLine m)).map (·.sharers) = some 0 ∧ t.reqsAt r = (s.reqsAt r).erase m ∧ t.mem = s.mem ∧ t.regs = s.regs := by
  obtain ⟨hnet, hreqs, htxn, hdir⟩ := granted_facts (s.taken r m) r m ty flag excl
  have ho := granted_cohOnly (s.taken r m) r m ty flag excl
  subst ht
  exact ⟨hnet, htxn, hdir, hreqs.trans (reqsAt_taken s r m), ho.mem, ho.regs⟩

/-- Settles O16: on an uncached line the home grants at once, sends the memory copy, or performs the access in memory. -/
theorem homeServesAnUncachedLine : Obligations.HomeServesAnUncachedLine := by
  intro r src txn m s hd hways hcode
  have hact := homeAct_uncached (r := r) hways hcode
  obtain ⟨hS, hSW, hM, hRd, hNc⟩ := actStart_uncached (s := s.taken r m) (r := r) (m := m) hd
  refine ⟨fun h => ?_, fun h => ?_, fun h => ?_, fun h => ?_, fun w h ha hu => ?_, fun x h ha hu => ?_⟩
  · have hx : exec (.gets r src txn) s = .next (s.homeAct r m) := by
      show execGets r src txn s = _
      rw [execGets, h]
    exact ⟨_, hx, granted_taken s r m .dataE false true _ (hact.trans (hS (actable_ty h)))⟩
  · have hx : exec (.getsw r src txn) s = .next (s.homeAct r m) := by
      show execGetsw r src txn s = _
      rw [execGetsw, h]
    exact ⟨_, hx, granted_taken s r m .dataS false false _ (hact.trans (hSW (actable_ty h)))⟩
  · have hx : exec (.getm r src txn) s = .next (s.homeAct r m) := by
      show execGetm r src txn s = _
      rw [execGetm, h]
    exact ⟨_, hx, granted_taken s r m .gntE true true _ (hact.trans (hM (actable_ty h)))⟩
  · have hx : exec (.rdnc r src txn) s = .next ((s.taken r m).stampNext.sendMem r m .rdData false) := by
      show execRdnc r src txn s = _
      rw [execRdnc, h]
      exact congrArg _ (hact.trans (hRd (actable_ty h)))
    have ho := sendMem_cohOnly (s.taken r m).stampNext r m .rdData false
    refine ⟨_, hx, ?_, ?_, ?_, ?_, ho.mem, ho.regs⟩
    · rw [sendMem_coh]; rfl
    · rw [State.reqsAt, sendMem_coh]; exact reqsAt_taken s r m
    · rw [sendMem_coh]; rfl
    · rw [sendMem_coh]; rfl
  · have hx : exec (.wrnc r src txn) s = .next ((s.taken r m).stampNext.performNc r m) := by
      show execWrnc r src txn s = _
      rw [execWrnc, h]
      exact congrArg _ (hact.trans (hNc (Or.inl (actable_ty h))))
    obtain ⟨hmem, hcoh⟩ := performNc_store (s := (s.taken r m).stampNext) (r := r) ha hu
    refine ⟨_, hx, hmem, ?_, ?_, ?_⟩
    · rw [hcoh]; rfl
    · rw [hcoh]; rfl
    · rw [State.reqsAt, hcoh]; exact reqsAt_taken s r m
  · have hx : exec (.atomnc r src txn) s = .next ((s.taken r m).stampNext.performNc r m) := by
      show execAtomnc r src txn s = _
      rw [execAtomnc, h]
      exact congrArg _ (hact.trans (hNc (Or.inr (actable_ty h))))
    obtain ⟨hpoison, hplain⟩ := performNc_atomic (s := (s.taken r m).stampNext) (r := r) ha hu
    by_cases hp : atomPoison x (s.mem.poison (reqLine m)) = true
    · obtain ⟨hmem, hcoh⟩ := hpoison hp
      refine ⟨_, hx, ?_, ?_, ?_⟩
      · rw [State.reqsAt, hcoh]; exact reqsAt_taken s r m
      · rw [hcoh]; rfl
      · rw [if_pos hp, hcoh]; exact ⟨hmem, rfl⟩
    · obtain ⟨hmem, hcoh⟩ := hplain hp
      refine ⟨_, hx, ?_, ?_, ?_⟩
      · rw [State.reqsAt, hcoh]; exact reqsAt_taken s r m
      · rw [hcoh]; rfl
      · rw [if_neg hp, hcoh]; exact ⟨hmem, rfl⟩

end Sys2Proof.Machine
end

section
/-! SUPPORT. How a home judges a Put (R97, R98, R112), and the proof of O17. -/

namespace Sys2Proof.Machine

theorem writeBack_mem (s : State) (cls line : Nat) (d : Line) (p : Bool) :
    (s.writeBack cls line d p).mem = s.mem.writeLine line ⟨fullMask, d, p⟩ := by
  rw [State.writeBack, memWrite_mem, askMem_mem]

theorem writeBack_coh (s : State) (cls line : Nat) (d : Line) (p : Bool) : (s.writeBack cls line d p).coh = s.coh := by
  rw [State.writeBack, memWrite_coh, askMem_coh]

/-- An agent is taken out of the sharer vector of a line (R98). -/
def State.unshared (s : State) (line a : Nat) : State :=
  match s.dirOf line with
  | some e => s.setDir line (some { e with sharers := e.sharers &&& ~~~ (oneHot a) })
  | none => s

theorem unshared_cohOnly (s : State) (line a : Nat) : CohOnly s (s.unshared line a) := by
  unfold State.unshared
  split
  · exact setDir_cohOnly _ _ _
  · exact CohOnly.refl s

theorem unshared_coh (s : State) (line a : Nat) : (s.unshared line a).coh = { s.coh with dir := (s.unshared line a).coh.dir } := by
  unfold State.unshared
  split
  · exact setDir_coh _ _ _
  · rfl

/-- The entry that is left, or none when no holder is (R83, R98). -/
theorem dirOf_unshared (s : State) (line a : Nat) : (s.unshared line a).dirOf line = (s.dirOf line).bind (fun e =>
    if e.sharers &&& ~~~ (oneHot a) = 0 then none else some { e with sharers := e.sharers &&& ~~~ (oneHot a) }) := by
  unfold State.unshared
  split
  · next e he => rw [dirOf_setDir, he]; rfl
  · next he => rw [he]; rfl

/-- Whether the sender of a Put is a current holder of its line, as the owner or as a sharer (R98). -/
def State.putHolds (s : State) (m : ReqMsg) (excl : Bool) : Bool :=
  (s.dirOf (reqLine m)).any (fun e => e.excl == excl && e.sharers.getLsbD m.src.val)

/-- A Put's answer once its data, if any, has been written. -/
def State.putAnswered (s : State) (r : Nat) (m : ReqMsg) (ok : Bool) : State :=
  let u := s.unshared (reqLine m) m.src.val
  if ok then u.send (homeMsg r m .putAck m.src.val)
  else (u.bump .DIR_STALE_CNT_COUNT r).send (homeMsg r m .putAckStale m.src.val)

/-- The retirement of a Put and its answer (R97, R98), whatever was written before. -/
theorem putAnswered_facts {s u : State} (r : Nat) (m : ReqMsg) (ok : Bool) (hc : u.coh = (s.taken r m).coh) (hf : FldsBut writeFlds s u) :
    ((u.putAnswered r m ok).reqsAt r = (s.reqsAt r).erase m ∧
      (u.putAnswered r m ok).dirOf (reqLine m) = (s.dirOf (reqLine m)).bind (fun e =>
        if e.sharers &&& ~~~ (oneHot m.src.val) = 0 then none else some { e with sharers := e.sharers &&& ~~~ (oneHot m.src.val) })) ∧
    ((u.putAnswered r m ok).coh.net = s.coh.net ++ [homeMsg r m (if ok then .putAck else .putAckStale) m.src.val] ∧
      (u.putAnswered r m ok).fld .DIR_STALE_CNT_COUNT r = if ok then s.fld .DIR_STALE_CNT_COUNT r
        else (s.fld .DIR_STALE_CNT_COUNT r + 1) % 2 ^ Fld.DIR_STALE_CNT_COUNT.width) ∧
    (u.putAnswered r m ok).mem = u.mem := by
  have ho := unshared_cohOnly u (reqLine m) m.src.val
  have hcoh := unshared_coh u (reqLine m) m.src.val
  have hdir : u.dirOf (reqLine m) = s.dirOf (reqLine m) := by rw [State.dirOf, hc]; rfl
  have hgone := dirOf_unshared u (reqLine m) m.src.val
  have hreqs : (u.unshared (reqLine m) m.src.val).reqsAt r = (s.reqsAt r).erase m := by
    rw [State.reqsAt, hcoh, hc]
    exact reqsAt_taken s r m
  have hnet : (u.unshared (reqLine m) m.src.val).coh.net = s.coh.net := by
    rw [hcoh, hc]
    rfl
  have hcount : (u.unshared (reqLine m) m.src.val).fld .DIR_STALE_CNT_COUNT r = s.fld .DIR_STALE_CNT_COUNT r :=
    (ho.fld _ _ _).trans (hf _ _ _ (by decide))
  rw [hdir] at hgone
  cases ok with
  | true =>
    unfold State.putAnswered
    dsimp only
    rw [if_pos rfl]
    refine ⟨⟨?_, ?_⟩, ⟨?_, ?_⟩, (send_mem _ _).trans ho.mem⟩
    · rw [State.reqsAt, send_coh]; exact hreqs
    · rw [State.dirOf, send_coh]; exact hgone
    · rw [send_coh, hnet]; rfl
    · exact ((send_cohOnly _ _).fld _ _ _).trans hcount
  | false =>
    unfold State.putAnswered
    dsimp only
    rw [if_neg Bool.false_ne_true]
    refine ⟨⟨?_, ?_⟩, ⟨?_, ?_⟩, (send_mem _ _).trans ho.mem⟩
    · rw [State.reqsAt, send_coh]; exact hreqs
    · rw [State.dirOf, send_coh]; exact hgone
    · rw [send_coh, State.bump, State.setFld_coh, hnet]; rfl
    · rw [(send_cohOnly _ _).fld, State.bump, State.fld_setFld_same, hcount]
      rfl

/-- How a home judges a Put (R97, R98): whether its sender holds the line as the owner or as a sharer decides, and a current PutM's
data is written first. -/
theorem judgePut_eq {s u : State} (r : Nat) {m : ReqMsg} {excl : Bool} (h : m.ty = .putS ↔ excl = false)
    (hclean : (s.putHolds m excl = true → m.ty = .putM → ∀ w, m.act ≠ .store w) → u = s.taken r m)
    (hdirty : s.putHolds m excl = true → m.ty = .putM → ∀ w, m.act = .store w →
      u = (s.taken r m).writeBack m.cls.val (reqLine m) w.data w.poison) :
    s.judgePut r m = u.putAnswered r m (s.putHolds m excl) := by
  unfold State.judgePut
  extract_lets a v current x y
  have hcur : current = s.putHolds m excl := by
    unfold current State.putHolds
    change (match s.dirOf (reqLine m) with
      | none => false
      | some e => _) = _
    cases s.dirOf (reqLine m) with
    | none => rfl
    | some e =>
      dsimp only [Option.any_some]
      split
      · next hty => rw [h.mp hty, beq_false]
      · next hty => rw [Bool.eq_true_of_not_eq_false (fun he => hty (h.mpr he)), beq_true]
  have hx : x = u := by
    unfold x
    split
    · next w hc hty ha => exact (hdirty (hcur ▸ hc) hty w ha).symm
    · next hno =>
      exact (hclean (fun hc hty w ha => hno w (hcur.trans hc) hty ha)).symm
  unfold y
  rw [hx, hcur]
  rfl

/-- What a home does with a Put that carries no data (R97, R98). -/
theorem judgePut_clean {s : State} (r : Nat) {m : ReqMsg} {excl : Bool} (h : m.ty = if excl then .putE else .putS) :
    s.judgePut r m = (s.taken r m).putAnswered r m (s.putHolds m excl) := by
  have hM : m.ty ≠ .putM := by cases excl <;> simp [h]
  exact judgePut_eq r (by cases excl <;> simp [h]) (fun _ => rfl) (fun _ hty => absurd hty hM)

/-- What a home does with a PutM: the owner's data is written to memory whole (R97, R98). -/
theorem judgePut_dirty {s : State} (r : Nat) {m : ReqMsg} {w : LineWrite} (h : m.ty = .putM) (ha : m.act = .store w) :
    s.judgePut r m = (if s.putHolds m true then (s.taken r m).writeBack m.cls.val (reqLine m) w.data w.poison else s.taken r m).putAnswered
      r m (s.putHolds m true) := by
  refine judgePut_eq r (by simp [h]) (fun hno => if_neg (fun hh => hno hh h w ha)) (fun hh _ v hv => ?_)
  obtain rfl := AgentOp.store.inj (ha.symm.trans hv)
  exact if_pos hh

/-- What a PutM's data changes before its answer: the memory copy, when its sender owns the line (R97, R112). -/
theorem putWritten_facts (s : State) (r : Nat) (m : ReqMsg) (owns : Bool) (w : LineWrite) :
    (if owns then (s.taken r m).writeBack m.cls.val (reqLine m) w.data w.poison else s.taken r m).coh = (s.taken r m).coh ∧
    FldsBut writeFlds s (if owns then (s.taken r m).writeBack m.cls.val (reqLine m) w.data w.poison else s.taken r m) ∧
    (if owns then (s.taken r m).writeBack m.cls.val (reqLine m) w.data w.poison else s.taken r m).mem =
      if owns then s.mem.writeLine (reqLine m) ⟨fullMask, w.data, w.poison⟩ else s.mem := by
  have hf : FldsBut writeFlds s (s.taken r m) := FldsBut.of_regs rfl
  cases owns with
  | true => exact ⟨writeBack_coh _ _ _ _ _, hf.trans (writeBack_flds _ _ _ _ _), writeBack_mem _ _ _ _ _⟩
  | false => exact ⟨rfl, hf, rfl⟩

/-- Settles O17: the three Puts differ in who counts as a current holder, and in PutM's data. -/
theorem homeJudgesPuts : Obligations.HomeJudgesPuts := by
  intro r src txn m s
  have hclean : ∀ excl : Bool, m.ty = (if excl then .putE else .putS) → _ := fun excl h =>
    And.intro (judgePut_clean (s := s) r h)
      (putAnswered_facts r m (s.putHolds m excl) (s := s) (u := s.taken r m) rfl (FldsBut.of_regs rfl))
  refine ⟨fun h => ?_, fun h => ?_, fun w ha h => ?_⟩
  · obtain ⟨hj, hret, hans, hmem⟩ := hclean false (actable_ty h)
    refine ⟨_, ?_, hmem, hret, hans⟩
    rw [← hj]
    show execPuts r src txn s = _
    rw [execPuts, h]
  · obtain ⟨hj, hret, hans, hmem⟩ := hclean true (actable_ty h)
    refine ⟨_, ?_, hmem, hret, hans⟩
    rw [← hj]
    show execPute r src txn s = _
    rw [execPute, h]
  · have hx : exec (.putm r src txn) s = .next (s.judgePut r m) := by
      show execPutm r src txn s = _
      rw [execPutm, h]
    rw [judgePut_dirty r (actable_ty h) ha] at hx
    obtain ⟨hc, hf, hw⟩ := putWritten_facts s r m (s.putHolds m true) w
    obtain ⟨hret, hans, hmem⟩ := putAnswered_facts r m (s.putHolds m true) hc hf
    exact ⟨_, hx, hret, hans, hmem.trans hw⟩

end Sys2Proof.Machine
end

section
/-! SUPPORT. A message delivered, the steps of a transaction at its home (R15, R85, R88, R97, R99, R113), and the proof of O19. -/

namespace Sys2Proof.Machine

/-- The message that comes is the one delivered (R15). -/
theorem deliver_comes {s : State} {want : Msg → Bool} {m : Msg} (h : Comes s want m) : s.deliver want = some (m, s.without m) := by
  obtain ⟨hf, ho⟩ := h
  unfold State.deliver
  rw [hf]
  exact if_pos ho

theorem recv_comes {s : State} {ty : MsgTy} {dst line : Nat} {m : Msg} (h : ComesTo s ty dst line m) :
    s.recv ty dst line = some (m, s.without m) := deliver_comes h

theorem recvFrom_comes {s : State} {ty : MsgTy} {src dst line : Nat} {m : Msg} (h : ComesFrom s ty src dst line m) :
    s.recvFrom ty src dst line = some (m, s.without m) := deliver_comes h

section
variable {s : State} {line : Nat} {x : HomeTxn} (h : s.txnOf line = some x)
include h

theorem txnLineFor_own : s.txnLineFor line = some line := by
  unfold State.txnLineFor
  rw [if_pos (by rw [h]; rfl)]

theorem awaits_own (a : Nat) : s.awaits a line = x.waits.contains a := by
  unfold State.awaits
  rw [txnLineFor_own h]
  dsimp only
  rw [h]
  exact if_pos rfl

/-- A snoop response goes to the transaction of its own line (R88). -/
theorem snoopIn_own (a : Nat) (f : HomeTxn → HomeTxn) :
    s.snoopIn a line f = (s.setTxn line { f x with waits := x.waits.filter (· ≠ a) }).txnStep line := by
  unfold State.snoopIn
  rw [txnLineFor_own h]
  dsimp only
  rw [h]
  dsimp only
  rw [if_pos rfl]

/-- A transaction that still awaits a snoop response stays as it is (R88). -/
theorem txnStep_waits (hv : x.victim = none) (hw : x.waits ≠ []) : s.txnStep line = s := by
  unfold State.txnStep
  rw [h]
  dsimp only
  rw [hv]
  dsimp only
  rw [if_pos (by simp [hw])]

/-- A transaction whose snoop responses and CompAck are in ends (R97). -/
theorem txnStep_comp (hv : x.victim = none) (hw : x.waits = []) (hg : x.grantAfter = false) (hn : x.needComp = true)
    (hc : x.comp = true) : s.txnStep line = (s.setDir line x.final).dropTxn line := by
  unfold State.txnStep
  rw [h]
  simp only [hv, hw, hg, hn, hc, List.isEmpty_nil, Bool.not_true, Bool.false_eq_true, if_false, if_true]

/-- A non-caching read whose snoop responses are in ends with its data, the memory copy's or a holder's (R97, R99). -/
theorem txnStep_read (hv : x.victim = none) (hw : x.waits = []) (hg : x.grantAfter = false) (hn : x.needComp = false)
    (ht : x.req.ty = .rdNC) :
    s.txnStep line = if x.hasData then ((s.setDir line x.final).dropTxn line).send
        { homeMsg (homeOf line) x.req .rdData x.req.src.val with data := x.data, poison := x.poison }
      else ((s.setDir line x.final).dropTxn line).sendMem (homeOf line) x.req .rdData false := by
  unfold State.txnStep
  rw [h]
  simp only [hv, hw, hg, hn, ht, List.isEmpty_nil, Bool.not_true, Bool.false_eq_true, if_false]

end

/-- A table entry that is free again, its line's directory entry the final one (R85, R97). -/
def TxnEnded (x : HomeTxn) (line : Nat) (t : State) : Prop :=
  t.txnOf line = none ∧ ∀ e : DirEntry, x.final = some e → e.sharers ≠ 0 → t.dirOf line = some e

/-- What the end of a transaction leaves. -/
theorem ended_facts (s : State) (line : Nat) (x : HomeTxn) :
    TxnEnded x line ((s.setDir line x.final).dropTxn line) ∧ CohOnly s ((s.setDir line x.final).dropTxn line) ∧
      ((s.setDir line x.final).dropTxn line).coh.net = s.coh.net := by
  refine ⟨⟨txnOf_dropTxn _ _, fun e he hs => ?_⟩, (setDir_cohOnly s line x.final).trans rfl, ?_⟩
  · have hd := dirOf_setDir s line x.final
    rw [he, Option.bind_some, if_neg hs] at hd
    rw [he]
    exact hd
  · show (s.setDir line x.final).coh.net = _
    rw [setDir_coh]

/-- What a message sent at the end of a transaction leaves of that end. -/
theorem TxnEnded.of_coh {x : HomeTxn} {line : Nat} {t u : State} {l : List Msg} (h : TxnEnded x line t)
    (hu : u.coh = { t.coh with net := l }) : TxnEnded x line u := by
  obtain ⟨ht, hd⟩ := h
  refine ⟨?_, fun e he hs => ?_⟩
  · rw [State.txnOf, hu]
    exact ht
  · rw [State.dirOf, hu]
    exact hd e he hs

/-- The last snoop response of a non-caching read ends its transaction, and the data goes to the requester (R97, R99). -/
theorem snoopIn_lastRead {s : State} {line a : Nat} {x : HomeTxn} {f : HomeTxn → HomeTxn} {msg : Msg} (h : s.txnOf line = some x)
    (hv : (f x).victim = none) (hw : x.waits = [a]) (hg : (f x).grantAfter = false) (hn : (f x).needComp = false)
    (hreq : (f x).req = x.req) (hfin : (f x).final = x.final) (ht : x.req.ty = .rdNC)
    (hmsg : msg = if (f x).hasData then { homeMsg (homeOf line) x.req .rdData x.req.src.val with data := (f x).data, poison := (f x).poison }
      else memCopyMsg s (homeOf line) x.req .rdData false) :
    TxnEnded x line (s.snoopIn a line f) ∧ (s.snoopIn a line f).mem = s.mem ∧ (s.snoopIn a line f).coh.net = s.coh.net ++ [msg] := by
  have hnil : x.waits.filter (· ≠ a) = [] := by rw [hw]; simp
  have hstep := txnStep_read (txnOf_setTxn s line { f x with waits := x.waits.filter (· ≠ a) }) hv hnil hg hn (hreq ▸ ht)
  rw [snoopIn_own h, hstep, hreq, hfin]
  obtain ⟨hend, honly, hnet⟩ := ended_facts (s.setTxn line { f x with waits := x.waits.filter (· ≠ a) }) line x
  subst hmsg
  cases hd : (f x).hasData with
  | true =>
    simp only [if_true]
    refine ⟨hend.of_coh (send_coh _ _), (send_mem _ _).trans honly.mem, ?_⟩
    rw [send_coh, hnet]
    rfl
  | false =>
    simp only [Bool.false_eq_true, if_false]
    refine ⟨hend.of_coh (sendMem_coh _ _ _ _ _), (sendMem_cohOnly _ _ _ _ _).mem.trans honly.mem, ?_⟩
    rw [sendMem_coh, hnet, memCopyMsg, honly.mem]
    rfl

/-- A SnpAck that is awaited (R88). -/
theorem snpack_awaited {s : State} {r : Region} {a : Agent} {line : Nat} {m : Msg} {x : HomeTxn} (hx : s.txnOf line = some x)
    (hc : ComesFrom s .snpAck a (homeCode r) line m) (hl : s.isLate a line = false) (hw : x.waits.contains a.val = true) :
    exec (.snpack r a line) s = .next ((s.without m).snoopIn a line id) := by
  show execSnpack r a line s = _
  rw [execSnpack, recvFrom_comes hc]
  dsimp only
  rw [hl, awaits_own hx, hw]
  rfl

/-- Settles O19: a response goes to the transaction of its line, whose next step is the end, the wait, or the discard. -/
theorem homesTakeResponses : Obligations.HomesTakeResponses := by
  intro r a line m x s hx hv
  have hx' : (s.without m).txnOf line = some x := hx
  refine ⟨fun hc hl hw => ⟨fun hne => ?_, fun hr hd => ?_⟩, fun hc hl hflag hr => ?_, fun hc hsrc hg hn => ⟨fun hw => ?_, fun hw => ?_⟩,
    fun hl => ⟨fun hc => ?_, fun hc => ?_⟩⟩
  · rw [snpack_awaited hx hc hl hw, snoopIn_own hx']
    exact congrArg _ (txnStep_waits (x := { x with waits := x.waits.filter (· ≠ a.val) }) (txnOf_setTxn _ line _) hv hne)
  · obtain ⟨hwaits, hg, hn, hty, hline, hhome⟩ := hr
    refine ⟨_, snpack_awaited hx hc hl hw, snoopIn_lastRead hx' hv hwaits hg hn rfl rfl hty ?_⟩
    rw [id, hd, if_neg Bool.false_ne_true, memCopyMsg, hline, hhome]
    rfl
  · obtain ⟨hwaits, hg, hn, hty, hline, hhome⟩ := hr
    have hfull : x.fullWrite = false := by unfold HomeTxn.fullWrite; rw [hty]
    have hex : exec (.snpdata r a line) s = .next (((s.without m).writeBack m.cls line m.data m.poison).snoopIn a line
        (fun x => { x with hasData := true, data := m.data, poison := m.poison })) := by
      show execSnpdata r a line s = _
      rw [execSnpdata, recvFrom_comes hc]
      dsimp only
      rw [hl, awaits_own hx, hwaits, hx']
      dsimp only
      rw [hfull, hflag]
      simp [State.iff]
    have hxw : ((s.without m).writeBack m.cls line m.data m.poison).txnOf line = some x := by
      rw [State.txnOf, writeBack_coh]
      exact hx'
    obtain ⟨hend, hmem, hnet⟩ := snoopIn_lastRead (a := a) (f := fun x => { x with hasData := true, data := m.data, poison := m.poison })
      hxw hv hwaits hg hn rfl rfl hty rfl
    refine ⟨_, hex, hend, hmem.trans (writeBack_mem _ _ _ _ _), ?_⟩
    rw [hnet, writeBack_coh, hhome]
    rfl
  · have hex : exec (.compack r a line) s = .next (((s.without m).setTxn line { x with comp := true }).txnStep line) := by
      show execCompack r a line s = _
      rw [execCompack, recvFrom_comes hc]
      dsimp only
      rw [hx']
      dsimp only
      rw [if_pos hsrc]
    rw [txnStep_comp (x := { x with comp := true }) (txnOf_setTxn _ line _) hv hw hg hn rfl] at hex
    obtain ⟨hend, honly, hnet⟩ := ended_facts ((s.without m).setTxn line { x with comp := true }) line x
    exact ⟨_, hex, hend, honly.mem, honly.regs, hnet⟩
  · show execCompack r a line s = _
    rw [execCompack, recvFrom_comes hc]
    dsimp only
    rw [hx']
    dsimp only
    rw [if_pos hsrc]
    exact congrArg _ (txnStep_waits (x := { x with comp := true }) (txnOf_setTxn _ line _) hv hw)
  · show execSnpack r a line s = _
    rw [execSnpack, recvFrom_comes hc]
    dsimp only
    rw [hl]
    rfl
  · show execSnpdata r a line s = _
    rw [execSnpdata, recvFrom_comes hc]
    dsimp only
    rw [hl]
    rfl

end Sys2Proof.Machine
end

section
/-! SUPPORT. A miss that ends at its agent (R93, R94, R95), results handed out (R78, R92), and the proof of O20. -/

namespace Sys2Proof.Machine

/-- Where no fill waits for a way, none goes on (R95). -/
theorem resumeFills_none {s : State} {a : Nat} (h : NoFillWaits s a) : s.resumeFills a = s := by
  have hall : ∀ p ∈ s.coh.miss.filter (fun p => p.2.agent == a), p.2.fill = none := fun p hp => by
    obtain ⟨hm, ha⟩ := List.mem_filter.mp hp
    exact h p hm (by simpa using ha)
  unfold State.resumeFills
  generalize s.coh.miss.filter (fun p => p.2.agent == a) = l at hall
  induction l with
  | nil => rfl
  | cons p l ih =>
    rw [List.foldl_cons, hall p List.mem_cons_self]
    exact ih (fun q hq => hall q (List.mem_cons_of_mem _ hq))

/-- The CompAck that an installed line sends home (R88). -/
def fillAck (a line : Nat) (q : Miss) : Msg :=
  { ty := .compAck, src := a, dst := homeCode (homeOf line), line := line, txn := q.txn, cls := q.cls }

/-- A fill for a load closes the miss, installs the line and sends CompAck (R88, R94). -/
theorem finishFill_load {s : State} {a line : Nat} {q : Miss} {c : CLine} (h : q.op = .load) :
    (s.finishFill a line q c).missOf a line = none ∧ (s.finishFill a line q c).mem = s.mem ∧
    (s.finishFill a line q c).regs = s.regs ∧ (s.finishFill a line q c).coh.net = s.coh.net ++ [fillAck a line q] ∧
    ((s.finishFill a line q c).cached a line).map (fun d => (d.st, d.data, d.poison, d.watched)) =
      some (c.st, c.data, c.poison, c.watched) := by
  have hfill : s.finishFill a line q c = (((s.dropMiss a line).stampNext).setCached a line
      { c with used := (s.dropMiss a line).stampNext.coh.stamp }).send (fillAck a line q) := by
    have hload : ∀ u : State, u.performAgent a line q.txn q.op = u := fun u => by
      rw [h, State.performAgent]
      cases u.cached a line <;> rfl
    unfold State.finishFill
    dsimp only
    rw [hload]
    rfl
  rw [hfill]
  refine ⟨?_, send_mem _ _, send_regs _ _, ?_, ?_⟩
  · rw [State.missOf, send_coh]
    exact missOf_dropMiss s a line
  · rw [send_coh]
    rfl
  · rw [State.cached, send_coh]
    exact congrArg _ (cached_setCached _ a line _)

/-- A line that needs no way made free is installed at once (R95). -/
theorem finishMiss_installs {s : State} {a line : Nat} {q : Miss} {c : CLine}
    (h : s.victimFor a line = none ∨ (s.cached a line).isSome = true) : s.finishMiss a line q c = s.finishFill a line q c := by
  refine if_neg (fun hc => ?_)
  obtain ⟨hv, hn⟩ := (Bool.and_eq_true _ _).mp hc
  rcases h with h | h
  · rw [h] at hv
    cases hv
  · rw [Option.isNone_iff_eq_none.mp hn] at h
    cases h

/-- The open request a message of its transaction number answers (R93). -/
theorem answered_of_txn {s : State} {a line : Nat} {m : Msg} {q : Miss} (hq : s.missOf a line = some q) (hf : q.fill = none)
    (ht : q.txn = m.txn) : s.answered a line m = some q := by
  unfold State.answered
  rw [hq]
  exact if_pos ⟨ht, by rw [hf]; rfl⟩

/-- A result reaches its requester (R78, R92). -/
theorem takeResult_comes {s : State} {ty : MsgTy} {req txn : Nat} {m : Msg}
    (h : Comes s (fun o => decide (o.ty = ty) && o.dst == req && o.txn == txn) m) :
    s.takeResult ty req txn = (s.without m).setCoh { (s.without m).coh with
      ncOpen := s.coh.ncOpen.filter (fun o => !(o.req == req && o.txn == txn))
      nc := s.coh.nc ++ [{ req := req, txn := txn, status := m.status, poison := m.poison, data := m.data, old := m.old }] } := by
  unfold State.takeResult
  rw [deliver_comes h]
  rfl

/-- The line a message of data installs (R94, R112). -/
def sentLine (m : Msg) (st : CState) : CLine := { st := st, data := m.data, poison := msgPoison m.poison }

/-- A message whose fill ends a load's miss. -/
theorem fill_ends {s : State} {i : Instr} {a line : Nat} {m : Msg} {q : Miss} {c : CLine} (h : q.op = .load)
    (hx : exec i s = .next ((s.without m).finishFill a line q c)) :
    ∃ t : State, exec i s = .next t ∧ t.missOf a line = none ∧ t.mem = s.mem ∧ t.regs = s.regs ∧
      t.coh.net = s.coh.net.erase m ++ [fillAck a line q] ∧
      (t.cached a line).map (fun d => (d.st, d.data, d.poison, d.watched)) = some (c.st, c.data, c.poison, c.watched) :=
  ⟨_, hx, finishFill_load h⟩

/-! ## The messages at an agent with a miss open -/

section
variable {a : Agent} {line : Nat} {m : Msg} {q : Miss} {s : State} (hans : s.answered a line m = some q)
include hans

theorem datas_answered (hc : ComesTo s .dataS a line m) :
    exec (.datas a line) s = .next ((s.without m).finishMiss a line q (sentLine m .s)) := by
  show execDatas a line s = _
  rw [execDatas, recv_comes hc]
  dsimp only
  rw [hans]
  rfl

theorem datae_answered (hc : ComesTo s .dataE a line m) :
    exec (.datae a line) s = .next ((s.without m).finishMiss a line q (sentLine m .e)) := by
  show execDatae a line s = _
  rw [execDatae, recv_comes hc]
  dsimp only
  rw [hans]
  rfl

/-- DataM waits with the miss until the grant has come (R96). -/
theorem datam_answered (hc : ComesTo s .dataM a line m) :
    exec (.datam a line) s = .next (if q.granted then (s.without m).finishMiss a line q (sentLine m .m)
      else (s.without m).setMiss a line { q with data := some (m.data, msgPoison m.poison, m.flag) }) := by
  show execDatam a line s = _
  rw [execDatam, recv_comes hc]
  dsimp only
  rw [hans]
  rfl

/-- A grant with data installs it, one without completes an upgrade or waits with the miss (R94). -/
theorem gnte_answered (hc : ComesTo s .gntE a line m) :
    (m.flag = true → exec (.gnte a line) s = .next ((s.without m).finishMiss a line q (sentLine m .m))) ∧
    (m.flag = false → s.cached a line = none → q.data = none →
      exec (.gnte a line) s = .next ((s.without m).setMiss a line { q with granted := true })) ∧
    (∀ c, m.flag = false → q.st = .sm → s.cached a line = some c →
      exec (.gnte a line) s = .next ((s.without m).finishMiss a line q { c with st := .m })) := by
  have hx : exec (.gnte a line) s = execGnte a line s := rfl
  rw [hx, execGnte, recv_comes hc]
  dsimp only
  rw [hans]
  dsimp only
  refine ⟨fun hf => ?_, fun hf hno hd => ?_, fun c hf hst hin => ?_⟩
  · rw [if_pos hf]
    rfl
  · rw [if_neg (by rw [hf]; decide), hno, hd]
    cases q.st <;> rfl
  · rw [if_neg (by rw [hf]; decide), hst, hin]

end

/-- Settles O20: each message that ends a load's miss installs its line by `finishFill`; the others are kept with the miss. -/
theorem agentsTakeResponses : Obligations.AgentsTakeResponses := by
  refine ⟨fun a line m s hn => ⟨fun hc => ?_, fun hc => ?_, wbOf_dropWb _ _ _⟩, fun a line m q s hq hload hfill htxn => ?_,
    fun req txn m s => ⟨fun h => ?_, fun h => ?_⟩⟩
  · show execPutack a line s = _
    rw [execPutack, recv_comes hc]
    exact congrArg _ (resumeFills_none (s := (s.without m).dropWb a line) hn)
  · show execPutackstale a line s = _
    rw [execPutackstale, recv_comes hc]
    exact congrArg _ (resumeFills_none (s := (s.without m).dropWb a line) hn)
  · have hans := answered_of_txn hq hfill htxn
    refine ⟨fun hno hvic => ?_, fun c hcached hst hflag hc => ?_⟩
    · have hinst : ∀ c : CLine, (s.without m).finishMiss a line q c = (s.without m).finishFill a line q c := fun c =>
        finishMiss_installs (Or.inl hvic)
      refine ⟨fun hc => fill_ends (c := sentLine m .s) hload ?_, fun hc => fill_ends (c := sentLine m .e) hload ?_,
        fun hc hflag => fill_ends (c := sentLine m .m) hload ?_, fun hc hflag hdata => (gnte_answered hans hc).2.1 hflag hno hdata,
        fun hc hg => fill_ends (c := sentLine m .m) hload ?_, fun hc hg => ?_⟩
      · rw [datas_answered hans hc, hinst]
      · rw [datae_answered hans hc, hinst]
      · rw [(gnte_answered hans hc).1 hflag, hinst]
      · rw [datam_answered hans hc, if_pos hg, hinst]
      · exact (datam_answered hans hc).trans (congrArg _ (if_neg (by rw [hg]; decide)))
    · refine fill_ends hload (c := { c with st := .m }) ?_
      obtain ⟨-, -, hupgrade⟩ := gnte_answered hans hc
      rw [hupgrade c hflag hst hcached, finishMiss_installs (s := s.without m) (Or.inr (congrArg Option.isSome hcached))]
  · show execRddata req txn s = _
    rw [execRddata, takeResult_comes h]
  · show execNcdone req txn s = _
    rw [execNcdone, takeResult_comes h]

end Sys2Proof.Machine
end

section
/-! SUPPORT. Evictions, the snoop timeout, a watch set again and the directory peek (R94, R107, R109, R113, R114, R631), and the proof
of O21. -/

namespace Sys2Proof.Machine

/-! ## A watch that wakes, a line that goes -/

/-- A wake names its line and touches executors and the list of wakes alone (R107). -/
theorem wake_frame (s : State) (a line : Nat) :
    s.wake a line = { s with execs := (s.wake a line).execs, coh := { s.coh with wakes := s.coh.wakes ++ [(a, line)] } } := by
  have hkeep : ∀ (t : State) (x : Executor) (e : Exec), t = { s with execs := t.execs, coh := { s.coh with wakes := s.coh.wakes ++ [(a, line)] } } →
      t.setExe x e = { s with execs := (t.setExe x e).execs, coh := { s.coh with wakes := s.coh.wakes ++ [(a, line)] } } :=
    fun t x e ht => by rw [ht]; rfl
  unfold State.wake
  dsimp only
  split
  · refine foldl_keeps (fun t : State => t = { s with execs := t.execs, coh := { s.coh with wakes := s.coh.wakes ++ [(a, line)] } }) _
      (fun t k ht => ?_) _ rfl
    split
    · split
      · split
        · exact hkeep t _ _ ht
        · exact ht
      · exact ht
    · exact ht
  · split
    · split
      · split <;> rfl
      · rfl
    · rfl

/-- A line that leaves its cache wakes its watch, and changes neither memory nor flight (R107). -/
theorem loseLine_cached {s : State} {a line : Nat} {c : CLine} (h : s.cached a line = some c) :
    (s.loseLine a line).mem = s.mem ∧ (s.loseLine a line).coh = { s.coh with
      cache := Tbl.erase s.coh.cache (pk a line), wakes := s.coh.wakes ++ if c.watched then [(a, line)] else [] } := by
  unfold State.loseLine
  rw [h]
  dsimp only
  unfold State.iff
  cases c.watched with
  | false =>
    simp only [Bool.false_eq_true, if_false, List.append_nil]
    exact ⟨rfl, rfl⟩
  | true =>
    simp only [if_true]
    rw [wake_frame]
    exact ⟨rfl, rfl⟩

/-- The Put of a line that leaves in a state (R94). -/
def putOf : CState → ReqTy
  | .s => .putS
  | .e => .putE
  | .m => .putM

/-- The entry of an evicted line in the writeback buffer (R94, R95). -/
def State.evicted (s : State) (a line : Nat) (c : CLine) : WbEntry :=
  { agent := a, put := putOf c.st, dirty := decide (c.st = .m), data := c.data, poison := c.poison, cls := s.evictClass a line }

/-- CACHE_EVICT of a line its agent may choose (R94, R95). -/
theorem cacheEvict_next {a : Agent} {line : Nat} {c : CLine} {s : State} (h : s.cached a line = some c) (hm : s.mayEvict a line c = true)
    (hq : s.missOf a line = none) (hw : s.wbOf a line = none) (hc : s.wbCount a < wbEntries a) (hn : NoFillWaits s a) :
    exec (.cacheEvict a line) s = .next ((s.loseLine a line).setWb a line (s.evicted a line c)) := by
  have hmiss : (s.loseLine a line).coh.miss = s.coh.miss := by rw [(loseLine_cached h).2]
  have hfree : ∀ w : WbEntry, ((s.loseLine a line).setWb a line w).resumeFills a = (s.loseLine a line).setWb a line w := fun w =>
    resumeFills_none (fun p hp => hn p (hmiss ▸ hp))
  show execCacheEvict a line s = _
  unfold execCacheEvict
  rw [h]
  dsimp only
  rw [hq, hw, hm, decide_eq_false (by omega)]
  simp only [Option.isSome_none, Bool.or_false, Bool.not_true, Bool.false_eq_true, if_false, hfree]
  rfl

/-! ## SNOOP_TIMEOUT -/

theorem writeLost_coh (s : State) (cls line : Nat) : (s.writeLost cls line).coh = s.coh := by
  show (s.writeBack cls line _ true).coh = _
  exact writeBack_coh _ _ _ _ _

/-- A snoop that its home has waited for long enough (R113). -/
theorem snoopDue_of {s : State} {r a line : Nat} {x : HomeTxn} (hx : s.txnOf line = some x) (hw : x.waits.contains a = true)
    (hh : homeOf line = r) (hd : x.began + max (s.fld .DIR_CTRL_SNP_TO r) 1 * 4096 ≤ s.fclk r) : s.snoopDue r a line = some x := by
  unfold State.snoopDue
  rw [txnLineFor_own hx, Option.bind_some, hx]
  exact if_pos ⟨(awaits_own hx a).trans hw, hh, hd⟩

/-- A transaction whose silent agent leaves its final sharers, for a non-caching read (R113). -/
def HomeTxn.unshared (x : HomeTxn) (a : Nat) : HomeTxn :=
  { x with final := x.final.map (fun (d : DirEntry) => { d with sharers := d.sharers &&& ~~~ (oneHot a) }) }

/-- SNOOP_TIMEOUT where a non-caching read awaits the agent (R113). -/
theorem snoopTimeout_read {r : Region} {a : Agent} {line : Nat} {e : DirEntry} {x : HomeTxn} {s u v w : State}
    (hx : s.txnOf line = some x) (hdue : s.snoopDue r a line = some x) (he : s.dirOf line = some e) (hty : x.req.ty = .rdNC)
    (hn : x.needComp = false) (hu : u = if e.excl && e.sharers.getLsbD a.val then s.writeLost x.req.cls.val line else s)
    (hv : v = (u.setDir line (some { e with sharers := e.sharers &&& ~~~ (oneHot a.val) })).setTxn line (x.unshared a.val))
    (hw : w = v.raise (.region r) 0x20 0xC0 0x07 2 (addr := line * 64) (req := a.val) (info := a.val)) :
    exec (.snoopTimeout r a line) s =
      .next ((w.setCoh { w.coh with late := w.coh.late ++ [(a.val, line)] }).snoopIn a line id) := by
  have hcoh : u.coh = s.coh := by
    rw [hu]
    split
    · exact writeLost_coh _ _ _
    · rfl
  have hue : u.dirOf line = some e := by rw [State.dirOf, hcoh]; exact he
  have hux : (u.setDir line (some { e with sharers := e.sharers &&& ~~~ (oneHot a.val) })).txnOf line = some x := by
    rw [State.txnOf, setDir_coh, hcoh]
    exact hx
  have hfin : ∀ d : DirEntry, ({ d with sharers := (d.sharers &&& ~~~ (oneHot a.val)) ||| 0 } : DirEntry) =
      { d with sharers := d.sharers &&& ~~~ (oneHot a.val) } := fun d =>
    congrArg (fun v => ({ d with sharers := v } : DirEntry)) BitVec.or_zero
  show execSnoopTimeout r a line s = _
  unfold execSnoopTimeout
  rw [hdue]
  dsimp only
  rw [he]
  dsimp only
  unfold State.iff
  rw [← hu, hue]
  dsimp only
  rw [hux, hw, hv]
  obtain ⟨req, start, waits, victim, victimWaits, needComp, comp, grantAfter, hasData, data, poison, lost, began, final⟩ := x
  dsimp only at hty hn ⊢
  cases start <;>
    simp only [hty, hn, Bool.false_eq_true, if_false, Bool.false_and, Bool.or_false, hfin] <;> rfl

/-! ## WATCH_LIMIT_POLL -/

/-- A watch set on a line its agent holds unwatched (R106, R109). -/
theorem watchLine_held {s : State} {m : Mover} {cls line : Nat} {c : CLine} (hp : (s.place (line * 64)).coherent = true)
    (hr : s.lineReady m.code line = true) (hc : s.cached m.code line = some c) (hw : c.watched = false)
    (hl : s.watchCount m.code < watchLimit m.code) :
    s.watchLine m cls line = (s.touch m.code line).setCached m.code line
      { c with used := s.stampNext.coh.stamp, agent := m.code, line := line, watched := true } := by
  have ht : (s.touch m.code line).cached m.code line =
      some { c with used := s.stampNext.coh.stamp, agent := m.code, line := line } := by
    rw [State.touch, hc]
    exact cached_setCached _ _ _ _
  unfold State.watchLine
  rw [hp, hr, hc, Option.any_some, hw]
  simp only [Bool.not_true, Bool.or_false, Bool.false_eq_true, if_false, State.fillShared, hc, ht, hl, decide_true, if_true]

/-- A ring of the agent that waits for the line is found (R109, R631). -/
theorem watchLimitPoll_finds {a : Agent} {line : Nat} {id : RingId} {s : State} (hid : id ∈ allRings) (hcode : (ringMover id).code = a.val)
    (hon : s.ringOn id = true) (hl : canonical (s.ringLine id * 64) / 64 = line) :
    ∃ o : RingId, (ringMover o).code = a.val ∧ exec (.watchLimitPoll a line) s = .next (s.watchLine (ringMover o) (ringClass o) line) := by
  show ∃ o : RingId, _ ∧ execWatchLimitPoll a line s = _
  unfold execWatchLimitPoll
  have hp : ((ringMover id).code == a.val && s.ringOn id && canonical (s.ringLine id * 64) / 64 == line) = true := by
    simp [hcode, hon, hl]
  cases hf : allRings.find? (fun id => (ringMover id).code == a.val && s.ringOn id && canonical (s.ringLine id * 64) / 64 == line) with
  | none => exact absurd hp (List.find?_eq_none.mp hf id hid)
  | some o =>
    have ho := List.find?_some hf
    simp only [Bool.and_eq_true, beq_iff_eq] at ho
    obtain ⟨⟨hc, -⟩, hline⟩ := ho
    exact ⟨o, hc, by dsimp only; rw [State.watchRing, hline]⟩

/-! ## DIR_PEEK -/

/-- What a peek with GO writes, for a line with an entry that is not Busy (R114). -/
theorem dirPeek_go {s : State} {r v : Nat} {e : DirEntry} (hgo : bitOf v 63 = true) (he : s.dirOf (bitsOf v 6 42) = some e)
    (hh : homeOf (bitsOf v 6 42) = r) (hb : s.busy (bitsOf v 6 42) = false) :
    ∃ age : Nat, s.dirPeek r v = ((((((((s.setFld .DIR_PEEK_ADDR_LINE r (bitsOf v 6 42)).setFld .DIR_PEEK_RES_DONE r 1).setFld
      .DIR_PEEK_RES_HIT r 1).setFld .DIR_PEEK_RES_STATE r (if e.excl then 2 else 1)).setFld .DIR_PEEK_RES_AGE r age).setFld
      .DIR_PEEK_RES_SET r (dirSet (bitsOf v 6 42))).setFld .DIR_PEEK_VEC_SHARERS r (e.sharers.toNat % 2 ^ 64) 0).setFld
      .DIR_PEEK_VEC_SHARERS r (e.sharers.toNat / 2 ^ 64) 1) := by
  have he' : (s.setFld .DIR_PEEK_ADDR_LINE r (bitsOf v 6 42)).dirOf (bitsOf v 6 42) = some e := he
  have hb' : (s.setFld .DIR_PEEK_ADDR_LINE r (bitsOf v 6 42)).busy (bitsOf v 6 42) = false := hb
  unfold State.dirPeek
  dsimp only
  rw [if_neg (by rw [hgo]; decide), he', hb', hh]
  simp only [Option.isSome_some, beq_self_eq_true, Bool.and_self, Bool.false_and, Bool.not_true, Bool.false_eq_true, if_false, if_true, bit1]
  exact ⟨_, rfl⟩

theorem line_width (v : Nat) : bitsOf v 6 42 % 2 ^ Fld.DIR_PEEK_ADDR_LINE.width = bitsOf v 6 42 :=
  Nat.mod_eq_of_lt (Nat.mod_lt _ (Nat.two_pow_pos 42))

/-- The snapshot of a peek that found its line's entry (R114). -/
theorem dirPeek_shows {s : State} {r v : Nat} {e : DirEntry} (hgo : bitOf v 63 = true) (he : s.dirOf (bitsOf v 6 42) = some e)
    (hh : homeOf (bitsOf v 6 42) = r) (hb : s.busy (bitsOf v 6 42) = false) :
    (s.dirPeek r v).fld .DIR_PEEK_RES_DONE r = 1 ∧ (s.dirPeek r v).fld .DIR_PEEK_RES_HIT r = 1 ∧
      (s.dirPeek r v).fld .DIR_PEEK_RES_STATE r = (if e.excl then 2 else 1) ∧
      (s.dirPeek r v).fld .DIR_PEEK_RES_SET r = dirSet (bitsOf v 6 42) % 2 ^ Fld.DIR_PEEK_RES_SET.width ∧
      (s.dirPeek r v).fld .DIR_PEEK_VEC_SHARERS r 0 = e.sharers.toNat % 2 ^ 64 ∧
      (s.dirPeek r v).fld .DIR_PEEK_VEC_SHARERS r 1 = e.sharers.toNat / 2 ^ 64 ∧
      (s.dirPeek r v).coh = s.coh ∧ (s.dirPeek r v).mem = s.mem := by
  obtain ⟨age, hp⟩ := dirPeek_go hgo he hh hb
  have h64 : ∀ n, n < 2 ^ 64 → n % 2 ^ Fld.DIR_PEEK_VEC_SHARERS.width = n := fun n hn => Nat.mod_eq_of_lt hn
  have hidx : Fld.DIR_PEEK_VEC_SHARERS.key r 0 ≠ Fld.DIR_PEEK_VEC_SHARERS.key r 1 := fun h => by
    have := (Fld.key_eq_iff.mp h).2.2
    omega
  rw [hp]
  refine ⟨?_, ?_, ?_, ?_, ?_, ?_, rfl, rfl⟩
  · simp (disch := decide) only [State.fld_setFld_code, State.fld_setFld_same]
    rfl
  · simp (disch := decide) only [State.fld_setFld_code, State.fld_setFld_same]
    rfl
  · simp (disch := decide) only [State.fld_setFld_code, State.fld_setFld_same]
    cases e.excl <;> rfl
  · simp (disch := decide) only [State.fld_setFld_code, State.fld_setFld_same]
  · rw [State.fld_setFld_other _ _ hidx, State.fld_setFld_same]
    exact h64 _ (Nat.mod_lt _ (Nat.two_pow_pos 64))
  · rw [State.fld_setFld_same]
    refine h64 _ (Nat.div_lt_of_lt_mul ?_)
    rw [← Nat.pow_add]
    exact e.sharers.isLt

/-- A peek without GO writes the address alone (R114). -/
theorem dirPeek_still {s : State} {r v : Nat} (hgo : bitOf v 63 = false) : s.dirPeek r v = s.setFld .DIR_PEEK_ADDR_LINE r (bitsOf v 6 42) :=
  if_pos hgo

/-- A write of DIR_PEEK through a select value that names a region (R64, R114). -/
theorem dirPeek_selected {who : Bank} {v : W64} {r : Region} {s : State} (h : (s.otherAccess who).fld .REG_SEL_INDEX who.code = r.val) :
    exec (.dirPeek who v) s = .next ((s.otherAccess who).dirPeek r v.toNat) := by
  show execDirPeek who v s = _
  unfold execDirPeek
  dsimp only
  rw [h, if_pos r.isLt]

/-! ## The clauses of O21 -/

/-- Settles O21: the eviction moves a line to the buffer, the timeout is a lost response, the poll sets a watch, the peek reads. -/
theorem evictionsTimeoutsAndPeeks : Obligations.EvictionsTimeoutsAndPeeks := by
  refine ⟨fun a line c s hc hm hq hw hn hf => ?_, fun r a line e x s hx hv hwait hh hd he hty hn => ?_,
    fun a line c id s hid hcode hon hl hr hp hc hw hlim => ?_, fun who v r e s hsel hgo he hh hb => ?_, fun who v r s hsel hgo => ?_⟩
  · obtain ⟨hmem, hcoh⟩ := loseLine_cached hc
    refine ⟨_, cacheEvict_next hc hm hq hw hn hf, ?_, hmem, loseLine_regs s a line, ?_, ?_, ?_⟩
    · show Tbl.find? (s.loseLine a line).coh.cache _ = none
      rw [hcoh]
      exact Tbl.find?_erase_same _ _
    · show (s.loseLine a line).coh.net = _
      rw [hcoh]
    · show (s.loseLine a line).coh.wakes = _
      rw [hcoh]
    · rw [wbOf_setWb]
      unfold State.evicted
      cases c.st <;> rfl
  · exact snoopTimeout_read hx (snoopDue_of hx hwait hh hd) he hty hn rfl rfl rfl
  · obtain ⟨o, ho, hx⟩ := watchLimitPoll_finds hid hcode hon hl
    rw [watchLine_held hp (ho ▸ hr) (ho ▸ hc) hw (ho ▸ hlim), ho] at hx
    obtain ⟨hmem, hregs, -⟩ := touch_cacheOnly s a line
    exact ⟨_, hx, by rw [cached_setCached]; rfl, hmem, hregs⟩
  · exact ⟨_, dirPeek_selected hsel, by
      obtain ⟨hdone, hhit, hstate, hset, hlow, hhigh, hcoh, hmem⟩ := dirPeek_shows (s := s.otherAccess who) (v := v.toNat) hgo
        (by rw [State.dirOf, otherAccess_coh]; exact he) hh (by unfold State.busy State.txnOf at hb ⊢; rw [otherAccess_coh]; exact hb)
      exact ⟨hdone, hhit, hstate, hset, hlow, hhigh, hcoh.trans (otherAccess_coh s who), hmem.trans (otherAccess_mem s who)⟩⟩
  · refine ⟨_, dirPeek_selected hsel, ?_⟩
    rw [dirPeek_still (v := v.toNat) hgo]
    refine ⟨⟨fun k hk => ?_, rfl⟩, (State.fld_setFld_same _ .DIR_PEEK_ADDR_LINE r (bitsOf v.toNat 6 42) 0).trans (line_width _)⟩
    exact State.regs_setFld_other _ (bitsOf v.toNat 6 42) (fun e => hk (e ▸ List.mem_cons_self))

end Sys2Proof.Machine
end

section
/-! SUPPORT. What storing bytes and records may change outside memory: an executor's watch, a block's waking, and the registers of
wakes and decode errors (R29, R51, R107, R231). -/

namespace Sys2Proof.Machine

/-- An executor without its watch. -/
def Exec.unwatched (e : Exec) : Exec := { e with watch := none }

/-- A block without its move out of GATED. -/
def Blk.still (k : Blk) : Blk := { k with waking := false, moving := none }

/-- The numbers of the register fields that storing bytes may change. -/
def storeFlds : List Nat := writeFlds ++ errorFlds

/-- What storing bytes leaves of everything that is neither memory nor traffic. -/
structure StoresOnly (s t : State) : Prop where
  exe : ∀ x, (t.exe x).unwatched = (s.exe x).unwatched
  blk : ∀ b, (t.blk b).still = (s.blk b).still
  errs : t.errs = s.errs
  repair : t.repair = s.repair
  works : t.works = s.works
  flds : FldsBut storeFlds s t

theorem StoresOnly.refl (s : State) : StoresOnly s s := ⟨fun _ => rfl, fun _ => rfl, rfl, rfl, rfl, FldsBut.refl _ s⟩

theorem StoresOnly.trans {s t u : State} (h : StoresOnly s t) (k : StoresOnly t u) : StoresOnly s u :=
  ⟨fun x => (k.exe x).trans (h.exe x), fun b => (k.blk b).trans (h.blk b), k.errs.trans h.errs, k.repair.trans h.repair,
    k.works.trans h.works, h.flds.trans k.flds⟩

/-- What leaves executors, blocks, errors, repair and work alone. -/
theorem StoresOnly.of_frame {s t : State}
    (h : t = { t with execs := s.execs, blks := s.blks, errs := s.errs, repair := s.repair, works := s.works })
    (hf : FldsBut storeFlds s t) : StoresOnly s t := by
  refine ⟨fun x => ?_, fun b => ?_, ?_, ?_, ?_, hf⟩ <;> rw [h] <;> rfl

theorem storesOnly_foldl {α : Type} {g : State → α → State} (h : ∀ s a, StoresOnly s (g s a)) (l : List α) (s : State) :
    StoresOnly s (l.foldl g s) :=
  foldl_keeps (StoresOnly s) g (fun t a ht => ht.trans (h t a)) l (StoresOnly.refl s)

theorem storeFlds_of_writeFlds {s t : State} (h : FldsBut writeFlds s t) : FldsBut storeFlds s t :=
  h.mono (fun _ hc => List.mem_append_left _ hc)

theorem storeFlds_of_errorFlds {s t : State} (h : FldsBut errorFlds s t) : FldsBut storeFlds s t :=
  h.mono (fun _ hc => List.mem_append_right _ hc)

theorem TrafficOnly.storesOnly {s t : State} (h : TrafficOnly s t) : StoresOnly s t := by
  refine StoresOnly.of_frame ?_ (h.flds _)
  unfold TrafficOnly at h
  rw [h]
  rfl

theorem CohOnly.storesOnly {s t : State} (h : CohOnly s t) : StoresOnly s t := by
  refine StoresOnly.of_frame ?_ (FldsBut.of_regs h.regs)
  unfold CohOnly at h
  rw [h]
  rfl

theorem setCoh_storesOnly (s : State) (c : Coh) : StoresOnly s (s.setCoh c) := (setCoh_cohOnly s c).storesOnly

theorem memWrite_storesOnly (s : State) (line : Nat) (w : LineWrite) : StoresOnly s (s.memWrite line w) := by
  refine StoresOnly.of_frame ?_ (storeFlds_of_writeFlds (memWrite_flds s line w))
  unfold State.memWrite State.farForget
  dsimp only
  split <;> split <;> rfl

theorem refuse_storesOnly (s : State) (code addr : Nat) (wr : Bool) : StoresOnly s (s.refuse code addr wr) := by
  refine StoresOnly.of_frame ?_ (storeFlds_of_errorFlds (refuse_flds s code addr wr))
  rw [refuse_only s code addr wr]

/-- Another executor's entry, or an executor's own with another watch (R311). -/
theorem setExe_storesOnly (s : State) (x : Executor) {e : Exec} (h : e.unwatched = (s.exe x).unwatched) : StoresOnly s (s.setExe x e) := by
  refine ⟨fun y => ?_, fun _ => rfl, rfl, rfl, rfl, FldsBut.of_regs rfl⟩
  by_cases hy : y = x
  · rw [hy, State.exe_setExe_same, h]
  · rw [State.exe_setExe_other s e hy]

theorem wake_storesOnly (s : State) (a line : Nat) : StoresOnly s (s.wake a line) := by
  have hexec : ∀ (t : State) (x : Executor), StoresOnly t (match (t.exe x).watch with
      | some w => if canonical w.addr / 64 = line then t.setExe x { t.exe x with watch := some { w with woken := true } } else t
      | none => t) := fun t x => by
    split
    · split
      · exact setExe_storesOnly t x rfl
      · exact StoresOnly.refl t
    · exact StoresOnly.refl t
  unfold State.wake
  dsimp only
  refine StoresOnly.trans (t := s.setCoh { s.coh with wakes := s.coh.wakes ++ [(a, line)] }) (setCoh_storesOnly s _) ?_
  split
  · refine storesOnly_foldl (fun t k => ?_) _ _
    split
    · exact hexec t _
    · exact StoresOnly.refl t
  · split
    · exact hexec _ _
    · exact StoresOnly.refl _

theorem loseLine_storesOnly (s : State) (a line : Nat) : StoresOnly s (s.loseLine a line) := by
  unfold State.loseLine State.iff
  split
  · split
    · exact (setCoh_storesOnly s _).trans (wake_storesOnly _ a line)
    · exact setCoh_storesOnly s _
  · exact StoresOnly.refl s

/-- A block that leaves GATED for a snoop or an access changes nothing else of itself (R29). -/
theorem rouse_storesOnly (s : State) (a : Nat) : StoresOnly s (s.rouse a) := by
  have h := rouse_wakesOnly s a
  refine ⟨fun x => ?_, fun b => ?_, h.errs, ?_, h.works, storeFlds_of_writeFlds (rouse_flds s a)⟩
  · rw [State.exe, h.execs]
    rfl
  · unfold State.rouse
    split
    · split
      · by_cases hb : b = a
        · rw [hb]
          refine congrArg Blk.still (State.blk_setBlk_same _ _ _) |>.trans ?_
          rfl
        · exact congrArg Blk.still (State.blk_setBlk_other _ _ hb)
      · rfl
    · split <;> rfl
  · rw [h]

theorem invalidateAt_storesOnly (s : State) (cls line a : Nat) : StoresOnly s (s.invalidateAt cls line a) := by
  unfold State.invalidateAt
  extract_lets dirty s1 s2 s3 s4
  have h1 : StoresOnly s s1 := (rouse_storesOnly s a).trans (oweSnoop_traffic _ _ _ _ _ _).storesOnly
  have h2 : StoresOnly s1 s2 := by
    unfold s2
    clear_value s1 dirty
    split
    · exact (askMem_traffic _ _ _).storesOnly.trans (memWrite_storesOnly _ _ _)
    · exact StoresOnly.refl _
  have h3 : StoresOnly s2 s3 := by
    unfold s3
    split
    · exact setCoh_storesOnly _ _
    · exact StoresOnly.refl _
  have h4 : StoresOnly s3 s4 := by
    unfold s4
    split
    · split
      · exact setCoh_storesOnly _ _
      · exact StoresOnly.refl _
    · exact StoresOnly.refl _
  exact (((h1.trans h2).trans h3).trans h4).trans (loseLine_storesOnly s4 a line)

theorem invalidateAll_storesOnly (s : State) (cls line : Nat) : StoresOnly s (s.invalidateAll cls line) := by
  unfold State.invalidateAll
  split
  · exact StoresOnly.refl s
  · exact (storesOnly_foldl (fun t a => invalidateAt_storesOnly t cls line a) _ s).trans (setDir_cohOnly _ line none).storesOnly

theorem storePart_storesOnly (s : State) (cls a : Nat) (l : List Byte) (poison : Bool) : StoresOnly s (s.storePart cls a l poison).1 := by
  unfold State.storePart
  dsimp only
  split
  · exact (invalidateAll_storesOnly s cls _).trans (memWrite_storesOnly _ _ _)
  · exact (invalidateAll_storesOnly s cls _).trans (memWrite_storesOnly _ _ _)
  · dsimp only
    split
    · exact StoresOnly.refl s
    · exact (rouse_storesOnly s _).trans (memWrite_storesOnly _ _ _)
  · exact (rouse_storesOnly s _).trans (memWrite_storesOnly _ _ _)
  · exact StoresOnly.refl s

theorem unsettle_storesOnly (s : State) (m : Mover) (l : List (Nat × Nat)) : StoresOnly s (s.unsettle m l) := by
  unfold State.unsettle State.undef
  split
  · exact StoresOnly.refl s
  · refine StoresOnly.trans (storesOnly_foldl (fun t p => ?_) (s.updating m l) s) ⟨fun _ => rfl, fun _ => rfl, rfl, rfl, rfl, FldsBut.of_regs rfl⟩
    exact storesOnly_foldl (fun u q => storePart_storesOnly u 7 q.1 (u.freeBytes q.1 q.2) false) (splitRange p.1 p.2) t

theorem writePart_storesOnly (s : State) (m : Mover) (cls a : Nat) (l : List Byte) (poison : Bool) :
    StoresOnly s (s.writePart m cls a l poison).1 := by
  have h := (haul_traffic s m cls a l.length true).storesOnly.trans (storePart_storesOnly _ cls a l poison)
  unfold State.writePart
  dsimp only
  split
  · exact h.trans (refuse_storesOnly _ _ _ _)
  · exact h.trans (unsettle_storesOnly _ _ _)

theorem writeBytes_storesOnly (s : State) (m : Mover) (cls a : Nat) (l : List Byte) (poison : Bool) :
    StoresOnly s (s.writeBytes m cls a l poison).1 :=
  foldl_keeps (fun acc : State × Nat => StoresOnly s acc.1) _ (fun acc p h => h.trans (writePart_storesOnly acc.1 m cls p.1 _ poison)) _
    (StoresOnly.refl s)

/-- The writer of a ring changes memory, what stores change, and its ring (R230, R231). -/
theorem ringPut_storesOnly (s : State) (id : RingId) (rec : List Byte) : StoresOnly s (s.ringPut id rec) := by
  have hring : ∀ (t : State) (v : Ring), StoresOnly t (t.setRing id v) := fun t v =>
    ⟨fun _ => rfl, fun _ => rfl, rfl, rfl, rfl, FldsBut.of_regs rfl⟩
  unfold State.ringPut
  dsimp only
  split
  · unfold State.ringStore
    dsimp only
    exact ((writeBytes_storesOnly s _ _ _ _ _).trans (writeBytes_storesOnly _ _ _ _ _ _)).trans (hring _ _)
  · split <;> exact hring _ _

end Sys2Proof.Machine
end

section
/-! SUPPORT. A record that enters a queue with room below the chip (R531, R536, R538). -/

namespace Sys2Proof.Machine

/-- Two states have the same blocks but for their moves out of GATED, the same repair and work, and the same registers but for some
fields. -/
structure Kept (cs : List Nat) (s t : State) : Prop where
  blk : ∀ b, (t.blk b).still = (s.blk b).still
  repair : t.repair = s.repair
  works : t.works = s.works
  flds : FldsBut cs s t

/-- Two states have the same executors but for their watches. -/
def SameExecs (s t : State) : Prop := ∀ x, (t.exe x).unwatched = (s.exe x).unwatched

theorem SameExecs.trans {s t u : State} (h : SameExecs s t) (k : SameExecs t u) : SameExecs s u := fun x => (k x).trans (h x)

theorem Kept.refl (cs : List Nat) (s : State) : Kept cs s s := ⟨fun _ => rfl, rfl, rfl, FldsBut.refl _ s⟩

theorem Kept.trans {cs : List Nat} {s t u : State} (h : Kept cs s t) (k : Kept cs t u) : Kept cs s u :=
  ⟨fun b => (k.blk b).trans (h.blk b), k.repair.trans h.repair, k.works.trans h.works, h.flds.trans k.flds⟩

theorem Kept.mono {cs ds : List Nat} {s t : State} (h : Kept cs s t) (hc : ∀ c ∈ cs, c ∈ ds) : Kept ds s t :=
  ⟨h.blk, h.repair, h.works, h.flds.mono hc⟩

theorem kept_setErrq (cs : List Nat) (s : State) (q : LevelInst) (v : ErrQ) : Kept cs s (s.setErrq q v) :=
  ⟨fun _ => rfl, rfl, rfl, FldsBut.of_regs rfl⟩

theorem kept_setFld {cs : List Nat} (s : State) (f : Fld) (i v j : Nat) (h : f.code ∈ cs) : Kept cs s (s.setFld f i v j) :=
  ⟨fun _ => rfl, rfl, rfl, fldsBut_setFld s f i v j h⟩

theorem StoresOnly.kept {s t : State} (h : StoresOnly s t) : Kept storeFlds s t := ⟨h.blk, h.repair, h.works, h.flds⟩

section
variable {cs : List Nat} {s t : State} (h : Kept cs s t) (b : Nat)
include h
theorem Kept.gone : (t.blk b).gone = (s.blk b).gone := (congrArg Blk.gone (h.blk b) :)
theorem Kept.retiring : (t.blk b).retiring = (s.blk b).retiring := (congrArg Blk.retiring (h.blk b) :)
theorem Kept.slotStopped (n : Option Nat) : (t.blk b).slotStopped n = (s.blk b).slotStopped n :=
  (congrArg (Blk.slotStopped · n) (h.blk b) :)
end

/-- A record enters a queue with room (R531). -/
structure Entered (q : LevelInst) (e : ErrRec) (s t : State) : Prop where
  kept : Kept storeFlds s t
  execs : SameExecs s t
  queue : (t.errq q).recs = (s.errq q).recs ++ [e] ∧ (t.errq q).cur = (s.errq q).cur ∧ (t.errq q).await = (s.errq q).await
  other : ∀ p : LevelInst, p.code ≠ q.code → t.errq p = s.errq p

/-- A record as a queue takes it in. -/
def ErrRec.placed (e : ErrRec) (q : LevelInst) (g : ErrQ) : ErrRec := { e with level := q.level, qslot := g.freeSlot }

theorem State.errq_setErrq_ne (s : State) {p q : LevelInst} (v : ErrQ) (h : p.code ≠ q.code) : (s.setErrq q v).errq p = s.errq p :=
  Tbl.get_set_other s.errs {} {} v h

theorem enterQueue_entered {q : LevelInst} (hq : q ≠ .chip) (s : State) (e : ErrRec) :
    Entered q (e.placed q (s.errq q)) s (s.enterQueue q e) := by
  have h := ringPut_storesOnly (s.setErrq q { s.errq q with recs := (s.errq q).recs ++ [e.placed q (s.errq q)] })
    (e.placed q (s.errq q)).logRing (e.placed q (s.errq q)).bytes
  have hs : s.enterQueue q e = (s.setErrq q { s.errq q with recs := (s.errq q).recs ++ [e.placed q (s.errq q)] }).ringPut
      (e.placed q (s.errq q)).logRing (e.placed q (s.errq q)).bytes := by
    unfold State.enterQueue State.iff
    dsimp only
    rw [decide_eq_false hq, Bool.false_and, Bool.false_and, if_neg Bool.false_ne_true]
    rfl
  rw [hs]
  have herrq : ∀ p : LevelInst, (State.ringPut _ (e.placed q (s.errq q)).logRing (e.placed q (s.errq q)).bytes).errq p =
      (s.setErrq q { s.errq q with recs := (s.errq q).recs ++ [e.placed q (s.errq q)] }).errq p := fun p => by
    rw [State.errq, h.errs]
    rfl
  refine ⟨(kept_setErrq _ s q _).trans h.kept, h.exe, ?_, fun p hp => (herrq p).trans (State.errq_setErrq_ne s _ hp)⟩
  rw [herrq, State.errq_setErrq_same]
  exact ⟨rfl, rfl, rfl⟩

theorem enqueue_entered {q : LevelInst} (hq : q ≠ .chip) {s : State} (hr : (s.errq q).recs.length < 64) (n : Nat) (e : ErrRec) :
    Entered q (e.placed q (s.errq q)) s (State.enqueue (n + 1) s q e) := by
  rw [State.enqueue, if_pos hr]
  exact enterQueue_entered hq s e

/-- A record raised at a queue with room (R531, R532). -/
theorem raise_entered {q : LevelInst} (hq : q ≠ .chip) {s : State} (hr : (s.errq q).recs.length < 64)
    (cause status detail sev addr req info : Nat) :
    ∃ e : ErrRec, e.cause = cause ∧ e.inst = q.inst ∧
      Entered q e s (s.raise q cause status detail sev (addr := addr) (req := req) (info := info)) := by
  unfold State.raise
  extract_lets g r e
  obtain ⟨hk, hx, hqu, ho⟩ := enqueue_entered hq (s := s.setErrq q { g with written := g.written + 1 })
    (by rw [State.errq_setErrq_same]; exact hr) 3 e
  rw [State.errq_setErrq_same] at hqu
  exact ⟨_, rfl, rfl, (kept_setErrq _ s q _).trans hk, hx, hqu, fun p hp => (ho p hp).trans (State.errq_setErrq_ne s _ hp)⟩

end Sys2Proof.Machine
end

section
/-! SUPPORT. The retirement of a cell, from the fault to the spare's self-test (R194, R195, R199), and the proof of O22. -/

namespace Sys2Proof.Machine

theorem failTeam_storesOnly (s : State) (c : Cell) : StoresOnly s (s.failTeam c) := by
  unfold State.failTeam
  split
  · split
    · exact StoresOnly.of_frame rfl (FldsBut.of_regs rfl)
    · exact StoresOnly.refl s
  · exact StoresOnly.refl s

theorem kept_setExe (cs : List Nat) (s : State) (x : Executor) (e : Exec) : Kept cs s (s.setExe x e) :=
  ⟨fun _ => rfl, rfl, rfl, FldsBut.of_regs rfl⟩

/-- The tiles a cell has in flight are abandoned (R195). -/
theorem abandonTiles_facts (s : State) (c : Cell) :
    Kept storeFlds s (s.abandonTiles c) ∧ (s.abandonTiles c).errs = s.errs ∧ ((s.abandonTiles c).exe (.cell c)).flights = [] := by
  unfold State.abandonTiles
  extract_lets s1 s2 e s3 s4
  have h1 : StoresOnly s s1 := storesOnly_foldl (fun t p => ringPut_storesOnly t _ _) _ s
  have h2 : StoresOnly s1 s2 := failTeam_storesOnly s1 c
  have h3 : StoresOnly s2 s3 := by
    refine storesOnly_foldl (fun t f => ?_) _ s2
    split
    · exact setCoh_storesOnly t _
    · exact StoresOnly.refl t
  have h4 : StoresOnly s3 s4 := by
    unfold s4
    split
    · split
      · exact ringPut_storesOnly s3 _ _
      · exact StoresOnly.refl s3
    · exact StoresOnly.refl s3
  have h := ((h1.trans h2).trans h3).trans h4
  clear_value s4
  refine ⟨h.kept.trans (kept_setExe _ s4 _ _), h.errs, ?_⟩
  rw [State.exe_setExe_same]

/-- The position a slot is mapped to stands while BLK_MAP does. -/
theorem posOf_of_flds {s t : State} {cs : List Nat} (h : FldsBut cs s t) (hc : ∀ f ∈ [Fld.BLK_MAP_POS0, .BLK_MAP_POS1, .BLK_MAP_POS2, .BLK_MAP_POS3],
    f.code ∉ cs) (b slot : Nat) : t.posOf b slot = s.posOf b slot := by
  unfold State.posOf
  dsimp only
  refine h _ _ _ (hc _ ?_)
  split
  · simp
  · split
    · simp
    · split <;> simp

/-- The numbers of the register fields a retirement's beginning may change. -/
def retireFlds : List Nat := [Fld.BLK_SPARE_RETIRED.code, Fld.RSL_CNT_ESC.code] ++ storeFlds

/-- A slot's retirement has begun: its spare is in self-test (R195, steps 1 to 4). -/
structure Begun (b : Block) (slot pos cause : Nat) (s t : State) : Prop where
  retiring : (t.blk b).retiring = some ⟨slot, pos, cause, .selfTest⟩
  gone : (t.blk b).gone = (s.blk b).gone
  marked : (t.fld .BLK_SPARE_RETIRED b).testBit pos = true
  repaired : t.repair.retired = s.repair.retired ++ [(b.val, pos)]
  flights : (t.exe (.cell (Block.cell b (Fin.ofNat 16 slot)))).flights = []
  flds : FldsBut retireFlds s t

/-- What the beginning of a retirement asks of a block: the slot is neither retired nor waiting, nothing else is, the position is one
of the 17, and there is a spare (R195, R199). -/
structure CanRetire (b : Block) (slot : Nat) (s : State) : Prop where
  gone : (s.blk b).gone.contains slot = false
  free : (s.blk b).slotStopped (some slot) = false
  idle : (s.blk b).retiring = none
  pos : s.posOf b slot < 17
  spare : s.fld .BLK_SPARE_SPARE b ≠ 0x1F

theorem CanRetire.of_kept {b : Block} {slot : Nat} {s t : State} (h : CanRetire b slot s) (k : Kept retireFlds s t) : CanRetire b slot t :=
  ⟨by rw [k.gone]; exact h.gone, by rw [k.slotStopped]; exact h.free, by rw [k.retiring]; exact h.idle,
    by rw [posOf_of_flds k.flds (by decide)]; exact h.pos, by rw [k.flds _ _ _ (by decide)]; exact h.spare⟩

/-- A marked position's bit is set (R195). -/
theorem marked_testBit {old pos : Nat} (h : pos < 17) : (Nat.lor old (Nat.pow 2 pos) % 2 ^ Fld.BLK_SPARE_RETIRED.width).testBit pos = true := by
  have hw : Fld.BLK_SPARE_RETIRED.width = 17 := rfl
  have hor : (old ||| 2 ^ pos).testBit pos = true := by
    rw [Nat.testBit_or, Nat.testBit_two_pow_self, Bool.or_true]
  rw [hw, Nat.testBit_mod_two_pow, decide_eq_true h, Bool.true_and]
  exact hor

section
variable (s : State) (b : Block) (pos : Nat)
@[simp] theorem markRetired_blk (k : Nat) : (s.markRetired b pos).blk k = s.blk k := rfl
@[simp] theorem markRetired_errq (q : LevelInst) : (s.markRetired b pos).errq q = s.errq q := rfl
@[simp] theorem markRetired_exe (x : Executor) : (s.markRetired b pos).exe x = s.exe x := rfl
@[simp] theorem markRetired_retired : (s.markRetired b pos).repair.retired = s.repair.retired ++ [(b.val, pos)] := rfl
theorem markRetired_flds : FldsBut [Fld.BLK_SPARE_RETIRED.code] s (s.markRetired b pos) :=
  fldsBut_setFld s .BLK_SPARE_RETIRED b.val _ 0 List.mem_cons_self
theorem markRetired_marks (h : pos < 17) : ((s.markRetired b pos).fld .BLK_SPARE_RETIRED b).testBit pos = true := by
  have hf : (s.markRetired b pos).fld .BLK_SPARE_RETIRED b =
      Nat.lor (s.fld .BLK_SPARE_RETIRED b.val) (Nat.pow 2 pos) % 2 ^ Fld.BLK_SPARE_RETIRED.width := State.fld_setFld_same s _ _ _ _
  rw [hf, marked_testBit h]
end

/-- The tiles of a slot are abandoned and its position is marked (R195, steps 1 to 3). -/
structure Marked (b : Block) (slot pos : Nat) (s t : State) : Prop where
  blk : ∀ k, (t.blk k).still = (s.blk k).still
  queue : t.errq (.block b) = s.errq (.block b)
  flights : (t.exe (.cell (Block.cell b (Fin.ofNat 16 slot)))).flights = []
  repaired : t.repair.retired = s.repair.retired ++ [(b.val, pos)]
  marked : (t.fld .BLK_SPARE_RETIRED b).testBit pos = true
  flds : FldsBut retireFlds s t

theorem abandoned_marked {b : Block} {slot pos : Nat} (s : State) (h : pos < 17) :
    Marked b slot pos s ((s.abandonTiles (Block.cell b (Fin.ofNat 16 slot))).markRetired b pos) := by
  obtain ⟨hkept, herrs, hflights⟩ := abandonTiles_facts s (Block.cell b (Fin.ofNat 16 slot))
  refine ⟨fun k => ?_, ?_, ?_, ?_, markRetired_marks _ b pos h,
    (hkept.flds.mono (fun _ hc => List.mem_append_right _ hc)).trans ((markRetired_flds _ b pos).mono (by decide))⟩
  · rw [markRetired_blk]
    exact hkept.blk k
  · rw [markRetired_errq, State.errq, herrs]
    rfl
  · rw [markRetired_exe]
    exact hflights
  · rw [markRetired_retired, hkept.repair]

/-- A retirement that can begin begins (R195). -/
theorem beginRetire_begun {b : Block} {slot : Nat} {s : State} (h : CanRetire b slot s) (cause : Nat)
    (hq : (s.errq (.block b)).recs.length < 64) : Begun b slot (s.posOf b slot) cause s (s.beginRetire b slot cause) := by
  obtain ⟨hmblk, hmq, hmfl, hmrep, hmarked, hmflds⟩ := abandoned_marked (b := b) (slot := slot) s h.pos
  unfold State.beginRetire
  dsimp only
  rw [h.gone, h.free, Bool.or_false, if_neg Bool.false_ne_true, h.idle]
  simp only [Option.isSome_none, Bool.false_eq_true, if_false]
  generalize (s.abandonTiles (Block.cell b (Fin.ofNat 16 slot))).markRetired b (s.posOf b slot) = m at hmblk hmq hmfl hmrep hmarked hmflds ⊢
  rw [← hmq] at hq
  obtain ⟨e, -, -, hin⟩ := raise_entered (q := .block b) (by simp) hq 0x10 0xC0 0x04 0 0 b.val (slot + 256 * s.posOf b slot + 65536 * cause)
  generalize m.raise (.block b) 0x10 0xC0 0x04 0 (req := b.val) (info := slot + 256 * s.posOf b slot + 65536 * cause) = u at hin ⊢
  have huflds : FldsBut retireFlds s u := hmflds.trans (hin.kept.flds.mono (fun _ hc => List.mem_append_right _ hc))
  have hspare : u.fld .BLK_SPARE_SPARE b.val ≠ 0x1F := by
    rw [huflds _ _ _ (by decide)]
    exact h.spare
  rw [State.settleSpare, if_neg hspare]
  dsimp only
  rw [posOf_of_flds huflds (by decide)]
  refine ⟨by rw [State.blk_setBlk_same], ?_, ?_, ?_, ?_, huflds⟩
  · rw [State.blk_setBlk_same]
    exact (hin.kept.gone b).trans (congrArg Blk.gone (hmblk b) :)
  · rw [State.setBlk_get_fld, hin.kept.flds _ _ _ (by decide)]
    exact hmarked
  · rw [State.setBlk_repair, hin.kept.repair]
    exact hmrep
  · rw [State.setBlk_get_exe]
    exact (congrArg Exec.flights (hin.execs _) :).trans hmfl

end Sys2Proof.Machine
end

section
/-! SUPPORT. A cell's fault climbs to its block, whose handler retires the cell (R194, R534, R536, R539). -/

namespace Sys2Proof.Machine

/-- A queue that holds one record, of which nothing is being done. -/
structure Lone (s : State) (q : LevelInst) (e : ErrRec) : Prop where
  recs : (s.errq q).recs = [e]
  cur : (s.errq q).cur = []
  await : (s.errq q).await = []

theorem Lone.best {s : State} {q : LevelInst} {e : ErrRec} (h : Lone s q e) : (s.errq q).best = some e := by
  simp [ErrQ.best, h.recs, h.cur, h.await]

/-- The record entered into a quiet queue is alone there. -/
theorem Entered.lone {q : LevelInst} {e : ErrRec} {s t : State} (h : Entered q e s t) (hq : QuietAt s q) : Lone t q e := by
  obtain ⟨hr, hc, ha⟩ := h.queue
  obtain ⟨kr, kc, ka⟩ := hq
  exact ⟨by rw [hr, kr]; rfl, hc.trans kc, ha.trans ka⟩

/-- The queues of a cell and its block are apart. -/
theorem block_code_ne_cell (b : Block) (c : Cell) : (LevelInst.block b).code ≠ (LevelInst.cell c).code := by
  show 1536 + b.val ≠ c.val
  omega

/-- A cell's lone record, resolved above, goes up to its block (R536). -/
theorem handlerTake_cell {s : State} {c : Cell} {e : ErrRec} (h : Lone s (.cell c) e) (hq : QuietAt s (.block c.block))
    (hc : 0 < causeLevel e.cause) :
    ∃ o : ErrRec, o.cause = e.cause ∧ o.inst = e.inst ∧ Lone (s.handlerTake (.cell c)) (.block c.block) o ∧
      Kept retireFlds s (s.handlerTake (.cell c)) ∧ SameExecs s (s.handlerTake (.cell c)) := by
  have hat : (s.errq (.cell c)).at e.qslot = some e := by simp [ErrQ.at, h.recs]
  have hup : s.handlerTake (.cell c) = State.enqueue 4 ((s.dequeue (.cell c) e.qslot).bump .RSL_CNT_ESC 0) (.block c.block) { e with esc := 1 } := by
    unfold State.handlerTake
    dsimp only
    rw [h.best, h.cur]
    simp only [List.isEmpty_nil, Bool.not_true, Bool.false_and, State.iff, Bool.false_eq_true, if_false, LevelInst.level, hc, if_true]
    unfold State.escalate
    rw [hat]
    rfl
  have hdq : ∀ p : LevelInst, p.code ≠ (LevelInst.cell c).code →
      ((s.dequeue (.cell c) e.qslot).bump .RSL_CNT_ESC 0).errq p = s.errq p := fun p hp => State.errq_setErrq_ne s _ hp
  have hblock := hdq _ (block_code_ne_cell c.block c)
  have hroom : (((s.dequeue (.cell c) e.qslot).bump .RSL_CNT_ESC 0).errq (.block c.block)).recs.length < 64 := by
    rw [hblock, hq.1]
    decide
  have hin := enqueue_entered (q := .block c.block) (by simp) hroom 3 { e with esc := 1 }
  rw [← hup] at hin
  refine ⟨ErrRec.placed { e with esc := 1 } (.block c.block) _, rfl, rfl, hin.lone (by rw [QuietAt, hblock]; exact hq), ?_, hin.execs⟩
  have hbump : Kept retireFlds s ((s.dequeue (.cell c) e.qslot).bump .RSL_CNT_ESC 0) :=
    (kept_setErrq retireFlds s (.cell c) _).trans (kept_setFld (s.dequeue (.cell c) e.qslot) .RSL_CNT_ESC 0 _ 0 (by decide))
  exact hbump.trans (hin.kept.mono (fun _ hc => List.mem_append_right _ hc))

/-- A block's free handler takes its lone record of a cell's fault and retires the cell (R194, R539). -/
theorem handlerTake_block {s : State} {b : Block} {e : ErrRec} (h : Lone s (.block b) e) (hc : e.cause ≤ 3) (hl : causeLevel e.cause ≤ 1) :
    ∃ g : ErrQ, g.recs.length = 1 ∧ s.handlerTake (.block b) = (s.setErrq (.block b) g).beginRetire b (e.inst % 16) e.cause := by
  unfold State.handlerTake
  dsimp only
  rw [h.best, h.cur, h.recs]
  simp only [List.isEmpty_nil, Bool.not_true, Bool.false_and, State.iff, Bool.false_eq_true, if_false, LevelInst.level,
    if_neg (Nat.not_lt.mpr hl), if_pos hc]
  exact ⟨_, List.length_map _, rfl⟩

/-- The beginning of a retirement from a state in which everything it needs is as before. -/
theorem Begun.of_kept {b : Block} {slot pos cause : Nat} {s t u : State} (k : Kept retireFlds s t) (h : Begun b slot pos cause t u) :
    Begun b slot pos cause s u :=
  ⟨h.retiring, h.gone.trans (k.gone b), h.marked, by rw [h.repaired, k.repair], h.flights, k.flds.trans h.flds⟩

/-- A cell's fault with quiet queues begins the cell's retirement (R194, R195). -/
theorem cellFault_begun {s : State} {c : Cell} {cause : Nat} (h : CanRetire c.block c.slot s) (hqc : QuietAt s (.cell c))
    (hqb : QuietAt s (.block c.block)) (h0 : 0 < cause) (h3 : cause ≤ 3) (status detail addr : Nat) :
    Begun c.block c.slot (s.posOf c.block c.slot) cause s (s.cellFault c cause status detail addr) := by
  have hlevel : causeLevel cause = 1 := by
    have : cause = 1 ∨ cause = 2 ∨ cause = 3 := by omega
    rcases this with rfl | rfl | rfl <;> rfl
  obtain ⟨e, hcause, hinst, hin⟩ := raise_entered (q := .cell c) (by simp) (s := s) (by rw [hqc.1]; decide) cause status detail 2 addr
    c.block.val (s.posOf c.block c.slot)
  unfold State.cellFault
  dsimp only
  generalize s.raise (.cell c) cause status detail 2 (addr := addr) (req := c.block.val) (info := s.posOf c.block c.slot) = r at hin ⊢
  have hqb' : QuietAt r (.block c.block) := by
    rw [QuietAt, hin.other _ (block_code_ne_cell c.block c)]
    exact hqb
  obtain ⟨o, hocause, hoinst, hlone, hkept, -⟩ := handlerTake_cell (hin.lone hqc) hqb' (by rw [hcause, hlevel]; decide)
  have hkr : Kept retireFlds s r := hin.kept.mono (fun _ hc => List.mem_append_right _ hc)
  obtain ⟨g, hg, htake⟩ := handlerTake_block hlone (by rw [hocause, hcause]; exact h3) (by rw [hocause, hcause, hlevel])
  have hku := (hkr.trans hkept).trans (kept_setErrq retireFlds (r.handlerTake (.cell c)) (.block c.block) g)
  have hslot : o.inst % 16 = c.slot := by rw [hoinst, hinst]; rfl
  rw [htake, hslot, hocause, hcause]
  have hb := beginRetire_begun (h.of_kept hku) cause (by rw [State.errq_setErrq_same, hg]; decide)
  rw [posOf_of_flds hku.flds (by decide)] at hb
  exact hb.of_kept hku

/-! ## The commands -/

/-- A slot retired without replacement has no cell that fails (R199). -/
theorem gone_fails_nothing {c : Cell} {s : State} (h : (s.blk c.block).gone.contains c.slot = true) :
    (∀ (src : CheckSrc) (a : Nat), exec (.cellCheckFailure c src a true) s = .next s) ∧ exec (.cellParityError c) s = .next s ∧
      ∀ errs : Nat, exec (.ceLimitReached ⟨c, errs⟩) s = .next s := by
  have hg : s.cellGone c = true := h
  refine ⟨fun src a => ?_, ?_, fun errs => ?_⟩
  · show execCellCheckFailure c src a true s = _
    unfold execCellCheckFailure
    rw [hg]
    rfl
  · show execCellParityError c s = _
    unfold execCellParityError
    rw [if_pos hg]
  · show execCeLimitReached ⟨c, errs⟩ s = _
    unfold execCeLimitReached
    dsimp only
    rw [if_pos hg]

/-- Losing an entry changes its cell's buffer alone (R195). -/
theorem loseEntry_frame (s : State) (c : Cell) (src : CheckSrc) (n : Nat) :
    s.loseEntry c src n = { s with execs := (s.loseEntry c src n).execs } := by
  cases src <;> rfl

/-- A failed check whose retry fails too is counted and is the cell's fault (R194). -/
theorem cellCheckFailure_next {c : Cell} {s : State} (h : (s.blk c.block).gone.contains c.slot = false) (src : CheckSrc) (a : Nat) :
    exec (.cellCheckFailure c src a true) s = .next (((s.loseEntry c src a).bumpSat .CEL_ECC_UE
      (physCell c.block (s.posOf c.block c.slot))).cellFault c 0x01 0xC0 0x01 a) := by
  have hg : s.cellGone c = false := h
  show execCellCheckFailure c src a true s = _
  unfold execCellCheckFailure
  rw [hg]
  simp only [Bool.not_false, Bool.and_self, if_true]
  rw [loseEntry_frame]
  rfl

/-- A parity error is counted and is the cell's fault (R194). -/
theorem cellParityError_next {c : Cell} {s : State} (h : (s.blk c.block).gone.contains c.slot = false) :
    exec (.cellParityError c) s = .next ((s.bumpSat .CEL_ECC_PARITY
      (physCell c.block (s.posOf c.block c.slot))).cellFault c 0x02 0xC0 0x01 0) := by
  have hg : s.cellGone c = false := h
  show execCellParityError c s = _
  unfold execCellParityError
  rw [if_neg (by rw [hg]; decide)]

/-- The corrected errors of the window a cell is in (R194). -/
def State.windowCount (s : State) (c : Cell) (errs : Nat) : Nat :=
  (if (Tbl.get s.repair.window (0, 0) (physCell c.block (s.posOf c.block c.slot))).1 = s.fclk c.region / 2 ^ 31 then
    (Tbl.get s.repair.window (0, 0) (physCell c.block (s.posOf c.block c.slot))).2 else 0) + errs

/-- Corrected errors counted at a cell's position and in its window (R194). -/
def State.countCe (s : State) (c : Cell) (errs : Nat) : State :=
  let n := physCell c.block (s.posOf c.block c.slot)
  let w := Tbl.set s.repair.window (0, 0) n (s.fclk c.region / 2 ^ 31, s.windowCount c errs)
  State.bump { s with repair := { s.repair with window := w } } .CEL_ECC_CE n errs

theorem ceLimitReached_next {c : Cell} {s : State} (h : (s.blk c.block).gone.contains c.slot = false) (errs : Nat) :
    exec (.ceLimitReached ⟨c, errs⟩) s = .next (if s.fld .BLK_RTHR_CE_LIM c.block ≠ 0 ∧ s.fld .BLK_RTHR_CE_LIM c.block ≤ s.windowCount c errs then
      (s.countCe c errs).cellFault c 0x03 0 0 0 else s.countCe c errs) := by
  have hg : s.cellGone c = false := h
  show execCeLimitReached ⟨c, errs⟩ s = _
  unfold execCeLimitReached
  dsimp only
  rw [if_neg (by rw [hg]; decide)]
  rfl

/-- A write of BLK_RETIRE by whom it is meant for (R194, R201). -/
theorem blkRetire_selected {who : Bank} {v : W32} {b : Block} {s : State} (h : (s.otherAccess who).selBlk who = some b) :
    exec (.blkRetire who v) s = .next (if mayControl who b.region then (s.otherAccess who).writeBlkRetire b v.toNat else s.otherAccess who) := by
  show execBlkRetire who v s = _
  unfold execBlkRetire
  dsimp only
  rw [h]

/-- What a fault needs that quiet queues and a spare give, however the fault was counted. -/
theorem CanRetire.counted {b : Block} {slot : Nat} {s t : State} (h : CanRetire b slot s) (hb : t.blks = s.blks)
    (hf : FldsBut [Fld.CEL_ECC_UE.code, Fld.CEL_ECC_PARITY.code, Fld.CEL_ECC_CE.code] s t) : CanRetire b slot t := by
  have hblk : t.blk b = s.blk b := by rw [State.blk, State.blk, hb]
  exact ⟨by rw [hblk]; exact h.gone, by rw [hblk]; exact h.free, by rw [hblk]; exact h.idle,
    by rw [posOf_of_flds hf (by decide)]; exact h.pos, by rw [hf _ _ _ (by decide)]; exact h.spare⟩

/-- A counted fault begins the retirement of its cell, and its count stands (R194, R195). -/
theorem counted_begun {c : Cell} {cause : Nat} {s t : State} (h : CanRetire c.block c.slot s) (hqc : QuietAt s (.cell c))
    (hqb : QuietAt s (.block c.block)) (hb : t.blks = s.blks) (he : t.errs = s.errs) (hr : t.repair.retired = s.repair.retired)
    (hf : FldsBut [Fld.CEL_ECC_UE.code, Fld.CEL_ECC_PARITY.code, Fld.CEL_ECC_CE.code] s t) (h0 : 0 < cause) (h3 : cause ≤ 3)
    (status detail addr : Nat) :
    ((t.cellFault c cause status detail addr).blk c.block).retiring = some ⟨c.slot, s.posOf c.block c.slot, cause, .selfTest⟩ ∧
    ((t.cellFault c cause status detail addr).blk c.block).gone = (s.blk c.block).gone ∧
    ((t.cellFault c cause status detail addr).fld .BLK_SPARE_RETIRED c.block).testBit (s.posOf c.block c.slot) = true ∧
    (t.cellFault c cause status detail addr).repair.retired = s.repair.retired ++ [(c.block.val, s.posOf c.block c.slot)] ∧
    ((t.cellFault c cause status detail addr).exe (.cell c)).flights = [] ∧
    FldsBut retireFlds t (t.cellFault c cause status detail addr) := by
  have herrq : ∀ q, t.errq q = s.errq q := fun q => by rw [State.errq, State.errq, he]
  have hpos : t.posOf c.block c.slot = s.posOf c.block c.slot := posOf_of_flds hf (by decide) _ _
  have hcell : Block.cell c.block (Fin.ofNat 16 c.slot) = c := by
    apply Fin.ext
    show c.val / 16 * 16 + c.val % 16 % 16 = c.val
    omega
  obtain ⟨hret, hgone, hmark, hrep, hfl, hflds⟩ := cellFault_begun (h.counted hb hf) (by rw [QuietAt, herrq]; exact hqc)
    (by rw [QuietAt, herrq]; exact hqb) h0 h3 status detail addr
  rw [hpos] at hret hmark hrep
  rw [hcell] at hfl
  refine ⟨hret, hgone.trans ?_, hmark, hrep.trans (by rw [hr]), hfl, hflds⟩
  rw [State.blk, State.blk, hb]

theorem countCe_flds (s : State) (c : Cell) (errs : Nat) :
    FldsBut [Fld.CEL_ECC_UE.code, Fld.CEL_ECC_PARITY.code, Fld.CEL_ECC_CE.code] s (s.countCe c errs) :=
  fldsBut_setFld (cs := [Fld.CEL_ECC_UE.code, Fld.CEL_ECC_PARITY.code, Fld.CEL_ECC_CE.code]) s .CEL_ECC_CE _ _ 0 (by decide)

/-- A counting field that saturates, once counted. -/
theorem fld_bumpSat (s : State) (f : Fld) (i : Nat) : (s.bumpSat f i).fld f i = min (s.fld f i + 1) (2 ^ f.width - 1) := by
  rw [State.bumpSat, State.fld_setFld_same]
  have := Nat.two_pow_pos f.width
  exact Nat.mod_eq_of_lt (by omega)

theorem writeBlkRetire_eq (s : State) (b : Block) (v : Nat) : s.writeBlkRetire b v =
    if bitOf v 31 then (s.setFld .BLK_RETIRE_SLOT b (v % 16)).beginRetire b (v % 16) 0 else s.setFld .BLK_RETIRE_SLOT b (v % 16) := rfl

/-- A bit of a 32-bit register value is that bit of the number. -/
theorem bitOf_eq_getLsbD (v : W32) (i : Nat) : bitOf v.toNat i = v.getLsbD i := rfl

/-- Settles O22: each kind of fault is counted and then climbs, alone, to the block that begins the retirement. -/
theorem cellFaultsRetireTheirCell : Obligations.CellFaultsRetireTheirCell := by
  refine ⟨fun c src a s => rfl, fun c src a s hg => ?_, fun c errs s hg hlim => ?_, fun c src a s hg hst hret hqc hqb hpos hsp => ?_,
    fun who v b s hsel => ⟨fun hno => ?_, fun hmay hgo => ?_, fun hmay hgo hg hst hret hq hpos hsp => ?_⟩⟩
  · obtain ⟨hcheck, hparity, hce⟩ := gone_fails_nothing hg
    exact ⟨hcheck src a, hparity, hce⟩
  · have hx := ceLimitReached_next hg errs
    rw [if_neg (fun h => hlim.elim h.1 (fun hlt => absurd h.2 (Nat.not_le.mpr hlt)))] at hx
    refine ⟨_, hx, ?_, State.fld_setFld_same _ .CEL_ECC_CE _ _ 0, fun k hk => ?_, rfl⟩
    · exact Tbl.get_set_same s.repair.window (0, 0) _ _
    · exact State.regs_setFld_other _ _ (fun e => hk (e ▸ List.mem_cons_self))
  · have hcan : CanRetire c.block c.slot s := ⟨hg, hst, hret, hpos, hsp⟩
    refine ⟨?_, ?_, fun errs h0 hle => ?_⟩
    · have hl := loseEntry_frame s c src a
      obtain ⟨hr, hgone, hm, hrep, hfl, hflds⟩ := counted_begun (cause := 1) (t := (s.loseEntry c src a).bumpSat .CEL_ECC_UE
          (physCell c.block (s.posOf c.block c.slot))) hcan hqc hqb (by rw [hl]; rfl) (by rw [hl]; rfl) (by rw [hl]; rfl)
        (FldsBut.trans (t := s.loseEntry c src a) (FldsBut.of_regs (by rw [hl])) (fldsBut_setFld _ _ _ _ _ (by decide))) (by decide) (by decide) 0xC0 0x01 a
      refine ⟨_, cellCheckFailure_next hg src a, ⟨hr, hgone, hm, hrep, hfl⟩, ?_⟩
      rw [hflds _ _ _ (by decide), fld_bumpSat, hl]
      rfl
    · obtain ⟨hr, hgone, hm, hrep, hfl, hflds⟩ := counted_begun (cause := 2) (t := s.bumpSat .CEL_ECC_PARITY
          (physCell c.block (s.posOf c.block c.slot))) hcan hqc hqb rfl rfl rfl (fldsBut_setFld _ _ _ _ _ (by decide)) (by decide) (by decide) 0xC0 0x01 0
      refine ⟨_, cellParityError_next hg, ⟨hr, hgone, hm, hrep, hfl⟩, ?_⟩
      rw [hflds _ _ _ (by decide), fld_bumpSat]
    · have hx := ceLimitReached_next hg errs
      rw [if_pos ⟨h0, hle⟩] at hx
      obtain ⟨hr, hgone, hm, hrep, hfl, hflds⟩ := counted_begun (cause := 3) (t := s.countCe c errs) hcan hqc hqb rfl rfl rfl
        (countCe_flds s c errs) (by decide) (by decide) 0 0 0
      refine ⟨_, hx, ⟨hr, hgone, hm, hrep, hfl⟩, ?_⟩
      rw [hflds _ _ _ (by decide)]
      exact State.fld_setFld_same _ .CEL_ECC_CE _ _ 0
  · rw [blkRetire_selected hsel, if_neg (by rw [hno]; decide)]
  · refine ⟨(s.otherAccess who).setFld .BLK_RETIRE_SLOT b (v.toNat % 16), ?_, ?_, fun k hk => ?_, rfl⟩
    · rw [blkRetire_selected hsel, if_pos hmay, writeBlkRetire_eq, bitOf_eq_getLsbD, hgo]
      rfl
    · exact (State.fld_setFld_same _ .BLK_RETIRE_SLOT _ _ 0).trans (Nat.mod_mod _ 16)
    · exact State.regs_setFld_other _ _ (fun e => hk (e ▸ List.mem_cons_self))
  · have hx : exec (.blkRetire who v) s = .next (((s.otherAccess who).setFld .BLK_RETIRE_SLOT b (v.toNat % 16)).beginRetire b (v.toNat % 16) 0) := by
      rw [blkRetire_selected hsel, if_pos hmay, writeBlkRetire_eq, bitOf_eq_getLsbD, hgo]
      rfl
    have hslot : FldsBut [Fld.BLK_RETIRE_SLOT.code] (s.otherAccess who) ((s.otherAccess who).setFld .BLK_RETIRE_SLOT b (v.toNat % 16)) :=
      fldsBut_setFld _ _ _ _ _ List.mem_cons_self
    have hcan : CanRetire b (v.toNat % 16) ((s.otherAccess who).setFld .BLK_RETIRE_SLOT b (v.toNat % 16)) := by
      refine ⟨?_, ?_, ?_, by rw [posOf_of_flds hslot (by decide)]; exact hpos, by rw [hslot _ _ _ (by decide)]; exact hsp⟩ <;>
        rw [State.setFld_get_blk, otherAccess_blk] <;> assumption
    have hb := beginRetire_begun hcan 0 (by
      rw [State.setFld_get_errq, State.errq, otherAccess_errs]
      exact (congrArg List.length hq.1).trans_lt (by decide))
    rw [posOf_of_flds hslot (by decide)] at hb
    refine ⟨_, hx, ?_, hb.retiring⟩
    rw [hb.flds _ _ _ (by decide)]
    exact (State.fld_setFld_same _ .BLK_RETIRE_SLOT _ _ 0).trans (Nat.mod_mod _ 16)

end Sys2Proof.Machine
end

section
/-! SUPPORT. What fetching an instruction changes (R25, R202), and what a record that climbs to the chip leaves of the executors
(R209, R536, R540, R542). -/

namespace Sys2Proof.Machine

/-! ## Fetching -/

theorem decodeLine_wakesOnly (s : State) (cls line : Nat) : WakesOnly s (s.decodeLine cls line) := by
  unfold State.decodeLine
  split
  · exact WakesOnly.refl s
  · unfold State.decodeFar
    dsimp only
    split
    · exact WakesOnly.refl s
    · exact (trafficOnly_foldl (fun s res => ask_traffic s _ cls _ res) _ s).wakesOnly.trans rfl

/-- The registers but the power states of blocks are as before. -/
def BlkStatesOnly (s t : State) : Prop := ∀ k, ¬ IsBlkState k → Tbl.find? t.regs k = Tbl.find? s.regs k

theorem BlkStatesOnly.of_regs {s t : State} (h : t.regs = s.regs) : BlkStatesOnly s t := fun k _ => by rw [h]

theorem BlkStatesOnly.trans {s t u : State} (h : BlkStatesOnly s t) (k : BlkStatesOnly t u) : BlkStatesOnly s u :=
  fun j hj => (k j hj).trans (h j hj)

theorem decodeLine_regs (s : State) (cls line : Nat) : (s.decodeLine cls line).regs = s.regs := by
  unfold State.decodeLine
  split
  · rfl
  · unfold State.decodeFar
    dsimp only
    split
    · rfl
    · exact (trafficOnly_foldl (fun s res => ask_traffic s _ cls _ res) _ s).regs

theorem snoopRead_regs (s : State) (cls line : Nat) : BlkStatesOnly s (s.snoopRead cls line) := by
  unfold State.snoopRead
  split
  · exact BlkStatesOnly.of_regs rfl
  · split
    · exact BlkStatesOnly.of_regs rfl
    · exact BlkStatesOnly.trans (rouse_regs s _) (BlkStatesOnly.of_regs (oweSnoop_traffic _ _ _ _ _ _).regs)

/-- Reading a line of instructions costs traffic and wakes whoever gives it (R25, R29, R36). -/
theorem noteLine_frame (s : State) (m : Mover) (cls a : Nat) :
    WakesOnly s (s.noteLine m cls a) ∧ BlkStatesOnly s (s.noteLine m cls a) := by
  have h := haul_traffic s m cls a 64 false
  unfold State.noteLine
  dsimp only
  split
  · exact ⟨h.wakesOnly.trans ((decodeLine_wakesOnly _ _ _).trans (snoopRead_wakesOnly _ _ _)),
      (BlkStatesOnly.of_regs ((decodeLine_regs _ _ _).trans h.regs)).trans (snoopRead_regs _ _ _)⟩
  · exact ⟨h.wakesOnly.trans ((decodeLine_wakesOnly _ _ _).trans (snoopRead_wakesOnly _ _ _)),
      (BlkStatesOnly.of_regs ((decodeLine_regs _ _ _).trans h.regs)).trans (snoopRead_regs _ _ _)⟩
  · exact ⟨h.wakesOnly.trans (rouse_wakesOnly _ _), (BlkStatesOnly.of_regs h.regs).trans (rouse_regs _ _)⟩
  · exact ⟨h.wakesOnly.trans (rouse_wakesOnly _ _), (BlkStatesOnly.of_regs h.regs).trans (rouse_regs _ _)⟩
  · exact ⟨h.wakesOnly, BlkStatesOnly.of_regs h.regs⟩

/-- The address of the line a sequencer's instruction lies in. -/
def State.fetchLine (s : State) (r : Region) : Nat := s.pcOf (.seq r) * 16 / 64 * 64

/-- A sequencer's line is in its instruction cache as memory now has it (R202). -/
def State.lineCached (s : State) (r : Region) : Bool :=
  (s.exe (.seq r)).icache.contains (canonical (s.fetchLine r) / 64, lineOf (s.readBytes (s.fetchLine r) 64).bytes)

theorem nearest_startFclk (s : State) (q r target : Nat) (l : List Nat) : (s.startFclk q).nearest r target l = s.nearest r target l := by
  induction l with
  | nil => rfl
  | cons a t ih => rw [State.nearest, State.nearest, ih]; rfl

theorem readPart_startFclk (s : State) (r a n : Nat) : (s.startFclk r).readPart a n = s.readPart a n := by
  have hline : ∀ l, (s.startFclk r).cohLine l = s.cohLine l := fun l => by
    unfold State.cohLine
    simp only [nearest_startFclk]
    rfl
  unfold State.readPart
  simp only [hline]
  rfl

/-- What memory reads does not depend on which FCLK runs. -/
theorem readBytes_startFclk (s : State) (r a n : Nat) : (s.startFclk r).readBytes a n = s.readBytes a n := by
  unfold State.readBytes
  simp only [readPart_startFclk]

/-- A sequencer's fetch: what reading its line changes, if it is not cached, and then the cache (R25, R202). -/
theorem fetched_seq (s : State) (r : Region) : ∃ (u : State) (l : List (Nat × Line)),
    s.fetched (.seq r) = u.setExe (.seq r) { u.exe (.seq r) with icache := l } ∧ WakesOnly s u ∧ BlkStatesOnly s u ∧
      (s.lineCached r = true → u = s.startFclk r) := by
  refine ⟨(s.startFclk r).iff (!s.lineCached r) (fun s => s.noteLine (seqMover r) 7 (s.fld .SEQ_PC_PC r * 16 / 64 * 64)),
    ((canonical (s.fetchLine r) / 64, lineOf (s.readBytes (s.fetchLine r) 64).bytes) ::
      (s.exe (.seq r)).icache.filter (fun p => p.1 ≠ canonical (s.fetchLine r) / 64)).take 512, ?_, ?_⟩
  · unfold State.fetched
    dsimp only
    rw [readBytes_startFclk]
    rfl
  obtain ⟨hw, hb⟩ := noteLine_frame (s.startFclk r) (seqMover r) 7 ((s.startFclk r).fld .SEQ_PC_PC r * 16 / 64 * 64)
  unfold State.iff
  cases s.lineCached r with
  | true => exact ⟨rfl, BlkStatesOnly.of_regs rfl, fun _ => rfl⟩
  | false => exact ⟨(startFclk_traffic s r).wakesOnly.trans hw, (BlkStatesOnly.of_regs rfl).trans hb, fun h => by cases h⟩

/-- What fetching leaves of the fetching executor, and of all else an instruction's effect depends on. -/
structure Fetched (x : Executor) (s t : State) : Prop where
  exe : ∃ l, t.exe x = { s.exe x with icache := l }
  other : ∀ y, y ≠ x → t.exe y = s.exe y
  mem : t.mem = s.mem
  rings : t.rings = s.rings
  works : t.works = s.works
  regs : BlkStatesOnly s t

theorem fetched_fetched (s : State) (x : Executor) : Fetched x s (s.fetched x) := by
  cases x with
  | cell c => exact ⟨⟨_, rfl⟩, fun _ _ => rfl, rfl, rfl, rfl, BlkStatesOnly.of_regs rfl⟩
  | seq r =>
    obtain ⟨u, l, he, hw, hb, -⟩ := fetched_seq s r
    have hexe : ∀ y, u.exe y = s.exe y := fun y => by rw [State.exe, State.exe, hw.execs]
    rw [he]
    refine ⟨⟨l, by rw [State.exe_setExe_same, hexe]⟩, fun y hy => by rw [State.exe_setExe_other _ _ hy, hexe], hw.mem, hw.rings, hw.works, hb⟩

/-- A field of another register than BLK_PWR is as before. -/
theorem BlkStatesOnly.fld {s t : State} (h : BlkStatesOnly s t) {f : Fld} (hf : f.code ≠ Fld.BLK_PWR_STATE.code) (i j : Nat) :
    t.fld f i j = s.fld f i j :=
  congrArg (Option.getD · f.rst) (h (f.key i j) (fun ⟨_, hb⟩ => hf (Fld.key_eq_iff.mp hb).1))

end Sys2Proof.Machine
end

section
/-! SUPPORT. A record that climbs to a full chip queue fences the device; what that leaves of executors and program counters (R209,
R536, R540, R542). -/

namespace Sys2Proof.Machine

/-- An executor without what a fence and a wake take from it (R311, R542). -/
def Exec.core (e : Exec) : Exec := { e with flights := [], running := false, watch := none }

theorem Exec.core_of_unwatched {e f : Exec} (h : e.unwatched = f.unwatched) : e.core = f.core :=
  congrArg (fun g : Exec => { g with flights := [], running := false }) h

/-- Executors' programs, sequencers' program counters and their work stand. -/
structure CoresKept (s t : State) : Prop where
  core : ∀ x, (t.exe x).core = (s.exe x).core
  works : t.works = s.works
  pc : ∀ r, t.fld .SEQ_PC_PC r = s.fld .SEQ_PC_PC r

theorem CoresKept.refl (s : State) : CoresKept s s := ⟨fun _ => rfl, rfl, fun _ => rfl⟩

theorem CoresKept.trans {s t u : State} (h : CoresKept s t) (k : CoresKept t u) : CoresKept s u :=
  ⟨fun x => (k.core x).trans (h.core x), k.works.trans h.works, fun r => (k.pc r).trans (h.pc r)⟩

theorem coresKept_foldl {α : Type} {g : State → α → State} (h : ∀ s a, CoresKept s (g s a)) (l : List α) (s : State) :
    CoresKept s (l.foldl g s) :=
  foldl_keeps (CoresKept s) g (fun t a ht => ht.trans (h t a)) l (CoresKept.refl s)

theorem StoresOnly.coresKept {s t : State} (h : StoresOnly s t) : CoresKept s t :=
  ⟨fun x => Exec.core_of_unwatched (h.exe x), h.works, fun _ => h.flds _ _ _ (by decide)⟩

theorem coresKept_setFld (s : State) (f : Fld) (i v j : Nat) (h : Fld.SEQ_PC_PC.code ≠ f.code) : CoresKept s (s.setFld f i v j) :=
  ⟨fun _ => rfl, rfl, fun _ => State.fld_setFld_code _ _ h⟩

theorem coresKept_setErrq (s : State) (q : LevelInst) (v : ErrQ) : CoresKept s (s.setErrq q v) := ⟨fun _ => rfl, rfl, fun _ => rfl⟩

/-- What leaves executors, work and registers alone. -/
theorem CoresKept.of_frame {s t : State} (h : t = { t with execs := s.execs, works := s.works, regs := s.regs }) : CoresKept s t := by
  refine ⟨fun x => ?_, ?_, fun r => ?_⟩ <;> rw [h] <;> rfl

theorem chargeFlit_coresKept (s : State) (l : Nat) (f : OutFlit) : CoresKept s (s.chargeFlit l f) := by
  have h0 : TrafficOnly s (s.startFclk (l / 2)) := startFclk_traffic s _
  unfold State.chargeFlit
  dsimp only
  split
  · exact h0.storesOnly.coresKept
  · split
    · exact (h0.trans (owe_traffic _ _ _ _)).storesOnly.coresKept
    · exact (h0.trans (ask_traffic _ _ _ _ _)).storesOnly.coresKept

theorem setLink_coresKept (s : State) (l : Nat) (v : LinkSt) : CoresKept s (s.setLink l v) := CoresKept.of_frame rfl

theorem linkSend_coresKept {s t : State} {l : Nat} {f : OutFlit} (h : s.linkSend l f = some t) : CoresKept s t := by
  unfold State.linkSend at h
  extract_lets k isData cred at h
  split at h
  · obtain rfl := Option.some.inj h
    exact (setLink_coresKept s l _).trans (chargeFlit_coresKept _ l f)
  · cases h

theorem linkPush_coresKept (s : State) (l : Nat) (fs : List OutFlit) : CoresKept s (s.linkPush l fs) := by
  unfold State.linkPush State.linkPump
  dsimp only
  refine ((setLink_coresKept s l _).trans (setLink_coresKept _ l _)).trans (coresKept_foldl (fun t f => ?_) _ _)
  split
  · next u hu => exact linkSend_coresKept hu
  · exact setLink_coresKept t l _

theorem Tbl.find?_map {α β : Type} (t : Tbl α) (f : α → β) (k : Nat) :
    Tbl.find? (t.map (fun p => (p.1, f p.2))) k = (Tbl.find? t k).map f := by
  induction t with
  | nil => rfl
  | cons p t ih =>
    obtain ⟨a, x⟩ := p
    rw [List.map_cons, Tbl.find?, Tbl.find?, ih]
    split <;> rfl

/-- An executor of a fenced device: what it had in flight is gone, and it runs no more (R542). -/
theorem exe_fenceExecs (s : State) (x : Executor) :
    Tbl.get (s.execs.map (fun (p : Nat × Exec) => (p.1, p.2.core))) {} x.code = (s.exe x).core := by
  rw [State.exe, Tbl.get, Tbl.get, Tbl.find?_map]
  cases Tbl.find? s.execs x.code <;> rfl

/-- A fence takes flights, sleeps and running from every executor, and nothing else (R542). -/
theorem fence_coresKept (s : State) (cause : Nat) : CoresKept s (s.fence cause) := by
  unfold State.fence
  split
  · exact CoresKept.refl s
  · extract_lets c n u loss v w
    have hu : CoresKept s u := ⟨fun x => by rw [show u.exe x = (s.exe x).core from exe_fenceExecs s x]; rfl, rfl, fun _ => rfl⟩
    have hv : CoresKept u v := coresKept_foldl (fun t l => by
      unfold State.iff
      split
      · exact linkPush_coresKept t l _
      · exact CoresKept.refl t) _ u
    have hw : CoresKept v w := coresKept_foldl (fun t p => coresKept_setFld t .HPT_EPOCH_OPEN p 0 0 (by decide)) _ v
    exact ((hu.trans hv).trans hw).trans ((coresKept_setFld w .RSL_STAT_STATE 0 2 0 (by decide)).trans
      (coresKept_setFld _ .RSL_STAT_FCAUSE 0 cause 0 (by decide)))

theorem markOvfl_coresKept (s : State) (q : LevelInst) : CoresKept s (s.markOvfl q) := by
  cases q with
  | cell c => exact CoresKept.refl s
  | block b => exact coresKept_setFld s .BLK_ELOG_OVFL b.val 1 0 (by decide)
  | region r => exact coresKept_setFld s .RSL_RQ_STAT_OVFL 0 1 r.val (by decide)
  | chip => exact coresKept_setFld s .RSL_CQ_STAT_OVFL 0 1 0 (by decide)

theorem enterQueue_coresKept (s : State) (q : LevelInst) (e : ErrRec) : CoresKept s (s.enterQueue q e) := by
  unfold State.enterQueue State.iff
  extract_lets g e' u v busy
  have hv : CoresKept s v := (coresKept_setErrq s q _).trans (ringPut_storesOnly u _ _).coresKept
  split
  · exact hv.trans (fence_coresKept v _)
  · exact hv

/-- A record that climbs as far as it can leaves programs and program counters alone (R536, R540). -/
theorem enqueue_coresKept (n : Nat) (s : State) (q : LevelInst) (e : ErrRec) : CoresKept s (State.enqueue n s q e) := by
  induction n generalizing s q e with
  | zero => exact CoresKept.refl s
  | succ n ih =>
    have hm : CoresKept s ((s.markOvfl q).bump .RSL_CNT_ESC 0) :=
      (markOvfl_coresKept s q).trans (coresKept_setFld _ .RSL_CNT_ESC 0 _ 0 (by decide))
    rw [State.enqueue]
    split
    · exact enterQueue_coresKept s q e
    · dsimp only
      split
      · exact hm.trans (ih _ _ _)
      · exact hm.trans (fence_coresKept _ _)

theorem raise_coresKept (s : State) (q : LevelInst) (cause status detail sev addr req info : Nat) :
    CoresKept s (s.raise q cause status detail sev (addr := addr) (req := req) (info := info)) :=
  (coresKept_setErrq s q _).trans (enqueue_coresKept 4 _ q _)

end Sys2Proof.Machine
end

section
/-! SUPPORT. Dispatch (R204 to R219): its steps before an instruction's meaning acts, and the proof of O30. -/

namespace Sys2Proof.Machine

section
variable {s t : State} (h : CoresKept s t) (x : Executor)
include h
theorem CoresKept.stop : (t.exe x).stop = (s.exe x).stop := (congrArg Exec.stop (h.core x) :)
theorem CoresKept.tok : (t.exe x).tok = (s.exe x).tok := (congrArg Exec.tok (h.core x) :)
theorem CoresKept.pred : (t.exe x).pred = (s.exe x).pred := (congrArg Exec.pred (h.core x) :)
theorem CoresKept.reg (i : Nat) : (t.exe x).reg i = (s.exe x).reg i := (congrArg (Exec.reg · i) (h.core x) :)
theorem CoresKept.token (k : Nat) : (t.exe x).token k = (s.exe x).token k := (congrArg (Exec.token · k) (h.core x) :)
theorem CoresKept.pcOf : t.pcOf x = s.pcOf x := by
  cases x with
  | seq r => exact h.pc r
  | cell c => exact (congrArg Exec.pc (h.core (.cell c)) :)
end

/-! ## An illegal encoding -/

/-- An executor that stops on an illegal encoding keeps its tokens, its program counter and its registers (R209). -/
theorem stopIllegal_facts (s : State) (x : Executor) (d : Nat) :
    ((s.stopIllegal x d).exe x).stop = .illegal d ∧ ((s.stopIllegal x d).exe x).tok = (s.exe x).tok ∧
      (s.stopIllegal x d).pcOf x = s.pcOf x ∧ ∀ i, ((s.stopIllegal x d).exe x).reg i = (s.exe x).reg i := by
  have hset : ∀ {u t : State}, u.exe x = s.exe x → u.pcOf x = s.pcOf x → CoresKept (u.setExe x { u.exe x with stop := .illegal d }) t →
      (t.exe x).stop = .illegal d ∧ (t.exe x).tok = (s.exe x).tok ∧ t.pcOf x = s.pcOf x ∧ ∀ i, (t.exe x).reg i = (s.exe x).reg i := by
    intro u t hu hp h
    have hx := State.exe_setExe_same u x { u.exe x with stop := .illegal d }
    refine ⟨?_, ?_, ?_, fun i => ?_⟩
    · rw [h.stop, hx]
    · rw [h.tok, hx, hu]
    · rw [h.pcOf, ← hp]
      cases x with
      | seq r => rfl
      | cell c => rw [State.pcOf, hx]; rfl
    · rw [h.reg, hx, hu]
      rfl
  cases x with
  | cell c => exact hset (u := s) rfl rfl (raise_coresKept _ _ _ _ _ _ _ _ _)
  | seq r =>
    refine hset (u := (s.setFld .SEQ_STAT_STATE r 4).setFld .SEQ_STAT_DETAIL r d) rfl ?_ (raise_coresKept _ _ _ _ _ _ _ _ _)
    exact ((coresKept_setFld s .SEQ_STAT_STATE r 4 0 (by decide)).trans (coresKept_setFld _ .SEQ_STAT_DETAIL r d 0 (by decide))).pc r

/-! ## Completion -/

/-- What the completion of an instruction that is done leaves of its executor: all but the token it signals (R216). -/
structure Completed (x : Executor) (k : Nat) (s t : State) : Prop where
  reg : ∀ i, (t.exe x).reg i = (s.exe x).reg i
  pred : (t.exe x).pred = (s.exe x).pred
  token : ∀ j, j ≠ k → (t.exe x).token j = (s.exe x).token j
  pc : t.pcOf x = s.pcOf x
  works : t.works = s.works

theorem CoresKept.completed {s t : State} (h : CoresKept s t) (x : Executor) (k : Nat) : Completed x k s t :=
  ⟨h.reg x, h.pred x, fun j _ => h.token x j, h.pcOf x, h.works⟩

theorem Completed.trans {x : Executor} {k : Nat} {s t u : State} (h : Completed x k s t) (g : Completed x k t u) : Completed x k s u :=
  ⟨fun i => (g.reg i).trans (h.reg i), g.pred.trans h.pred, fun j hj => (g.token j hj).trans (h.token j hj), g.pc.trans h.pc,
    g.works.trans h.works⟩

theorem token_setToken_other (e : Exec) {k j : Nat} (v : Nat) (h : j ≠ k) : (e.setToken k v).token j = e.token j :=
  Tbl.get_set_other e.tok 0 0 v h

theorem token_setToken_same (e : Exec) (k v : Nat) : (e.setToken k v).token k = v := Tbl.get_set_same e.tok 0 k v

/-- Writing a token counter of an executor. -/
theorem setToken_completed (s : State) (x : Executor) (k v : Nat) : Completed x k s (s.setExe x ((s.exe x).setToken k v)) := by
  have hx := State.exe_setExe_same s x ((s.exe x).setToken k v)
  refine ⟨fun i => by rw [hx]; rfl, by rw [hx]; rfl, fun j hj => by rw [hx]; exact token_setToken_other _ _ hj, ?_, rfl⟩
  cases x with
  | seq r => rfl
  | cell c => rw [State.pcOf, hx]; rfl

theorem incToken_completed (s : State) (x : Executor) (k : Nat) : Completed x k s (s.incToken x k) := by
  unfold State.incToken
  split
  · exact (CoresKept.refl s).completed x k
  · dsimp only
    split
    · exact setToken_completed s x k _
    · cases x with
      | cell c => exact (raise_coresKept _ _ _ _ _ _ _ _ _).completed _ k
      | seq r => exact (raise_coresKept _ _ _ _ _ _ _ _ _).completed _ k

theorem complete_completed (s : State) (x : Executor) (f : Flight) : Completed x f.tokOut s (s.complete x f) := by
  have hput : Completed x f.tokOut s (s.iff (f.cr || f.forced) (fun s => s.ringPut (.completion x.region) (f.bytes x))) := by
    unfold State.iff
    split
    · exact (ringPut_storesOnly s _ _).coresKept.completed x _
    · exact (CoresKept.refl s).completed x _
  unfold State.complete
  dsimp only
  split
  · exact hput
  · exact hput.trans (incToken_completed _ x f.tokOut)

/-- With no record and no token asked for, a completion changes nothing (R216). -/
theorem complete_silent {s : State} {x : Executor} {f : Flight} (hc : f.cr = false) (hf : f.forced = false) (ht : f.tokOut = 0) :
    s.complete x f = s := by
  simp [State.complete, State.incToken, State.iff, hc, hf, ht]

/-- No HALT and no promotion stop waits at an instruction boundary (R254, R354). -/
theorem boundary_still {s : State} {x : Executor} (h : NoStopDue s x) : ∃ w, s.boundary x = { s with works := w } := by
  cases x with
  | cell c => exact ⟨_, rfl⟩
  | seq r =>
    obtain ⟨hh, hd⟩ := h r rfl
    refine ⟨(s.setWork r { s.work r with halts := [] }).works, ?_⟩
    show s.haltBoundary r = _
    unfold State.haltBoundary State.iff
    dsimp only
    rw [if_neg (by rw [hd]; decide), hh]
    rfl

/-! ## The steps of dispatch -/

/-- A need that is legal or not is judged on the descriptor table, which fetching leaves alone (R208). -/
theorem illegalDetail_of_desc {e f : Exec} (h : e.desc = f.desc) (x : Executor) (w : W128) (n : Need) :
    illegalDetail e x w n = illegalDetail f x w n := by
  have hd : ∀ i, e.descr i = f.descr i := fun i => by rw [Exec.descr, Exec.descr, Exec.descLine, Exec.descLine, h]
  simp only [illegalDetail, hd]

/-- An executor that dispatch moves on past an instruction its predicate turned off: its token is taken and its program counter moved
(R204, R215, R219). -/
def State.passed (s : State) (x : Executor) (w : W128) : State :=
  (((s.fetched x).takeToken x (wf w 104 6)).shows x 1).setPc x ((s.fetched x).pcOf x + 1)

section
variable {cls op : Nat} {x : Executor} {w : W128} {need : State → Need} {act : State → Act} {s : State}

theorem issue_off (h : s.atHead x = false) : issue cls op x w s need act = .next s := by
  unfold issue
  rw [h]
  rfl

theorem issue_otherWord {v : W128} (hf : s.fetch x = some v) (hv : v ≠ w) : issue cls op x w s need act = .next s := by
  unfold issue
  rw [hf]
  simp [hv]

variable (hh : s.atHead x = true) (hf : s.fetch x = some w) (hc : fCls w = cls) (ho : fOp w = op)
include hh hf hc ho

theorem issue_illegal {d : Nat} (hd : illegalDetail ((s.fetched x).exe x) x w (need (s.fetched x)) = d) (h0 : d ≠ 0) :
    issue cls op x w s need act = .next ((s.fetched x).illegal x w (need (s.fetched x)).dest d) := by
  unfold issue
  rw [hh, hf, hc, ho]
  simp only [Bool.not_true, Bool.false_eq_true, if_false, Option.isNone_some, Bool.and_false, ne_eq, not_true_eq_false, beq_self_eq_true,
    Bool.and_self, Bool.false_and, if_true, hd, h0, not_false_eq_true]

theorem issue_awaits (hd : illegalDetail ((s.fetched x).exe x) x w (need (s.fetched x)) = 0) (ht : wf w 104 6 ≠ 0)
    (hz : ((s.fetched x).exe x).token (wf w 104 6) = 0) : issue cls op x w s need act = .next ((s.fetched x).shows x 2) := by
  unfold issue
  rw [hh, hf, hc, ho]
  simp only [Bool.not_true, Bool.false_eq_true, if_false, Option.isNone_some, Bool.and_false, ne_eq, not_true_eq_false, beq_self_eq_true,
    Bool.and_self, Bool.false_and, if_true, hd, ht, hz, not_false_eq_true, and_self]

/-- An instruction that its predicate turns off, its token there and its record accepted (R206, R215, R219). -/
theorem issue_predOff (hd : illegalDetail ((s.fetched x).exe x) x w (need (s.fetched x)) = 0)
    (ht : ¬ (wf w 104 6 ≠ 0 ∧ ((s.fetched x).exe x).token (wf w 104 6) = 0)) (hp : ((s.fetched x).exe x).predOk (wf w 110 4) = false)
    (hr : (wf w 97 1 == 1 && !(s.fetched x).ringAccepts (.completion x.region)) = false) :
    issue cls op x w s need act = .next (((s.passed x w).complete x
      { (s.fetched x).mkFlight x w .move (need (s.fetched x)).dest with predOff := true }).boundary x) := by
  unfold issue
  rw [hh, hf, hc, ho]
  simp only [Bool.not_true, Bool.false_eq_true, if_false, Option.isNone_some, Bool.and_false, ne_eq, not_true_eq_false, beq_self_eq_true,
    Bool.and_self, Bool.false_and, if_true, hd]
  rw [if_neg ht, hr, hp]
  rfl

end

theorem fetched_pcOf (s : State) (x : Executor) : (s.fetched x).pcOf x = s.pcOf x := by
  obtain ⟨⟨l, hl⟩, -, -, -, -, hregs⟩ := fetched_fetched s x
  cases x with
  | seq r => exact hregs.fld (by decide) r 0
  | cell c => exact (congrArg Exec.pc hl :)

/-- Showing a state and moving the program counter leave an executor's registers, predicates and tokens alone. -/
theorem setPc_shows_frame (s : State) (x : Executor) (st n : Nat) :
    (∀ i, (((s.shows x st).setPc x n).exe x).reg i = (s.exe x).reg i) ∧ (((s.shows x st).setPc x n).exe x).pred = (s.exe x).pred ∧
      (((s.shows x st).setPc x n).exe x).tok = (s.exe x).tok ∧
      ((s.shows x st).setPc x n).pcOf x = (if x.isCell then n else n % 2 ^ 44) ∧ ((s.shows x st).setPc x n).mem = s.mem ∧
      ((s.shows x st).setPc x n).rings = s.rings ∧ ((s.shows x st).setPc x n).works = s.works := by
  cases x with
  | seq r => exact ⟨fun _ => rfl, rfl, rfl, State.fld_setFld_same _ .SEQ_PC_PC r n 0, rfl, rfl, rfl⟩
  | cell c =>
    have hx := State.exe_setExe_same s (.cell c) { s.exe (.cell c) with pc := n }
    refine ⟨fun i => ?_, ?_, ?_, ?_, rfl, rfl, rfl⟩
    · exact (congrArg (Exec.reg · i) hx :)
    · exact (congrArg Exec.pred hx :)
    · exact (congrArg Exec.tok hx :)
    · exact (congrArg Exec.pc hx :)

/-- Taking a token changes its counter alone (R215). -/
theorem takeToken_frame (s : State) (x : Executor) (k : Nat) :
    Completed x k s (s.takeToken x k) ∧ (k ≠ 0 → ((s.takeToken x k).exe x).token k = (s.exe x).token k - 1) ∧
      (s.takeToken x k).mem = s.mem ∧ (s.takeToken x k).rings = s.rings := by
  unfold State.takeToken
  split
  · next h => exact ⟨(CoresKept.refl s).completed x k, fun hk => absurd h hk, rfl, rfl⟩
  · refine ⟨setToken_completed s x k _, fun _ => ?_, rfl, rfl⟩
    rw [State.exe_setExe_same, token_setToken_same]

/-- What an instruction that its predicate turns off leaves, its record and token aside (R206, R215, R219). -/
theorem passed_facts (s : State) (x : Executor) (w : W128) :
    (∀ i, ((s.passed x w).exe x).reg i = (s.exe x).reg i) ∧ ((s.passed x w).exe x).pred = (s.exe x).pred ∧
    (s.passed x w).pcOf x = (if x.isCell then s.pcOf x + 1 else (s.pcOf x + 1) % 2 ^ 44) ∧
    (wf w 104 6 ≠ 0 → ((s.passed x w).exe x).token (wf w 104 6) = (s.exe x).token (wf w 104 6) - 1) ∧
    (∀ k, k ≠ wf w 104 6 → ((s.passed x w).exe x).token k = (s.exe x).token k) ∧
    (s.passed x w).mem = s.mem ∧ (s.passed x w).rings = s.rings ∧ (s.passed x w).works = s.works := by
  obtain ⟨⟨l, hl⟩, -, hmem, hrings, hworks, -⟩ := fetched_fetched s x
  obtain ⟨htake, htok, htmem, htrings⟩ := takeToken_frame (s.fetched x) x (wf w 104 6)
  obtain ⟨hreg, hpred, htoks, hpc, hsmem, hsrings, hsworks⟩ :=
    setPc_shows_frame ((s.fetched x).takeToken x (wf w 104 6)) x 1 ((s.fetched x).pcOf x + 1)
  have hnext : (s.passed x w).pcOf x = if x.isCell then s.pcOf x + 1 else (s.pcOf x + 1) % 2 ^ 44 := by
    rw [← fetched_pcOf s x]
    exact hpc
  refine ⟨fun i => ?_, ?_, hnext, fun h => ?_, fun k hk => ?_, hsmem.trans (htmem.trans hmem), hsrings.trans (htrings.trans hrings),
    hsworks.trans (htake.works.trans hworks)⟩
  · exact (hreg i).trans ((htake.reg i).trans (by rw [hl]; rfl))
  · exact hpred.trans (htake.pred.trans (by rw [hl]))
  · exact (congrArg (Tbl.get · 0 _) htoks).trans ((htok h).trans (by rw [hl]; rfl))
  · exact (congrArg (Tbl.get · 0 _) htoks).trans ((htake.token k hk).trans (by rw [hl]; rfl))

/-- A ring that accepts a completion record accepts it once the word is fetched (R231). -/
theorem ringAccepts_fetched {s : State} {x : Executor} {r : Region} (h : s.ringAccepts (.completion r) = true) :
    (s.fetched x).ringAccepts (.completion r) = true := by
  obtain ⟨-, -, -, hrings, -, hregs⟩ := fetched_fetched s x
  have hring : (s.fetched x).ring (.completion r) = s.ring (.completion r) := by rw [State.ring, State.ring, hrings]
  have hon : (s.fetched x).ringOn (.completion r) = s.ringOn (.completion r) := by
    unfold State.ringOn State.flag
    rw [hregs.fld (by show Fld.SEQ_CR_BASE_EN.code ≠ _; decide)]
  have hsize : (s.fetched x).ringSize (.completion r) = s.ringSize (.completion r) := by
    unfold State.ringSize
    rw [hregs.fld (by show Fld.SEQ_CR_BASE_LOG2N.code ≠ _; decide)]
  have hopen : (s.fetched x).ringOpen (.completion r) = s.ringOpen (.completion r) := by
    unfold State.ringOpen
    rw [hon, hring, hsize]
    rfl
  unfold State.ringAccepts at h ⊢
  rw [hopen, hring]
  exact h

/-- Fetching changes an executor's own state, and what its line costs (R25, R202). -/
theorem fetched_execOnly (s : State) (x : Executor) : ExecOnly s (s.fetched x) x := by
  refine ⟨(fetched_fetched s x).other, ?_⟩
  cases x with
  | cell c => rfl
  | seq r =>
    obtain ⟨u, l, he, hw, hb, -⟩ := fetched_seq s r
    rw [he]
    refine ⟨?_, fun k _ hk => hb k (fun ⟨b, e⟩ => hk b e)⟩
    rw [hw]
    rfl

/-- An illegal instruction stops its executor and consumes no token (R209). -/
theorem illegal_facts (s : State) (x : Executor) (w : W128) (dest : Option Nat) (d : Nat) :
    (((s.fetched x).illegal x w dest d).exe x).stop = .illegal d ∧ (((s.fetched x).illegal x w dest d).exe x).tok = (s.exe x).tok ∧
      ((s.fetched x).illegal x w dest d).pcOf x = s.pcOf x ∧ ∀ i, (((s.fetched x).illegal x w dest d).exe x).reg i = (s.exe x).reg i := by
  obtain ⟨⟨l, hl⟩, -⟩ := fetched_fetched s x
  unfold State.illegal
  dsimp only
  generalize hu : (s.fetched x).ringPut (.completion x.region) _ = u
  have hk : CoresKept (s.fetched x) u := hu ▸ (ringPut_storesOnly _ _ _).coresKept
  obtain ⟨hstop, htok, hpc, hreg⟩ := stopIllegal_facts u x d
  refine ⟨hstop, ?_, hpc.trans ((hk.pcOf x).trans (fetched_pcOf s x)), fun i => ?_⟩
  · rw [htok, hk.tok, hl]
  · rw [hreg, hk.reg, hl]
    rfl

/-- What the record dispatch fills asks for (R216, R246). -/
theorem mkFlight_asks (s : State) (x : Executor) (w : W128) (dest : Option Nat) :
    (s.mkFlight x w .move dest).cr = (wf w 97 1 == 1) ∧ (s.mkFlight x w .move dest).tokOut = wf w 98 6 ∧
      (s.mkFlight x w .move dest).forced = false := ⟨rfl, rfl, rfl⟩

/-- Settles O30: dispatch fetches, judges the encoding, awaits the token and asks the predicate, in that order. -/
theorem dispatchChecksTokensAndPredicates : Obligations.DispatchChecksTokensAndPredicates := by
  intro cls op x w need act s
  refine ⟨issue_off, fun v => issue_otherWord, fun hh hf hc ho => ?_⟩
  obtain ⟨⟨l, hl⟩, -, hmem, hrings, hworks, -⟩ := fetched_fetched s x
  have hbad : illegalDetail ((s.fetched x).exe x) x w (need (s.fetched x)) = illegalDetail (s.exe x) x w (need (s.fetched x)) :=
    illegalDetail_of_desc (by rw [hl]) x w _
  have htoken : ∀ k, ((s.fetched x).exe x).token k = (s.exe x).token k := fun k => by rw [hl]; rfl
  refine ⟨fetched_execOnly s x, fun c hx => by rw [hx]; rfl, fun r hx hin => ?_, fun d hd h0 => ?_, fun hd ht hz => ?_,
    fun hd hp hr hn ht => ?_⟩
  · subst hx
    obtain ⟨u, l, he, -, -, hu⟩ := fetched_seq s r
    rw [he, hu hin]
    rfl
  · exact ⟨_, issue_illegal hh hf hc ho (hbad.trans hd.symm) h0, illegal_facts s x w _ d⟩
  · exact issue_awaits hh hf hc ho (hbad.trans hd) ht ((htoken _).trans hz)
  · have hacc : (wf w 97 1 == 1 && !(s.fetched x).ringAccepts (.completion x.region)) = false := by
      rcases hr with h | h
      · rw [h]; rfl
      · rw [ringAccepts_fetched h, Bool.not_true, Bool.and_false]
    have hpred : ((s.fetched x).exe x).predOk (wf w 110 4) = false := by rw [hl]; exact hp
    have hx := issue_predOff hh hf hc ho (act := act) (hbad.trans hd) (fun h => ht.elim h.1 (fun k => k ((htoken _).symm.trans h.2))) hpred hacc
    obtain ⟨hreg, hpr, hpc, htok, htoks, hpmem, hprings, hpworks⟩ := passed_facts s x w
    obtain ⟨hcr, htokOut, hforced⟩ := mkFlight_asks (s.fetched x) x w (need (s.fetched x)).dest
    generalize (s.fetched x).mkFlight x w .move (need (s.fetched x)).dest = f at hx hcr htokOut hforced
    have hdone := complete_completed (s.passed x w) x { f with predOff := true }
    obtain ⟨wk, hb⟩ := boundary_still (s := (s.passed x w).complete x { f with predOff := true }) (x := x) (fun r h => by
      rw [State.work, hdone.works, hpworks]
      exact hn r h)
    rw [hb] at hx
    refine ⟨_, hx, fun i => (hdone.reg i).trans (hreg i), hdone.pred.trans hpr, hdone.pc.trans hpc, fun h h98 => ?_, fun k hk hk98 => ?_,
      fun h97 h98 => ?_⟩
    · exact (hdone.token _ (by rw [htokOut, h98]; exact h)).trans (htok h)
    · exact (hdone.token k (by rw [htokOut]; exact hk98)).trans (htoks k hk)
    · have hsilent : (s.passed x w).complete x { f with predOff := true } = s.passed x w :=
        complete_silent (by rw [hcr, h97]; rfl) hforced (htokOut.trans h98)
      exact ⟨(congrArg State.mem hsilent).trans hpmem, (congrArg State.rings hsilent).trans hprings⟩

end Sys2Proof.Machine
end

section
/-! SUPPORT. Canonical memory stays canonical, and the queue of commands stands: the rule for each operation that the coherence
protocol, the rings and the error queues are made of (R83, R97, R98, R112, R425, R426, R627). -/

namespace Sys2Proof.Machine

set_option Elab.async false

/-- Between two states memory in canonical form stays so, and the queue of commands stands. -/
structure Canon (s t : State) : Prop where
  wf : s.mem.wf = true → t.mem.wf = true
  pending : t.pending = s.pending

theorem Canon.refl (s : State) : Canon s s := ⟨id, rfl⟩

theorem Canon.trans {s t u : State} (h : Canon s t) (k : Canon t u) : Canon s u :=
  ⟨fun w => k.wf (h.wf w), k.pending.trans h.pending⟩

/-- What leaves memory and the queue alone. -/
theorem Canon.of_same {s t : State} (hm : t.mem = s.mem := by rfl) (hp : t.pending = s.pending := by rfl) : Canon s t :=
  ⟨fun w => hm ▸ w, hp⟩

theorem canon_foldl {α : Type} {g : State → α → State} (h : ∀ s a, Canon s (g s a)) (l : List α) (s : State) :
    Canon s (l.foldl g s) :=
  foldl_keeps (Canon s) g (fun t a ht => ht.trans (h t a)) l (Canon.refl s)

theorem canon_iff {s : State} {f : State → State} (c : Bool) (h : Canon s (f s)) : Canon s (s.iff c f) := by
  unfold State.iff
  split
  · exact h
  · exact Canon.refl s

theorem TrafficOnly.canon {s t : State} (h : TrafficOnly s t) : Canon s t := Canon.of_same h.mem (by rw [h]; rfl)

theorem CohOnly.canon {s t : State} (h : CohOnly s t) : Canon s t := Canon.of_same h.mem (by rw [h]; rfl)

theorem WakesOnly.canon {s t : State} (h : WakesOnly s t) : Canon s t := Canon.of_same h.mem (by rw [h])

theorem ErrorOnly.canon {s t : State} (h : ErrorOnly s t) : Canon s t := by
  refine Canon.of_same ?_ ?_ <;> rw [h]

theorem setFld_canon (s : State) (f : Fld) (i v j : Nat) : Canon s (s.setFld f i v j) := .of_same

theorem setFarBuf_canon (s : State) (f : Nat) (b : FarBuf) : Canon s (s.setFarBuf f b) := .of_same

/-- Memory may be replaced by memory that is canonical when the old one was. -/
theorem canon_setMem (s : State) {m : Mem} (h : s.mem.wf = true → m.wf = true) : Canon s (s.setMem m) := ⟨h, rfl⟩

theorem memWrite_canon (s : State) (line : Nat) (w : LineWrite) : Canon s (s.memWrite line w) := by
  refine ⟨State.wf_memWrite line w, ?_⟩
  unfold State.memWrite State.farForget
  dsimp only
  split <;> split <;> rfl

/-! ## Caches, directories and holders -/

theorem wake_canon (s : State) (a line : Nat) : Canon s (s.wake a line) := by
  have hexec : ∀ (t : State) (x : Executor), Canon t (match (t.exe x).watch with
      | some w => if canonical w.addr / 64 = line then t.setExe x { t.exe x with watch := some { w with woken := true } } else t
      | none => t) := fun t x => by
    split
    · split
      · exact .of_same
      · exact .refl t
    · exact .refl t
  unfold State.wake
  dsimp only
  refine Canon.trans (t := s.setCoh { s.coh with wakes := s.coh.wakes ++ [(a, line)] }) .of_same ?_
  split
  · refine canon_foldl (fun t k => ?_) _ _
    split
    · exact hexec t _
    · exact .refl t
  · split
    · exact hexec _ _
    · exact .refl _

theorem loseLine_canon (s : State) (a line : Nat) : Canon s (s.loseLine a line) := by
  unfold State.loseLine
  split
  · exact Canon.trans (t := s.dropCached a line) .of_same (canon_iff _ (wake_canon _ a line))
  · exact .refl s

theorem rouse_canon (s : State) (a : Nat) : Canon s (s.rouse a) := (rouse_wakesOnly s a).canon

theorem writeBack_canon (s : State) (cls line : Nat) (d : Line) (poison : Bool) : Canon s (s.writeBack cls line d poison) :=
  (askMem_traffic s cls line).canon.trans (memWrite_canon _ _ _)

/-- What a holder must write back is written (R94, R97). -/
theorem writeBackDirty_canon (s : State) (cls line : Nat) (o : Option (Line × Bool)) :
    Canon s (match o with
      | some (d, p) => s.writeBack cls line d p
      | none => s) := by
  split
  · exact writeBack_canon _ _ _ _ _
  · exact .refl s

theorem cleanWb_canon (s : State) (a line : Nat) (o : Option WbEntry) :
    Canon s (match o with
      | some w => s.setWb a line { w with dirty := false }
      | none => s) := by
  split <;> exact .of_same

theorem upgradeFalls_canon (s : State) (a line : Nat) (o : Option Miss) :
    Canon s (match o with
      | some m => if m.st = TState.sm then s.setMiss a line { m with st := TState.im } else s
      | none => s) := by
  split
  · split <;> exact .of_same
  · exact .refl s

theorem invalidateAt_canon (s : State) (cls line a : Nat) : Canon s (s.invalidateAt cls line a) := by
  unfold State.invalidateAt
  extract_lets dirty s1 s2 s3 s4
  have h1 : Canon s s1 := (rouse_canon s a).trans (oweSnoop_traffic _ _ _ _ _ _).canon
  have h2 : Canon s1 s2 := writeBackDirty_canon s1 cls line dirty
  have h3 : Canon s2 s3 := cleanWb_canon s2 a line (s2.wbOf a line)
  have h4 : Canon s3 s4 := upgradeFalls_canon s3 a line (s3.missOf a line)
  exact (((h1.trans h2).trans h3).trans h4).trans (loseLine_canon s4 a line)

theorem invalidateAll_canon (s : State) (cls line : Nat) : Canon s (s.invalidateAll cls line) := by
  unfold State.invalidateAll
  split
  · exact .refl s
  · exact (canon_foldl (fun t a => invalidateAt_canon t cls line a) _ s).trans (setDir_cohOnly _ line none).canon

theorem dropSharer_canon (s : State) (line : Nat) (o : Option DirEntry) (f : DirEntry → DirEntry) :
    Canon s (match o with
      | some e => s.setDir line (some (f e))
      | none => s) := by
  split
  · exact (setDir_cohOnly _ _ _).canon
  · exact .refl s

theorem putBack_canon (s : State) (cls a line : Nat) : Canon s (s.putBack cls a line) := by
  unfold State.putBack
  extract_lets dirty s1 s2 s3
  have h1 : Canon s s1 := (askRoute_traffic s _ _ _ _ _).canon.trans (oweRoute_traffic _ _ _ _ _).canon
  have h2 : Canon s1 s2 := writeBackDirty_canon s1 cls line dirty
  exact ((h1.trans h2).trans (loseLine_canon s2 a line)).trans (dropSharer_canon s3 line (s3.dirOf line) _)

theorem makeWay_canon (s : State) (cls line : Nat) : Canon s (s.makeWay cls line) := by
  unfold State.makeWay
  dsimp only
  split
  · exact .refl s
  · split
    · exact (invalidateAll_canon s cls _).trans .of_same
    · exact .refl s

theorem install_canon (s : State) (cls a line : Nat) (c : CLine) : Canon s (s.install cls a line c) := by
  unfold State.install
  extract_lets s1 s2
  have h1 : Canon s s1 := by
    unfold s1
    split
    · exact putBack_canon s cls a _
    · exact .refl s
  exact h1.trans .of_same

theorem touch_canon (s : State) (a line : Nat) : Canon s (s.touch a line) := by
  unfold State.touch
  split <;> exact .of_same

theorem fillCost_canon (s : State) (m : Mover) (cls line : Nat) (src : Option Nat) : Canon s (s.fillCost m cls line src) := by
  unfold State.fillCost
  extract_lets h p s1 s2
  have h1 : Canon s s1 := ((startFclk_traffic s h).canon.trans (rouse_canon _ _)).trans (askRoute_traffic _ _ _ _ _ _).canon
  have h2 : Canon s1 s2 := by
    unfold s2
    cases src with
    | some b =>
      exact (rouse_canon s1 b).trans (((oweRoute_traffic _ _ _ _ _).trans (oweRoute_traffic _ _ _ _ _)).trans
        (oweRoute_traffic _ _ _ _ _)).canon
    | none => exact (askMem_traffic s1 _ _).canon.trans (oweRoute_traffic _ _ _ _ _).canon
  exact (h1.trans h2).trans (oweRoute_traffic _ _ _ _ _).canon

theorem fillShared_canon (s : State) (m : Mover) (cls line : Nat) (forWatch : Bool) : Canon s (s.fillShared m cls line forWatch) := by
  unfold State.fillShared
  extract_lets a t1 t2
  split
  · exact touch_canon s a line
  · split
    · have h1 : Canon s t1 := ((fillCost_canon s m cls line none).trans (makeWay_canon _ cls line)).trans .of_same
      exact (h1.trans (install_canon t1 cls a line _)).trans (setDir_cohOnly _ _ _).canon
    · extract_lets src s1 s2 s3 s4
      have h1 : Canon s s1 := fillCost_canon s m cls line _
      obtain ⟨d, p⟩ := (s1.copyOf src line).getD (s1.mem.line line, s1.mem.poison line)
      dsimp -zeta only
      extract_lets s5
      have h2 : Canon s1 s2 := writeBackDirty_canon s1 cls line (s1.dirtyCopy src line)
      have h3 : Canon s2 s3 := by unfold s3; split <;> exact .of_same
      have h4 : Canon s3 s4 := cleanWb_canon s3 src line (s3.wbOf src line)
      have h5 : Canon s4 s5 := install_canon s4 cls a line _
      refine ((((h1.trans h2).trans h3).trans h4).trans h5).trans ?_
      split <;> exact (setDir_cohOnly _ _ _).canon

/-! ## Bytes written by requesters -/

theorem storePart_canon (s : State) (cls a : Nat) (l : List Byte) (poison : Bool) : Canon s (s.storePart cls a l poison).1 := by
  unfold State.storePart
  dsimp only
  split
  · exact (invalidateAll_canon s cls _).trans (memWrite_canon _ _ _)
  · exact (invalidateAll_canon s cls _).trans (memWrite_canon _ _ _)
  · dsimp only
    split
    · exact .refl s
    · exact (rouse_canon s _).trans (memWrite_canon _ _ _)
  · exact (rouse_canon s _).trans (memWrite_canon _ _ _)
  · exact .refl s

theorem undef_canon (s : State) (l : List (Nat × Nat)) : Canon s (s.undef l) := by
  unfold State.undef
  split
  · exact .refl s
  · refine Canon.trans (canon_foldl (fun t p => ?_) l s) .of_same
    exact canon_foldl (fun u q => storePart_canon u 7 q.1 (u.freeBytes q.1 q.2) false) (splitRange p.1 p.2) t

theorem unsettle_canon (s : State) (m : Mover) (l : List (Nat × Nat)) : Canon s (s.unsettle m l) := undef_canon s _

theorem refuse_canon (s : State) (code addr : Nat) (wr : Bool) : Canon s (s.refuse code addr wr) := (refuse_only s code addr wr).canon

theorem writePart_canon (s : State) (m : Mover) (cls a : Nat) (l : List Byte) (poison : Bool) :
    Canon s (s.writePart m cls a l poison).1 := by
  have h := (haul_traffic s m cls a l.length true).canon.trans (storePart_canon _ cls a l poison)
  unfold State.writePart
  dsimp only
  split
  · exact h.trans (refuse_canon _ _ _ _)
  · exact h.trans (unsettle_canon _ _ _)

theorem writeBytes_canon (s : State) (m : Mover) (cls a : Nat) (l : List Byte) (poison : Bool) :
    Canon s (s.writeBytes m cls a l poison).1 :=
  foldl_keeps (fun acc : State × Nat => Canon s acc.1) _ (fun acc p h => h.trans (writePart_canon acc.1 m cls p.1 _ poison)) _ (.refl s)

/-! ## Rings and error records -/

theorem watchLine_canon (s : State) (m : Mover) (cls line : Nat) : Canon s (s.watchLine m cls line) := by
  unfold State.watchLine
  split
  · exact .refl s
  · extract_lets can s1
    have h1 : Canon s s1 := fillShared_canon s m cls line can
    refine h1.trans ?_
    split
    · split <;> exact .of_same
    · exact .refl s1

theorem ringPut_canon (s : State) (id : RingId) (rec : List Byte) : Canon s (s.ringPut id rec) := by
  unfold State.ringPut
  dsimp only
  split
  · exact ((writeBytes_canon s _ _ _ _ _).trans (writeBytes_canon _ _ _ _ _ _)).trans .of_same
  · split <;> exact .of_same

theorem chargeFlit_canon (s : State) (l : Nat) (f : OutFlit) : Canon s (s.chargeFlit l f) := by
  unfold State.chargeFlit
  dsimp only
  split
  · exact .of_same
  · split
    · exact .of_same
    · exact ((startFclk_traffic s _).trans (ask_traffic _ _ _ _ _)).canon

theorem linkSend_canon {s t : State} {l : Nat} {f : OutFlit} (h : s.linkSend l f = some t) : Canon s t := by
  unfold State.linkSend at h
  extract_lets k isData cred at h
  split at h
  · obtain rfl := Option.some.inj h
    exact Canon.trans .of_same (chargeFlit_canon _ l f)
  · cases h

theorem linkPush_canon (s : State) (l : Nat) (fs : List OutFlit) : Canon s (s.linkPush l fs) := by
  unfold State.linkPush State.linkPump
  dsimp only
  refine Canon.trans .of_same (canon_foldl (fun t f => ?_) _ _)
  split
  · next u hu => exact linkSend_canon hu
  · exact .of_same

theorem fence_canon (s : State) (cause : Nat) : Canon s (s.fence cause) := by
  unfold State.fence
  split
  · exact .refl s
  · extract_lets c n u loss v w
    have hv : Canon u v := canon_foldl (fun t l => canon_iff _ (linkPush_canon t l _)) _ u
    have hw : Canon v w := canon_foldl (fun t p => setFld_canon t .HPT_EPOCH_OPEN p 0 0) _ v
    have hu : Canon s u := .of_same
    exact (hu.trans hv).trans (hw.trans ((setFld_canon w _ _ _ _).trans (setFld_canon _ _ _ _ _)))

theorem markOvfl_canon (s : State) (q : LevelInst) : Canon s (s.markOvfl q) := by
  cases q <;> exact .of_same

theorem enterQueue_canon (s : State) (q : LevelInst) (e : ErrRec) : Canon s (s.enterQueue q e) := by
  unfold State.enterQueue
  extract_lets g e' u v busy
  have hv : Canon s v := (Canon.of_same (t := u)).trans (ringPut_canon u _ _)
  exact hv.trans (canon_iff _ (fence_canon v _))

theorem enqueue_canon (n : Nat) (s : State) (q : LevelInst) (e : ErrRec) : Canon s (State.enqueue n s q e) := by
  induction n generalizing s q e with
  | zero => exact .refl s
  | succ n ih =>
    have hm : Canon s ((s.markOvfl q).bump .RSL_CNT_ESC 0) := (markOvfl_canon s q).trans .of_same
    rw [State.enqueue]
    split
    · exact enterQueue_canon s q e
    · dsimp only
      split
      · exact hm.trans (ih _ _ _)
      · exact hm.trans (fence_canon _ _)

theorem raise_canon (s : State) (q : LevelInst) (cause status detail sev addr req info place : Nat) :
    Canon s (s.raise q cause status detail sev addr req info place) :=
  Canon.trans .of_same (enqueue_canon 4 _ q _)

/-! ## Reads and what they mark -/

theorem decodeFar_canon (s : State) (cls line table : Nat) : Canon s (s.decodeFar cls line table) := by
  unfold State.decodeFar
  dsimp only
  split
  · exact .refl s
  · exact (trafficOnly_foldl (fun s res => ask_traffic s _ cls _ res) _ s).canon.trans (setFarBuf_canon _ _ _)

/-- A slot that cannot be decoded has its 64 lines marked poison (R426). -/
theorem Mem.wf_poisonLines {m : Mem} (l : List Nat) (k : Nat) (w : m.wf = true) :
    Mem.wf { m with poisonF := l.foldl (fun (p : Tbl Bool) i => Tbl.set p false (k + i) true) m.poisonF } = true := by
  rw [Mem.wf_iff] at w ⊢
  obtain ⟨hb, hw, hf, hc⟩ := w
  have h : Tbl.wf false (l.foldl (fun (p : Tbl Bool) i => Tbl.set p false (k + i) true) m.poisonF) = true :=
    foldl_keeps (fun p : Tbl Bool => Tbl.wf false p = true) _ (fun _ _ h => Tbl.wf_set _ _ h) l hf
  exact ⟨hb, hw, h, hc⟩

theorem keepFarRow_canon (s : State) (f slot : Nat) : Canon s (s.keepFarRow f slot) := by
  unfold State.keepFarRow
  dsimp only
  split <;> exact .of_same

theorem noteCoded_canon (s : State) (cls line : Nat) : Canon s (s.noteCoded cls line) := by
  unfold State.noteCoded
  extract_lets slot old m f u
  split
  · exact .refl s
  · split
    · exact decodeFar_canon s cls line _
    · split
      · exact .refl s
      · have hu : Canon s u := (canon_setMem s (Mem.wf_poisonLines (List.range 64) (slot * 64))).trans (setFld_canon _ _ _ _ _)
        split
        · exact hu
        · split
          · exact hu.trans ((keepFarRow_canon u f slot).trans (raise_canon _ _ _ _ _ _ _ _ _ _))
          · exact hu

theorem snoopRead_canon (s : State) (cls line : Nat) : Canon s (s.snoopRead cls line) := (snoopRead_wakesOnly s cls line).canon

theorem noteCodedRange_canon (s : State) (cls a n : Nat) : Canon s (s.noteCodedRange cls a n) := by
  unfold State.noteCodedRange
  exact canon_foldl (fun t l => noteCoded_canon t cls _) _ s

theorem noteRead_canon (s : State) (m : Mover) (cls a n : Nat) : Canon s (s.noteRead m cls a n) := by
  unfold State.noteRead
  refine Canon.trans ((haul_traffic s m cls a n false).canon.trans (noteCodedRange_canon _ cls a n)) (canon_foldl (fun t p => ?_) _ _)
  dsimp only
  split
  · exact snoopRead_canon t _ _
  · exact snoopRead_canon t _ _
  · exact rouse_canon t _
  · exact rouse_canon t _
  · exact refuse_canon t _ _ _

theorem noteReads_canon (s : State) (m : Mover) (cls : Nat) (l : List (Nat × Nat)) : Canon s (s.noteReads m cls l) := by
  unfold State.noteReads
  exact canon_foldl (fun t p => noteRead_canon t m cls p.1 p.2) l s

end Sys2Proof.Machine
end

section
/-! SUPPORT. The coherence protocol's operations keep memory in canonical form and the queue of commands (R84 to R114). -/

namespace Sys2Proof.Machine

set_option Elab.async false

/-! ## At a home -/

theorem send_canon (s : State) (m : Msg) : Canon s (s.send m) := (send_cohOnly s m).canon

theorem sendMem_canon (s : State) (r : Nat) (m : ReqMsg) (ty : MsgTy) (flag : Bool) : Canon s (s.sendMem r m ty flag) :=
  (sendMem_cohOnly s r m ty flag).canon

theorem snoop_canon (s : State) (r : Nat) (m : ReqMsg) (line : Nat) (ty : MsgTy) (cause : Nat) (l : List Nat) :
    Canon s (s.snoop r m line ty cause l) := by
  unfold State.snoop
  exact canon_foldl (fun t a => send_canon t _) l s

theorem setCoh_canon (s : State) (c : Coh) : Canon s (s.setCoh c) := .of_same

theorem setTxn_canon (s : State) (line : Nat) (t : HomeTxn) : Canon s (s.setTxn line t) := .of_same

theorem performNc_canon (s : State) (r : Nat) (m : ReqMsg) : Canon s (s.performNc r m) := by
  unfold State.performNc
  extract_lets s1 d
  have h1 : Canon s s1 := (askMem_traffic s _ _).canon
  have hw : ∀ w, Canon s1 ((s1.memWrite (reqLine m) w).unsettle ⟨m.src.val, none⟩ (writeRanges w (reqLine m))) := fun w =>
    (memWrite_canon s1 _ w).trans (unsettle_canon _ _ _)
  refine h1.trans ?_
  cases m.act with
  | store w => exact (hw w).trans (send_canon _ _)
  | atomic x =>
    dsimp only
    split
    · exact send_canon _ _
    · exact (hw _).trans (send_canon _ _)
  | load => exact .refl s1
  | watch => exact .refl s1

/-- A home grants a line no agent holds, or performs the request there (R97). -/
theorem actStart_uncached_canon (s : State) (r : Nat) {m : ReqMsg} (h : s.dirOf (reqLine m) = none) : Canon s (s.actStart r m) := by
  have hs : Canon s s.stampNext := setCoh_canon s _
  unfold State.actStart
  rw [h]
  dsimp only
  cases m.ty
  case wrNC | atomNC => exact hs.trans (performNc_canon _ r m)
  case rdNC => exact hs.trans (sendMem_canon _ r m _ _)
  case getS | getSW | getM => exact hs.trans ((sendMem_canon _ r m _ _).trans (Canon.trans (setCoh_canon _ _) (setTxn_canon _ _ _)))
  all_goals exact hs

/-- A home snoops the holders of a line (R97). -/
theorem actStart_held_canon (s : State) (r : Nat) {m : ReqMsg} {e : DirEntry} (h : s.dirOf (reqLine m) = some e) :
    Canon s (s.actStart r m) := by
  unfold State.actStart
  rw [h]
  dsimp only
  cases m.ty
  case getM =>
    dsimp only
    split
    · split
      · exact (snoop_canon s r m _ _ _ _).trans ((send_canon _ _).trans (setTxn_canon _ _ _))
      · exact (snoop_canon s r m _ _ _ _).trans (setTxn_canon _ _ _)
    · exact ((snoop_canon s r m _ _ _ _).trans (snoop_canon _ r m _ _ _ _)).trans (setTxn_canon _ _ _)
  case putS | putE | putM => exact .refl s
  all_goals exact (snoop_canon s r m _ _ _ _).trans (setTxn_canon _ _ _)

theorem actStart_canon (s : State) (r : Nat) (m : ReqMsg) : Canon s (s.actStart r m) := by
  cases h : s.dirOf (reqLine m) with
  | none => exact actStart_uncached_canon s r h
  | some e => exact actStart_held_canon s r h

theorem setReqs_canon (s : State) (r : Nat) (l : List ReqMsg) : Canon s (s.setReqs r l) := .of_same

theorem homeAct_canon (s : State) (r : Nat) (m : ReqMsg) : Canon s (s.homeAct r m) := by
  unfold State.homeAct
  extract_lets take allocates ways
  have htake : Canon s (take s) := setReqs_canon s _ _
  split
  · split
    · exact .refl s
    · exact htake.trans ((snoop_canon _ r m _ _ _ _).trans (setTxn_canon _ _ _))
  · refine Canon.trans ?_ (actStart_canon _ r m)
    split
    · exact htake
    · exact htake.trans (noteCoded_canon _ _ _)

theorem dropTxn_canon (s : State) (line : Nat) : Canon s (s.dropTxn line) := .of_same

/-- The end of a transaction writes the line's entry and frees its own (R97). -/
theorem txnEnd_canon (s : State) (line : Nat) (d : Option DirEntry) : Canon s ((s.setDir line d).dropTxn line) :=
  (setDir_cohOnly s line d).canon.trans (dropTxn_canon _ _)

theorem txnStep_canon (s : State) (line : Nat) : Canon s (s.txnStep line) := by
  unfold State.txnStep
  split
  · exact .refl s
  · next x _ =>
    dsimp only
    split
    · split
      · exact (((setDir_cohOnly s _ _).canon.trans (setFld_canon _ _ _ _ _)).trans (dropTxn_canon _ _)).trans (actStart_canon _ _ _)
      · exact .refl s
    · split
      · exact .refl s
      · have hgrant : Canon s (if x.lost = true then s.sendMem (homeOf line) x.req .gntE true
            else s.send (homeMsg (homeOf line) x.req .gntE x.req.src.val)) := by
          split
          · exact sendMem_canon s _ _ _ _
          · exact send_canon s _
        have hdone : ∀ (t : State) (y : HomeTxn), Canon t (if y.needComp = true then
            (if y.comp = true then (t.setDir line y.final).dropTxn line else t)
            else match y.req.ty with
              | .rdNC => if y.hasData = true then ((t.setDir line y.final).dropTxn line).send
                  { homeMsg (homeOf line) y.req .rdData y.req.src.val with data := y.data, poison := y.poison }
                else ((t.setDir line y.final).dropTxn line).sendMem (homeOf line) y.req .rdData false
              | _ => ((t.setDir line y.final).dropTxn line).performNc (homeOf line) y.req) := fun t y => by
          split
          · split
            · exact txnEnd_canon t line _
            · exact .refl t
          · refine (txnEnd_canon t line y.final).trans ?_
            split
            · split
              · exact send_canon _ _
              · exact sendMem_canon _ _ _ _ _
            · exact performNc_canon _ _ _
        cases x.grantAfter
        · exact hdone s x
        · exact (hgrant.trans (setTxn_canon _ _ _)).trans (hdone _ { x with grantAfter := false })

theorem judgePut_canon (s : State) (r : Nat) (m : ReqMsg) : Canon s (s.judgePut r m) := by
  unfold State.judgePut
  extract_lets a s1 current s2 s3
  have h1 : Canon s s1 := setReqs_canon s _ _
  have h2 : Canon s1 s2 := by
    unfold s2
    split
    · exact writeBack_canon _ _ _ _ _
    · exact .refl s1
  have h3 : Canon s2 s3 := dropSharer_canon s2 (reqLine m) (s2.dirOf (reqLine m)) _
  refine ((h1.trans h2).trans h3).trans ?_
  split
  · exact send_canon _ _
  · exact (setFld_canon _ _ _ _ _).trans (send_canon _ _)

theorem snoopIn_canon (s : State) (a line : Nat) (f : HomeTxn → HomeTxn) : Canon s (s.snoopIn a line f) := by
  unfold State.snoopIn
  split
  · exact .refl s
  · split
    · exact .refl s
    · exact (setTxn_canon s _ _).trans (txnStep_canon _ _)

/-! ## At an agent -/

theorem storeCached_canon (s : State) (a line : Nat) (w : LineWrite) : Canon s (s.storeCached a line w) := by
  unfold State.storeCached
  split <;> exact .of_same

theorem unsettleCached_canon (s : State) (m : Mover) (line : Nat) (w : LineWrite) : Canon s (s.unsettleCached m line w) := by
  unfold State.unsettleCached
  dsimp only
  split
  · exact .refl s
  · exact Canon.trans (canon_foldl (fun t p => storeCached_canon t _ _ _) _ s) .of_same

theorem performAgent_canon (s : State) (a line txn : Nat) (op : AgentOp) : Canon s (s.performAgent a line txn op) := by
  unfold State.performAgent
  split
  · exact .refl s
  · cases op with
    | load => exact .refl s
    | watch => dsimp only; split <;> exact .of_same
    | store w => exact (storeCached_canon s _ _ _).trans (unsettleCached_canon _ _ _ _)
    | atomic x =>
      dsimp only
      split
      · exact .of_same
      · exact ((storeCached_canon s _ _ _).trans (unsettleCached_canon _ _ _ _)).trans (setCoh_canon _ _)

theorem finishFill_canon (s : State) (a line : Nat) (q : Miss) (c : CLine) : Canon s (s.finishFill a line q c) := by
  unfold State.finishFill
  extract_lets s1 s2
  have h1 : Canon s s1 := .of_same
  have h2 : Canon s1 s2 := Canon.trans (setCoh_canon s1 _) (performAgent_canon _ a line q.txn q.op)
  exact (h1.trans h2).trans (send_canon _ _)

theorem finishMiss_canon (s : State) (a line : Nat) (q : Miss) (c : CLine) : Canon s (s.finishMiss a line q c) := by
  unfold State.finishMiss
  split
  · exact .of_same
  · exact finishFill_canon s a line q c

theorem resumeFills_canon (s : State) (a : Nat) : Canon s (s.resumeFills a) := by
  unfold State.resumeFills
  refine canon_foldl (fun t p => ?_) _ s
  split
  · split
    · exact .refl t
    · exact finishFill_canon t a _ _ _
  · exact .refl t

theorem onSnpFwdS_canon (s : State) (m : Msg) : Canon s (s.onSnpFwdS m) := by
  have hsend : ∀ (t : State) (c : Prop) [Decidable c] (x y : Msg), Canon t (if c then t.send x else t.send y) := fun t c _ x y => by
    split <;> exact send_canon t _
  unfold State.onSnpFwdS
  dsimp only
  split
  · exact ((send_canon s _).trans (setCoh_canon _ _)).trans (hsend _ _ _ _)
  · split
    · exact ((send_canon s _).trans (setCoh_canon _ _)).trans (hsend _ _ _ _)
    · exact send_canon s _

theorem onSnpFwdM_canon (s : State) (m : Msg) : Canon s (s.onSnpFwdM m) := by
  unfold State.onSnpFwdM
  dsimp only
  split
  · exact (((send_canon s _).trans (send_canon _ _)).trans (upgradeFalls_canon _ m.dst m.line _)).trans (loseLine_canon _ _ _)
  · split
    · exact ((send_canon s _).trans (send_canon _ _)).trans (setCoh_canon _ _)
    · exact send_canon s _

theorem onSnpFwdRd_canon (s : State) (m : Msg) : Canon s (s.onSnpFwdRd m) := by
  unfold State.onSnpFwdRd
  split <;> exact send_canon s _

theorem onSnpInv_canon (s : State) (m : Msg) : Canon s (s.onSnpInv m) := by
  unfold State.onSnpInv
  extract_lets a s1
  have h1 : Canon s s1 := upgradeFalls_canon s m.dst m.line _
  refine h1.trans ?_
  split
  · dsimp only
    split
    · exact (send_canon s1 _).trans (setCoh_canon _ _)
    · exact (send_canon s1 _).trans (loseLine_canon _ _ _)
  · exact (send_canon s1 _).trans (loseLine_canon _ _ _)

theorem stirBlk_canon (s : State) (b : Block) : Canon s (s.stirBlk b) := by
  unfold State.stirBlk
  dsimp only
  split <;> exact .of_same

theorem stirAgent_canon (s : State) (a : Nat) : Canon s (s.stirAgent a) := by
  unfold State.stirAgent
  split
  · exact stirBlk_canon s _
  · exact .refl s

/-- A message that is delivered leaves flight, and nothing else changes (R15). -/
theorem deliver_canon {s t : State} {want : Msg → Bool} {m : Msg} (h : s.deliver want = some (m, t)) : Canon s t := by
  unfold State.deliver at h
  split at h
  · split at h
    · obtain ⟨-, rfl⟩ := Prod.mk.inj (Option.some.inj h)
      exact setCoh_canon s _
    · cases h
  · cases h

/-! ## Requests on their way -/

theorem noteSent_canon (s : State) (m : ReqMsg) : Canon s (s.noteSent m) := by
  rw [noteSent_frame]
  exact setCoh_canon s _

theorem acceptReq_canon (s : State) (r : Nat) (m : ReqMsg) : Canon s (s.acceptReq r m) := by
  unfold State.acceptReq
  split
  · unfold State.reqError
    dsimp only
    split
    · exact refuse_canon s _ _ _
    · exact (refuse_canon s _ _ _).trans (setCoh_canon _ _)
  · split
    · exact ((rouse_canon s _).trans (touch_canon _ _ _)).trans (performAgent_canon _ _ _ _ _)
    · split
      · exact .refl s
      · exact (((askRoute_traffic s _ _ _ _ _).canon.trans (noteSent_canon _ m)).trans (setReqs_canon _ _ _)).trans
          (setFld_canon _ _ _ _ _)

/-! ## The directory peek, and the snoop timeout -/

theorem dirPeek_canon (s : State) (r v : Nat) : Canon s (s.dirPeek r v) := by
  unfold State.dirPeek
  dsimp only
  split <;> exact .of_same

theorem writeLost_canon (s : State) (cls line : Nat) : Canon s (s.writeLost cls line) :=
  (writeBack_canon s _ _ _ _).trans .of_same

end Sys2Proof.Machine
end

section
/-! SUPPORT. What engines, bank-side passes and teams write keeps memory in canonical form and the queue of commands (R112, R176, R190,
R262, R362, R377, R388 to R399, R402). -/

namespace Sys2Proof.Machine

set_option Elab.async false

/-! ## Tensors -/

theorem writeMixed_canon (s : State) (m : Mover) (cls a : Nat) (l : List (Byte × Bool)) : Canon s (s.writeMixed m cls a l).1 := by
  unfold State.writeMixed
  refine foldl_keeps (fun acc : State × Nat => Canon s acc.1) _ (fun acc p h => ?_) (splitRange a l.length) (.refl s)
  extract_lets seg put
  have hput : ∀ (b : State × Nat) (q : Nat × Nat), Canon s b.1 → Canon s (put b q).1 := fun b q hb => hb.trans (writePart_canon b.1 m cls q.1 _ _)
  have hwords : Canon s (if (seg p).any (·.2) = true then (splitWords p.1 p.2).foldl put acc else put acc p).1 := by
    split
    · exact foldl_keeps (fun b : State × Nat => Canon s b.1) put hput _ h
    · exact hput acc p h
  split
  · exact hwords
  · exact hwords
  · exact hput acc p h

theorem writePuts_canon (s : State) (d : Desc) (row : List Nat) (i0 : Nat) (ps : List Put) : Canon s (s.writePuts d row i0 ps).1 := by
  unfold State.writePuts
  extract_lets base last count put side firsts
  split
  next o img _ =>
  extract_lets r q1 q2
  have hr : Canon s r.1 := writeMixed_canon s _ _ _ _
  split
  · exact hr.trans (writeMixed_canon _ _ _ _ _)
  · split
    · exact hr.trans (writeMixed_canon _ _ _ _ _)
    · exact hr

theorem storeRow_canon (s : State) (d : Desc) (rm : Nat → Rm) (sat subn : Bool) (shift i0 : Nat) (row : List Nat) (l : List Out) :
    Canon s (s.storeRow d rm sat subn shift i0 row l).1 := writePuts_canon s d row i0 _

theorem storeAll_canon (s : State) (d : Desc) (rm : Nat → Rm) (sat subn : Bool) (f : List Nat → Out) :
    Canon s (s.storeAll d rm sat subn f).1 := by
  unfold State.storeAll
  refine foldl_keeps (fun acc : State × Stored => Canon s acc.1) _ (fun acc r h => ?_) (List.range d.rows) (Canon.refl s)
  exact h.trans (storeRow_canon acc.1 d rm sat subn 0 0 _ _)

theorem elementwise_canon (s : State) (subn : Bool) (d : Desc) (res : Option Desc) (rm : Rm) (sat : Bool) (g : List Nat → Out) :
    Canon s (s.elementwise subn d res rm sat g).1 := by
  unfold State.elementwise
  split
  · exact storeAll_canon s d _ sat subn g
  · next cd =>
    extract_lets ct sum
    have h1 := storeAll_canon s cd (fun _ => rm) sat subn sum
    generalize s.storeAll cd (fun _ => rm) sat subn sum = q at h1 ⊢
    obtain ⟨t, a⟩ := q
    exact h1.trans (storeAll_canon t d _ sat subn sum)

/-! ## The frame of an engine instruction -/

theorem flushed_canon (s : State) (x : Executor) (b : Bool) : Canon s (s.flushed x b) := canon_iff b (setFld_canon s _ _ _ _)

theorem setExe_canon (s : State) (x : Executor) (e : Exec) : Canon s (s.setExe x e) := .of_same

theorem sticky_canon (s : State) (x : Executor) (st : Nat) : Canon s (s.sticky x st) := by
  unfold State.sticky
  split
  · exact setExe_canon s x _
  · exact .refl s

theorem engineEnd_canon (s : State) (c : Cell) (f : Flight) (st : Stored) (more : Outc) (count tiles : Nat) :
    Canon s (s.engineEnd c f st more count tiles).1 := flushed_canon s (.cell c) st.flushed

theorem mapFlight_canon (s : State) (x : Executor) (uid : Nat) (g : Flight → Flight) : Canon s (s.mapFlight x uid g) := setExe_canon s x _

end Sys2Proof.Machine
end

section
/-! SUPPORT. The effects of the instructions a bank-side pass runs, and of a team's phase, keep memory in canonical form and the queue of
commands (R187 to R191, R262, R361 to R369, R377, R383 to R402). -/

namespace Sys2Proof.Machine

set_option Elab.async false

/-! ## Records of blocks -/

theorem dequeue_canon (s : State) (q : LevelInst) (slot : Nat) : Canon s (s.dequeue q slot) := .of_same

theorem escalate_canon (s : State) (q : LevelInst) (slot esc : Nat) : Canon s (s.escalate q slot esc) := by
  unfold State.escalate
  split
  · exact .refl s
  · have h : Canon s ((s.dequeue q slot).bump .RSL_CNT_ESC 0) := (dequeue_canon s q slot).trans (setFld_canon _ _ _ _ _)
    dsimp only
    split
    · exact h.trans (enqueue_canon 4 _ _ _)
    · exact h.trans (fence_canon _ _)

theorem raiseBlock_canon (s : State) (b : Block) (cause status detail sev addr info : Nat) :
    Canon s (s.raiseBlock b cause status detail sev addr info) := by
  unfold State.raiseBlock State.passUp
  exact (raise_canon s _ _ _ _ _ _ _ _ _).trans (canon_foldl (fun t e => escalate_canon t _ _ _) _ _)

theorem logAbandoned_canon (s : State) (c : Cell) (ds : List Desc) : Canon s (s.logAbandoned c ds) := by
  unfold State.logAbandoned
  exact canon_foldl (fun t a => raiseBlock_canon t _ _ _ _ _ _ _) _ s

/-! ## Elementwise instructions and reductions (R187) -/

theorem vecEff_canon (op : Nat) (x : Executor) (w : W128) (c : Cell) (s : State) (f : Flight) : Canon s (vecEff op x w c s f).1 := by
  unfold vecEff
  extract_lets d subn load i
  split
  next dests srcs res _ =>
  extract_lets fmts s1
  have h1 : Canon s s1 := logAbandoned_canon s c srcs
  exact (h1.trans (elementwise_canon s1 subn d res _ _ _)).trans (engineEnd_canon _ c _ _ _ _ _)

theorem gsqEff_canon (x : Executor) (w : W128) (c : Cell) (s : State) (f : Flight) : Canon s (gsqEff x w c s f).1 := by
  unfold gsqEff
  extract_lets d da a s1 g
  have h1 : Canon s s1 := logAbandoned_canon s c _
  have h2 := storeAll_canon s1 d (fun _ => fRm w) (fSAT w) (s1.subn x) (fun _ => { g with b := 0 })
  generalize s1.storeAll d _ _ _ _ = q at h2 ⊢
  obtain ⟨t, st⟩ := q
  exact (h1.trans h2).trans (engineEnd_canon t c _ _ _ _ _)

/-! ## Monitors (R360 to R369) -/

theorem staShares_canon (x : Executor) (w : W128) (s : State) (f : Flight) (old : List Byte) : Canon s (staShares x w s f old).s :=
  flushed_canon s x _

theorem staRatio_canon (x : Executor) (w : W128) (s : State) (f : Flight) (old : List Byte) : Canon s (staRatio x w s f old).s :=
  flushed_canon s x _

theorem staSzw_canon (x : Executor) (w : W128) (c : Cell) (s : State) (f : Flight) (old : List Byte) :
    Canon s (staSzw x w c s f old).s := by
  unfold staSzw
  extract_lets a bg b nonzero d bad
  split
  next r rep _ =>
  extract_lets s1
  refine Canon.trans (t := s1) ?_ (flushed_canon s1 x _)
  unfold s1
  split
  · exact .refl s
  · exact (ringPut_canon s _ _).trans ((setFld_canon _ _ _ _ _).trans (setFld_canon _ _ _ _ _))

/-- The last writer of a monitor record is noted (R362). -/
theorem setOwner_canon (s : State) (k v : Nat) : Canon s (s.setMem { s.mem with owner := Tbl.set s.mem.owner 0 k v }) :=
  canon_setMem s (Mem.wf_setOwner k v)

theorem staEff_canon (op : Nat) (x : Executor) (w : W128) (c : Cell) (s : State) (f : Flight) : Canon s (staEff op x w c s f).1 := by
  unfold staEff
  extract_lets d g s1 r shared out q m t o
  have h1 : Canon s s1 := logAbandoned_canon s c _
  have hr : Canon s1 r.s := by
    unfold r
    split
    · exact staShares_canon x w s1 f _
    · split
      · exact staRatio_canon x w s1 f _
      · exact staSzw_canon x w c s1 f _
  have hq : Canon r.s q.1 := (canon_iff shared .of_same).trans (writeBytes_canon _ _ _ _ _ _)
  exact ((h1.trans hr).trans (hq.trans (setOwner_canon q.1 _ _))).trans (sticky_canon t x o.1)

/-! ## Parameter updates (R376 to R402) -/

theorem countUpd_canon (s : State) (r status detail : Nat) : Canon s (s.countUpd r status detail) := by
  unfold State.countUpd
  split
  · exact setFld_canon _ _ _ _ _
  · split
    · exact setFld_canon _ _ _ _ _
    · split
      · exact setFld_canon _ _ _ _ _
      · split
        · exact setFld_canon _ _ _ _ _
        · exact .refl s

theorem updFinish_canon (x : Executor) (w : W128) (k : UpdSnap) (c : Cell) (f : Flight) {s : State} (r : UpdDone) (h : Canon s r.s) :
    Canon s (updFinish x w k c f r).1 := by
  unfold updFinish
  exact h.trans (((writeBytes_canon r.s _ _ _ _ _).trans (countUpd_canon _ _ _ _)).trans (engineEnd_canon _ c _ _ _ _ _))

theorem applyEff_canon (x : Executor) (w : W128) (k : UpdSnap) (c : Cell) (s : State) (f : Flight) : Canon s (applyEff x w k c s f).1 := by
  unfold applyEff
  extract_lets g subn u d da dc sts a s1 wt part m v t r1 r2 els up out put p1 p2 p3 p4
  have hput : ∀ (p : State × Stored) (e : Desc) (rm : Nat → Rm) (sat : Bool) (pick : UpdEl → Num), Canon p.1 (put p e rm sat pick).1 :=
    fun p e rm sat pick =>
    storeAll_canon p.1 e rm sat subn (fun idx => out (pick (up idx)) idx)
  clear_value put
  have h0 : Canon s s1 := logAbandoned_canon s c _
  have h1 : Canon s1 p1.1 := hput (s1, {}) d _ _ _
  clear_value p1 part sts
  have h2 : Canon p1.1 p2.1 := by
    unfold p2
    split
    · exact hput p1 _ _ _ _
    · exact .refl _
  have h3 : Canon p2.1 p3.1 := by
    unfold p3
    split
    · exact hput p2 _ _ _ _
    · exact .refl _
  have h4 : Canon p3.1 p4.1 := by
    unfold p4
    split
    · exact hput p3 _ _ _ _
    · exact .refl _
  exact updFinish_canon x w k c f _ ((((h0.trans h1).trans h2).trans h3).trans h4)

theorem rowEntry_canon (x : Executor) (w : W128) (k : RowsIn) (normBad step : Nat) (sts : List Desc) (subn : Bool) (acc : RowsAcc) (j : Nat)
    (e : RawEl) : Canon acc.s (rowEntry x w k normBad step sts subn acc j e).s := by
  unfold rowEntry
  extract_lets i d first r at_ c s1 n last gap cols row put p1 p2 p3 p4 fl t
  have h0 : Canon acc.s s1 := noteRead_canon _ _ _ _ _
  split
  · exact .refl _
  · split
    · exact .refl _
    · split
      · exact h0
      · split
        · exact h0
        · have hput : ∀ (p : State × Stored) (t : Desc) (rm : Nat → Rm) (sat : Bool) (pick : UpdEl → Num),
              Canon p.1 (put p t rm sat pick).1 := fun p t rm sat pick =>
            foldl_keeps (fun q : State × Stored => Canon p.1 q.1)
              (fun q o => ((q.1.storeRow t rm sat subn 0 0 (r :: o) (row o pick)).1, q.2.join (q.1.storeRow t rm sat subn 0 0 (r :: o) (row o pick)).2))
              (fun q o h => h.trans (storeRow_canon q.1 t rm sat subn 0 0 (r :: o) (row o pick))) d.outer (Canon.refl p.1)
          clear_value put
          have h1 : Canon s1 p1.1 := hput (s1, acc.st) d _ _ _
          clear_value p1
          have h2 : Canon p1.1 p2.1 := by
            unfold p2
            split
            · exact hput p1 _ _ _ _
            · exact .refl _
          have h3 : Canon p2.1 p3.1 := by
            unfold p3
            split
            · exact hput p2 _ _ _ _
            · exact .refl _
          have h4 : Canon p3.1 p4.1 := by
            unfold p4
            split
            · exact hput p3 _ _ _ _
            · exact .refl _
          exact ((((h0.trans h1).trans h2).trans h3).trans h4).trans (writeBytes_canon p4.1 _ _ _ _ _)

theorem rowsEff_canon (x : Executor) (w : W128) (k : UpdSnap) (c : Cell) (s : State) (f : Flight) : Canon s (rowsEff x w k c s f).1 := by
  unfold rowsEff
  extract_lets g subn d da db sts ix part i s1 acc
  have h1 : Canon s s1 := logAbandoned_canon s c _
  have h2 : Canon s1 acc.s :=
    foldl_keeps (fun a : RowsAcc => Canon s1 a.s) _ (fun a j h => h.trans (rowEntry_canon x w i k.normBad f.step sts subn a j _)) _ (.refl s1)
  exact updFinish_canon x w k c f _ (h1.trans h2)

theorem passEff_canon (c : Cell) (s : State) (f : Flight) (p : Pass) : Canon s (passEff c s f p).1 := by
  unfold passEff
  dsimp only
  split
  · exact vecEff_canon _ _ _ c s f
  · split
    · exact staEff_canon _ _ _ c s f
    · split
      · exact gsqEff_canon _ _ c s f
      · split
        · exact applyEff_canon _ _ _ c s f
        · exact rowsEff_canon _ _ _ c s f

/-! ## The phases of a team (R391 to R399) -/

theorem teamPut_canon (s : State) (d : Desc) (rm : Nat → Rm) (sat subn : Bool) (at_ : List Nat → Nat × Nat) (tile : Nat → Nat → Nat)
    (f : Nat → Nat → Out) : Canon s (s.teamPut d rm sat subn at_ tile f).1 := storeAll_canon s d rm sat subn _

theorem putMat_canon (s : State) (subn : Bool) (d : Desc) (f : Nat → Nat → Out) : Canon s (s.putMat subn d f).1 :=
  teamPut_canon s d _ _ _ _ _ _

theorem putTile_canon (s : State) (subn : Bool) (d : Desc) (r c : Nat) (tile : Nat → Nat → Nat) (f : Nat → Nat → Out) :
    Canon s (s.putTile subn d r c tile f).1 := teamPut_canon s d _ _ _ _ _ _

theorem teamWeights_canon (s : State) (x : Executor) (t : TeamOp) (g : Group0) (u : UpdConst) (e : Exec) (lq : Nat → Nat → Num × List El) :
    Canon s (s.teamWeights x t g u e lq).1 := by
  unfold State.teamWeights
  extract_lets w d wt f q p
  have hq : Canon s q.1 := teamPut_canon s d _ _ _ plainAt (tileNo (d.extent 0)) f
  split
  · exact hq.trans (teamPut_canon q.1 _ _ _ _ plainAt (tileNo (d.extent 0)) f)
  · exact hq

theorem orthoPhase_canon (s : State) (x : Executor) (t : TeamOp) (e : Exec) (shard : List Byte) (n : Nat) :
    Canon s (orthoPhase s x t e shard n).s := by
  unfold orthoPhase
  extract_lets w subn g u d rows cols tall m k b round done
  have hdone : ∀ q fl, Canon s q.1 → Canon s (done q fl).s := fun q fl h => h
  clear_value done
  split
  · split
    · exact hdone _ _ (putMat_canon s subn _ _)
    · exact hdone _ _ (putTile_canon s subn _ _ _ _ _)
  · split
    · split
      next s1 p fl hw =>
      exact hdone _ _ ((congrArg Prod.fst hw) ▸ teamWeights_canon s x t g u e _)
    · split
      · split
        · exact hdone _ _ (putTile_canon s subn _ _ _ _ _)
        · exact hdone _ _ (putTile_canon s subn _ _ _ _ _)
      · exact hdone _ _ (putTile_canon s subn _ _ _ _ _)

theorem freeWork_canon (s : State) (subn : Bool) (d : Desc) (key : List Nat) (i : Nat) : Canon s (s.freeWork subn d key i) :=
  storeAll_canon s d _ _ _ _

theorem precondPhase_canon (s : State) (x : Executor) (t : TeamOp) (e : Exec) (shard : List Byte) :
    Canon s (precondPhase s x t e shard).s := by
  unfold precondPhase
  extract_lets w subn g u d rows cols b ga ls rs lr0 rr0 mo gm gb gbt mix ls1 rs1 gRow gCol q0 q1 stats due all
  have h0 : Canon s q0.1 := putMat_canon s subn _ _
  have h1 : Canon s q1.1 := h0.trans (putMat_canon q0.1 subn _ _)
  clear_value q0 q1
  split
  next s1 put sh o lr rr heq =>
  have h2 : Canon s s1 := by
    split at heq
    · split at heq
      next delta raises got res _ =>
      split at heq
      · obtain ⟨rfl, -⟩ := Prod.mk.inj heq
        exact (h1.trans (putMat_canon q1.1 subn _ _)).trans (putMat_canon _ subn _ _)
      · obtain ⟨rfl, -⟩ := Prod.mk.inj heq
        exact h1
    · obtain ⟨rfl, -⟩ := Prod.mk.inj heq
      exact h1
  clear heq
  extract_lets p sc ps m1 q2 key
  have h3 : Canon s q2.1 := h2.trans (putMat_canon s1 subn _ _)
  clear_value q2
  split
  next s2 q3 wf hw =>
  have h4 : Canon q2.1 s2 := by
    obtain rfl : _ = s2 := congrArg Prod.fst hw
    exact teamWeights_canon q2.1 x t g u e _
  extract_lets s3
  exact (h3.trans h4).trans (canon_foldl (fun s i => freeWork_canon s subn (b i) key i) _ s2)

end Sys2Proof.Machine
end

section
/-! SUPPORT. A bank-side pass and a phase of a team keep memory in canonical form and the queue of commands (R190, R191, R391 to R395). -/

namespace Sys2Proof.Machine

set_option Elab.async false

/-! ## The flights of a team -/

theorem mapTeam_canon (s : State) (c : Nat) (g : Flight → Flight) : Canon s (s.mapTeam c g) := by
  unfold State.mapTeam
  split
  · exact mapFlight_canon s _ _ g
  · exact .refl s

theorem teamEnd_canon (s : State) (cells : List Nat) (o : Outc) (count : Nat) : Canon s (s.teamEnd cells o count) :=
  canon_foldl (fun t c => mapTeam_canon t c _) cells s

theorem teamMark_canon (s : State) (cells : List Nat) (bsu : Bool) (nans : List (Nat × TrapAt)) (o : Outc) :
    Canon s (s.teamMark cells bsu nans o) := by
  unfold State.teamMark
  exact canon_foldl (fun t k => mapTeam_canon t _ _) _ s

theorem teamPhase_canon (s : State) (r : Region) (cells : List Nat) (lead : Cell) (f : Flight) (t : TeamOp) (bsu : Bool) :
    Canon s (s.teamPhase r cells lead f t bsu) := by
  unfold State.teamPhase
  extract_lets w x dr u e got s1 s2 p p1 s3 o s4 q
  have h1 : Canon s s1 := by
    unfold s1
    split
    · exact .refl s
    · exact canon_foldl (fun t d => noteReads_canon t _ _ _) _ s
  have h2 : Canon s1 s2 := logAbandoned_canon s1 lead _
  have hp : Canon s2 p.s := by
    unfold p
    split
    · exact orthoPhase_canon s2 x t e _ _
    · exact precondPhase_canon s2 x t e _
  have h3 : Canon p.s p1 := by
    unfold p1
    split
    · exact .refl _
    · exact writeBytes_canon p.s _ _ _ _ _
  have h4 : Canon s s4 :=
    (((h1.trans h2).trans hp).trans h3).trans ((flushed_canon p1 x _).trans (teamMark_canon s3 cells bsu _ o))
  clear_value s4
  split
  · exact h4.trans (canon_foldl (fun t c => mapTeam_canon t c _) cells s4)
  · exact h4.trans ((writeBytes_canon s4 _ _ _ _ _).trans ((countUpd_canon _ r _ _).trans (teamEnd_canon _ cells q _)))

theorem teamPass_canon (s : State) (c : Cell) (f : Flight) (t : TeamOp) : Canon s (s.teamPass c f t) := by
  unfold State.teamPass
  split
  · exact teamPhase_canon s _ _ c f t true
  · exact .refl s

/-! ## Memory as a pass sees it (R190) -/

theorem Mem.wf_setLine {m : Mem} (line : Nat) (d : Line) (p : BitVec 16) (w : m.wf = true) : (m.setLine line d p).wf = true :=
  Mem.wf_setWordPoison _ _ (Mem.wf_setBytes _ _ w)

/-- Lines replaced one after another keep memory in canonical form. -/
theorem Mem.wf_setLines {α : Type} (line : α → Nat) (d : α → Line) (p : α → BitVec 16) (l : List α) {m : Mem} (w : m.wf = true) :
    (l.foldl (fun (m : Mem) q => m.setLine (line q) (d q) (p q)) m).wf = true :=
  foldl_keeps (fun m : Mem => m.wf = true) _ (fun _ _ h => Mem.wf_setLine _ _ _ h) l w

theorem passView_canon (s : State) (p : Pass) : Canon s (s.passView p) :=
  (canon_setMem s (Mem.wf_setLines _ _ _ p.seen)).trans (setCoh_canon _ _)

theorem unview_canon (t s : State) (p : Pass) : Canon t (t.unview s p) :=
  (canon_setMem t (Mem.wf_setLines (fun q : Nat × Line × BitVec 16 => q.1) _ _ p.seen)).trans (setCoh_canon _ _)

theorem passRegs_canon (s : State) (c : Cell) (p : Pass) : Canon s (s.passRegs c p) := (setExe_canon s _ _).trans (setFld_canon _ _ _ _ _)

theorem passRun_canon (s : State) (c : Cell) (f : Flight) (p : Pass) : Canon s (s.passRun c f p) := by
  unfold State.passRun
  extract_lets x v q g u e t d back
  have hv : Canon s v := passView_canon s p
  have ht : Canon v t := by
    unfold t
    split
    · next k _ => exact teamPass_canon v c f k
    · have hq : Canon v q.1 := (passRegs_canon v c p).trans (passEff_canon c _ f p)
      have hu : Canon q.1 u := mapFlight_canon q.1 x _ _
      exact (hq.trans hu).trans ((setExe_canon u x _).trans (setFld_canon _ _ _ _ _))
  have hw : Canon t { t.unview s p with budgets := s.budgets } := (unview_canon t s p).trans .of_same
  exact ((hv.trans ht).trans hw).trans (ask_traffic _ _ _ _ _).canon

theorem releaseChunks_canon (s : State) (r : Region) (l : List Nat) : Canon s (s.releaseChunks r l) := setCoh_canon s _

theorem passEnd_canon (s : State) (c : Cell) (f : Flight) (p : Pass) : Canon s (s.passEnd c f p) := by
  unfold State.passEnd
  exact ((passRun_canon s c f p).trans (canon_iff _ (setFld_canon _ _ _ _ _))).trans
    ((mapFlight_canon _ _ _ _).trans (releaseChunks_canon _ _ _))

theorem passFlush_canon (s : State) (c : Cell) (f : Flight) (p : Pass) : Canon s (s.passFlush c f p) := by
  unfold State.passFlush
  extract_lets t lines m seen
  have hm : Canon s (s.setMem m) := canon_setMem s (Mem.wf_setLines (fun l : Nat => l) _ _ lines)
  exact (hm.trans (mapFlight_canon _ _ _ _)).trans (releaseChunks_canon _ _ _)

/-- A chunk cleared for a bank-side pass (R190): the state after. -/
theorem bsuChunkClear_canon (r : Region) (chunk : Nat) (s : State) :
    ∃ t, execBsuChunkClear r chunk s = .next t ∧ Canon s t := by
  unfold execBsuChunkClear
  refine ⟨_, rfl, ?_⟩
  split
  · exact .refl s
  · next c f p _ =>
    extract_lets lines held s1 coh1 s2 p2 f2 s3
    split
    · have h1 : Canon s s1 := 
        (canon_foldl (fun t l => invalidateAll_canon t 6 l) lines s).trans (startFclk_traffic _ _).canon
      have h3 : Canon s s3 := h1.trans ((setCoh_canon s1 _).trans (mapFlight_canon _ _ _ _))
      clear_value s3
      split
      · exact h3.trans (passEnd_canon s3 c f2 p2)
      · split
        · exact h3
        · exact h3.trans (passFlush_canon s3 c f2 p2)
    · exact .refl s

end Sys2Proof.Machine
end

section
/-! SUPPORT and PROOF. Every command of the coherence protocol keeps memory in canonical form and the queue of commands (O60). -/

namespace Sys2Proof.Machine

set_option Elab.async false

/-- A command answers a next state that keeps memory in canonical form and the queue of commands. -/
def CanonNext (s : State) (a : Answer) : Prop := ∃ t, a = .next t ∧ Canon s t

theorem Canon.next {s t : State} (h : Canon s t) : CanonNext s (.next t) := ⟨t, rfl, h⟩

/-- A command that takes a message from the network, and leaves the state as it is where none waits. -/
theorem canonNext_received {s : State} {g : Msg → State → State} {want : Msg → Bool} :
    (∀ m t, Canon s t → Canon s (g m t)) → CanonNext s (.next (match s.deliver want with | some (m, t) => g m t | none => s)) := by
  intro h
  cases hd : s.deliver want with
  | none => exact (Canon.refl s).next
  | some p => exact (h p.1 p.2 (deliver_canon hd)).next

/-! ## Requests at a home (R78, R85, R97 to R99) -/

theorem execHomeRequestArrival_canon (r : Region) (reqs : List ReqMsg) (s : State) : CanonNext s (execHomeRequestArrival r reqs s) := by
  unfold execHomeRequestArrival
  refine Canon.next ?_
  extract_lets p
  have h : Canon s ((prioOrder p reqs).foldl (fun (acc : State × List Nat) m =>
      (acc.1.acceptReq r m, if acc.1.accepts r m then acc.2 ++ [m.src.val] else acc.2)) (s.startFclk r, [])).1 :=
    (startFclk_traffic s r).canon.trans (foldl_keeps (fun acc : State × List Nat => Canon (s.startFclk r) acc.1) _
      (fun acc m h => h.trans (acceptReq_canon acc.1 r m)) _ (.refl _))
  split
  next t codes heq =>
  rw [heq] at h
  split
  · exact h.trans (setFld_canon _ _ _ _ _)
  · exact h

/-- The home's action on a request of a type (R97). -/
theorem homeRequest_canon (r : Nat) (ty : ReqTy) (src txn : Nat) (s : State) :
    CanonNext s (.next (match s.actable r ty src txn with | some m => s.homeAct r m | none => s)) := by
  refine Canon.next ?_
  split
  · exact homeAct_canon s r _
  · exact .refl s

/-- An eviction a home judges (R98). -/
theorem homePut_canon (r : Nat) (ty : ReqTy) (src txn : Nat) (s : State) :
    CanonNext s (.next (match s.actable r ty src txn with | some m => s.judgePut r m | none => s)) := by
  refine Canon.next ?_
  split
  · exact judgePut_canon s r _
  · exact .refl s

/-! ## Snoops at an agent (R94) -/

theorem execSnpfwds_canon (a : Agent) (line : Nat) (s : State) : CanonNext s (execSnpfwds a line s) := by
  unfold execSnpfwds
  refine canonNext_received (fun m t ht => ?_)
  split
  · exact (ht.trans (rouse_canon _ _)).trans (onSnpFwdS_canon _ _)
  · exact stirAgent_canon s a

theorem execSnpfwdm_canon (a : Agent) (line : Nat) (s : State) : CanonNext s (execSnpfwdm a line s) := by
  unfold execSnpfwdm
  refine canonNext_received (fun m t ht => ?_)
  split
  · exact (ht.trans (rouse_canon _ _)).trans ((onSnpFwdM_canon _ _).trans (resumeFills_canon _ _))
  · exact stirAgent_canon s a

theorem execSnpfwdrd_canon (a : Agent) (line : Nat) (s : State) : CanonNext s (execSnpfwdrd a line s) := by
  unfold execSnpfwdrd
  refine canonNext_received (fun m t ht => ?_)
  split
  · exact (ht.trans (rouse_canon _ _)).trans (onSnpFwdRd_canon _ _)
  · exact stirAgent_canon s a

theorem execSnpinv_canon (a : Agent) (line : Nat) (s : State) : CanonNext s (execSnpinv a line s) := by
  unfold execSnpinv
  refine canonNext_received (fun m t ht => ?_)
  split
  · exact (ht.trans (rouse_canon _ _)).trans ((onSnpInv_canon _ _).trans (resumeFills_canon _ _))
  · exact stirAgent_canon s a

/-! ## Responses at a home (R88, R97) -/

theorem dropLate_canon (s : State) (a line : Nat) : Canon s (s.dropLate a line) := setCoh_canon s _

theorem execSnpack_canon (r : Region) (a : Agent) (line : Nat) (s : State) : CanonNext s (execSnpack r a line s) := by
  unfold execSnpack
  refine canonNext_received (fun m t ht => ?_)
  split
  · exact ht.trans (dropLate_canon _ _ _)
  · split
    · exact ht.trans (snoopIn_canon _ _ _ _)
    · exact ht

theorem execSnpdata_canon (r : Region) (a : Agent) (line : Nat) (s : State) : CanonNext s (execSnpdata r a line s) := by
  unfold execSnpdata
  refine canonNext_received (fun m t ht => ?_)
  split
  · exact ht.trans (dropLate_canon _ _ _)
  · split
    · exact ht.trans ((canon_iff _ (writeBack_canon _ _ _ _ _)).trans (snoopIn_canon _ _ _ _))
    · exact ht

theorem execCompack_canon (r : Region) (a : Agent) (line : Nat) (s : State) : CanonNext s (execCompack r a line s) := by
  unfold execCompack
  refine canonNext_received (fun m t ht => ?_)
  split
  · split
    · exact ht.trans ((setTxn_canon _ _ _).trans (txnStep_canon _ _))
    · exact ht
  · exact ht

/-! ## Answers at an agent (R95, R96, R99) -/

/-- PUTACK and PUTACK_STALE: the writeback buffer's entry is freed, and fills held for it go on (R99). -/
theorem putAcked_canon (ty : MsgTy) (a : Agent) (line : Nat) (s : State) :
    CanonNext s (.next (match s.recv ty a line with | some (_, t) => (t.dropWb a line).resumeFills a | none => s)) :=
  canonNext_received (fun _ t ht => ht.trans ((setCoh_canon t _).trans (resumeFills_canon (t.dropWb a line) a)))

theorem setMiss_canon (s : State) (a line : Nat) (q : Miss) : Canon s (s.setMiss a line q) := .of_same

theorem execGnte_canon (a : Agent) (line : Nat) (s : State) : CanonNext s (execGnte a line s) := by
  unfold execGnte
  refine Canon.next ?_
  split
  · exact .refl s
  · next m t h =>
    have ht : Canon s t := deliver_canon h
    split
    · exact ht
    · split
      · exact ht.trans (finishMiss_canon _ _ _ _ _)
      · split
        · exact ht.trans (finishMiss_canon _ _ _ _ _)
        · split
          · exact ht.trans (finishMiss_canon _ _ _ _ _)
          · exact ht.trans (setMiss_canon _ _ _ _)

theorem execDatas_canon (a : Agent) (line : Nat) (s : State) : CanonNext s (execDatas a line s) := by
  unfold execDatas
  refine Canon.next ?_
  split
  · exact .refl s
  · next m t h =>
    split
    · exact (deliver_canon h).trans (finishMiss_canon _ _ _ _ _)
    · exact deliver_canon h

theorem execDatae_canon (a : Agent) (line : Nat) (s : State) : CanonNext s (execDatae a line s) := by
  unfold execDatae
  refine Canon.next ?_
  split
  · exact .refl s
  · next m t h =>
    split
    · exact (deliver_canon h).trans (finishMiss_canon _ _ _ _ _)
    · exact deliver_canon h

theorem execDatam_canon (a : Agent) (line : Nat) (s : State) : CanonNext s (execDatam a line s) := by
  unfold execDatam
  refine Canon.next ?_
  split
  · exact .refl s
  · next m t h =>
    split
    · exact deliver_canon h
    · split
      · exact (deliver_canon h).trans (finishMiss_canon _ _ _ _ _)
      · exact (deliver_canon h).trans (setMiss_canon _ _ _ _)

theorem takeResult_canon (s : State) (ty : MsgTy) (req txn : Nat) : Canon s (s.takeResult ty req txn) := by
  unfold State.takeResult
  split
  · exact .refl s
  · next m t h => exact (deliver_canon h).trans ((setCoh_canon t _).trans .of_same)

/-! ## Evictions, timeouts and register reads (R104, R109, R113, R114) -/

theorem setWb_canon (s : State) (a line : Nat) (w : WbEntry) : Canon s (s.setWb a line w) := .of_same

theorem execCacheEvict_canon (a : Agent) (line : Nat) (s : State) : CanonNext s (execCacheEvict a line s) := by
  unfold execCacheEvict
  refine Canon.next ?_
  split
  · exact .refl s
  · split
    · exact .refl s
    · exact (loseLine_canon s a line).trans ((setWb_canon _ _ _ _).trans (resumeFills_canon _ _))

theorem execSnoopTimeout_canon (r : Region) (a : Agent) (line : Nat) (s : State) : CanonNext s (execSnoopTimeout r a line s) := by
  unfold execSnoopTimeout
  refine Canon.next ?_
  split
  · exact .refl s
  · next due _ =>
    extract_lets wasOwner s1 s2 s3 s4 coh4 s5
    have h1 : Canon s s1 := canon_iff _ (writeLost_canon s _ _)
    have h2 : Canon s1 s2 := by
      unfold s2
      split
      · exact (setDir_cohOnly s1 line _).canon
      · exact .refl s1
    have h3 : Canon s2 s3 := by
      unfold s3
      split
      · exact .refl s2
      · exact (setTxn_canon s2 line _).trans (canon_iff _ (sendMem_canon _ _ _ _ _))
    have h4 : Canon s3 s4 := raise_canon s3 _ _ _ _ _ _ _ _ _
    have h5 : Canon s4 s5 := setCoh_canon s4 _
    exact (((h1.trans h2).trans h3).trans (h4.trans h5)).trans (snoopIn_canon s5 a line id)

theorem execWatchLimitPoll_canon (a : Agent) (line : Nat) (s : State) : CanonNext s (execWatchLimitPoll a line s) := by
  unfold execWatchLimitPoll
  refine Canon.next ?_
  split
  · exact watchLine_canon s _ _ _
  · exact .refl s

theorem execDirPeek_canon (who : Bank) (v : W64) (s : State) : CanonNext s (execDirPeek who v s) := by
  unfold execDirPeek
  refine Canon.next ?_
  extract_lets s1 r
  have h1 : Canon s s1 := (otherAccess_only s who).canon
  split
  · exact h1.trans (dirPeek_canon s1 r _)
  · exact h1

/-! ## Every command of the protocol -/

theorem exec_cohCommand_canon (c : Instr) (s : State) (hc : cohCommand c = true) : CanonNext s (exec c s) := by
  cases c
  case homeRequestArrival r reqs => exact execHomeRequestArrival_canon r reqs s
  case gets r src txn => exact homeRequest_canon r .getS src txn s
  case getsw r src txn => exact homeRequest_canon r .getSW src txn s
  case getm r src txn => exact homeRequest_canon r .getM src txn s
  case rdnc r src txn => exact homeRequest_canon r .rdNC src txn s
  case wrnc r src txn => exact homeRequest_canon r .wrNC src txn s
  case atomnc r src txn => exact homeRequest_canon r .atomNC src txn s
  case puts r src txn => exact homePut_canon r .putS src txn s
  case pute r src txn => exact homePut_canon r .putE src txn s
  case putm r src txn => exact homePut_canon r .putM src txn s
  case snpfwds a line => exact execSnpfwds_canon a line s
  case snpfwdm a line => exact execSnpfwdm_canon a line s
  case snpfwdrd a line => exact execSnpfwdrd_canon a line s
  case snpinv a line => exact execSnpinv_canon a line s
  case snpack r a line => exact execSnpack_canon r a line s
  case snpdata r a line => exact execSnpdata_canon r a line s
  case compack r a line => exact execCompack_canon r a line s
  case putack a line => exact putAcked_canon .putAck a line s
  case putackstale a line => exact putAcked_canon .putAckStale a line s
  case gnte a line => exact execGnte_canon a line s
  case datas a line => exact execDatas_canon a line s
  case datae a line => exact execDatae_canon a line s
  case datam a line => exact execDatam_canon a line s
  case rddata req txn => exact (takeResult_canon s .rdData req txn).next
  case ncdone req txn => exact (takeResult_canon s .ncDone req txn).next
  case cacheEvict a line => exact execCacheEvict_canon a line s
  case snoopTimeout r a line => exact execSnoopTimeout_canon r a line s
  case watchLimitPoll a line => exact execWatchLimitPoll_canon a line s
  case dirPeek who v => exact execDirPeek_canon who v s
  case bsuChunkClear r chunk => exact bsuChunkClear_canon r chunk s
  all_goals exact absurd hc Bool.false_ne_true

/-- Settles O60: each command of the protocol is a sequence of the state operations above, each of which keeps memory in canonical form
and the queue of commands (R83, R97 to R99, R104, R112, R113, R190, R425, R426). -/
theorem coherenceStepsKeepMemoryCanonical : Obligations.CoherenceStepsKeepMemoryCanonical := by
  unfold Obligations.CoherenceStepsKeepMemoryCanonical
  intro s c rest hwf hp hc
  obtain ⟨t, ht, hmem, hpend⟩ := exec_cohCommand_canon c { s with pending := rest } hc
  refine ⟨t, ?_, hmem hwf, hpend⟩
  unfold step
  rw [hp]
  exact ht

end Sys2Proof.Machine
end

section
/-! SUPPORT. An error record raised while no block is GATED leaves every block, its power state and the Kettle as they are: what an
error record's way to its ring can change (R29, R230, R531 to R542). -/

namespace Sys2Proof.Machine

set_option Elab.async false

/-- No block is GATED, so that no access wakes one by itself (R29). -/
def Calm (s : State) : Prop := ∀ b, b < 96 → s.blkState b ≠ .gated

/-- The numbers of the register fields an error record may change on its way, beside power states (R51, R425, R536, R540, R542). -/
def recordFlds : List Nat :=
  [Fld.FMC_CZ_STAT_UNCODED.code, Fld.BLK_ELOG_OVFL.code, Fld.RSL_RQ_STAT_OVFL.code, Fld.RSL_CQ_STAT_OVFL.code, Fld.RSL_CNT_ESC.code,
    Fld.HPT_EPOCH_OPEN.code, Fld.RSL_STAT_STATE.code, Fld.RSL_STAT_FCAUSE.code] ++ errorFlds

/-- The Kettle stands, and where no block is GATED blocks stand and few register fields change. -/
structure Steady (s t : State) : Prop where
  ktl : t.ktl = s.ktl
  calm : Calm s → t.blks = s.blks ∧ FldsBut recordFlds s t

theorem blkState_of_flds {s t : State} {cs : List Nat} (hb : t.blks = s.blks) (h : FldsBut cs s t) (hc : Fld.BLK_PWR_STATE.code ∉ cs)
    (b : Nat) : t.blkState b = s.blkState b := by
  rw [State.blkState, State.blkState, State.blk, State.blk, hb, h .BLK_PWR_STATE b 0 hc]

theorem Steady.stays {s t : State} (h : Steady s t) (hs : Calm s) : Calm t := fun b hb96 => by
  obtain ⟨hb, hf⟩ := h.calm hs
  rw [blkState_of_flds hb hf (by decide)]
  exact hs b hb96

theorem Steady.refl (s : State) : Steady s s := ⟨rfl, fun _ => ⟨rfl, FldsBut.refl _ s⟩⟩

theorem Steady.trans {s t u : State} (h : Steady s t) (k : Steady t u) : Steady s u := by
  refine ⟨k.ktl.trans h.ktl, fun hs => ?_⟩
  obtain ⟨hb, hf⟩ := h.calm hs
  obtain ⟨hb', hf'⟩ := k.calm (h.stays hs)
  exact ⟨hb'.trans hb, hf.trans hf'⟩

/-- What leaves registers, blocks and the Kettle alone. -/
theorem Steady.of_same {s t : State} (hr : t.regs = s.regs := by rfl) (hb : t.blks = s.blks := by rfl) (hk : t.ktl = s.ktl := by rfl) :
    Steady s t := ⟨hk, fun _ => ⟨hb, FldsBut.of_regs hr⟩⟩

theorem steady_foldl {α : Type} {g : State → α → State} (h : ∀ s a, Steady s (g s a)) (l : List α) (s : State) :
    Steady s (l.foldl g s) :=
  foldl_keeps (Steady s) g (fun t a ht => ht.trans (h t a)) l (Steady.refl s)

theorem steady_iff {s : State} {f : State → State} (c : Bool) (h : Steady s (f s)) : Steady s (s.iff c f) := by
  unfold State.iff
  split
  · exact h
  · exact Steady.refl s

theorem steady_setFld (s : State) (f : Fld) (i v j : Nat) (h : f.code ∈ recordFlds) : Steady s (s.setFld f i v j) :=
  ⟨rfl, fun _ => ⟨rfl, fldsBut_setFld s f i v j h⟩⟩

theorem TrafficOnly.steady {s t : State} (h : TrafficOnly s t) : Steady s t := by
  refine .of_same h.regs ?_ ?_ <;> (rw [h]; rfl)

theorem CohOnly.steady {s t : State} (h : CohOnly s t) : Steady s t := by
  refine .of_same h.regs ?_ ?_ <;> (rw [h]; rfl)

/-! ## A write to memory -/

theorem memWrite_steady (s : State) (line : Nat) (w : LineWrite) : Steady s (s.memWrite line w) := by
  have h : Steady s ((s.setMem (s.mem.writeLine line w)).farForget line) := by
    unfold State.farForget
    dsimp only
    split <;> exact .of_same
  unfold State.memWrite
  dsimp only
  split
  · exact h.trans (steady_setFld _ _ _ _ _ (by decide))
  · exact h

theorem wake_steady (s : State) (a line : Nat) : Steady s (s.wake a line) := by
  have hexec : ∀ (t : State) (x : Executor), Steady t (match (t.exe x).watch with
      | some w => if canonical w.addr / 64 = line then t.setExe x { t.exe x with watch := some { w with woken := true } } else t
      | none => t) := fun t x => by
    split
    · split
      · exact .of_same
      · exact .refl t
    · exact .refl t
  unfold State.wake
  dsimp only
  refine Steady.trans (t := s.setCoh { s.coh with wakes := s.coh.wakes ++ [(a, line)] }) .of_same ?_
  split
  · refine steady_foldl (fun t k => ?_) _ _
    split
    · exact hexec t _
    · exact .refl t
  · split
    · exact hexec _ _
    · exact .refl _

theorem loseLine_steady (s : State) (a line : Nat) : Steady s (s.loseLine a line) := by
  unfold State.loseLine
  split
  · exact Steady.trans (t := s.dropCached a line) .of_same (steady_iff _ (wake_steady _ a line))
  · exact .refl s

/-- A GATED block alone wakes by itself (R29). -/
theorem rouse_steady (s : State) (a : Nat) : Steady s (s.rouse a) := by
  refine ⟨by rw [rouse_wakesOnly s a], fun hs => ?_⟩
  unfold State.rouse
  split
  · next ha =>
    rw [if_neg (hs a ha)]
    exact ⟨rfl, FldsBut.of_regs rfl⟩
  · split <;> exact ⟨rfl, FldsBut.of_regs rfl⟩

theorem writeBack_steady (s : State) (cls line : Nat) (d : Line) (poison : Bool) : Steady s (s.writeBack cls line d poison) :=
  (askMem_traffic s cls line).steady.trans (memWrite_steady _ _ _)

theorem invalidateAt_steady (s : State) (cls line a : Nat) : Steady s (s.invalidateAt cls line a) := by
  unfold State.invalidateAt
  extract_lets dirty s1 s2 s3 s4
  have h1 : Steady s s1 := (rouse_steady s a).trans (oweSnoop_traffic _ _ _ _ _ _).steady
  have h2 : Steady s1 s2 := by
    clear h1
    clear_value s1 dirty
    unfold s2
    split
    · exact writeBack_steady _ _ _ _ _
    · exact .refl s1
  have h3 : Steady s2 s3 := by
    unfold s3
    split <;> exact .of_same
  have h4 : Steady s3 s4 := by
    unfold s4
    split
    · split <;> exact .of_same
    · exact .refl s3
  exact (((h1.trans h2).trans h3).trans h4).trans (loseLine_steady s4 a line)

theorem invalidateAll_steady (s : State) (cls line : Nat) : Steady s (s.invalidateAll cls line) := by
  unfold State.invalidateAll
  split
  · exact .refl s
  · exact (steady_foldl (fun t a => invalidateAt_steady t cls line a) _ s).trans (setDir_cohOnly _ line none).steady

theorem storePart_steady (s : State) (cls a : Nat) (l : List Byte) (poison : Bool) : Steady s (s.storePart cls a l poison).1 := by
  unfold State.storePart
  dsimp only
  split
  · exact (invalidateAll_steady s cls _).trans (memWrite_steady _ _ _)
  · exact (invalidateAll_steady s cls _).trans (memWrite_steady _ _ _)
  · dsimp only
    split
    · exact .refl s
    · exact (rouse_steady s _).trans (memWrite_steady _ _ _)
  · exact (rouse_steady s _).trans (memWrite_steady _ _ _)
  · exact .refl s

theorem unsettle_steady (s : State) (m : Mover) (l : List (Nat × Nat)) : Steady s (s.unsettle m l) := by
  unfold State.unsettle State.undef
  split
  · exact .refl s
  · refine Steady.trans (steady_foldl (fun t p => ?_) _ s) .of_same
    exact steady_foldl (fun u q => storePart_steady u 7 q.1 (u.freeBytes q.1 q.2) false) (splitRange p.1 p.2) t

theorem refuse_steady (s : State) (code addr : Nat) (wr : Bool) : Steady s (s.refuse code addr wr) := by
  refine ⟨?_, fun _ => ⟨?_, (refuse_flds s code addr wr).mono (by decide)⟩⟩ <;> rw [refuse_only s code addr wr]

theorem writePart_steady (s : State) (m : Mover) (cls a : Nat) (l : List Byte) (poison : Bool) :
    Steady s (s.writePart m cls a l poison).1 := by
  have h := (haul_traffic s m cls a l.length true).steady.trans (storePart_steady _ cls a l poison)
  unfold State.writePart
  dsimp only
  split
  · exact h.trans (refuse_steady _ _ _ _)
  · exact h.trans (unsettle_steady _ _ _)

theorem writeBytes_steady (s : State) (m : Mover) (cls a : Nat) (l : List Byte) (poison : Bool) :
    Steady s (s.writeBytes m cls a l poison).1 :=
  foldl_keeps (fun acc : State × Nat => Steady s acc.1) _ (fun acc p h => h.trans (writePart_steady acc.1 m cls p.1 _ poison)) _
    (.refl s)

/-! ## An error record -/

theorem ringPut_steady (s : State) (id : RingId) (rec : List Byte) : Steady s (s.ringPut id rec) := by
  unfold State.ringPut
  dsimp only
  split
  · exact ((writeBytes_steady s _ _ _ _ _).trans (writeBytes_steady _ _ _ _ _ _)).trans .of_same
  · split <;> exact .of_same

theorem chargeFlit_steady (s : State) (l : Nat) (f : OutFlit) : Steady s (s.chargeFlit l f) := by
  have h0 : TrafficOnly s (s.startFclk (l / 2)) := startFclk_traffic s _
  unfold State.chargeFlit
  dsimp only
  split
  · exact h0.steady
  · split
    · exact (h0.trans (owe_traffic _ _ _ _)).steady
    · exact (h0.trans (ask_traffic _ _ _ _ _)).steady

theorem linkSend_steady {s t : State} {l : Nat} {f : OutFlit} (h : s.linkSend l f = some t) : Steady s t := by
  unfold State.linkSend at h
  extract_lets k isData cred at h
  split at h
  · obtain rfl := Option.some.inj h
    exact Steady.trans .of_same (chargeFlit_steady _ l f)
  · cases h

theorem linkPush_steady (s : State) (l : Nat) (fs : List OutFlit) : Steady s (s.linkPush l fs) := by
  unfold State.linkPush State.linkPump
  dsimp only
  refine Steady.trans .of_same (steady_foldl (fun t f => ?_) _ _)
  split
  · next u hu => exact linkSend_steady hu
  · exact .of_same

theorem fence_steady (s : State) (cause : Nat) : Steady s (s.fence cause) := by
  unfold State.fence
  split
  · exact .refl s
  · extract_lets c n u loss v w
    have hv : Steady u v := steady_foldl (fun t l => steady_iff _ (linkPush_steady t l _)) _ u
    have hw : Steady v w := steady_foldl (fun t p => steady_setFld t .HPT_EPOCH_OPEN p 0 0 (by decide)) _ v
    have hu : Steady s u := .of_same
    exact (hu.trans hv).trans (hw.trans ((steady_setFld w .RSL_STAT_STATE 0 2 0 (by decide)).trans
      (steady_setFld _ .RSL_STAT_FCAUSE 0 cause 0 (by decide))))

theorem markOvfl_steady (s : State) (q : LevelInst) : Steady s (s.markOvfl q) := by
  cases q with
  | cell c => exact .refl s
  | block b => exact steady_setFld s .BLK_ELOG_OVFL b.val 1 0 (by decide)
  | region r => exact steady_setFld s .RSL_RQ_STAT_OVFL 0 1 r.val (by decide)
  | chip => exact steady_setFld s .RSL_CQ_STAT_OVFL 0 1 0 (by decide)

theorem enterQueue_steady (s : State) (q : LevelInst) (e : ErrRec) : Steady s (s.enterQueue q e) := by
  unfold State.enterQueue
  extract_lets g e' u v busy
  have hv : Steady s v := (Steady.of_same (t := u)).trans (ringPut_steady u _ _)
  exact hv.trans (steady_iff _ (fence_steady v _))

theorem enqueue_steady (n : Nat) (s : State) (q : LevelInst) (e : ErrRec) : Steady s (State.enqueue n s q e) := by
  induction n generalizing s q e with
  | zero => exact .refl s
  | succ n ih =>
    have hm : Steady s ((s.markOvfl q).bump .RSL_CNT_ESC 0) :=
      (markOvfl_steady s q).trans (steady_setFld _ .RSL_CNT_ESC 0 _ 0 (by decide))
    rw [State.enqueue]
    split
    · exact enterQueue_steady s q e
    · dsimp only
      split
      · exact hm.trans (ih _ _ _)
      · exact hm.trans (fence_steady _ _)

theorem raise_steady (s : State) (q : LevelInst) (cause status detail sev addr req info place : Nat) :
    Steady s (s.raise q cause status detail sev addr req info place) :=
  Steady.trans .of_same (enqueue_steady 4 _ q _)

end Sys2Proof.Machine
end

section
/-! SUPPORT. Bytes written by a requester wherever they lead: near and far memory, stores, and addresses that are refused (R48 to R55,
R60, R198). -/

namespace Sys2Proof.Machine

set_option Elab.async false

/-- A write to an address lands: it is memory, and its store's slot is not gone (R50, R198). -/
def State.takes (s : State) (a : Nat) : Prop := (s.place (canonical a)).memory = true ∧ s.storeGone (canonical a) = false

/-! ## Places -/

/-- Outside the interleave view an address is canonical (R53). -/
theorem canonical_of_high {c : Nat} (h : 0x100000000000 ≤ c) : canonical c = c := if_neg (by omega)

/-- Only an address of a local store lies in one. -/
theorem not_cellStore {s : State} {c k : Nat} (h : ¬ (0x200000000000 ≤ c ∧ c < 0x200180000000)) : s.place c ≠ .cellStore k := by
  intro hk
  unfold State.place at hk
  split at hk
  · cases hk
  · split at hk
    · dsimp only at hk
      split at hk <;> cases hk
    · split at hk
      · cases hk
      · split at hk <;> cases hk

/-- The slot of a place is gone when it is a local store's and its cell is retired (R198). -/
theorem storeGone_of_place (s : State) (c : Nat) :
    s.storeGone c = match s.place c with
      | .cellStore k => (s.blk (k / 16)).gone.contains (k % 16)
      | _ => false := by
  by_cases h : 0x200000000000 ≤ c ∧ c < 0x200180000000
  · have hp : s.place c = .cellStore ((c - 0x200000000000) / 0x400000) := by
      unfold State.place
      rw [if_neg (by omega), if_neg (by omega), if_pos h]
    rw [State.storeGone, hp, canonical_of_high (by omega), show scratchHome c = _ from if_pos h]
  · have hs : ∀ b k, scratchHome (canonical c) ≠ some (b, some k) := fun b k => by
      unfold scratchHome canonical
      dsimp only
      split
      · rw [if_neg (by omega), if_neg (by omega)]
        intro he
        cases he
      · split
        · intro he
          cases he
        · intro he
          cases he
    have hl : s.storeGone c = false := by
      unfold State.storeGone
      split
      · next he => exact absurd he (hs _ _)
      · rfl
    rw [hl]
    split
    · next hk => exact absurd hk (not_cellStore h)
    · rfl

theorem below_of_line {u v n : Nat} (h : v / 64 = u / 64) (hn : n = n / 64 * 64) (hu : u < n) : v < n := by omega

/-- Addresses of one line lie in memory together, since every area and every far channel ends at a line's end (R48, R56). -/
theorem memory_of_line (s : State) {x y : Nat} (h : x / 64 = y / 64) (hx : (s.place x).memory = true) : (s.place y).memory = true := by
  have hf : ∀ f, s.farBytes f = s.farBytes f / 64 * 64 := fun f => by
    unfold State.farBytes
    split <;> omega
  unfold State.place at hx ⊢
  split at hx
  · rw [if_pos (by omega)]; rfl
  · rw [if_neg (by omega)]
    split at hx
    · rw [if_pos (by omega)]
      dsimp only at hx ⊢
      split at hx
      · next hlt =>
        have he : (y - 0x100000000000) / 0x8000000000 = (x - 0x100000000000) / 0x8000000000 := by omega
        have hr : (y - 0x100000000000) % 0x8000000000 / 64 = (x - 0x100000000000) % 0x8000000000 / 64 := by omega
        have hb := hf ((x - 0x100000000000) / 0x8000000000)
        rw [he, if_pos (below_of_line hr hb hlt)]
        rfl
      · exact absurd hx Bool.false_ne_true
    · rw [if_neg (by omega)]
      split at hx
      · rw [if_pos (by omega)]; rfl
      · rw [if_neg (by omega)]
        split at hx
        · rw [if_pos (by omega)]; rfl
        · split at hx <;> exact absurd hx Bool.false_ne_true

theorem storeGone_of_line (s : State) {x y : Nat} (h : canonical x / 64 = canonical y / 64) : s.storeGone x = s.storeGone y := by
  have hs : scratchHome (canonical x) = scratchHome (canonical y) := by
    unfold scratchHome
    dsimp only
    generalize canonical x = u at h ⊢
    generalize canonical y = v at h ⊢
    by_cases hc : 0x200000000000 ≤ u ∧ u < 0x200180000000
    · have he : (u - 0x200000000000) / 0x400000 = (v - 0x200000000000) / 0x400000 := by omega
      rw [if_pos hc, if_pos (by omega), he]
    · rw [if_neg hc, if_neg (show ¬ (0x200000000000 ≤ v ∧ v < 0x200180000000) by omega)]
      by_cases hb : 0x210000000000 ≤ u ∧ u < 0x2100C0000000
      · have he : (u - 0x210000000000) / 0x2000000 = (v - 0x210000000000) / 0x2000000 := by omega
        rw [if_pos hb, if_pos (by omega), he]
      · rw [if_neg hb, if_neg (by omega)]
  rw [State.storeGone, State.storeGone, hs]

theorem canonical_canonical (a : Nat) : canonical (canonical a) = canonical a := by
  by_cases h : 0x0C0000000000 ≤ a ∧ a ≤ 0x0CBFFFFFFFFF
  · have hc : canonical a < 0xC000000000 := by
      unfold canonical
      dsimp only
      split <;> omega
    exact if_neg (by omega)
  · have hc : canonical a = a := if_neg h
    rw [hc, hc]

/-- Whether a write lands is the same for all of a line. -/
theorem takes_of_line (s : State) {a i : Nat} (h : a % 64 + i < 64) : s.takes (a + i) ↔ s.takes a := by
  have hc : canonical (a + i) = canonical a + i := canonical_add (by omega)
  have hm := canonical_mod a
  have hl : canonical (a + i) / 64 = canonical a / 64 := by rw [hc]; omega
  have hg : s.storeGone (canonical (a + i)) = s.storeGone (canonical a) :=
    storeGone_of_line s (by rw [canonical_canonical, canonical_canonical, hl])
  unfold State.takes
  rw [hg]
  exact ⟨fun ⟨hp, hq⟩ => ⟨memory_of_line s hl hp, hq⟩, fun ⟨hp, hq⟩ => ⟨memory_of_line s hl.symm hp, hq⟩⟩

/-! ## Parts of a write -/

/-- What a write leaves for the parts that follow it: memory is still bare, and they lead where they led. -/
structure Follows (s t : State) : Prop where
  bare : BareMem t
  takes : ∀ a, t.takes a ↔ s.takes a

theorem takes_of_storesOnly {s t : State} (h : StoresOnly s t) (a : Nat) : t.takes a ↔ s.takes a := by
  have hp : t.place (canonical a) = s.place (canonical a) := State.place_of_flds h.flds (by decide) (by decide) _
  have hg : t.storeGone (canonical a) = s.storeGone (canonical a) := by
    have hb : ∀ b, (t.blk b).gone = (s.blk b).gone := fun b => (congrArg Blk.gone (h.blk b) :)
    unfold State.storeGone
    split
    · rw [hb]
    · rfl
  rw [State.takes, State.takes, hp, hg]

/-- A write that memory takes: the bytes stand in their line; one it does not take leaves memory as it is. -/
structure PartWritten (s t : State) (a : Nat) (l : List Byte) (poison : Bool) : Prop where
  taken : s.takes a → t.mem = s.mem.writeLine (canonical a / 64) (runWrite (canonical a) l poison)
  lost : ¬ s.takes a → t.mem = s.mem
  coh : t.coh = s.coh
  execs : t.execs = s.execs

/-- A write to a line of memory or of a store, behind the wake of what holds it. -/
theorem PartWritten.of_wakes {s u : State} (h : BareMem s) (hu : WakesOnly s u) {a : Nat} (ht : s.takes a) (l : List Byte) (poison : Bool) :
    PartWritten s (u.memWrite (canonical a / 64) (runWrite (canonical a) l poison)) a l poison := by
  obtain ⟨hm, hw⟩ := memWrite_bare (s := u) (by rw [hu.mem]; exact h.1) (canonical a / 64) (runWrite (canonical a) l poison)
  exact ⟨fun _ => by rw [hw, hu.mem], fun hn => absurd ht hn, by rw [hm.coh, hu.coh], by rw [hm.execs, hu.execs]⟩

theorem storePart_written {s : State} (h : BareMem s) (cls a : Nat) (l : List Byte) (poison : Bool) :
    PartWritten s (s.storePart cls a l poison).1 a l poison := by
  have hg := storeGone_of_place s (canonical a)
  have hstay : ∀ {t : State}, ¬ s.takes a → t = s → PartWritten s t a l poison := fun hn he => by
    subst he
    exact ⟨fun ht => absurd ht hn, fun _ => rfl, rfl, rfl⟩
  unfold State.storePart State.ncWrite
  dsimp only
  cases hp : s.place (canonical a) with
  | near r =>
    rw [invalidateAll_id h.2.1]
    exact PartWritten.of_wakes h (WakesOnly.refl s) ⟨by rw [hp]; rfl, by rw [hg, hp]⟩ l poison
  | far f =>
    rw [invalidateAll_id h.2.1]
    exact PartWritten.of_wakes h (WakesOnly.refl s) ⟨by rw [hp]; rfl, by rw [hg, hp]⟩ l poison
  | cellStore k =>
    rw [hp] at hg
    dsimp only at hg ⊢
    split
    · next hgone => exact hstay (fun ht => by rw [ht.2, hgone] at hg; cases hg) rfl
    · next hgone =>
      exact PartWritten.of_wakes h (rouse_wakesOnly s _) ⟨by rw [hp]; rfl, by rw [hg]; exact Bool.eq_false_iff.mpr hgone⟩ l poison
  | blockStore b =>
    exact PartWritten.of_wakes h (rouse_wakesOnly s b) ⟨by rw [hp]; rfl, by rw [hg, hp]⟩ l poison
  | regs off => exact hstay (fun ht => by rw [State.takes, hp] at ht; exact absurd ht.1 Bool.false_ne_true) rfl
  | unmapped => exact hstay (fun ht => by rw [State.takes, hp] at ht; exact absurd ht.1 Bool.false_ne_true) rfl

theorem writePart_written {s : State} (h : BareMem s) (m : Mover) (cls a : Nat) (l : List Byte) (poison : Bool) :
    PartWritten s (s.writePart m cls a l poison).1 a l poison := by
  have hh := haul_traffic s m cls a l.length true
  have hb : BareMem (s.haul m cls a l.length true) := hh.bareMem h
  have hw := storePart_written hb cls a l poison
  have ht := takes_of_storesOnly hh.storesOnly a
  have hs : PartWritten s ((s.haul m cls a l.length true).storePart cls a l poison).1 a l poison :=
    ⟨fun hk => by rw [hw.taken (ht.mpr hk), hh.mem], fun hk => by rw [hw.lost (fun hk' => hk (ht.mp hk')), hh.mem],
      by rw [hw.coh, hh.coh], by rw [hw.execs, hh.execs]⟩
  unfold State.writePart
  dsimp only
  split
  · refine ⟨fun hk => ?_, fun hk => ?_, ?_, ?_⟩ <;> rw [refuse_only]
    · exact hs.taken hk
    · exact hs.lost hk
    · exact hs.coh
    · exact hs.execs
  · rw [unsettle_id (by rw [NoUpdates, hs.execs]; exact h.2.2)]
    exact hs

theorem PartWritten.follows {s t : State} {a : Nat} {l : List Byte} {poison : Bool} (h : BareMem s) (hw : PartWritten s t a l poison)
    (hs : StoresOnly s t) : Follows s t := by
  refine ⟨⟨?_, by rw [hw.coh]; exact h.2.1, by rw [NoUpdates, hw.execs]; exact h.2.2⟩, takes_of_storesOnly hs⟩
  by_cases ht : s.takes a
  · rw [hw.taken ht]
    exact Mem.coded_writeLine h.1 _ _
  · rw [hw.lost ht]
    exact h.1

/-- What one part leaves: where it lands it stands, every other byte reads as before. -/
theorem PartWritten.byte {s t : State} {a : Nat} {l : List Byte} {poison : Bool} (h : BareMem s) (hw : PartWritten s t a l poison)
    (hl : a % 64 + l.length ≤ 64) (b : Nat) :
    (s.takes a → t.mem.byte b = if canonical a ≤ b ∧ b < canonical a + l.length then l.getD (b - canonical a) 0 else s.mem.byte b) ∧
    (¬ s.takes a → t.mem.byte b = s.mem.byte b) := by
  have := canonical_mod a
  exact ⟨fun ht => by rw [hw.taken ht]; exact Mem.byte_writeRun h.1 _ _ _ (by omega) b, fun ht => by rw [hw.lost ht]⟩

/-- Every byte of a range lies in one of its parts. -/
theorem splitRange_covers {a n i : Nat} (hi : i < n) : ∃ p ∈ splitRange a n, p.1 ≤ a + i ∧ a + i < p.1 + p.2 := by
  unfold splitRange linesOfRange
  rw [if_neg (by omega)]
  simp only [List.map_map, List.mem_map, List.mem_range, Function.comp_apply]
  refine ⟨_, ⟨(a + i) / 64 - a / 64, by omega, rfl⟩, ?_⟩
  dsimp only
  omega

section
variable {m : Mover} {cls a : Nat} {l : List Byte} {poison : Bool}

/-- Parts within lines change of memory only what they cover. -/
theorem writeParts_outside (parts : List (Nat × Nat)) {s : State} (h : BareMem s) (hp : ∀ p ∈ parts, p.1 % 64 + p.2 ≤ 64) {b : Nat}
    (hb : ∀ p ∈ parts, ∀ i < p.2, canonical (p.1 + i) ≠ b) : (s.writeParts m cls a l poison parts).mem.byte b = s.mem.byte b := by
  induction parts generalizing s with
  | nil => rfl
  | cons p t ih =>
    have hps := hp p List.mem_cons_self
    have hlen : ((l.drop (p.1 - a)).take p.2).length ≤ p.2 := List.length_take_le _ _
    have hw := writePart_written h m cls p.1 ((l.drop (p.1 - a)).take p.2) poison
    have hf := hw.follows h (writePart_storesOnly _ _ _ _ _ _)
    refine (ih hf.bare (fun q hq => hp q (List.mem_cons_of_mem _ hq)) (fun q hq => hb q (List.mem_cons_of_mem _ hq))).trans ?_
    obtain ⟨hin, hout⟩ := hw.byte h (by omega) b
    by_cases ht : s.takes p.1
    · rw [hin ht, if_neg]
      rintro ⟨hlo, hhi⟩
      refine hb p List.mem_cons_self (b - canonical p.1) (by omega) ?_
      rw [canonical_add (by omega)]
      omega
    · exact hout ht

/-- Parts that follow one another within 1 GiB hold what was written, where they land. -/
theorem writeParts_inside (parts : List (Nat × Nat)) {s : State} (h : BareMem s) (hp : ∀ p ∈ parts, p.1 % 64 + p.2 ≤ 64)
    (hr : ∀ p ∈ parts, a ≤ p.1 ∧ p.1 + p.2 ≤ a + l.length) (hn : l.length ≤ 2 ^ 30) (hw : parts.Pairwise (fun p q => p.1 + p.2 ≤ q.1)) :
    ∀ p ∈ parts, s.takes p.1 → ∀ i < p.2, (s.writeParts m cls a l poison parts).mem.byte (canonical (p.1 + i)) = l.getD (p.1 + i - a) 0 := by
  induction parts generalizing s with
  | nil => exact fun p hp => absurd hp List.not_mem_nil
  | cons q t ih =>
    obtain ⟨hqt, ht⟩ := List.pairwise_cons.mp hw
    have hqs := hp q List.mem_cons_self
    obtain ⟨hlo, hhi⟩ := hr q List.mem_cons_self
    have hpw := writePart_written h m cls q.1 ((l.drop (q.1 - a)).take q.2) poison
    have hf := hpw.follows h (writePart_storesOnly _ _ _ _ _ _)
    have hpt : ∀ p ∈ t, p.1 % 64 + p.2 ≤ 64 := fun p hpm => hp p (List.mem_cons_of_mem _ hpm)
    intro p hpm hk i hi
    rcases List.mem_cons.mp hpm with rfl | hpm
    · have hlen : ((l.drop (p.1 - a)).take p.2).length = p.2 := by
        rw [List.length_take, List.length_drop]; omega
      refine (writeParts_outside t hf.bare hpt (fun q hq k hk => canonical_ne_of_follow (hqt q hq) hi hlo
        (hr q (List.mem_cons_of_mem _ hq)).2 hk hn)).trans ?_
      have hc : canonical (p.1 + i) = canonical p.1 + i := canonical_add (by omega)
      rw [(hpw.byte h (by omega) _).1 hk, hlen, if_pos (by omega), hc, Nat.add_sub_cancel_left,
        List.getD_eq_getElem?_getD, List.getD_eq_getElem?_getD, List.getElem?_take_of_lt hi, List.getElem?_drop]
      congr 2
      omega
    · exact ih hf.bare hpt (fun p hp => hr p (List.mem_cons_of_mem _ hp)) ht p hpm ((hf.takes _).mpr hk) i hi

/-- A write of a range leaves every byte outside it. -/
theorem writeBytes_outside {s : State} (h : BareMem s) {b : Nat} (hb : ∀ i, i < l.length → canonical (a + i) ≠ b) :
    (s.writeBytes m cls a l poison).1.mem.byte b = s.mem.byte b := by
  rw [writeBytes_parts]
  refine writeParts_outside _ h (fun p hp => (mem_splitRange hp).2.2.2) (fun p hp i hi => ?_)
  obtain ⟨hlo, hhi, -, -⟩ := mem_splitRange hp
  have := hb (p.1 + i - a) (by omega)
  rwa [show a + (p.1 + i - a) = p.1 + i by omega] at this

/-- A write of a range of at most 1 GiB stands where it lands. -/
theorem writeBytes_inside {s : State} (h : BareMem s) (hn : l.length ≤ 2 ^ 30) {i : Nat} (hi : i < l.length) (ht : s.takes (a + i)) :
    (s.writeBytes m cls a l poison).1.mem.byte (canonical (a + i)) = l.getD i 0 := by
  obtain ⟨p, hp, hlo, hhi⟩ : ∃ p ∈ splitRange a l.length, p.1 ≤ a + i ∧ a + i < p.1 + p.2 := splitRange_covers hi
  have hps := (mem_splitRange hp).2.2.2
  have h1 : p.1 + (a + i - p.1) = a + i := by omega
  have hk : s.takes p.1 := (takes_of_line s (i := a + i - p.1) (by omega)).mp (by rw [h1]; exact ht)
  rw [writeBytes_parts]
  have := writeParts_inside (m := m) (cls := cls) (a := a) (l := l) (poison := poison) (splitRange a l.length) h
    (fun p hp => (mem_splitRange hp).2.2.2) (fun p hp => ⟨(mem_splitRange hp).1, (mem_splitRange hp).2.1⟩) hn
    (splitRange_pairwise a l.length) p hp hk (a + i - p.1) (by omega)
  rw [h1, Nat.add_sub_cancel_left] at this
  exact this

end

end Sys2Proof.Machine
end

section
/-! SUPPORT. What a stop of boot and a change of the port mode leave (R506, R569, R570). -/

namespace Sys2Proof.Machine

set_option Elab.async false

/-! ## Loops that write -/

/-- What one step of a loop brings about and the others keep holds after the loop. -/
theorem foldl_reaches {α β : Type} {P : β → Prop} {g : β → α → β} {a : α} (hw : ∀ b, P (g b a)) (hk : ∀ b c, P b → P (g b c))
    {l : List α} (ha : a ∈ l) (b : β) : P (l.foldl g b) := by
  induction l generalizing b with
  | nil => exact absurd ha List.not_mem_nil
  | cons c l ih =>
    rcases List.mem_cons.mp ha with rfl | hl
    · exact foldl_keeps P g hk l (hw b)
    · exact ih hl _

/-- Nothing but registers differs between two states. -/
def RegsOnly (s t : State) : Prop := t = { s with regs := t.regs }

/-- Nothing but registers and the Kettle's part differs between two states. -/
def SetupOnly (s t : State) : Prop := t = { s with regs := t.regs, ktl := t.ktl }

theorem RegsOnly.trans {s t u : State} (h : RegsOnly s t) (k : RegsOnly t u) : RegsOnly s u := by
  unfold RegsOnly at *
  rw [k, h]

theorem SetupOnly.trans {s t u : State} (h : SetupOnly s t) (k : SetupOnly t u) : SetupOnly s u := by
  unfold SetupOnly at *
  rw [k, h]

theorem RegsOnly.ktl {s t : State} (h : RegsOnly s t) : t.ktl = s.ktl := by rw [h]

theorem RegsOnly.setup {s t : State} (h : RegsOnly s t) : SetupOnly s t := by
  unfold SetupOnly
  rw [h.ktl]
  exact h

theorem setFld_regsOnly (s : State) (f : Fld) (i v j : Nat) : RegsOnly s (s.setFld f i v j) := rfl

theorem setFld_setupOnly (s : State) (f : Fld) (i v j : Nat) : SetupOnly s (s.setFld f i v j) := rfl

theorem setKtl_setupOnly (s : State) (k : Ktl) : SetupOnly s (s.setKtl k) := rfl

theorem regsOnly_foldl {α : Type} {g : State → α → State} (h : ∀ s a, RegsOnly s (g s a)) (l : List α) (s : State) :
    RegsOnly s (l.foldl g s) :=
  foldl_keeps (RegsOnly s) g (fun t a ht => ht.trans (h t a)) l rfl

/-! ## The port mode (R506) -/

/-- The lanes of a port in a mode. -/
def portWidth (mode p : Nat) : Nat := if mode = 0 then (if p = 0 then 8 else 0) else if mode = 1 then (if p < 2 then 4 else 0) else 2

theorem setMode_regsOnly (s : State) (mode : Nat) : RegsOnly s (s.setMode mode) := by
  unfold State.setMode
  exact regsOnly_foldl (fun t p => (setFld_regsOnly t _ _ _ _).trans (setFld_regsOnly _ _ _ _ _)) _ s

theorem setMode_flds (s : State) (mode : Nat) : FldsBut [Fld.HPT_CFG_MODE.code, Fld.HPT_CFG_WIDTH.code] s (s.setMode mode) :=
  fldsBut_foldl (fun t p => (fldsBut_setFld t .HPT_CFG_MODE p _ 0 (by decide)).trans (fldsBut_setFld _ .HPT_CFG_WIDTH p _ 0 (by decide))) _ s

theorem portWidth_wide (p : Port) : portWidth 0 p = if p = 0 then 8 else 0 := by
  revert p
  decide

theorem portWidth_lt (mode p : Nat) : portWidth mode p < 2 ^ 4 := by
  unfold portWidth
  split
  · split <;> decide
  · split
    · split <;> decide
    · decide

theorem setMode_port (s : State) (mode : Nat) (p : Port) :
    (s.setMode mode).fld .HPT_CFG_MODE p = mode % 4 ∧ (s.setMode mode).fld .HPT_CFG_WIDTH p = portWidth mode p := by
  have hset : ∀ t : State, ((t.setFld .HPT_CFG_MODE p mode).setFld .HPT_CFG_WIDTH p (portWidth mode p)).fld .HPT_CFG_MODE p = mode % 4 ∧
      ((t.setFld .HPT_CFG_MODE p mode).setFld .HPT_CFG_WIDTH p (portWidth mode p)).fld .HPT_CFG_WIDTH p = portWidth mode p := fun t => by
    refine ⟨?_, (State.fld_setFld_same _ _ _ _ _).trans (Nat.mod_eq_of_lt (portWidth_lt mode p))⟩
    rw [State.fld_setFld_code _ _ (by decide)]
    exact State.fld_setFld_same _ _ _ _ _
  refine foldl_reaches (a := p.val) (P := fun t : State => t.fld .HPT_CFG_MODE p = mode % 4 ∧ t.fld .HPT_CFG_WIDTH p = portWidth mode p) hset ?_
    (List.mem_range.mpr p.isLt) s
  intro t q ht
  by_cases hq : p.val = q
  · rw [← hq]
    exact hset t
  · rw [State.fld_setFld_inst _ _ hq, State.fld_setFld_inst _ _ hq, State.fld_setFld_inst _ _ hq, State.fld_setFld_inst _ _ hq]
    exact ht

/-! ## Domains off, and the Kettle-only state (R569, R570) -/

/-- The domains that a stop of boot leaves on. -/
def Domains.onlyHost (d : Domains) : Domains := { d with fabric := false, logic := false, cores := false, far := false }

theorem mainOff_facts (s : State) : (∀ x, s.mainOff.exe x = {}) ∧ s.mainOff.net.items = [] ∧
    (∀ l : Link, s.mainOff.fld .LNK_STAT_STATE l = 0) ∧ s.mainOff.ktl = { s.ktl with dom := s.ktl.dom.onlyHost } ∧ s.mainOff.mem = s.mem ∧
    FldsBut [Fld.LNK_STAT_STATE.code] s s.mainOff := by
  unfold State.mainOff
  extract_lets d n k u
  have hr : RegsOnly u ((List.range 24).foldl (fun (s : State) l => s.setFld .LNK_STAT_STATE l 0) u) :=
    regsOnly_foldl (fun t l => setFld_regsOnly t _ _ _ _) _ u
  have hf : FldsBut [Fld.LNK_STAT_STATE.code] u ((List.range 24).foldl (fun (s : State) l => s.setFld .LNK_STAT_STATE l 0) u) :=
    fldsBut_foldl (fun t l => fldsBut_setFld t .LNK_STAT_STATE l 0 0 (by decide)) _ u
  have hl : ∀ l : Link, ((List.range 24).foldl (fun (s : State) l => s.setFld .LNK_STAT_STATE l 0) u).fld .LNK_STAT_STATE l = 0 := fun l => by
    refine foldl_reaches (a := l.val) (P := fun t : State => t.fld .LNK_STAT_STATE l = 0) (fun t => State.fld_setFld_same _ _ _ _ _) ?_
      (List.mem_range.mpr l.isLt) u
    intro t j ht
    by_cases hj : l.val = j
    · rw [← hj]
      exact State.fld_setFld_same _ _ _ _ _
    · rw [State.fld_setFld_inst _ _ hj]
      exact ht
  generalize (List.range 24).foldl (fun (s : State) l => s.setFld .LNK_STAT_STATE l 0) u = t at hr hf hl ⊢
  refine ⟨fun x => ?_, ?_, hl, ?_, ?_, (FldsBut.of_regs rfl).trans hf⟩ <;> rw [hr] <;> rfl

/-- Boot has stopped with a FAIL code: what is on, and what is gone (R569, R570). -/
def Stopped (s t : State) (fail : Nat) : Prop :=
  t.fld .KTL_BOOT_KONLY 0 = 1 ∧ t.fld .KTL_BOOT_FAIL 0 = fail ∧ t.fld .KTL_ALERT_KONLY 0 = 1 ∧
  (∀ x, t.exe x = {}) ∧ t.net.items = [] ∧ (∀ l : Link, t.fld .LNK_STAT_STATE l = 0) ∧ t.ktl.dom.hostPort = s.ktl.dom.hostPort ∧
  t.ktl.dom.fabric = false ∧ t.ktl.resetting = false ∧ t.mem = s.mem ∧
  (fail ≤ 4 → ∀ p : Port, t.fld .HPT_CFG_MODE p = 0 ∧ t.fld .HPT_CFG_WIDTH p = if p = 0 then 8 else 0)

/-- The register fields of a stop of boot. -/
def stopFlds : List Nat :=
  [Fld.KTL_BOOT_KONLY.code, Fld.KTL_BOOT_FAIL.code, Fld.KTL_ALERT_KONLY.code, Fld.HPT_CFG_MODE.code, Fld.HPT_CFG_WIDTH.code,
    Fld.LNK_STAT_STATE.code]

/-- The marks of a stop of boot, and the port mode where no record has been applied (R570). -/
def State.stopMarks (s : State) (fail : Nat) : State :=
  (((s.setFld .KTL_BOOT_KONLY 0 1).setFld .KTL_BOOT_FAIL 0 fail).setFld .KTL_ALERT_KONLY 0 1).iff (decide (fail ≤ 4)) (fun s => s.setMode 0)

theorem stopMarks_regsOnly (s : State) (fail : Nat) : RegsOnly s (s.stopMarks fail) := by
  have hu := ((setFld_regsOnly s .KTL_BOOT_KONLY 0 1 0).trans (setFld_regsOnly _ .KTL_BOOT_FAIL 0 fail 0)).trans
    (setFld_regsOnly _ .KTL_ALERT_KONLY 0 1 0)
  unfold State.stopMarks State.iff
  split
  · exact hu.trans (setMode_regsOnly _ 0)
  · exact hu

theorem stopMarks_shown (s : State) {fail : Nat} (hf : fail < 256) : (s.stopMarks fail).fld .KTL_BOOT_KONLY 0 = 1 ∧
    (s.stopMarks fail).fld .KTL_BOOT_FAIL 0 = fail ∧ (s.stopMarks fail).fld .KTL_ALERT_KONLY 0 = 1 ∧
    (fail ≤ 4 → ∀ p : Port, (s.stopMarks fail).fld .HPT_CFG_MODE p = 0 ∧
      (s.stopMarks fail).fld .HPT_CFG_WIDTH p = if p = 0 then 8 else 0) ∧ FldsBut stopFlds s (s.stopMarks fail) := by
  unfold State.stopMarks
  have hkonly := State.fld_setFld_same s .KTL_BOOT_KONLY 0 1 0
  have hfail := State.fld_setFld_same (s.setFld .KTL_BOOT_KONLY 0 1) .KTL_BOOT_FAIL 0 fail 0
  have halert := State.fld_setFld_same ((s.setFld .KTL_BOOT_KONLY 0 1).setFld .KTL_BOOT_FAIL 0 fail) .KTL_ALERT_KONLY 0 1 0
  have huf : FldsBut stopFlds s (((s.setFld .KTL_BOOT_KONLY 0 1).setFld .KTL_BOOT_FAIL 0 fail).setFld .KTL_ALERT_KONLY 0 1) :=
    (((FldsBut.refl _ s).setFld (by decide) _ _ _).setFld (by decide) _ _ _).setFld (by decide) _ _ _
  have h1 : (((s.setFld .KTL_BOOT_KONLY 0 1).setFld .KTL_BOOT_FAIL 0 fail).setFld .KTL_ALERT_KONLY 0 1).fld .KTL_BOOT_KONLY 0 = 1 := by
    rw [State.fld_setFld_code _ _ (by decide), State.fld_setFld_code _ _ (by decide), hkonly]
    rfl
  have h2 : (((s.setFld .KTL_BOOT_KONLY 0 1).setFld .KTL_BOOT_FAIL 0 fail).setFld .KTL_ALERT_KONLY 0 1).fld .KTL_BOOT_FAIL 0 = fail := by
    rw [State.fld_setFld_code _ _ (by decide), hfail]
    exact Nat.mod_eq_of_lt hf
  generalize ((s.setFld .KTL_BOOT_KONLY 0 1).setFld .KTL_BOOT_FAIL 0 fail).setFld .KTL_ALERT_KONLY 0 1 = u at halert huf h1 h2 ⊢
  have hv : FldsBut [Fld.HPT_CFG_MODE.code, Fld.HPT_CFG_WIDTH.code] u (u.iff (decide (fail ≤ 4)) (fun s => s.setMode 0)) := by
    unfold State.iff
    split
    · exact setMode_flds u 0
    · exact FldsBut.refl _ u
  refine ⟨(hv _ _ _ (by decide)).trans h1, (hv _ _ _ (by decide)).trans h2, (hv _ _ _ (by decide)).trans halert, fun h p => ?_,
    huf.trans (hv.mono (by decide))⟩
  have hp := setMode_port u 0 p
  rw [State.iff, if_pos (decide_eq_true h)]
  exact ⟨hp.1, hp.2.trans (portWidth_wide p)⟩

theorem kettleOnly_eq (s : State) (fail : Nat) : s.kettleOnly fail =
    (s.stopMarks fail).mainOff.setKtl { (s.stopMarks fail).mainOff.ktl with resetting := false } := rfl

theorem kettleOnly_ktl (s : State) (fail : Nat) :
    (s.kettleOnly fail).ktl = { s.ktl with dom := s.ktl.dom.onlyHost, resetting := false } := by
  obtain ⟨-, -, -, hktl, -, -⟩ := mainOff_facts (s.stopMarks fail)
  have hm := (stopMarks_regsOnly s fail).ktl
  rw [kettleOnly_eq]
  generalize (s.stopMarks fail).mainOff = w at hktl ⊢
  rw [State.setKtl, hktl, hm]

theorem kettleOnly_flds (s : State) {fail : Nat} (hf : fail < 256) : FldsBut stopFlds s (s.kettleOnly fail) := by
  obtain ⟨-, -, -, -, -, hwf⟩ := mainOff_facts (s.stopMarks fail)
  obtain ⟨-, -, -, -, hmf⟩ := stopMarks_shown s hf
  rw [kettleOnly_eq]
  generalize (s.stopMarks fail).mainOff = w at hwf ⊢
  exact (hmf.trans (hwf.mono (by decide))).trans (FldsBut.of_regs rfl)

theorem kettleOnly_stopped (s : State) {fail : Nat} (hf : fail < 256) : Stopped s (s.kettleOnly fail) fail := by
  have hk := kettleOnly_ktl s fail
  obtain ⟨hexe, hitems, hlink, -, hmem, hwf⟩ := mainOff_facts (s.stopMarks fail)
  obtain ⟨hkonly, hfail, halert, hmode, -⟩ := stopMarks_shown s hf
  have hreg := stopMarks_regsOnly s fail
  rw [kettleOnly_eq] at hk ⊢
  generalize (s.stopMarks fail).mainOff = w at hk hexe hitems hlink hmem hwf ⊢
  refine ⟨(hwf _ _ _ (by decide)).trans hkonly, (hwf _ _ _ (by decide)).trans hfail, (hwf _ _ _ (by decide)).trans halert, hexe, hitems,
    hlink, by rw [hk]; rfl, by rw [hk]; rfl, by rw [hk], hmem.trans (by rw [hreg]), fun h p => ?_⟩
  exact ⟨(hwf _ _ _ (by decide)).trans (hmode h p).1, (hwf _ _ _ (by decide)).trans (hmode h p).2⟩

end Sys2Proof.Machine
end

section
/-! SUPPORT. Stages 1 to 4 of boot (R506, R566 to R575, R588, R612 to R614). -/

namespace Sys2Proof.Machine

set_option Elab.async false

theorem Stopped.of_same {s u t : State} {fail : Nat} (h : Stopped u t fail) (hd : u.ktl.dom.hostPort = s.ktl.dom.hostPort)
    (hm : u.mem = s.mem) : Stopped s t fail := by
  obtain ⟨h1, h2, h3, h4, h5, h6, h7, h8, h9, h10, h11⟩ := h
  exact ⟨h1, h2, h3, h4, h5, h6, h7.trans hd, h8, h9, h10.trans hm, h11⟩

theorem toStage_shown (s : State) {k : Nat} (hk : k < 16) : (s.toStage k).fld .KTL_BOOT_STAGE 0 = k :=
  (State.fld_setFld_same _ _ _ _ _).trans (Nat.mod_eq_of_lt hk)

theorem toStage_regs (s : State) (k : Nat) : RegsBut s (s.toStage k) [Fld.KTL_BOOT_STAGE.key 0 0] :=
  fun _ hk => State.regs_setFld_other s k (fun e => hk (List.mem_singleton.mpr e))

/-! ## Stage 1 (R569, R605) -/

/-- The Kettle as stage 1 finds it. -/
def Ktl.started (k : Ktl) (rep : StandbyReport) : Ktl :=
  { k with
    standby := true, stage1Due := false, maddr := rep.maddr.val, identity := rep.selfTest && rep.pufOk
    persist := { k.persist with boots := (k.persist.boots + 1) % 2 ^ 32 } }

theorem standbyPowerUp_next (rep : StandbyReport) {s : State} (h : s.ktl.stage1Due = true) : exec (.standbyPowerUp rep) s =
    .next (if !rep.selfTest then ((s.setKtl (s.ktl.started rep)).toStage 1).kettleOnly 1
      else if !rep.pufOk then ((s.setKtl (s.ktl.started rep)).toStage 1).kettleOnly 2
      else ((s.setKtl (s.ktl.started rep)).toStage 1).toStage 2) := by
  show execStandbyPowerUp rep s = _
  unfold execStandbyPowerUp
  rw [h]
  rfl

/-- The boot counter counts, and MADDR is sampled (R578, R605). -/
def Counted (s t : State) (rep : StandbyReport) : Prop :=
  t.ktl.persist = { s.ktl.persist with boots := (s.ktl.persist.boots + 1) % 2 ^ 32 } ∧ t.ktl.stage1Due = false ∧
  t.ktl.maddr = rep.maddr.val ∧ (t.ktl.identity = (rep.selfTest && rep.pufOk))

theorem counted_stop (s : State) (rep : StandbyReport) {fail : Nat} (hf : fail < 256) :
    Counted s (((s.setKtl (s.ktl.started rep)).toStage 1).kettleOnly fail) rep ∧
    Stopped s (((s.setKtl (s.ktl.started rep)).toStage 1).kettleOnly fail) fail := by
  refine ⟨?_, (kettleOnly_stopped _ hf).of_same rfl rfl⟩
  unfold Counted
  rw [kettleOnly_ktl]
  exact ⟨rfl, rfl, rfl, rfl⟩

theorem started_goes_on (s : State) (rep : StandbyReport) :
    Counted s (((s.setKtl (s.ktl.started rep)).toStage 1).toStage 2) rep ∧
    (((s.setKtl (s.ktl.started rep)).toStage 1).toStage 2).fld .KTL_BOOT_STAGE 0 = 2 ∧
    SetupOnly s (((s.setKtl (s.ktl.started rep)).toStage 1).toStage 2) ∧
    RegsBut s (((s.setKtl (s.ktl.started rep)).toStage 1).toStage 2) [Fld.KTL_BOOT_STAGE.key 0 0] := by
  refine ⟨⟨rfl, rfl, rfl, rfl⟩, toStage_shown _ (by decide), ?_, fun k hk => ?_⟩
  · exact ((setKtl_setupOnly s _).trans (setFld_setupOnly _ _ _ _ _)).trans (setFld_setupOnly _ _ _ _ _)
  · exact (toStage_regs _ 2 k hk).trans (toStage_regs (s.setKtl (s.ktl.started rep)) 1 k hk)

/-! ## Signed objects: they depend on the flash and the security versions (R566 to R568) -/

theorem objectOk_of_ktl {s t : State} (hf : t.ktl.persist.flash = s.ktl.persist.flash) (hv : t.ktl.persist.svn = s.ktl.persist.svn)
    (slot type : Nat) (sigs : Sigs) : t.objectOk slot type sigs = s.objectOk slot type sigs := by
  unfold State.objectOk State.objLen State.objHeader Persist.bytes
  rw [hf, hv]

theorem measure_setupOnly (s : State) (i : Nat) (l : List Byte) : SetupOnly s (s.measure i l) := rfl

theorem measured_measure (s : State) (i : Nat) (l : List Byte) :
    Tbl.get (s.measure i l).ktl.measured [] i = Sys2Proof.Config.sha384 l := Tbl.get_set_same _ _ _ _

/-! ## Stage 2 (R571) -/

/-- Whether the pending slot is tried. -/
def Persist.trial (p : Persist) : Bool := p.pendingSlot && decide (p.tries < 3)

/-- The slot tried first. -/
def Persist.first (p : Persist) : Nat := if p.trial then 1 - p.active else p.active

/-- The flash's marks once a slot is tried. -/
def Persist.tried (p : Persist) : Persist := { p with pendingSlot := p.trial, tries := if p.trial then p.tries + 1 else p.tries }

/-- The Kettle firmware of a slot passes its checks. -/
def State.slotOk (s : State) (a b : Sigs) (slot : Nat) : Bool := s.objectOk slot 1 (if slot = 0 then a else b)

/-- The slot that boots when one of the two passes. -/
def State.slotChosen (s : State) (a b : Sigs) : Nat :=
  if s.slotOk a b s.ktl.persist.first then s.ktl.persist.first else 1 - s.ktl.persist.first

/-- The state with its slot's trial noted. -/
def State.tried (s : State) : State := s.setKtl { s.ktl with persist := s.ktl.persist.tried }

theorem bootSlotChoice_next (a b : Sigs) {s : State} (h : s.atStage 2 = true) : exec (.bootSlotChoice a b) s =
    .next (if !s.slotOk a b s.ktl.persist.first && !s.slotOk a b (1 - s.ktl.persist.first) then s.tried.kettleOnly 3
      else (((s.tried.setFld .KTL_BOOT_SLOT 0 (s.slotChosen a b)).measure 1 Sys2Proof.Config.bootRom).measure 2
        (s.objBytes (s.slotChosen a b) 1)).toStage 3) := by
  show execBootSlotChoice a b s = _
  have hok : ∀ slot, s.tried.slotOk a b slot = s.slotOk a b slot := fun slot => objectOk_of_ktl rfl rfl _ _ _
  unfold execBootSlotChoice
  rw [h, Bool.not_true, if_neg Bool.false_ne_true]
  show Host.Outcome.next (if !s.tried.slotOk a b s.ktl.persist.first && !s.tried.slotOk a b (1 - s.ktl.persist.first) then s.tried.kettleOnly 3
      else (((s.tried.setFld .KTL_BOOT_SLOT 0 (if s.tried.slotOk a b s.ktl.persist.first then s.ktl.persist.first else
          1 - s.ktl.persist.first)).measure 1 Sys2Proof.Config.bootRom).measure 2
        (State.objBytes _ (if s.tried.slotOk a b s.ktl.persist.first then s.ktl.persist.first else 1 - s.ktl.persist.first) 1)).toStage 3) = _
  rw [hok, hok]
  rfl

theorem slotChosen_facts (s : State) (slot : Nat) :
    let t := (((s.tried.setFld .KTL_BOOT_SLOT 0 slot).measure 1 Sys2Proof.Config.bootRom).measure 2 (s.objBytes slot 1)).toStage 3
    t.ktl.persist = s.ktl.persist.tried ∧ t.fld .KTL_BOOT_STAGE 0 = 3 ∧ (slot < 2 → t.fld .KTL_BOOT_SLOT 0 = slot) ∧
    Tbl.get t.ktl.measured [] 2 = Sys2Proof.Config.sha384 (s.objBytes slot 1) ∧ SetupOnly s t := by
  refine ⟨rfl, toStage_shown _ (by decide), fun hs => ?_, measured_measure _ _ _, ?_⟩
  · refine (State.fld_setFld_code _ _ (by decide)).trans ?_
    exact (State.fld_setFld_same s.tried .KTL_BOOT_SLOT 0 slot 0).trans (Nat.mod_eq_of_lt hs)
  · exact ((((setKtl_setupOnly s _).trans (setFld_setupOnly _ _ _ _ _)).trans (measure_setupOnly _ _ _)).trans
      (measure_setupOnly _ _ _)).trans (setFld_setupOnly _ _ _ _ _)

end Sys2Proof.Machine
end

section
/-! SUPPORT. Stages 3 and 4 of boot: the personality record and the domains (R506, R574, R575, R588, R612 to R614). -/

namespace Sys2Proof.Machine

set_option Elab.async false

/-! ## The record (R574, R575) -/

theorem leNat_lt (l : List Byte) : leNat l < 2 ^ (8 * l.length) := by
  induction l with
  | nil => decide
  | cons b l ih =>
    have hb := b.isLt
    rw [leNat, List.length_cons, Nat.mul_succ, Nat.pow_add]
    omega

theorem fieldAt_lt (l : List Byte) (i k : Nat) : fieldAt l i k < 2 ^ (8 * k) :=
  Nat.lt_of_lt_of_le (leNat_lt _) (Nat.pow_le_pow_right (by decide) (Nat.mul_le_mul_left 8 (List.length_take_le _ _)))

/-- What the Kettle keeps of a record. -/
def State.personaOf (s : State) (r : List Byte) : Persona :=
  { spare := (List.range 96).map (fun b => s.appliedMask r b), badLinks := (List.range 24).filter (fun l => recordLinkBad r l)
    farPop := (List.range 12).map (fun f => recordFar r f), pmax := fieldAt r 480 2, pfast := fieldAt r 482 2
    tjThr := fieldAt r 484 1, cstepMin := fieldAt r 485 1 }

/-- The enable masks written block by block. -/
def State.setMasks (s : State) (l : List Nat) : State :=
  (List.range 96).foldl (fun (s : State) b => s.setFld .BLK_SPARE_ENABLE b (l.getD b 0)) s

theorem setMasks_regsOnly (s : State) (l : List Nat) : RegsOnly s (s.setMasks l) :=
  regsOnly_foldl (fun t _ => setFld_regsOnly t _ _ _ _) _ s

theorem setMasks_flds (s : State) (l : List Nat) : FldsBut [Fld.BLK_SPARE_ENABLE.code] s (s.setMasks l) :=
  fldsBut_foldl (fun t b => fldsBut_setFld t .BLK_SPARE_ENABLE b _ 0 (by decide)) _ s

theorem setMasks_block (s : State) (l : List Nat) (b : Block) : (s.setMasks l).fld .BLK_SPARE_ENABLE b = l.getD b 0 % 2 ^ 17 := by
  unfold State.setMasks
  refine foldl_reaches (a := b.val) (P := fun t : State => t.fld .BLK_SPARE_ENABLE b = l.getD b 0 % 2 ^ 17)
    (fun t => State.fld_setFld_same t _ _ _ _) (fun t c ht => ?_) (List.mem_range.mpr b.isLt) s
  by_cases hc : b.val = c
  · rw [← hc]
    exact State.fld_setFld_same t _ _ _ _
  · exact (State.fld_setFld_inst _ _ hc).trans ht

/-- The limits of a record, the power cap standing at PMAX (R575, R594). -/
def State.setLimits (s : State) (r : List Byte) : State :=
  ((s.setFld .KTL_PWR_PCAP 0 (fieldAt r 480 2)).setFld .KTL_PWR_CAPINT 0 1).setFld .KTL_THERM_TJ_THR 0 (fieldAt r 484 1)

theorem applyRecord_eq (s : State) (r : List Byte) : s.applyRecord r =
    (((s.setKtl { s.ktl with persona := s.personaOf r }).setMode (fieldAt r 25 1 % 4)).setMasks
      ((List.range 96).map (fun b => s.appliedMask r b))).setLimits r := rfl

theorem setLimits_flds (s : State) (r : List Byte) :
    FldsBut [Fld.KTL_PWR_PCAP.code, Fld.KTL_PWR_CAPINT.code, Fld.KTL_THERM_TJ_THR.code] s (s.setLimits r) :=
  (((FldsBut.refl _ s).setFld (by decide) _ _ _).setFld (by decide) _ _ _).setFld (by decide) _ _ _

theorem setLimits_shown (s : State) (r : List Byte) : (s.setLimits r).fld .KTL_PWR_PCAP 0 = fieldAt r 480 2 ∧
    (s.setLimits r).fld .KTL_THERM_TJ_THR 0 = fieldAt r 484 1 := by
  refine ⟨?_, (State.fld_setFld_same _ _ _ _ _).trans (Nat.mod_eq_of_lt (fieldAt_lt r 484 1))⟩
  refine (State.fld_setFld_code _ _ (by decide)).trans ((State.fld_setFld_code _ _ (by decide)).trans ?_)
  exact (State.fld_setFld_same _ _ _ _ _).trans (Nat.mod_eq_of_lt (fieldAt_lt r 480 2))

/-- A record applied: what the registers show, and what the Kettle keeps. -/
structure Applied (s t : State) (r : List Byte) : Prop where
  mask : ∀ b : Block, t.fld .BLK_SPARE_ENABLE b = s.appliedMask r b % 2 ^ 17
  cap : t.fld .KTL_PWR_PCAP 0 = fieldAt r 480 2
  tj : t.fld .KTL_THERM_TJ_THR 0 = fieldAt r 484 1
  port : ∀ p : Port, t.fld .HPT_CFG_MODE p = fieldAt r 25 1 % 4 ∧ t.fld .HPT_CFG_WIDTH p = portWidth (fieldAt r 25 1 % 4) p
  persona : t.ktl.persona = s.personaOf r
  setup : SetupOnly s t

theorem applyRecord_applied (s : State) (r : List Byte) : Applied s (s.applyRecord r) r := by
  have hmask : ∀ b : Block, ((List.range 96).map (fun b => s.appliedMask r b)).getD b 0 = s.appliedMask r b :=
    fun b => getD_map_range _ 0 b.isLt
  rw [applyRecord_eq]
  have h1 : SetupOnly s (s.setKtl { s.ktl with persona := s.personaOf r }) := setKtl_setupOnly s _
  have hk1 : (s.setKtl { s.ktl with persona := s.personaOf r }).ktl.persona = s.personaOf r := rfl
  generalize s.setKtl { s.ktl with persona := s.personaOf r } = u1 at h1 hk1 ⊢
  have h2 := setMode_regsOnly u1 (fieldAt r 25 1 % 4)
  have hp := setMode_port u1 (fieldAt r 25 1 % 4)
  generalize u1.setMode (fieldAt r 25 1 % 4) = u2 at h2 hp ⊢
  have h3 := setMasks_regsOnly u2 ((List.range 96).map (fun b => s.appliedMask r b))
  have hf3 := setMasks_flds u2 ((List.range 96).map (fun b => s.appliedMask r b))
  have hb3 := setMasks_block u2 ((List.range 96).map (fun b => s.appliedMask r b))
  generalize u2.setMasks ((List.range 96).map (fun b => s.appliedMask r b)) = u3 at h3 hf3 hb3 ⊢
  have hf4 := setLimits_flds u3 r
  have h4 : SetupOnly u3 (u3.setLimits r) := rfl
  have hk : (u3.setLimits r).ktl = u1.ktl := h3.ktl.trans h2.ktl
  obtain ⟨hcap, htj⟩ := setLimits_shown u3 r
  refine ⟨fun b => ?_, hcap, htj, fun p => ⟨?_, ?_⟩, by rw [hk, hk1], (h1.trans h2.setup).trans (h3.setup.trans h4)⟩
  · rw [hf4 _ _ _ (by decide), hb3, hmask]
  · rw [hf4 _ _ _ (by decide), hf3 _ _ _ (by decide), (hp p).1]
    exact Nat.mod_mod _ _
  · rw [hf4 _ _ _ (by decide), hf3 _ _ _ (by decide), (hp p).2]

theorem bootPersonality_refused {sigs : Sigs} {s : State} (h : s.atStage 3 = true) (hn : ¬ (s.objectOk s.bootedSlot 2 sigs = true ∧
    recordOk (s.objPayload s.bootedSlot 2) (fieldAt (s.objHeader s.bootedSlot 2) 8 4) = true)) :
    exec (.bootPersonality sigs) s = .next (s.kettleOnly 4) := by
  show execBootPersonality sigs s = _
  unfold execBootPersonality
  rw [h, Bool.not_true, if_neg Bool.false_ne_true]
  dsimp only
  rw [if_neg (by rwa [Bool.and_eq_true])]

theorem bootPersonality_applies {sigs : Sigs} {s : State} (h : s.atStage 3 = true) (ho : s.objectOk s.bootedSlot 2 sigs = true)
    (hr : recordOk (s.objPayload s.bootedSlot 2) (fieldAt (s.objHeader s.bootedSlot 2) 8 4) = true) :
    exec (.bootPersonality sigs) s = .next (((s.applyRecord (s.objPayload s.bootedSlot 2)).measure 3
      (s.objBytes s.bootedSlot 2)).toStage 4) := by
  show execBootPersonality sigs s = _
  unfold execBootPersonality
  rw [h, Bool.not_true, if_neg Bool.false_ne_true]
  dsimp only
  rw [if_pos (by rw [ho, hr]; rfl)]

/-- Stage 4 begins behind a record applied. -/
theorem Applied.stage4 {s u : State} {r : List Byte} (h : Applied s u r) (l : List Byte) :
    Applied s ((u.measure 3 l).toStage 4) r ∧ ((u.measure 3 l).toStage 4).fld .KTL_BOOT_STAGE 0 = 4 := by
  have hf : FldsBut [Fld.KTL_BOOT_STAGE.code] u ((u.measure 3 l).toStage 4) :=
    FldsBut.trans (t := u.measure 3 l) (FldsBut.of_regs rfl) (fldsBut_setFld _ .KTL_BOOT_STAGE 0 4 0 (by decide))
  refine ⟨⟨fun b => (hf _ _ _ (by decide)).trans (h.mask b), (hf _ _ _ (by decide)).trans h.cap, (hf _ _ _ (by decide)).trans h.tj,
    fun p => ⟨(hf _ _ _ (by decide)).trans (h.port p).1, (hf _ _ _ (by decide)).trans (h.port p).2⟩, h.persona,
    h.setup.trans ((measure_setupOnly u _ _).trans (setFld_setupOnly _ _ _ _ _))⟩, toStage_shown _ (by decide)⟩

/-! ## The domains (R588, R612 to R614) -/

/-- Keys are drawn for the populated far channels. -/
def State.keyFar (s : State) : State :=
  (List.range 12).foldl (fun (s : State) f =>
    s.iff (decide ((s.ktl.persona.farPop.getD f (0, 0)).1 ≠ 0)) (fun s => s.setFld .FMC_XTS_KEYED f 1)) s

theorem keyFar_step (s : State) (f : Nat) (c : Bool) : RegsOnly s (s.iff c (fun s => s.setFld .FMC_XTS_KEYED f 1)) := by
  unfold State.iff
  split
  · exact setFld_regsOnly s _ _ _ _
  · rfl

/-- A loop with an invariant: what one step brings about and the others keep holds after it. -/
theorem foldl_reaches_within {α β : Type} {P Q : β → Prop} {g : β → α → β} {a : α} (hw : ∀ b, Q b → P (g b a))
    (hk : ∀ b c, Q b → P b → P (g b c)) (hq : ∀ b c, Q b → Q (g b c)) {l : List α} (ha : a ∈ l) {b : β} (hb : Q b) :
    Q (l.foldl g b) ∧ P (l.foldl g b) := by
  induction l generalizing b with
  | nil => exact absurd ha List.not_mem_nil
  | cons c l ih =>
    rcases List.mem_cons.mp ha with rfl | hl
    · exact foldl_keeps (fun b => Q b ∧ P b) g (fun b c h => ⟨hq b c h.1, hk b c h.1 h.2⟩) l ⟨hq b a hb, hw b hb⟩
    · exact ih hl (hq b c hb)

theorem keyFar_regsOnly (s : State) : RegsOnly s s.keyFar := regsOnly_foldl (fun t f => keyFar_step t f _) _ s

theorem keyFar_other (s : State) {f c : Nat} (h : f ≠ c) (b : Bool) :
    (s.iff b (fun s => s.setFld .FMC_XTS_KEYED c 1)).fld .FMC_XTS_KEYED f = s.fld .FMC_XTS_KEYED f := by
  unfold State.iff
  split
  · exact State.fld_setFld_inst _ _ h
  · rfl

theorem keyFar_chan (s : State) (f : Chan) : s.keyFar.fld .FMC_XTS_KEYED f =
    if (s.ktl.persona.farPop.getD f (0, 0)).1 ≠ 0 then 1 else s.fld .FMC_XTS_KEYED f := by
  have hq : ∀ (t : State) (c : Nat) (b : Bool), t.ktl = s.ktl → (t.iff b (fun s => s.setFld .FMC_XTS_KEYED c 1)).ktl = s.ktl :=
    fun t c b ht => (keyFar_step t c b).ktl.trans ht
  unfold State.keyFar
  by_cases hp : (s.ktl.persona.farPop.getD f (0, 0)).1 ≠ 0
  · have hset : ∀ t : State, t.ktl = s.ktl → (t.iff (decide ((t.ktl.persona.farPop.getD f.val (0, 0)).1 ≠ 0))
        (fun s => s.setFld .FMC_XTS_KEYED f 1)).fld .FMC_XTS_KEYED f = 1 := fun t ht => by
      rw [ht, State.iff, if_pos (decide_eq_true hp)]
      exact State.fld_setFld_same _ _ _ _ _
    rw [if_pos hp]
    refine (foldl_reaches_within (a := f.val) (Q := fun t : State => t.ktl = s.ktl) (P := fun t : State => t.fld .FMC_XTS_KEYED f = 1)
      hset (fun t c ht h1 => ?_) (fun t c ht => hq t c _ ht) (List.mem_range.mpr f.isLt) rfl).2
    by_cases hc : f.val = c
    · rw [← hc]
      exact hset t ht
    · exact (keyFar_other t hc _).trans h1
  · rw [if_neg hp]
    refine (foldl_keeps (fun t : State => t.ktl = s.ktl ∧ t.fld .FMC_XTS_KEYED f = s.fld .FMC_XTS_KEYED f) _ (fun t c ht => ?_) _
      ⟨rfl, rfl⟩).2
    obtain ⟨hk, hv⟩ := ht
    refine ⟨hq t c _ hk, ?_⟩
    by_cases hc : f.val = c
    · rw [hk, ← hc, State.iff, if_neg (by simpa using hp)]
      exact hv
    · exact (keyFar_other t hc _).trans hv

/-- The Kettle once the domains are on. -/
def Ktl.powered (k : Ktl) : Ktl :=
  { k with dom := { k.dom with hostPort := true, fabric := true, logic := true, cores := true, far := true }
           power := { k.power with energy := 0 } }

theorem bootPowerOn_stays {s : State} (h : s.powerGood = false ∨ s.ktl.losses ≠ [] ∨ s.ktl.dom.tripped = true ∨
    (s.flag .KTL_BOOT_KONLY 0 = false ∧ s.atStage 4 = false)) : exec .bootPowerOn s = .next s := by
  show execBootPowerOn s = _
  unfold execBootPowerOn
  split
  · rfl
  · next hn =>
    simp only [Bool.or_eq_true, Bool.not_eq_true', List.isEmpty_eq_false_iff, not_or, Bool.not_eq_false, ne_eq] at hn
    obtain ⟨⟨hg, hl⟩, ht⟩ := hn
    rcases h with h | h | h | ⟨hk, h4⟩
    · exact absurd h (by simp [hg])
    · exact absurd h hl
    · exact absurd h ht
    · rw [if_neg (by simp [hk]), if_pos (by simp [h4])]

theorem bootPowerOn_acts {s : State} (hg : s.powerGood = true) (hl : s.ktl.losses = []) (ht : s.ktl.dom.tripped = false) :
    (s.flag .KTL_BOOT_KONLY 0 = true →
      exec .bootPowerOn s = .next (s.setKtl { s.ktl with dom := { s.ktl.dom with hostPort := true } })) ∧
    (s.flag .KTL_BOOT_KONLY 0 = false → s.atStage 4 = true →
      exec .bootPowerOn s = .next ((s.setKtl s.ktl.powered).keyFar.toStage 5)) := by
  have hn : ¬ (!s.powerGood || !s.ktl.losses.isEmpty || s.ktl.dom.tripped) = true := by simp [hg, hl, ht]
  refine ⟨fun hk => ?_, fun hk h4 => ?_⟩
  · show execBootPowerOn s = _
    unfold execBootPowerOn
    rw [if_neg hn, if_pos hk]
  · show execBootPowerOn s = _
    unfold execBootPowerOn
    rw [if_neg hn, if_neg (by simp [hk]), if_neg (by simp [h4])]
    rfl

theorem powered_facts (s : State) :
    let t := (s.setKtl s.ktl.powered).keyFar.toStage 5
    t.fld .KTL_BOOT_STAGE 0 = 5 ∧ t.ktl = s.ktl.powered ∧ SetupOnly s t ∧ ∀ f : Chan, t.fld .FMC_XTS_KEYED f =
      if (s.ktl.persona.farPop.getD f (0, 0)).1 ≠ 0 then 1 else s.fld .FMC_XTS_KEYED f := by
  have hr := keyFar_regsOnly (s.setKtl s.ktl.powered)
  have hf := keyFar_chan (s.setKtl s.ktl.powered)
  generalize (s.setKtl s.ktl.powered).keyFar = u at hr hf ⊢
  refine ⟨toStage_shown _ (by decide), hr.ktl, ?_, fun f => ?_⟩
  · exact ((setKtl_setupOnly s _).trans hr.setup).trans (setFld_setupOnly _ _ _ _ _)
  · exact (State.fld_setFld_code _ _ (by decide)).trans (hf f)

end Sys2Proof.Machine
end

section
/-! SUPPORT. Stage 5 of boot: blocks and far channels come up (R18, R33, R200, R620 to R622). -/

namespace Sys2Proof.Machine

set_option Elab.async false

/-! ## A block's map -/

/-- The register field of a slot's position. -/
def posFld (slot : Nat) : Fld :=
  if slot % 4 = 0 then .BLK_MAP_POS0 else if slot % 4 = 1 then .BLK_MAP_POS1 else if slot % 4 = 2 then .BLK_MAP_POS2 else .BLK_MAP_POS3

theorem posFld_width (slot : Nat) : (posFld slot).width = 5 := by
  unfold posFld
  split
  · rfl
  · split
    · rfl
    · split <;> rfl

theorem posFld_inj {j k : Nat} (h : (posFld j).code = (posFld k).code) : j % 4 = k % 4 := by
  have hcode : ∀ i, (posFld i).code = if i % 4 = 0 then Fld.BLK_MAP_POS0.code else if i % 4 = 1 then Fld.BLK_MAP_POS1.code
      else if i % 4 = 2 then Fld.BLK_MAP_POS2.code else Fld.BLK_MAP_POS3.code := fun i => by
    unfold posFld
    split
    · rfl
    · split
      · rfl
      · split <;> rfl
  have hall : ∀ a b : Fin 4, (posFld a).code = (posFld b).code → a = b := by decide
  have hmod : ∀ i, (posFld (i % 4)).code = (posFld i).code := fun i => by rw [hcode, hcode, Nat.mod_mod]
  have := hall ⟨j % 4, Nat.mod_lt _ (by decide)⟩ ⟨k % 4, Nat.mod_lt _ (by decide)⟩ ((hmod j).trans (h.trans (hmod k).symm))
  exact congrArg Fin.val this

theorem posOf_setPos_same (s : State) (b slot : Nat) {v : Nat} (hv : v < 32) : (s.setPos b slot v).posOf b slot = v :=
  (State.fld_setFld_same s (posFld slot) b v (slot / 4)).trans (by rw [posFld_width]; exact Nat.mod_eq_of_lt hv)

theorem posOf_setPos_other (s : State) (b : Nat) {j k : Nat} (v : Nat) (h : j ≠ k) : (s.setPos b k v).posOf b j = s.posOf b j := by
  refine State.fld_setFld_other (f := posFld k) (g := posFld j) s v (fun he => h ?_)
  obtain ⟨hc, -, hi⟩ := Fld.key_eq_iff.mp he
  have := posFld_inj hc
  omega

theorem setBits_lt {v n k : Nat} (h : k ∈ setBits v n) : k < n := by
  unfold setBits at h
  exact List.mem_range.mp (List.mem_of_mem_filter h)

theorem setBits_getD_lt (v k : Nat) : (setBits v 17).getD k 0x1F < 32 := by
  rw [List.getD_eq_getElem?_getD]
  cases h : (setBits v 17)[k]? with
  | none => decide
  | some j =>
    have := setBits_lt (List.mem_of_getElem? h)
    exact Nat.lt_of_lt_of_le this (by decide)

/-- A block's slots mapped to positions in order. -/
def State.mapSlots (s : State) (b : Nat) (ps : List Nat) : State :=
  (List.range 16).foldl (fun (s : State) k => s.setPos b k (ps.getD k 0x1F)) s

theorem setPos_regsOnly (s : State) (b k v : Nat) : RegsOnly s (s.setPos b k v) := setFld_regsOnly s (posFld k) b v (k / 4)

/-- The numbers of the map's fields. -/
def mapFlds : List Nat := [Fld.BLK_MAP_POS0.code, Fld.BLK_MAP_POS1.code, Fld.BLK_MAP_POS2.code, Fld.BLK_MAP_POS3.code]

theorem setPos_flds (s : State) (b k v : Nat) : FldsBut mapFlds s (s.setPos b k v) := by
  refine fldsBut_setFld s (posFld k) b v (k / 4) ?_
  unfold posFld
  split
  · decide
  · split
    · decide
    · split <;> decide

theorem setPos_inst (s : State) {b c : Nat} (k v : Nat) (f : Fld) (j : Nat) (h : c ≠ b) : (s.setPos b k v).fld f c j = s.fld f c j :=
  State.fld_setFld_inst (f := posFld k) s v h

theorem mapSlots_regsOnly (s : State) (b : Nat) (ps : List Nat) : RegsOnly s (s.mapSlots b ps) :=
  regsOnly_foldl (fun t k => setPos_regsOnly t b k _) _ s

theorem mapSlots_flds (s : State) (b : Nat) (ps : List Nat) : FldsBut mapFlds s (s.mapSlots b ps) :=
  fldsBut_foldl (fun t k => setPos_flds t b k _) _ s

theorem mapSlots_inst (s : State) {b c : Nat} (ps : List Nat) (f : Fld) (j : Nat) (h : c ≠ b) :
    (s.mapSlots b ps).fld f c j = s.fld f c j :=
  foldl_keeps (fun t : State => t.fld f c j = s.fld f c j) _ (fun t k ht => (setPos_inst t k _ f j h).trans ht) _ rfl

theorem mapSlots_pos (s : State) (b v : Nat) {k : Nat} (hk : k < 16) :
    (s.mapSlots b (setBits v 17)).posOf b k = (setBits v 17).getD k 0x1F := by
  refine foldl_reaches (a := k) (P := fun t : State => t.posOf b k = (setBits v 17).getD k 0x1F)
    (fun t => posOf_setPos_same t b k (setBits_getD_lt v k)) (fun t c ht => ?_) (List.mem_range.mpr hk) s
  by_cases hc : k = c
  · rw [← hc]
    exact posOf_setPos_same t b k (setBits_getD_lt v k)
  · exact (posOf_setPos_other t b _ hc).trans ht

/-! ## A block -/

/-- The positions of a block that a record enables, in ascending order. -/
def Persona.positions (p : Persona) (b : Block) : List Nat := setBits (p.spare.getD b 0) 17

/-- A block has as many enabled positions as it needs (R18). -/
def Enough (l : List Nat) : Prop := l.length = 16 ∨ l.length = 17

/-- A block that has come up, or has stayed OFF for want of positions (R18, R33). -/
structure BlockUp (p : Persona) (b : Block) (t : State) : Prop where
  pos : ∀ k, k < 16 → t.posOf b k = (p.positions b).getD k 0x1F
  blk : t.blk b = {}
  full : Enough (p.positions b) → t.fld .BLK_SPARE_SPARE b = (p.positions b).getD 16 0x1F ∧ t.fld .BLK_PWR_STATE b = 0
  short : ¬ Enough (p.positions b) → t.fld .BLK_SPARE_SPARE b = 0x1F ∧ t.fld .BLK_PWR_STATE b = 3

/-- The numbers of the fields that bringing up a block writes. -/
def blockFlds : List Nat := [Fld.BLK_SPARE_SPARE.code, Fld.BLK_PWR_STATE.code] ++ mapFlds

/-- One block comes up, and the others stand. -/
structure BlockStep (b : Block) (s t : State) : Prop where
  up : BlockUp s.ktl.persona b t
  persona : t.ktl.persona = s.ktl.persona
  unusable : ∀ n, n ∈ t.ktl.unusable ↔ n ∈ s.ktl.unusable ∨ (n = b.val ∧ ¬ Enough (s.ktl.persona.positions b))
  others : ∀ (f : Fld) (c j : Nat), c ≠ b.val → t.fld f c j = s.fld f c j
  blks : ∀ c, c ≠ b.val → t.blk c = s.blk c
  flds : FldsBut blockFlds s t

theorem wipeBlock_ktl (s : State) (b : Block) : (s.wipeBlock b).ktl = s.ktl :=
  foldl_keeps (fun t : State => t.ktl = s.ktl) (fun (t : State) c => t.setExe (.cell c) {}) (fun _ _ ht => ht) _ rfl

/-- A block's map, its spare and the state it shows. -/
def State.blockShown (s : State) (b : Block) (ps : List Nat) (spare st : Nat) : State :=
  (((s.setBlk b {}).mapSlots b ps).setFld .BLK_SPARE_SPARE b spare).setFld .BLK_PWR_STATE b st

theorem blockShown_facts (s : State) (b : Block) (v : Nat) {spare st : Nat} (hs : spare < 32) (hst : st < 4) :
    let t := s.blockShown b (setBits v 17) spare st
    (∀ k, k < 16 → t.posOf b k = (setBits v 17).getD k 0x1F) ∧ t.blk b = {} ∧ t.fld .BLK_SPARE_SPARE b = spare ∧
    t.fld .BLK_PWR_STATE b = st ∧ t.ktl = s.ktl ∧ (∀ (f : Fld) (c j : Nat), c ≠ b.val → t.fld f c j = s.fld f c j) ∧
    (∀ c, c ≠ b.val → t.blk c = s.blk c) ∧ FldsBut blockFlds s t := by
  have hpos := fun k hk => mapSlots_pos (s.setBlk b {}) b v (k := k) hk
  have hreg := mapSlots_regsOnly (s.setBlk b {}) b (setBits v 17)
  have hinst := fun f c j hc => mapSlots_inst (s.setBlk b {}) (b := b.val) (c := c) (setBits v 17) f j hc
  have hflds := mapSlots_flds (s.setBlk b {}) b (setBits v 17)
  unfold State.blockShown
  generalize (s.setBlk b {}).mapSlots b (setBits v 17) = u at hpos hreg hinst hflds ⊢
  have hu : ∀ c, u.blk c = (s.setBlk b {}).blk c := fun c => by rw [hreg]; rfl
  have hf : FldsBut [Fld.BLK_SPARE_SPARE.code, Fld.BLK_PWR_STATE.code] u
      ((u.setFld .BLK_SPARE_SPARE b spare).setFld .BLK_PWR_STATE b st) :=
    ((FldsBut.refl _ u).setFld (by decide) _ _ _).setFld (by decide) _ _ _
  refine ⟨fun k hk => (posOf_of_flds hf (by decide) _ _).trans (hpos k hk), (hu b).trans (State.blk_setBlk_same s _ _), ?_, ?_,
    hreg.ktl, fun f c j hc => ?_, fun c hc => (hu c).trans (State.blk_setBlk_other _ _ hc), ?_⟩
  · exact (State.fld_setFld_code _ _ (by decide)).trans ((State.fld_setFld_same _ _ _ _ _).trans (Nat.mod_eq_of_lt hs))
  · exact (State.fld_setFld_same _ _ _ _ _).trans (Nat.mod_eq_of_lt hst)
  · exact (State.fld_setFld_inst _ _ hc).trans ((State.fld_setFld_inst _ _ hc).trans (hinst f c j hc))
  · exact (FldsBut.of_regs (t := s.setBlk b {}) rfl).trans ((hflds.mono (by decide)).trans (hf.mono (by decide)))

theorem initBlock_enough (s : State) (b : Block) (h : Enough (s.ktl.persona.positions b)) : s.initBlock b =
    (s.blockShown b (s.ktl.persona.positions b) ((s.ktl.persona.positions b).getD 16 0x1F) 0).wipeBlock b := by
  unfold State.initBlock
  exact if_pos h

theorem initBlock_short (s : State) (b : Block) (h : ¬ Enough (s.ktl.persona.positions b)) : s.initBlock b =
    (s.blockShown b (s.ktl.persona.positions b) 0x1F 3).setKtl
      { (s.blockShown b (s.ktl.persona.positions b) 0x1F 3).ktl with
        unusable := (s.blockShown b (s.ktl.persona.positions b) 0x1F 3).ktl.unusable ++ [b.val] } := by
  unfold State.initBlock
  exact if_neg h

theorem initBlock_step (s : State) (b : Block) : BlockStep b s (s.initBlock b) := by
  by_cases h : Enough (s.ktl.persona.positions b)
  · obtain ⟨hpos, hblk, hspare, hst, hktl, hinst, hblks, hflds⟩ :=
      blockShown_facts s b (s.ktl.persona.spare.getD b 0) (setBits_getD_lt (s.ktl.persona.spare.getD b 0) 16) (st := 0) (by decide)
    rw [initBlock_enough s b h]
    unfold Persona.positions at h ⊢
    generalize s.blockShown b _ _ 0 = u at hpos hblk hspare hst hktl hinst hblks hflds ⊢
    have hw : (u.wipeBlock b).ktl = s.ktl := (wipeBlock_ktl u b).trans hktl
    have hwf : FldsBut [] u (u.wipeBlock b) := fun f i j _ => wipeBlock_fld u b f i j
    refine ⟨⟨fun k hk => (posOf_of_flds hwf (fun _ _ => List.not_mem_nil) _ _).trans (hpos k hk), ?_, fun _ => ⟨?_, ?_⟩, fun hn => absurd h hn⟩,
      by rw [hw], fun n => ?_, fun f c j hc => ?_, fun c hc => ?_, hflds.trans (hwf.mono (List.nil_subset _))⟩
    · rw [wipeBlock_blk]; exact hblk
    · rw [wipeBlock_fld]; exact hspare
    · rw [wipeBlock_fld]; exact hst
    · rw [hw]
      exact ⟨Or.inl, fun hn => hn.elim id (fun hn => absurd h hn.2)⟩
    · rw [wipeBlock_fld]; exact hinst f c j hc
    · rw [wipeBlock_blk]; exact hblks c hc
  · obtain ⟨hpos, hblk, hspare, hst, hktl, hinst, hblks, hflds⟩ :=
      blockShown_facts s b (s.ktl.persona.spare.getD b 0) (spare := 0x1F) (st := 3) (by decide) (by decide)
    rw [initBlock_short s b h]
    unfold Persona.positions at h ⊢
    generalize s.blockShown b _ 0x1F 3 = u at hpos hblk hspare hst hktl hinst hblks hflds ⊢
    refine ⟨⟨hpos, hblk, fun hn => absurd hn h, fun _ => ⟨hspare, hst⟩⟩, show u.ktl.persona = s.ktl.persona by rw [hktl], fun n => ?_,
      hinst, hblks, hflds⟩
    show n ∈ u.ktl.unusable ++ [b.val] ↔ _
    rw [hktl, List.mem_append, List.mem_singleton]
    exact or_congr_right ⟨fun hn => ⟨hn, h⟩, And.left⟩

/-! ## All blocks -/

theorem BlockUp.of_step {p : Persona} {b c : Block} {s t : State} (h : BlockUp p b s) (k : BlockStep c s t) (hc : b ≠ c) :
    BlockUp p b t := by
  have hv : b.val ≠ c.val := fun he => hc (Fin.ext he)
  have hf : ∀ (f : Fld) (j : Nat), t.fld f b j = s.fld f b j := fun f j => k.others f b j hv
  refine ⟨fun i hi => Eq.trans ?_ (h.pos i hi), (k.blks b hv).trans h.blk, fun hn => ?_, fun hn => ?_⟩
  · exact hf _ _
  · rw [hf, hf]; exact h.full hn
  · rw [hf, hf]; exact h.short hn

/-- Every block brought up, in ascending order. -/
def State.initBlocks (s : State) : State := (List.range 96).foldl (fun (s : State) b => s.initBlock (Fin.ofNat 96 b)) s

theorem ofNat_block (b : Block) : Fin.ofNat 96 b.val = b := Fin.ext (Nat.mod_eq_of_lt b.isLt)

/-- What the loop over the blocks keeps. -/
structure BlocksKept (s t : State) : Prop where
  persona : t.ktl.persona = s.ktl.persona
  flds : FldsBut blockFlds s t

theorem BlocksKept.step {s t : State} (h : BlocksKept s t) (b : Block) : BlocksKept s (t.initBlock b) := by
  have k := initBlock_step t b
  exact ⟨k.persona.trans h.persona, h.flds.trans k.flds⟩

theorem initBlocks_up (s : State) (b : Block) : BlocksKept s s.initBlocks ∧ BlockUp s.ktl.persona b s.initBlocks := by
  unfold State.initBlocks
  refine foldl_reaches_within (a := b.val) (Q := BlocksKept s) (P := BlockUp s.ktl.persona b) (fun t ht => ?_) (fun t c ht hu => ?_)
    (fun t c ht => ht.step _) (List.mem_range.mpr b.isLt) ⟨rfl, FldsBut.refl _ s⟩
  · rw [ofNat_block, ← ht.persona]
    exact (initBlock_step t b).up
  · by_cases hc : b = Fin.ofNat 96 c
    · rw [← hc, ← ht.persona]
      exact (initBlock_step t b).up
    · exact hu.of_step (initBlock_step t _) hc

/-- The blocks that are reported as unusable are those of a list that want positions. -/
theorem foldl_unusable (l : List Nat) (s : State) (n : Nat) :
    n ∈ (l.foldl (fun (s : State) b => s.initBlock (Fin.ofNat 96 b)) s).ktl.unusable ↔ n ∈ s.ktl.unusable ∨
      ∃ c ∈ l, n = (Fin.ofNat 96 c).val ∧ ¬ Enough (s.ktl.persona.positions (Fin.ofNat 96 c)) := by
  induction l generalizing s with
  | nil => simp
  | cons c l ih =>
    have k := initBlock_step s (Fin.ofNat 96 c)
    rw [List.foldl_cons, ih, k.persona, k.unusable, List.exists_mem_cons_iff, or_assoc]

theorem initBlocks_unusable (s : State) (b : Block) (h : s.ktl.unusable = []) :
    b.val ∈ s.initBlocks.ktl.unusable ↔ ¬ Enough (s.ktl.persona.positions b) := by
  unfold State.initBlocks
  rw [foldl_unusable, h]
  constructor
  · rintro (hn | ⟨c, -, hc, hn⟩)
    · exact absurd hn List.not_mem_nil
    · rwa [← Fin.ext hc] at hn
  · exact fun hn => Or.inr ⟨b.val, List.mem_range.mpr b.isLt, by rw [ofNat_block], by rwa [ofNat_block]⟩

/-- No block that has just come up is GATED. -/
theorem initBlocks_calm (s : State) : Calm s.initBlocks := fun b hb => by
  obtain ⟨-, hu⟩ := initBlocks_up s ⟨b, hb⟩
  have hs : s.initBlocks.blkState b = BlkState.ofCode (s.initBlocks.fld .BLK_PWR_STATE b) := by
    unfold State.blkState
    rw [show s.initBlocks.blk b = {} from hu.blk]
  rw [hs]
  by_cases h : Enough (s.ktl.persona.positions ⟨b, hb⟩)
  · rw [show s.initBlocks.fld .BLK_PWR_STATE b = 0 from (hu.full h).2]
    decide
  · rw [show s.initBlocks.fld .BLK_PWR_STATE b = 3 from (hu.short h).2]
    decide

/-! ## Far channels (R620 to R622) -/

/-- A channel as stage 5 leaves it, by what the record names and the channel reports, and what it showed before. -/
structure FarUp (p : Nat × Nat) (d : DimmReport) (pop failed : Nat) (f : Nat) (t : State) : Prop where
  trained : farMatches p d = true → d.trained = true → p.1 ≠ 0 → t.fld .FMC_STAT_POP f = 1 ∧ t.fld .FMC_STAT_CAP f = p.2 % 2 ^ 10 ∧
    t.fld .FMC_STAT_RATE f = if p.1 = 1 then 12800 else 8800
  empty : p = (0, 0) → d.dimms = [] → t.fld .FMC_STAT_POP f = pop ∧ t.fld .FMC_STAT_FAILED f = failed
  refused : ¬ (p = (0, 0) ∧ d.dimms = []) → farMatches p d = false ∨ d.trained = false →
    t.fld .FMC_STAT_POP f = pop ∧ t.fld .FMC_STAT_FAILED f = 1

/-- The numbers of the fields that show a far channel. -/
def farFlds : List Nat :=
  [Fld.FMC_STAT_DPC.code, Fld.FMC_STAT_POP.code, Fld.FMC_STAT_CAP.code, Fld.FMC_STAT_RATE.code, Fld.FMC_STAT_FAILED.code,
    Fld.FMC_ECC_PPR_PEND.code]

/-- One channel comes up, and blocks and the other channels stand. -/
structure FarStep (f : Chan) (d : DimmReport) (s t : State) : Prop where
  up : FarUp (s.ktl.persona.farPop.getD f (0, 0)) d (s.fld .FMC_STAT_POP f) (s.fld .FMC_STAT_FAILED f) f t
  persona : t.ktl.persona = s.ktl.persona
  unusable : t.ktl.unusable = s.ktl.unusable
  blks : t.blks = s.blks
  others : ∀ g : Fld, g.code ∉ recordFlds → ∀ c, c ≠ f.val → t.fld g c = s.fld g c
  flds : FldsBut (farFlds ++ recordFlds) s t

/-- A channel left as it is but for the DIMMs it reports. -/
theorem initFar_empty {s : State} {f : Chan} {d : DimmReport} (hp : s.ktl.persona.farPop.getD f (0, 0) = (0, 0)) (hd : d.dimms = []) :
    s.initFar f d = s.setFld .FMC_STAT_DPC f d.dimms.length := by
  unfold State.initFar
  exact if_pos ⟨hp, hd⟩

theorem initFar_trained {s : State} {f : Chan} {d : DimmReport} (hn : ¬ (s.ktl.persona.farPop.getD f (0, 0) = (0, 0) ∧ d.dimms = []))
    (hm : farMatches (s.ktl.persona.farPop.getD f (0, 0)) d = true) (ht : d.trained = true) :
    s.initFar f d = ((((s.setFld .FMC_STAT_DPC f d.dimms.length).repairFar f d).setFld .FMC_STAT_POP f 1).setFld .FMC_STAT_CAP f
      (s.ktl.persona.farPop.getD f (0, 0)).2).setFld .FMC_STAT_RATE f
        (if (s.ktl.persona.farPop.getD f (0, 0)).1 = 1 then 12800 else 8800) := by
  unfold State.initFar
  exact (if_neg hn).trans (if_pos (by rw [hm, ht]; rfl))

theorem initFar_refused {s : State} {f : Chan} {d : DimmReport} (hn : ¬ (s.ktl.persona.farPop.getD f (0, 0) = (0, 0) ∧ d.dimms = []))
    (hm : farMatches (s.ktl.persona.farPop.getD f (0, 0)) d = false ∨ d.trained = false) :
    s.initFar f d = ((s.setFld .FMC_STAT_DPC f d.dimms.length).setFld .FMC_STAT_FAILED f 1).raise (.region f) 0x26 0xC0 0x01 2 := by
  unfold State.initFar
  refine (if_neg hn).trans (if_neg ?_)
  rw [Bool.and_eq_true]
  rintro ⟨h1, h2⟩
  rcases hm with h | h
  · exact Bool.false_ne_true (h.symm.trans h1)
  · exact Bool.false_ne_true (h.symm.trans h2)

theorem repairFar_facts (s : State) (f : Nat) (d : DimmReport) : (s.repairFar f d).ktl.persona = s.ktl.persona ∧
    (s.repairFar f d).ktl.unusable = s.ktl.unusable ∧ (s.repairFar f d).blks = s.blks ∧
    (∀ (g : Fld) (c : Nat), c ≠ f → (s.repairFar f d).fld g c = s.fld g c) ∧
    FldsBut [Fld.FMC_ECC_PPR_PEND.code] s (s.repairFar f d) :=
  ⟨rfl, rfl, rfl, fun _ _ hc => State.fld_setFld_inst (f := .FMC_ECC_PPR_PEND) _ _ hc,
    (FldsBut.of_regs (t := s.setKtl _) rfl).trans (fldsBut_setFld _ .FMC_ECC_PPR_PEND f _ 0 (by decide))⟩

/-- A trained channel's registers, written behind its repairs. -/
def State.farShown (s : State) (f cap rate : Nat) : State :=
  ((s.setFld .FMC_STAT_POP f 1).setFld .FMC_STAT_CAP f cap).setFld .FMC_STAT_RATE f rate

theorem farShown_facts (s : State) (f cap : Nat) {rate : Nat} (hr : rate < 2 ^ 16) :
    (s.farShown f cap rate).fld .FMC_STAT_POP f = 1 ∧ (s.farShown f cap rate).fld .FMC_STAT_CAP f = cap % 2 ^ 10 ∧
    (s.farShown f cap rate).fld .FMC_STAT_RATE f = rate ∧
    (∀ (g : Fld) (c : Nat), c ≠ f → (s.farShown f cap rate).fld g c = s.fld g c) ∧
    FldsBut [Fld.FMC_STAT_POP.code, Fld.FMC_STAT_CAP.code, Fld.FMC_STAT_RATE.code] s (s.farShown f cap rate) := by
  unfold State.farShown
  refine ⟨?_, ?_, (State.fld_setFld_same _ _ _ _ _).trans (Nat.mod_eq_of_lt hr), fun g c hc => ?_, ?_⟩
  · exact (State.fld_setFld_code _ _ (by decide)).trans ((State.fld_setFld_code _ _ (by decide)).trans (State.fld_setFld_same _ _ _ _ _))
  · exact (State.fld_setFld_code _ _ (by decide)).trans (State.fld_setFld_same _ _ _ _ _)
  · exact (State.fld_setFld_inst _ _ hc).trans ((State.fld_setFld_inst _ _ hc).trans (State.fld_setFld_inst _ _ hc))
  · exact (((FldsBut.refl _ s).setFld (by decide) _ _ _).setFld (by decide) _ _ _).setFld (by decide) _ _ _

theorem initFar_step {s : State} (hs : Calm s) (f : Chan) (d : DimmReport) : FarStep f d s (s.initFar f d) := by
  by_cases hn : s.ktl.persona.farPop.getD f (0, 0) = (0, 0) ∧ d.dimms = []
  · have hf : FldsBut farFlds s (s.setFld .FMC_STAT_DPC f d.dimms.length) := fldsBut_setFld s .FMC_STAT_DPC f _ 0 (by decide)
    rw [initFar_empty hn.1 hn.2]
    refine ⟨⟨fun _ _ h => absurd (by rw [hn.1]) h, fun _ _ => ⟨?_, ?_⟩, fun h => absurd hn h⟩, rfl, rfl, rfl,
      fun g _ c hc => State.fld_setFld_inst (f := .FMC_STAT_DPC) _ _ hc, hf.mono (by decide)⟩
    · exact State.fld_setFld_code _ _ (by decide)
    · exact State.fld_setFld_code _ _ (by decide)
  · have hd : FldsBut farFlds s (s.setFld .FMC_STAT_DPC f d.dimms.length) := fldsBut_setFld s .FMC_STAT_DPC f _ 0 (by decide)
    by_cases hm : farMatches (s.ktl.persona.farPop.getD f (0, 0)) d = true ∧ d.trained = true
    · obtain ⟨hpers, hun, hblks, hin, hrf⟩ := repairFar_facts (s.setFld .FMC_STAT_DPC f d.dimms.length) f d
      rw [initFar_trained hn hm.1 hm.2]
      generalize (s.setFld .FMC_STAT_DPC f d.dimms.length).repairFar f d = u at hpers hun hblks hin hrf ⊢
      obtain ⟨hpop, hcap, hrate, hoth, hsf⟩ := farShown_facts u f (s.ktl.persona.farPop.getD f (0, 0)).2
        (rate := if (s.ktl.persona.farPop.getD f (0, 0)).1 = 1 then 12800 else 8800) (by split <;> decide)
      refine ⟨⟨fun _ _ _ => ⟨hpop, hcap, hrate⟩, fun h1 h2 => absurd ⟨h1, h2⟩ hn, fun _ h => ?_⟩, hpers, hun, hblks,
        fun g _ c hc => ?_, ?_⟩
      · rw [hm.1, hm.2] at h
        exact absurd h (by decide)
      · exact (hoth g c hc).trans ((hin g c hc).trans (State.fld_setFld_inst (f := .FMC_STAT_DPC) _ _ hc))
      · exact (hd.mono (by decide)).trans ((hrf.mono (by decide)).trans (hsf.mono (by decide)))
    · have hm' : farMatches (s.ktl.persona.farPop.getD f (0, 0)) d = false ∨ d.trained = false := by
        rcases Bool.eq_false_or_eq_true (farMatches (s.ktl.persona.farPop.getD f (0, 0)) d) with h | h
        · exact Or.inr (Bool.eq_false_iff.mpr (fun ht => hm ⟨h, ht⟩))
        · exact Or.inl h
      have hu : FldsBut farFlds s ((s.setFld .FMC_STAT_DPC f d.dimms.length).setFld .FMC_STAT_FAILED f 1) := hd.setFld (by decide) _ _ _
      have hpop : ((s.setFld .FMC_STAT_DPC f d.dimms.length).setFld .FMC_STAT_FAILED f 1).fld .FMC_STAT_POP f = s.fld .FMC_STAT_POP f :=
        (State.fld_setFld_code _ _ (by decide)).trans (State.fld_setFld_code _ _ (by decide))
      have hfail : ((s.setFld .FMC_STAT_DPC f d.dimms.length).setFld .FMC_STAT_FAILED f 1).fld .FMC_STAT_FAILED f = 1 :=
        State.fld_setFld_same _ _ _ _ _
      have hin : ∀ (g : Fld) (c : Nat), c ≠ f.val →
          ((s.setFld .FMC_STAT_DPC f d.dimms.length).setFld .FMC_STAT_FAILED f 1).fld g c = s.fld g c := fun g c hc =>
        (State.fld_setFld_inst (f := .FMC_STAT_FAILED) _ _ hc).trans (State.fld_setFld_inst (f := .FMC_STAT_DPC) _ _ hc)
      have hr := raise_steady ((s.setFld .FMC_STAT_DPC f d.dimms.length).setFld .FMC_STAT_FAILED f 1) (.region f) 0x26 0xC0 0x01 2
        0 0xFF 0 0x1F
      obtain ⟨hb, hf⟩ := hr.calm (fun b hb hg =>
        hs b hb ((blkState_of_flds (s := s) (t := (s.setFld .FMC_STAT_DPC f d.dimms.length).setFld .FMC_STAT_FAILED f 1) rfl hu (by decide)
          b).symm.trans hg))
      rw [initFar_refused hn hm']
      refine ⟨⟨fun h1 h2 => absurd ⟨h1, h2⟩ hm, fun h1 h2 => absurd ⟨h1, h2⟩ hn, fun _ _ => ⟨?_, ?_⟩⟩, congrArg Ktl.persona hr.ktl,
        congrArg Ktl.unusable hr.ktl, hb, fun g hg c hc => (hf g c 0 hg).trans (hin g c hc), ?_⟩
      · exact (hf _ _ _ (by decide)).trans hpop
      · exact (hf _ _ _ (by decide)).trans hfail
      · exact (hu.mono (by decide)).trans (hf.mono (by decide))

/-- Every far channel brought up, in ascending order. -/
def State.initChans (s : State) (dimms : List DimmReport) : State :=
  (List.range 12).foldl (fun (s : State) f => s.initFar (Fin.ofNat 12 f) (dimms.getD f ⟨[], false, []⟩)) s

theorem ofNat_chan (f : Chan) : Fin.ofNat 12 f.val = f := Fin.ext (Nat.mod_eq_of_lt f.isLt)

/-- What the loop over the channels keeps, and which channels it has not yet met. -/
structure ChansKept (s t : State) : Prop where
  persona : t.ktl.persona = s.ktl.persona
  unusable : t.ktl.unusable = s.ktl.unusable
  blks : t.blks = s.blks
  flds : FldsBut (farFlds ++ recordFlds) s t

theorem ChansKept.refl (s : State) : ChansKept s s := ⟨rfl, rfl, rfl, FldsBut.refl _ s⟩

theorem ChansKept.calm {s t : State} (h : ChansKept s t) (hs : Calm s) : Calm t := fun b hb => by
  rw [blkState_of_flds h.blks h.flds (by decide)]
  exact hs b hb

theorem ChansKept.step {s t : State} (h : ChansKept s t) (hs : Calm s) (f : Chan) (d : DimmReport) : ChansKept s (t.initFar f d) := by
  have k := initFar_step (h.calm hs) f d
  exact ⟨k.persona.trans h.persona, k.unusable.trans h.unusable, k.blks.trans h.blks, h.flds.trans k.flds⟩

theorem initChans_kept {s : State} (hs : Calm s) (dimms : List DimmReport) : ChansKept s (s.initChans dimms) :=
  foldl_keeps (ChansKept s) _ (fun _ _ h => h.step hs _ _) _ (ChansKept.refl s)

/-- A channel that no step of a loop meets shows what it showed. -/
theorem chan_unmet {s : State} (hs : Calm s) (dimms : List DimmReport) (l : List Nat) {f : Chan} (hf : ∀ c ∈ l, f ≠ Fin.ofNat 12 c) (g : Fld)
    (hg : g.code ∉ recordFlds) :
    (l.foldl (fun (s : State) c => s.initFar (Fin.ofNat 12 c) (dimms.getD c ⟨[], false, []⟩)) s).fld g f = s.fld g f := by
  induction l generalizing s with
  | nil => rfl
  | cons c l ih =>
    have k := initFar_step hs (Fin.ofNat 12 c) (dimms.getD c ⟨[], false, []⟩)
    refine (ih ((ChansKept.refl s).step hs _ _ |>.calm hs) (fun e he => hf e (List.mem_cons_of_mem _ he))).trans ?_
    exact k.others g hg f (fun he => hf c List.mem_cons_self (Fin.ext he))

theorem FarUp.of_flds {p : Nat × Nat} {d : DimmReport} {pop failed : Nat} {f : Chan} {s t : State} (h : FarUp p d pop failed f s)
    (hf : ∀ g : Fld, g.code ∉ recordFlds → t.fld g f = s.fld g f) : FarUp p d pop failed f t := by
  refine ⟨fun h1 h2 h3 => ?_, fun h1 h2 => ?_, fun h1 h2 => ?_⟩
  · rw [hf _ (by decide), hf _ (by decide), hf _ (by decide)]; exact h.trained h1 h2 h3
  · rw [hf _ (by decide), hf _ (by decide)]; exact h.empty h1 h2
  · rw [hf _ (by decide), hf _ (by decide)]; exact h.refused h1 h2

theorem foldl_chan_up {s : State} (hs : Calm s) (dimms : List DimmReport) (l : List Nat) (hl : l.Nodup) (h12 : ∀ c ∈ l, c < 12) {f : Chan}
    (hf : f.val ∈ l) : FarUp (s.ktl.persona.farPop.getD f (0, 0)) (dimms.getD f ⟨[], false, []⟩) (s.fld .FMC_STAT_POP f)
      (s.fld .FMC_STAT_FAILED f) f (l.foldl (fun (s : State) c => s.initFar (Fin.ofNat 12 c) (dimms.getD c ⟨[], false, []⟩)) s) := by
  induction l generalizing s with
  | nil => exact absurd hf List.not_mem_nil
  | cons c l ih =>
    obtain ⟨hcl, hl⟩ := List.nodup_cons.mp hl
    have hc12 := h12 c List.mem_cons_self
    have hlt : ∀ e ∈ l, e < 12 := fun e he => h12 e (List.mem_cons_of_mem _ he)
    have hs' : Calm (s.initFar (Fin.ofNat 12 c) (dimms.getD c ⟨[], false, []⟩)) := (ChansKept.refl s).step hs _ _ |>.calm hs
    rw [List.foldl_cons]
    rcases List.mem_cons.mp hf with rfl | hm
    · have k := initFar_step hs f (dimms.getD f ⟨[], false, []⟩)
      rw [ofNat_chan] at hs' ⊢
      refine k.up.of_flds (fun g hg => chan_unmet hs' dimms l (fun e he hfe => hcl ?_) g hg)
      rw [hfe, Fin.val_ofNat, Nat.mod_eq_of_lt (hlt e he)]
      exact he
    · have k := initFar_step hs (Fin.ofNat 12 c) (dimms.getD c ⟨[], false, []⟩)
      have hne : f.val ≠ (Fin.ofNat 12 c).val := fun he => hcl (by
        rw [Fin.val_ofNat, Nat.mod_eq_of_lt hc12] at he
        rwa [← he])
      have := ih hs' hl hlt hm
      rwa [k.persona, k.others .FMC_STAT_POP (by decide) f hne, k.others .FMC_STAT_FAILED (by decide) f hne] at this

theorem initChans_up {s : State} (hs : Calm s) (dimms : List DimmReport) (f : Chan) :
    FarUp (s.ktl.persona.farPop.getD f (0, 0)) (dimms.getD f ⟨[], false, []⟩) (s.fld .FMC_STAT_POP f) (s.fld .FMC_STAT_FAILED f) f
      (s.initChans dimms) :=
  foldl_chan_up hs dimms (List.range 12) List.nodup_range (fun _ hc => List.mem_range.mp hc) (List.mem_range.mpr f.isLt)

/-! ## The stage -/

/-- The state stage 5 ends in. -/
def State.stacksUp (s : State) (dimms : List DimmReport) : State :=
  (((s.setKtl { s.ktl with unusable := [] }).initBlocks).initChans dimms).toStage 6

theorem bootInitStacks_next (dimms : List DimmReport) {s : State} (h : s.atStage 5 = true) :
    exec (.bootInitStacks dimms) s = .next (s.stacksUp dimms) := by
  show execBootInitStacks dimms s = _
  unfold execBootInitStacks
  rw [h, Bool.not_true, if_neg Bool.false_ne_true]
  rfl

theorem BlockUp.of_frame {p : Persona} {b : Block} {s t : State} (h : BlockUp p b s) (hb : t.blks = s.blks) {cs : List Nat}
    (hf : FldsBut cs s t) (hp : ∀ f ∈ [Fld.BLK_MAP_POS0, .BLK_MAP_POS1, .BLK_MAP_POS2, .BLK_MAP_POS3], f.code ∉ cs)
    (hs : Fld.BLK_SPARE_SPARE.code ∉ cs) (hst : Fld.BLK_PWR_STATE.code ∉ cs) : BlockUp p b t := by
  refine ⟨fun k hk => (posOf_of_flds hf hp _ _).trans (h.pos k hk), ?_, fun hn => ?_, fun hn => ?_⟩
  · rw [State.blk, hb]; exact h.blk
  · rw [hf _ _ _ hs, hf _ _ _ hst]; exact h.full hn
  · rw [hf _ _ _ hs, hf _ _ _ hst]; exact h.short hn

theorem stacksUp_facts (s : State) (dimms : List DimmReport) : (s.stacksUp dimms).fld .KTL_BOOT_STAGE 0 = 6 ∧
    (∀ b : Block, BlockUp s.ktl.persona b (s.stacksUp dimms) ∧
      (b.val ∈ (s.stacksUp dimms).ktl.unusable ↔ ¬ Enough (s.ktl.persona.positions b))) ∧
    ∀ f : Chan, FarUp (s.ktl.persona.farPop.getD f (0, 0)) (dimms.getD f ⟨[], false, []⟩) (s.fld .FMC_STAT_POP f)
      (s.fld .FMC_STAT_FAILED f) f (s.stacksUp dimms) := by
  have hcalm := initBlocks_calm (s.setKtl { s.ktl with unusable := [] })
  have hup := initBlocks_up (s.setKtl { s.ktl with unusable := [] })
  have hun := fun b => initBlocks_unusable (s.setKtl { s.ktl with unusable := [] }) b rfl
  unfold State.stacksUp
  generalize (s.setKtl { s.ktl with unusable := [] }).initBlocks = u at hcalm hup hun ⊢
  have hk := initChans_kept hcalm dimms
  have hfar := initChans_up hcalm dimms
  generalize u.initChans dimms = v at hk hfar ⊢
  have hst : FldsBut [Fld.KTL_BOOT_STAGE.code] v (v.toStage 6) := fldsBut_setFld v .KTL_BOOT_STAGE 0 6 0 (by decide)
  obtain ⟨hq, -⟩ := hup 0
  have hstat : ∀ g : Fld, g.code ∉ blockFlds → ∀ i, u.fld g i = s.fld g i := fun g hg i => hq.flds g i 0 hg
  refine ⟨toStage_shown _ (by decide), fun b => ⟨?_, ?_⟩, fun f => ?_⟩
  · obtain ⟨-, hb⟩ := hup b
    exact (hb.of_frame hk.blks hk.flds (by decide) (by decide) (by decide)).of_frame (t := v.toStage 6) rfl hst (by decide) (by decide)
      (by decide)
  · show b.val ∈ v.ktl.unusable ↔ _
    rw [hk.unusable]
    exact hun b
  · have h := hfar f
    rw [hq.persona, hstat .FMC_STAT_POP (by decide), hstat .FMC_STAT_FAILED (by decide)] at h
    refine ⟨fun h1 h2 h3 => ?_, fun h1 h2 => ?_, fun h1 h2 => ?_⟩
    · rw [hst _ _ _ (by decide), hst _ _ _ (by decide), hst _ _ _ (by decide)]; exact h.trained h1 h2 h3
    · rw [hst _ _ _ (by decide), hst _ _ _ (by decide)]; exact h.empty h1 h2
    · rw [hst _ _ _ (by decide), hst _ _ _ (by decide)]; exact h.refused h1 h2

end Sys2Proof.Machine
end

section
/-! SUPPORT and PROOF. Stages 6 to 8 of boot, the seal, and O55 (R36, R101, R569, R572). -/

namespace Sys2Proof.Machine

set_option Elab.async false

/-! ## The hop tables (R15, R101) -/

theorem meshHops_le {a b : Nat} (ha : a < 12) (hb : b < 12) : meshHops a b ≤ 5 := by
  unfold meshHops
  omega

theorem agentPlace_lt {i : Nat} (h : i < 126) : agentPlace i < 14 := by
  unfold agentPlace
  split
  · omega
  · split
    · omega
    · split <;> omega

theorem dieHops_le {die r : Nat} (hd : die < 2) (hr : r < 12) : dieHops die r ≤ 6 := by
  unfold dieHops attachment
  split
  · exact Nat.add_le_add_left (meshHops_le (by omega) hr) 1
  · exact Nat.add_le_add_left (meshHops_le (by omega) hr) 1

theorem hopValue_le (i j : Nat) : hopValue i j ≤ 15 := by
  unfold hopValue
  split
  · decide
  · next h =>
    have hi := agentPlace_lt (i := i) (by omega)
    have hj := agentPlace_lt (i := j) (by omega)
    dsimp only
    split
    · next hm => exact (meshHops_le hm.1 hm.2).trans (by decide)
    · split
      · split <;> decide
      · split
        · exact (dieHops_le (by omega) (by omega)).trans (by decide)
        · exact (dieHops_le (by omega) (by omega)).trans (by decide)

/-- Nibbles side by side stay within their width. -/
theorem foldl_nibbles_lt (g : Nat → Nat) (hg : ∀ k, g k ≤ 15) (n : Nat) :
    (List.range n).foldl (fun (w : Nat) k => w + g k * 16 ^ k) 0 < 16 ^ n := by
  induction n with
  | zero => exact Nat.zero_lt_one
  | succ n ih =>
    rw [List.range_succ, List.foldl_append, List.foldl_cons, List.foldl_nil, Nat.pow_succ]
    have := Nat.mul_le_mul_right (16 ^ n) (hg n)
    omega

theorem hopWord_lt (n : Nat) : hopWord n < 2 ^ 32 :=
  foldl_nibbles_lt (fun k => hopValue ((n * 8 + k) / 128) ((n * 8 + k) % 128)) (fun _ => hopValue_le _ _) 8

/-- The hop table of one home. -/
def State.writeHopTable (s : State) (r : Nat) : State :=
  (List.range 2048).foldl (fun (s : State) n => s.setFld .DIR_HOP_HOPS r (hopWord n) n) s

theorem writeHopTable_regsOnly (s : State) (r : Nat) : RegsOnly s (s.writeHopTable r) :=
  regsOnly_foldl (fun t _ => setFld_regsOnly t _ _ _ _) _ s

theorem writeHopTable_flds (s : State) (r : Nat) : FldsBut [Fld.DIR_HOP_HOPS.code] s (s.writeHopTable r) :=
  fldsBut_foldl (fun t n => fldsBut_setFld t .DIR_HOP_HOPS r _ n (by decide)) _ s

theorem writeHopTable_other (s : State) {r q : Nat} (h : q ≠ r) (n : Nat) :
    (s.writeHopTable r).fld .DIR_HOP_HOPS q n = s.fld .DIR_HOP_HOPS q n :=
  foldl_keeps (fun t : State => t.fld .DIR_HOP_HOPS q n = s.fld .DIR_HOP_HOPS q n) _
    (fun t _ ht => (State.fld_setFld_inst t _ h).trans ht) _ rfl

theorem writeHopTable_own (s : State) (r : Nat) {n : Nat} (hn : n < 2048) : (s.writeHopTable r).fld .DIR_HOP_HOPS r n = hopWord n := by
  have hset : ∀ t : State, (t.setFld .DIR_HOP_HOPS r (hopWord n) n).fld .DIR_HOP_HOPS r n = hopWord n := fun t =>
    (State.fld_setFld_same t _ _ _ _).trans (Nat.mod_eq_of_lt (hopWord_lt n))
  have hmem : n ∈ List.range 2048 := List.mem_range.mpr hn
  unfold State.writeHopTable
  generalize List.range 2048 = l at hmem ⊢
  refine foldl_reaches (a := n) (g := fun (t : State) m => t.setFld .DIR_HOP_HOPS r (hopWord m) m)
    (P := fun t : State => t.fld .DIR_HOP_HOPS r n = hopWord n) hset (fun t m ht => ?_) hmem s
  by_cases hm : n = m
  · rw [← hm]
    exact hset t
  · refine (State.fld_setFld_other t _ (fun he => hm ?_)).trans ht
    obtain ⟨-, -, h⟩ := Fld.key_eq_iff.mp he
    exact h

theorem writeHops_regsOnly (s : State) : RegsOnly s s.writeHops := by
  unfold State.writeHops
  exact regsOnly_foldl (fun t r => writeHopTable_regsOnly t r) _ s

theorem writeHops_flds (s : State) : FldsBut [Fld.DIR_HOP_HOPS.code] s s.writeHops := by
  unfold State.writeHops
  exact fldsBut_foldl (fun t r => writeHopTable_flds t r) _ s

theorem writeHops_home (s : State) {r n : Nat} (hr : r < 12) (hn : n < 2048) : s.writeHops.fld .DIR_HOP_HOPS r n = hopWord n := by
  unfold State.writeHops
  refine foldl_reaches (a := r) (g := State.writeHopTable) (P := fun t : State => t.fld .DIR_HOP_HOPS r n = hopWord n)
    (fun t => writeHopTable_own t r hn) (fun t q ht => ?_) (List.mem_range.mpr hr) s
  by_cases hq : r = q
  · rw [← hq]
    exact writeHopTable_own t r hn
  · exact (writeHopTable_other t hq n).trans ht

/-! ## Firmware placed in memory (R36) -/

theorem placeObject_ktl (s : State) (slot type : Nat) : (s.placeObject slot type).ktl = s.ktl := by
  unfold State.placeObject
  exact (writeBytes_steady s kettleMover 7 _ _ _).ktl

theorem placeObject_stores (s : State) (slot type : Nat) : StoresOnly s (s.placeObject slot type) := by
  unfold State.placeObject
  exact writeBytes_storesOnly s kettleMover 7 _ _ _

/-- An object stands in memory at its LOAD, and nothing else of memory changes. -/
def Placed (s t : State) (slot type : Nat) : Prop := PlainMemory s → s.coh.dir = [] →
  (let a := fieldAt (s.objHeader slot type) 16 6
   let l := s.objPayload slot type
   (∀ b : Nat, (∀ i : Nat, i < l.length → canonical (a + i) ≠ b) → t.mem.byte b = s.mem.byte b) ∧
   (l.length ≤ 2 ^ 30 → ∀ i : Nat, i < l.length → (s.place (canonical (a + i))).memory = true → s.storeGone (canonical (a + i)) = false →
     t.mem.byte (canonical (a + i)) = l.getD i 0))

theorem placeObject_placed (s : State) (slot type : Nat) : Placed s (s.placeObject slot type) slot type := fun hp hd => by
  have h : BareMem s := BareMem.of_plain ⟨hp, hd⟩
  unfold State.placeObject
  generalize fieldAt (s.objHeader slot type) 16 6 = a
  generalize s.objPayload slot type = l
  exact ⟨fun b hb => writeBytes_outside h hb, fun hn i hi hm hg => writeBytes_inside h hn hi ⟨hm, hg⟩⟩

theorem Placed.of_mem {s t u : State} {slot type : Nat} (h : Placed s t slot type) (hm : u.mem = t.mem) : Placed s u slot type :=
  fun hp hd => by
    unfold Placed at h
    rw [hm]
    exact h hp hd

/-- The registers that hold the hop tables play no part in what memory is. -/
theorem Placed.of_hops {s t : State} {slot type : Nat} (h : Placed s.writeHops t slot type) : Placed s t slot type := fun hp hd => by
  have hr := writeHops_regsOnly s
  have hf := writeHops_flds s
  unfold Placed at h
  generalize s.writeHops = u at hr hf h
  have hplace : ∀ a, u.place a = s.place a := fun a => State.place_of_flds hf (by decide) (by decide) a
  have hu : u.mem = s.mem ∧ u.repair = s.repair ∧ u.execs = s.execs ∧ u.coh = s.coh ∧ u.blks = s.blks ∧ u.ktl = s.ktl := by
    refine ⟨?_, ?_, ?_, ?_, ?_, ?_⟩ <;> rw [hr]
  obtain ⟨hmem, hrep, hex, hcoh, hblk, hktl⟩ := hu
  have hgone : ∀ a, u.storeGone a = s.storeGone a := fun a => by unfold State.storeGone State.blk; rw [hblk]
  have hhead : u.objHeader slot type = s.objHeader slot type := by unfold State.objHeader; rw [hktl]
  have hpay : u.objPayload slot type = s.objPayload slot type := by unfold State.objPayload State.objLen; rw [hhead, hktl]
  have hpl : PlainMemory u := by
    unfold PlainMemory NoUpdates
    rw [hmem, hrep, hex]
    exact hp
  have := h hpl (by rw [hcoh]; exact hd)
  rw [hhead, hpay, hmem] at this
  simp only [hplace, hgone] at this
  exact this

/-! ## Stages 6 to 8 -/

/-- An object placed and measured. -/
def State.firmwareIn (s : State) (type index : Nat) : State := (s.placeObject s.bootedSlot type).measure index (s.objBytes s.bootedSlot type)

/-- Stage 6 with firmware that verifies. -/
def State.seqStarted (s : State) : State :=
  ((s.firmwareIn 3 4).setKtl { (s.firmwareIn 3 4).ktl with seqEntry := some ((s.firmwareIn 3 4).objEntry s.bootedSlot 3) }).toStage 7

/-- Stage 7 with firmware that verifies. -/
def State.coresStarted (s : State) : State :=
  (s.firmwareIn 4 5).setKtl { (s.firmwareIn 4 5).ktl with coreEntry := some ((s.firmwareIn 4 5).objEntry s.bootedSlot 4) }

theorem firmwareIn_facts (s : State) (type index : Nat) : Placed s (s.firmwareIn type index) s.bootedSlot type ∧
    StoresOnly s (s.firmwareIn type index) ∧
    (s.firmwareIn type index).objEntry s.bootedSlot type = fieldAt (s.objHeader s.bootedSlot type) 24 6 := by
  have hp := placeObject_placed s s.bootedSlot type
  have hs := placeObject_stores s s.bootedSlot type
  have hk := placeObject_ktl s s.bootedSlot type
  unfold State.firmwareIn
  generalize s.placeObject s.bootedSlot type = u at hp hs hk ⊢
  refine ⟨hp.of_mem rfl, hs.trans ⟨fun _ => rfl, fun _ => rfl, rfl, rfl, rfl, FldsBut.of_regs rfl⟩, ?_⟩
  have hflash : (u.measure index (s.objBytes s.bootedSlot type)).ktl.persist = s.ktl.persist := by
    show u.ktl.persist = _
    rw [hk]
  unfold State.objEntry State.objHeader
  rw [hflash]

theorem objectOk_writeHops (s : State) (sigs : Sigs) :
    s.writeHops.objectOk s.writeHops.bootedSlot 3 sigs = s.objectOk s.bootedSlot 3 sigs := by
  have hk := (writeHops_regsOnly s).ktl
  have hslot : s.writeHops.bootedSlot = s.bootedSlot := by
    unfold State.bootedSlot
    exact writeHops_flds s .KTL_BOOT_SLOT 0 0 (by decide)
  rw [hslot]
  exact objectOk_of_ktl (by rw [hk]) (by rw [hk]) _ _ _

theorem bootSeqFirmware_next (sigs : Sigs) {s : State} (h : s.atStage 6 = true) : exec (.bootSeqFirmware sigs) s =
    .next (if !s.objectOk s.bootedSlot 3 sigs then s.writeHops.kettleOnly 5 else s.writeHops.seqStarted) := by
  rw [← objectOk_writeHops]
  show execBootSeqFirmware sigs s = _
  unfold execBootSeqFirmware
  rw [h, Bool.not_true, if_neg Bool.false_ne_true]
  rfl

theorem seqStarted_facts (s : State) : s.seqStarted.fld .KTL_BOOT_STAGE 0 = 7 ∧
    s.seqStarted.ktl.seqEntry = some (fieldAt (s.objHeader s.bootedSlot 3) 24 6) ∧ Placed s s.seqStarted s.bootedSlot 3 ∧
    ∀ r n, s.seqStarted.fld .DIR_HOP_HOPS r n = s.fld .DIR_HOP_HOPS r n := by
  obtain ⟨hp, hs, he⟩ := firmwareIn_facts s 3 4
  unfold State.seqStarted
  generalize s.firmwareIn 3 4 = u at hp hs he ⊢
  refine ⟨toStage_shown _ (by decide), congrArg some he, hp.of_mem rfl, fun r n => ?_⟩
  exact (State.fld_setFld_code _ _ (by decide)).trans (hs.flds .DIR_HOP_HOPS r n (by decide))

theorem bootHostFirmware_next (sigs : Sigs) {s : State} (h : s.atStage 7 = true) (hc : s.ktl.coreEntry = none) :
    exec (.bootHostFirmware sigs) s =
      .next (if s.objectOk s.bootedSlot 4 sigs = true then s.coresStarted else s.kettleOnly 6) := by
  have hn : ¬ (!s.atStage 7 || s.ktl.coreEntry.isSome) = true := by rw [h, hc]; exact Bool.false_ne_true
  show execBootHostFirmware sigs s = _
  unfold execBootHostFirmware
  rw [if_neg hn]
  dsimp only
  cases s.objectOk s.bootedSlot 4 sigs with
  | false => rfl
  | true => rfl

theorem coresStarted_facts (s : State) : s.coresStarted.fld .KTL_BOOT_STAGE 0 = s.fld .KTL_BOOT_STAGE 0 ∧
    s.coresStarted.ktl.coreEntry = some (fieldAt (s.objHeader s.bootedSlot 4) 24 6) ∧ Placed s s.coresStarted s.bootedSlot 4 := by
  obtain ⟨hp, hs, he⟩ := firmwareIn_facts s 4 5
  unfold State.coresStarted
  generalize s.firmwareIn 4 5 = u at hp hs he ⊢
  exact ⟨hs.flds .KTL_BOOT_STAGE 0 0 (by decide), congrArg some he, hp.of_mem rfl⟩

theorem bootRunning_next {s : State} (h : s.atStage 7 = true) (hc : s.ktl.coreEntry ≠ none) : exec .bootRunning s =
    .next ((s.setKtl { s.ktl with runningAt := some s.clk.aon, resetting := false }).toStage 8) := by
  have hn : ¬ (!s.atStage 7 || s.ktl.coreEntry.isNone) = true := by
    rw [h, Bool.not_true, Bool.false_or, Option.isNone_iff_eq_none]
    exact hc
  show execBootRunning s = _
  unfold execBootRunning
  rw [if_neg hn]

/-! ## What each command does, clause by clause -/

/-- A command of a stage that is not the current one leaves the state (R569). -/
theorem boot_stays (s : State) : (∀ rep, s.ktl.stage1Due = false → exec (.standbyPowerUp rep) s = .next s) ∧
    (∀ a b, s.atStage 2 = false → exec (.bootSlotChoice a b) s = .next s) ∧
    (∀ sigs, s.atStage 3 = false → exec (.bootPersonality sigs) s = .next s) ∧
    (∀ dimms, s.atStage 5 = false → exec (.bootInitStacks dimms) s = .next s) ∧
    (∀ sigs, s.atStage 6 = false → exec (.bootSeqFirmware sigs) s = .next s) ∧
    (∀ sigs, s.atStage 7 = false ∨ s.ktl.coreEntry ≠ none → exec (.bootHostFirmware sigs) s = .next s) ∧
    (s.atStage 7 = false ∨ s.ktl.coreEntry = none → exec .bootRunning s = .next s) := by
  refine ⟨fun rep h => ?_, fun a b h => ?_, fun sigs h => ?_, fun dimms h => ?_, fun sigs h => ?_, fun sigs h => ?_, fun h => ?_⟩
  · show execStandbyPowerUp rep s = _
    rw [execStandbyPowerUp, h, Bool.not_false, if_pos rfl]
  · show execBootSlotChoice a b s = _
    rw [execBootSlotChoice, h, Bool.not_false, if_pos rfl]
  · show execBootPersonality sigs s = _
    rw [execBootPersonality, h, Bool.not_false, if_pos rfl]
  · show execBootInitStacks dimms s = _
    rw [execBootInitStacks, h, Bool.not_false, if_pos rfl]
  · show execBootSeqFirmware sigs s = _
    rw [execBootSeqFirmware, h, Bool.not_false, if_pos rfl]
  · show execBootHostFirmware sigs s = _
    rw [execBootHostFirmware, if_pos]
    rcases h with h | h
    · rw [h]; rfl
    · rw [Option.isSome_iff_ne_none.mpr h, Bool.or_true]
  · show execBootRunning s = _
    rw [execBootRunning, if_pos]
    rcases h with h | h
    · rw [h]; rfl
    · rw [h]; exact Bool.or_true _

theorem stage1_acts (s : State) (rep : StandbyReport) (h : s.ktl.stage1Due = true) : ∃ t : State, exec (.standbyPowerUp rep) s = .next t ∧
    Counted s t rep ∧ (rep.selfTest = false → Stopped s t 1) ∧ (rep.selfTest = true → rep.pufOk = false → Stopped s t 2) ∧
    (rep.selfTest = true → rep.pufOk = true → t.fld .KTL_BOOT_STAGE 0 = 2 ∧ SetupOnly s t ∧ RegsBut s t [Fld.KTL_BOOT_STAGE.key 0 0]) := by
  refine ⟨_, standbyPowerUp_next rep h, ?_⟩
  cases ht : rep.selfTest with
  | false =>
    obtain ⟨hc, hs⟩ := counted_stop s rep (fail := 1) (by decide)
    exact ⟨hc, fun _ => hs, fun h => absurd h Bool.false_ne_true, fun h => absurd h Bool.false_ne_true⟩
  | true =>
    cases hp : rep.pufOk with
    | false =>
      obtain ⟨hc, hs⟩ := counted_stop s rep (fail := 2) (by decide)
      exact ⟨hc, fun h => absurd h.symm Bool.false_ne_true, fun _ _ => hs, fun _ h => absurd h Bool.false_ne_true⟩
    | true =>
      obtain ⟨hc, hst, hset, hreg⟩ := started_goes_on s rep
      exact ⟨hc, fun h => absurd h.symm Bool.false_ne_true, fun _ h => absurd h.symm Bool.false_ne_true, fun _ _ => ⟨hst, hset, hreg⟩⟩

theorem stage2_acts (s : State) (a b : Sigs) (h : s.atStage 2 = true) : ∃ t : State, exec (.bootSlotChoice a b) s = .next t ∧
    t.ktl.persist = s.ktl.persist.tried ∧
    (s.slotOk a b s.ktl.persist.first = false → s.slotOk a b (1 - s.ktl.persist.first) = false → Stopped s t 3) ∧
    (s.slotOk a b s.ktl.persist.first = true ∨ s.slotOk a b (1 - s.ktl.persist.first) = true →
      t.fld .KTL_BOOT_STAGE 0 = 3 ∧ (s.slotChosen a b < 2 → t.fld .KTL_BOOT_SLOT 0 = s.slotChosen a b) ∧
      Tbl.get t.ktl.measured [] 2 = Sys2Proof.Config.sha384 (s.objBytes (s.slotChosen a b) 1) ∧ SetupOnly s t) := by
  refine ⟨_, bootSlotChoice_next a b h, ?_⟩
  by_cases hn : (!s.slotOk a b s.ktl.persist.first && !s.slotOk a b (1 - s.ktl.persist.first)) = true
  · rw [if_pos hn]
    refine ⟨?_, fun _ _ => (kettleOnly_stopped _ (by decide)).of_same rfl rfl, fun ho => ?_⟩
    · rw [kettleOnly_ktl]
      rfl
    · rw [Bool.and_eq_true, Bool.not_eq_true', Bool.not_eq_true'] at hn
      rcases ho with ho | ho
      · exact absurd (ho.symm.trans hn.1) (by decide)
      · exact absurd (ho.symm.trans hn.2) (by decide)
  · rw [if_neg hn]
    obtain ⟨hp, hst, hslot, hmeas, hset⟩ := slotChosen_facts s (s.slotChosen a b)
    exact ⟨hp, fun h1 h2 => absurd (by rw [h1, h2]; rfl) hn, fun _ => ⟨hst, hslot, hmeas, hset⟩⟩

theorem stage3_acts (s : State) (sigs : Sigs) (h : s.atStage 3 = true) :
    let r := s.objPayload s.bootedSlot 2
    let ok := s.objectOk s.bootedSlot 2 sigs = true ∧ recordOk r (fieldAt (s.objHeader s.bootedSlot 2) 8 4) = true
    (¬ ok → ∃ t : State, exec (.bootPersonality sigs) s = .next t ∧ Stopped s t 4) ∧
    (ok → ∃ t : State, exec (.bootPersonality sigs) s = .next t ∧ t.fld .KTL_BOOT_STAGE 0 = 4 ∧ Applied s t r) := by
  refine ⟨fun hn => ⟨_, bootPersonality_refused h hn, kettleOnly_stopped s (by decide)⟩, fun ⟨ho, hr⟩ => ?_⟩
  obtain ⟨ha, hst⟩ := (applyRecord_applied s (s.objPayload s.bootedSlot 2)).stage4 (s.objBytes s.bootedSlot 2)
  exact ⟨_, bootPersonality_applies h ho hr, hst, ha⟩

theorem stage6_acts (s : State) (sigs : Sigs) (h : s.atStage 6 = true) : ∃ t : State, exec (.bootSeqFirmware sigs) s = .next t ∧
    (∀ r, r < 12 → ∀ n, n < 2048 → t.fld .DIR_HOP_HOPS r n = hopWord n) ∧
    (s.objectOk s.bootedSlot 3 sigs = false → Stopped s t 5) ∧
    (s.objectOk s.bootedSlot 3 sigs = true → t.fld .KTL_BOOT_STAGE 0 = 7 ∧
      t.ktl.seqEntry = some (fieldAt (s.objHeader s.bootedSlot 3) 24 6) ∧ Placed s t s.bootedSlot 3) := by
  have hk := writeHops_regsOnly s
  have hhome := fun r hr n hn => writeHops_home s (r := r) (n := n) hr hn
  have hslot : s.writeHops.bootedSlot = s.bootedSlot := by
    unfold State.bootedSlot
    exact writeHops_flds s .KTL_BOOT_SLOT 0 0 (by decide)
  have hhead : s.writeHops.objHeader s.bootedSlot 3 = s.objHeader s.bootedSlot 3 := by unfold State.objHeader; rw [hk.ktl]
  have hplaced := fun t => Placed.of_hops (s := s) (t := t) (slot := s.bootedSlot) (type := 3)
  refine ⟨_, bootSeqFirmware_next sigs h, ?_⟩
  generalize s.writeHops = u at hk hhome hslot hhead hplaced ⊢
  cases s.objectOk s.bootedSlot 3 sigs with
  | false =>
    have hf := kettleOnly_flds u (fail := 5) (by decide)
    have hs := kettleOnly_stopped u (fail := 5) (by decide)
    rw [if_pos (Bool.not_false)]
    exact ⟨fun r hr n hn => (hf _ _ _ (by decide)).trans (hhome r hr n hn), fun _ => hs.of_same (by rw [hk.ktl]) (by rw [hk]),
      fun h => absurd h Bool.false_ne_true⟩
  | true =>
    obtain ⟨hst, hent, hp, hhops⟩ := seqStarted_facts u
    rw [if_neg (by decide)]
    rw [hslot] at hent hp
    exact ⟨fun r hr n hn => (hhops r n).trans (hhome r hr n hn), fun h => absurd h.symm Bool.false_ne_true,
      fun _ => ⟨hst, by rw [hent, hhead], hplaced _ hp⟩⟩

theorem stage7_acts (s : State) (sigs : Sigs) (h : s.atStage 7 = true) (hc : s.ktl.coreEntry = none) :
    ∃ t : State, exec (.bootHostFirmware sigs) s = .next t ∧ (s.objectOk s.bootedSlot 4 sigs = false → Stopped s t 6) ∧
    (s.objectOk s.bootedSlot 4 sigs = true → t.fld .KTL_BOOT_STAGE 0 = s.fld .KTL_BOOT_STAGE 0 ∧
      t.ktl.coreEntry = some (fieldAt (s.objHeader s.bootedSlot 4) 24 6) ∧ Placed s t s.bootedSlot 4) := by
  refine ⟨_, bootHostFirmware_next sigs h hc, ?_⟩
  cases s.objectOk s.bootedSlot 4 sigs with
  | false =>
    rw [if_neg (by decide)]
    exact ⟨fun _ => kettleOnly_stopped s (by decide), fun h => absurd h Bool.false_ne_true⟩
  | true =>
    rw [if_pos rfl]
    exact ⟨fun h => absurd h.symm Bool.false_ne_true, fun _ => coresStarted_facts s⟩

theorem stage8_acts (s : State) (h : s.atStage 7 = true) (hc : s.ktl.coreEntry ≠ none) : ∃ t : State, exec .bootRunning s = .next t ∧
    t.fld .KTL_BOOT_STAGE 0 = 8 ∧ t.ktl = { s.ktl with runningAt := some s.clk.aon, resetting := false } ∧ SetupOnly s t ∧
    RegsBut s t [Fld.KTL_BOOT_STAGE.key 0 0] :=
  ⟨_, bootRunning_next h hc, toStage_shown _ (by decide), rfl, (setKtl_setupOnly s _).trans (setFld_setupOnly _ _ _ _ _),
    toStage_regs (s.setKtl _) 8⟩

/-- The seal follows 60 s after stage 8 began (R572). -/
theorem sealTimeout_next (s : State) : (s.ktl.runningAt = none → exec .sealTimeout s = .next s) ∧
    ∀ n, s.ktl.runningAt = some n → (s.clk.aon < n + 60 * 25000000 → exec .sealTimeout s = .next s) ∧
      (n + 60 * 25000000 ≤ s.clk.aon → exec .sealTimeout s = .next (s.setFld .KTL_BOOT_SEALED 0 1)) := by
  refine ⟨fun h => ?_, fun n h => ⟨fun hn => ?_, fun hn => ?_⟩⟩ <;> show execSealTimeout s = _ <;> unfold execSealTimeout <;> rw [h]
  · dsimp only
    rw [if_pos hn]
  · dsimp only
    rw [if_neg (Nat.not_lt.mpr hn)]
    rfl

end Sys2Proof.Machine
end

section
/-! SUPPORT. Boot, assembled: the clauses of O55. -/

namespace Sys2Proof.Machine
set_option Elab.async false

/-- The lanes of a port, with the port's number read as a port. -/
theorem portWidth_port (mode : Nat) (p : Port) : portWidth mode p =
    if mode = 0 then (if p = 0 then 8 else 0) else if mode = 1 then (if p < 2 then 4 else 0) else 2 := by
  unfold portWidth
  revert p
  by_cases h0 : mode = 0
  · simp only [if_pos h0]
    decide
  · by_cases h1 : mode = 1
    · simp only [if_neg h0, if_pos h1]
      decide
    · simp only [if_neg h0, if_neg h1, implies_true]

theorem Applied.links {s t : State} {r : List Byte} (h : Applied s t r) (l : Nat) :
    l ∈ t.ktl.persona.badLinks ↔ l < 24 ∧ recordLinkBad r l = true := by
  rw [h.persona]
  show l ∈ (List.range 24).filter (fun l => recordLinkBad r l) ↔ _
  rw [List.mem_filter, List.mem_range]

theorem Applied.spare {s t : State} {r : List Byte} (h : Applied s t r) (b : Block) :
    t.ktl.persona.spare.getD b 0 = s.appliedMask r b := by
  rw [h.persona]
  exact getD_map_range (fun b => s.appliedMask r b) 0 b.isLt

theorem not_enough_iff (l : List Nat) : ¬ Enough l ↔ l.length ≠ 16 ∧ l.length ≠ 17 := not_or

theorem konly_of_atStage {s : State} {k : Nat} (h : s.atStage k = true) : s.flag .KTL_BOOT_KONLY 0 = false := by
  unfold State.atStage at h
  simp only [Bool.and_eq_true, Bool.not_eq_true'] at h
  exact h.1.1.2

theorem stage4_acts {s : State} (hg : s.powerGood = true) (hl : s.ktl.losses = []) (ht : s.ktl.dom.tripped = false)
    (h4 : s.atStage 4 = true) : ∃ t : State, exec .bootPowerOn s = .next t ∧ t.fld .KTL_BOOT_STAGE 0 = 5 ∧ t.ktl = s.ktl.powered ∧
      SetupOnly s t ∧ ∀ f : Chan, t.fld .FMC_XTS_KEYED f =
        if (s.ktl.persona.farPop.getD f (0, 0)).1 ≠ 0 then 1 else s.fld .FMC_XTS_KEYED f := by
  obtain ⟨-, hacts⟩ := bootPowerOn_acts hg hl ht
  exact ⟨_, hacts (konly_of_atStage h4) h4, powered_facts s⟩

theorem stage5_acts (s : State) (dimms : List DimmReport) (h : s.atStage 5 = true) :
    ∃ t : State, exec (.bootInitStacks dimms) s = .next t ∧ t.fld .KTL_BOOT_STAGE 0 = 6 ∧
    (∀ b : Block, BlockUp s.ktl.persona b t ∧ (b.val ∈ t.ktl.unusable ↔ ¬ Enough (s.ktl.persona.positions b))) ∧
    ∀ f : Chan, FarUp (s.ktl.persona.farPop.getD f (0, 0)) (dimms.getD f ⟨[], false, []⟩) (s.fld .FMC_STAT_POP f)
      (s.fld .FMC_STAT_FAILED f) f t :=
  ⟨_, bootInitStacks_next dimms h, stacksUp_facts s dimms⟩

/-- Settles O55: each clause is the lemma that says what its stage's command does. -/
theorem bootGoesThroughItsStages : Obligations.BootGoesThroughItsStages := by
  unfold Obligations.BootGoesThroughItsStages
  intro s stopped placed
  obtain ⟨stay1, stay2, stay3, stay5, stay6, stay7, stay8⟩ := boot_stays s
  refine ⟨fun rep => ⟨stay1 rep, fun h => ?_⟩, fun a b => ⟨stay2 a b, fun h => ?_⟩, fun sigs => ⟨stay3 sigs, fun h => ?_⟩, bootPowerOn_stays,
    fun hg hl ht => ⟨?_, fun h => ?_⟩, fun dimms => ⟨stay5 dimms, fun h => ?_⟩,
    fun sigs => ⟨stay6 sigs, stage6_acts s sigs, stay7 sigs, stage7_acts s sigs⟩, stay8, stage8_acts s, sealTimeout_next s⟩
  · obtain ⟨t, he, ⟨hp, hd, hm, hi⟩, hrest⟩ := stage1_acts s rep h
    exact ⟨t, he, hp, hd, hm, hi, hrest⟩
  · exact stage2_acts s a b h
  · obtain ⟨hstop, hgo⟩ := stage3_acts s sigs h
    refine ⟨hstop, fun ho => ?_⟩
    obtain ⟨t, he, hst, ha⟩ := hgo ho
    refine ⟨t, he, hst, ha.setup, fun b => ⟨ha.mask b, ha.spare b⟩, ha.cap, ?_, ?_, ha.tj, fun p => ?_, ha.links⟩
    · rw [ha.persona]; rfl
    · rw [ha.persona]; rfl
    · obtain ⟨hmode, hwidth⟩ := ha.port p
      exact ⟨hmode, hwidth.trans (portWidth_port _ p)⟩
  · obtain ⟨hk, -⟩ := bootPowerOn_acts hg hl ht
    exact hk
  · obtain ⟨t, he, hst, hk, hset, hkey⟩ := stage4_acts hg hl ht h
    refine ⟨t, he, hst, ?_, ?_, hset, hkey⟩
    · rw [hk]; rfl
    · rw [hk]; rfl
  · obtain ⟨t, he, hst, hb, hf⟩ := stage5_acts s dimms h
    refine ⟨t, he, hst, fun b => ?_, fun f => ?_⟩
    · obtain ⟨hup, hun⟩ := hb b
      exact ⟨hup.pos, hup.blk, hup.full, fun h16 h17 => hup.short ((not_enough_iff _).mpr ⟨h16, h17⟩), hun.trans (not_enough_iff _)⟩
    · exact ⟨(hf f).trained, (hf f).empty, (hf f).refused⟩

end Sys2Proof.Machine
end

section
/-! SUPPORT. WATCH of a word in a store whose slot the table of coded slots lists, and the refutation of O44. -/

namespace Sys2Proof.Machine
set_option Elab.async false

/-- WATCH with PD 1 of the first word of cell 0's local store, that asks for no record and no token. -/
def watchOwnStore : W128 := BitVec.ofNat 128 (3 * 2 ^ 118 + 0xB * 2 ^ 114 + 1 * 2 ^ 64 + 0x200000000000)

/-- A cell about to dispatch that WATCH. The table of coded slots lists the slot of the watched word, with a table header at address 0
that is poison, so that the slot cannot be decoded (R426). -/
def listedStore : State :=
  { State.reset with
    execs := [(Executor.code (.cell 0), { running := true, ibuf := [(0, ⟨watchOwnStore, 0, 0⟩)] })]
    mem := { coded := [(0x200000000000 / 4096, 1)], poisonF := [(0, true)] } }

set_option maxRecDepth 40000 in
/-- The word is at the head of dispatch and free to go, a WATCH that is legal and asks for no record and no token. -/
theorem listedStore_going : Going listedStore (.cell 0) watchOwnStore ∧ RingTakes listedStore (.cell 0) watchOwnStore ∧
    fCls watchOwnStore = 0xB ∧ fOp watchOwnStore = 3 ∧ fSUB watchOwnStore = 1 ∧
    regsBad (.cell 0) [fRD watchOwnStore, fRA watchOwnStore, fRB watchOwnStore, fRC watchOwnStore] = false ∧
    wf watchOwnStore 97 1 = 0 ∧ wf watchOwnStore 98 6 = 0 := by
  unfold Going RingTakes
  decide +kernel

set_option maxRecDepth 40000 in
/-- The watched word is aligned, in a store that is awake, free and readable, and the cell has nothing in flight. -/
theorem listedStore_spot : addrRA (.cell 0) watchOwnStore listedStore = 0x200000000000 ∧
    listedStore.place (canonical 0x200000000000) = .cellStore 0 ∧ listedStore.asleep [(0x200000000000, 8)] = [] ∧
    listedStore.rangeFree 0x200000000000 8 = true ∧ (listedStore.exe (.cell 0)).flights = [] ∧
    (listedStore.readBytes 0x200000000000 8).detail = 0 := by
  decide +kernel

/-- How many lines of far memory are marked poison once a command has been answered. -/
def farMarksAfter (o : Answer) : Nat :=
  match o with
  | .next t => t.mem.poisonF.length
  | _ => 0

set_option maxRecDepth 40000 in
/-- Reading the word marks the 64 lines of its slot poison, beside the one that was. -/
theorem listedStore_marks : farMarksAfter (exec (.synWatch (.cell 0) watchOwnStore) listedStore) = 65 := by
  decide +kernel

/-- Refutes O44: the clause for a WATCH of a store, unlike the one for cached memory, does not exclude that the table of coded slots
lists the word's slot. The statement ranges over every state, and reading a word of a listed slot that cannot be decoded marks the slot's
lines poison, so memory changes. -/
theorem not_synAndSysInstructionsComplete : ¬ Obligations.SynAndSysInstructionsComplete := by
  unfold Obligations.SynAndSysInstructionsComplete
  rintro ⟨h, -⟩
  obtain ⟨hgo, hring, hcls, hop, hsub, hregs, hcr, htok⟩ := listedStore_going
  obtain ⟨haddr, hplace, hasleep, hfree, hfl, hread⟩ := listedStore_spot
  obtain ⟨hsyn, -⟩ := h (.cell 0) watchOwnStore listedStore hgo hring (fun _ hr => by cases hr)
  obtain ⟨-, -, -, hwatch⟩ := hsyn hcls
  have hw := hwatch hop (by rw [hsub]; decide) (by rw [hsub]; decide) hregs
  rw [haddr] at hw
  obtain ⟨-, -, hstore, -⟩ := hw
  obtain ⟨t, ht, ⟨-, hquiet⟩, -⟩ := hstore ⟨fun _ => ⟨hasleep, hfree⟩, by rw [hfl]; exact fun f hf => absurd hf List.not_mem_nil⟩
    (by decide) (by rw [hplace]; rfl) (by rw [hplace]; rfl) hread
  obtain ⟨hmem, -⟩ := hquiet ⟨hcr, htok⟩
  have hmarks := listedStore_marks
  rw [ht, farMarksAfter, hmem] at hmarks
  exact absurd hmarks (by decide)

end Sys2Proof.Machine
end

section
/-! SUPPORT. What storing bytes, writing records and raising errors leave of jobs, rings, blocks and flights (R231, R531 to R542). -/

namespace Sys2Proof.Machine

set_option Elab.async false

/-! ## Jobs and rings -/

/-- Jobs and the device's side of every ring stand. -/
def QueuesKept (s t : State) : Prop := t.jobs = s.jobs ∧ t.rings = s.rings

theorem QueuesKept.refl (s : State) : QueuesKept s s := ⟨rfl, rfl⟩

theorem QueuesKept.trans {s t u : State} (h : QueuesKept s t) (k : QueuesKept t u) : QueuesKept s u :=
  ⟨k.1.trans h.1, k.2.trans h.2⟩

theorem queuesKept_foldl {α : Type} {g : State → α → State} (h : ∀ s a, QueuesKept s (g s a)) (l : List α) (s : State) :
    QueuesKept s (l.foldl g s) :=
  foldl_keeps (QueuesKept s) g (fun t a ht => ht.trans (h t a)) l (.refl s)

theorem WakesOnly.queues {s t : State} (h : WakesOnly s t) : QueuesKept s t := by
  constructor <;> rw [h]

theorem TrafficOnly.queues {s t : State} (h : TrafficOnly s t) : QueuesKept s t := h.wakesOnly.queues

theorem CohOnly.queues {s t : State} (h : CohOnly s t) : QueuesKept s t := by
  constructor <;> (rw [h]; rfl)

theorem ErrorOnly.queues {s t : State} (h : ErrorOnly s t) : QueuesKept s t := by
  constructor <;> rw [h]

theorem memWrite_queues (s : State) (line : Nat) (w : LineWrite) : QueuesKept s (s.memWrite line w) := by
  unfold State.memWrite State.farForget
  dsimp only
  split <;> split <;> exact ⟨rfl, rfl⟩

theorem wake_queues (s : State) (a line : Nat) : QueuesKept s (s.wake a line) := by
  have hexec : ∀ (t : State) (x : Executor), QueuesKept t (match (t.exe x).watch with
      | some w => if canonical w.addr / 64 = line then t.setExe x { t.exe x with watch := some { w with woken := true } } else t
      | none => t) := fun t x => by
    split
    · split <;> exact ⟨rfl, rfl⟩
    · exact .refl t
  unfold State.wake
  dsimp only
  refine QueuesKept.trans (t := s.setCoh { s.coh with wakes := s.coh.wakes ++ [(a, line)] }) ⟨rfl, rfl⟩ ?_
  split
  · refine queuesKept_foldl (fun t k => ?_) _ _
    split
    · exact hexec t _
    · exact .refl t
  · split
    · exact hexec _ _
    · exact .refl _

theorem loseLine_queues (s : State) (a line : Nat) : QueuesKept s (s.loseLine a line) := by
  unfold State.loseLine State.iff
  split
  · split
    · exact (setCoh_cohOnly s _).queues.trans (wake_queues _ a line)
    · exact ⟨rfl, rfl⟩
  · exact .refl s

theorem invalidateAt_queues (s : State) (cls line a : Nat) : QueuesKept s (s.invalidateAt cls line a) := by
  unfold State.invalidateAt
  extract_lets dirty s1 s2 s3 s4
  have h1 : QueuesKept s s1 := (rouse_wakesOnly s a).queues.trans (oweSnoop_traffic _ _ _ _ _ _).queues
  have h2 : QueuesKept s1 s2 := by
    unfold s2
    clear_value s1 dirty
    split
    · exact (askMem_traffic _ _ _).queues.trans (memWrite_queues _ _ _)
    · exact .refl _
  have h3 : QueuesKept s2 s3 := by
    unfold s3
    split <;> exact ⟨rfl, rfl⟩
  have h4 : QueuesKept s3 s4 := by
    unfold s4
    split
    · split <;> exact ⟨rfl, rfl⟩
    · exact .refl _
  exact (((h1.trans h2).trans h3).trans h4).trans (loseLine_queues s4 a line)

theorem invalidateAll_queues (s : State) (cls line : Nat) : QueuesKept s (s.invalidateAll cls line) := by
  unfold State.invalidateAll
  split
  · exact .refl s
  · exact (queuesKept_foldl (fun t a => invalidateAt_queues t cls line a) _ s).trans (setDir_cohOnly _ line none).queues

theorem storePart_queues (s : State) (cls a : Nat) (l : List Byte) (poison : Bool) : QueuesKept s (s.storePart cls a l poison).1 := by
  unfold State.storePart
  dsimp only
  split
  · exact (invalidateAll_queues s cls _).trans (memWrite_queues _ _ _)
  · exact (invalidateAll_queues s cls _).trans (memWrite_queues _ _ _)
  · dsimp only
    split
    · exact .refl s
    · exact (rouse_wakesOnly s _).queues.trans (memWrite_queues _ _ _)
  · exact (rouse_wakesOnly s _).queues.trans (memWrite_queues _ _ _)
  · exact .refl s

theorem undef_queues (s : State) (l : List (Nat × Nat)) : QueuesKept s (s.undef l) := by
  unfold State.undef
  split
  · exact .refl s
  · refine QueuesKept.trans (queuesKept_foldl (fun t p => ?_) l s) ⟨rfl, rfl⟩
    exact queuesKept_foldl (fun u q => storePart_queues u 7 q.1 (u.freeBytes q.1 q.2) false) (splitRange p.1 p.2) t

theorem writePart_queues (s : State) (m : Mover) (cls a : Nat) (l : List Byte) (poison : Bool) :
    QueuesKept s (s.writePart m cls a l poison).1 := by
  have h := (haul_traffic s m cls a l.length true).queues.trans (storePart_queues _ cls a l poison)
  unfold State.writePart
  dsimp only
  split
  · exact h.trans (refuse_only _ _ _ _).queues
  · exact h.trans (undef_queues _ _)

theorem writeBytes_queues (s : State) (m : Mover) (cls a : Nat) (l : List Byte) (poison : Bool) :
    QueuesKept s (s.writeBytes m cls a l poison).1 :=
  foldl_keeps (fun acc : State × Nat => QueuesKept s acc.1) _ (fun acc p h => h.trans (writePart_queues acc.1 m cls p.1 _ poison)) _
    (.refl s)

/-! ## A record and its ring -/

/-- The writer of a ring whose storage is open advances TAIL by one; else the record waits, in the overflow buffer while that has
room (R230, R231). -/
theorem ringPut_rings (s : State) (id : RingId) (rec : List Byte) : ∃ g : Ring, (s.ringPut id rec).rings = (s.setRing id g).rings ∧
    (s.ringPut id rec).jobs = s.jobs ∧
    (s.ringOpen id = true → (s.ring id).buf = [] → g.tail = (s.ring id).tail + 1) ∧
    (s.ringAccepts id = true → g.held = (s.ring id).held) := by
  unfold State.ringPut State.ringAccepts
  dsimp only
  split
  · have h := (writeBytes_queues s (ringMover id) (ringClass id) (s.ringEntry id (s.ring id).tail) rec false).trans
      (writeBytes_queues _ (ringMover id) (ringClass id) ((s.writeBytes (ringMover id) (ringClass id) (s.ringEntry id (s.ring id).tail) rec).1.ringCb id)
        (leBytes 8 ((s.ring id).tail + 1)) false)
    refine ⟨{ s.ring id with tail := (s.ring id).tail + 1 }, ?_, h.1, fun _ _ => rfl, fun _ => rfl⟩
    unfold State.ringStore State.setRing
    dsimp only
    rw [h.2]
  · next hopen =>
    have hno : s.ringOpen id = true → (s.ring id).buf = [] → False := fun ho hb => hopen (by rw [ho, hb]; rfl)
    split
    · exact ⟨_, rfl, rfl, fun ho hb => (hno ho hb).elim, fun _ => rfl⟩
    · next hlen =>
      refine ⟨_, rfl, rfl, fun ho hb => (hno ho hb).elim, fun ha => ?_⟩
      rw [Bool.eq_false_iff.mpr hopen, decide_eq_false hlen] at ha
      cases ha

/-! ## What records and errors leave -/

/-- The numbers of the register fields that records and error records may change on their way (R29, R51, R426, R536, R540). -/
def noticeFlds : List Nat := Fld.FMC_CZ_STAT_POISONED.code :: writeFlds ++ recordFlds

/-- What stored bytes, records and error records leave: programs and program counters; flights and jobs unless the device fenced
itself; blocks but for their waking; all registers but a few, and all rings but some. -/
structure Noticed (touched : Nat → Prop) (s t : State) : Prop where
  cores : CoresKept s t
  flights : ∀ x, (t.exe x).flights = (s.exe x).flights ∨ (t.exe x).flights = []
  blk : ∀ b, (t.blk b).still = (s.blk b).still
  jobs : t.jobs = s.jobs ∨ t.jobs = []
  flds : FldsBut noticeFlds s t
  rings : ∀ k, ¬ touched k → Tbl.get t.rings {} k = Tbl.get s.rings {} k

/-- The rings of error records (R538). -/
def LogKey (k : Nat) : Prop := 96 ≤ k ∧ k ≤ 108

section
variable {touched : Nat → Prop} {s t u : State}

theorem Noticed.refl (s : State) : Noticed touched s s :=
  ⟨.refl s, fun _ => .inl rfl, fun _ => rfl, .inl rfl, FldsBut.refl _ s, fun _ _ => rfl⟩

theorem Noticed.trans (h : Noticed touched s t) (k : Noticed touched t u) : Noticed touched s u := by
  refine ⟨h.cores.trans k.cores, fun x => ?_, fun b => (k.blk b).trans (h.blk b), ?_, h.flds.trans k.flds,
    fun i hi => (k.rings i hi).trans (h.rings i hi)⟩
  · rcases k.flights x with e | e
    · rw [e]
      exact h.flights x
    · exact .inr e
  · rcases k.jobs with e | e
    · rw [e]
      exact h.jobs
    · exact .inr e

theorem Noticed.all (h : Noticed touched s t) : Noticed (fun _ => True) s t :=
  ⟨h.cores, h.flights, h.blk, h.jobs, h.flds, fun _ hk => (hk trivial).elim⟩

theorem noticed_foldl {α : Type} {g : State → α → State} (h : ∀ s a, Noticed touched s (g s a)) (l : List α) (s : State) :
    Noticed touched s (l.foldl g s) :=
  foldl_keeps (Noticed touched s) g (fun t a ht => ht.trans (h t a)) l (.refl s)

theorem noticed_iff {f : State → State} (c : Bool) (h : Noticed touched s (f s)) : Noticed touched s (s.iff c f) := by
  unfold State.iff
  split
  · exact h
  · exact .refl s

theorem noticeFlds_of_storeFlds (h : FldsBut storeFlds s t) : FldsBut noticeFlds s t := h.mono (by decide)

/-- Bytes stored somewhere. -/
theorem StoresOnly.noticed (h : StoresOnly s t) (hj : t.jobs = s.jobs) (hr : ∀ k, ¬ touched k → Tbl.get t.rings {} k = Tbl.get s.rings {} k) :
    Noticed touched s t :=
  ⟨h.coresKept, fun x => .inl (congrArg Exec.flights (h.exe x) :), h.blk, .inl hj, noticeFlds_of_storeFlds h.flds, hr⟩

theorem StoresOnly.noticed_of_queues (h : StoresOnly s t) (hq : QueuesKept s t) : Noticed touched s t :=
  h.noticed hq.1 (fun k _ => by rw [hq.2])

theorem TrafficOnly.noticed (h : TrafficOnly s t) : Noticed touched s t := h.storesOnly.noticed_of_queues h.queues

/-- What leaves executors, blocks, jobs, work, registers and rings alone. -/
theorem Noticed.of_frame (h : t = { t with execs := s.execs, blks := s.blks, jobs := s.jobs, works := s.works, regs := s.regs, rings := s.rings }) :
    Noticed touched s t := by
  refine ⟨.of_frame ?_, fun x => .inl ?_, fun b => ?_, .inl ?_, FldsBut.of_regs ?_, fun k _ => ?_⟩ <;> rw [h] <;> rfl

theorem noticed_setFld (s : State) (f : Fld) (i v j : Nat) (h : f.code ∈ noticeFlds) : Noticed touched s (s.setFld f i v j) :=
  ⟨coresKept_setFld s f i v j (fun e => absurd (e ▸ h) (by decide)), fun _ => .inl rfl, fun _ => rfl, .inl rfl, fldsBut_setFld s f i v j h,
    fun _ _ => rfl⟩

end

/-- A record put to a ring touches that ring alone. -/
theorem ringPut_noticed {touched : Nat → Prop} (s : State) (id : RingId) (rec : List Byte) (h : touched (ringKey id)) :
    Noticed touched s (s.ringPut id rec) := by
  obtain ⟨g, hr, hj, -⟩ := ringPut_rings s id rec
  refine (ringPut_storesOnly s id rec).noticed hj (fun k hk => ?_)
  rw [hr]
  exact Tbl.get_set_other _ _ _ _ (fun e => hk (e ▸ h))

theorem undef_noticed {touched : Nat → Prop} (s : State) (l : List (Nat × Nat)) : Noticed touched s (s.undef l) := by
  refine StoresOnly.noticed_of_queues ?_ (undef_queues s l)
  unfold State.undef
  split
  · exact StoresOnly.refl s
  · refine StoresOnly.trans (storesOnly_foldl (fun t p => ?_) l s) ⟨fun _ => rfl, fun _ => rfl, rfl, rfl, rfl, FldsBut.of_regs rfl⟩
    exact storesOnly_foldl (fun u q => storePart_storesOnly u 7 q.1 (u.freeBytes q.1 q.2) false) (splitRange p.1 p.2) t

theorem logKey_logRing (e : ErrRec) : LogKey (ringKey e.logRing) := by
  unfold ErrRec.logRing
  split
  · next h =>
    obtain ⟨-, hr⟩ := h
    show 96 ≤ 96 + e.region ∧ 96 + e.region ≤ 108
    omega
  · exact ⟨by decide, by decide⟩

/-- Nothing but the links, traffic and the FCLKs that run differs between two states. -/
def NetOnly (s t : State) : Prop := t = { s.trafficOf t with net := t.net }

theorem NetOnly.trans {s t u : State} (h : NetOnly s t) (k : NetOnly t u) : NetOnly s u := by
  unfold NetOnly at *
  rw [k, h]
  rfl

theorem TrafficOnly.netOnly {s t : State} (h : TrafficOnly s t) : NetOnly s t := by
  unfold TrafficOnly at h
  unfold NetOnly
  rw [h]
  rfl

theorem chargeFlit_traffic (s : State) (l : Nat) (f : OutFlit) : TrafficOnly s (s.chargeFlit l f) := by
  have h0 : TrafficOnly s (s.startFclk (l / 2)) := startFclk_traffic s _
  unfold State.chargeFlit
  dsimp only
  split
  · exact h0
  · split
    · exact h0.trans (owe_traffic _ _ _ _)
    · exact h0.trans (ask_traffic _ _ _ _ _)

theorem setLink_netOnly (s : State) (l : Nat) (v : LinkSt) : NetOnly s (s.setLink l v) := rfl

theorem linkSend_netOnly {s t : State} {l : Nat} {f : OutFlit} (h : s.linkSend l f = some t) : NetOnly s t := by
  unfold State.linkSend at h
  extract_lets k isData cred at h
  split at h
  · obtain rfl := Option.some.inj h
    exact (setLink_netOnly s l _).trans (chargeFlit_traffic _ l f).netOnly
  · cases h

/-- Handing flits to a link changes the links, traffic and clocks alone. -/
theorem linkPush_netOnly (s : State) (l : Nat) (fs : List OutFlit) : NetOnly s (s.linkPush l fs) := by
  unfold State.linkPush State.linkPump
  dsimp only
  refine foldl_keeps (NetOnly s) _ (fun t f ht => ht.trans ?_) _ ((setLink_netOnly s l _).trans (setLink_netOnly _ l _))
  split
  · next u hu => exact linkSend_netOnly hu
  · exact setLink_netOnly t l _

theorem linkPush_noticed {touched : Nat → Prop} (s : State) (l : Nat) (fs : List OutFlit) : Noticed touched s (s.linkPush l fs) := by
  apply Noticed.of_frame
  rw [linkPush_netOnly]
  rfl

/-- A fence takes flights and jobs, and closes the host ports' gates (R542). -/
theorem fence_noticed {touched : Nat → Prop} (s : State) (cause : Nat) : Noticed touched s (s.fence cause) := by
  unfold State.fence
  split
  · exact .refl s
  · extract_lets c n u loss v w
    have hexe : ∀ x, u.exe x = (s.exe x).core := exe_fenceExecs s
    have hu : Noticed touched s u := by
      refine ⟨⟨fun x => ?_, rfl, fun _ => rfl⟩, fun x => .inr ?_, fun _ => rfl, .inr rfl, FldsBut.of_regs rfl, fun _ _ => rfl⟩
      · rw [hexe]; rfl
      · rw [hexe]; rfl
    have hv : Noticed touched u v := noticed_foldl (fun t l => noticed_iff _ (linkPush_noticed t l _)) _ u
    have hw : Noticed touched v w := noticed_foldl (fun t p => noticed_setFld t .HPT_EPOCH_OPEN p 0 0 (by decide)) _ v
    exact (hu.trans hv).trans (hw.trans ((noticed_setFld w .RSL_STAT_STATE 0 2 0 (by decide)).trans
      (noticed_setFld _ .RSL_STAT_FCAUSE 0 cause 0 (by decide))))

theorem markOvfl_noticed {touched : Nat → Prop} (s : State) (q : LevelInst) : Noticed touched s (s.markOvfl q) := by
  cases q with
  | cell c => exact .refl s
  | block b => exact noticed_setFld s .BLK_ELOG_OVFL b.val 1 0 (by decide)
  | region r => exact noticed_setFld s .RSL_RQ_STAT_OVFL 0 1 r.val (by decide)
  | chip => exact noticed_setFld s .RSL_CQ_STAT_OVFL 0 1 0 (by decide)

theorem setErrq_noticed {touched : Nat → Prop} (s : State) (q : LevelInst) (v : ErrQ) : Noticed touched s (s.setErrq q v) := .of_frame rfl

theorem enterQueue_noticed (s : State) (q : LevelInst) (e : ErrRec) : Noticed LogKey s (s.enterQueue q e) := by
  unfold State.enterQueue
  extract_lets g e' u v busy
  exact ((setErrq_noticed s q _).trans (ringPut_noticed u e'.logRing e'.bytes (logKey_logRing e'))).trans (noticed_iff _ (fence_noticed v _))

theorem enqueue_noticed (n : Nat) (s : State) (q : LevelInst) (e : ErrRec) : Noticed LogKey s (State.enqueue n s q e) := by
  induction n generalizing s q e with
  | zero => exact .refl s
  | succ n ih =>
    have hm : Noticed LogKey s ((s.markOvfl q).bump .RSL_CNT_ESC 0) :=
      (markOvfl_noticed s q).trans (noticed_setFld _ .RSL_CNT_ESC 0 _ 0 (by decide))
    rw [State.enqueue]
    split
    · exact enterQueue_noticed s q e
    · dsimp only
      split
      · exact hm.trans (ih _ _ _)
      · exact hm.trans (fence_noticed _ _)

/-- An error record on its way, as far up as it climbs (R531 to R540). -/
theorem raise_noticed (s : State) (q : LevelInst) (cause status detail sev addr req info place : Nat) :
    Noticed LogKey s (s.raise q cause status detail sev addr req info place) :=
  (setErrq_noticed s q _).trans (enqueue_noticed 4 _ q _)

end Sys2Proof.Machine
end

section
/-! SUPPORT. The ends of instructions, launches, kernel loads and signals, and the proof of O25. -/

namespace Sys2Proof.Machine

set_option Elab.async false

/-! ## What a read marks -/

theorem decodeFar_noticed {touched : Nat → Prop} (s : State) (cls line table : Nat) : Noticed touched s (s.decodeFar cls line table) := by
  unfold State.decodeFar
  dsimp only
  split
  · exact .refl s
  · exact (trafficOnly_foldl (fun s res => ask_traffic s _ cls _ res) _ s).noticed.trans (.of_frame rfl)

theorem noteCoded_noticed (s : State) (cls line : Nat) : Noticed LogKey s (s.noteCoded cls line) := by
  unfold State.noteCoded
  dsimp only
  split
  · exact .refl s
  · split
    · exact decodeFar_noticed s cls line _
    · split
      · exact .refl s
      · have hmark : ∀ m : Mem, Noticed LogKey s ((s.setMem m).bump .FMC_CZ_STAT_POISONED (homeOf line)) := fun m =>
          (Noticed.of_frame (t := s.setMem m) rfl).trans (noticed_setFld _ _ _ _ _ (by decide))
        have hrow : ∀ (t : State) (f slot : Nat), Noticed LogKey t (t.keepFarRow f slot) := fun t f slot => by
          unfold State.keepFarRow
          dsimp only
          split
          · exact .refl t
          · exact .of_frame rfl
        split
        · exact hmark _
        · split
          · exact ((hmark _).trans (hrow _ _ _)).trans (raise_noticed _ _ _ _ _ _ _ _ _ _)
          · exact hmark _

theorem snoopRead_noticed {touched : Nat → Prop} (s : State) (cls line : Nat) : Noticed touched s (s.snoopRead cls line) := by
  unfold State.snoopRead
  split
  · exact .refl s
  · split
    · exact .refl s
    · exact ((rouse_storesOnly s _).trans (oweSnoop_traffic _ _ _ _ _ _).storesOnly).noticed_of_queues
        ((rouse_wakesOnly s _).queues.trans (oweSnoop_traffic _ _ _ _ _ _).queues)

/-- What a read does beside returning its bytes (R29, R36, R51, R426). -/
theorem noteRead_noticed (s : State) (m : Mover) (cls a n : Nat) : Noticed LogKey s (s.noteRead m cls a n) := by
  have hrouse : ∀ (t : State) (b : Nat), Noticed LogKey t (t.rouse b) := fun t b =>
    (rouse_storesOnly t b).noticed_of_queues (rouse_wakesOnly t b).queues
  unfold State.noteRead
  refine Noticed.trans ((haul_traffic s m cls a n false).noticed.trans
    (noticed_foldl (fun t l => noteCoded_noticed t cls (canonical (l * 64) / 64)) (linesOfRange a n) _)) ?_
  refine noticed_foldl (fun t p => ?_) (splitRange a n) _
  dsimp only
  split
  · exact snoopRead_noticed t cls _
  · exact snoopRead_noticed t cls _
  · exact hrouse t _
  · exact hrouse t _
  · exact (refuse_storesOnly t _ _ _).noticed_of_queues (refuse_only t _ _ _).queues

/-! ## The completion of an instruction -/

/-- A flight that has left its executor. -/
theorem dropFlight_exe (s : State) (x : Executor) (u : Nat) :
    (s.dropFlight x u).exe x = { s.exe x with flights := (s.exe x).flights.filter (fun f => f.uid ≠ u) } :=
  State.exe_setExe_same s x _

theorem Noticed.not_mem_flights {touched : Nat → Prop} {s t : State} (h : Noticed touched s t) {x : Executor} {u : Nat}
    (hs : ∀ g ∈ (s.exe x).flights, g.uid ≠ u) : ∀ g ∈ (t.exe x).flights, g.uid ≠ u := by
  rcases h.flights x with e | e <;> rw [e]
  · exact hs
  · exact fun g hg => absurd hg List.not_mem_nil

theorem dropFlight_gone (s : State) (x : Executor) (u : Nat) : ∀ g ∈ ((s.dropFlight x u).exe x).flights, g.uid ≠ u := by
  rw [dropFlight_exe]
  intro g hg
  simpa using (List.mem_filter.mp hg).2

/-- A completion's record, before its token is signalled (R216). -/
def State.recorded (s : State) (x : Executor) (f : Flight) : State :=
  s.iff (f.cr || f.forced) (fun s => s.ringPut (.completion x.region) (f.bytes x))

theorem complete_eq (s : State) (x : Executor) (f : Flight) :
    s.complete x f = if f.noToken then s.recorded x f else (s.recorded x f).incToken x f.tokOut := rfl

theorem recorded_noticed (s : State) (x : Executor) (f : Flight) : Noticed (fun _ => True) s (s.recorded x f) :=
  noticed_iff _ (ringPut_noticed s _ _ trivial)

/-- A token that is not full goes up by one (R216, R217). -/
theorem incToken_up {s : State} {x : Executor} {k : Nat} (h0 : k ≠ 0) (h : (s.exe x).token k < 0xFFFF) :
    s.incToken x k = s.setExe x ((s.exe x).setToken k ((s.exe x).token k + 1)) := by
  unfold State.incToken
  rw [if_neg h0]
  exact if_pos h

/-- What completions and records leave of an executor's stop and of what is gone: a flight that left does not come back, and neither
does a job (R542). -/
structure Ended (x : Executor) (s t : State) : Prop where
  stop : (t.exe x).stop = (s.exe x).stop
  jobs : t.jobs = s.jobs ∨ t.jobs = []
  flights : ∀ u, (∀ g ∈ (s.exe x).flights, g.uid ≠ u) → ∀ g ∈ (t.exe x).flights, g.uid ≠ u

theorem Noticed.ended {touched : Nat → Prop} {s t : State} (h : Noticed touched s t) (x : Executor) : Ended x s t :=
  ⟨h.cores.stop x, h.jobs, fun _ hs => h.not_mem_flights hs⟩

theorem Ended.trans {x : Executor} {s t u : State} (h : Ended x s t) (k : Ended x t u) : Ended x s u := by
  refine ⟨k.stop.trans h.stop, ?_, fun v hv => k.flights v (h.flights v hv)⟩
  rcases k.jobs with e | e
  · rw [e]
    exact h.jobs
  · exact .inr e

theorem Ended.no_job {x : Executor} {s t : State} (h : Ended x s t) {id : Nat} (hs : s.job id = none) : t.job id = none := by
  unfold State.job at *
  rcases h.jobs with e | e <;> rw [e]
  · exact hs
  · rfl

theorem incToken_ended (s : State) (x : Executor) (k : Nat) : Ended x s (s.incToken x k) := by
  unfold State.incToken
  split
  · exact (Noticed.refl (touched := LogKey) s).ended x
  · dsimp only
    split
    · refine ⟨?_, .inl rfl, fun u hu => ?_⟩ <;> rw [State.exe_setExe_same]
      · rfl
      · exact hu
    · cases x with
      | cell c => exact (raise_noticed s _ _ _ _ _ _ _ _ _).ended _
      | seq r => exact (raise_noticed s _ _ _ _ _ _ _ _ _).ended _

theorem complete_ended (s : State) (x : Executor) (f : Flight) : Ended x s (s.complete x f) := by
  rw [complete_eq]
  split
  · exact (recorded_noticed s x f).ended x
  · exact ((recorded_noticed s x f).ended x).trans (incToken_ended _ x _)

/-- An instruction whose completion can be written, with no job: a NaN trap, its record, and its token (R158, R216). -/
def State.completed (s : State) (x : Executor) (f : Flight) : State :=
  (((s.dropFlight x f.uid).undef f.raced).complete x f).iff f.bsu (fun s => s.bump .NMS_BSU_PASSES x.region)

/-- The step of an executor whose instruction completes: a cell may stop at a NaN (R158). -/
def State.nanStep (s : State) (x : Executor) (f : Flight) : State := match x with
  | .cell c => s.trapStep c f
  | .seq _ => s

theorem jobDone_of_none {s : State} {f : Flight} (h : f.job = none) : s.jobDone f = some f := by rw [State.jobDone, h]

theorem instructionComplete_waits {s : State} {x : Executor} {q : QueueId} {f : Flight} (hq : s.queueHead x q = some f)
    (hj : f.job = none) (hc : s.canComplete x f = false) : exec (.instructionComplete x q) s = .next s := by
  show execInstructionComplete x q s = _
  unfold execInstructionComplete
  rw [hq]
  dsimp only
  rw [jobDone_of_none hj]
  dsimp only
  rw [hc, if_pos (by simp)]

/-- The step of an instruction that can complete, from the state its trap leaves. -/
theorem instructionComplete_next {s : State} {x : Executor} {q : QueueId} {f : Flight} (hq : s.queueHead x q = some f)
    (hb : f.both = false) (hi : f.items = 0) (hj : f.job = none) (hf : s.fenced = false) (hc : s.canComplete x f = true)
    (hr : (s.nanStep x f).recordsHeld x f = false) : exec (.instructionComplete x q) s = .next ((s.nanStep x f).completed x f) := by
  show execInstructionComplete x q s = _
  unfold execInstructionComplete
  rw [hq]
  dsimp only
  rw [jobDone_of_none hj]
  dsimp only
  rw [if_neg (by simp [hb, hi, hf, hc])]
  refine congrArg Host.Outcome.next ((if_neg (ne_true_of_eq_false hr)).trans ?_)
  rw [hj]
  rfl

theorem recordsHeld_of_canComplete {s : State} {x : Executor} {f : Flight} (h : s.canComplete x f = true) : s.recordsHeld x f = false := by
  unfold State.canComplete at h
  simpa using (Bool.and_eq_true_iff.mp h).2

/-- An instruction that wrote no NaN, with no trap due, does not trap (R158). -/
theorem trapStep_none {s : State} {x : Executor} {f : Flight} (hd : (s.exe x).trapDue = none) (ht : f.trap = none) :
    s.nanStep x f = s := by
  cases x with
  | seq r => rfl
  | cell c =>
    show s.trapStep c f = s
    unfold State.trapStep
    extract_lets e due
    have hdue : due = none := by
      unfold due e
      rw [hd, ht]
    rw [hdue]

/-- A completion that signals a token that is not full: the token goes up, the record advances an open ring, and without a record
memory, rings and registers stand (R216, R230, R247). -/
theorem complete_signals {s : State} {x : Executor} {f : Flight} (hn : f.noToken = false) (h0 : f.tokOut ≠ 0)
    (ht : (s.exe x).token f.tokOut < 0xFFFF) :
    ((s.complete x f).exe x).token f.tokOut = (s.exe x).token f.tokOut + 1 ∧
    (∀ k, k ≠ f.tokOut → ((s.complete x f).exe x).token k = (s.exe x).token k) ∧
    ((s.complete x f).exe x).flights = ((s.recorded x f).exe x).flights ∧ (s.complete x f).rings = (s.recorded x f).rings ∧
    (f.cr = false → f.forced = false → (s.complete x f).mem = s.mem ∧ (s.complete x f).regs = s.regs) := by
  have htok : ∀ k, ((s.recorded x f).exe x).token k = (s.exe x).token k := fun k => (recorded_noticed s x f).cores.token x k
  rw [complete_eq, hn, if_neg Bool.false_ne_true, incToken_up h0 (by rw [htok]; exact ht)]
  refine ⟨?_, fun k hk => ?_, ?_, rfl, fun hc hf => ?_⟩
  · rw [State.exe_setExe_same, token_setToken_same, htok]
  · rw [State.exe_setExe_same, token_setToken_other _ _ hk, htok]
  · rw [State.exe_setExe_same]
    rfl
  · show (s.recorded x f).mem = _ ∧ (s.recorded x f).regs = _
    unfold State.recorded State.iff
    rw [hc, hf]
    exact ⟨rfl, rfl⟩

/-- What the record of a completion leaves of rings and flights (R230, R231). -/
theorem recorded_facts (s : State) (x : Executor) (f : Flight) : ((s.recorded x f).exe x).flights = (s.exe x).flights ∧
    (f.cr = true → s.ringOpen (.completion x.region) = true → (s.ring (.completion x.region)).buf = [] →
      ((s.recorded x f).ring (.completion x.region)).tail = (s.ring (.completion x.region)).tail + 1) ∧
    (f.cr = false → f.forced = false → (s.recorded x f).rings = s.rings) := by
  unfold State.recorded State.iff
  refine ⟨?_, fun hc ho hb => ?_, fun hc hf => ?_⟩
  · split
    · exact (congrArg Exec.flights ((ringPut_storesOnly s _ _).exe x) :)
    · rfl
  · obtain ⟨g, hg, -, htail, -⟩ := ringPut_rings s (.completion x.region) (f.bytes x)
    rw [hc, Bool.true_or, if_pos rfl, ← htail ho hb]
    unfold State.ring
    rw [hg]
    exact congrArg Ring.tail (Tbl.get_set_same _ _ _ _)
  · rw [hc, hf]
    rfl

/-! ## A NaN trap -/

/-- An executor whose instruction f is the first that wrote a NaN stops (R158). -/
def Exec.trapped (e : Exec) (f : Flight) : Exec :=
  { e with
    stop := .nanTrap, trapDue := none
    flights := e.flights.map (fun h =>
      if h.uid = f.uid then { h with trap := none, quiet := true } else { h with quiet := h.quiet || decide (f.uid < h.uid) }) }

/-- A cell stopped by a NaN, its level's record raised (R158). -/
def State.trapRaised (s : State) (c : Cell) (f : Flight) : State :=
  (s.setExe (.cell c) ((s.exe (.cell c)).trapped f)).raise (.cell c) 0x06 0x40 0 2 (addr := f.addr)

/-- A numeric event ring accepts what it accepted before error records went up (R231). -/
theorem ringAccepts_numeric {s t : State} {r : Region} (h : FldsBut noticeFlds s t) (hr : t.ring (.numeric r) = s.ring (.numeric r)) :
    t.ringAccepts (.numeric r) = s.ringAccepts (.numeric r) := by
  have hon : t.ringOn (.numeric r) = s.ringOn (.numeric r) := h.flag (f := .NUM_ER_BASE_EN) (by decide) r 0
  have hover : t.ringOver (.numeric r) = s.ringOver (.numeric r) := h.flag (f := .NUM_ER_BASE_OVWR) (by decide) r 0
  have hsize : t.ringSize (.numeric r) = s.ringSize (.numeric r) := by
    have hlog : t.fld .NUM_ER_BASE_LOG2N r 0 = s.fld .NUM_ER_BASE_LOG2N r 0 := h .NUM_ER_BASE_LOG2N r 0 (by decide)
    exact congrArg (fun n => 2 ^ (min n 12 + 4)) hlog
  unfold State.ringAccepts State.ringOpen
  rw [hr, hon, hover, hsize]

section
variable {s : State} {c : Cell} {f : Flight} {p : TrapAt} (hd : (s.exe (.cell c)).trapDue = none) (ht : f.trap = some p)
  (hq : f.quiet = false) (hr : (s.exe (.cell c)).running = true) (hs : (s.exe (.cell c)).stop = .no)
  (he : ∀ h ∈ (s.exe (.cell c)).flights, classTraps h.cls = true → f.uid ≤ h.uid)
include hd ht hq hr hs he

/-- A NaN that no earlier instruction in flight can precede stops the cell and is recorded at once (R158 to R161). -/
theorem trapStep_first : s.trapStep c f = (s.trapRaised c f).ringPut (.numeric c.region) ((s.trapRaised c f).trapRecord c f p) := by
  have hno : ((s.exe (.cell c)).flights.any fun h => classTraps h.cls && decide (h.uid < f.uid) && decide (h.uid ≠ f.uid)) = false := by
    rw [List.any_eq_false]
    intro h hm hb
    simp only [Bool.and_eq_true, decide_eq_true_eq] at hb
    exact absurd (he h hm hb.1.1) (Nat.not_le.mpr hb.1.2)
  unfold State.trapStep
  extract_lets e due stops
  have hdue : due = some f := by
    unfold due e
    rw [hd, ht, hq]
    rfl
  have hstops : stops = true := by
    unfold stops e
    rw [hd, hr, hs]
    rfl
  rw [hdue]
  dsimp only [e]
  rw [ht, hstops, hno]
  rfl

theorem trapStep_facts (hheld : (s.ring (.numeric c.region)).held = []) (ha : s.ringAccepts (.numeric c.region) = true) :
    ((s.trapStep c f).exe (.cell c)).stop = .nanTrap ∧ (s.trapStep c f).recordsHeld (.cell c) f = false := by
  have hraise := raise_noticed (s.setExe (.cell c) ((s.exe (.cell c)).trapped f)) (.cell c) 0x06 0x40 0 2 f.addr 0xFF 0 0x1F
  have hring : (s.trapRaised c f).ring (.numeric c.region) = s.ring (.numeric c.region) := by
    refine hraise.rings (72 + c.region.val) (fun hk => ?_)
    obtain ⟨hlo, -⟩ := hk
    have := c.region.isLt
    omega
  have hacc : (s.trapRaised c f).ringAccepts (.numeric c.region) = true :=
    (ringAccepts_numeric hraise.flds hring).trans ha
  obtain ⟨g, hg, -, -, hkept⟩ := ringPut_rings (s.trapRaised c f) (.numeric c.region) ((s.trapRaised c f).trapRecord c f p)
  rw [trapStep_first hd ht hq hr hs he]
  constructor
  · rw [(ringPut_storesOnly _ _ _).coresKept.stop, show ((s.trapRaised c f).exe _).stop = _ from hraise.cores.stop _, State.exe_setExe_same]
    rfl
  · have hnone : ((s.trapRaised c f).ringPut (.numeric c.region) ((s.trapRaised c f).trapRecord c f p)).ring (.numeric c.region) = g := by
      rw [State.ring, hg]
      exact Tbl.get_set_same _ _ _ _
    unfold State.recordsHeld
    rw [show (Executor.cell c).region = c.region from rfl, hnone, hkept hacc, hring, hheld]
    rfl

end

end Sys2Proof.Machine
end

section
/-! SUPPORT. Fetch faults, launches, kernel loads and signals: what each event does, and the proof of O25. -/

namespace Sys2Proof.Machine

set_option Elab.async false

/-! ## A sequencer's stop -/

/-- A sequencer stopped with STATE 4 and a DETAIL (R215). -/
theorem seqStop_fld (s : State) (r : Region) (detail : Nat) : (s.seqStop r 4 detail).fld .SEQ_STAT_STATE r = 4 ∧
    (s.seqStop r 4 detail).fld .SEQ_STAT_DETAIL r = detail % 256 := by
  unfold State.seqStop
  rw [if_pos rfl]
  refine ⟨?_, State.fld_setFld_same _ _ _ _ _⟩
  rw [State.fld_setFld_code _ _ (by decide), State.fld_setFld_same]
  rfl

theorem seqStop_pc (s : State) (r : Region) (st detail : Nat) (k : Region) : (s.seqStop r st detail).fld .SEQ_PC_PC k = s.fld .SEQ_PC_PC k := by
  unfold State.seqStop
  rw [State.fld_setFld_code _ _ (by decide), State.fld_setFld_code _ _ (by decide)]

/-- A sequencer that stops at an address: STATE 4, the DETAIL, and its program counter as it was (R209, R215). -/
theorem stopAt_facts (s : State) (r : Region) (addr detail : Nat) : (s.stopAt r addr detail).fld .SEQ_STAT_STATE r = 4 ∧
    (s.stopAt r addr detail).fld .SEQ_STAT_DETAIL r = detail % 256 ∧
    (s.stopAt r addr detail).fld .SEQ_PC_PC r = s.fld .SEQ_PC_PC r ∧ ((s.stopAt r addr detail).exe (.seq r)).stop = .illegal detail := by
  unfold State.stopAt
  extract_lets u v e w
  have hu : Noticed (fun _ => True) s u := ringPut_noticed s _ _ trivial
  have hw := raise_noticed w (.region r) 0x27 0xC0 detail 2 addr 0xFF 0 0x1F
  have hv := seqStop_fld u r detail
  refine ⟨?_, ?_, ?_, ?_⟩
  · rw [hw.flds _ _ _ (by decide)]
    exact hv.1
  · rw [hw.flds _ _ _ (by decide)]
    exact hv.2
  · rw [hw.flds _ _ _ (by decide)]
    exact (seqStop_pc u r 4 detail r).trans (hu.cores.pc r)
  · rw [hw.cores.stop, State.exe_setExe_same]

/-! ## Jobs and instruction buffers -/

/-- A cell's answer to a job changes the jobs alone. -/
theorem settleJob_eq (s : State) (id cell add status detail : Nat) (promote : Bool) :
    s.settleJob id cell add status detail promote = { s with jobs := (s.settleJob id cell add status detail promote).jobs } := by
  unfold State.settleJob
  split <;> rfl

theorem job_endJob (s : State) (id : Nat) : (s.endJob id).job id = none := by
  refine List.find?_eq_none.mpr (fun j hj => ?_)
  have := (List.mem_filter.mp hj).2
  simpa using this

/-- A kernel load writes exactly its entries (R225, R226). -/
theorem entry_load (e : Exec) (start n src : Nat) (b : List Byte) (k : Nat) : (e.load (loadEntries start n src b)).entry k =
    if start ≤ k ∧ k < start + n then some ⟨BitVec.ofNat 128 (fieldAt b (16 * (k - start)) 16), start, src⟩ else e.entry k := by
  induction n with
  | zero => rw [if_neg (by omega)]; rfl
  | succ n ih =>
    have hload : (e.load (loadEntries start (n + 1) src b)).entry k =
        Tbl.find? (Tbl.insert (e.load (loadEntries start n src b)).ibuf (start + n)
          ⟨BitVec.ofNat 128 (fieldAt b (16 * n) 16), start, src⟩) k := by
      unfold loadEntries Exec.load Exec.entry
      rw [List.range_succ, List.map_append, List.foldl_append]
      rfl
    rw [hload]
    by_cases hk : k = start + n
    · rw [hk, Tbl.find?_insert_same, if_pos (by omega), Nat.add_sub_cancel_left]
    · rw [Tbl.find?_insert_other _ _ hk]
      refine ih.trans (if_congr ?_ rfl rfl)
      omega

/-- What a cell reads of a kernel load: once fetched for its block, the words fetched; else its own read, kept for the block (R279). -/
theorem kernelFetch_cases {s : State} {c : Cell} {id src n : Nat} {l : List Byte}
    (h : (s.job id).bind (fun j => j.fetched.find? (fun p => p.1 == c.block.val)) = none ∧ s.rangeFree src n = true ∧
        (s.readBytes src n).detail = 0 ∧ l = (s.readBytes src n).bytes ∨
      ∃ b, (s.job id).bind (fun j => j.fetched.find? (fun p => p.1 == c.block.val)) = some (b, l, 0)) :
    ∃ u : State, s.kernelFetch c id src n = some (u, l, 0) ∧ (∀ k, (u.exe (.cell c)).entry k = (s.exe (.cell c)).entry k) ∧
      (∀ b, (u.blk b).still = (s.blk b).still) ∧
      (((s.job id).bind (fun j => j.fetched.find? (fun p => p.1 == c.block.val))).isSome = true → u = s) := by
  unfold State.kernelFetch
  rcases h with ⟨hnone, hfree, hd, rfl⟩ | ⟨b, hsome⟩
  · dsimp only
    rw [hnone]
    dsimp only
    have hn := noteRead_noticed s ⟨c.block.val, none⟩ 0 src n
    rw [hfree, hd, Bool.not_true, if_neg Bool.false_ne_true]
    refine ⟨_, rfl, fun k => ?_, fun b => ?_, fun h => absurd h Bool.false_ne_true⟩
    · refine Eq.trans ?_ (congrArg (Exec.entry · k) (hn.cores.core (.cell c)) :)
      split <;> rfl
    · refine Eq.trans ?_ (hn.blk b)
      split <;> rfl
  · dsimp only
    rw [hsome]
    exact ⟨s, rfl, fun _ => rfl, fun _ => rfl, fun _ => rfl⟩

theorem reg_setReg_same (e : Exec) (i : Nat) (v : W64) (h : i ≠ 0) : (e.setReg i v).reg i = v := by
  unfold Exec.reg Exec.setReg
  rw [if_neg h, if_neg h]
  exact Tbl.get_set_same _ _ _ _

theorem reg_setReg_other (e : Exec) {i j : Nat} (v : W64) (h : j ≠ i) : (e.setReg i v).reg j = e.reg j := by
  unfold Exec.reg Exec.setReg
  split
  · rfl
  · split
    · rfl
    · exact Tbl.get_set_other _ _ _ _ h

/-! ## The events -/

/-- INSTRUCTION_COMPLETE (R158, R211, R216). -/
theorem instructionComplete_settled {x : Executor} {q : QueueId} {f : Flight} {s : State} (hq : s.queueHead x q = some f)
    (hb : f.both = false) (hi : f.items = 0) (hj : f.job = none) (hf : s.fenced = false) (hc : s.canComplete x f = true)
    (hd : (s.exe x).trapDue = none) (ht : f.trap = none) : exec (.instructionComplete x q) s = .next (s.completed x f) := by
  have hn := trapStep_none hd ht
  have h := instructionComplete_next hq hb hi hj hf hc (by rw [hn]; exact recordsHeld_of_canComplete hc)
  rwa [hn] at h

theorem completed_signals {s : State} {x : Executor} {f : Flight} (hr : f.raced = []) (hb : f.bsu = false) (hn : f.noToken = false)
    (h0 : f.tokOut ≠ 0) (ht : (s.exe x).token f.tokOut < 0xFFFF) :
    ((s.completed x f).exe x).token f.tokOut = (s.exe x).token f.tokOut + 1 ∧
    (∀ k, k ≠ f.tokOut → ((s.completed x f).exe x).token k = (s.exe x).token k) ∧
    ((s.completed x f).exe x).flights = (s.exe x).flights.filter (fun g => g.uid ≠ f.uid) ∧
    (f.cr = true → s.ringOpen (.completion x.region) = true → (s.ring (.completion x.region)).buf = [] →
      ((s.completed x f).ring (.completion x.region)).tail = (s.ring (.completion x.region)).tail + 1) ∧
    (f.cr = false → f.forced = false →
      (s.completed x f).rings = s.rings ∧ (s.completed x f).mem = s.mem ∧ (s.completed x f).regs = s.regs) := by
  have he : s.completed x f = (s.dropFlight x f.uid).complete x f := by
    unfold State.completed
    rw [hr, hb]
    rfl
  have htok : ∀ k, ((s.dropFlight x f.uid).exe x).token k = (s.exe x).token k := fun k => by
    rw [dropFlight_exe]
    rfl
  obtain ⟨hup, hother, hfl, hrings, hquiet⟩ := complete_signals (s := s.dropFlight x f.uid) (x := x) hn h0 (by rw [htok]; exact ht)
  obtain ⟨hrecfl, hrectail, hrecrings⟩ := recorded_facts (s.dropFlight x f.uid) x f
  rw [he]
  refine ⟨hup.trans (by rw [htok]), fun k hk => (hother k hk).trans (htok k), ?_, fun hc ho hbuf => ?_, fun hc hfo => ?_⟩
  · rw [hfl, hrecfl, dropFlight_exe]
  · rw [State.ring, hrings]
    exact hrectail hc ho hbuf
  · rw [hrings, hrecrings hc hfo]
    exact ⟨rfl, hquiet hc hfo⟩

theorem iff_ended {x : Executor} (s : State) {g : State → State} (b : Bool) (h : Ended x s (g s)) : Ended x s (s.iff b g) := by
  unfold State.iff
  split
  · exact h
  · exact ⟨rfl, .inl rfl, fun _ h => h⟩

/-- A cell whose first NaN is recorded stops, and its instruction leaves flight (R158, R216). -/
theorem completed_trapped {s : State} {c : Cell} {f : Flight} (h : ((s.trapStep c f).exe (.cell c)).stop = .nanTrap) :
    (((s.trapStep c f).completed (.cell c) f).exe (.cell c)).stop = .nanTrap ∧
    ∀ g ∈ (((s.trapStep c f).completed (.cell c) f).exe (.cell c)).flights, g.uid ≠ f.uid := by
  generalize s.trapStep c f = u at h
  have hend : Ended (.cell c) (u.dropFlight (.cell c) f.uid) (u.completed (.cell c) f) :=
    (((undef_noticed (touched := LogKey) _ f.raced).ended _).trans (complete_ended _ _ f)).trans
      (iff_ended _ f.bsu ⟨rfl, .inl rfl, fun _ h => h⟩)
  refine ⟨hend.stop.trans ?_, hend.flights f.uid (dropFlight_gone u _ _)⟩
  rw [dropFlight_exe]
  exact h

/-- SEQ_FETCH_FAULT (R209, R212). -/
theorem seqFetchFault_settled {r : Region} {check : Bool} {s : State} (hr : s.seqRuns r = true) :
    let got := (s.readBytes (s.fld .SEQ_PC_PC r * 16) 16).detail
    let detail := if check = true ∧ got ≠ 3 then 1 else got
    (detail = 0 → exec (.seqFetchFault ⟨r, check⟩) s = .next s) ∧
    (detail ≠ 0 → ∃ t : State, exec (.seqFetchFault ⟨r, check⟩) s = .next t ∧
      t.fld .SEQ_STAT_STATE r = 4 ∧ t.fld .SEQ_STAT_DETAIL r = detail % 256 ∧
      t.fld .SEQ_PC_PC r = s.fld .SEQ_PC_PC r ∧ (t.exe (.seq r)).stop = .illegal detail) := by
  intro got detail
  have hstep : exec (.seqFetchFault ⟨r, check⟩) s = .next (if s.seqRuns r && detail != 0 then
      (s.noteRead (seqMover r) 7 (s.fld .SEQ_PC_PC r * 16) 16).stopAt r (s.fld .SEQ_PC_PC r * 16) detail else s) := by
    have hdetail : detail = if check && got != 3 then 1 else got := by
      unfold detail
      refine if_congr ?_ rfl rfl
      rw [Bool.and_eq_true, bne_iff_ne]
    rw [hdetail]
    rfl
  rw [hstep, hr, Bool.true_and]
  refine ⟨fun h => by rw [h]; rfl, fun h => ⟨_, rfl, ?_⟩⟩
  rw [if_pos (bne_iff_ne.mpr h)]
  obtain ⟨hst, hdt, hpc, hstop⟩ := stopAt_facts (s.noteRead (seqMover r) 7 (s.fld .SEQ_PC_PC r * 16) 16) r (s.fld .SEQ_PC_PC r * 16) detail
  exact ⟨hst, hdt, hpc.trans ((noteRead_noticed s _ _ _ _).cores.pc r), hstop⟩

/-- A cell that takes a launch (R210, R226). -/
def Exec.launched (e : Exec) (id start : Nat) (arg : W64) (ctx : LaunchCtx) : Exec :=
  ({ e with pc := start, running := true, stop := .no, job := id, start := start, arg := arg, ctx := ctx
            promote := false, rerun := false, endStatus := 0, endDetail := 0 } : Exec).setReg 1 arg

theorem launched_facts (e : Exec) (id start : Nat) (arg : W64) (ctx : LaunchCtx) : (e.launched id start arg ctx).pc = start ∧
    (e.launched id start arg ctx).reg 1 = arg ∧ (∀ i, i ≠ 1 → (e.launched id start arg ctx).reg i = e.reg i) ∧
    (e.launched id start arg ctx).ctx = ctx ∧ (e.launched id start arg ctx).job = id ∧
    (e.launched id start arg ctx).running = true ∧ (e.launched id start arg ctx).stop = .no ∧
    (e.launched id start arg ctx).entry start = e.entry start :=
  ⟨rfl, reg_setReg_same _ _ _ (by decide), fun _ hi => reg_setReg_other _ arg hi, rfl, rfl, rfl, rfl, rfl⟩

section
variable {c : Cell} {id start : Nat} {d : Cell} {arg : W64} {ctx : LaunchCtx} {s : State}

/-- A launch taken off its block's inbound queue (R30, R226). -/
def State.dequeued (s : State) (c : Cell) (i : InItem) : State :=
  s.setBlk c.block { s.blk c.block with inq := (s.blk c.block).inq.erase i }

/-- CELL_LAUNCH_ACCEPT (R210, R226, R310). -/
theorem cellLaunchAccept_settled (hfree : s.cellFree c = true) (hload : (s.blk c.block).unloaded.contains c.slot = false)
    (hitem : (s.blk c.block).itemFor c = some (.launch id d start arg ctx)) : ∃ t : State, exec (.cellLaunchAccept c) s = .next t ∧
      (t.blk c.block).inq = (s.blk c.block).inq.erase (.launch id d start arg ctx) ∧ (t.exe (.cell c)).pc = start ∧
      (t.exe (.cell c)).reg 1 = arg ∧ (∀ i, i ≠ 1 → (t.exe (.cell c)).reg i = (s.exe (.cell c)).reg i) ∧
      (t.exe (.cell c)).ctx = ctx ∧ (t.exe (.cell c)).job = id ∧
      (((s.exe (.cell c)).entry start).isSome = true → (t.exe (.cell c)).running = true ∧ (t.exe (.cell c)).stop = .no ∧
        t = { s with blks := t.blks, execs := t.execs }) ∧
      ((s.exe (.cell c)).entry start = none → (t.exe (.cell c)).stop = .illegal 0x19) := by
  let i : InItem := .launch id d start arg ctx
  let e := (s.exe (.cell c)).launched id start arg ctx
  let u := (s.dequeued c i).setExe (.cell c) e
  obtain ⟨hpc, hone, hregs, hctx, hjob, hrun, hstop, hentry⟩ := launched_facts (s.exe (.cell c)) id start arg ctx
  have hinq : (u.blk c.block).inq = (s.blk c.block).inq.erase i := congrArg Blk.inq (State.blk_setBlk_same s _ _)
  have hstep : exec (.cellLaunchAccept c) s = .next (if (e.entry start).isSome then u else
      ((u.ringPut (.completion c.region) (recordBytes 0xC0 0x19 c.val 0 4 c.region.val 0 ctx.epoch ctx.step ctx.slot 0)).setExe (.cell c)
        { e with stop := .illegal 0x19 }).raise (.cell c) 0x04 0xC0 0x19 2) := by
    show execCellLaunchAccept c s = _
    unfold execCellLaunchAccept
    rw [hfree, hload, hitem]
    rfl
  rw [hstep, show e.entry start = _ from hentry]
  by_cases h : ((s.exe (.cell c)).entry start).isSome = true
  · rw [if_pos h]
    refine ⟨u, rfl, hinq, ?_⟩
    rw [State.exe_setExe_same]
    exact ⟨hpc, hone, hregs, hctx, hjob, fun _ => ⟨hrun, hstop, rfl⟩, fun hn => absurd h (by rw [hn]; exact Bool.false_ne_true)⟩
  · rw [if_neg h]
    refine ⟨_, rfl, ?_⟩
    generalize hw : (u.ringPut (.completion c.region) _).setExe (.cell c) _ = w
    have hraise := raise_noticed w (.cell c) 0x04 0xC0 0x19 2 0 0xFF 0 0x1F
    have hput : Noticed (fun _ => True) u (u.ringPut (.completion c.region)
        (recordBytes 0xC0 0x19 c.val 0 4 c.region.val 0 ctx.epoch ctx.step ctx.slot 0)) := ringPut_noticed u _ _ trivial
    have hcore : ((w.raise (.cell c) 0x04 0xC0 0x19 2).exe (.cell c)).core = ({ e with stop := .illegal 0x19 } : Exec).core := by
      rw [hraise.cores.core, ← hw, State.exe_setExe_same]
    have hblk : ((w.raise (.cell c) 0x04 0xC0 0x19 2).blk c.block).still = (u.blk c.block).still :=
      (hraise.blk c.block).trans ((congrArg (fun v : State => (v.blk c.block).still) hw.symm).trans (hput.blk c.block))
    refine ⟨(congrArg Blk.inq hblk).trans hinq, (congrArg Exec.pc hcore).trans hpc, (congrArg (Exec.reg · 1) hcore).trans hone,
      fun k hk => (congrArg (Exec.reg · k) hcore).trans (hregs k hk), (congrArg Exec.ctx hcore).trans hctx,
      (congrArg Exec.job hcore).trans hjob, fun hs => absurd hs h, fun _ => congrArg Exec.stop hcore⟩

end

/-- KLD_DELIVERY of a readable load (R225, R226, R279). -/
theorem kldDelivery_fills {c : Cell} {id : Nat} {d : Cell} {start n src : Nat} {s u : State} {l : List Byte} (hfree : s.cellFree c = true)
    (hitem : (s.blk c.block).itemFor c = some (.load id d start n src)) (hfetch : s.kernelFetch c id src (16 * n) = some (u, l, 0))
    (hentry : ∀ k, (u.exe (.cell c)).entry k = (s.exe (.cell c)).entry k) (hblk : ∀ b, (u.blk b).still = (s.blk b).still) :
    ∃ t : State, exec (.kldDelivery c) s = .next t ∧
      (∀ j, j < n → (t.exe (.cell c)).entry (start + j) = some ⟨BitVec.ofNat 128 (fieldAt l (16 * j) 16), start, src⟩) ∧
      (∀ k, k < start ∨ start + n ≤ k → (t.exe (.cell c)).entry k = (s.exe (.cell c)).entry k) ∧
      (t.blk c.block).inq = (s.blk c.block).inq.erase (.load id d start n src) ∧ (t.blk c.block).unloaded.contains c.slot = false ∧
      t = { u with blks := t.blks, execs := t.execs, jobs := t.jobs } := by
  let v := u.dequeued c (.load id d start n src)
  let w := v.setBlk c.block { v.blk c.block with unloaded := (v.blk c.block).unloaded.filter (· ≠ c.slot) }
  let x := w.setExe (.cell c) ((w.exe (.cell c)).load (loadEntries start n src l))
  have hstep : exec (.kldDelivery c) s = .next (x.settleJob id c.val n 0 0) := by
    show execKldDelivery c s = _
    unfold execKldDelivery
    rw [hfree, hitem]
    dsimp only
    rw [hfetch]
    rfl
  refine ⟨_, hstep, ?_⟩
  have hx := settleJob_eq x id c.val n 0 0 false
  have hexe : (x.settleJob id c.val n 0 0).exe (.cell c) = (u.exe (.cell c)).load (loadEntries start n src l) := by
    rw [hx]
    exact State.exe_setExe_same w _ _
  have hb : (x.settleJob id c.val n 0 0).blk c.block = { v.blk c.block with unloaded := (v.blk c.block).unloaded.filter (· ≠ c.slot) } := by
    rw [hx]
    exact State.blk_setBlk_same v _ _
  have hinq : (u.blk c.block).inq = (s.blk c.block).inq := (congrArg Blk.inq (hblk c.block) :)
  rw [hexe, hb]
  refine ⟨fun j hj => ?_, fun k hk => ?_, ?_, ?_, ?_⟩
  · rw [entry_load, if_pos (by omega), Nat.add_sub_cancel_left]
  · rw [entry_load, if_neg (by omega), hentry]
  · rw [← hinq]
    exact congrArg Blk.inq (State.blk_setBlk_same u _ _)
  · simp
  · rw [hx]
    rfl

/-- A promotion stops the context of its launch (R354). -/
theorem promotionStop_facts (s : State) (r : Region) (f : Flight) (cells : Nat) : Ended (.seq r) s (s.promotionStop r f cells) ∧
    (s.seqStopped r = false → (s.exe (.seq r)).watch = none → (s.promotionStop r f cells).fld .SEQ_STAT_STATE r = 4 ∧
      (s.promotionStop r f cells).fld .SEQ_STAT_DETAIL r = 0x30 ∧ (s.promotionStop r f cells).fld .NUM_STAT_PROMOTE r = 1 ∧
      ((s.promotionStop r f cells).exe (.seq r)).tok = (s.exe (.seq r)).tok) := by
  unfold State.promotionStop
  extract_lets sleeps u v w
  have hv : Noticed (fun _ => True) s v := (recorded_noticed s (.seq r) _).trans (ringPut_noticed u (.numeric r) _ trivial)
  have hstate : w.fld .SEQ_STAT_STATE r = s.fld .SEQ_STAT_STATE r := by
    unfold w State.bump
    rw [State.fld_setFld_code _ _ (by decide), State.fld_setFld_code _ _ (by decide), hv.flds _ _ _ (by decide)]
  have hprom : w.fld .NUM_STAT_PROMOTE r = 1 := by
    unfold w State.bump
    rw [State.fld_setFld_code _ _ (by decide), State.fld_setFld_same]
    rfl
  have htok : (w.exe (.seq r)).tok = (s.exe (.seq r)).tok := hv.cores.tok _
  have hw : Ended (.seq r) s w := (hv.ended _).trans ⟨rfl, .inl rfl, fun _ h => h⟩
  clear_value w
  constructor
  · refine hw.trans ?_
    split
    · exact ⟨rfl, .inl rfl, fun _ h => h⟩
    · split <;> exact ⟨rfl, .inl rfl, fun _ h => h⟩
  · intro hno hwatch
    have hstopped : w.seqStopped r = false := by
      unfold State.seqStopped
      rw [hstate]
      exact hno
    have hsleeps : sleeps = false := by
      unfold sleeps
      rw [hwatch]
      rfl
    rw [hstopped, hsleeps, if_neg Bool.false_ne_true, if_neg Bool.false_ne_true]
    refine ⟨(seqStop_fld w r 0x30).1, (seqStop_fld w r 0x30).2, ?_, htok⟩
    unfold State.seqStop
    rw [State.fld_setFld_code _ _ (by decide), State.fld_setFld_code _ _ (by decide), hprom]

/-- LAUNCH_COMPLETE (R211, R216, R354). -/
theorem launchComplete_settled {r : Region} {id : Nat} {j : Job} {f : Flight} {s : State} (hjob : s.job id = some j)
    (hq : s.queueHead (.seq r) (.launch id) = some f) (hk : j.kind = .launch) (hw : j.waits = []) (hf : s.fenced = false)
    (hc : s.canComplete (.seq r) { f with forced := f.forced || j.promote } = true) :
    ∃ t : State, exec (.launchComplete r id) s = .next t ∧ t.job id = none ∧
      (∀ g ∈ (t.exe (.seq r)).flights, g.uid ≠ f.uid) ∧
      (j.promote = true → s.seqStopped r = false → (s.exe (.seq r)).watch = none → t.fld .SEQ_STAT_STATE r = 4 ∧
        t.fld .SEQ_STAT_DETAIL r = 0x30 ∧ t.fld .NUM_STAT_PROMOTE r = 1 ∧
        (t.exe (.seq r)).tok = (s.exe (.seq r)).tok) ∧
      (j.promote = false → t = ((s.endJob id).dropFlight (.seq r) f.uid).complete (.seq r)
        { f with status := j.status, detail := j.detail, count := j.count }) := by
  let g : Flight := { f with status := j.status, detail := j.detail, count := j.count }
  let u := (s.endJob id).dropFlight (.seq r) f.uid
  have hstep : exec (.launchComplete r id) s = .next (if j.promote then u.promotionStop r g j.promoted else u.complete (.seq r) g) := by
    show execLaunchComplete r id s = _
    unfold execLaunchComplete
    rw [hjob, hq]
    dsimp only
    have hcan : s.canComplete (.seq r) { f with
        status := j.status, detail := j.detail, count := j.count, forced := f.forced || j.promote } = true := hc
    rw [hcan, hk, hw, hf]
    rfl
  have hnone : u.job id = none := job_endJob s id
  have hgone : ∀ h ∈ (u.exe (.seq r)).flights, h.uid ≠ f.uid := dropFlight_gone (s.endJob id) _ _
  rw [hstep]
  cases hp : j.promote with
  | true =>
    rw [if_pos rfl]
    obtain ⟨hend, hstop⟩ := promotionStop_facts u r g j.promoted
    refine ⟨_, rfl, hend.no_job hnone, hend.flights _ hgone, fun _ hs hwatch => ?_, fun h => absurd h (by decide)⟩
    have hexe : u.exe (.seq r) = { s.exe (.seq r) with flights := (s.exe (.seq r)).flights.filter (fun g => g.uid ≠ f.uid) } :=
      dropFlight_exe (s.endJob id) _ _
    obtain ⟨hst, hdt, hpr, htok⟩ := hstop hs (by rw [hexe]; exact hwatch)
    exact ⟨hst, hdt, hpr, htok.trans (by rw [hexe])⟩
  | false =>
    rw [if_neg Bool.false_ne_true]
    have hend := complete_ended u (.seq r) g
    exact ⟨_, rfl, hend.no_job hnone, hend.flights _ hgone, fun h => absurd h (by decide), fun _ => rfl⟩

/-- The cell a signal's index names, in its region (R310). -/
theorem signalDelivery_cell {r : Region} {c : Cell} {g : Signal} {s : State} (hg : s.signals.find? (fun k => k.region == r.val) = some g)
    (hc : c.val = r.val * 128 + g.target) (ht : g.target < 128) : exec (.signalDelivery r) s = .next
      (if (s.blk c.block).gone.contains c.slot then { s with signals := s.signals.erase g }
       else { s with signals := s.signals.erase g }.incToken (.cell c) g.tok) := by
  show execSignalDelivery r s = _
  have hlt : r.val * 128 + g.target < 1536 := hc ▸ c.isLt
  obtain rfl : c = ⟨r.val * 128 + g.target, hlt⟩ := Fin.ext hc
  unfold execSignalDelivery
  rw [hg]
  dsimp only
  rw [if_neg (show ¬ g.target = 0xFF by omega), dif_pos hlt]
  rfl

theorem signalDelivery_seq {r : Region} {g : Signal} {s : State} (hg : s.signals.find? (fun k => k.region == r.val) = some g)
    (ht : g.target = 0xFF) : exec (.signalDelivery r) s = .next ({ s with signals := s.signals.erase g }.incToken (.seq r) g.tok) := by
  show execSignalDelivery r s = _
  unfold execSignalDelivery
  rw [hg]
  dsimp only
  rw [if_pos ht]

/-- SIGNAL_DELIVERY (R310, R316). -/
theorem signalDelivery_settled {r : Region} {x : Executor} {g : Signal} {s : State}
    (hg : s.signals.find? (fun k => k.region == r.val) = some g) (h0 : g.tok ≠ 0)
    (hx : x = .seq r ∧ g.target = 0xFF ∨ ∃ c : Cell, x = .cell c ∧ c.val = r.val * 128 + g.target ∧ g.target < 128 ∧
      (s.blk c.block).gone.contains c.slot = false) (ht : (s.exe x).token g.tok < 0xFFFF) :
    ∃ t : State, exec (.signalDelivery r) s = .next t ∧ t.signals = s.signals.erase g ∧
      (t.exe x).token g.tok = (s.exe x).token g.tok + 1 ∧ t = { s with signals := t.signals, execs := t.execs } := by
  have hstep : exec (.signalDelivery r) s = .next ({ s with signals := s.signals.erase g }.incToken x g.tok) := by
    rcases hx with ⟨rfl, htarget⟩ | ⟨c, rfl, hc, hlt, hgone⟩
    · exact signalDelivery_seq hg htarget
    · rw [signalDelivery_cell hg hc hlt, hgone, if_neg Bool.false_ne_true]
  have hup : { s with signals := s.signals.erase g }.incToken x g.tok = { s with signals := s.signals.erase g }.setExe x
      ((s.exe x).setToken g.tok ((s.exe x).token g.tok + 1)) := incToken_up h0 ht
  rw [hstep, hup]
  refine ⟨_, rfl, rfl, ?_, rfl⟩
  rw [State.exe_setExe_same, token_setToken_same]

/-- Settles O25: each event by the lemma about it. -/
theorem instructionsAndLaunchesComplete : Obligations.InstructionsAndLaunchesComplete := by
  unfold Obligations.InstructionsAndLaunchesComplete
  refine ⟨fun x q f s hq hb hi hj hf => ⟨instructionComplete_waits hq hj, fun hc hd => ⟨?_, ?_, ?_⟩⟩, fun r check s hr => seqFetchFault_settled hr,
    fun c id d start arg ctx s hfree hload hitem => cellLaunchAccept_settled hfree hload hitem,
    fun c id d start n src s hfree hitem => ⟨?_, ?_⟩,
    fun r id j f s hjob hq hk hw hf hc => launchComplete_settled hjob hq hk hw hf hc,
    fun r x g s hg h0 hx ht => signalDelivery_settled hg h0 hx ht,
    fun r c g s hg hc ht hgone => by rw [signalDelivery_cell hg hc ht, hgone, if_pos rfl]⟩
  · exact fun ht => instructionComplete_settled hq hb hi hj hf hc hd ht
  · exact fun ht hr hbsu hn h0 htok =>
      ⟨_, instructionComplete_settled hq hb hi hj hf hc hd ht, completed_signals hr hbsu hn h0 htok⟩
  · rintro c p rfl ht hquiet hrun hstop he hheld ha
    obtain ⟨hnan, hrec⟩ := trapStep_facts hd ht hquiet hrun hstop he hheld ha
    exact ⟨_, instructionComplete_next hq hb hi hj hf hc hrec, completed_trapped hnan⟩
  · intro hnone hrange hdetail
    obtain ⟨u, hfetch, hentry, hblk, -⟩ := kernelFetch_cases (.inl ⟨hnone, hrange, hdetail, rfl⟩)
    obtain ⟨t, hstep, hin, hout, hinq, hun, -⟩ := kldDelivery_fills hfree hitem hfetch hentry hblk
    exact ⟨t, hstep, hin, hout, hinq, hun, fun h => absurd h (by rw [hnone]; exact Bool.false_ne_true)⟩
  · intro b l hsome
    obtain ⟨u, hfetch, hentry, hblk, hu⟩ := kernelFetch_cases (.inr ⟨b, hsome⟩)
    obtain ⟨t, hstep, hin, hout, hinq, hun, ht⟩ := kldDelivery_fills hfree hitem hfetch hentry hblk
    exact ⟨t, hstep, hin, hout, hinq, hun, fun h => by rw [← hu h]; exact ht⟩

end Sys2Proof.Machine
end

section
/-! SUPPORT. What an engine instruction of a cell leaves while it writes its own stores: every byte outside them, its executor's registers,
and all register fields but a few (R29, R131, R260, R352, R353). -/

namespace Sys2Proof.Machine

set_option Elab.async false

/-! ## The stores an engine reaches -/

/-- An address of a cell's local store or of its block's store (R53, R260). -/
def Owned (c : Cell) (a : Nat) : Prop :=
  (0x200000000000 + c.val * 0x400000 ≤ a ∧ a < 0x200000000000 + c.val * 0x400000 + 0x400000) ∨
  (0x210000000000 + c.val / 16 * 0x2000000 ≤ a ∧ a < 0x210000000000 + c.val / 16 * 0x2000000 + 0x2000000)

theorem Owned.high {c : Cell} {a : Nat} (h : Owned c a) : 0x100000000000 ≤ a := by
  unfold Owned at h
  omega

theorem Owned.canonical {c : Cell} {a : Nat} (h : Owned c a) : canonical a = a := canonical_of_high h.high

theorem Owned.place {c : Cell} {a : Nat} (h : Owned c a) (s : State) :
    s.place a = .cellStore c.val ∨ s.place a = .blockStore (c.val / 16) := by
  have hc := c.isLt
  unfold State.place
  rcases h with h | h
  · left
    rw [if_neg (by omega), if_neg (by omega), if_pos (by omega)]
    exact congrArg Place.cellStore (by omega)
  · right
    rw [if_neg (by omega), if_neg (by omega), if_neg (by omega), if_pos (by omega)]
    exact congrArg Place.blockStore (by omega)

/-- A piece of a range holds each of its addresses. -/
theorem pieces_covers {g a n i : Nat} (hg : 0 < g) (hi : i < n) : ∃ p ∈ pieces g a n, p.1 ≤ a + i ∧ a + i < p.1 + p.2 := by
  unfold pieces
  rw [if_neg (by omega)]
  simp only [List.mem_map, List.mem_range]
  have hlo : a / g ≤ (a + i) / g := Nat.div_le_div_right (by omega)
  have hhi : (a + i) / g ≤ (a + n - 1) / g := Nat.div_le_div_right (by omega)
  have hk : a / g + ((a + i) / g - a / g) = (a + i) / g := by omega
  have hmul := Nat.div_add_mod (a + i) g
  have hmod := Nat.mod_lt (a + i) hg
  rw [Nat.mul_comm] at hmul
  refine ⟨_, ⟨(a + i) / g - a / g, by omega, rfl⟩, ?_⟩
  dsimp only
  rw [hk]
  omega

theorem canonical_high {b : Nat} (h : 0x100000000000 ≤ canonical b) : canonical b = b := by
  unfold canonical at h ⊢
  dsimp only at h ⊢
  split at h
  · omega
  · rw [if_neg ‹_›]

/-- What is in reach without BSU is a cell's own (R260). -/
theorem reachable_owned {c : Cell} {a n : Nat} (h : reachable c false a n = true) {i : Nat} (hi : i < n) : Owned c (a + i) := by
  unfold reachable at h
  have hg : 0 < (if canonical a = a then 2 ^ 36 else 4096) := by split <;> omega
  obtain ⟨p, hp, hlo, hhi⟩ := pieces_covers (a := a) hg hi
  have hown := List.all_eq_true.mp h p hp
  simp only [Bool.or_eq_true, Bool.and_eq_true, decide_eq_true_eq, Bool.false_and, Bool.false_eq_true, or_false] at hown
  have hc : canonical p.1 = p.1 := canonical_high (by rcases hown with h | h <;> omega)
  rw [hc] at hown
  unfold Owned
  rcases hown with h | h
  · left; omega
  · right; omega

theorem inReach_owned {c : Cell} {d : Desc} (h : d.inReach c false = true) {r : Nat × Nat} (hr : r ∈ d.spans) {i : Nat} (hi : i < r.2) :
    Owned c (r.1 + i) :=
  reachable_owned (List.all_eq_true.mp h r hr) hi

/-! ## Ready for an engine -/

/-- No far slot is coded, nothing in flight adds to memory, no ring is on, and the cell's slot is not gone: a cell's engine writes its
stores and nothing else of memory (R177, R198, R256, R424). -/
structure Ready (c : Cell) (s : State) : Prop where
  coded : s.mem.coded = []
  calm : NoUpdates s
  rings : RingsOff s
  gone : (s.blk c.block).gone.contains c.slot = false

/-- What engines leave of an executor. -/
def Exec.frame (e : Exec) : Exec := { e.core with endStatus := 0, endDetail := 0, promote := false }

/-- The numbers of the register fields an engine instruction may change. -/
def engineFlds : List Nat :=
  [Fld.NUM_STAT_FLUSHED.code, Fld.NUM_EVCNT_RESCALE.code, Fld.NUM_STAT_RESCALED.code] ++ noticeFlds

/-- What an engine's stores and records leave: programs, scalar registers and flights, unless the device fenced itself; blocks but for
their waking; most register fields; and every byte outside some. -/
structure Wrote (c : Cell) (inside : Nat → Prop) (s t : State) : Prop where
  exe : ∀ x, (t.exe x).frame = (s.exe x).frame
  flights : ∀ x, (t.exe x).flights = (s.exe x).flights ∨ (t.exe x).flights = []
  blk : ∀ b, (t.blk b).still = (s.blk b).still
  flds : FldsBut engineFlds s t
  ready : Ready c t
  bytes : ∀ p, ¬ inside p → t.mem.byte p = s.mem.byte p

/-- No byte. -/
def nowhere (_ : Nat) : Prop := False

section
variable {c : Cell} {P Q : Nat → Prop} {s t u : State}

theorem Wrote.refl (h : Ready c s) : Wrote c P s s :=
  ⟨fun _ => rfl, fun _ => .inl rfl, fun _ => rfl, FldsBut.refl _ s, h, fun _ _ => rfl⟩

theorem Wrote.trans (h : Wrote c P s t) (k : Wrote c P t u) : Wrote c P s u := by
  refine ⟨fun x => (k.exe x).trans (h.exe x), fun x => ?_, fun b => (k.blk b).trans (h.blk b), h.flds.trans k.flds, k.ready,
    fun p hp => (k.bytes p hp).trans (h.bytes p hp)⟩
  rcases k.flights x with e | e
  · rw [e]
    exact h.flights x
  · exact .inr e

theorem Wrote.mono (h : Wrote c P s t) (hp : ∀ p, P p → Q p) : Wrote c Q s t :=
  ⟨h.exe, h.flights, h.blk, h.flds, h.ready, fun p hq => h.bytes p (fun e => hq (hp p e))⟩

theorem Wrote.anywhere (h : Wrote c nowhere s t) : Wrote c P s t := h.mono (fun _ e => e.elim)

theorem wrote_foldl {α : Type} {g : State → α → State} {l : List α} (hg : ∀ s a, a ∈ l → Ready c s → Wrote c P s (g s a)) (h : Ready c s) :
    Wrote c P s (l.foldl g s) := by
  induction l generalizing s with
  | nil => exact .refl h
  | cons a l ih =>
    have h1 := hg s a List.mem_cons_self h
    exact h1.trans (ih (fun s b hb => hg s b (List.mem_cons_of_mem _ hb)) h1.ready)

theorem wrote_iff {f : State → State} (b : Bool) (h : Ready c s) (hf : Wrote c P s (f s)) : Wrote c P s (s.iff b f) := by
  unfold State.iff
  split
  · exact hf
  · exact .refl h

theorem engineFlds_of_noticeFlds (h : FldsBut noticeFlds s t) : FldsBut engineFlds s t := h.mono (by decide)

theorem ringsOff_of_flds (h : RingsOff s) (hf : FldsBut engineFlds s t) : RingsOff t := fun id =>
  (hf.flag (by cases id <;> (dsimp only [ringCfg]; decide)) _ _).trans (h id)

theorem frame_of_core {e f : Exec} (h : e.core = f.core) : e.frame = f.frame :=
  congrArg (fun g : Exec => { g with endStatus := 0, endDetail := 0, promote := false }) h

/-- What bytes stored, records or errors leave is what an engine leaves, where memory outside some bytes stands and nothing in flight
begins to add to it. -/
theorem Noticed.wrote {touched : Nat → Prop} (h : Noticed touched s t) (hs : Ready c s) (hc : t.mem.coded = []) (hu : NoUpdates t)
    (hb : ∀ p, ¬ P p → t.mem.byte p = s.mem.byte p) : Wrote c P s t := by
  have hf := engineFlds_of_noticeFlds h.flds
  refine ⟨fun x => frame_of_core (h.cores.core x), h.flights, h.blk, hf, ⟨hc, hu, ringsOff_of_flds hs.rings hf, ?_⟩, hb⟩
  rw [show (t.blk c.block).gone = (s.blk c.block).gone from (congrArg Blk.gone (h.blk c.block) :)]
  exact hs.gone

end

/-! ## Records and errors with all rings off -/

/-- Memory stands, and nothing in flight begins to add to it. -/
def MemKept (s t : State) : Prop := t.mem = s.mem ∧ (NoUpdates s → NoUpdates t)

theorem MemKept.refl (s : State) : MemKept s s := ⟨rfl, id⟩

theorem MemKept.trans {s t u : State} (h : MemKept s t) (k : MemKept t u) : MemKept s u := ⟨k.1.trans h.1, fun hs => k.2 (h.2 hs)⟩

theorem MemKept.of_same {s t : State} (hm : t.mem = s.mem) (he : t.execs = s.execs) : MemKept s t :=
  ⟨hm, fun h => by rw [NoUpdates, he]; exact h⟩

theorem memKept_foldl {α : Type} {g : State → α → State} (h : ∀ s a, MemKept s (g s a)) (l : List α) (s : State) : MemKept s (l.foldl g s) :=
  foldl_keeps (MemKept s) g (fun t a ht => ht.trans (h t a)) l (.refl s)

theorem memKept_iff {s : State} {f : State → State} (b : Bool) (h : MemKept s (f s)) : MemKept s (s.iff b f) := by
  unfold State.iff
  split
  · exact h
  · exact .refl s

theorem setFld_memKept (s : State) (f : Fld) (i v j : Nat) : MemKept s (s.setFld f i v j) := .of_same rfl rfl

theorem linkPush_memKept (s : State) (l : Nat) (fs : List OutFlit) : MemKept s (s.linkPush l fs) := by
  have h := linkPush_netOnly s l fs
  unfold NetOnly at h
  exact .of_same (congrArg State.mem h :) (congrArg State.execs h :)

theorem fence_memKept (s : State) (cause : Nat) : MemKept s (s.fence cause) := by
  unfold State.fence
  split
  · exact .refl s
  · extract_lets c n u loss v w
    have hu : MemKept s u := by
      refine ⟨rfl, fun _ p hp f hf => ?_⟩
      obtain ⟨q, -, rfl⟩ := List.mem_map.mp hp
      exact absurd hf List.not_mem_nil
    have hv : MemKept u v := memKept_foldl (fun t l => memKept_iff _ (linkPush_memKept t l _)) _ u
    have hw : MemKept v w := memKept_foldl (fun t p => setFld_memKept t .HPT_EPOCH_OPEN p 0 0) _ v
    exact (hu.trans hv).trans (hw.trans ((setFld_memKept w _ _ _ _).trans (setFld_memKept _ _ _ _ _)))

theorem ringPut_memKept {s : State} (h : RingsOff s) (id : RingId) (rec : List Byte) : MemKept s (s.ringPut id rec) := by
  have hopen : s.ringOpen id = false := by
    rw [State.ringOpen, h id]
    rfl
  unfold State.ringPut
  dsimp only
  rw [hopen, Bool.false_and, if_neg Bool.false_ne_true]
  split <;> exact .of_same rfl rfl

section
variable {c : Cell} {s : State}

theorem ringPut_wrote (h : Ready c s) (id : RingId) (rec : List Byte) : Wrote c nowhere s (s.ringPut id rec) := by
  obtain ⟨hm, hu⟩ := ringPut_memKept h.rings id rec
  exact (ringPut_noticed s id rec trivial : Noticed (fun _ => True) _ _).wrote h (by rw [hm]; exact h.coded) (hu h.calm) (fun _ _ => by rw [hm])

theorem setFld_wrote (h : Ready c s) (f : Fld) (i v : Nat) (hf : f.code ∈ engineFlds) : Wrote c nowhere s (s.setFld f i v) := by
  have hflds : FldsBut engineFlds s (s.setFld f i v) := fldsBut_setFld s f i v 0 hf
  exact ⟨fun _ => rfl, fun _ => .inl rfl, fun _ => rfl, hflds, ⟨h.coded, h.calm, ringsOff_of_flds h.rings hflds, h.gone⟩, fun _ _ => rfl⟩

/-- A noticed step that keeps memory. -/
theorem Noticed.wrote_kept {touched : Nat → Prop} {t : State} (h : Noticed touched s t) (hs : Ready c s) (hm : MemKept s t) :
    Wrote c nowhere s t :=
  h.wrote hs (by rw [hm.1]; exact hs.coded) (hm.2 hs.calm) (fun _ _ => by rw [hm.1])

theorem fence_wrote (h : Ready c s) (cause : Nat) : Wrote c nowhere s (s.fence cause) :=
  (fence_noticed (touched := LogKey) s cause).wrote_kept h (fence_memKept s cause)

theorem setErrq_wrote (h : Ready c s) (q : LevelInst) (v : ErrQ) : Wrote c nowhere s (s.setErrq q v) :=
  (setErrq_noticed (touched := LogKey) s q v).wrote_kept h (.of_same rfl rfl)

theorem markOvfl_wrote (h : Ready c s) (q : LevelInst) : Wrote c nowhere s (s.markOvfl q) :=
  (markOvfl_noticed (touched := LogKey) s q).wrote_kept h (by cases q <;> exact .of_same rfl rfl)

theorem countEsc_wrote (h : Ready c s) : Wrote c nowhere s (s.bump .RSL_CNT_ESC 0) := setFld_wrote h _ _ _ (by decide)

theorem enterQueue_wrote (h : Ready c s) (q : LevelInst) (e : ErrRec) : Wrote c nowhere s (s.enterQueue q e) := by
  unfold State.enterQueue
  extract_lets g e' u v busy
  have hu := setErrq_wrote h q { g with recs := g.recs ++ [e'] }
  have hv := ringPut_wrote hu.ready e'.logRing e'.bytes
  exact (hu.trans hv).trans (wrote_iff _ hv.ready (fence_wrote hv.ready _))

theorem enqueue_wrote (n : Nat) (h : Ready c s) (q : LevelInst) (e : ErrRec) : Wrote c nowhere s (State.enqueue n s q e) := by
  induction n generalizing s q e with
  | zero => exact .refl h
  | succ n ih =>
    have h1 := markOvfl_wrote h q
    have hm := h1.trans (countEsc_wrote h1.ready)
    rw [State.enqueue]
    split
    · exact enterQueue_wrote h q e
    · dsimp only
      split
      · exact hm.trans (ih hm.ready _ _)
      · exact hm.trans (fence_wrote hm.ready _)

theorem raise_wrote (h : Ready c s) (q : LevelInst) (cause status detail sev addr req info place : Nat) :
    Wrote c nowhere s (s.raise q cause status detail sev addr req info place) := by
  have h1 := setErrq_wrote h q { s.errq q with written := (s.errq q).written + 1 }
  exact h1.trans (enqueue_wrote 4 h1.ready q _)

theorem escalate_wrote (h : Ready c s) (q : LevelInst) (slot esc : Nat) : Wrote c nowhere s (s.escalate q slot esc) := by
  unfold State.escalate
  split
  · exact .refl h
  · have h1 := setErrq_wrote h q { s.errq q with
      recs := (s.errq q).recs.filter (fun e => e.qslot ≠ slot), cur := (s.errq q).cur.filter (· ≠ slot)
      await := (s.errq q).await.filter (· ≠ slot) }
    have h2 := h1.trans (countEsc_wrote h1.ready)
    dsimp only
    split
    · exact h2.trans (enqueue_wrote 4 h2.ready _ _)
    · exact h2.trans (fence_wrote h2.ready _)

/-- An error record of a block on its way (R536, R539). -/
theorem raiseBlock_wrote (h : Ready c s) (b : Block) (cause status detail sev addr info : Nat) :
    Wrote c nowhere s (s.raiseBlock b cause status detail sev addr info) := by
  have h1 := raise_wrote h (.block b) cause status detail sev addr b.val info 0x1F
  exact h1.trans (wrote_foldl (fun t e _ ht => escalate_wrote ht (.block b) e.qslot 1) h1.ready)

/-- The blocks of compressed operands that were abandoned are recorded (R182). -/
theorem logAbandoned_wrote (h : Ready c s) (ds : List Desc) : Wrote c nowhere s (s.logAbandoned c ds) :=
  wrote_foldl (fun _ a _ ht => raiseBlock_wrote ht c.block 0x14 0xC0 0x05 1 a 0) h

theorem flushed_wrote (h : Ready c s) (x : Executor) (b : Bool) : Wrote c nowhere s (s.flushed x b) :=
  wrote_iff b h (setFld_wrote h _ _ _ (by decide))

end

end Sys2Proof.Machine
end

section
/-! SUPPORT. Bytes and elements stored in a cell's own stores: where they land, and that nothing else of memory changes (R112, R120 to
R126, R260). -/

namespace Sys2Proof.Machine

set_option Elab.async false

/-! ## Bytes that stand after a write -/

/-- A write of given bytes at some addresses of a cell's stores: they stand, and an engine's frame keeps the rest. -/
structure Puts (c : Cell) (v : Nat → Byte) (inside : Nat → Prop) (s t : State) : Prop where
  wrote : Wrote c inside s t
  stands : ∀ b, inside b → t.mem.byte b = v b

/-- The addresses of a range. -/
def Span (p : Nat × Nat) (b : Nat) : Prop := p.1 ≤ b ∧ b < p.1 + p.2

section
variable {c : Cell} {v : Nat → Byte} {P Q : Nat → Prop} {s t u : State}

theorem Puts.trans (h : Puts c v P s t) (k : Puts c v Q t u) : Puts c v (fun b => P b ∨ Q b) s u := by
  refine ⟨(h.wrote.mono (fun _ => .inl)).trans (k.wrote.mono (fun _ => .inr)), fun b hb => ?_⟩
  by_cases hq : Q b
  · exact k.stands b hq
  · rw [k.wrote.bytes b hq]
    exact h.stands b (hb.resolve_right hq)

theorem Puts.of_iff (h : Puts c v P s t) (hp : ∀ b, Q b ↔ P b) : Puts c v Q s t :=
  ⟨h.wrote.mono (fun b => (hp b).mpr), fun b hb => h.stands b ((hp b).mp hb)⟩

/-- Writes of one image, part by part. -/
theorem puts_foldl {α β : Type} {g : State × β → α → State × β} {I : α → Nat → Prop} {l : List α}
    (hg : ∀ acc a, a ∈ l → Ready c acc.1 → Puts c v (I a) acc.1 (g acc a).1) {acc : State × β} (h : Ready c acc.1) :
    Puts c v (fun b => ∃ a ∈ l, I a b) acc.1 (l.foldl g acc).1 := by
  induction l generalizing acc with
  | nil => exact ⟨.refl h, fun b ⟨a, ha, _⟩ => absurd ha List.not_mem_nil⟩
  | cons a l ih =>
    have h1 := hg acc a List.mem_cons_self h
    refine (h1.trans (ih (fun acc b hb => hg acc b (List.mem_cons_of_mem _ hb)) h1.wrote.ready)).of_iff (fun b => ?_)
    simp only [List.mem_cons, exists_eq_or_imp]

/-- Writes one after another, whatever else is carried along. -/
theorem wrote_foldl_pair {α β : Type} {g : State × β → α → State × β} {l : List α}
    (hg : ∀ acc a, a ∈ l → Ready c acc.1 → Wrote c P acc.1 (g acc a).1) (h : Ready c s) (b : β) : Wrote c P s (l.foldl g (s, b)).1 := by
  induction l generalizing s b with
  | nil => exact .refl h
  | cons a l ih =>
    have h1 := hg (s, b) a List.mem_cons_self h
    exact h1.trans (ih (fun acc b hb => hg acc b (List.mem_cons_of_mem _ hb)) h1.ready (g (s, b) a).2)

/-! ## A part of a line -/

/-- A run of bytes at an address of the cell's stores, all within one line, lands there (R29, R60). -/
theorem storePart_owned (h : Ready c s) {a : Nat} (ho : Owned c a) (cls : Nat) (l : List Byte) (poison : Bool) :
    ∃ w, WakesOnly s w ∧ s.storePart cls a l poison = (w.memWrite (a / 64) (runWrite a l poison), 0) := by
  have hgone : (s.blk (c.val / 16)).gone.contains (c.val % 16) = false := h.gone
  unfold State.storePart
  dsimp only
  rw [ho.canonical]
  rcases ho.place s with hp | hp <;> rw [hp] <;> dsimp only
  · rw [hgone, if_neg Bool.false_ne_true]
    exact ⟨_, rouse_wakesOnly s _, rfl⟩
  · exact ⟨_, rouse_wakesOnly s _, rfl⟩

theorem writePart_puts (h : Ready c s) {a : Nat} {l : List Byte} (ho : Owned c a) (hl : a % 64 + l.length ≤ 64) (m : Mover) (cls : Nat)
    (poison : Bool) : Puts c (fun b => l.getD (b - a) 0) (Span (a, l.length)) s (s.writePart m cls a l poison).1 := by
  have hh := haul_traffic s m cls a l.length true
  have hready : Ready c (s.haul m cls a l.length true) := (hh.noticed (touched := LogKey)).wrote (P := nowhere) h
    (by rw [hh.mem]; exact h.coded) (by rw [NoUpdates, hh.execs]; exact h.calm) (fun _ _ => by rw [hh.mem]) |>.ready
  obtain ⟨w, hw, hstore⟩ := storePart_owned hready ho cls l poison
  obtain ⟨hm, hmem⟩ := memWrite_bare (s := w) (by rw [hw.mem]; exact hready.coded) (a / 64) (runWrite a l poison)
  have hexecs : (w.memWrite (a / 64) (runWrite a l poison)).execs = s.execs := by rw [hm.execs, hw.execs, hh.execs]
  have hcalm : NoUpdates (w.memWrite (a / 64) (runWrite a l poison)) := by
    rw [NoUpdates, hexecs]
    exact h.calm
  have hmem' : (w.memWrite (a / 64) (runWrite a l poison)).mem = s.mem.writeLine (a / 64) (runWrite a l poison) := by
    rw [hmem, hw.mem, hh.mem]
  have hend : (s.writePart m cls a l poison).1 = w.memWrite (a / 64) (runWrite a l poison) := by
    unfold State.writePart
    dsimp only
    rw [hstore, if_neg (by dsimp only; decide)]
    exact unsettle_id hcalm m _
  have hbyte := fun b => Mem.byte_writeRun h.coded a l poison hl b
  have hnoticed : Noticed LogKey s (w.memWrite (a / 64) (runWrite a l poison)) := by
    rw [← hend]
    exact (writePart_storesOnly s m cls a l poison).noticed_of_queues (writePart_queues s m cls a l poison)
  rw [hend]
  refine ⟨hnoticed.wrote h (by rw [hmem']; exact Mem.coded_writeLine h.coded _ _) hcalm (fun b hb => ?_), fun b hb => ?_⟩
  · rw [hmem', hbyte]
    exact if_neg hb
  · rw [hmem', hbyte]
    exact if_pos hb

/-! ## Runs of bytes with their poison -/

/-- A part of a range that lies within one 32-bit word lies in the range and within one line. -/
theorem mem_splitWords {a n : Nat} {p : Nat × Nat} (h : p ∈ splitWords a n) : a ≤ p.1 ∧ p.1 + p.2 ≤ a + n ∧ 0 < p.2 ∧ p.1 % 64 + p.2 ≤ 64 := by
  unfold splitWords at h
  split at h
  · exact absurd h List.not_mem_nil
  · simp only [List.mem_map, List.mem_range] at h
    obtain ⟨k, hk, rfl⟩ := h
    dsimp only
    omega

theorem splitWords_covers {a n i : Nat} (hi : i < n) : ∃ p ∈ splitWords a n, p.1 ≤ a + i ∧ a + i < p.1 + p.2 := by
  unfold splitWords
  rw [if_neg (by omega)]
  simp only [List.mem_map, List.mem_range]
  refine ⟨_, ⟨(a + i) / 4 - a / 4, by omega, rfl⟩, ?_⟩
  dsimp only
  omega

/-- The parts of a range cover it and nothing else. -/
theorem span_parts {parts : List (Nat × Nat)} {a n : Nat} (hin : ∀ p ∈ parts, a ≤ p.1 ∧ p.1 + p.2 ≤ a + n)
    (hcover : ∀ i, i < n → ∃ p ∈ parts, p.1 ≤ a + i ∧ a + i < p.1 + p.2) (b : Nat) : Span (a, n) b ↔ ∃ p ∈ parts, Span p b := by
  unfold Span
  constructor
  · rintro ⟨hlo, hhi⟩
    dsimp only at hlo hhi
    obtain ⟨p, hp, hpl, hph⟩ := hcover (b - a) (by omega)
    exact ⟨p, hp, by omega, by omega⟩
  · rintro ⟨p, hp, hpl, hph⟩
    have := hin p hp
    dsimp only
    omega

/-- The bytes a run of bytes with their poison holds from an address on. -/
def imageAt (a : Nat) (l : List (Byte × Bool)) (b : Nat) : Byte := (l.getD (b - a) (0, false)).1

theorem segment_length {α : Type} {l : List α} {a : Nat} {q : Nat × Nat} (h : a ≤ q.1 ∧ q.1 + q.2 ≤ a + l.length) :
    ((l.drop (q.1 - a)).take q.2).length = q.2 := by
  rw [List.length_take, List.length_drop]
  omega

/-- One part of such a run, written as poison when any byte of it is. -/
def putSegment (m : Mover) (cls a : Nat) (l : List (Byte × Bool)) (acc : State × Nat) (q : Nat × Nat) : State × Nat :=
  let seg := (l.drop (q.1 - a)).take q.2
  let r := acc.1.writePart m cls q.1 (seg.map (·.1)) (seg.any (·.2))
  (r.1, worseDetail acc.2 r.2)

theorem putSegment_puts {acc : State × Nat} (h : Ready c acc.1) {a : Nat} {l : List (Byte × Bool)} (ho : ∀ i, i < l.length → Owned c (a + i))
    {q : Nat × Nat} (hq : a ≤ q.1 ∧ q.1 + q.2 ≤ a + l.length ∧ 0 < q.2 ∧ q.1 % 64 + q.2 ≤ 64) (m : Mover) (cls : Nat) :
    Puts c (imageAt a l) (Span q) acc.1 (putSegment m cls a l acc q).1 := by
  obtain ⟨hlo, hhi, hpos, hline⟩ := hq
  have hlen : (((l.drop (q.1 - a)).take q.2).map (·.1)).length = q.2 := by rw [List.length_map, segment_length ⟨hlo, hhi⟩]
  have hown : Owned c q.1 := by
    have := ho (q.1 - a) (by omega)
    rwa [show a + (q.1 - a) = q.1 by omega] at this
  have hput := writePart_puts h hown (l := ((l.drop (q.1 - a)).take q.2).map (·.1)) (by omega) m cls (((l.drop (q.1 - a)).take q.2).any (·.2))
  rw [hlen] at hput
  refine ⟨hput.wrote, fun b hb => (hput.stands b hb).trans ?_⟩
  unfold Span at hb
  unfold imageAt
  rw [List.getD_eq_getElem?_getD, List.getD_eq_getElem?_getD, List.getElem?_map, List.getElem?_take_of_lt (by omega), List.getElem?_drop,
    show q.1 - a + (b - q.1) = b - a by omega, List.getElem?_eq_getElem (show b - a < l.length by omega)]
  rfl

/-- A run of bytes with their poison, in a cell's stores: every byte lands, poisoned or not (R112). -/
theorem writeMixed_puts (h : Ready c s) {a : Nat} {l : List (Byte × Bool)} (ho : ∀ i, i < l.length → Owned c (a + i)) (m : Mover)
    (cls : Nat) : Puts c (imageAt a l) (Span (a, l.length)) s (s.writeMixed m cls a l).1 := by
  unfold State.writeMixed
  refine (puts_foldl (I := Span) (acc := (s, 0)) (fun acc p hp hacc => ?_) h).of_iff
    (span_parts (fun p hp => ⟨(mem_splitRange hp).1, (mem_splitRange hp).2.1⟩) (fun i hi => splitRange_covers hi))
  have hps := mem_splitRange hp
  have hown : Owned c p.1 := by
    have := ho (p.1 - a) (by omega)
    rwa [show a + (p.1 - a) = p.1 by omega] at this
  have hwhole : Puts c (imageAt a l) (Span p) acc.1 (putSegment m cls a l acc p).1 := putSegment_puts hacc ho hps m cls
  have hwords : Puts c (imageAt a l) (Span p) acc.1 ((splitWords p.1 p.2).foldl (putSegment m cls a l) acc).1 := by
    refine (puts_foldl (I := Span) (fun acc q hq hacc => putSegment_puts hacc ho ?_ m cls) hacc).of_iff
      (span_parts (a := p.1) (n := p.2) (fun q hq => ⟨(mem_splitWords hq).1, (mem_splitWords hq).2.1⟩) (fun i hi => splitWords_covers hi))
    have := mem_splitWords hq
    omega
  dsimp only
  rw [hown.canonical]
  rcases hown.place acc.1 with hpl | hpl <;> rw [hpl] <;> dsimp only <;> split
  · exact hwords
  · exact hwhole
  · exact hwords
  · exact hwhole

end

end Sys2Proof.Machine
end

section
/-! SUPPORT. The rows of a destination: which index lies in which span, and rows, tensors and tiles stored element by element (R120 to
R126, R141, R159, R262, R283). -/

namespace Sys2Proof.Machine

set_option Elab.async false

/-! ## Indices -/

theorem unrank_forall₂ {l : List Nat} (h : ∀ e ∈ l, 0 < e) (j : Nat) : List.Forall₂ (· < ·) (unrank l j) l := by
  induction l generalizing j with
  | nil => exact .nil
  | cons e l ih =>
    exact .cons (Nat.mod_lt _ (h e List.mem_cons_self)) (ih (fun f hf => h f (List.mem_cons_of_mem _ hf)) _)

/-- An index within some extents has a linear index below their product, and comes back from it (R141). -/
theorem rank_forall₂ {l u : List Nat} (h : List.Forall₂ (· < ·) u l) : rank l u < l.prod ∧ unrank l (rank l u) = u := by
  induction h with
  | nil => exact ⟨Nat.one_pos, rfl⟩
  | @cons i e u l hi _ ih =>
    obtain ⟨hlt, hback⟩ := ih
    have hdiv : (i + e * rank l u) / e = rank l u := by
      rw [Nat.add_mul_div_left _ _ (Nat.zero_lt_of_lt hi), Nat.div_eq_of_lt hi, Nat.zero_add]
    have hmod : (i + e * rank l u) % e = i := by rw [Nat.add_mul_mod_self_left, Nat.mod_eq_of_lt hi]
    constructor
    · rw [List.prod_cons]
      calc i + e * rank l u < e + e * rank l u := Nat.add_lt_add_right hi _
        _ = e * (rank l u + 1) := by ring
        _ ≤ e * l.prod := Nat.mul_le_mul_left _ hlt
    · show (i + e * rank l u) % e :: unrank l ((i + e * rank l u) / e) = _
      rw [hdiv, hmod, hback]

theorem extent_pos (d : Desc) (i : Nat) : 0 < d.extent i := by
  unfold Desc.extent
  split
  · exact Nat.one_pos
  · split
    · exact Nat.two_pow_pos _
    · omega

theorem rows_prod (d : Desc) : (d.extents.drop 1).prod = d.rows := by
  show [d.extent 1, d.extent 2, d.extent 3, d.extent 4].prod = d.extent 1 * d.extent 2 * d.extent 3 * d.extent 4
  simp only [List.prod_cons, List.prod_nil, Nat.mul_one, Nat.mul_assoc]

/-- A row of a tensor: an index of its outer dimensions (R141, R634). -/
def Desc.InRow (d : Desc) (row : List Nat) : Prop := List.Forall₂ (· < ·) row (d.extents.drop 1)

theorem extents_pos (d : Desc) (n : Nat) : ∀ e ∈ d.extents.drop n, 0 < e := by
  intro e he
  obtain ⟨i, -, rfl⟩ := List.mem_map.mp (List.mem_of_mem_drop he)
  exact extent_pos d i

theorem inRow_unrank (d : Desc) (r : Nat) : d.InRow (unrank (d.extents.drop 1) r) := unrank_forall₂ (extents_pos d 1) r

theorem rowNo_lt {d : Desc} {row : List Nat} (h : d.InRow row) : d.rowNo (0 :: row) < d.rows := by
  rw [← rows_prod]
  exact (rank_forall₂ h).1

/-! ## Spans -/

/-- A byte lies in what a descriptor names (R260). -/
def Desc.Covers (d : Desc) (p : Nat) : Prop := ∃ r ∈ d.spans, Span r p

/-- A destination of an engine: plain, and in reach (R260, R264). -/
structure Dest (c : Cell) (d : Desc) : Prop where
  plain : d.compressed = false
  reach : d.inReach c false = true

section
variable {c : Cell} {d : Desc} {row : List Nat}

theorem row_mem_spans (hp : d.compressed = false) (h : d.InRow row) : (d.rowAddr (0 :: row), d.rowBytes) ∈ d.spans := by
  unfold Desc.spans
  dsimp only
  rw [hp, if_neg Bool.false_ne_true]
  refine List.mem_append_left _ (List.mem_map.mpr ⟨rank (d.extents.drop 1) row, ?_, ?_⟩)
  · rw [List.mem_range]
    exact rowNo_lt h
  · rw [(rank_forall₂ h).2]

/-- Part of a span is covered and owned. -/
theorem Dest.part (hd : Dest c d) {r : Nat × Nat} (hr : r ∈ d.spans) {a n : Nat} (hlo : r.1 ≤ a) (hhi : a + n ≤ r.1 + r.2) :
    (∀ i, i < n → Owned c (a + i)) ∧ ∀ p, Span (a, n) p → d.Covers p := by
  refine ⟨fun i hi => ?_, fun p hp => ⟨r, hr, ?_⟩⟩
  · have := inReach_owned hd.reach hr (i := a + i - r.1) (by omega)
    rwa [show r.1 + (a + i - r.1) = a + i by omega] at this
  · unfold Span at *
    dsimp only at hp
    omega

/-- A run written within a span of a destination. -/
theorem Dest.run (hd : Dest c d) {s : State} (h : Ready c s) {r : Nat × Nat} (hr : r ∈ d.spans) {a : Nat} {l : List (Byte × Bool)}
    (hlo : r.1 ≤ a) (hhi : a + l.length ≤ r.1 + r.2) : Wrote c d.Covers s (s.writeMixed d.who d.cls a l).1 := by
  obtain ⟨hown, hcov⟩ := hd.part hr hlo hhi
  exact (writeMixed_puts h hown d.who d.cls).wrote.mono hcov

theorem rowImage_fst (f i0 : Nat) (ps : List Put) (count : Nat) (old : Nat → Nat → List Byte) :
    (rowImage f i0 ps count old).1 = fmtBits f * i0 / 8 := rfl

theorem rowImage_length (f i0 : Nat) (ps : List Put) (count : Nat) (old : Nat → Nat → List Byte) :
    (rowImage f i0 ps count old).2.length = ceilDiv (fmtBits f * i0 % 8 + fmtBits f * count) 8 := by
  unfold rowImage
  dsimp only
  rw [List.length_map, List.length_range]

/-- The bytes of some elements of a row lie in the row. -/
theorem rowImage_within {i0 count : Nat} (h : fmtBits d.fmt * (i0 + count) ≤ 8 * d.rowBytes) :
    fmtBits d.fmt * i0 / 8 + ceilDiv (fmtBits d.fmt * i0 % 8 + fmtBits d.fmt * count) 8 ≤ d.rowBytes := by
  rw [Nat.mul_add] at h
  unfold ceilDiv
  omega

/-- The elements of a row that writePuts writes, the padding of an MX row with them (R126). -/
def Desc.putCount (d : Desc) (i0 n : Nat) : Nat := if fmtMx d.fmt && (i0 + n == d.extent 0) then d.blocks * 32 - i0 else n

theorem putCount_within {i0 n : Nat} (h : i0 + n ≤ d.extent 0) : fmtBits d.fmt * (i0 + d.putCount i0 n) ≤ 8 * d.rowBytes := by
  have hblocks : d.extent 0 ≤ d.blocks * 32 := by
    unfold Desc.blocks ceilDiv
    omega
  have hle : i0 + d.putCount i0 n ≤ if fmtMx d.fmt then d.blocks * 32 else d.extent 0 := by
    unfold Desc.putCount
    cases fmtMx d.fmt with
    | true =>
      simp only [Bool.true_and, if_true, beq_iff_eq]
      split <;> omega
    | false => simpa using h
  refine (Nat.mul_le_mul_left _ hle).trans ?_
  unfold Desc.rowBytes mxBlockBytes
  cases fmtMx d.fmt with
  | true =>
    simp only [if_true]
    apply le_of_eq
    ring
  | false =>
    simp only [Bool.false_eq_true, if_false]
    unfold ceilDiv
    rw [Nat.mul_comm]
    omega

theorem firsts_length (i0 n : Nat) : ((List.range n).filter (fun i => (i0 + i) % 32 == 0)).length + ceilDiv i0 32 = ceilDiv (i0 + n) 32 := by
  induction n with
  | zero => simp
  | succ n ih =>
    rw [List.range_succ, List.filter_append, List.length_append]
    by_cases h : (i0 + n) % 32 = 0
    · simp only [List.filter_cons, h, beq_self_eq_true, if_true, List.filter_nil, List.length_singleton]
      unfold ceilDiv at *
      omega
    · simp only [List.filter_cons, beq_iff_eq, h, if_false, List.filter_nil, List.length_nil]
      unfold ceilDiv at *
      omega

theorem rank_cons_row (i : Nat) : rank d.extents (i :: row) = i + d.extent 0 * d.rowNo (0 :: row) := rfl

/-- The scale bytes of a row's blocks, or its extension bytes, lie in the tensor's plane of them (R120, R124). -/
theorem side_within {e r rows a n : Nat} (hr : r < rows) (h : a + n ≤ e) : a + e * r + n ≤ e * rows := by
  calc a + e * r + n = e * r + (a + n) := by ring
    _ ≤ e * r + e := Nat.add_le_add_left h _
    _ = e * (r + 1) := by ring
    _ ≤ e * rows := Nat.mul_le_mul_left _ hr

/-- The bytes of some elements of a row, as they are stored. -/
def State.rowImage (s : State) (d : Desc) (row : List Nat) (i0 : Nat) (ps : List Put) : Nat × List (Byte × Bool) :=
  Machine.rowImage d.fmt i0 ps (d.putCount i0 ps.length) (fun o n => (s.readBytes (d.rowAddr (0 :: row) + o) n).bytes)

/-- Elements of a row stored, without their scale or extension bytes. -/
def State.putImage (s : State) (d : Desc) (row : List Nat) (i0 : Nat) (ps : List Put) : State × Nat :=
  s.writeMixed d.who d.cls (d.rowAddr (0 :: row) + (s.rowImage d row i0 ps).1) (s.rowImage d row i0 ps).2

/-- The scale or extension byte of an element with its poison. -/
def Put.sideByte (p : Put) : Byte × Bool := (BitVec.ofNat 8 p.side, p.bad)

/-- The scale bytes of the blocks that begin among some elements (R124). -/
def blockBytes (i0 : Nat) (ps : List Put) : List (Byte × Bool) :=
  ((List.range ps.length).filter (fun i => (i0 + i) % 32 == 0)).map (fun i => (ps.getD i { bits := 0 }).sideByte)

theorem writePuts_fst (s : State) (d : Desc) (row : List Nat) (i0 : Nat) (ps : List Put) : (s.writePuts d row i0 ps).1 =
    if fmtMx d.fmt then
      ((s.putImage d row i0 ps).1.writeMixed d.who d.cls (d.scale + ceilDiv i0 32 + d.blocks * d.rowNo (0 :: row)) (blockBytes i0 ps)).1
    else if d.fmt = 0x01 then
      ((s.putImage d row i0 ps).1.writeMixed d.who d.cls (d.scale + rank d.extents (i0 :: row)) (ps.map Put.sideByte)).1
    else (s.putImage d row i0 ps).1 := by
  unfold State.writePuts State.putImage State.rowImage Desc.putCount
  dsimp only
  split
  · rfl
  · split <;> rfl

theorem putImage_wrote (hd : Dest c d) {s : State} (h : Ready c s) (hrow : d.InRow row) {i0 : Nat} {ps : List Put}
    (hn : i0 + ps.length ≤ d.extent 0) : Wrote c d.Covers s (s.putImage d row i0 ps).1 := by
  refine hd.run h (row_mem_spans hd.plain hrow) (Nat.le_add_right _ _) ?_
  show d.rowAddr (0 :: row) + fmtBits d.fmt * i0 / 8 + (Machine.rowImage d.fmt i0 ps _ _).2.length ≤ _
  rw [rowImage_length, Nat.add_assoc]
  exact Nat.add_le_add_left (rowImage_within (putCount_within hn)) _

/-- Elements of a row of a destination, stored (R120 to R126). -/
theorem writePuts_wrote (hd : Dest c d) {s : State} (h : Ready c s) (hrow : d.InRow row) {i0 : Nat} {ps : List Put}
    (hn : i0 + ps.length ≤ d.extent 0) : Wrote c d.Covers s (s.writePuts d row i0 ps).1 := by
  have hr := putImage_wrote hd h hrow hn
  have hno := rowNo_lt hrow
  rw [writePuts_fst]
  split
  · next hmx =>
    refine hr.trans (hd.run hr.ready (r := (d.scale, d.blocks * d.rows)) ?_ (by rw [Nat.add_assoc]; exact Nat.le_add_right _ _) ?_)
    · unfold Desc.spans
      rw [hmx]
      exact List.mem_append_right _ (List.mem_singleton.mpr rfl)
    · have hcount := firsts_length i0 ps.length
      have hle : ceilDiv (i0 + ps.length) 32 ≤ d.blocks := Nat.div_le_div_right (by omega)
      unfold blockBytes
      rw [List.length_map]
      generalize ((List.range ps.length).filter (fun i => (i0 + i) % 32 == 0)).length = k at hcount ⊢
      have := side_within (e := d.blocks) (a := ceilDiv i0 32) (n := k) hno (by omega)
      dsimp only
      omega
  · next hmx =>
    split
    · next h1 =>
      refine hr.trans (hd.run hr.ready (r := (d.scale, d.count)) ?_ (Nat.le_add_right _ _) ?_)
      · unfold Desc.spans
        dsimp only
        rw [if_neg hmx, if_pos h1]
        exact List.mem_append_right _ (List.mem_singleton.mpr rfl)
      · have := side_within (e := d.extent 0) (a := i0) (n := ps.length) hno hn
        rw [rank_cons_row, List.length_map]
        unfold Desc.count
        dsimp only
        omega
    · exact hr

end

end Sys2Proof.Machine
end

section
/-! SUPPORT. Rows, tensors and tiles of a destination stored, and what the record of a rescued tile leaves (R159, R262, R283, R348 to R352). -/

namespace Sys2Proof.Machine

set_option Elab.async false

/-! ## Rows and tensors -/

theorem putBlock_length (f : Nat) (rm : Rm) (shift : Nat) (l : List Out) : (putBlock f rm shift l).length = l.length := by
  unfold putBlock
  extract_lets bad spoiled first cause
  split
  · exact List.length_map _
  · split
    · exact List.length_map _
    · split <;> exact List.length_map _

theorem blocks_sum (n k : Nat) : ((List.range k).map (fun b => min 32 (n - 32 * b))).sum = min (32 * k) n := by
  induction k with
  | zero => simp
  | succ k ih =>
    rw [List.range_succ, List.map_append, List.sum_append, ih]
    simp only [List.map_cons, List.map_nil, List.sum_cons, List.sum_nil]
    omega

/-- A row converts to as many elements as it has. -/
theorem putRow_length (f : Nat) (rm : Nat → Rm) (sat subn : Bool) (shift i0 : Nat) (l : List Out) :
    (putRow f rm sat subn shift i0 l).length = l.length := by
  unfold putRow
  split
  · have h : (fun b => (putBlock f (rm (i0 + 32 * b)) shift ((l.drop (32 * b)).take 32)).length) = fun b => min 32 (l.length - 32 * b) := by
      funext b
      rw [putBlock_length, List.length_take, List.length_drop]
    rw [List.length_flatMap, h, blocks_sum]
    unfold ceilDiv
    omega
  · rw [List.length_map, List.length_range]

section
variable {c : Cell} {d : Desc} {row : List Nat} {s : State}

theorem storeRow_fst (s : State) (d : Desc) (rm : Nat → Rm) (sat subn : Bool) (shift i0 : Nat) (row : List Nat) (l : List Out) :
    (s.storeRow d rm sat subn shift i0 row l).1 =
      (s.writePuts d row i0 (putRow d.fmt (fun i => rm (d.rowNo (0 :: row) * d.extent 0 + i)) sat subn shift i0 l)).1 := rfl

theorem storeRow_wrote (hd : Dest c d) (h : Ready c s) (hrow : d.InRow row) {i0 : Nat} {l : List Out} (hn : i0 + l.length ≤ d.extent 0)
    (rm : Nat → Rm) (sat subn : Bool) (shift : Nat) : Wrote c d.Covers s (s.storeRow d rm sat subn shift i0 row l).1 := by
  rw [storeRow_fst]
  exact writePuts_wrote hd h hrow (by rw [putRow_length]; exact hn)

/-- A whole destination, stored row by row. -/
theorem storeAll_wrote (hd : Dest c d) (h : Ready c s) (rm : Nat → Rm) (sat subn : Bool) (f : List Nat → Out) :
    Wrote c d.Covers s (s.storeAll d rm sat subn f).1 := by
  unfold State.storeAll
  refine wrote_foldl_pair (fun acc r _ hacc => ?_) h _
  exact storeRow_wrote hd hacc (inRow_unrank d r) (by rw [List.length_map, List.length_range, Nat.zero_add]) rm sat subn 0

/-! ## Tiles -/

/-- The elements of a tile lie in a destination: each in one of its rows, and of a row no more than fit from column n0 on (R283). -/
def TileFits (d : Desc) (m0 n0 : Nat) (bidx : List Nat) (ts : List TileEl) : Prop :=
  ∀ r, (∃ t ∈ ts, t.r = r) → d.InRow ((m0 + r) :: bidx) ∧ n0 + (ts.filter (fun t => t.r == r)).length ≤ d.extent 0

theorem tileFits_of_cells {m0 n0 : Nat} {bidx : List Nat} {ts : List TileEl} (hd : (ts.map (fun t => (t.r, t.c))).Nodup)
    (hin : ∀ t ∈ ts, d.InRow ((m0 + t.r) :: bidx) ∧ n0 + t.c < d.extent 0) : TileFits d m0 n0 bidx ts := by
  rintro r ⟨t, ht, rfl⟩
  obtain ⟨hrow, hcol⟩ := hin t ht
  refine ⟨hrow, ?_⟩
  have hnodup : ((ts.filter (fun u => u.r == t.r)).map (·.c)).Nodup := by
    have hsub : ((ts.filter (fun u => u.r == t.r)).map (fun u => (u.r, u.c))).Nodup := hd.sublist (List.filter_sublist.map _)
    have hpair : (ts.filter (fun u => u.r == t.r)).map (fun u => (u.r, u.c)) = ((ts.filter (fun u => u.r == t.r)).map (·.c)).map (fun k => (t.r, k)) := by
      rw [List.map_map]
      refine List.map_congr_left (fun u hu => ?_)
      rw [Function.comp_apply, ← beq_iff_eq.mp (List.mem_filter.mp hu).2]
    rw [hpair] at hsub
    exact hsub.of_map
  have hle := (List.subperm_of_subset hnodup (l₂ := List.range (d.extent 0 - n0)) (fun k hk => by
    obtain ⟨u, hu, rfl⟩ := List.mem_map.mp hk
    have := (hin u (List.mem_filter.mp hu).1).2
    rw [List.mem_range]
    omega)).length_le
  rw [List.length_map, List.length_range] at hle
  omega

theorem storeTile_wrote (hd : Dest c d) (h : Ready c s) {m0 n0 : Nat} {bidx : List Nat} {ts : List TileEl} (hf : TileFits d m0 n0 bidx ts)
    (rm : Rm) (sat subn : Bool) (shift : Nat) : Wrote c d.Covers s (s.storeTile d rm sat subn shift m0 n0 bidx ts).1 := by
  have hrows : ∀ r ∈ (List.range 64).filter (fun r => ts.any (fun t => t.r == r)), ∃ t ∈ ts, t.r = r := fun r hr => by
    obtain ⟨t, ht, hrt⟩ := List.any_eq_true.mp (List.mem_filter.mp hr).2
    exact ⟨t, ht, beq_iff_eq.mp hrt⟩
  unfold State.storeTile
  generalize (List.range 64).filter (fun r => ts.any (fun t => t.r == r)) = rows at hrows ⊢
  refine wrote_foldl_pair (fun acc r hr hacc => ?_) h _
  obtain ⟨hrow, hn⟩ := hf r (hrows r hr)
  dsimp only
  exact storeRow_wrote hd hacc hrow (by rw [List.length_map]; exact hn) _ sat subn shift

/-! ## Rescued tiles -/

theorem recordRescale_wrote (h : Ready c s) (rec : List Byte) : Wrote c nowhere s (s.recordRescale c rec) := by
  have h1 := ringPut_wrote h (.numeric c.region) rec
  have h2 := setFld_wrote h1.ready .NUM_EVCNT_RESCALE c.region ((s.ringPut (.numeric c.region) rec).fld .NUM_EVCNT_RESCALE c.region + 1) (by decide)
  exact (h1.trans h2).trans (setFld_wrote h2.ready .NUM_STAT_RESCALED c.region 1 (by decide))

/-- The attempts of a rescue leave records, and one of them is the tile (R349). -/
theorem rescue_facts (h : Ready c s) (f : Flight) (d : Desc) (rm : Rm) (compute : Int → List TileEl) (oscale : Int) (trow tcol batch : Nat)
    (n shift : Nat) {ts : List TileEl} (hts : ∃ sc, ts = compute sc) :
    Wrote c nowhere s (rescue c f d rm compute oscale trow tcol batch n shift s ts).1 ∧
      ∃ sc, (rescue c f d rm compute oscale trow tcol batch n shift s ts).2.ts = compute sc := by
  induction n generalizing shift s ts with
  | zero =>
    unfold rescue
    split <;> exact ⟨.refl h, hts⟩
  | succ n ih =>
    unfold rescue
    split
    · have h1 := recordRescale_wrote h (s.tileRecord c f 0x02 0x01 (2 - n) (rescaleBy d.fmt rm ts) trow tcol batch (oscale - (shift : Int)) d ts)
      obtain ⟨h2, hsc⟩ := ih h1.ready (shift + rescaleBy d.fmt rm ts) ⟨_, rfl⟩
      exact ⟨h1.trans h2, hsc⟩
    · exact ⟨.refl h, hts⟩

theorem tile_facts (h : Ready c s) (f : Flight) (d : Desc) (rm : Rm) (rsc : Nat) (compute : Int → List TileEl) (oscale : Int)
    (trow tcol batch : Nat) : Wrote c nowhere s (s.tile c f d rm rsc compute oscale trow tcol batch).1 ∧
      ∃ sc, (s.tile c f d rm rsc compute oscale trow tcol batch).2.ts = compute sc := by
  obtain ⟨h1, hsc⟩ := rescue_facts h f d rm compute oscale trow tcol batch (if rescales rsc d.fmt then 2 else 0) 0 ⟨oscale, rfl⟩
  unfold State.tile
  generalize (if rescales rsc d.fmt then 2 else 0) = n at h1 hsc ⊢
  dsimp only
  split
  · exact ⟨h1.trans (ringPut_wrote h1.ready _ _), hsc⟩
  · exact ⟨h1, hsc⟩

theorem tileCells_nodup (ext : List Nat) (tr tc : Nat) : (tileCells ext tr tc).Nodup := List.nodup_range.product List.nodup_range

theorem mem_tileCells {ext : List Nat} {tr tc : Nat} {q : Nat × Nat} (h : q ∈ tileCells ext tr tc) :
    64 * tr + q.1 < ext.getD 1 1 ∧ 64 * tc + q.2 < ext.getD 0 1 := by
  simp only [tileCells, List.mem_flatMap, List.mem_map, List.mem_range] at h
  obtain ⟨r, hr, k, hk, rfl⟩ := h
  dsimp only
  omega

/-- The batch indices of a destination's tiles. -/
theorem batch_forall₂ (d : Desc) (b : Nat) : List.Forall₂ (· < ·) (unrank (d.extents.drop 2) b) (d.extents.drop 2) :=
  unrank_forall₂ (extents_pos d 2) b

/-- A destination written tile by tile (R283, R347 to R350). -/
theorem tiled_wrote (hd : Dest c d) (h : Ready c s) (f : Flight) (rm : Rm) (sat subn : Bool) (oscale : Int) (rsc : Nat)
    (cell : Int → Nat → Nat → Nat → TileEl) : Wrote c d.Covers s (s.tiled c f rm d sat subn oscale rsc cell).1 := by
  unfold State.tiled
  refine wrote_foldl_pair (fun acc p _ hacc => ?_) h _
  obtain ⟨b, tr, tc⟩ := p
  dsimp only
  generalize hcompute : (fun sc : Int => (tileCells d.extents tr tc).map (fun q =>
    ({ cell sc (64 * tr + q.1) (64 * tc + q.2) b with r := q.1, c := q.2 } : TileEl))) = compute
  obtain ⟨ht, sc, hsc⟩ := tile_facts hacc f d rm rsc compute oscale tr tc b
  have hfits : TileFits d (64 * tr) (64 * tc) (unrank (d.extents.drop 2) b) (acc.1.tile c f d rm rsc compute oscale tr tc b).2.ts := by
    rw [hsc, ← hcompute]
    refine tileFits_of_cells ?_ (fun t hm => ?_)
    · rw [List.map_map]
      exact (tileCells_nodup d.extents tr tc).map (fun _ _ e => e)
    · obtain ⟨q, hq, rfl⟩ := List.mem_map.mp hm
      obtain ⟨hr, hcol⟩ := mem_tileCells hq
      exact ⟨.cons hr (batch_forall₂ d b), hcol⟩
  have hst := storeTile_wrote hd ht.ready hfits rm sat subn (acc.1.tile c f d rm rsc compute oscale tr tc b).2.shift
  exact (ht.anywhere.trans hst).trans (wrote_iff _ hst.ready (ringPut_wrote hst.ready _ _).anywhere)

/-- What some descriptors name. -/
def Within (ds : List Desc) (p : Nat) : Prop := ∃ d ∈ ds, d.Covers p

theorem Wrote.within {ds : List Desc} {t : State} (h : Wrote c d.Covers s t) (hd : d ∈ ds) : Wrote c (Within ds) s t :=
  h.mono (fun _ hp => ⟨d, hd, hp⟩)

theorem clipTile_fits (d : Desc) (m0 n0 x y z : Nat) {ts : List TileEl} (hd : (ts.map (fun t => (t.r, t.c))).Nodup) :
    TileFits d m0 n0 [x, y, z] (clipTile d m0 n0 [x, y, z] ts) := by
  unfold clipTile
  split
  · next hb =>
    have hlt : ∀ k, k < 3 → [x, y, z].getD k 0 < d.extent (k + 2) := fun k hk => of_decide_eq_true (List.all_eq_true.mp hb k (List.mem_range.mpr hk))
    refine tileFits_of_cells (hd.sublist (List.filter_sublist.map _)) (fun t ht => ?_)
    obtain ⟨hr, hc⟩ := Bool.and_eq_true_iff.mp (List.mem_filter.mp ht).2
    exact ⟨.cons (of_decide_eq_true hr) (.cons (hlt 0 (by decide)) (.cons (hlt 1 (by decide)) (.cons (hlt 2 (by decide)) .nil))),
      of_decide_eq_true hc⟩
  · rintro r ⟨t, ht, -⟩
    exact absurd ht List.not_mem_nil

theorem TileFits.map {m0 n0 : Nat} {bidx : List Nat} {ts : List TileEl} (h : TileFits d m0 n0 bidx ts) {g : TileEl → TileEl}
    (hg : ∀ t, (g t).r = t.r) : TileFits d m0 n0 bidx (ts.map g) := by
  rintro r ⟨u, hu, hr⟩
  obtain ⟨t, ht, rfl⟩ := List.mem_map.mp hu
  obtain ⟨hrow, hlen⟩ := h r ⟨t, ht, (hg t).symm.trans hr⟩
  refine ⟨hrow, ?_⟩
  rw [List.filter_map, List.length_map]
  refine le_of_eq_of_le (congrArg (fun l : List TileEl => n0 + l.length) (List.filter_congr (fun t _ => ?_))) hlen
  rw [Function.comp_apply, hg]

theorem cells_nodup (ext : List Nat) (tr tc : Nat) (g : Nat × Nat → TileEl) (hg : ∀ q, (g q).r = q.1 ∧ (g q).c = q.2) :
    (((tileCells ext tr tc).map g).map (fun t => (t.r, t.c))).Nodup := by
  rw [List.map_map]
  refine (tileCells_nodup ext tr tc).map (fun p q e => ?_)
  simpa only [Function.comp_apply, hg, Prod.mk.eta] using e

theorem promotion_wrote (h : Ready c s) (b : Bool) (rec : State → List Byte) :
    Wrote c nowhere s (s.iff b (fun s => s.ringPut (.numeric c.region) (rec s))) := wrote_iff b h (ringPut_wrote h _ _)

/-- A residual sum (R176, R282, R348). -/
theorem residual_wrote {cd : Desc} (hd : Dest c cd) (h : Ready c s) (f : Flight) (i : MmIn) (ct : Tens) (sat subn : Bool) (oscale : Int) :
    Wrote c (Within [cd]) s (s.mmResidual c f i cd ct none sat subn oscale).1 := by
  unfold State.mmResidual
  refine wrote_foldl_pair (fun acc p _ hacc => ?_) h _
  obtain ⟨b, tr, tc⟩ := p
  dsimp only
  have hbig := promotion_wrote hacc
  exact (hbig _ _).anywhere.trans ((storeTile_wrote hd (hbig _ _).ready (clipTile_fits cd _ _ _ _ _
    (cells_nodup _ _ _ _ (fun _ => ⟨rfl, rfl⟩))) i.rm sat subn 0).within List.mem_cons_self)

theorem twoTiles_wrote {u : State} {cd nd : Desc} (hd : Dest c cd) (hn : Dest c nd) (hu : Wrote c nowhere s u) {m0 n0 : Nat}
    {bidx : List Nat} {ts ts' : List TileEl} (hw : TileFits cd m0 n0 bidx ts) (hs : TileFits nd m0 n0 bidx ts') (rm : Rm) (sat subn : Bool) :
    Wrote c (Within [cd, nd]) s ((u.storeTile cd rm sat subn 0 m0 n0 bidx ts).1.storeTile nd rm sat subn 0 m0 n0 bidx ts').1 := by
  have h1 := storeTile_wrote hd hu.ready hw rm sat subn 0
  exact (hu.anywhere.trans (h1.within List.mem_cons_self)).trans
    ((storeTile_wrote hn h1.ready hs rm sat subn 0).within (List.mem_cons_of_mem _ List.mem_cons_self))

/-- A residual sum and its narrow copy (R176, R262, R282, R348). -/
theorem narrowed_wrote {cd nd : Desc} (hd : Dest c cd) (hn : Dest c nd) (h : Ready c s) (f : Flight) (i : MmIn) (ct : Tens) (sat subn : Bool)
    (oscale : Int) : Wrote c (Within [cd, nd]) s (s.mmResidual c f i cd ct (some nd) sat subn oscale).1 := by
  unfold State.mmResidual
  refine wrote_foldl_pair (fun acc p _ hacc => ?_) h _
  obtain ⟨b, tr, tc⟩ := p
  dsimp only
  obtain ⟨x, y, z, hb⟩ : ∃ x y z, unrank (List.drop 2 ((List.range 5).map (fun k => max (cd.extent k) (nd.extent k)))) b = [x, y, z] :=
    ⟨_, _, _, rfl⟩
  rw [hb]
  have hnodup := cells_nodup ((List.range 5).map (fun k => max (cd.extent k) (nd.extent k))) tr tc
  generalize tileCells ((List.range 5).map (fun k => max (cd.extent k) (nd.extent k))) tr tc = cells at hnodup ⊢
  refine twoTiles_wrote hd hn ?_ ?_ ?_ _ _ _
  · exact promotion_wrote hacc _ _
  · exact clipTile_fits cd _ _ x y z (hnodup _ (fun _ => ⟨rfl, rfl⟩))
  · exact (clipTile_fits nd _ _ x y z (hnodup _ (fun _ => ⟨rfl, rfl⟩))).map (fun _ => rfl)

end

end Sys2Proof.Machine
end

section
/-! SUPPORT. The dispatch of an engine instruction that runs whole in a cell, and what its effect starts from (R206 to R216, R260 to R267). -/

namespace Sys2Proof.Machine

set_option Elab.async false

/-! ## What an operand is read from -/

/-- Two states in which memory reads alike: memory, caches, the blocks an expander abandons, slots that are gone and all registers but a
few are the same. -/
structure SameView (s t : State) : Prop where
  mem : t.mem = s.mem
  coh : t.coh = s.coh
  reading : t.repair.reading = s.repair.reading
  gone : ∀ b, (t.blk b).gone = (s.blk b).gone
  flds : FldsBut storeFlds s t

section
variable {s t u : State}

theorem SameView.refl (s : State) : SameView s s := ⟨rfl, rfl, rfl, fun _ => rfl, FldsBut.refl _ s⟩

theorem SameView.trans (h : SameView s t) (k : SameView t u) : SameView s u :=
  ⟨k.mem.trans h.mem, k.coh.trans h.coh, k.reading.trans h.reading, fun b => (k.gone b).trans (h.gone b), h.flds.trans k.flds⟩

variable (h : SameView s t)
include h

theorem SameView.place (a : Nat) : t.place a = s.place a := State.place_of_flds h.flds (by decide) (by decide) a

theorem SameView.storePoison (a : Nat) : t.storePoison a = s.storePoison a := by
  unfold State.storePoison
  rw [h.place]
  simp only [h.gone, h.mem]

theorem SameView.nearest (r target : Nat) (l : List Nat) : t.nearest r target l = s.nearest r target l := by
  induction l with
  | nil => rfl
  | cons a l ih =>
    have hhop : ∀ i, t.hop r i target = s.hop r i target := fun i => by
      unfold State.hop
      dsimp only
      rw [h.flds _ _ _ (by decide)]
    rw [State.nearest, State.nearest, ih]
    simp only [hhop]

theorem SameView.cohLine (l : Nat) : t.cohLine l = s.cohLine l := by
  have hdir : t.dirOf l = s.dirOf l := by rw [State.dirOf, h.coh, State.dirOf]
  have hcopy : ∀ a, t.copyOf a l = s.copyOf a l := fun a => by
    rw [State.copyOf, State.cached, State.wbOf, h.coh, State.copyOf, State.cached, State.wbOf]
  unfold State.cohLine
  simp only [hdir, hcopy, h.nearest, h.mem]

theorem SameView.readPart (a n : Nat) : t.readPart a n = s.readPart a n := by
  unfold State.readPart
  simp only [h.place, h.cohLine, h.storePoison, h.mem]

theorem SameView.readBytes (a n : Nat) : t.readBytes a n = s.readBytes a n := by
  unfold State.readBytes
  simp only [h.readPart]

theorem SameView.byteList (a n : Nat) : t.byteList a n = s.byteList a n := by
  unfold State.byteList
  simp only [h.place, h.readPart, h.storePoison, h.mem]

theorem SameView.streamBytes (base fmt n : Nat) : t.streamBytes base fmt n = s.streamBytes base fmt n := by
  unfold State.streamBytes State.streamBlocks State.streamBlock
  simp only [h.readBytes, h.byteList, h.reading]

/-- An operand reads alike (R120, R262). -/
theorem SameView.loadRawIn (d : Desc) (lim : List Nat) : t.loadRawIn d lim = s.loadRawIn d lim := by
  have hrows : t.tensorRows d lim = s.tensorRows d lim := by
    unfold State.tensorRows
    simp only [h.streamBytes, h.byteList]
  unfold State.loadRawIn
  simp only [hrows, h.byteList]

theorem SameView.load (subn : Bool) (d : Desc) : t.load subn d = s.load subn d := by
  unfold State.load State.loadRaw
  rw [h.loadRawIn]

theorem SameView.loadFor (subn : Bool) (dest d : Desc) : t.loadFor subn dest d = s.loadFor subn dest d := by
  unfold State.loadFor
  rw [h.loadRawIn]

theorem SameView.subn (x : Executor) : t.subn x = s.subn x := h.flds.flag (by decide) _ _

end

/-- Nothing but traffic, blocks that wake and decode errors comes about, and executors stand. -/
structure Waked (s t : State) : Prop where
  view : SameView s t
  execs : t.execs = s.execs

theorem Waked.refl (s : State) : Waked s s := ⟨.refl s, rfl⟩

theorem Waked.trans {s t u : State} (h : Waked s t) (k : Waked t u) : Waked s u := ⟨h.view.trans k.view, k.execs.trans h.execs⟩

theorem Waked.exe {s t : State} (h : Waked s t) (x : Executor) : t.exe x = s.exe x := by
  rw [State.exe, h.execs, State.exe]

theorem Waked.coded {s t : State} (h : Waked s t) (hc : s.mem.coded = []) : t.mem.coded = [] := by
  rw [h.view.mem]
  exact hc

theorem StoresOnly.waked {s t : State} (h : StoresOnly s t) (hm : t.mem = s.mem) (hc : t.coh = s.coh) (he : t.execs = s.execs) : Waked s t :=
  ⟨⟨hm, hc, by rw [h.repair], fun b => (congrArg Blk.gone (h.blk b) :), h.flds⟩, he⟩

theorem TrafficOnly.waked {s t : State} (h : TrafficOnly s t) : Waked s t := h.storesOnly.waked h.mem h.coh h.execs

theorem rouse_waked (s : State) (a : Nat) : Waked s (s.rouse a) :=
  (rouse_storesOnly s a).waked (rouse_wakesOnly s a).mem (rouse_wakesOnly s a).coh (rouse_wakesOnly s a).execs

theorem refuse_waked (s : State) (code a : Nat) (w : Bool) : Waked s (s.refuse code a w) := by
  have h := refuse_only s code a w
  unfold ErrorOnly at h
  exact (refuse_storesOnly s code a w).waked (congrArg State.mem h :) (congrArg State.coh h :) (congrArg State.execs h :)

theorem snoopRead_waked (s : State) (cls line : Nat) : Waked s (s.snoopRead cls line) := by
  unfold State.snoopRead
  split
  · exact .refl s
  · split
    · exact .refl s
    · exact (rouse_waked s _).trans (oweSnoop_traffic _ _ _ _ _ _).waked

theorem waked_foldl {α : Type} {g : State → α → State} (h : ∀ t a, t.mem.coded = [] → Waked t (g t a)) (l : List α) {s : State}
    (hc : s.mem.coded = []) : Waked s (l.foldl g s) :=
  foldl_keeps (Waked s) g (fun t a ht => ht.trans (h t a (ht.coded hc))) l (.refl s)

/-- What a read does beside returning its bytes, where no slot is coded (R29, R36, R51). -/
theorem noteRead_waked {s : State} (hc : s.mem.coded = []) (m : Mover) (cls a n : Nat) : Waked s (s.noteRead m cls a n) := by
  have hh : Waked s (s.haul m cls a n false) := (haul_traffic s m cls a n false).waked
  have hcode : Waked (s.haul m cls a n false) ((s.haul m cls a n false).noteCodedRange cls a n) :=
    waked_foldl (fun t l ht => by rw [noteCoded_id ht]; exact .refl t) _ (hh.coded hc)
  unfold State.noteRead
  refine (hh.trans hcode).trans (waked_foldl (fun t p _ => ?_) (splitRange a n) ((hh.trans hcode).coded hc))
  dsimp only
  split
  · exact snoopRead_waked t cls _
  · exact snoopRead_waked t cls _
  · exact rouse_waked t _
  · exact rouse_waked t _
  · exact refuse_waked t _ _ _

theorem noteSpans_waked {s : State} (hc : s.mem.coded = []) (d : Desc) (l : List (Nat × Nat)) : Waked s (s.noteSpans d l) :=
  waked_foldl (fun _ p ht => noteRead_waked ht d.who d.cls p.1 p.2) l hc

theorem Waked.ready {c : Cell} {s t : State} (h : Waked s t) (hs : Ready c s) : Ready c t := by
  refine ⟨h.coded hs.coded, ?_, ringsOff_of_flds hs.rings (h.view.flds.mono (by decide)), ?_⟩
  · rw [NoUpdates, h.execs]
    exact hs.calm
  · rw [h.view.gone]
    exact hs.gone

/-! ## Dispatch -/

/-- The state an instruction of a cell acts on: its word fetched, its token taken (R202, R215). -/
def State.dispatched (s : State) (c : Cell) (w : W128) : State :=
  ((s.fetched (.cell c)).takeToken (.cell c) (wf w 104 6)).shows (.cell c) 1

section
variable {s v : State} {c : Cell} {w : W128}

theorem EngineGoing.going {ds : List Desc} (h : EngineGoing s c w false ds) : Going s (.cell c) w := h.1

theorem EngineGoing.idle {ds : List Desc} (h : EngineGoing s c w false ds) : (s.exe (.cell c)).flights = [] := h.2.1

theorem EngineGoing.inReach {ds : List Desc} (h : EngineGoing s c w false ds) {d : Desc} (hd : d ∈ ds) : d.inReach c false = true := (h.2.2 d hd).1

theorem Going.head {x : Executor} (h : Going s x w) : s.atHead x = true := h.1

theorem Going.predField {x : Executor} (h : Going s x w) : wf w 110 4 ≠ 8 := h.2.2.1

/-- Dispatch changes clocks and the cell's tokens. -/
theorem dispatched_frame (s : State) (c : Cell) (w : W128) :
    s.dispatched c w = { s with clk := (s.startFclk c.region).clk, execs := (s.dispatched c w).execs } ∧
    (∃ l, (s.dispatched c w).exe (.cell c) = { s.exe (.cell c) with tok := l }) ∧ (NoUpdates s → NoUpdates (s.dispatched c w)) := by
  show (s.startFclk c.region).takeToken (.cell c) (wf w 104 6) =
      { s with clk := (s.startFclk c.region).clk, execs := ((s.startFclk c.region).takeToken (.cell c) (wf w 104 6)).execs } ∧
    (∃ l, ((s.startFclk c.region).takeToken (.cell c) (wf w 104 6)).exe (.cell c) = { s.exe (.cell c) with tok := l }) ∧
    (NoUpdates s → NoUpdates ((s.startFclk c.region).takeToken (.cell c) (wf w 104 6)))
  unfold State.takeToken
  split
  · exact ⟨rfl, ⟨_, rfl⟩, id⟩
  · exact ⟨rfl, ⟨_, State.exe_setExe_same _ _ _⟩, fun h => NoUpdates.setExe (s := s.startFclk c.region) h _ (h.exe _)⟩

theorem dispatched_view (s : State) (c : Cell) (w : W128) : SameView s (s.dispatched c w) := by
  obtain ⟨he, -⟩ := dispatched_frame s c w
  exact ⟨by rw [he], by rw [he], by rw [he], fun b => by rw [he]; rfl, FldsBut.of_regs (by rw [he])⟩

/-- Dispatch of an instruction that goes into a queue (R206, R210, R215). -/
theorem issue_flies {cls op : Nat} {need : State → Need} {act : State → Act} (hgo : Going s (.cell c) w) (hc : fCls w = cls) (ho : fOp w = op)
    (hfe : frontEnd cls op = false) (hlegal : illegalDetail (s.exe (.cell c)) (.cell c) w (need s) = 0)
    (hneed : need (s.startFclk c.region) = need s) {t : State} {g : Flight} (hact : act (s.dispatched c w) = .fly t g) :
    issue cls op (.cell c) w s need act = .next
      ((t.setExe (.cell c) { t.exe (.cell c) with flights := (t.exe (.cell c)).flights ++ [g] }).setPc (.cell c) (s.pcOf (.cell c) + 1)) := by
  obtain ⟨hh, hf, -, hp, ht⟩ := hgo
  have hd : illegalDetail ((s.fetched (.cell c)).exe (.cell c)) (.cell c) w (need (s.fetched (.cell c))) = 0 := by
    rw [show need (s.fetched (.cell c)) = need s from hneed]
    exact hlegal
  have htok : ¬ (wf w 104 6 ≠ 0 ∧ ((s.fetched (.cell c)).exe (.cell c)).token (wf w 104 6) = 0) := fun ⟨h0, hz⟩ => ht.elim h0 (fun h => h hz)
  have hpred : ((s.fetched (.cell c)).exe (.cell c)).predOk (wf w 110 4) = true := hp
  unfold issue
  rw [hh, hf, hc, ho]
  simp only [Bool.not_true, Bool.false_eq_true, if_false, Option.isNone_some, Bool.and_false, ne_eq, not_true_eq_false, beq_self_eq_true,
    Bool.and_self, Bool.false_and, if_true, hd]
  rw [if_neg htok, hpred, hfe]
  simp only [Bool.not_true, Bool.or_self, Bool.and_false, Bool.false_eq_true, if_false]
  rw [show ((s.fetched (.cell c)).takeToken (.cell c) (wf w 104 6)).shows (.cell c) 1 = s.dispatched c w from rfl, hact]
  rfl

/-! ## The frame of an engine -/

/-- What the effect of an engine instruction starts from: the cell's tokens taken, memory as it was, and ready (R206, R260). -/
structure Started (c : Cell) (s v : State) : Prop where
  exe : ∃ l, v.exe (.cell c) = { s.exe (.cell c) with tok := l }
  view : SameView s v
  ready : Ready c v

/-- What the effect of an engine instruction leaves: its destinations written, its flight as dispatch made it, with a COUNT. -/
structure Effect (c : Cell) (dests : List Desc) (count : Nat) (more : Mem → Prop) (v : State) (f : Flight) (r : State × Flight) : Prop where
  wrote : Wrote c (Within dests) v r.1
  flight : r.2.q = f.q ∧ r.2.cls = f.cls ∧ r.2.op = f.op ∧ r.2.tokOut = f.tokOut ∧ r.2.both = f.both ∧ r.2.count = count
  more : more r.1.mem

theorem Started.descr (h : Started c s v) (i : Nat) : v.descr (.cell c) i = s.descr (.cell c) i := by
  obtain ⟨l, hl⟩ := h.exe
  rw [State.descr, State.descr, hl]
  rfl

theorem Started.sreg (h : Started c s v) (i : Nat) : v.sreg (.cell c) i = s.sreg (.cell c) i := by
  obtain ⟨l, hl⟩ := h.exe
  rw [State.sreg, State.sreg, hl]
  rfl

theorem dispatched_descr (s : State) (c : Cell) (w : W128) (i : Nat) : (s.dispatched c w).descr (.cell c) i = s.descr (.cell c) i := by
  obtain ⟨-, ⟨l, hl⟩, -⟩ := dispatched_frame s c w
  rw [State.descr, State.descr, hl]
  rfl

theorem atHead_gone (h : s.atHead (.cell c) = true) : (s.blk c.block).gone.contains c.slot = false := by
  unfold State.atHead at h
  simp only [Bool.and_eq_true, Bool.not_eq_true'] at h
  exact h.1.2

/-- The state an engine's effect starts from. -/
def State.engineStart (u : State) (x : Executor) (srcs : List Desc) (read : Desc → List (Nat × Nat)) : State :=
  srcs.foldl (fun (t : State) d => t.noteSpans d (read d)) ({ u with nextUid := u.nextUid + 1 }.armExpander x)

/-- The flight an engine's effect starts from. -/
def State.engineFlight (u : State) (x : Executor) (w : W128) (q : QueueId) (dest : Option Nat) (dests srcs : List Desc)
    (read : Desc → List (Nat × Nat)) : Flight :=
  { u.mkFlight x w q dest with
    reads := srcs.flatMap read, writes := dests.flatMap Desc.spans, both := decide (q = .matrix) && fCls w == 4 }

/-- An instruction that joins none in flight races with nothing (R265). -/
theorem race_idle {t : State} {x : Executor} {f : Flight} (h : (t.exe x).flights = []) : t.race x f = (t, f) := by
  unfold State.race
  extract_lets e others shared mine theirs fl
  have hothers : others = [] := by
    unfold others e
    rw [h]
    rfl
  rw [if_pos (by rw [hothers]; rfl)]

variable (hp : PlainMemory s) (hoff : RingsOff s) {dests srcs : List Desc} (hgo : EngineGoing s c w false (dests ++ srcs))
include hp hoff hgo

theorem engineStart_started (read : Desc → List (Nat × Nat)) : Started c s ((s.dispatched c w).engineStart (.cell c) srcs read) := by
  obtain ⟨hcoded, habandon, hreading, hcalm⟩ := hp
  obtain ⟨he, ⟨l, hl⟩, hu⟩ := dispatched_frame s c w
  have hview : SameView s ({ s.dispatched c w with nextUid := (s.dispatched c w).nextUid + 1 }.armExpander (.cell c)) := by
    refine ⟨?_, ?_, ?_, fun b => ?_, FldsBut.of_regs ?_⟩
    · exact (dispatched_view s c w).mem
    · exact (dispatched_view s c w).coh
    · show ((s.dispatched c w).repair.abandon.filter _).map _ = _
      rw [show (s.dispatched c w).repair = s.repair by rw [he], habandon, hreading]
      rfl
    · exact (dispatched_view s c w).gone b
    · show (s.dispatched c w).regs = s.regs
      rw [he]
  have hready : Ready c ({ s.dispatched c w with nextUid := (s.dispatched c w).nextUid + 1 }.armExpander (.cell c)) := by
    refine ⟨by rw [hview.mem]; exact hcoded, hu hcalm, ringsOff_of_flds hoff (hview.flds.mono (by decide)), ?_⟩
    rw [hview.gone]
    exact atHead_gone hgo.going.head
  have hnotes := waked_foldl (g := fun (t : State) d => t.noteSpans d (read d)) (fun t d ht => noteSpans_waked ht d (read d)) srcs hready.coded
  refine ⟨⟨l, ?_⟩, hview.trans hnotes.view, hnotes.ready hready⟩
  exact (hnotes.exe (.cell c)).trans hl

/-- An engine instruction of a cell that is free to run whole takes effect and joins its queue (R210, R260). -/
theorem engine_flies {q : QueueId} (hq : q = .matrix ∨ q = .vector) (dest : Option Nat) (eff : Cell → State → Flight → State × Flight)
    (lim : Option (List Nat)) (fits : Bool) :
    (let read (d : Desc) : List (Nat × Nat) := d.readSpans (lim.getD d.extents)
     let r := eff c ((s.dispatched c w).engineStart (.cell c) srcs read) ((s.dispatched c w).engineFlight (.cell c) w q dest dests srcs read)
     Wrote c (Within dests) ((s.dispatched c w).engineStart (.cell c) srcs read) r.1 →
     ∃ g, engine (.cell c) w q dest false (s.dispatched c w) dests srcs eff lim fits =
        .fly (r.1.disarmExpander (.cell c) (srcs.flatMap read)) g ∧
      g.q = r.2.q ∧ g.cls = r.2.cls ∧ g.op = r.2.op ∧ g.tokOut = r.2.tokOut ∧ g.both = r.2.both ∧ g.count = r.2.count) := by
  intro read r hwrote
  obtain ⟨he, ⟨l, hl⟩, hu⟩ := dispatched_frame s c w
  obtain ⟨hgoing, hflights, hds⟩ := hgo
  have hflights' : ((s.dispatched c w).exe (.cell c)).flights = [] := by
    rw [hl]
    exact hflights
  have hbad : (dests ++ srcs).filter (fun d => !d.inReach c false) = [] := by
    rw [List.filter_eq_nil_iff]
    intro d hd
    rw [(hds d hd).1]
    decide
  have hfree : (dests ++ srcs).all (fun d => d.spans.all (fun p => (s.dispatched c w).rangeFree p.1 p.2)) = true := by
    rw [List.all_eq_true]
    intro d hd
    rw [List.all_eq_true]
    intro p hp
    rw [he]
    exact (hds d hd).2 p hp
  have hroom : (!(s.dispatched c w).queueFree (.cell c) q || (s.dispatched c w).passAhead (.cell c) q) = false := by
    unfold State.queueFree State.passAhead
    rw [hflights']
    rcases hq with rfl | rfl <;> rfl
  have hend : ((r.1.disarmExpander (.cell c) (srcs.flatMap read)).exe (.cell c)).flights = [] := by
    have hstart := (engineStart_started hp hoff ⟨hgoing, hflights, hds⟩ read).exe
    obtain ⟨k, hk⟩ := hstart
    rcases hwrote.flights (.cell c) with e | e
    · refine e.trans ?_
      rw [hk]
      exact hflights
    · exact e
  have hrace := fun g => race_idle (f := g) hend
  unfold engine
  dsimp only [Executor.cell?]
  rw [hbad]
  simp only [Bool.false_and, Bool.not_false, Bool.true_and, hfree, Bool.not_true, Bool.false_eq_true, if_false]
  unfold queued
  rw [hroom, if_neg Bool.false_ne_true]
  simp only [List.isEmpty_nil, Bool.not_true, Bool.false_eq_true, if_false, State.iff]
  show ∃ g, Act.fly (if r.2.refusedPark = true then (r.1.disarmExpander (.cell c) (srcs.flatMap read), { r.2 with reads := [], writes := [] })
    else (r.1.disarmExpander (.cell c) (srcs.flatMap read)).race (.cell c) r.2).1 (if r.2.refusedPark = true then
      (r.1.disarmExpander (.cell c) (srcs.flatMap read), { r.2 with reads := [], writes := [] })
    else (r.1.disarmExpander (.cell c) (srcs.flatMap read)).race (.cell c) r.2).2 = _ ∧ _
  rw [hrace]
  split
  · exact ⟨_, rfl, rfl, rfl, rfl, rfl, rfl, rfl⟩
  · exact ⟨_, rfl, rfl, rfl, rfl, rfl, rfl, rfl⟩

/-- The state of an engine instruction that has joined its queue. -/
def State.joins (t : State) (c : Cell) (g : Flight) (pc : Nat) : State :=
  (t.setExe (.cell c) { t.exe (.cell c) with flights := (t.exe (.cell c)).flights ++ [g] }).setPc (.cell c) pc

omit hp hoff hgo in
theorem joins_exe (t : State) (c : Cell) (g : Flight) (pc : Nat) :
    (t.joins c g pc).exe (.cell c) = { t.exe (.cell c) with flights := (t.exe (.cell c)).flights ++ [g], pc := pc } := by
  show (((t.setExe _ _).setExe _ _).exe _) = _
  rw [State.exe_setExe_same, State.exe_setExe_same]

omit hp hoff in
/-- Bytes that no destination names are as before (R260). -/
theorem tensorsBut_of_wrote {v t : State} (hv : v.mem = s.mem) (hw : Wrote c (Within dests) v t) : TensorsBut s t dests := by
  intro p hout
  rw [← hv]
  refine hw.bytes p (fun ⟨d, hd, r, hr, hlo, hhi⟩ => hout d hd r hr (p - r.1) (by omega) ?_)
  have hown := inReach_owned (hgo.inReach (List.mem_append_left _ hd)) hr (i := p - r.1) (by omega)
  rw [hown.canonical]
  omega

/-- An engine instruction of a cell that is free to run whole: what its effect writes stands, it has joined its queue, and the program
counter names the next instruction (R206, R210, R260). -/
theorem engine_settles {q : QueueId} (hq : q = .matrix ∨ q = .vector) {cls op : Nat} (hc : fCls w = cls) (ho : fOp w = op)
    (hfe : frontEnd cls op = false) {need : State → Need} (hlegal : illegalDetail (s.exe (.cell c)) (.cell c) w (need s) = 0)
    (hneed : need (s.startFclk c.region) = need s) {act : State → Act} {dest : Option Nat} {eff : Cell → State → Flight → State × Flight}
    {lim : Option (List Nat)} {fits : Bool}
    (hact : act (s.dispatched c w) = engine (.cell c) w q dest false (s.dispatched c w) dests srcs eff lim fits)
    {count : Nat} {more : Mem → Prop} (heff : ∀ v f, Started c s v → Effect c dests count more v f (eff c v f)) :
    ∃ t, issue cls op (.cell c) w s need act = .next t ∧ Joined s t (.cell c) w q count ∧ TensorsBut s t dests ∧
      (∀ g ∈ (t.exe (.cell c)).flights, g.both = (decide (q = .matrix) && fCls w == 4)) ∧ more t.mem := by
  let read (d : Desc) : List (Nat × Nat) := d.readSpans (lim.getD d.extents)
  let v := (s.dispatched c w).engineStart (.cell c) srcs read
  let f := (s.dispatched c w).engineFlight (.cell c) w q dest dests srcs read
  let r := eff c v f
  have hstart : Started c s v := engineStart_started hp hoff hgo read
  obtain ⟨hwrote, ⟨hfq, hfcls, hfop, hftok, hfboth, hfcount⟩, hmore⟩ := heff v f hstart
  obtain ⟨g, hfly, hgq, hgcls, hgop, hgtok, hgboth, hgcount⟩ := engine_flies hp hoff hgo hq dest eff lim fits hwrote
  obtain ⟨l, hl⟩ := hstart.exe
  have htensors : TensorsBut s r.1 dests := tensorsBut_of_wrote hgo hstart.view.mem hwrote
  have hnext := issue_flies hgo.going hc ho hfe hlegal hneed (hact.trans hfly)
  have hexe := joins_exe (r.1.disarmExpander (.cell c) (srcs.flatMap read)) c g (s.pcOf (.cell c) + 1)
  have hframe : (r.1.exe (.cell c)).frame = { s.exe (.cell c) with tok := l }.frame := by
    rw [hwrote.exe, hl]
  have hflights : (r.1.exe (.cell c)).flights = [] := by
    rcases hwrote.flights (.cell c) with e | e
    · refine e.trans ?_
      rw [hl]
      exact hgo.idle
    · exact e
  have hjoined : (((r.1.disarmExpander (.cell c) (srcs.flatMap read)).joins c g (s.pcOf (.cell c) + 1)).exe (.cell c)).flights = [g] := by
    rw [hexe]
    exact congrArg (· ++ [g]) hflights
  refine ⟨_, hnext, ⟨⟨g, hjoined, ?_⟩, ?_, fun i => ?_, ?_⟩, fun p hout => htensors p hout, fun k hk => ?_, hmore⟩
  · exact ⟨hgq.trans hfq, hgcls.trans hfcls, hgop.trans hfop, hgcount.trans hfcount, hgtok.trans hftok⟩
  · exact congrArg Exec.pc hexe
  · exact (congrArg (Exec.reg · i) hexe).trans (congrArg (Exec.reg · i) hframe :)
  · exact (congrArg Exec.pred hexe).trans (congrArg Exec.pred hframe :)
  · rw [show k = g from List.mem_singleton.mp (hjoined ▸ hk), hgboth, hfboth]
    rfl

end

end Sys2Proof.Machine
end

section
/-! SUPPORT. Elements of 32 bits and of one bit as a row of bytes holds them, and the width of what a conversion writes (R120, R123, R125,
R133 to R137). -/

namespace Sys2Proof.Machine

set_option Elab.async false

/-! ## The width of a conversion -/

/-- A magnitude rounded at the place of its format needs no more than one bit beyond its significand (R133). -/
theorem roundTo_le {rm : Rm} {m : Nat} {e q : Int} {b : Nat} (hq : (Nat.log2 m : Int) + e - b ≤ q) : roundTo rm m e q ≤ 2 ^ (b + 1) := by
  have hm : m < 2 ^ (Nat.log2 m + 1) := Nat.lt_log2_self
  unfold roundTo
  split
  · calc m * 2 ^ (e - q).toNat ≤ 2 ^ (Nat.log2 m + 1) * 2 ^ (e - q).toNat := Nat.mul_le_mul_right _ hm.le
      _ = 2 ^ (Nat.log2 m + 1 + (e - q).toNat) := (Nat.pow_add _ _ _).symm
      _ ≤ 2 ^ (b + 1) := Nat.pow_le_pow_right (by decide) (by omega)
  · dsimp only
    have ht : m / 2 ^ (q - e).toNat < 2 ^ (b + 1) := by
      rw [Nat.div_lt_iff_lt_mul (Nat.two_pow_pos _), ← Nat.pow_add]
      exact hm.trans_le (Nat.pow_le_pow_right (by decide) (by omega))
    split
    · exact ht.le
    · split
      · exact ht.le
      · split <;> omega
    · split <;> omega

theorem bit1_le (b : Bool) : bit1 b ≤ 1 := by cases b <;> decide

/-- An FP32 encoding of a significand of 24 bits at a place no higher than the last of the format. -/
theorem f32_pack_lt (s : Bool) {m : Nat} {q : Int} (hm : m < 2 ^ 24) (hq : q ≤ 104) : f32.pack s m q < 2 ^ 32 := by
  have hs := bit1_le s
  show (if m < 2 ^ 23 then bit1 s * 2 ^ 31 + m else bit1 s * 2 ^ 31 + (q + 127 + 23).toNat * 2 ^ 23 + (m - 2 ^ 23)) < 2 ^ 32
  split <;> omega

/-- An FP32 encoding has 32 bits (R117). -/
theorem f32_encode_lt (rm : Rm) (sat : Bool) (v : Num) : (f32.encode rm sat v).bits < 2 ^ 32 := by
  have hbig : ∀ s, f32.big s < 2 ^ 32 := fun s => f32_pack_lt s (by decide) (by decide)
  have hinf : ∀ s, f32.infBits s < 2 ^ 32 := fun s => by cases s <;> decide
  cases v with
  | nan => exact (by decide : f32.nan < 2 ^ 32)
  | inf s => exact hinf s
  | fin s m e =>
    unfold FFmt.encode
    dsimp only
    split
    · have := bit1_le s
      dsimp only [f32]
      omega
    · have hround : roundTo rm m e (f32.placeOf m e) ≤ 2 ^ 24 := roundTo_le (b := 23) (le_max_left _ _)
      generalize f32.placeOf m e = q at hround ⊢
      generalize roundTo rm m e q = t at hround ⊢
      have hlt : (if t = 2 ^ (f32.mb + 1) then (2 ^ f32.mb, q + 1) else (t, q)).1 < 2 ^ 24 := by
        show (if t = 2 ^ 24 then (2 ^ 23, q + 1) else (t, q)).1 < 2 ^ 24
        split
        · exact (by decide : 2 ^ 23 < 2 ^ 24)
        · exact lt_of_le_of_ne hround ‹_›
      generalize (if t = 2 ^ (f32.mb + 1) then (2 ^ f32.mb, q + 1) else (t, q)) = p at hlt ⊢
      have htop : f32.topQ = 104 := by decide
      split
      · split
        · exact hbig s
        · exact hinf s
      · next hno =>
        refine f32_pack_lt s hlt ?_
        rw [htop] at hno
        simp only [Bool.or_eq_true, decide_eq_true_eq, not_or, not_lt] at hno
        exact hno.1

/-- A conversion to FP32 writes 32 bits. -/
theorem putPlain_fp32_lt (rm : Rm) (sat subn : Bool) (o : Out) : (putPlain 0 rm sat subn o).bits < 2 ^ 32 := by
  unfold putPlain
  split
  · decide
  · show (if subn && fmtFlushes 0 && (f32.encode rm sat o.num).sub then bit1 o.num.neg? * 2 ^ (f32.eb + f32.mb)
      else (f32.encode rm sat o.num).bits) < 2 ^ 32
    split
    · have := bit1_le o.num.neg?
      dsimp only [f32]
      omega
    · exact f32_encode_lt rm sat o.num

/-- A conversion to BIT1 writes 0 or 1. -/
theorem putPlain_bit (rm : Rm) (sat subn : Bool) (o : Out) : (putPlain 0x1C rm sat subn o).bits ≤ 1 := by
  unfold putPlain
  split
  · decide
  · exact bit1_le _

/-- What a conversion writes does not depend on where a NaN came from, nor on what a trap record says of the operands. -/
theorem putPlain_bits_congr (f : Nat) (rm : Rm) (sat subn : Bool) {o p : Out} (hn : o.num = p.num) (hb : o.bad = p.bad) :
    (putPlain f rm sat subn o).bits = (putPlain f rm sat subn p).bits := by
  unfold putPlain
  rw [hn, hb]
  split
  · rfl
  · split
    · extract_lets rm' e flush bits cause p1 cause2 p2
      split <;> rfl
    · split <;> rfl

/-! ## Digits -/

/-- A number made of digits of w bits. -/
def digitSum (w : Nat) (a : Nat → Nat) (n : Nat) : Nat :=
  (List.range n).foldl (fun (acc : Nat) i => acc + a i % 2 ^ w * 2 ^ (w * i)) 0

theorem digitSum_succ (w : Nat) (a : Nat → Nat) (n : Nat) : digitSum w a (n + 1) = digitSum w a n + a n % 2 ^ w * 2 ^ (w * n) := by
  unfold digitSum
  rw [List.range_succ, List.foldl_append]
  rfl

theorem digitSum_lt (w : Nat) (a : Nat → Nat) (n : Nat) : digitSum w a n < 2 ^ (w * n) := by
  induction n with
  | zero => exact Nat.one_pos
  | succ n ih =>
    have hdigit : a n % 2 ^ w < 2 ^ w := Nat.mod_lt _ (Nat.two_pow_pos w)
    rw [digitSum_succ]
    calc digitSum w a n + a n % 2 ^ w * 2 ^ (w * n) < 2 ^ (w * n) + a n % 2 ^ w * 2 ^ (w * n) := Nat.add_lt_add_right ih _
      _ = (a n % 2 ^ w + 1) * 2 ^ (w * n) := by ring
      _ ≤ 2 ^ w * 2 ^ (w * n) := Nat.mul_le_mul_right _ hdigit
      _ = 2 ^ (w * (n + 1)) := by rw [← Nat.pow_add]; congr 1; ring

/-- Its digits are those it was made of, whatever stands above them. -/
theorem digit_of_sum (w : Nat) (a : Nat → Nat) {n i : Nat} (hi : i < n) (r : Nat) :
    (digitSum w a n + r * 2 ^ (w * n)) / 2 ^ (w * i) % 2 ^ w = a i % 2 ^ w := by
  induction n generalizing r with
  | zero => omega
  | succ n ih =>
    have hsplit : digitSum w a (n + 1) + r * 2 ^ (w * (n + 1)) = digitSum w a n + (a n % 2 ^ w + r * 2 ^ w) * 2 ^ (w * n) := by
      rw [digitSum_succ, Nat.mul_succ, Nat.pow_add]
      ring
    rw [hsplit]
    by_cases h : i = n
    · subst h
      rw [Nat.add_mul_div_right _ _ (Nat.two_pow_pos _), Nat.div_eq_of_lt (digitSum_lt w a i), Nat.zero_add, Nat.add_mul_mod_self_right,
        Nat.mod_mod]
    · exact ih (by omega) _

/-- A number read from some of its bytes. -/
theorem leNat_ofNat (x n : Nat) : leNat ((List.range n).map (fun j => BitVec.ofNat 8 (x / 2 ^ (8 * j)))) = x % 2 ^ (8 * n) := by
  induction n generalizing x with
  | zero => simp [leNat, Nat.mod_one]
  | succ n ih =>
    have htail : (List.range n).map (fun j => BitVec.ofNat 8 (x / 2 ^ (8 * (j + 1)))) =
        (List.range n).map (fun j => BitVec.ofNat 8 (x / 256 / 2 ^ (8 * j))) := by
      refine List.map_congr_left (fun j _ => ?_)
      rw [Nat.div_div_eq_div_mul, show 8 * (j + 1) = 8 + 8 * j by ring, Nat.pow_add]
    rw [List.range_succ_eq_map, List.map_cons, List.map_map, leNat, Function.comp_def]
    simp only [Nat.succ_eq_add_one]
    rw [htail, ih, BitVec.toNat_ofNat, Nat.mul_zero, Nat.pow_zero, Nat.div_one, show 8 * (n + 1) = 8 + 8 * n by ring, Nat.pow_add,
      Nat.mod_mul]

end Sys2Proof.Machine
end

section
/-! SUPPORT. What stands in a one-dimensional destination once it is stored, and an operand read at an index (R120 to R125, R141, R262). -/

namespace Sys2Proof.Machine

set_option Elab.async false

/-! ## One row of plain elements -/

theorem getD_range {n i : Nat} (h : i < n) : (List.range n).getD i 0 = i := by
  rw [List.getD_eq_getElem?_getD, List.getElem?_range h]
  rfl

theorem getD_map_lt {α β : Type} (l : List α) (g : α → β) {i : Nat} (h : i < l.length) (x : α) (y : β) : (l.map g).getD i y = g (l.getD i x) := by
  rw [List.getD_eq_getElem?_getD, List.getD_eq_getElem?_getD, List.getElem?_map, List.getElem?_eq_getElem h]
  rfl

/-- The bytes of a row's elements from the first on: a number whose digits are the elements (R123). -/
theorem rowImage_digits (f : Nat) (ps : List Put) (old : Nat → Nat → List Byte) : ∃ v,
    (∀ k, k < (rowImage f 0 ps ps.length old).2.length → ((rowImage f 0 ps ps.length old).2.getD k (0, false)).1 = BitVec.ofNat 8 (v / 2 ^ (8 * k))) ∧
    ∀ i, i < ps.length → v / 2 ^ (fmtBits f * i) % 2 ^ fmtBits f = (ps.getD i { bits := 0 }).bits % 2 ^ fmtBits f := by
  let total := fmtBits f * ps.length
  let was := if fmtBits f * 0 % 8 = 0 ∧ total % 8 = 0 then 0 else leNat (old (fmtBits f * 0 / 8) (ceilDiv (fmtBits f * 0 % 8 + total) 8))
  let sum := digitSum (fmtBits f) (fun i => (ps.getD i { bits := 0 }).bits) ps.length
  let off := fmtBits f * 0 % 8
  have hoff : off = 0 := by unfold off; rw [Nat.mul_zero]
  refine ⟨was % 2 ^ off + sum * 2 ^ off + was / 2 ^ (off + total) * 2 ^ (off + total), fun k hk => ?_, fun i hi => ?_⟩
  · have hlen := rowImage_length f 0 ps ps.length old
    rw [hlen] at hk
    show (((List.range (ceilDiv (off + total) 8)).map (fun k => ((leBytes (ceilDiv (off + total) 8)
      (was % 2 ^ off + sum * 2 ^ off + was / 2 ^ (off + total) * 2 ^ (off + total))).getD k 0, _))).getD k (0, false)).1 = _
    rw [getD_map_lt _ _ (by rw [List.length_range]; exact hk) 0, getD_range hk]
    exact getD_leBytes _ _ _ hk
  · rw [hoff, Nat.pow_zero, Nat.mod_one, Nat.mul_one, Nat.zero_add, Nat.zero_add]
    exact digit_of_sum _ _ hi _

section
variable {c : Cell} {d : Desc} {s : State}

theorem extent_flat (h : d.ndim = 1) {k : Nat} (hk : 1 ≤ k) : d.extent k = 1 := if_pos (by omega)

theorem rows_flat (h : d.ndim = 1) : d.rows = 1 := by
  unfold Desc.rows
  rw [extent_flat h (by decide), extent_flat h (by decide), extent_flat h (by decide), extent_flat h (by decide)]

theorem unrank_zero (l : List Nat) : unrank l 0 = List.replicate l.length 0 := by
  induction l with
  | nil => rfl
  | cons e l ih =>
    show 0 % e :: unrank l (0 / e) = _
    rw [Nat.zero_mod, Nat.zero_div, ih]
    rfl

theorem row_zero (d : Desc) : unrank (d.extents.drop 1) 0 = [0, 0, 0, 0] := unrank_zero _

/-- A destination of one row. -/
theorem storeAll_flat (h : d.rows = 1) (rm : Nat → Rm) (sat subn : Bool) (f : List Nat → Out) : (s.storeAll d rm sat subn f).1 =
    (s.storeRow d rm sat subn 0 0 [0, 0, 0, 0] ((List.range (d.extent 0)).map (fun i => f [i, 0, 0, 0, 0]))).1 := by
  unfold State.storeAll
  rw [h, List.range_one, List.foldl_cons, List.foldl_nil, row_zero]

theorem rowAddr_zero (d : Desc) : d.rowAddr [0, 0, 0, 0, 0] = d.base := by
  simp [Desc.rowAddr, List.range_succ]

theorem putRow_getD {f : Nat} (hf : fmtMx f = false) (rm : Rm) (sat subn : Bool) (l : List Out) {i : Nat} (hi : i < l.length) :
    (putRow f (fun _ => rm) sat subn 0 0 l).getD i { bits := 0 } = putPlain f rm sat subn (l.getD i ⟨.fin false 0 0, 0, false, 0, 0⟩) := by
  unfold putRow
  rw [hf, if_neg Bool.false_ne_true, getD_map_lt _ _ (by rw [List.length_range]; exact hi) 0, getD_range hi]

/-- A destination of one row of plain elements, stored: a number whose digits are its elements (R120, R123). -/
theorem storeAll_digits (hd : Dest c d) (h : Ready c s) (hn : d.rows = 1) (hf : fmtMx d.fmt = false) (hx : d.fmt ≠ 0x01) (rm : Rm)
    (sat subn : Bool) (f : List Nat → Out) : ∃ v,
    (∀ k, k < d.rowBytes → (s.storeAll d (fun _ => rm) sat subn f).1.mem.byte (d.base + k) = BitVec.ofNat 8 (v / 2 ^ (8 * k))) ∧
    ∀ i, i < d.extent 0 → v / 2 ^ (fmtBits d.fmt * i) % 2 ^ fmtBits d.fmt =
      (putPlain d.fmt rm sat subn (f [i, 0, 0, 0, 0])).bits % 2 ^ fmtBits d.fmt := by
  let outs := (List.range (d.extent 0)).map (fun i => f [i, 0, 0, 0, 0])
  let ps := putRow d.fmt (fun _ => rm) sat subn 0 0 outs
  have hlen : ps.length = d.extent 0 := by
    unfold ps outs
    rw [putRow_length, List.length_map, List.length_range]
  have hcount : d.putCount 0 ps.length = ps.length := by
    unfold Desc.putCount
    rw [hf]
    rfl
  have hbytes : d.rowBytes = ceilDiv (fmtBits d.fmt * d.extent 0) 8 := by
    unfold Desc.rowBytes
    rw [hf, if_neg Bool.false_ne_true, Nat.mul_comm]
  have hrow : d.InRow [0, 0, 0, 0] := row_zero d ▸ inRow_unrank d 0
  have hstore : (s.storeAll d (fun _ => rm) sat subn f).1 = (s.putImage d [0, 0, 0, 0] 0 ps).1 := by
    rw [storeAll_flat hn, storeRow_fst, writePuts_fst, hf, if_neg Bool.false_ne_true, if_neg hx]
  obtain ⟨v, hv, hdigit⟩ := rowImage_digits d.fmt ps (fun o n => (s.readBytes (d.rowAddr [0, 0, 0, 0, 0] + o) n).bytes)
  have himg : s.rowImage d [0, 0, 0, 0] 0 ps = rowImage d.fmt 0 ps ps.length (fun o n => (s.readBytes (d.rowAddr [0, 0, 0, 0, 0] + o) n).bytes) := by
    unfold State.rowImage
    rw [hcount]
  have hsize : (s.rowImage d [0, 0, 0, 0] 0 ps).2.length = d.rowBytes := by
    rw [himg, rowImage_length, hbytes, hlen, Nat.mul_zero, Nat.zero_mod, Nat.zero_add]
  have hfirst : d.rowAddr [0, 0, 0, 0, 0] + (s.rowImage d [0, 0, 0, 0] 0 ps).1 = d.base := by
    rw [himg, rowImage_fst, rowAddr_zero, Nat.mul_zero, Nat.zero_div, Nat.add_zero]
  have hput : Puts c (imageAt d.base (s.rowImage d [0, 0, 0, 0] 0 ps).2) (Span (d.base, d.rowBytes)) s (s.putImage d [0, 0, 0, 0] 0 ps).1 := by
    unfold State.putImage
    rw [hfirst, ← hsize]
    refine writeMixed_puts h ?_ d.who d.cls
    rw [hsize]
    have hspan := row_mem_spans hd.plain hrow
    rw [rowAddr_zero] at hspan
    exact (hd.part hspan le_rfl le_rfl).1
  refine ⟨v, fun k hk => ?_, fun i hi => ?_⟩
  · rw [hstore, hput.stands (d.base + k) ⟨Nat.le_add_right _ _, Nat.add_lt_add_left hk _⟩]
    unfold imageAt
    rw [Nat.add_sub_cancel_left, himg]
    exact hv k (by rw [← himg, hsize]; exact hk)
  · rw [hdigit i (by rw [hlen]; exact hi), putRow_getD hf rm sat subn outs (by unfold outs; rw [List.length_map, List.length_range]; exact hi)]
    unfold outs
    rw [getD_map_lt _ _ (by rw [List.length_range]; exact hi) 0, getD_range hi]

/-- An element of 32 bits of such a destination. -/
theorem storeAll_word (hd : Dest c d) (h : Ready c s) (hn : d.rows = 1) (hf : d.fmt = 0x00 ∨ d.fmt = 0x0B) (rm : Rm) (sat subn : Bool)
    (f : List Nat → Out) {i : Nat} (hi : i < d.extent 0) : leNat ((s.storeAll d (fun _ => rm) sat subn f).1.mem.raw (d.base + 4 * i) 4) =
    (putPlain d.fmt rm sat subn (f [i, 0, 0, 0, 0])).bits % 2 ^ 32 := by
  have hbits : fmtBits d.fmt = 32 := by rcases hf with e | e <;> rw [e] <;> decide
  have hmx : fmtMx d.fmt = false := by rcases hf with e | e <;> rw [e] <;> decide
  have hbytes : d.rowBytes = 4 * d.extent 0 := by
    unfold Desc.rowBytes ceilDiv
    rw [hmx, if_neg Bool.false_ne_true, hbits]
    omega
  obtain ⟨v, hv, hdigit⟩ := storeAll_digits hd h hn hmx (by rcases hf with e | e <;> rw [e] <;> decide) rm sat subn f
  have hraw : (s.storeAll d (fun _ => rm) sat subn f).1.mem.raw (d.base + 4 * i) 4 =
      (List.range 4).map (fun j => BitVec.ofNat 8 (v / 2 ^ (32 * i) / 2 ^ (8 * j))) := by
    refine List.map_congr_left (fun j hj => ?_)
    have := List.mem_range.mp hj
    rw [Nat.add_assoc, hv _ (by omega), Nat.div_div_eq_div_mul, ← Nat.pow_add]
    congr 4
    omega
  rw [hraw, leNat_ofNat]
  have := hdigit i hi
  rw [hbits] at this
  exact this

/-- An element of one bit of such a destination. -/
theorem storeAll_bit (hd : Dest c d) (h : Ready c s) (hn : d.rows = 1) (hf : d.fmt = 0x1C) (rm : Rm) (sat subn : Bool)
    (f : List Nat → Out) {i : Nat} (hi : i < d.extent 0) :
    ((s.storeAll d (fun _ => rm) sat subn f).1.mem.byte (d.base + i / 8)).getLsbD (i % 8) =
      decide ((putPlain d.fmt rm sat subn (f [i, 0, 0, 0, 0])).bits = 1) := by
  have hbits : fmtBits d.fmt = 1 := by rw [hf]; decide
  have hmx : fmtMx d.fmt = false := by rw [hf]; decide
  have hbytes : d.rowBytes = ceilDiv (d.extent 0) 8 := by
    unfold Desc.rowBytes
    rw [hmx, if_neg Bool.false_ne_true, hbits, Nat.mul_one]
  obtain ⟨v, hv, hdigit⟩ := storeAll_digits hd h hn hmx (by rw [hf]; decide) rm sat subn f
  have hle : (putPlain d.fmt rm sat subn (f [i, 0, 0, 0, 0])).bits ≤ 1 := by
    rw [hf]
    exact putPlain_bit _ _ _ _
  have hbit := hdigit i hi
  rw [hbits, Nat.one_mul, Nat.pow_one, Nat.mod_eq_of_lt (Nat.lt_succ_of_le hle)] at hbit
  rw [hv _ (by rw [hbytes]; unfold ceilDiv; omega), BitVec.getLsbD_ofNat, decide_eq_true (Nat.mod_lt i (by decide)), Bool.true_and,
    Nat.testBit_div_two_pow, Nat.mod_add_div, Nat.testBit_eq_decide_div_mod_eq, hbit]

end

end Sys2Proof.Machine
end

section
/-! SUPPORT. An operand read at an index of a row, the random words of an element, and the end of an engine instruction (R120 to R125, R141,
R211, R250, R262, R298). -/

namespace Sys2Proof.Machine

set_option Elab.async false

/-! ## Operands -/

/-- The row every one-dimensional tensor has lies within some extents. -/
def FirstRow (lim : List Nat) : Prop := rowWithin [0, 0, 0, 0] lim = true

theorem firstRow_of_pos {lim : List Nat} (h : ∀ k, k < 4 → 0 < lim.getD (k + 1) 1) : FirstRow lim :=
  List.all_eq_true.mpr (fun k hk => decide_eq_true (by
    have := List.mem_range.mp hk
    rw [show [0, 0, 0, 0].getD k 0 = 0 by interval_cases k <;> rfl]
    exact h k this))

theorem extents_getD (d : Desc) {k : Nat} (hk : k < 5) : d.extents.getD k 1 = d.extent k := by
  interval_cases k <;> rfl

theorem firstRow_extents (d : Desc) : FirstRow d.extents :=
  firstRow_of_pos (fun k hk => by
    rw [extents_getD d (by omega)]
    exact extent_pos d _)

theorem rank_first (e : List Nat) (i : Nat) (h : e ≠ []) : rank e [i, 0, 0, 0, 0] = i := by
  have hzero : ∀ (l : List Nat) (n : Nat), rank l (List.replicate n 0) = 0 := fun l n => by
    induction l generalizing n with
    | nil => rfl
    | cons e l ih => cases n with
      | zero => rfl
      | succ n =>
        show 0 + e * rank l (List.replicate n 0) = 0
        rw [ih]
        omega
  cases e with
  | nil => exact absurd rfl h
  | cons e l =>
    show i + e * rank l (List.replicate 4 0) = i
    rw [hzero]
    omega

theorem extents_ne_nil (d : Desc) : d.extents ≠ [] := List.cons_ne_nil _ _

section
variable {c : Cell} {s t : State}

theorem rows_pos (d : Desc) : 0 < d.rows := by
  rw [← rows_prod]
  exact List.prod_pos (extents_pos d 1)

/-- The first elements of a tensor are those of its first row. -/
theorem getElem?_flatMap_first {α : Type} {n e i : Nat} (F : Nat → Nat → α) (hn : 0 < n) (hi : i < e) :
    ((List.range n).flatMap (fun r => (List.range e).map (F r)))[i]? = some (F 0 i) := by
  obtain ⟨n, rfl⟩ := Nat.exists_eq_add_of_lt hn
  rw [Nat.zero_add, List.range_succ_eq_map, List.flatMap_cons, List.getElem?_append_left (by rw [List.length_map, List.length_range]; exact hi),
    List.getElem?_map, List.getElem?_range hi]
  rfl

/-- An element of the first row is read alike within any extents that hold it (R262). -/
theorem loadRawIn_first (s : State) (d : Desc) {lim lim' : List Nat} (h : FirstRow lim) (h' : FirstRow lim') {i : Nat} (hi : i < d.extent 0)
    (hl : i < lim.getD 0 1) (hl' : i < lim'.getD 0 1) : (s.loadRawIn d lim)[i]? = (s.loadRawIn d lim')[i]? := by
  have hrow : ∀ l, FirstRow l → (s.tensorRows d l).getD 0 [] =
      if d.compressed then ((if d.compressed then s.streamBytes d.base d.fmt d.bytes else []).drop (0 * d.rowBytes)).take d.rowBytes
      else s.byteList (d.rowAddr [0, 0, 0, 0, 0]) d.rowBytes := fun l hfirst => by
    unfold State.tensorRows
    dsimp only
    rw [getD_map_lt _ _ (by rw [List.length_range]; exact rows_pos d) 0, getD_range (rows_pos d), row_zero, hfirst, Bool.not_true,
      if_neg Bool.false_ne_true]
  unfold State.loadRawIn
  dsimp only
  rw [getElem?_flatMap_first _ (rows_pos d) hi, getElem?_flatMap_first _ (rows_pos d) hi, hrow lim h, hrow lim' h', row_zero, h, h',
    decide_eq_false (Nat.not_le.mpr hl), decide_eq_false (Nat.not_le.mpr hl')]

/-- An element of an operand depends on the elements of its first row only, for an index of the first row. -/
theorem at_first_congr {a b : Tens} {i : Nat} (he : a.ext = b.ext) (hne : a.ext ≠ [])
    (h : ∀ j, j ≤ i → j < a.ext.getD 0 1 → a.els[j]? = b.els[j]?) : a.at [i, 0, 0, 0, 0] = b.at [i, 0, 0, 0, 0] := by
  have hidx : (List.range 5).map (fun k => if a.ext.getD k 1 = 1 then 0 else [i, 0, 0, 0, 0].getD k 0) =
      [if a.ext.getD 0 1 = 1 then 0 else i, 0, 0, 0, 0] := by
    show [if a.ext.getD 0 1 = 1 then 0 else i, if a.ext.getD 1 1 = 1 then 0 else 0, if a.ext.getD 2 1 = 1 then 0 else 0,
      if a.ext.getD 3 1 = 1 then 0 else 0, if a.ext.getD 4 1 = 1 then 0 else 0] = _
    simp only [ite_self]
  have hle : (if a.ext.getD 0 1 = 1 then 0 else i) ≤ i := by split <;> omega
  unfold Tens.at
  rw [← he, hidx]
  generalize (if a.ext.getD 0 1 = 1 then 0 else i) = j at hle
  dsimp only
  by_cases hin : j < a.ext.getD 0 1
  · rw [rank_first _ _ hne, List.getD_eq_getElem?_getD, List.getD_eq_getElem?_getD, h j hle hin]
  · have hout : (List.range 5).any (fun k => decide (a.ext.getD k 1 ≤ [j, 0, 0, 0, 0].getD k 0)) = true :=
      List.any_eq_true.mpr ⟨0, by decide, decide_eq_true (Nat.not_lt.mp hin)⟩
    rw [if_pos hout, if_pos hout]

/-- An operand read within some extents, as one read whole (R262). -/
theorem loadIn_at (s : State) (subn : Bool) (d : Desc) {lim : List Nat} (h : FirstRow lim) {i : Nat} (hl : i < lim.getD 0 1) :
    (⟨d.extents, (s.loadRawIn d lim).map (readEl subn d.fmt)⟩ : Tens).at [i, 0, 0, 0, 0] = (s.load subn d).at [i, 0, 0, 0, 0] := by
  refine at_first_congr rfl (extents_ne_nil d) (fun j hj hlt => ?_)
  replace hlt : j < d.extent 0 := hlt
  show ((s.loadRawIn d lim).map _)[j]? = ((s.loadRawIn d d.extents).map _)[j]?
  rw [List.getElem?_map, List.getElem?_map, loadRawIn_first s d h (firstRow_extents d) hlt (by omega) hlt]

theorem loadFor_at (s : State) (subn : Bool) (dest d : Desc) {i : Nat} (h : i < dest.extent 0) :
    (s.loadFor subn dest d).at [i, 0, 0, 0, 0] = (s.load subn d).at [i, 0, 0, 0, 0] :=
  loadIn_at s subn d (firstRow_extents dest) h

/-! ## Random words -/

theorem rngWords_congr {x : Executor} (hctx : (t.exe x).ctx = (s.exe x).ctx) (hreg : ∀ i, (t.exe x).reg i = (s.exe x).reg i) (w : W128)
    (j : Nat) : t.rngWords x w j = s.rngWords x w j := by
  unfold State.rngWords State.sreg
  simp only [hctx, hreg]

theorem Wrote.rngWords {P : Nat → Prop} (h : Wrote c P s t) (x : Executor) (w : W128) (j : Nat) : t.rngWords x w j = s.rngWords x w j :=
  rngWords_congr (congrArg Exec.ctx (h.exe x) :) (fun i => (congrArg (Exec.reg · i) (h.exe x) :)) w j

theorem Started.rngWords {v : State} (h : Started c s v) (w : W128) (j : Nat) : v.rngWords (.cell c) w j = s.rngWords (.cell c) w j := by
  obtain ⟨l, hl⟩ := h.exe
  exact rngWords_congr (by rw [hl]) (fun i => by rw [hl]; rfl) w j

/-! ## The end of an engine instruction -/

theorem flushed_mem (s : State) (x : Executor) (b : Bool) : (s.flushed x b).mem = s.mem := by
  unfold State.flushed State.iff
  split <;> rfl

/-- Two flights of one instruction. -/
def SameOp (g f : Flight) : Prop := g.q = f.q ∧ g.cls = f.cls ∧ g.op = f.op ∧ g.tokOut = f.tokOut ∧ g.both = f.both

/-- The end of an engine instruction whose results stand (R211, R250). -/
theorem Wrote.ended {dests : List Desc} {v u : State} (h : Wrote c (Within dests) v u) {f g : Flight} (hg : SameOp g f) {more : Mem → Prop}
    (hm : more u.mem) (st : Stored) (o : Outc) (count tiles : Nat) :
    Effect c dests count more v f (u.engineEnd c g st o count tiles) := by
  obtain ⟨hq, hcls, hop, htok, hboth⟩ := hg
  refine ⟨h.trans (flushed_wrote h.ready _ _).anywhere, ⟨hq, hcls, hop, htok, hboth, rfl⟩, ?_⟩
  show more (u.flushed (.cell c) st.flushed).mem
  rw [flushed_mem]
  exact hm

/-- The FP32, BIT1 and INT32 elements a one-dimensional destination holds (R120, R123). -/
structure Stands (d : Desc) (rm : Rm) (sat subn : Bool) (g : Nat → Out) (m : Mem) : Prop where
  word : d.fmt = 0 → d.ndim = 1 → ∀ i : Nat, i < d.extent 0 → leNat (m.raw (d.base + 4 * i) 4) = (putPlain 0 rm sat subn (g i)).bits
  bit : d.fmt = 0x1C → d.ndim = 1 → ∀ i : Nat, i < d.extent 0 →
    (m.byte (d.base + i / 8)).getLsbD (i % 8) = decide ((putPlain 0x1C rm sat subn (g i)).bits = 1)
  int : d.fmt = 0x0B → d.ndim = 1 → ∀ i : Nat, i < d.extent 0 →
    leNat (m.raw (d.base + 4 * i) 4) = (putPlain 0x0B rm sat subn (g i)).bits % 2 ^ 32

theorem storeAll_stands {d : Desc} (hd : Dest c d) (h : Ready c s) (rm : Rm) (sat subn : Bool) {f : List Nat → Out} {g : Nat → Out}
    (hg : ∀ i, i < d.extent 0 → (f [i, 0, 0, 0, 0]).num = (g i).num ∧ (f [i, 0, 0, 0, 0]).bad = (g i).bad) :
    Stands d rm sat subn g (s.storeAll d (fun _ => rm) sat subn f).1.mem := by
  have hbits : ∀ k i, i < d.extent 0 → (putPlain k rm sat subn (f [i, 0, 0, 0, 0])).bits = (putPlain k rm sat subn (g i)).bits :=
    fun k i hi => putPlain_bits_congr k rm sat subn (hg i hi).1 (hg i hi).2
  refine ⟨fun hf hn i hi => ?_, fun hf hn i hi => ?_, fun hf hn i hi => ?_⟩
  · rw [storeAll_word hd h (rows_flat hn) (.inl hf) rm sat subn f hi, hf, hbits 0 i hi]
    exact Nat.mod_eq_of_lt (putPlain_fp32_lt _ _ _ _)
  · rw [storeAll_bit hd h (rows_flat hn) hf rm sat subn f hi, hf, hbits _ i hi]
  · rw [storeAll_word hd h (rows_flat hn) (.inr hf) rm sat subn f hi, hf, hbits _ i hi]

/-- An instruction that writes one destination from a function of the index (R262). -/
theorem stored_effect {d : Desc} (hd : Dest c d) {v u : State} (h : Wrote c nowhere v u) {f g : Flight} (hg : SameOp g f) (rm : Rm)
    (sat subn : Bool) {out : List Nat → Out} {el : Nat → Out}
    (hout : ∀ i, i < d.extent 0 → (out [i, 0, 0, 0, 0]).num = (el i).num ∧ (out [i, 0, 0, 0, 0]).bad = (el i).bad)
    (st : Stored) (o : Outc) (count tiles : Nat) :
    Effect c [d] count (Stands d rm sat subn el) v f ((u.storeAll d (fun _ => rm) sat subn out).1.engineEnd c g st o count tiles) :=
  (h.anywhere.trans ((storeAll_wrote hd h.ready _ sat subn out).within List.mem_cons_self)).ended hg (storeAll_stands hd h.ready rm sat subn hout)
    st o count tiles

/-! ## Legal words and free engines -/

/-- A legal tensor word of a class that rounds, in a cell (R208, R259). -/
theorem legal_word {w : W128} {cls op : Nat} (hc : fCls w = cls) (ho : fOp w = op) {r : OpRow} (hr : opRow cls op = some r) (hcell : r.cell = true)
    (hround : classRounds cls = true) (hpred : wf w 110 4 ≠ 8) (hrm : rmBad w = false) {n : Need} (hmore : n.more = 0)
    (hrsvd : n.rsvd = false) (hbad : n.bad = false) (hds : ∀ i ∈ n.descs, DescOk s (.cell c) i) :
    illegalDetail (s.exe (.cell c)) (.cell c) w n = 0 := by
  have hmem : r ∈ opMap := List.mem_of_find?_eq_some hr
  have hcls : r.cls = cls := by
    have := List.find?_some hr
    simp only [Bool.and_eq_true, beq_iff_eq] at this
    exact this.1
  have hruns : opMap.any (fun r => r.cls == cls && r.cell) = true :=
    List.any_eq_true.mpr ⟨r, hmem, by rw [hcls, hcell, beq_self_eq_true]; rfl⟩
  have hlow : ¬ 0xD ≤ cls := by
    intro h
    revert hround
    unfold classRounds
    simp only [List.contains_eq_mem, decide_eq_true_eq]
    intro hm
    simp only [List.mem_cons, List.not_mem_nil, or_false] at hm
    omega
  have hnone : ∀ p : Nat × Desc → Bool, (∀ i ∈ n.descs, p (i, (s.exe (.cell c)).descr i) = false) →
      (n.descs.map (fun i => (i, (s.exe (.cell c)).descr i))).any p = false := fun p hp => by
    rw [List.any_map, List.any_eq_false]
    intro i hi
    rw [Function.comp_apply, hp i hi]
    exact Bool.false_ne_true
  unfold illegalDetail
  rw [hc, ho]
  dsimp only [Executor.isCell]
  rw [hr, if_neg (by rw [hmore]; decide), if_neg hlow]
  dsimp only
  simp only [if_true]
  rw [hcell]
  rw [hruns, hrsvd, hround, hrm, hbad, hmore, if_neg hpred]
  rw [hnone (fun p => decide (255 < p.1) || !p.2.valid) (fun i hi => ?_), hnone (fun p => p.2.broken) (fun i hi => ?_),
    hnone (fun p => p.2.badTile) (fun i hi => ?_)]
  · simp
  · obtain ⟨-, -, -, htile⟩ := hds i hi
    exact htile
  · obtain ⟨-, -, hbroken, -⟩ := hds i hi
    exact hbroken
  · obtain ⟨hle, hvalid, -, -⟩ := hds i hi
    dsimp only
    rw [decide_eq_false (by omega), show ((s.exe (.cell c)).descr i).valid = true from hvalid]
    rfl

theorem EngineGoing.subset {w : W128} {ds es : List Desc} (h : EngineGoing s c w false ds) (hs : ∀ d ∈ es, d ∈ ds) :
    EngineGoing s c w false es := by
  obtain ⟨hgo, hf, hd⟩ := h
  exact ⟨hgo, hf, fun d he => hd d (hs d he)⟩

theorem EngineGoing.dest {w : W128} {ds : List Desc} (h : EngineGoing s c w false ds) {d : Desc} (hd : d ∈ ds) (hp : d.compressed = false) :
    Dest c d := ⟨hp, h.inReach hd⟩

end

end Sys2Proof.Machine
end

section
/-! SUPPORT. VEC: what its operands are, what it writes, and how it joins the vector queue (R262, R286 to R289, R635). -/

namespace Sys2Proof.Machine

set_option Elab.async false

/-- The operands of a VEC as it reads them: over the extents of its destination, for RED all of A's dimension 0 (R262, R287). -/
def vecTens (op : Nat) (x : Executor) (w : W128) (s : State) (k : Nat) : Tens :=
  ⟨(s.descr x k).extents, (s.loadRawIn (s.descr x k) (vecLim op (s.descr x (fD w)).plain (s.descr x (fA w)))).map
    (readEl (s.subn x) (s.descr x k).fmt)⟩

/-- The operands of a VEC. -/
def vecIn (op : Nat) (x : Executor) (w : W128) (s : State) : VecIn where
  a := vecTens op x w s (fA w)
  b := if !vecUsesB op then ⟨[], []⟩ else if vImmB w then immTens (s.subn x) w else vecTens op x w s (fB w)
  c := if vecUsesC op then vecTens op x w s (fC w) else ⟨[], []⟩

/-- The format a VEC computes in (R174). -/
def vecWide (op : Nat) (x : Executor) (w : W128) (s : State) : FFmt :=
  widest ((((vecDescs op x w s).1 ++ (vecDescs op x w s).2.1).map (·.fmt)).filter fmtArith)

/-- The results of a VEC stored. -/
def vecStored (op : Nat) (x : Executor) (w : W128) (c : Cell) (s : State) : State × Stored :=
  (s.logAbandoned c (vecDescs op x w s).2.1).elementwise (s.subn x) (s.descr x (fD w)).plain (vecDescs op x w s).2.2 (fRm w) (fSAT w)
    (vecFn op w (vecWide op x w s) (vecIn op x w s))

theorem vecEff_eq (op : Nat) (x : Executor) (w : W128) (c : Cell) (s : State) (f : Flight) : vecEff op x w c s f =
    (vecStored op x w c s).1.engineEnd c { f with resid := (vecDescs op x w s).2.2.toList.flatMap Desc.spans }
      { (vecStored op x w c s).2 with
        flushed := (vecStored op x w c s).2.flushed || (vecIn op x w s).a.flushed || (vecIn op x w s).b.flushed || (vecIn op x w s).c.flushed }
      (0, 0) (s.descr x (fD w)).plain.count 1 := rfl

theorem sameOp_resid (f : Flight) (l : List (Nat × Nat)) : SameOp { f with resid := l } f := ⟨rfl, rfl, rfl, rfl, rfl⟩

section
variable {c : Cell} {s v : State} {w : W128} {op : Nat}

theorem vecDescs_congr {x : Executor} (h : ∀ i, v.descr x i = s.descr x i) : vecDescs op x w v = vecDescs op x w s := by
  unfold vecDescs
  simp only [h]

theorem Started.vecIn (h : Started c s v) : vecIn op (.cell c) w v = vecIn op (.cell c) w s := by
  unfold Machine.vecIn vecTens
  simp only [h.descr, h.view.loadRawIn, h.view.subn]

/-- What a VEC computes, from the state it was dispatched in. -/
theorem Started.vecStored (h : Started c s v) : vecStored op (.cell c) w c v =
    (v.logAbandoned c (vecDescs op (.cell c) w s).2.1).elementwise (s.subn (.cell c)) (s.descr (.cell c) (fD w)).plain
      (vecDescs op (.cell c) w s).2.2 (fRm w) (fSAT w) (vecFn op w (vecWide op (.cell c) w s) (Machine.vecIn op (.cell c) w s)) := by
  unfold Machine.vecStored vecWide
  rw [h.vecIn, h.descr, h.view.subn, vecDescs_congr h.descr]

/-- A VEC at dispatch (R260, R286). -/
theorem vecRun_dispatched (hb : vBsu w = false) : ∃ lim fits, vecRun op (.cell c) w (s.dispatched c w) =
    engine (.cell c) w .vector (some (fD w)) false (s.dispatched c w) (vecDescs op (.cell c) w s).1 (vecDescs op (.cell c) w s).2.1
      (vecEff op (.cell c) w) lim fits := by
  have hrun : vecRun op (.cell c) w (s.dispatched c w) = engine (.cell c) w .vector (some (fD w)) (vBsu w) (s.dispatched c w)
    (vecDescs op (.cell c) w (s.dispatched c w)).1 (vecDescs op (.cell c) w (s.dispatched c w)).2.1 (vecEff op (.cell c) w)
    (some (vecLim op ((s.dispatched c w).descr (.cell c) (fD w)) ((s.dispatched c w).descr (.cell c) (fA w))))
    (vBsu w && vecFits op (.cell c) w (s.dispatched c w)) := rfl
  rw [hrun, hb, vecDescs_congr (op := op) (w := w) (dispatched_descr s c w)]
  exact ⟨_, _, rfl⟩

theorem vecDescs_plain (hr : vRes w = false) : (vecDescs op (.cell c) w s).1 = [(s.descr (.cell c) (fD w)).plain] ∧
    (vecDescs op (.cell c) w s).2.2 = none := by
  unfold vecDescs
  rw [hr]
  exact ⟨rfl, rfl⟩

theorem vecDescs_residual (hr : vRes w = true) : (vecDescs op (.cell c) w s).1 =
    [(s.descr (.cell c) (fD w)).plain, (s.descr (.cell c) (fC w)).plain] ∧
    (vecDescs op (.cell c) w s).2.2 = some (s.descr (.cell c) (fC w)).plain := by
  unfold vecDescs
  rw [hr]
  exact ⟨rfl, rfl⟩

/-! ## Operands at an index -/

theorem vecLim_reads (op : Nat) (d a : Desc) {i : Nat} (hi : i < if op = 5 then a.extent 0 else d.extent 0) :
    FirstRow (vecLim op d a) ∧ i < (vecLim op d a).getD 0 1 := by
  have hset : setAt d.extents 0 (a.extent 0) = [a.extent 0, d.extent 1, d.extent 2, d.extent 3, d.extent 4] := rfl
  unfold vecLim
  split
  · next h5 =>
    rw [if_pos h5] at hi
    rw [hset]
    refine ⟨firstRow_of_pos (fun k hk => ?_), hi⟩
    rw [show [a.extent 0, d.extent 1, d.extent 2, d.extent 3, d.extent 4].getD (k + 1) 1 = d.extent (k + 1) by interval_cases k <;> rfl]
    exact extent_pos d _
  · next h5 =>
    rw [if_neg h5] at hi
    exact ⟨firstRow_extents d, hi⟩

theorem vecTens_at (k : Nat) {i : Nat}
    (hi : i < if op = 5 then (s.descr (.cell c) (fA w)).extent 0 else (s.descr (.cell c) (fD w)).plain.extent 0) :
    (vecTens op (.cell c) w s k).at [i, 0, 0, 0, 0] = (s.load (s.subn (.cell c)) (s.descr (.cell c) k)).at [i, 0, 0, 0, 0] := by
  obtain ⟨hrow, hlt⟩ := vecLim_reads op (s.descr (.cell c) (fD w)).plain (s.descr (.cell c) (fA w)) hi
  exact loadIn_at s _ _ hrow hlt

/-- A residual and its narrow copy written (R176, R262). -/
theorem elementwise_residual_wrote {d cd : Desc} (hd : Dest c d) (hcd : Dest c cd) (h : Ready c s) (subn : Bool) (rm : Rm) (sat : Bool)
    (g : List Nat → Out) : Wrote c (Within [d, cd]) s (s.elementwise subn d (some cd) rm sat g).1 := by
  unfold State.elementwise
  dsimp only
  have hsum := storeAll_wrote hcd h (fun _ => rm) sat subn
  exact ((hsum _).within (List.mem_cons_of_mem _ List.mem_cons_self)).trans
    ((storeAll_wrote hd (hsum _).ready _ _ _ _).within List.mem_cons_self)

/-! ## The two forms of a VEC -/

variable (hp : PlainMemory s) (hoff : RingsOff s) (hc : fCls w = 3) (ho : fOp w = op) (hfe : frontEnd 3 op = false) (hb : vBsu w = false)
  {need : State → Need} (hlegal : illegalDetail (s.exe (.cell c)) (.cell c) w (need s) = 0) (hneed : need (s.startFclk c.region) = need s)
include hp hoff hc ho hfe hb hlegal hneed

/-- A VEC without a residual: D holds the function of its operands (R262, R286, R287). -/
theorem vec_plain (hr : vRes w = false)
    (hgo : EngineGoing s c w false ((s.descr (.cell c) (fD w)).plain :: (vecDescs op (.cell c) w s).2.1)) {g : Nat → Out}
    (hg : ∀ i, i < (s.descr (.cell c) (fD w)).plain.extent 0 →
      (vecFn op w (vecWide op (.cell c) w s) (vecIn op (.cell c) w s) [i, 0, 0, 0, 0]).num = (g i).num ∧
      (vecFn op w (vecWide op (.cell c) w s) (vecIn op (.cell c) w s) [i, 0, 0, 0, 0]).bad = (g i).bad) :
    ∃ t, issue 3 op (.cell c) w s need (vecRun op (.cell c) w) = .next t ∧
      Joined s t (.cell c) w .vector (s.descr (.cell c) (fD w)).plain.count ∧ TensorsBut s t [(s.descr (.cell c) (fD w)).plain] ∧
      Stands (s.descr (.cell c) (fD w)).plain (fRm w) (fSAT w) (s.subn (.cell c)) g t.mem := by
  obtain ⟨hdests, hres⟩ := vecDescs_plain (op := op) (c := c) (s := s) hr
  obtain ⟨lim, fits, hact⟩ := vecRun_dispatched (op := op) (c := c) (s := s) hb
  rw [hdests] at hact
  have hd : Dest c (s.descr (.cell c) (fD w)).plain := hgo.dest List.mem_cons_self rfl
  obtain ⟨t, hnext, hjoin, hbut, -, hstands⟩ := engine_settles hp hoff hgo (.inr rfl) hc ho hfe hlegal hneed hact
    (count := (s.descr (.cell c) (fD w)).plain.count) (more := Stands (s.descr (.cell c) (fD w)).plain (fRm w) (fSAT w) (s.subn (.cell c)) g)
    (fun v f hv => by
      rw [vecEff_eq, hv.vecStored, hv.descr, hres]
      exact stored_effect hd (logAbandoned_wrote hv.ready _) (sameOp_resid f _) (fRm w) (fSAT w) (s.subn (.cell c))
        hg _ _ _ _)
  exact ⟨t, hnext, hjoin, hbut, hstands⟩

/-- A VEC with a residual writes the sum and its narrow copy, and nothing else (R176, R262). -/
theorem vec_residual (hr : vRes w = true) (hgo : EngineGoing s c w false
      ([(s.descr (.cell c) (fD w)).plain, (s.descr (.cell c) (fC w)).plain] ++ (vecDescs op (.cell c) w s).2.1)) :
    ∃ t, issue 3 op (.cell c) w s need (vecRun op (.cell c) w) = .next t ∧
      Joined s t (.cell c) w .vector (s.descr (.cell c) (fD w)).plain.count ∧
      TensorsBut s t [(s.descr (.cell c) (fD w)).plain, (s.descr (.cell c) (fC w)).plain] := by
  obtain ⟨hdests, hres⟩ := vecDescs_residual (op := op) (c := c) (s := s) hr
  obtain ⟨lim, fits, hact⟩ := vecRun_dispatched (op := op) (c := c) (s := s) hb
  rw [hdests] at hact
  have hd : Dest c (s.descr (.cell c) (fD w)).plain := hgo.dest List.mem_cons_self rfl
  have hcd : Dest c (s.descr (.cell c) (fC w)).plain := hgo.dest (List.mem_cons_of_mem _ List.mem_cons_self) rfl
  obtain ⟨t, hnext, hjoin, hbut, -⟩ := engine_settles hp hoff hgo (.inr rfl) hc ho hfe hlegal hneed hact
    (count := (s.descr (.cell c) (fD w)).plain.count) (more := fun _ => True) (fun v f hv => by
      have hlog := logAbandoned_wrote hv.ready (vecDescs op (.cell c) w s).2.1
      rw [vecEff_eq, hv.vecStored, hv.descr, hres]
      exact (hlog.anywhere.trans (elementwise_residual_wrote hd hcd hlog.ready _ _ _ _)).ended (sameOp_resid f _) (more := fun _ => True)
        trivial _ _ _ _)
  exact ⟨t, hnext, hjoin, hbut⟩

end

end Sys2Proof.Machine
end

section
/-! SUPPORT. The element a VEC computes for an index, from its operands as they stood before (R262, R287, R635). -/

namespace Sys2Proof.Machine

set_option Elab.async false

section
variable {c : Cell} {s : State} {w : W128} {op i : Nat}

/-- Operand B of a VEC: the immediate, or the tensor B names (R286). -/
def vecB (c : Cell) (w : W128) (s : State) (i : Nat) : El :=
  (if vImmB w then immTens (s.subn (.cell c)) w else s.load (s.subn (.cell c)) (s.descr (.cell c) (fB w))).at [i, 0, 0, 0, 0]

theorem vecIn_a_at (h5 : op ≠ 5) (hi : i < (s.descr (.cell c) (fD w)).plain.extent 0) : (vecIn op (.cell c) w s).a.at [i, 0, 0, 0, 0] =
    (s.load (s.subn (.cell c)) (s.descr (.cell c) (fA w))).at [i, 0, 0, 0, 0] := vecTens_at _ (by rw [if_neg h5]; exact hi)

theorem vecIn_b_at (h5 : op ≠ 5) (hb : vecUsesB op = true) (hi : i < (s.descr (.cell c) (fD w)).plain.extent 0) :
    (vecIn op (.cell c) w s).b.at [i, 0, 0, 0, 0] = vecB c w s i := by
  have hin : (vecIn op (.cell c) w s).b = if vImmB w then immTens (s.subn (.cell c)) w else vecTens op (.cell c) w s (fB w) := by
    unfold vecIn
    rw [hb]
    rfl
  rw [hin]
  unfold vecB
  split
  · rfl
  · exact vecTens_at _ (by rw [if_neg h5]; exact hi)

theorem vecIn_c_at (h5 : op ≠ 5) (hc : vecUsesC op = true) (hi : i < (s.descr (.cell c) (fD w)).plain.extent 0) :
    (vecIn op (.cell c) w s).c.at [i, 0, 0, 0, 0] = (s.load (s.subn (.cell c)) (s.descr (.cell c) (fC w))).at [i, 0, 0, 0, 0] := by
  have hin : (vecIn op (.cell c) w s).c = vecTens op (.cell c) w s (fC w) := by
    unfold vecIn
    rw [hc]
    rfl
  rw [hin]
  exact vecTens_at _ (by rw [if_neg h5]; exact hi)

/-- The terms RED reduces: A's dimension 0 (R287). -/
theorem vecIn_red : (List.range ((vecIn 5 (.cell c) w s).a.ext.getD 0 1)).map (fun j => (vecIn 5 (.cell c) w s).a.at (setAt [i, 0, 0, 0, 0] 0 j)) =
    (List.range ((s.descr (.cell c) (fA w)).extent 0)).map (fun j =>
      (s.load (s.subn (.cell c)) (s.descr (.cell c) (fA w))).at [j, 0, 0, 0, 0]) :=
  List.map_congr_left (fun _ hj => vecTens_at _ (List.mem_range.mp hj))

variable {g : FFmt} {v : VecIn} {idx : List Nat}

theorem vecFn_un : vecFn 0 w g v idx = mkOut (unFn g (fRm w) (fSAT w) (vFn w) (g.step (fRm w) (fSAT w) (v.a.at idx).num)) [v.a.at idx] := rfl

theorem vecFn_bin : vecFn 1 w g v idx = mkOut (binFn g (fRm w) (fSAT w) (vFn w) (g.step (fRm w) (fSAT w) (v.a.at idx).num)
    (g.step (fRm w) (fSAT w) (v.b.at idx).num)) [v.a.at idx, v.b.at idx] := rfl

theorem vecFn_fma : vecFn 2 w g v idx = mkOut (g.step (fRm w) (fSAT w) (((g.step (fRm w) (fSAT w) (v.a.at idx).num).mul
    (g.step (fRm w) (fSAT w) (v.b.at idx).num)).add (g.step (fRm w) (fSAT w) (v.c.at idx).num))) [v.a.at idx, v.b.at idx, v.c.at idx] := rfl

theorem vecFn_cmp : vecFn 3 w g v idx = mkOut (cmpFn (vFn w) (g.step (fRm w) (fSAT w) (v.a.at idx).num)
    (g.step (fRm w) (fSAT w) (v.b.at idx).num)) [v.a.at idx, v.b.at idx] := rfl

theorem vecFn_sel : vecFn 4 w g v idx = { mkOut (g.step (fRm w) (fSAT w) (if (v.c.at idx).num.isZero then v.b.at idx else v.a.at idx).num)
    [v.a.at idx, v.b.at idx, v.c.at idx] with
      nanIn := (if (v.c.at idx).num.isZero then v.b.at idx else v.a.at idx).num.isNan } := rfl

theorem vecFn_red : vecFn 5 w g v idx = { mkOut (redFn g (fRm w) (fSAT w) (vFn w) (((List.range (v.a.ext.getD 0 1)).map
    (fun j => v.a.at (setAt idx 0 j))).map (fun e => g.step (fRm w) (fSAT w) e.num)))
    ((List.range (v.a.ext.getD 0 1)).map (fun j => v.a.at (setAt idx 0 j))) with b := 0 } := rfl

end

/-! ## The random words -/

theorem roundTo_self (rm : Rm) (m : Nat) : roundTo rm m 0 0 = m := by
  unfold roundTo
  rw [if_pos le_rfl]
  exact Nat.mul_one m

/-- An integer of 32 bits is written as it is read (R136). -/
theorem encodeInt_signedOf (rm : Rm) (x : Nat) : (encodeInt 32 rm (Num.ofInt (signedOf 32 x) 0)).bits = x % 2 ^ 32 := by
  have hlt : x % 2 ^ 32 < 2 ^ 32 := Nat.mod_lt _ (Nat.two_pow_pos 32)
  have hval : ∀ i : Int, (if decide (i < 0) = true then -((i.natAbs : Nat) : Int) else ((i.natAbs : Nat) : Int)) = i := fun i => by
    split
    · next h => have := of_decide_eq_true h; omega
    · next h => simp only [decide_eq_true_eq] at h; omega
  have hback : unsignedOf 32 (signedOf 32 x) = x % 2 ^ 32 := by
    unfold unsignedOf signedOf
    split <;> omega
  have hrange : -(2 ^ 31 : Int) ≤ signedOf 32 x ∧ signedOf 32 x ≤ 2 ^ 31 - 1 := by
    unfold signedOf
    split <;> omega
  have hnum : Num.ofInt (signedOf 32 x) 0 = .fin (decide (signedOf 32 x < 0)) (signedOf 32 x).natAbs 0 := by
    unfold Num.ofInt
    split
    · next h0 =>
      rw [h0]
      rfl
    · rfl
  rw [hnum]
  unfold encodeInt
  dsimp only
  rw [roundTo_self, hval, if_neg (by push_cast; omega), if_neg (by push_cast; omega)]
  exact hback

end Sys2Proof.Machine
end

section
/-! SUPPORT. CNV and RNG: what they write, and how they join the vector queue (R262, R296 to R298, R636). -/

namespace Sys2Proof.Machine

set_option Elab.async false

section
variable {c : Cell} {s v u : State} {w : W128}

theorem Started.subn_of {P : Nat → Prop} (h : Started c s v) (hw : Wrote c P v u) : u.subn (.cell c) = s.subn (.cell c) :=
  (hw.flds.flag (by decide) _ _).trans (h.view.subn _)

/-- An operand an instruction reads over its destination, at an index of the first row. -/
theorem Started.operand (h : Started c s v) (d a : Desc) {i : Nat} (hi : i < d.extent 0) :
    (v.loadFor (v.subn (.cell c)) d a).at [i, 0, 0, 0, 0] = (s.load (s.subn (.cell c)) a).at [i, 0, 0, 0, 0] := by
  rw [h.view.loadFor, h.view.subn, loadFor_at s _ d a hi]

/-- An instruction that writes one destination from a function of the index, its flush mode read as it stores. -/
theorem Started.stores (h : Started c s v) {d : Desc} (hd : Dest c d) (hw : Wrote c nowhere v u) (f : Flight) (rm : Rm) (sat : Bool)
    {out : List Nat → Out} {el : Nat → Out}
    (hout : ∀ i, i < d.extent 0 → (out [i, 0, 0, 0, 0]).num = (el i).num ∧ (out [i, 0, 0, 0, 0]).bad = (el i).bad)
    (st : Stored) (o : Outc) (count tiles : Nat) : Effect c [d] count (Stands d rm sat (s.subn (.cell c)) el) v f
      ((u.storeAll d (fun _ => rm) sat (u.subn (.cell c)) out).1.engineEnd c f st o count tiles) := by
  rw [h.subn_of hw]
  exact stored_effect hd hw ⟨rfl, rfl, rfl, rfl, rfl⟩ rm sat _ hout st o count tiles

/-- How an instruction of the vector engine with one destination acts, and what it leaves. -/
def Acts (s : State) (c : Cell) (w : W128) (act : State → Act) (d : Desc) (srcs : List Desc) (more : Mem → Prop) : Prop :=
  ∃ dest eff lim fits, act (s.dispatched c w) = engine (.cell c) w .vector dest false (s.dispatched c w) [d] srcs eff lim fits ∧
    ∀ v f, Started c s v → Effect c [d] d.count more v f (eff c v f)

theorem acts_settle (hp : PlainMemory s) (hoff : RingsOff s) {d : Desc} {srcs : List Desc} (hgo : EngineGoing s c w false (d :: srcs))
    {cls op : Nat} (hc : fCls w = cls) (ho : fOp w = op) (hfe : frontEnd cls op = false) {need : State → Need}
    (hlegal : illegalDetail (s.exe (.cell c)) (.cell c) w (need s) = 0) (hneed : need (s.startFclk c.region) = need s) {act : State → Act}
    {more : Mem → Prop} (hact : Acts s c w act d srcs more) : ∃ t, issue cls op (.cell c) w s need act = .next t ∧
      Joined s t (.cell c) w .vector d.count ∧ TensorsBut s t [d] ∧ more t.mem := by
  obtain ⟨dest, eff, lim, fits, hrun, heff⟩ := hact
  obtain ⟨t, hnext, hjoin, hbut, -, hmore⟩ := engine_settles (dests := [d]) hp hoff hgo (.inr rfl) hc ho hfe hlegal hneed hrun heff
  exact ⟨t, hnext, hjoin, hbut, hmore⟩

/-- An element of an operand as it stood before (R262). -/
def elemAt (s : State) (c : Cell) (k i : Nat) : El := (s.load (s.subn (.cell c)) (s.descr (.cell c) k)).at [i, 0, 0, 0, 0]

/-- The destination of a word, plain. -/
def destOf (s : State) (c : Cell) (w : W128) : Desc := (s.descr (.cell c) (fD w)).plain

/-- What the destination of a word holds, rounded as the word says. -/
def DestHolds (s : State) (c : Cell) (w : W128) (g : Nat → Out) (m : Mem) : Prop :=
  Stands (destOf s c w) (fRm w) (fSAT w) (s.subn (.cell c)) g m

theorem Started.elem (h : Started c s v) (k : Nat) {i : Nat} (hi : i < (destOf s c w).extent 0) :
    (v.loadFor (v.subn (.cell c)) (s.descr (.cell c) (fD w)).plain (s.descr (.cell c) k)).at [i, 0, 0, 0, 0] = elemAt s c k i :=
  h.operand _ _ hi

variable (hp : PlainMemory s) (hoff : RingsOff s) (hrm : rmBad w = false) (hD : DescOk s (.cell c) (fD w))

section
variable (hc : fCls w = 5) (hC : fC w = 0) (hA : DescOk s (.cell c) (fA w)) (hfa : fmtArith (s.descr (.cell c) (fA w)).fmt = true)
include hp hoff hc hC hD hA hfa hrm

/-- CNV.CVT (R296). -/
theorem cnvCvt_settles (ho : fOp w = 0) (hz : wf w 0 62 = 0) (hB : fB w = 0) (hfd : fmtArith (destOf s c w).fmt = true)
    (hgo : EngineGoing s c w false [destOf s c w, s.descr (.cell c) (fA w)]) : ∃ t, exec (.cnvCvt (.cell c) w) s = .next t ∧
      Joined s t (.cell c) w .vector (destOf s c w).count ∧ TensorsBut s t [destOf s c w] ∧
      DestHolds s c w (fun i => mkOut (elemAt s c (fA w) i).num [elemAt s c (fA w) i]) t.mem := by
  show ∃ t, execCnvCvt (.cell c) w s = .next t ∧ _
  unfold execCnvCvt
  refine acts_settle hp hoff hgo hc ho (by decide) ?legal rfl ⟨some (fD w), ?eff, ?lim, ?fits, ?act, fun v f hv => ?effect⟩
  case legal =>
    refine legal_word hc ho (r := ⟨5, 0, .t, false, true⟩) (by decide) rfl (by decide) hgo.going.predField hrm rfl ?_ ?_ ?_
    · simp [hz, hB, hC]
    · rw [show fmtArith (s.descr (.cell c) (fD w)).fmt = true from hfd, hfa]
      rfl
    · simp [hD, hA]
  case act =>
    dsimp only
    rw [dispatched_descr, dispatched_descr]
    rfl
  case effect =>
    refine hv.stores (hgo.dest List.mem_cons_self rfl) (logAbandoned_wrote hv.ready _) f (fRm w) (fSAT w) (fun i hi => ?_) _ _ _ _
    rw [hv.elem (fA w) hi]
    exact ⟨rfl, rfl⟩

/-- CNV.MASK (R296). -/
theorem cnvMask_settles (ho : fOp w = 1) (hz : wf w 0 56 = 0) (hfn : vFn w ≤ 1) (hB : fB w = 0) (hfd : (destOf s c w).fmt = 0x1C)
    (hgo : EngineGoing s c w false [destOf s c w, s.descr (.cell c) (fA w)]) : ∃ t, exec (.cnvMask (.cell c) w) s = .next t ∧
      Joined s t (.cell c) w .vector (destOf s c w).count ∧ TensorsBut s t [destOf s c w] ∧
      DestHolds s c w (fun i => mkOut (cmpFn (if vFn w = 0 then 1 else 4) (elemAt s c (fA w) i).num (.fin false 0 0))
        [elemAt s c (fA w) i]) t.mem := by
  show ∃ t, execCnvMask (.cell c) w s = .next t ∧ _
  unfold execCnvMask
  refine acts_settle hp hoff hgo hc ho (by decide) ?legal rfl ⟨some (fD w), ?eff, ?lim, ?fits, ?act, fun v f hv => ?effect⟩
  case legal =>
    refine legal_word hc ho (r := ⟨5, 1, .t, false, true⟩) (by decide) rfl (by decide) hgo.going.predField hrm rfl ?_ ?_ ?_
    · simp [hz, hB, hC, hfn]
    · rw [show (s.descr (.cell c) (fD w)).fmt = 0x1C from hfd, hfa]
      rfl
    · simp [hD, hA]
  case act =>
    dsimp only
    rw [dispatched_descr, dispatched_descr]
    rfl
  case effect =>
    refine hv.stores (hgo.dest List.mem_cons_self rfl) (logAbandoned_wrote hv.ready _) f (fRm w) (fSAT w) (fun i hi => ?_) _ _ _ _
    rw [hv.elem (fA w) hi]
    exact ⟨rfl, rfl⟩

/-- CNV.MAPPLY (R296). -/
theorem cnvMapply_settles (ho : fOp w = 2) (hz : wf w 0 62 = 0) (hB : DescOk s (.cell c) (fB w)) (hfb : (s.descr (.cell c) (fB w)).fmt = 0x1C)
    (hfd : fmtArith (destOf s c w).fmt = true)
    (hgo : EngineGoing s c w false [destOf s c w, s.descr (.cell c) (fA w), s.descr (.cell c) (fB w)]) :
    ∃ t, exec (.cnvMapply (.cell c) w) s = .next t ∧
      Joined s t (.cell c) w .vector (destOf s c w).count ∧ TensorsBut s t [destOf s c w] ∧
      DestHolds s c w (fun i => (let v : Num := if (elemAt s c (fB w) i).num.isZero then .fin false 0 0 else (elemAt s c (fA w) i).num
        { mkOut v [elemAt s c (fA w) i, elemAt s c (fB w) i] with nanIn := v.isNan })) t.mem := by
  show ∃ t, execCnvMapply (.cell c) w s = .next t ∧ _
  unfold execCnvMapply
  refine acts_settle hp hoff hgo hc ho (by decide) ?legal rfl ⟨some (fD w), ?eff, ?lim, ?fits, ?act, fun v f hv => ?effect⟩
  case legal =>
    refine legal_word hc ho (r := ⟨5, 2, .t, false, true⟩) (by decide) rfl (by decide) hgo.going.predField hrm rfl ?_ ?_ ?_
    · simp [hz, hC]
    · rw [show fmtArith (s.descr (.cell c) (fD w)).fmt = true from hfd, hfa, hfb]
      rfl
    · simp [hD, hA, hB]
  case act =>
    dsimp only
    rw [dispatched_descr, dispatched_descr, dispatched_descr]
    rfl
  case effect =>
    refine hv.stores (hgo.dest List.mem_cons_self rfl) (logAbandoned_wrote hv.ready _) f (fRm w) (fSAT w) (fun i hi => ?_) _ _ _ _
    rw [hv.elem (fA w) hi, hv.elem (fB w) hi]
    exact ⟨rfl, rfl⟩

end

section
variable (hc : fCls w = 6) (hB : fB w = 0) (hC : fC w = 0)
include hp hoff hc hB hC hD hrm

omit hp hoff in
theorem rng_legal {op : Nat} (ho : fOp w = op) (hA : fA w = 0) (hz : wf w 0 54 = 0) (hpred : wf w 110 4 ≠ 8)
    (hr : opRow 6 op = some ⟨6, op, .t, false, true⟩) {ok : Nat → Bool} (hfd : ok (destOf s c w).fmt = true) :
    illegalDetail (s.exe (.cell c)) (.cell c) w (rngNeed (.cell c) w s ok) = 0 := by
  refine legal_word hc ho hr rfl (by decide) hpred hrm rfl ?_ ?_ ?_
  · simp [rngNeed, hz, hA, hB, hC]
  · exact congrArg (!·) hfd
  · simp [rngNeed, hD]

omit hp hoff hc hB hC hD hrm in
/-- A word of the RNG that names D alone, and whose results it writes as it computes them (R298). -/
theorem rngRun_acts (hd : Dest c (destOf s c w)) (g : Nat × Nat × Nat × Nat → Num) : Acts s c w (fun s => rngRun (.cell c) w s g) (destOf s c w) []
    (DestHolds s c w (fun i => mkOut (g (s.rngWords (.cell c) w i)) [])) := by
  refine ⟨some (fD w), ?eff, ?lim, ?fits, ?act, fun v f hv => ?effect⟩
  case act =>
    unfold rngRun
    dsimp only
    rw [dispatched_descr]
    rfl
  case effect =>
    refine hv.stores hd (.refl hv.ready) f (fRm w) (fSAT w) (fun i hi => ?_) _ _ _ _
    rw [hv.rngWords, rank_first _ _ (extents_ne_nil _)]
    exact ⟨rfl, rfl⟩

/-- RNG.UNIF (R298). -/
theorem rngUnif_settles (ho : fOp w = 0) (hA : fA w = 0) (hz : wf w 0 54 = 0) (hfd : fmtArith (destOf s c w).fmt = true)
    (hgo : EngineGoing s c w false [destOf s c w]) : ∃ t, exec (.rngUnif (.cell c) w) s = .next t ∧
      Joined s t (.cell c) w .vector (destOf s c w).count ∧ TensorsBut s t [destOf s c w] ∧
      DestHolds s c w (fun i => mkOut (.fin false ((s.rngWords (.cell c) w i).1 / 256) (-24)) []) t.mem := by
  show ∃ t, execRngUnif (.cell c) w s = .next t ∧ _
  unfold execRngUnif
  exact acts_settle (act := fun s => rngRun (.cell c) w s (fun r => .fin false (r.1 / 256) (-24))) hp hoff hgo hc ho (by decide)
    (rng_legal hrm hD hc hB hC ho hA hz hgo.going.predField (by decide) hfd) rfl (rngRun_acts (hgo.dest List.mem_cons_self rfl) _)

/-- RNG.NORMAL (R298, R636). -/
theorem rngNormal_settles (ho : fOp w = 1) (hA : fA w = 0) (hz : wf w 0 54 = 0) (hfd : fmtArith (destOf s c w).fmt = true)
    (hgo : EngineGoing s c w false [destOf s c w]) : ∃ t, exec (.rngNormal (.cell c) w) s = .next t ∧
      Joined s t (.cell c) w .vector (destOf s c w).count ∧ TensorsBut s t [destOf s c w] ∧
      DestHolds s c w (fun i => mkOut (normalOf (fRm w) (s.rngWords (.cell c) w i).1 (s.rngWords (.cell c) w i).2.1) []) t.mem := by
  show ∃ t, execRngNormal (.cell c) w s = .next t ∧ _
  unfold execRngNormal
  exact acts_settle (act := fun s => rngRun (.cell c) w s (fun r => normalOf (fRm w) r.1 r.2.1)) hp hoff hgo hc ho (by decide)
    (rng_legal hrm hD hc hB hC ho hA hz hgo.going.predField (by decide) hfd) rfl (rngRun_acts (hgo.dest List.mem_cons_self rfl) _)

/-- RNG.BITS (R298). -/
theorem rngBits_settles (ho : fOp w = 2) (hA : fA w = 0) (hz : wf w 0 54 = 0) (hfd : (destOf s c w).fmt = 0x0B)
    (hgo : EngineGoing s c w false [destOf s c w]) : ∃ t, exec (.rngBits (.cell c) w) s = .next t ∧
      Joined s t (.cell c) w .vector (destOf s c w).count ∧ TensorsBut s t [destOf s c w] ∧
      DestHolds s c w (fun i => mkOut (Num.ofInt (signedOf 32 (s.rngWords (.cell c) w i).1) 0) []) t.mem := by
  show ∃ t, execRngBits (.cell c) w s = .next t ∧ _
  unfold execRngBits
  exact acts_settle (act := fun s => rngRun (.cell c) w s (fun r => Num.ofInt (signedOf 32 r.1) 0)) hp hoff hgo hc ho (by decide)
    (rng_legal hrm hD hc hB hC ho hA hz hgo.going.predField (by decide) (ok := (· == 0x0B)) (beq_iff_eq.mpr hfd)) rfl
    (rngRun_acts (hgo.dest List.mem_cons_self rfl) _)

/-- RNG.DROP into a mask (R298). -/
theorem rngDrop_mask_settles (ho : fOp w = 3) (hfd : (destOf s c w).fmt = 0x1C) (hA : fA w = 0) (hz : wf w 0 30 = 0)
    (hgo : EngineGoing s c w false [destOf s c w]) : ∃ t, exec (.rngDrop (.cell c) w) s = .next t ∧
      Joined s t (.cell c) w .vector (destOf s c w).count ∧ TensorsBut s t [destOf s c w] ∧
      DestHolds s c w (fun i => mkOut (if wf w 30 24 ≤ (s.rngWords (.cell c) w i).1 / 256 then Num.one else .fin false 0 0) []) t.mem := by
  have hmask : ((destOf s c w).fmt == 0x1C) = true := beq_iff_eq.mpr hfd
  show ∃ t, execRngDrop (.cell c) w s = .next t ∧ _
  unfold execRngDrop
  refine acts_settle hp hoff hgo hc ho (by decide) ?legal rfl ⟨some (fD w), ?eff, ?lim, ?fits, ?act, fun v f hv => ?effect⟩
  case legal =>
    refine legal_word hc ho (r := ⟨6, 3, .t, false, true⟩) (by decide) rfl (by decide) hgo.going.predField hrm rfl ?_ ?_ ?_
    all_goals dsimp only; rw [show ((s.descr (.cell c) (fD w)).fmt == 0x1C) = true from hmask]
    · simp [hz, hA, hB, hC]
    · rfl
    · simp [hD]
  case act =>
    dsimp only
    rw [dispatched_descr, show ((s.descr (.cell c) (fD w)).plain.fmt == 0x1C) = true from hmask]
    rfl
  case effect =>
    refine hv.stores (hgo.dest List.mem_cons_self rfl) (.refl hv.ready) f (fRm w) (fSAT w) (fun i hi => ?_) _ _ _ _
    simp only [if_true]
    rw [hv.rngWords, rank_first _ _ (extents_ne_nil _)]
    simp only [decide_eq_true_eq, and_self]

/-- What RNG.DROP makes of an element of A (R298). -/
def dropOut (s : State) (c : Cell) (w : W128) (i : Nat) : Out :=
  let r := (widest [(destOf s c w).fmt, (s.descr (.cell c) (fA w)).fmt]).step (fRm w) (fSAT w)
  let k := f32.step (fRm w) false ((Num.fin false 1 24).div (.fin false (2 ^ 24 - wf w 30 24) 0))
  let keep := decide (wf w 30 24 ≤ (s.rngWords (.cell c) w i).1 / 256)
  { mkOut (if keep then r ((r (elemAt s c (fA w) i).num).mul k) else .fin false 0 0) [elemAt s c (fA w) i] with
    nanIn := keep && (elemAt s c (fA w) i).num.isNan }

/-- RNG.DROP of a tensor (R298). -/
theorem rngDrop_settles (ho : fOp w = 3) (hfd : fmtArith (destOf s c w).fmt = true) (hfa : fmtArith (s.descr (.cell c) (fA w)).fmt = true)
    (hz : wf w 0 30 = 0) (hA : DescOk s (.cell c) (fA w)) (hgo : EngineGoing s c w false [destOf s c w, s.descr (.cell c) (fA w)]) :
    ∃ t, exec (.rngDrop (.cell c) w) s = .next t ∧ Joined s t (.cell c) w .vector (destOf s c w).count ∧ TensorsBut s t [destOf s c w] ∧
      DestHolds s c w (dropOut s c w) t.mem := by
  have hmask : ((destOf s c w).fmt == 0x1C) = false := by
    refine beq_false_of_ne (fun h => ?_)
    rw [h] at hfd
    exact absurd hfd (by decide)
  show ∃ t, execRngDrop (.cell c) w s = .next t ∧ _
  unfold execRngDrop
  refine acts_settle hp hoff hgo hc ho (by decide) ?legal rfl ⟨some (fD w), ?eff, ?lim, ?fits, ?act, fun v f hv => ?effect⟩
  case legal =>
    refine legal_word hc ho (r := ⟨6, 3, .t, false, true⟩) (by decide) rfl (by decide) hgo.going.predField hrm rfl ?_ ?_ ?_
    all_goals dsimp only; rw [show ((s.descr (.cell c) (fD w)).fmt == 0x1C) = false from hmask]
    · simp [hz, hB, hC]
    · rw [show fmtArith (s.descr (.cell c) (fD w)).fmt = true from hfd, hfa]
      rfl
    · simp [hD, hA]
  case act =>
    dsimp only
    rw [dispatched_descr, dispatched_descr, show ((s.descr (.cell c) (fD w)).plain.fmt == 0x1C) = false from hmask]
    rfl
  case effect =>
    have hlog := logAbandoned_wrote hv.ready [s.descr (.cell c) (fA w)]
    refine hv.stores (hgo.dest List.mem_cons_self rfl) hlog f (fRm w) (fSAT w) (fun i hi => ?_) _ _ _ _
    simp only [Bool.false_eq_true, if_false]
    rw [hlog.rngWords, hv.rngWords, rank_first _ _ (extents_ne_nil _), hv.elem (fA w) hi]
    exact ⟨rfl, rfl⟩

end

end

end Sys2Proof.Machine
end

section
/-! O34: VEC, CNV and RNG on operands in reach. -/

namespace Sys2Proof.Machine

set_option Elab.async false

section
variable {c : Cell} {s : State} {w : W128}

/-- What VEC computes, each element from those of its index (R287, R635). -/
def vecWant (s : State) (c : Cell) (w : W128) (op i : Nat) : Out :=
  let st := f32.step (fRm w) (fSAT w)
  let a := elemAt s c (fA w) i
  let b := vecB c w s i
  let m := elemAt s c (fC w) i
  if op = 0 then mkOut (unFn f32 (fRm w) (fSAT w) (vFn w) (st a.num)) [a]
  else if op = 1 then mkOut (binFn f32 (fRm w) (fSAT w) (vFn w) (st a.num) (st b.num)) [a, b]
  else if op = 2 then mkOut (st (((st a.num).mul (st b.num)).add (st m.num))) [a, b, m]
  else if op = 3 then mkOut (cmpFn (vFn w) (st a.num) (st b.num)) [a, b]
  else if op = 4 then
    { mkOut (st (if m.num.isZero then b.num else a.num)) [a, b, m] with nanIn := (if m.num.isZero then b.num else a.num).isNan }
  else
    let els := (List.range ((s.descr (.cell c) (fA w)).extent 0)).map (elemAt s c (fA w))
    { mkOut (redFn f32 (fRm w) (fSAT w) (vFn w) (els.map (fun e => st e.num))) els with a := 0, b := 0 }

/-- A VEC computed in FP32 makes what its operands say. -/
theorem vecFn_want {op : Nat} (hop : op < 6) {i : Nat} (hi : i < (destOf s c w).extent 0) :
    (vecFn op w f32 (vecIn op (.cell c) w s) [i, 0, 0, 0, 0]).num = (vecWant s c w op i).num ∧
    (vecFn op w f32 (vecIn op (.cell c) w s) [i, 0, 0, 0, 0]).bad = (vecWant s c w op i).bad := by
  interval_cases op
  · rw [vecFn_un, vecIn_a_at (by decide) hi]
    exact ⟨rfl, rfl⟩
  · rw [vecFn_bin, vecIn_a_at (by decide) hi, vecIn_b_at (by decide) (by decide) hi]
    exact ⟨rfl, rfl⟩
  · rw [vecFn_fma, vecIn_a_at (by decide) hi, vecIn_b_at (by decide) (by decide) hi, vecIn_c_at (by decide) (by decide) hi]
    exact ⟨rfl, rfl⟩
  · rw [vecFn_cmp, vecIn_a_at (by decide) hi, vecIn_b_at (by decide) (by decide) hi]
    exact ⟨rfl, rfl⟩
  · rw [vecFn_sel, vecIn_a_at (by decide) hi, vecIn_b_at (by decide) (by decide) hi, vecIn_c_at (by decide) (by decide) hi, apply_ite El.num]
    exact ⟨rfl, rfl⟩
  · rw [vecFn_red, vecIn_red]
    exact ⟨rfl, rfl⟩

/-- A VEC in FP32 without a residual (R262, R286, R287). -/
theorem vec_settles (hp : PlainMemory s) (hoff : RingsOff s) {op : Nat} (hop : op < 6) (hc : fCls w = 3) (ho : fOp w = op)
    (hb : vBsu w = false) (hr : vRes w = false) {need : State → Need}
    (hlegal : illegalDetail (s.exe (.cell c)) (.cell c) w (need s) = 0) (hneed : need (s.startFclk c.region) = need s)
    (hgo : EngineGoing s c w false (destOf s c w :: (vecDescs op (.cell c) w s).2.1))
    (hwide : widest (((destOf s c w :: (vecDescs op (.cell c) w s).2.1).map (·.fmt)).filter fmtArith) = f32) :
    ∃ t, issue 3 op (.cell c) w s need (vecRun op (.cell c) w) = .next t ∧ Joined s t (.cell c) w .vector (destOf s c w).count ∧
      TensorsBut s t [destOf s c w] ∧ DestHolds s c w (vecWant s c w op) t.mem := by
  refine vec_plain hp hoff hc ho ?_ hb hlegal hneed hr hgo (fun i hi => ?_)
  · interval_cases op <;> decide
  · have hf : vecWide op (.cell c) w s = f32 := by
      unfold vecWide
      rw [(vecDescs_plain hr).1]
      exact hwide
    rw [hf]
    exact vecFn_want hop hi

/-- A VEC with a residual (R176, R262). -/
theorem vec_residual_settles (hp : PlainMemory s) (hoff : RingsOff s) {op : Nat} (hop : op < 6) (hc : fCls w = 3) (ho : fOp w = op)
    (hb : vBsu w = false) (hr : vRes w = true) {need : State → Need}
    (hlegal : illegalDetail (s.exe (.cell c)) (.cell c) w (need s) = 0) (hneed : need (s.startFclk c.region) = need s) {ds : List Desc}
    (hds : (vecDescs op (.cell c) w s).2.1 = s.descr (.cell c) (fA w) :: ds)
    (hgo : EngineGoing s c w false ([destOf s c w, s.descr (.cell c) (fA w), (s.descr (.cell c) (fC w)).plain] ++ ds)) :
    ∃ t, issue 3 op (.cell c) w s need (vecRun op (.cell c) w) = .next t ∧ Joined s t (.cell c) w .vector (destOf s c w).count ∧
      TensorsBut s t [destOf s c w, (s.descr (.cell c) (fC w)).plain] := by
  refine vec_residual hp hoff hc ho ?_ hb hlegal hneed hr (hgo.subset (fun e he => ?_))
  · interval_cases op <;> decide
  · rw [hds] at he
    simp only [List.mem_append, List.mem_cons, List.not_mem_nil, or_false] at he ⊢
    unfold destOf
    tauto

end

/-- Settles O34: each instruction joins the vector queue through `engine_settles`, and its one-dimensional destination holds the function of
its operands through `storeAll_word` and `storeAll_bit`. -/
theorem elementwiseInstructionsWriteTheirDestination : Obligations.ElementwiseInstructionsWriteTheirDestination := by
  unfold Obligations.ElementwiseInstructionsWriteTheirDestination
  intro c w s hp hoff x sn d da db dc legal a b b' m st res done vec
  have hdone : ∀ {o : Answer} {g : Nat → Out}, (∃ t, o = .next t ∧ Joined s t x w .vector d.count ∧ TensorsBut s t [d] ∧
      DestHolds s c w g t.mem) → done o [d] g := fun ⟨t, hnext, hjoin, hbut, hholds⟩ => ⟨t, hnext, hjoin, hbut, hholds.word, hholds.bit⟩
  refine ⟨?un, ?bin, ?fma, ?cmp, ?sel, ?red, ?residual, ?cnv, ?rng⟩
  case un =>
    intro hc ho hl hb hr ds hgo hw
    refine hdone ?_
    show ∃ t, execVecUn x w s = .next t ∧ _
    unfold execVecUn
    exact vec_settles hp hoff (by decide) hc ho hb hr hl rfl hgo hw
  case bin =>
    intro hc ho hl hb hr ds hgo hw
    refine hdone ?_
    show ∃ t, execVecBin x w s = .next t ∧ _
    unfold execVecBin
    exact vec_settles hp hoff (by decide) hc ho hb hr hl rfl hgo hw
  case fma =>
    intro hc ho hl hb hr ds hgo hw
    refine hdone ?_
    show ∃ t, execVecFma x w s = .next t ∧ _
    unfold execVecFma
    exact vec_settles hp hoff (by decide) hc ho hb hr hl rfl hgo hw
  case cmp =>
    intro hc ho hl hb hr ds hgo hw
    refine hdone ?_
    show ∃ t, execVecCmp x w s = .next t ∧ _
    unfold execVecCmp
    exact vec_settles hp hoff (by decide) hc ho hb hr hl rfl hgo hw
  case sel =>
    intro hc ho hl hb hr ds hgo hw
    refine hdone ?_
    show ∃ t, execVecSel x w s = .next t ∧ _
    unfold execVecSel
    exact vec_settles hp hoff (by decide) hc ho hb hr hl rfl hgo hw
  case red =>
    intro hc ho hl hb hr ds hgo hw
    refine hdone ?_
    show ∃ t, execVecRed x w s = .next t ∧ _
    unfold execVecRed
    exact vec_settles hp hoff (by decide) hc ho hb hr hl rfl hgo hw
  case residual =>
    intro hc hop hb hr hi n hl hgo
    have hres : res = [dc.plain] := if_pos hr
    rw [hres]
    rcases hop with ho | ho | ho
    · rw [show n = _ from if_pos ho] at hl
      rw [if_neg (by omega)] at hgo
      rw [if_pos ho]
      exact vec_residual_settles hp hoff (by decide) hc ho hb hr (need := fun s => vecNeed x w s 15 false false true false false false) hl rfl
        rfl hgo
    · rw [show n = _ from (if_neg (by omega)).trans (if_pos ho)] at hl
      rw [if_pos ho] at hgo
      rw [if_neg (by omega), if_pos ho]
      refine vec_residual_settles hp hoff (by decide) hc ho hb hr (need := fun s => vecNeed x w s 6 true false true false false false) hl rfl
        ?_ hgo
      unfold vecDescs
      rw [hi]
      rfl
    · rw [show n = _ from (if_neg (by omega)).trans (if_neg (by omega))] at hl
      rw [if_neg (by omega)] at hgo
      rw [if_neg (by omega), if_neg (by omega)]
      exact vec_residual_settles hp hoff (by decide) hc ho hb hr
        (need := fun s => vecNeed x w s 4 false false true false false (decide ((s.descr x (fD w)).extent 0 ≠ 1))) hl rfl rfl hgo
  case cnv =>
    intro hc hC hD hA hfa hrm
    refine ⟨fun ho hz hB hfd hgo => ?_, fun ho hz hfn hB hfd hgo => ?_, fun ho hz hB hfb hfd hgo => ?_⟩
    · exact hdone (cnvCvt_settles hp hoff hrm hD hc hC hA hfa ho hz hB hfd hgo)
    · exact hdone (cnvMask_settles hp hoff hrm hD hc hC hA hfa ho hz hfn hB hfd hgo)
    · exact hdone (cnvMapply_settles hp hoff hrm hD hc hC hA hfa ho hz hB hfb hfd hgo)
  case rng =>
    intro hc hB hC hD hrm
    refine ⟨fun ho hA hz hfd hgo => ?_, fun ho hA hz hfd hgo => ?_, fun ho hA hz hfd hgo => ?_, fun ho hfd hA hz hgo => ?_,
      fun ho hfd hfa hz hA hgo => ?_⟩
    · exact hdone (rngUnif_settles hp hoff hrm hD hc hB hC ho hA hz hfd hgo)
    · exact hdone (rngNormal_settles hp hoff hrm hD hc hB hC ho hA hz hfd hgo)
    · obtain ⟨t, hnext, hjoin, hbut, hholds⟩ := rngBits_settles hp hoff hrm hD hc hB hC ho hA hz hfd hgo
      refine ⟨t, hnext, hjoin, hbut, fun hn i hi => ?_⟩
      refine (hholds.int hfd hn i hi).trans ?_
      exact (congrArg (· % 2 ^ 32) (encodeInt_signedOf _ _)).trans (Nat.mod_mod _ _)
    · exact hdone (rngDrop_mask_settles hp hoff hrm hD hc hB hC ho hfd hA hz hgo)
    · exact hdone (rngDrop_settles hp hoff hrm hD hc hB hC ho hfd hfa hz hA hgo)

end Sys2Proof.Machine
end

section
/-! SUPPORT. Instructions of the matrix engine: their end, the tiles they count, and how they join the matrix queue (R211, R283, R284, R353). -/

namespace Sys2Proof.Machine

set_option Elab.async false

section
variable {c : Cell} {s u v : State} {w : W128}

/-! ## The end of an instruction that writes tiles -/

theorem sticky_frame (s : State) (x : Executor) (n : Nat) : (s.sticky x n).mem = s.mem ∧
    ∃ e f p, s.sticky x n = s ∨ s.sticky x n = s.setExe x { s.exe x with endStatus := e, endDetail := f, promote := p } := by
  unfold State.sticky
  split
  · exact ⟨rfl, _, _, _, .inr rfl⟩
  · exact ⟨rfl, 0, 0, false, .inl rfl⟩

theorem sticky_wrote (h : Ready c s) (n : Nat) : Wrote c nowhere s (s.sticky (.cell c) n) := by
  obtain ⟨-, e, f, p, he | he⟩ := sticky_frame s (.cell c) n
  · rw [he]
    exact .refl h
  · rw [he]
    have hexe : ∀ x, ((s.setExe (.cell c) { s.exe (.cell c) with endStatus := e, endDetail := f, promote := p }).exe x).frame = (s.exe x).frame ∧
        ((s.setExe (.cell c) { s.exe (.cell c) with endStatus := e, endDetail := f, promote := p }).exe x).flights = (s.exe x).flights := fun x => by
      by_cases hx : x = .cell c
      · subst hx
        rw [State.exe_setExe_same]
        exact ⟨rfl, rfl⟩
      · rw [State.exe_setExe_other _ _ hx]
        exact ⟨rfl, rfl⟩
    exact ⟨fun x => (hexe x).1, fun x => .inl (hexe x).2, fun _ => rfl, FldsBut.of_regs rfl,
      ⟨h.coded, h.calm.setExe _ (h.calm.exe _), h.rings, h.gone⟩, fun _ _ => rfl⟩

/-- The end of an instruction that writes tiles (R211, R284). -/
theorem Wrote.tileEnded {dests : List Desc} (h : Wrote c (Within dests) v u) {f g : Flight} (hg : SameOp g f) {more : Mem → Prop}
    (hm : more u.mem) (t : TileSum) (b : Bool) {count count' : Nat} (hcount : count' = count) :
    Effect c dests count more v f (u.tileEnd c g t b count') := by
  obtain ⟨hq, hcls, hop, htok, hboth⟩ := hg
  have h1 := flushed_wrote h.ready (.cell c) (t.st.flushed || b)
  refine ⟨(h.trans h1.anywhere).trans (sticky_wrote h1.ready t.o.1).anywhere, ⟨hq, hcls, hop, htok, hboth, hcount⟩, ?_⟩
  show more ((u.flushed (.cell c) (t.st.flushed || b)).sticky (.cell c) t.o.1).mem
  rw [(sticky_frame _ _ _).1, flushed_mem]
  exact hm

/-! ## Tiles -/

/-- The tiles of a tensor of some rows and columns (R283). -/
def tileCount (d : Desc) : Nat := ceilDiv (d.extent 0) 64 * ceilDiv (d.extent 1) 64 * (d.extent 2 * d.extent 3 * d.extent 4)

theorem length_flatMap_const {α β : Type} (l : List α) (g : α → List β) {n : Nat} (h : ∀ a ∈ l, (g a).length = n) :
    (l.flatMap g).length = l.length * n := by
  induction l with
  | nil => exact (Nat.zero_mul n).symm
  | cons a l ih =>
    rw [List.flatMap_cons, List.length_append, h a List.mem_cons_self, ih (fun b hb => h b (List.mem_cons_of_mem _ hb)), List.length_cons]
    ring

theorem tilesOf_length (d : Desc) : (tilesOf d.extents).length = tileCount d := by
  unfold tilesOf
  rw [length_flatMap_const _ _ (n := ceilDiv (d.extent 1) 64 * ceilDiv (d.extent 0) 64) (fun b _ => ?_), List.length_range]
  · unfold tileCount
    show d.extent 2 * d.extent 3 * d.extent 4 * _ = _
    ring
  · rw [length_flatMap_const _ _ (n := ceilDiv (d.extent 0) 64) (fun r _ => ?_), List.length_range]
    · rfl
    · rw [List.length_map, List.length_range]
      rfl

theorem foldl_tiles {α : Type} {g : State × TileSum → α → State × TileSum} (h : ∀ acc p, (g acc p).2.tiles = acc.2.tiles + 1) (l : List α)
    (acc : State × TileSum) : (l.foldl g acc).2.tiles = acc.2.tiles + l.length := by
  induction l generalizing acc with
  | nil => rfl
  | cons p l ih =>
    rw [List.foldl_cons, ih, h, List.length_cons]
    omega

theorem tiled_tiles (s : State) (f : Flight) (rm : Rm) (d : Desc) (sat subn : Bool) (oscale : Int) (rsc : Nat)
    (cell : Int → Nat → Nat → Nat → TileEl) : (s.tiled c f rm d sat subn oscale rsc cell).2.tiles = tileCount d := by
  unfold State.tiled
  rw [foldl_tiles (fun _ _ => rfl), tilesOf_length]
  exact Nat.zero_add _

theorem mmResidual_tiles (s : State) (f : Flight) (i : MmIn) (cd : Desc) (ct : Tens) (narrow : Option Desc) (sat subn : Bool) (oscale : Int) :
    (s.mmResidual c f i cd ct narrow sat subn oscale).2.tiles =
      (tilesOf (narrow.elim cd.extents (fun d => (List.range 5).map (fun k => max (cd.extent k) (d.extent k))))).length := by
  unfold State.mmResidual
  rw [foldl_tiles (fun _ _ => rfl)]
  cases narrow <;> exact Nat.zero_add _

/-! ## Instructions of the matrix engine -/

/-- How an instruction of the matrix engine acts, and what it leaves. -/
def MatrixActs (s : State) (c : Cell) (w : W128) (act : State → Act) (dests srcs : List Desc) (count : Nat) (more : Mem → Prop) : Prop :=
  ∃ dest eff lim fits, act (s.dispatched c w) = engine (.cell c) w .matrix dest false (s.dispatched c w) dests srcs eff lim fits ∧
    ∀ v f, Started c s v → Effect c dests count more v f (eff c v f)

/-- An instruction of the matrix engine has joined its queue, an NRM the vector queue with it, and what it wrote stands. -/
def MatrixRuns (s : State) (c : Cell) (w : W128) (o : Answer) (dests : List Desc) (count : Nat) (more : Mem → Prop) : Prop :=
  ∃ t, o = .next t ∧ Joined s t (.cell c) w .matrix count ∧ TensorsBut s t dests ∧
    (∀ g ∈ (t.exe (.cell c)).flights, g.both = decide (fCls w = 4)) ∧ more t.mem

theorem matrix_settles (hp : PlainMemory s) (hoff : RingsOff s) {dests srcs : List Desc} (hgo : EngineGoing s c w false (dests ++ srcs))
    {cls op : Nat} (hc : fCls w = cls) (ho : fOp w = op) (hfe : frontEnd cls op = false) {need : State → Need}
    (hlegal : illegalDetail (s.exe (.cell c)) (.cell c) w (need s) = 0) (hneed : need (s.startFclk c.region) = need s) {act : State → Act}
    {count : Nat} {more : Mem → Prop} (hact : MatrixActs s c w act dests srcs count more) :
    MatrixRuns s c w (issue cls op (.cell c) w s need act) dests count more := by
  obtain ⟨dest, eff, lim, fits, hrun, heff⟩ := hact
  exact engine_settles hp hoff hgo (.inl rfl) hc ho hfe hlegal hneed hrun heff

theorem dispatched_queueFree (h : (s.exe (.cell c)).flights = []) : (s.dispatched c w).queueFree (.cell c) .vector = true := by
  obtain ⟨-, ⟨l, hl⟩, -⟩ := dispatched_frame s c w
  have hf : ((s.dispatched c w).exe (.cell c)).flights = [] := by
    rw [hl]
    exact h
  unfold State.queueFree
  rw [hf]
  rfl

/-- An NRM at dispatch, where nothing of the cell is in flight (R211). -/
theorem nrmRun_dispatched (h : (s.exe (.cell c)).flights = []) (dests srcs : List Desc) (eff : Cell → State → Flight → State × Flight)
    (lim : Option (List Nat)) : nrmRun (.cell c) w (s.dispatched c w) dests srcs eff lim =
      engine (.cell c) w .matrix (some (fD w)) false (s.dispatched c w) dests srcs eff lim := by
  unfold nrmRun
  rw [dispatched_queueFree h]
  rfl

theorem Started.logged (h : Started c s v) (ds : List Desc) : Wrote c nowhere v (v.logAbandoned c ds) := logAbandoned_wrote h.ready ds

theorem Started.fld {P : Nat → Prop} (h : Started c s v) (hw : Wrote c P v u) (f : Fld) (hf : f.code ∉ engineFlds) (hs : f.code ∉ storeFlds)
    (i : Nat) : u.fld f i = s.fld f i := (hw.flds f i 0 hf).trans (h.view.flds f i 0 hs)

end

end Sys2Proof.Machine
end

section
/-! SUPPORT. The NRM instructions that add nothing to a value the spec states: which destinations they write (R290 to R295). -/

namespace Sys2Proof.Machine

set_option Elab.async false

section
variable {c : Cell} {s : State} {w : W128}

/-- An entry of the group of descriptors an NRM names (R290). -/
def entryOf (s : State) (c : Cell) (w : W128) (k : Nat) : Desc := s.descr (.cell c) (fA w + k)

/-- The statistics records an NRM writes (R178). -/
def recsOf (d : Desc) (rows : Nat) : Desc := (statDesc d rows).plain

theorem Wrote.either {P : Nat → Prop} {v : State} {β : Type} (b : Bool) {x y : State × β} (hx : Wrote c P v x.1) (hy : Wrote c P v y.1) :
    Wrote c P v (if b then x else y).1 := by
  split
  · exact hx
  · exact hy

variable (hp : PlainMemory s) (hoff : RingsOff s) (hc : fCls w = 4)
include hp hoff hc

/-- NRM.SMXB writes D (R294). -/
theorem nrmSmxb_runs (ho : fOp w = 5)
    (hl : illegalDetail (s.exe (.cell c)) (.cell c) w (nrmNeed (.cell c) w s false false false [0, 1, 2] [0, 1, 2] []) = 0)
    (hgo : EngineGoing s c w false ([destOf s c w] ++ [entryOf s c w 0, entryOf s c w 1, statDesc (entryOf s c w 2) (destOf s c w).rows])) :
    MatrixRuns s c w (exec (.nrmSmxb (.cell c) w) s) [destOf s c w] (destOf s c w).rows (fun _ => True) := by
  show MatrixRuns s c w (execNrmSmxb (.cell c) w s) _ _ _
  unfold execNrmSmxb
  refine matrix_settles hp hoff hgo hc ho (by decide) hl rfl ⟨some (fD w), ?eff, ?lim, ?fits, ?act, fun v f hv => ?effect⟩
  case act =>
    dsimp only
    rw [nrmRun_dispatched hgo.idle, dispatched_descr, dispatched_descr, dispatched_descr, dispatched_descr]
    rfl
  case effect =>
    have hlog := hv.logged [s.descr (.cell c) (fA w), s.descr (.cell c) (fA w + 1), statDesc (s.descr (.cell c) (fA w + 2))
      (s.descr (.cell c) (fD w)).plain.rows]
    exact (hlog.anywhere.trans ((storeAll_wrote (hgo.dest List.mem_cons_self rfl) hlog.ready _ _ _ _).within List.mem_cons_self)).ended
      ⟨rfl, rfl, rfl, rfl, rfl⟩ (more := fun _ => True) trivial _ _ _ _

/-- NRM.ATTF writes D and its row records (R293). -/
theorem nrmAttf_runs (ho : fOp w = 3)
    (hl : illegalDetail (s.exe (.cell c)) (.cell c) w (let n := nrmNeed (.cell c) w s false true false [0, 1, 2, 3] [0, 1, 2, 3] []
      { n with bad := n.bad || [0, 1, 2].any (fun k => !fmtMatrix (entryOf s c w k).fmt) }) = 0)
    (hgo : EngineGoing s c w false ([destOf s c w, recsOf (entryOf s c w 3) (destOf s c w).rows] ++
      [entryOf s c w 0, entryOf s c w 1, entryOf s c w 2])) :
    MatrixRuns s c w (exec (.nrmAttf (.cell c) w) s) [destOf s c w, recsOf (entryOf s c w 3) (destOf s c w).rows] (destOf s c w).rows
      (fun _ => True) := by
  show MatrixRuns s c w (execNrmAttf (.cell c) w s) _ _ _
  unfold execNrmAttf
  refine matrix_settles hp hoff hgo hc ho (by decide) hl rfl ⟨some (fD w), ?eff, ?lim, ?fits, ?act, fun v f hv => ?effect⟩
  case act =>
    dsimp only
    rw [nrmRun_dispatched hgo.idle]
    simp only [dispatched_descr]
    rfl
  case effect =>
    have hd : Dest c (destOf s c w) := hgo.dest List.mem_cons_self rfl
    have hs : Dest c (recsOf (entryOf s c w 3) (destOf s c w).rows) := hgo.dest (List.mem_cons_of_mem _ List.mem_cons_self) rfl
    have hlog := hv.logged [s.descr (.cell c) (fA w), s.descr (.cell c) (fA w + 1), s.descr (.cell c) (fA w + 2)]
    have htiles := fun sat subn rsc cell => tiled_wrote hd hlog.ready f (fRm w) sat subn 0 rsc cell
    have hrecs := fun sat subn rsc cell g => storeAll_wrote hs (htiles sat subn rsc cell).ready (fun _ => fRm w) false subn g
    exact Wrote.tileEnded ((hlog.anywhere.trans ((htiles _ _ _ _).within List.mem_cons_self)).trans
      ((hrecs _ _ _ _ _).within (List.mem_cons_of_mem _ List.mem_cons_self))) ⟨rfl, rfl, rfl, rfl, rfl⟩ (more := fun _ => True) trivial _ _ rfl

/-- NRM.ATTB writes D and adds to the gradients of K and V (R294, R295). -/
theorem nrmAttb_runs (ho : fOp w = 4)
    (hl : illegalDetail (s.exe (.cell c)) (.cell c) w (let n := nrmNeed (.cell c) w s false true false [0, 1, 2, 3, 4, 5, 6, 7] [0, 1, 2, 3, 4, 5] [6, 7]
      { n with bad := n.bad || [0, 1, 2, 4].any (fun k => !fmtMatrix (entryOf s c w k).fmt) }) = 0)
    (hgo : EngineGoing s c w false ([destOf s c w, (entryOf s c w 6).plain, (entryOf s c w 7).plain] ++
      [entryOf s c w 0, entryOf s c w 1, entryOf s c w 2, entryOf s c w 3, entryOf s c w 4, statDesc (entryOf s c w 5) (destOf s c w).rows])) :
    MatrixRuns s c w (exec (.nrmAttb (.cell c) w) s) [destOf s c w, (entryOf s c w 6).plain, (entryOf s c w 7).plain] (destOf s c w).rows
      (fun _ => True) := by
  show MatrixRuns s c w (execNrmAttb (.cell c) w s) _ _ _
  unfold execNrmAttb
  refine matrix_settles hp hoff hgo hc ho (by decide) hl rfl ⟨some (fD w), ?eff, ?lim, ?fits, ?act, fun v f hv => ?effect⟩
  case act =>
    dsimp only
    rw [nrmRun_dispatched hgo.idle]
    simp only [dispatched_descr]
    rfl
  case effect =>
    have hd : Dest c (destOf s c w) := hgo.dest List.mem_cons_self rfl
    have hk : Dest c (entryOf s c w 6).plain := hgo.dest (List.mem_cons_of_mem _ List.mem_cons_self) rfl
    have hvd : Dest c (entryOf s c w 7).plain := hgo.dest (List.mem_cons_of_mem _ (List.mem_cons_of_mem _ List.mem_cons_self)) rfl
    have hlog := hv.logged [s.descr (.cell c) (fA w), s.descr (.cell c) (fA w + 1), s.descr (.cell c) (fA w + 2), s.descr (.cell c) (fA w + 3),
      s.descr (.cell c) (fA w + 4), statDesc (s.descr (.cell c) (fA w + 5)) (s.descr (.cell c) (fD w)).plain.rows]
    have hdq := fun sat subn rsc cell => tiled_wrote hd hlog.ready f (fRm w) sat subn 0 rsc cell
    have hdv := fun sat subn rsc cell cell' => tiled_wrote hvd (hdq sat subn rsc cell).ready f (fRm w) sat subn 0 rsc cell'
    have hdk := fun sat subn rsc cell cell' cell'' => tiled_wrote hk (hdv sat subn rsc cell cell').ready f (fRm w) sat subn 0 rsc cell''
    exact Wrote.tileEnded (((hlog.anywhere.trans ((hdq _ _ _ _).within List.mem_cons_self)).trans
      ((hdv _ _ _ _ _).within (List.mem_cons_of_mem _ (List.mem_cons_of_mem _ List.mem_cons_self)))).trans
      ((hdk _ _ _ _ _ _).within (List.mem_cons_of_mem _ List.mem_cons_self))) ⟨rfl, rfl, rfl, rfl, rfl⟩ (more := fun _ => True) trivial _ _ rfl

/-- NRM.NORMB writes D and adds to the gradients of gain and bias (R292, R295). -/
theorem nrmNormb_runs (ho : fOp w = 2) (hl : illegalDetail (s.exe (.cell c)) (.cell c) w
      (let reads := (if nFuse w then [] else [0]) ++ [1, 2] ++ (if nFuse w then [6, 7] else [])
       let n := nrmNeed (.cell c) w s true false true (reads ++ [3, 4] ++ (if nKind w == 1 then [5] else [])) (3 :: reads)
         ([4] ++ (if nKind w == 1 then [5] else []))
       { n with bad := n.bad || (nFuse w && (!fmtMatrix (entryOf s c w 6).fmt || !fmtMatrix (entryOf s c w 7).fmt)) }) = 0)
    (hgo : EngineGoing s c w false ((destOf s c w :: (entryOf s c w 4).plain :: (if nKind w == 1 then [(entryOf s c w 5).plain] else [])) ++
      ((if nFuse w then [entryOf s c w 6, entryOf s c w 7] else [entryOf s c w 0]) ++
        [entryOf s c w 1, entryOf s c w 2, statDesc (entryOf s c w 3) (destOf s c w).rows]))) :
    MatrixRuns s c w (exec (.nrmNormb (.cell c) w) s)
      (destOf s c w :: (entryOf s c w 4).plain :: (if nKind w == 1 then [(entryOf s c w 5).plain] else [])) (destOf s c w).rows
      (fun _ => True) := by
  show MatrixRuns s c w (execNrmNormb (.cell c) w s) _ _ _
  unfold execNrmNormb
  refine matrix_settles hp hoff hgo hc ho (by decide) hl rfl ⟨some (fD w), ?eff, ?lim, ?fits, ?act, fun v f hv => ?effect⟩
  case act =>
    dsimp only
    rw [nrmRun_dispatched hgo.idle]
    simp only [dispatched_descr]
    rfl
  case effect =>
    have hd : Dest c (destOf s c w) := hgo.dest List.mem_cons_self rfl
    have hg : Dest c (entryOf s c w 4).plain := hgo.dest (List.mem_cons_of_mem _ List.mem_cons_self) rfl
    generalize hdests : (destOf s c w :: (entryOf s c w 4).plain :: (if nKind w == 1 then [(entryOf s c w 5).plain] else [])) = dests at hgo ⊢
    have hmain : ∀ {u}, Wrote c nowhere v u → ∀ sat subn rsc cell out, Wrote c (Within dests) v
        (if nFuse w then u.tiled c f (fRm w) (destOf s c w) sat subn 0 rsc cell
          else ((u.storeAll (destOf s c w) (fun _ => fRm w) sat subn out).1, ({ tiles := 1 } : TileSum).also
            (u.storeAll (destOf s c w) (fun _ => fRm w) sat subn out).2)).1 := fun hu sat subn rsc cell out => by
      have hin : destOf s c w ∈ dests := hdests ▸ List.mem_cons_self
      exact .either _ (hu.anywhere.trans ((tiled_wrote hd hu.ready _ _ _ _ _ _ _).within hin))
        (hu.anywhere.trans ((storeAll_wrote hd hu.ready _ _ _ _).within hin))
    have hgain : ∀ {u}, Wrote c (Within dests) v u → ∀ sat subn out, Wrote c (Within dests) v
        (u.storeAll (entryOf s c w 4).plain (fun _ => fRm w) sat subn out).1 := fun hu sat subn out =>
      hu.trans ((storeAll_wrote hg hu.ready _ _ _ _).within (hdests ▸ List.mem_cons_of_mem _ List.mem_cons_self))
    have hbias : ∀ {u}, Wrote c (Within dests) v u → ∀ sat subn out, Wrote c (Within dests) v
        (if nKind w == 1 then u.storeAll (entryOf s c w 5).plain (fun _ => fRm w) sat subn out else (u, {})).1 := fun hu sat subn out => by
      split
      · next hln =>
        have hin : (entryOf s c w 5).plain ∈ dests := by
          rw [← hdests, if_pos hln]
          exact List.mem_cons_of_mem _ (List.mem_cons_of_mem _ List.mem_cons_self)
        exact hu.trans ((storeAll_wrote (hgo.dest (List.mem_append_left _ hin) rfl) hu.ready _ _ _ _).within hin)
      · exact hu
    exact Wrote.tileEnded (hbias (hgain (hmain (hv.logged _) _ _ _ _ _) _ _ _) _ _ _) ⟨rfl, rfl, rfl, rfl, rfl⟩ (more := fun _ => True) trivial _ _
      rfl

end

end Sys2Proof.Machine
end

section
/-! SUPPORT. NRM.STAT and NRM.NORM: the record of one row, and a normalised row (R178, R291, R292). -/

namespace Sys2Proof.Machine

set_option Elab.async false

section
variable {c : Cell} {s v : State} {w : W128}

/-- The immediate of an NRM reads as it did at dispatch (R130, R290). -/
theorem Started.nImm_of {P : Nat → Prop} {u : State} (h : Started c s v) (hw : Wrote c P v u) : nImm u (.cell c) w = nImm s (.cell c) w := by
  unfold nImm
  rw [h.subn_of hw]

theorem entryOf_zero (s : State) (c : Cell) (w : W128) : entryOf s c w 0 = s.descr (.cell c) (fA w) := rfl

/-! ## The record of one row -/

theorem recsOf_extents (d : Desc) {rows : Nat} (h : rows = 1) : (recsOf d rows).extent 0 = 2 ∧ (recsOf d rows).rows = 1 := by
  subst h
  exact ⟨rfl, rfl⟩

/-- A record of one row lies in its eight bytes. -/
theorem recsOf_covers (d : Desc) {rows : Nat} (h : rows = 1) {p : Nat} (hp : (recsOf d rows).Covers p) : p < d.base + 8 := by
  subst h
  have hmx : fmtMx (recsOf d 1).fmt = false := (by decide : fmtMx 0 = false)
  have hbits : fmtBits (recsOf d 1).fmt = 32 := (by decide : fmtBits 0 = 32)
  have hbytes : (recsOf d 1).rowBytes = 8 := by
    unfold Desc.rowBytes
    rw [hmx, hbits, (recsOf_extents d rfl).1]
    rfl
  have hspans : (recsOf d 1).spans = [((recsOf d 1).rowAddr [0, 0, 0, 0, 0], 8)] := by
    unfold Desc.spans
    rw [if_neg (show ¬ (recsOf d 1).compressed = true from Bool.false_ne_true), (recsOf_extents d rfl).2, List.range_one, List.map_singleton,
      row_zero, hbytes, hmx, if_neg Bool.false_ne_true, if_neg (show ¬ (recsOf d 1).fmt = 1 from Nat.zero_ne_one)]
    exact List.append_nil _
  obtain ⟨r, hr, hlo, hhi⟩ := hp
  rw [hspans, List.mem_singleton] at hr
  rw [hr, rowAddr_zero] at hhi
  exact hhi

/-- The record of one row, stored: two FP32 values (R178). -/
theorem storeRecs_words {d : Desc} {rows : Nat} (hd : Dest c (recsOf d rows)) (h : Ready c s) (hrows : rows = 1) (rm : Rm) (subn : Bool)
    {out : List Nat → Out} {r : Num × Num} {bad : Nat} (h0 : (out [0, 0, 0, 0, 0]).num = r.1 ∧ (out [0, 0, 0, 0, 0]).bad = bad)
    (h1 : (out [1, 0, 0, 0, 0]).num = r.2 ∧ (out [1, 0, 0, 0, 0]).bad = bad) :
    leNat ((s.storeAll (recsOf d rows) (fun _ => rm) false subn out).1.mem.raw d.base 4) =
      (putPlain 0 rm false subn ⟨r.1, bad, false, 0, 0⟩).bits ∧
    leNat ((s.storeAll (recsOf d rows) (fun _ => rm) false subn out).1.mem.raw (d.base + 4) 4) =
      (putPlain 0 rm false subn ⟨r.2, bad, false, 0, 0⟩).bits := by
  obtain ⟨hext, hone⟩ := recsOf_extents d hrows
  have hword := fun i hi => storeAll_word hd h hone (.inl rfl) rm false subn out (i := i) hi
  constructor
  · refine (hword 0 (by omega)).trans ((Nat.mod_eq_of_lt (putPlain_fp32_lt _ _ _ _)).trans ?_)
    exact putPlain_bits_congr 0 rm false subn h0.1 h0.2
  · refine (hword 1 (by omega)).trans ((Nat.mod_eq_of_lt (putPlain_fp32_lt _ _ _ _)).trans ?_)
    exact putPlain_bits_congr 0 rm false subn h1.1 h1.2

/-- A row of FP32 elements stands when the record of the row is stored below it. -/
theorem storeRecs_keeps {d dr : Desc} {rows : Nat} (hd : Dest c d) (hs : Dest c (recsOf dr rows)) (h : Ready c s) (hf : d.fmt = 0)
    (hone : d.rows = 1) (hrows : rows = 1) (hbase : dr.base + 8 ≤ d.base) (rm : Rm) (sat subn : Bool) (out out' : List Nat → Out) {i : Nat}
    (hi : i < d.extent 0) : leNat (((s.storeAll d (fun _ => rm) sat subn out).1.storeAll (recsOf dr rows) (fun _ => rm) false subn out').1.mem.raw
      (d.base + 4 * i) 4) = (putPlain 0 rm sat subn (out [i, 0, 0, 0, 0])).bits := by
  have hword := storeAll_word hd h hone (.inl hf) rm sat subn out hi
  rw [hf, Nat.mod_eq_of_lt (putPlain_fp32_lt _ _ _ _)] at hword
  rw [← hword]
  refine congrArg leNat (List.map_congr_left (fun j _ =>
    (storeAll_wrote hs (storeAll_wrote hd h (fun _ => rm) sat subn out).ready (fun _ => rm) false subn out').bytes _ (fun hin => ?_)))
  have := recsOf_covers dr hrows hin
  omega

variable (hp : PlainMemory s) (hoff : RingsOff s) (hc : fCls w = 4)
include hp hoff hc

/-- What NRM.STAT of one row writes (R178, R291). -/
def StatHolds (s : State) (c : Cell) (w : W128) (m : Mem) : Prop :=
  let els := (s.load (s.subn (.cell c)) (entryOf s c w 0)).els
  let r := rowRec (fRm w) (nKind w) (nImm s (.cell c) w) (nums (fRm w) els)
  let out (v : Num) : Nat := (putPlain 0 (fRm w) false (s.subn (.cell c)) ⟨v, badOf els, false, 0, 0⟩).bits
  (entryOf s c w 0).rows = 1 → els.length = (entryOf s c w 0).extent 0 →
    leNat (m.raw (s.descr (.cell c) (fD w)).base 4) = out r.1 ∧ leNat (m.raw ((s.descr (.cell c) (fD w)).base + 4) 4) = out r.2

/-- NRM.STAT writes the records of its rows (R178, R291). -/
theorem nrmStat_runs (ho : fOp w = 0)
    (hl : illegalDetail (s.exe (.cell c)) (.cell c) w (nrmNeed (.cell c) w s true false false [0] [0] []) = 0)
    (hgo : EngineGoing s c w false ([recsOf (s.descr (.cell c) (fD w)) (entryOf s c w 0).rows] ++ [entryOf s c w 0])) :
    MatrixRuns s c w (exec (.nrmStat (.cell c) w) s) [recsOf (s.descr (.cell c) (fD w)) (entryOf s c w 0).rows] (entryOf s c w 0).rows
      (StatHolds s c w) := by
  show MatrixRuns s c w (execNrmStat (.cell c) w s) _ _ _
  unfold execNrmStat
  refine matrix_settles hp hoff hgo hc ho (by decide) hl rfl ⟨some (fD w), ?eff, ?lim, ?fits, ?act, fun v f hv => ?effect⟩
  case act =>
    dsimp only
    rw [nrmRun_dispatched hgo.idle]
    simp only [dispatched_descr]
    rfl
  case effect =>
    have hd : Dest c (recsOf (s.descr (.cell c) (fD w)) (entryOf s c w 0).rows) := hgo.dest List.mem_cons_self rfl
    have hlog := hv.logged [s.descr (.cell c) (fA w)]
    refine (hlog.anywhere.trans ((storeAll_wrote hd hlog.ready _ _ _ _).within List.mem_cons_self)).ended ⟨rfl, rfl, rfl, rfl, rfl⟩ ?_ _ _ _ _
    intro hrows hlen
    rw [entryOf_zero] at hlen
    have hels : ((v.load (v.subn (.cell c)) (s.descr (.cell c) (fA w))).els.drop (0 * (s.descr (.cell c) (fA w)).extent 0)).take
        ((s.descr (.cell c) (fA w)).extent 0) = (s.load (s.subn (.cell c)) (s.descr (.cell c) (fA w))).els := by
      rw [hv.view.load, hv.view.subn, Nat.zero_mul, List.drop_zero]
      exact List.take_of_length_le hlen.le
    rw [hv.subn_of hlog]
    have hrow : ∀ i, (rowRec (fRm w) (nKind w) (nImm (v.logAbandoned c [s.descr (.cell c) (fA w)]) (.cell c) w) (nums (fRm w)
        (((v.load (v.subn (.cell c)) (s.descr (.cell c) (fA w))).els.drop ([i, 0, 0, 0, 0].getD 1 0 * (s.descr (.cell c) (fA w)).extent 0)).take
          ((s.descr (.cell c) (fA w)).extent 0)))) = rowRec (fRm w) (nKind w) (nImm s (.cell c) w)
            (nums (fRm w) (s.load (s.subn (.cell c)) (s.descr (.cell c) (fA w))).els) := fun _ => by
      rw [hv.nImm_of hlog, ← hels]
      rfl
    exact storeRecs_words hd hlog.ready hrows (fRm w) _ ⟨congrArg Prod.fst (hrow 0), congrArg badOf hels⟩
      ⟨congrArg Prod.snd (hrow 1), congrArg badOf hels⟩

/-- What NRM.NORM of kind RMSNORM makes of an element of a row (R292). -/
def rmsOut (s : State) (c : Cell) (w : W128) (i : Nat) : Out :=
  let row := (s.load (s.subn (.cell c)) (entryOf s c w 0)).row ((destOf s c w).extent 0) [0, 0, 0, 0]
  let r := rowRec (fRm w) 2 (nImm s (.cell c) w) (nums (fRm w) row)
  let g := elemAt s c (fA w + 1) i
  mkOut (st32 (fRm w) ((st32 (fRm w) ((st32 (fRm w) (elemAt s c (fA w) i).num).mul r.1)).mul (st32 (fRm w) g.num))) (row ++ [g, zeroEl])

/-- What NRM.NORM of one row into FP32 writes (R292). -/
def NormHolds (s : State) (c : Cell) (w : W128) (m : Mem) : Prop :=
  nKind w = 2 → (destOf s c w).fmt = 0 → (destOf s c w).ndim = 1 → (entryOf s c w 3).base + 8 ≤ (destOf s c w).base →
    ∀ i : Nat, i < (destOf s c w).extent 0 → leNat (m.raw ((destOf s c w).base + 4 * i) 4) =
      (putPlain 0 (fRm w) (fSAT w) (s.subn (.cell c)) (rmsOut s c w i)).bits

omit hp hoff hc in
/-- A row of an operand as an instruction reads it over its destination. -/
theorem Started.elemRow (h : Started c s v) (k : Nat) : (v.loadFor (v.subn (.cell c)) (s.descr (.cell c) (fD w)).plain (s.descr (.cell c) k)).row
    ((s.descr (.cell c) (fD w)).plain.extent 0) [0, 0, 0, 0] =
      (s.load (s.subn (.cell c)) (s.descr (.cell c) k)).row ((destOf s c w).extent 0) [0, 0, 0, 0] :=
  List.map_congr_left (fun _ hj => h.elem k (List.mem_range.mp hj))

/-- NRM.NORM writes D and the records of its rows (R292). -/
theorem nrmNorm_runs (ho : fOp w = 1) (hl : illegalDetail (s.exe (.cell c)) (.cell c) w (nrmNeed (.cell c) w s true false false
      ([0, 1] ++ (if nKind w == 1 then [2] else []) ++ [3]) ([0, 1] ++ (if nKind w == 1 then [2] else []) ++ [3]) []) = 0)
    (hgo : EngineGoing s c w false ([destOf s c w, recsOf (entryOf s c w 3) (destOf s c w).rows] ++
      ([entryOf s c w 0, entryOf s c w 1] ++ (if nKind w == 1 then [entryOf s c w 2] else [])))) :
    MatrixRuns s c w (exec (.nrmNorm (.cell c) w) s) [destOf s c w, recsOf (entryOf s c w 3) (destOf s c w).rows] (destOf s c w).rows
      (NormHolds s c w) := by
  show MatrixRuns s c w (execNrmNorm (.cell c) w s) _ _ _
  unfold execNrmNorm
  refine matrix_settles hp hoff hgo hc ho (by decide) hl rfl ⟨some (fD w), ?eff, ?lim, ?fits, ?act, fun v f hv => ?effect⟩
  case act =>
    dsimp only
    rw [nrmRun_dispatched hgo.idle]
    simp only [dispatched_descr]
    rfl
  case effect =>
    have hd : Dest c (destOf s c w) := hgo.dest List.mem_cons_self rfl
    have hs : Dest c (recsOf (entryOf s c w 3) (destOf s c w).rows) := hgo.dest (List.mem_cons_of_mem _ List.mem_cons_self) rfl
    have hlog := hv.logged ([s.descr (.cell c) (fA w), s.descr (.cell c) (fA w + 1)] ++
      (if nKind w == 1 then [s.descr (.cell c) (fA w + 2)] else []))
    have hrows := fun sat subn out => storeAll_wrote hd hlog.ready (fun _ => fRm w) sat subn out
    have hrecs := fun sat subn out out' => storeAll_wrote hs (hrows sat subn out).ready (fun _ => fRm w) false subn out'
    refine ((hlog.anywhere.trans ((hrows _ _ _).within List.mem_cons_self)).trans
      ((hrecs _ _ _ _).within (List.mem_cons_of_mem _ List.mem_cons_self))).ended ⟨rfl, rfl, rfl, rfl, rfl⟩ ?_ _ _ _ _
    intro hk hf hn hbase i hi
    have hone : (destOf s c w).rows = 1 := rows_flat hn
    refine (storeRecs_keeps hd hs hlog.ready hf hone hone hbase _ _ _ _ _ hi).trans ?_
    refine (congrArg (fun b => (putPlain 0 _ _ b _).bits) (hv.view.subn (.cell c))).trans (putPlain_bits_congr 0 _ _ _ ?_ ?_)
    all_goals
      simp only [List.drop_succ_cons, List.drop_zero]
      rw [hv.elemRow (fA w), hv.elem (fA w) hi, hv.elem (fA w + 1) hi, hv.nImm_of hlog, hk]
      rfl

end

end Sys2Proof.Machine
end

section
/-! SUPPORT. MM of one element: the operands it reads, its accumulator from a zero of the accumulator's format, and the tile of one element
(R144 to R146, R262, R281 to R283, R348). -/

namespace Sys2Proof.Machine

set_option Elab.async false

/-! ## The accumulator -/

/-- A zero added to a value leaves it, whatever the zero's place. -/
theorem add_zero_place (e : Int) (x : Num) : (Num.fin false 0 e).add x = (Num.fin false 0 0).add x := by
  cases x with
  | nan => rfl
  | inf _ => rfl
  | fin s m q => simp [Num.add]

/-- Nothing to start from is a zero in the accumulator's format (R146). -/
theorem accFmt_zero (fa fb : Nat) (rm : Rm) (sc : Int) : ∃ e,
    (accFmt fa fb).decode ((accFmt fa fb).encode rm false ((Num.fin false 0 0).scale sc)).bits = .fin false 0 e := by
  have hbits : ∀ f : FFmt, (f.encode rm false ((Num.fin false 0 0).scale sc)).bits = 0 := fun f => Nat.zero_mul _
  rw [hbits]
  unfold accFmt
  split <;> exact ⟨_, rfl⟩

theorem ceilDiv_pos {k n : Nat} (hk : 0 < k) (hn : 0 < n) : 0 < ceilDiv k n := by
  unfold ceilDiv
  exact Nat.div_pos (by omega) hn

/-- A zero to start from adds nothing (R146, R282). -/
theorem acc_zero {i : MmIn} (hk : 0 < i.k) (e : Int) (m n b : Nat) (sc : Int) : i.acc (.fin false 0 e) m n b sc = i.acc (.fin false 0 0) m n b sc := by
  obtain ⟨g, hg⟩ := Nat.exists_eq_add_of_lt (ceilDiv_pos hk (n := 32) (by decide))
  unfold MmIn.acc
  rw [hg, Nat.zero_add, List.range_succ_eq_map, List.foldl_cons, List.foldl_cons]
  unfold addRound
  dsimp only
  rw [add_zero_place e]

/-- Two multiplies that read the same elements for an output element. -/
structure SameReads (i j : MmIn) (m n b : Nat) : Prop where
  fa : i.fa = j.fa
  fb : i.fb = j.fb
  k : i.k = j.k
  rm : i.rm = j.rm
  a : ∀ k, k < j.k → i.a.mat i.oa m k b = j.a.mat j.oa m k b
  b : ∀ k, k < j.k → i.b.mat i.ob n k b = j.b.mat j.ob n k b

section
variable {i j : MmIn} {m n b : Nat}

theorem SameReads.acc (h : SameReads i j m n b) (start : Num) (sc : Int) : i.acc start m n b sc = j.acc start m n b sc := by
  have hgroup : ∀ g, ((natRange (32 * g) 32).filter (fun k => decide (k < j.k))).map
        (fun k => (i.a.mat i.oa m k b).num.mul (i.b.mat i.ob n k b).num) =
      ((natRange (32 * g) 32).filter (fun k => decide (k < j.k))).map
        (fun k => (j.a.mat j.oa m k b).num.mul (j.b.mat j.ob n k b).num) := fun g =>
    List.map_congr_left (fun k hk => by
      have hlt := of_decide_eq_true (List.mem_filter.mp hk).2
      rw [h.a k hlt, h.b k hlt])
  unfold MmIn.acc
  rw [h.fa, h.fb, h.k, h.rm]
  simp only [hgroup]

theorem SameReads.bad (h : SameReads i j m n b) : i.bad m n b = j.bad m n b := by
  unfold MmIn.bad
  rw [h.k]
  refine List.foldl_ext _ _ _ (fun d k hk => ?_)
  rw [h.a k (List.mem_range.mp hk), h.b k (List.mem_range.mp hk)]

end

/-! ## What is read of an operand -/

/-- The extents of a tensor that was read. -/
def Tens.Five (t : Tens) : Prop := ∃ e0 e1 e2 e3 e4, t.ext = [e0, e1, e2, e3, e4] ∧ 0 < e0 ∧ 0 < e1 ∧ 0 < e2 ∧ 0 < e3 ∧ 0 < e4

theorem load_five (s : State) (subn : Bool) (d : Desc) : (s.load subn d).Five :=
  ⟨d.extent 0, d.extent 1, d.extent 2, d.extent 3, d.extent 4, rfl, extent_pos d 0, extent_pos d 1, extent_pos d 2, extent_pos d 3, extent_pos d 4⟩

theorem load_kExtent_pos (s : State) (subn : Bool) (d : Desc) (o : Bool) : 0 < (s.load subn d).kExtent o := by
  unfold Tens.kExtent
  show 0 < if o then d.extent 0 * d.extent 2 else d.extent 1
  split
  · exact Nat.mul_pos (extent_pos d 0) (extent_pos d 2)
  · exact extent_pos d 1

/-- What is left of an operand stands (R262). -/
theorem only_getD {t : Tens} {p : List Nat → Bool} {j : Nat} (h : p (unrank t.ext j) = true) : (t.only p).els.getD j zeroEl = t.els.getD j zeroEl := by
  unfold Tens.only
  dsimp only
  by_cases hj : j < t.els.length
  · rw [getD_map_lt _ _ (by rw [List.length_range]; exact hj) 0, getD_range hj, if_pos h]
  · rw [List.getD_eq_default _ _ (by rw [List.length_map, List.length_range]; omega), List.getD_eq_default _ _ (by omega)]

section
variable {t : Tens} {e0 e1 e2 e3 e4 q : Nat} (hext : t.ext = [e0, e1, e2, e3, e4]) (h0 : 0 < e0) (h1 : 0 < e1) (h2 : 0 < e2) (h3 : 0 < e3)
  (h4 : 0 < e4)
include hext h0 h1 h2 h3 h4

omit h1 in
/-- An element of the first column of an operand by rows and columns (R281). -/
theorem mat_plain : t.mat false 0 q 0 = if e1 ≤ q then zeroEl else t.els.getD (rank [e0, e1, e2, e3, e4] [0, q, 0, 0, 0]) zeroEl := by
  have hb : 0 < e2 * e3 * e4 := Nat.mul_pos (Nat.mul_pos h2 h3) h4
  unfold Tens.mat Tens.batches
  rw [hext]
  show (if e2 * e3 * e4 ≤ (if e2 * e3 * e4 = 1 then 0 else 0) then zeroEl else if e0 ≤ (if e0 = 1 then 0 else 0) ∨ e1 ≤ q then zeroEl
    else t.els.getD ((if e0 = 1 then 0 else 0) + e0 * (q + e1 * (if e2 * e3 * e4 = 1 then 0 else 0))) zeroEl) = _
  simp only [ite_self]
  rw [if_neg (by omega)]
  refine if_congr (by omega) rfl (congrArg (t.els.getD · zeroEl) ?_)
  show 0 + e0 * (q + e1 * 0) = 0 + e0 * (q + e1 * (0 + e2 * (0 + e3 * (0 + e4 * 0))))
  simp

omit h0 h1 h2 in
/-- An element of the first column of an operand in tile form (R281). -/
theorem mat_tile : t.mat true 0 q 0 = if e2 ≤ q / e0 then zeroEl
    else t.els.getD (rank [e0, e1, e2, e3, e4] [q % e0, 0, q / e0, 0, 0]) zeroEl := by
  unfold Tens.mat Tens.batches
  rw [hext]
  show (if e4 ≤ (if e4 = 1 then 0 else 0) then zeroEl else if e2 ≤ q / e0 ∨ e3 ≤ 0 then zeroEl
    else t.els.getD (rank [e0, e1, e2, e3, e4] [q % e0, 0, q / e0, 0, if e4 = 1 then 0 else 0]) zeroEl) = _
  simp only [ite_self]
  rw [if_neg (by omega)]
  exact if_congr (by omega) rfl rfl

end

/-- A multiply of one element reads the same of an operand as of what it keeps of it (R262, R281). -/
theorem onlyMat_mat {t : Tens} (ht : t.Five) (o : Bool) {free k nb : Nat} (hf : 0 < free) (hnb : 0 < nb) {q : Nat} (hq : q < k) :
    (t.onlyMat o free k nb).mat o 0 q 0 = t.mat o 0 q 0 := by
  obtain ⟨e0, e1, e2, e3, e4, hext, h0, h1, h2, h3, h4⟩ := ht
  have hkeep : (t.onlyMat o free k nb).ext = [e0, e1, e2, e3, e4] := hext
  cases o with
  | false =>
    rw [mat_plain hkeep h0 h2 h3 h4, mat_plain hext h0 h2 h3 h4]
    split
    · rfl
    · next hin =>
      have hback := (rank_forall₂ (l := [e0, e1, e2, e3, e4]) (u := [0, q, 0, 0, 0])
        (.cons h0 (.cons (by omega) (.cons h2 (.cons h3 (.cons h4 .nil)))))).2
      refine only_getD ?_
      rw [hext, hback]
      simp [hf, hq, hnb]
  | true =>
    rw [mat_tile hkeep h3 h4, mat_tile hext h3 h4]
    split
    · rfl
    · next hin =>
      have hback := (rank_forall₂ (l := [e0, e1, e2, e3, e4]) (u := [q % e0, 0, q / e0, 0, 0])
        (.cons (Nat.mod_lt _ h0) (.cons h1 (.cons (by omega) (.cons h3 (.cons h4 .nil)))))).2
      refine only_getD ?_
      rw [hext, hback]
      simp [hf, hq, hnb, Nat.mod_add_div]

/-! ## A tile of one element -/

section
variable {c : Cell} {s : State} {d : Desc}

/-- A tile that RSC does not let be rescaled is written as it was computed (R348). -/
theorem tile_unrescaled (s : State) (f : Flight) (d : Desc) (rm : Rm) (compute : Int → List TileEl) (oscale : Int) (trow tcol batch : Nat) :
    (s.tile c f d rm 0 compute oscale trow tcol batch).2.ts = compute oscale ∧
    (s.tile c f d rm 0 compute oscale trow tcol batch).2.shift = 0 := by
  unfold State.tile
  rw [show rescales 0 d.fmt = false from rfl]
  simp only [Bool.false_eq_true, if_false]
  unfold rescue
  split
  all_goals
    dsimp only
    split <;> exact ⟨rfl, rfl⟩

theorem Wrote.raw {t : State} (h : Wrote c nowhere s t) (a n : Nat) : t.mem.raw a n = s.mem.raw a n :=
  List.map_congr_left (fun _ _ => h.bytes _ id)

/-- A tile of one element is a row of one element. -/
theorem storeTile_one (s : State) {t : TileEl} (hr : t.r = 0) (hrows : d.rows = 1) (he : d.extent 0 = 1) (rm : Rm) (sat subn : Bool) :
    (s.storeTile d rm sat subn 0 0 0 [0, 0, 0] [t]).1 =
      (s.storeAll d (fun _ => rm) sat subn (fun _ => ⟨t.v, t.bad, t.nanIn, 0, 0⟩)).1 := by
  have hkept : (List.range 64).filter (fun r => [t].any (fun t => t.r == r)) = [0] := by
    simp only [List.any_cons, List.any_nil, Bool.or_false, hr]
    decide
  have hrow : [t].filter (fun t => t.r == 0) = [t] := by
    rw [List.filter_singleton, hr]
    rfl
  rw [storeAll_flat hrows, he]
  unfold State.storeTile
  rw [hkept]
  simp only [List.foldl_cons, List.foldl_nil, hrow]
  rfl

/-- A destination of one FP32 element written as a tile (R283). -/
theorem tiled_word (hd : Dest c d) (h : Ready c s) (hn : d.ndim = 1) (he : d.extent 0 = 1) (hf : d.fmt = 0) (f : Flight) (rm : Rm)
    (sat subn : Bool) (oscale : Int) (cell : Int → Nat → Nat → Nat → TileEl) :
    leNat ((s.tiled c f rm d sat subn oscale 0 cell).1.mem.raw d.base 4) =
      (putPlain 0 rm sat subn ⟨(cell oscale 0 0 0).v, (cell oscale 0 0 0).bad, false, 0, 0⟩).bits := by
  have hext : d.extents = [1, 1, 1, 1, 1] := by
    show [d.extent 0, d.extent 1, d.extent 2, d.extent 3, d.extent 4] = _
    rw [he, extent_flat hn (by decide), extent_flat hn (by decide), extent_flat hn (by decide), extent_flat hn (by decide)]
  have htiles : tilesOf [1, 1, 1, 1, 1] = [(0, 0, 0)] := by decide
  have hcells : tileCells [1, 1, 1, 1, 1] 0 0 = [(0, 0)] := by decide
  have hin : 0 < d.extent 0 := by omega
  have hstored : ∀ {u : State} {ts : List TileEl} {shift : Nat}, Wrote c nowhere s u → shift = 0 →
      ts = [{ cell oscale 0 0 0 with r := 0, c := 0 }] → Ready c (u.storeTile d rm sat subn shift 0 0 [0, 0, 0] ts).1 ∧
      leNat ((u.storeTile d rm sat subn shift 0 0 [0, 0, 0] ts).1.mem.raw d.base 4) =
        (putPlain 0 rm sat subn ⟨(cell oscale 0 0 0).v, (cell oscale 0 0 0).bad, false, 0, 0⟩).bits := fun {u ts shift} hu hshift hts => by
    subst hshift hts
    rw [storeTile_one u rfl (rows_flat hn) he]
    refine ⟨(storeAll_wrote hd hu.ready _ _ _ _).ready, ?_⟩
    refine (storeAll_word hd hu.ready (rows_flat hn) (.inl hf) rm sat subn _ hin).trans ?_
    rw [hf, Nat.mod_eq_of_lt (putPlain_fp32_lt _ _ _ _)]
    exact putPlain_bits_congr 0 rm sat subn rfl rfl
  obtain ⟨hts, hshift⟩ := tile_unrescaled (c := c) s f d rm (fun sc => [{ cell sc 0 0 0 with r := 0, c := 0 }]) oscale 0 0 0
  obtain ⟨hready, hword⟩ := hstored (tile_facts h f d rm 0 (fun sc => [{ cell sc 0 0 0 with r := 0, c := 0 }]) oscale 0 0 0).1 hshift hts
  unfold State.tiled
  rw [hext, htiles]
  simp only [List.foldl_cons, List.foldl_nil, hcells, List.map_cons, List.map_nil]
  exact (congrArg leNat ((wrote_iff _ hready (ringPut_wrote hready _ _)).raw _ _)).trans hword

end

end Sys2Proof.Machine
end

section
/-! SUPPORT. MM in its three modes: the destinations it writes, the tiles it counts, and one element of a product (R176, R281 to R284). -/

namespace Sys2Proof.Machine

set_option Elab.async false

section
variable {c : Cell} {s : State} {w : W128}

/-- The multiply a word of MM names, its operands as they stood before (R281, R282). -/
def mmOf (s : State) (c : Cell) (w : W128) : MmIn :=
  ⟨s.load (s.subn (.cell c)) (s.descr (.cell c) (fA w)), s.load (s.subn (.cell c)) (s.descr (.cell c) (fB w)), (s.descr (.cell c) (fA w)).orient,
    (s.descr (.cell c) (fB w)).orient, (s.descr (.cell c) (fA w)).fmt, (s.descr (.cell c) (fB w)).fmt,
    (s.load (s.subn (.cell c)) (s.descr (.cell c) (fA w))).kExtent (s.descr (.cell c) (fA w)).orient, fRm w⟩

/-- What MM of one element writes in MODE 0 (R144 to R146, R282). -/
def MmHolds (s : State) (c : Cell) (w : W128) (m : Mem) : Prop :=
  (destOf s c w).fmt = 0 → (destOf s c w).ndim = 1 → (destOf s c w).extent 0 = 1 → s.fld .NUM_CTRL_RSC c.region = 0 →
    (mmOf s c w).bad 0 0 0 = 0 → s.subn (.cell c) = false →
    leNat (m.raw (destOf s c w).base 4) =
      (f32.encode (fRm w) (fSAT w) ((mmOf s c w).acc (.fin false 0 0) 0 0 0 (signedOf 8 (wf w 51 8)))).bits

/-- What MM reads of its operands for the extents it runs over (R262, R281). -/
def mmKept (s : State) (c : Cell) (w : W128) (exts : List Nat) : MmIn :=
  { mmOf s c w with
    a := (mmOf s c w).a.onlyMat (mmOf s c w).oa (exts.getD 1 1) (mmOf s c w).k (exts.getD 2 1 * exts.getD 3 1 * exts.getD 4 1)
    b := (mmOf s c w).b.onlyMat (mmOf s c w).ob (exts.getD 0 1) (mmOf s c w).k (exts.getD 2 1 * exts.getD 3 1 * exts.getD 4 1) }

/-- An output element at the origin reads what it would of the whole operands. -/
theorem mmKept_sameReads {exts : List Nat} (h : ∀ k, k < 5 → 0 < exts.getD k 1) : SameReads (mmKept s c w exts) (mmOf s c w) 0 0 0 := by
  have hnb : 0 < exts.getD 2 1 * exts.getD 3 1 * exts.getD 4 1 :=
    Nat.mul_pos (Nat.mul_pos (h 2 (by decide)) (h 3 (by decide))) (h 4 (by decide))
  exact ⟨rfl, rfl, rfl, rfl, fun k hk => onlyMat_mat (load_five s _ _) _ (h 1 (by decide)) hnb hk,
    fun k hk => onlyMat_mat (load_five s _ _) _ (h 0 (by decide)) hnb hk⟩

/-- The one element of a product, converted (R146, R282). -/
theorem mm_one {exts : List Nat} (h : ∀ k, k < 5 → 0 < exts.getD k 1) (hbad : (mmOf s c w).bad 0 0 0 = 0) (sat : Bool) (sc : Int) :
    (putPlain 0 (fRm w) sat false ⟨(mmKept s c w exts).acc ((accFmt (mmKept s c w exts).fa (mmKept s c w exts).fb).decode
        ((accFmt (mmKept s c w exts).fa (mmKept s c w exts).fb).encode (mmKept s c w exts).rm false (zeroEl.num.scale sc)).bits) 0 0 0 sc,
      worseDetail ((mmKept s c w exts).bad 0 0 0) zeroEl.bad, false, 0, 0⟩).bits =
      (f32.encode (fRm w) sat ((mmOf s c w).acc (.fin false 0 0) 0 0 0 sc)).bits := by
  have hsame := mmKept_sameReads (s := s) (c := c) (w := w) h
  have hk : 0 < (mmOf s c w).k := load_kExtent_pos s _ _ _
  obtain ⟨e, he⟩ := accFmt_zero (mmKept s c w exts).fa (mmKept s c w exts).fb (mmKept s c w exts).rm sc
  rw [show zeroEl.num = Num.fin false 0 0 from rfl, he, hsame.acc, acc_zero hk, hsame.bad, hbad]
  rfl

variable (hp : PlainMemory s) (hoff : RingsOff s) (hc : fCls w = 2) (ho : fOp w = 0)
  (hl : illegalDetail (s.exe (.cell c)) (.cell c) w (mmNeed (.cell c) w s) = 0)
include hp hoff hc ho hl

/-- MM in MODE 0 writes the product (R282, R283). -/
theorem mm_product_runs (hm : wf w 60 2 = 0)
    (hgo : EngineGoing s c w false ([destOf s c w] ++ [s.descr (.cell c) (fA w), s.descr (.cell c) (fB w)])) :
    MatrixRuns s c w (exec (.mmaMm (.cell c) w) s) [destOf s c w] (tileCount (destOf s c w)) (MmHolds s c w) := by
  show MatrixRuns s c w (execMmaMm (.cell c) w s) _ _ _
  unfold execMmaMm
  refine matrix_settles hp hoff hgo hc ho (by decide) hl rfl ⟨some (fD w), ?eff, ?lim, ?fits, ?act, fun v f hv => ?effect⟩
  case act =>
    dsimp only
    simp only [dispatched_descr, hm, OfNat.zero_ne_ofNat, zero_ne_one, if_false, List.append_nil, Nat.reduceBEq]
    rfl
  case effect =>
    have hd : Dest c (destOf s c w) := hgo.dest List.mem_cons_self rfl
    have hlog := hv.logged [s.descr (.cell c) (fA w), s.descr (.cell c) (fB w)]
    have hrsc : (v.logAbandoned c [s.descr (.cell c) (fA w), s.descr (.cell c) (fB w)]).fld .NUM_CTRL_RSC c.region = s.fld .NUM_CTRL_RSC c.region :=
      hv.fld hlog _ (by decide) (by decide) _
    simp only [hv.view.subn, hv.view.load]
    change Effect c _ _ _ v f (((v.logAbandoned c [s.descr (.cell c) (fA w), s.descr (.cell c) (fB w)]).mmPlain c f
      (mmKept s c w (destOf s c w).extents) (destOf s c w) none (fSAT w) (s.subn (.cell c)) (signedOf 8 (wf w 51 8))
      ((v.logAbandoned c [s.descr (.cell c) (fA w), s.descr (.cell c) (fB w)]).fld .NUM_CTRL_RSC c.region)).1.tileEnd c f _ _ _)
    refine Wrote.tileEnded (hlog.anywhere.trans ((tiled_wrote hd hlog.ready _ _ _ _ _ _ _).within List.mem_cons_self)) ⟨rfl, rfl, rfl, rfl, rfl⟩ ?_ _ _
      (tiled_tiles _ _ _ _ _ _ _ _ _)
    intro hf hn he hz hbad hsn
    rw [hrsc, hz, hsn]
    refine (tiled_word hd hlog.ready hn he hf _ _ _ _ _ _).trans ?_
    exact mm_one (fun k hk => by rw [extents_getD _ hk]; exact extent_pos _ _) hbad _ _

/-- MM in MODE 1 writes the product and C (R282, R283). -/
theorem mm_sum_runs (hm : wf w 60 2 = 1)
    (hgo : EngineGoing s c w false ([destOf s c w] ++ [s.descr (.cell c) (fA w), s.descr (.cell c) (fB w), s.descr (.cell c) (fC w)])) :
    MatrixRuns s c w (exec (.mmaMm (.cell c) w) s) [destOf s c w] (tileCount (destOf s c w)) (fun _ => True) := by
  show MatrixRuns s c w (execMmaMm (.cell c) w s) _ _ _
  unfold execMmaMm
  refine matrix_settles hp hoff hgo hc ho (by decide) hl rfl ⟨some (fD w), ?eff, ?lim, ?fits, ?act, fun v f hv => ?effect⟩
  case act =>
    dsimp only
    simp only [dispatched_descr, hm, OfNat.one_ne_ofNat, if_true, if_false, Nat.reduceBEq, List.cons_append, List.nil_append]
    rfl
  case effect =>
    have hd : Dest c (destOf s c w) := hgo.dest List.mem_cons_self rfl
    have hlog := hv.logged [s.descr (.cell c) (fA w), s.descr (.cell c) (fB w), s.descr (.cell c) (fC w)]
    exact Wrote.tileEnded (hlog.anywhere.trans ((tiled_wrote hd hlog.ready _ _ _ _ _ _ _).within List.mem_cons_self)) ⟨rfl, rfl, rfl, rfl, rfl⟩
      (more := fun _ => True) trivial _ _ (tiled_tiles _ _ _ _ _ _ _ _ _)

/-- MM in MODE 2 without a narrow copy writes the residual sum (R176, R282). -/
theorem mm_residual_runs (hm : wf w 60 2 = 2) (hn : (wf w 59 1 == 1) = false)
    (hgo : EngineGoing s c w false ([(s.descr (.cell c) (fC w)).plain] ++ [s.descr (.cell c) (fA w), s.descr (.cell c) (fB w)])) :
    MatrixRuns s c w (exec (.mmaMm (.cell c) w) s) [(s.descr (.cell c) (fC w)).plain] (tilesOf (s.descr (.cell c) (fC w)).plain.extents).length
      (fun _ => True) := by
  show MatrixRuns s c w (execMmaMm (.cell c) w s) _ _ _
  unfold execMmaMm
  refine matrix_settles hp hoff hgo hc ho (by decide) hl rfl ⟨some (fC w), ?eff, ?lim, ?fits, ?act, fun v f hv => ?effect⟩
  case act =>
    dsimp only
    simp only [dispatched_descr, hm, hn, OfNat.ofNat_ne_one, if_true, Bool.false_eq_true, if_false, Nat.reduceBEq, List.append_nil]
    rfl
  case effect =>
    have hd : Dest c (s.descr (.cell c) (fC w)).plain := hgo.dest List.mem_cons_self rfl
    have hlog := hv.logged [s.descr (.cell c) (fA w), s.descr (.cell c) (fB w)]
    exact Wrote.tileEnded (hlog.anywhere.trans (residual_wrote hd hlog.ready _ _ _ _ _ _)) (sameOp_resid f _)
      (more := fun _ => True) trivial _ _ (mmResidual_tiles _ _ _ _ _ _ _ _ _)

/-- MM in MODE 2 with a narrow copy writes the residual sum and the copy (R176, R262, R282). -/
theorem mm_narrowed_runs (hm : wf w 60 2 = 2) (hn : (wf w 59 1 == 1) = true)
    (hgo : EngineGoing s c w false ([(s.descr (.cell c) (fC w)).plain, destOf s c w] ++ [s.descr (.cell c) (fA w), s.descr (.cell c) (fB w)])) :
    MatrixRuns s c w (exec (.mmaMm (.cell c) w) s) [(s.descr (.cell c) (fC w)).plain, destOf s c w]
      (tilesOf ((List.range 5).map (fun k => max ((s.descr (.cell c) (fC w)).plain.extent k) ((destOf s c w).extent k)))).length
      (fun _ => True) := by
  show MatrixRuns s c w (execMmaMm (.cell c) w s) _ _ _
  unfold execMmaMm
  refine matrix_settles hp hoff hgo hc ho (by decide) hl rfl ⟨some (fC w), ?eff, ?lim, ?fits, ?act, fun v f hv => ?effect⟩
  case act =>
    dsimp only
    simp only [dispatched_descr, hm, hn, OfNat.ofNat_ne_one, if_true, if_false, Nat.reduceBEq, List.append_nil]
    rfl
  case effect =>
    have hcd : Dest c (s.descr (.cell c) (fC w)).plain := hgo.dest List.mem_cons_self rfl
    have hnd : Dest c (destOf s c w) := hgo.dest (List.mem_cons_of_mem _ List.mem_cons_self) rfl
    have hlog := hv.logged [s.descr (.cell c) (fA w), s.descr (.cell c) (fB w)]
    exact Wrote.tileEnded (hlog.anywhere.trans (narrowed_wrote hcd hnd hlog.ready _ _ _ _ _ _)) (sameOp_resid f _)
      (more := fun _ => True) trivial _ _ (mmResidual_tiles _ _ _ _ _ _ _ _ _)

end

end Sys2Proof.Machine
end

section
/-! O35: MM and the six NRM instructions. -/

namespace Sys2Proof.Machine

set_option Elab.async false

/-- Settles O35: each instruction joins the matrix queue through `engine_settles`, its destinations the only bytes written; one element of a
product through `tiled_word` and `mm_one`, the record of a row through `storeRecs_words`, a normalised row through `storeRecs_keeps`. -/
theorem matrixAndNormalisingInstructionsComplete : Obligations.MatrixAndNormalisingInstructionsComplete := by
  unfold Obligations.MatrixAndNormalisingInstructionsComplete
  intro c w s hp hoff x sn rm dd da db c0 tiles legal runs
  refine ⟨fun hc ho hl => ⟨fun hm hgo => ?product, fun hm hgo => ?sum, fun hm hgo => ?residual⟩, ?nrm⟩
  case product =>
    obtain ⟨t, hnext, hjoin, hbut, hboth, hholds⟩ := mm_product_runs hp hoff hc ho hl hm hgo
    exact ⟨t, hnext, hjoin, hbut, hboth, fun hf hn he hz _ _ hbad hsn => hholds hf hn he hz hbad hsn⟩
  case sum => exact mm_sum_runs hp hoff hc ho hl hm hgo
  case residual =>
    by_cases hn : wf w 59 1 = 1
    · rw [if_pos hn] at hgo ⊢
      rw [if_pos hn]
      exact mm_narrowed_runs hp hoff hc ho hl hm (beq_iff_eq.mpr hn) hgo
    · rw [if_neg hn] at hgo ⊢
      rw [if_neg hn]
      exact mm_residual_runs hp hoff hc ho hl hm (beq_eq_false_iff_ne.mpr hn) hgo
  case nrm =>
    intro hc at' ln recs
    refine ⟨fun ho hl hgo => ?stat, fun ho hl hgo => ?norm, fun ho hl hgo => ?normb, fun ho hl hgo => ?attf, fun ho hl hgo => ?attb,
      fun ho hl hgo => ?smxb⟩
    case stat => exact nrmStat_runs hp hoff hc ho hl hgo
    case norm => exact nrmNorm_runs hp hoff hc ho hl hgo
    case normb => exact nrmNormb_runs hp hoff hc ho hl hgo
    case attf => exact nrmAttf_runs hp hoff hc ho hl hgo
    case attb => exact nrmAttb_runs hp hoff hc ho hl hgo
    case smxb => exact nrmSmxb_runs hp hoff hc ho hl hgo

end Sys2Proof.Machine
end
